-- ==== Sys2Proof/Word.lean ====
section
/-! DEFINITION. The words of the block: a byte of the tile store, and the 32-bit register word of R726. -/
namespace Sys2Proof

/-- One byte of the tile store, of a ring entry or of a frame. -/
abbrev Byte := BitVec 8

/-- One hardware register (R726). -/
abbrev Word := BitVec 32

/-- The event sources of R507, 0 to 63, one bit each (EVT.PEND1 in the upper half). -/
abbrev EventBits := BitVec 64

end Sys2Proof
end

