-- ==== Sys2Proof/Machine/Float.lean ====
section
/-! DEFINITION. The binary32 arithmetic of the Instar engines (R20): one rounding, to nearest with
ties to even; a subnormal operand or result counts as a zero of its sign. Every operation takes its
operands to an exact integer times a power of two, computes exactly, and narrows once. -/
namespace Sys2Proof.Machine

/-- A binary32 value by its bits. -/
structure F32 where
  bits : BitVec 32
deriving DecidableEq, Repr, Inhabited

namespace F32

/-- The value whose bit pattern is the low 32 bits of `n`. -/
def ofBits (n : Int) : F32 := ⟨BitVec.ofInt 32 n⟩

/-- The bit pattern as a number. -/
def toBits (x : F32) : Int := (x.bits.toNat : Int)

def neg? (x : F32) : Bool := x.bits.toNat / 2147483648 = 1
def expo (x : F32) : Nat := x.bits.toNat / 8388608 % 256
def frac (x : F32) : Nat := x.bits.toNat % 8388608

/-- Infinity or not a number. -/
def special? (x : F32) : Bool := x.expo = 255
def nan? (x : F32) : Bool := x.special? && x.frac ≠ 0
def finite? (x : F32) : Bool := !x.special?

/-- The quiet not-a-number that an invalid operation gives. -/
def qnan : F32 := ofBits 0x7FC00000
def zero : F32 := ofBits 0
def one : F32 := ofBits 0x3F800000

def signed (neg : Bool) (magnitude : Nat) : F32 :=
  ofBits (if neg then 2147483648 + magnitude else magnitude)

def infinity (neg : Bool) : F32 := signed neg 0x7F800000

/-- The magnitude as an integer times 2 to a power; a subnormal is zero (R20). -/
def mant (x : F32) : Nat := if x.expo = 0 then 0 else 8388608 + x.frac
def scale (x : F32) : Int := (x.expo : Int) - 150

def zero? (x : F32) : Bool := x.expo = 0

/-- The magnitude `m` times 2 to the power `e`, `m` not 0, rounded to 24 bits to nearest with ties
to even: the rounded integer and its power. -/
def narrow (m : Nat) (e : Int) : Nat × Int :=
  let b := Nat.log2 m
  if b ≤ 23 then (m * 2 ^ (23 - b), e - (23 - b : Nat))
  else
    let sh := b - 23
    let q := m / 2 ^ sh
    let r := m % 2 ^ sh
    let half := 2 ^ (sh - 1)
    let up := decide (r > half) || (decide (r = half) && q % 2 == 1)
    let q := if up then q + 1 else q
    if q = 16777216 then (8388608, e + (sh : Nat) + 1) else (q, e + (sh : Nat))

/-- The exact value `m` times 2 to the power `e`, of the given sign, as binary32. -/
def round (neg : Bool) (m : Nat) (e : Int) : F32 :=
  if m = 0 then signed neg 0
  else
    let (q, e) := narrow m e
    let biased := e + 150
    if biased < 1 then signed neg 0
    else if biased > 254 then infinity neg
    else signed neg (biased.toNat * 8388608 + (q - 8388608))

/-- The exact signed value `m` times 2 to the power `e`; an exact zero is +0. -/
def roundInt (m : Int) (e : Int) : F32 := round (decide (m < 0)) m.natAbs e

/-- An integer as binary32. -/
def ofInt (i : Int) : F32 := roundInt i 0

/-- The fraction `n / d` as binary32, correctly rounded; `d` is not 0. -/
def ofFrac (n : Int) (d : Nat) : F32 :=
  let k := Nat.log2 d + 64
  let q := n.natAbs * 2 ^ k / d
  let sticky := if n.natAbs * 2 ^ k % d = 0 then 0 else 1
  round (decide (n < 0)) (2 * q + sticky) (-(k : Int) - 1)

def neg (x : F32) : F32 := ⟨x.bits ^^^ 0x80000000⟩
def abs (x : F32) : F32 := ⟨x.bits &&& 0x7FFFFFFF⟩

/-- The signed integer that holds `x` at the power `e`, `e` at most `x.scale`. -/
def atScale (x : F32) (e : Int) : Int :=
  let m := x.mant * 2 ^ (x.scale - e).toNat
  if x.neg? then -(m : Int) else m

def add (x y : F32) : F32 :=
  if x.nan? || y.nan? then qnan
  else if x.special? then (if y.special? && x.neg? != y.neg? then qnan else infinity x.neg?)
  else if y.special? then infinity y.neg?
  else if x.zero? && y.zero? then signed (x.neg? && y.neg?) 0
  else if x.zero? then y
  else if y.zero? then x
  else
    let e := min x.scale y.scale
    roundInt (x.atScale e + y.atScale e) e

def sub (x y : F32) : F32 := x.add y.neg

def mul (x y : F32) : F32 :=
  let s := x.neg? != y.neg?
  if x.nan? || y.nan? then qnan
  else if x.special? || y.special? then (if x.zero? || y.zero? then qnan else infinity s)
  else round s (x.mant * y.mant) (x.scale + y.scale)

def div (x y : F32) : F32 :=
  let s := x.neg? != y.neg?
  if x.nan? || y.nan? then qnan
  else if x.special? then (if y.special? then qnan else infinity s)
  else if y.special? then signed s 0
  else if y.zero? then (if x.zero? then qnan else infinity s)
  else
    let q := x.mant * 2 ^ 64 / y.mant
    let sticky := if x.mant * 2 ^ 64 % y.mant = 0 then 0 else 1
    round s (2 * q + sticky) (x.scale - y.scale - 65)

/-- The whole square root of `n`, from `k` bits down. -/
def isqrt (n : Nat) : Nat → Nat → Nat
  | 0, r => r
  | k + 1, r => isqrt n k (if (r + 2 ^ k) * (r + 2 ^ k) ≤ n then r + 2 ^ k else r)

def sqrt (x : F32) : F32 :=
  if x.zero? then signed x.neg? 0
  else if x.nan? || x.neg? then qnan
  else if x.special? then infinity false
  else
    let e := x.scale
    let odd := if e % 2 = 0 then 0 else 1
    let n := x.mant * 2 ^ (odd + 40)
    let r := isqrt n 34 0
    let sticky := if r * r = n then 0 else 1
    round false (2 * r + sticky) ((e - (odd + 40 : Nat)) / 2 - 1)

/-- `x < y`; false where either is not a number. -/
def lt (x y : F32) : Bool :=
  if x.nan? || y.nan? then false
  else if x.zero? && y.zero? then false
  else
    let key := fun (z : F32) => if z.zero? then (0 : Int) else
      if z.neg? then -(((z.bits &&& 0x7FFFFFFF).toNat : Nat) : Int) else (z.bits.toNat : Int)
    decide (key x < key y)

def le (x y : F32) : Bool := if x.nan? || y.nan? then false else !(y.lt x)
def eqv (x y : F32) : Bool := x.le y && y.le x

def min (x y : F32) : F32 := if y.lt x then y else x
def max (x y : F32) : F32 := if x.lt y then y else x

/-- `x` held between `lo` and `hi`. -/
def clamp (x lo hi : F32) : F32 := if x.lt lo then lo else if hi.lt x then hi else x

/-- −1, 0 or 1 by the sign of `x`. -/
def sgn (x : F32) : Int := if x.zero? then 0 else if x.neg? then -1 else 1

/-- The largest integer not above `x`; 0 for a special value. -/
def floor (x : F32) : Int :=
  if x.special? then 0
  else if 0 ≤ x.scale then x.atScale 0
  else (x.atScale x.scale) / (2 ^ (-x.scale).toNat : Nat)

/-- `x` to the nearest integer, halves up. -/
def nearest (x : F32) : Int :=
  if x.special? then 0
  else if 0 ≤ x.scale then x.atScale 0
  else (2 * x.atScale x.scale + (2 ^ (-x.scale).toNat : Nat)) / (2 * (2 ^ (-x.scale).toNat : Nat))

/-- Floor of `x` times the whole number `n`, exactly. -/
def floorMul (x : F32) (n : Nat) : Int :=
  if x.special? then 0
  else if 0 ≤ x.scale then x.atScale 0 * n
  else (x.atScale x.scale * n) / (2 ^ (-x.scale).toNat : Nat)

end F32
end Sys2Proof.Machine
end

