-- ==== Sys2Proof/Syntax.lean ====
section
/-! DEFINITION. The commands: one constructor per row of the opcode table, with what the row's command
carries. A host request carries its header (R514) and its payload's fields. An event carries what the
outside, or an engine's timing, decides: an instant, a sampled level, a received word, a copy's outcome.
Everything else is the state's. -/
namespace Sys2Proof

/-! ### What commands carry -/

/-- The header of a request (R514–R517): the ring it came in, 0 for ring 0 and 1 to 4 for a window, its
SEQ, its FLAGS bits and its CRC. -/
structure Rq where
  ring  : Fin 5
  seq   : Nat
  sec   : Bool
  prio  : Bool
  quiet : Bool
  crc   : Nat
deriving DecidableEq, Repr

/-- The header of an OBJ_WRITE to a member with a row of its own (R531): the request, the instance within
the member's class row, and the type code of the value. -/
structure Wq where
  rq   : Rq
  inst : Nat
  ty   : Nat
deriving DecidableEq, Repr

/-- The classes that have a CFG member (R528). -/
inductive CfgClass where
  | axis | mach | conv
deriving DecidableEq, Repr

/-- The debug port's instructions (R628). -/
inductive JtagInstr where
  | idcode | bypass | sample | extest | intest
deriving DecidableEq, Repr

/-- The memories that the debug port reaches (R609, R628): the tile store, an engine's local store, Teller SRAM and
Cocoon RAM. -/
inductive DebugMem where
  | tile
  | engine (e : Fin 8)
  | teller
  | cocoon
deriving DecidableEq, Repr

/-- A JTAG instruction, or an access of the debug port (R628, R629, R649). -/
inductive DebugOp where
  | load (i : JtagInstr)
  | readNonce
  | readReg (addr : Nat)
  | writeReg (addr value : Nat)
  | readRam (mem : DebugMem) (addr : Nat)
  | writeRam (mem : DebugMem) (addr value : Nat)
  | halt (on : Bool)
deriving DecidableEq, Repr

/-- The wake sources of R665, and PSREQ 0. -/
inductive WakeSrc where
  | spi (port : Fin 2)
  | pin (k : Fin 4)
  | dio
  | can (port : Fin 4)
  | alarm
deriving DecidableEq, Repr

/-- A tile that fails its tag where an evaluation, a load or a write-back uses it (R96, R97): a tile in the local store
of engine `e`; the task's home state tile in a bank, with its mirror good or not and a good copy in a local store or
not; a home code tile of the task's kind, with its mirror good or not. -/
inductive TileFind where
  | localTile (engine : Fin 8)
  | homeTile (bank : Fin 16) (mirrorOk localOk : Bool)
  | codeTile (bank : Fin 16) (mirrorOk : Bool)
deriving DecidableEq, Repr

/-- What Audit finds in the unit that it reads (R585, R586): a free tile or a placed tile of a task that fails its tag,
its mirror or a local copy good or not, a code tile of a task kind or its rewriting from the firmware image (R97), a
local-store tile, a Teller SRAM or MRAM word, corrected or not, or a Cocoon RAM byte. -/
inductive AuditFind where
  | clean (pass : Bool)
  | freeTile (tile : Fin 32768)
  | placedTile (bank : Fin 16) (task : Fin 168) (mirrorOk localOk : Bool)
  | codeTile (bank : Fin 16) (kind : Fin 9) (mirrorOk : Bool)
  | codeRewritten (kind : Fin 9)
  | localTile (engine : Fin 8)
  | sramWord (fixable : Bool)
  | mramWord (block : Fin 1024) (fixable : Bool)
  | mramRecord (which : Fin 6) (ring : Fin 4)
  | cocoonByte (addr : Fin 16384)
deriving DecidableEq, Repr

namespace Machine

/-- A returning frame as a port receives it (R383, R398): its direction, frame number, whether its header
and command CRC pass, whether it ended with EOF, its line errors, the sourcing position of a sourced
frame, its measured loop in units of 0.2 ns, and its response slots with their 64 bits. -/
structure FrameIn where
  dirB   : Bool
  fnum   : Nat
  hdrOk  : Bool := true
  ccrcOk : Bool := true
  eof    : Bool := true
  symErr : Nat := 0
  src    : Option Nat := none
  loop   : Nat := 0
  slots  : List (Nat × Nat) := []
deriving DecidableEq, Repr

/-- The bits that ΣΔ input `k` has sampled since the last ones, oldest first, the newest of them in timebase cycle `t`
(R151). -/
structure SdBits where
  k    : Nat
  t    : Nat := 0
  bits : List Bool := []
deriving DecidableEq, Repr

/-- What the comparison of a duplicated result and the engines' tile checks show at its handover: whether the two copies'
checks pass where they disagree (R90), and the local tiles found bad (R96). -/
structure Copies where
  pass  : Option (Bool × Bool) := none
  tiles : List TileFind := []
deriving DecidableEq, Repr

/-- How a port's read of a tile went: the data in time, the data late, or the chip select up before the last data byte
(R495, R497). -/
inductive Fetch where
  | inTime
  | late
  | cut
deriving DecidableEq, Repr

/-- Why an engine is faulted, by the cause number of R91, and the shadowed tasks whose shadow on it fails (R85). -/
structure EngineWhy where
  cause : Fin 5
  bad   : List (Fin 168) := []
deriving DecidableEq, Repr

/-- A received CAN frame: identifier, FLAGS of R569, timestamp in timebase cycles, data. -/
structure CanRx where
  flags : Nat
  id    : Nat
  ts    : Nat
  data  : List Byte
deriving DecidableEq, Repr

/-- A frame as a cell's receiver gets it (R391, R396, R407): the instant of its SOF at the receive pin in units of 0.2 ns
on the cell's own timebase, its header bytes, whether its command CRC passes, and the first slot of the response block
whose 8 bytes are all 0xFF as they pass. -/
structure CellRx where
  t      : Int
  hdr    : List Byte
  ccrcOk : Bool := true
  free   : Option Nat := none
deriving DecidableEq, Repr

/-- What a cell has in the frame of a mark (R387, R391, R397, R405): its place and identity, what its two receivers got,
its sample, the faults that its own protection finds as the STATUS bits [5:0], [13] and [15:14], and whether its
controller restarted and, if so, retained its slot, D_A, D_B and CGEN. -/
structure CellIn where
  ring   : Fin 4
  pos    : Fin 384
  uid    : Nat := 0
  ctype  : Nat := 0
  a      : Option CellRx := none
  b      : Option CellRx := none
  vcap   : Nat := 0
  isign  : Bool := false
  ival   : Bool := false
  temp   : Nat := 0
  status : Nat := 0
  restarted : Option Bool := none
deriving DecidableEq, Repr

/-- What the inputs and the fabric show at a mark: what the cells receive and sample in its frame, the ΣΔ bits, the migrations whose copy did not complete
or whose shadow did not match (R84, R85), the trace units whose next tile fails its tag, and the offset and
gain that a calibration conversion of the SAR converter shows (R587). -/
structure MarkIn where
  cells  : List CellIn := []
  sd     : List SdBits := []
  failed : List Nat := []
  differ : List Nat := []
  tagBad : Nat := 0
  sarOff : Int := 0
  sarGain : Int := 0
deriving DecidableEq, Repr

/-- One item of a parameter set or of OBJ_WRITE_MULTI (R539): address, type code, value. -/
structure PsetItem where
  addr : Nat
  ty   : Nat
  v    : Int
deriving DecidableEq, Repr

end Machine

open Machine

/-- The commands, in the order of the opcode table. -/
inductive Instr where
  -- time, evaluations and outputs
  | wingbeatMark (q : MarkIn)
  | halfMark (sd : List SdBits) (tagBad : Nat)
  | resultHandover (task : Fin 168) (half : Bool) (off : Nat) (copies : Copies)
  | deadline (task : Fin 168) (half : Bool)
  | traceReadoutBlock (u : Fin 4) (tagBad : Bool)
  | edgePlacement (leg : Fin 48)
  | gateEdge (leg : Fin 48) (low : Bool) (off : Nat)
  | rungChange (stage : Fin 16) (off : Nat)
  | sortFixedPoint
  -- reference, reset and start-up
  | multiplierLock
  | refQualified (lossUs : Nat)
  | refLoss
  | vernierCalibration (good : Bool)
  | powerOnReset (held : Bool)
  | brownout (rail : Fin 6)
  | nrstReset
  | watchdogPrewarning
  | watchdogReset
  | lockstepMismatch
  | engineSupervisorReset
  | tamper
  | resetStretchEnd (railsUp : Bool)
  | wipeComplete
  | optionsLoaded (strapA strapB optsOk lifeOk keysOk : Bool)
  | trimDone
  | nrstReleased
  | authenticateDone (romOk : Bool)
  | firmwareLoaded
  | earlyRelease
  -- host ports
  | spiWrite (port : Fin 2) (sec : Bool) (space addr : Nat) (data : List Byte) (crcOk cut : Bool)
  | spiRead (port : Fin 2) (sec : Bool) (space addr n : Nat) (crcOk : Bool) (fetched : Fetch) (tagBad : Bool)
  | quadExit (port : Fin 2)
  | writeBufferCommit (port : Fin 2)
  | doorbell (port : Fin 2) (ring : Fin 16) (index : Nat)
  | estop (port : Fin 2) (index : Nat) (take : Bool)
  | ringAgeTimeout (ring : Fin 16)
  | alarmFlush
  -- requests
  | nop (rq : Rq) (payload : List Byte)
  | ident (rq : Rq)
  | status (rq : Rq)
  | challenge (rq : Rq)
  | objRead (rq : Rq) (addr : Nat)
  | objWrite (rq : Rq) (item : PsetItem)
  | objReadMulti (rq : Rq) (addrs : List Nat)
  | objWriteMulti (rq : Rq) (items : List PsetItem)
  | blockRead (rq : Rq) (addr n : Nat)
  | blockWrite (rq : Rq) (addr ty : Nat) (vals : List Int)
  | dictRead (rq : Rq) (addr n : Nat)
  | regRead (rq : Rq) (addr n : Nat)
  | regWrite (rq : Rq) (addr mask value : Nat)
  | ledgerRead (rq : Rq) (recno n : Nat)
  | cellSvc (rq : Rq) (ring op slot addr : Nat) (data : List Byte)
  | cellSvcDone (ring : Fin 4) (rsts : Nat) (data : List Byte)
  | canTx (rq : Rq) (port flags id : Nat) (data : List Byte)
  | reset (rq : Rq) (nonce sig : Nat)
  | resetExecute
  | fwBegin (rq : Rq) (slot length version : Nat)
  | fwData (rq : Rq) (offset : Nat) (data : List Byte)
  | fwEnd (rq : Rq) (digest sig : Nat)
  | lifeReq (rq : Rq) (target nonce sig : Nat)
  | lifeChange
  | stop (rq : Rq) (mask cat scope : Nat)
  | emode (rq : Rq) (mask mode : Nat)
  | psetOpen (rq : Rq)
  | psetStage (rq : Rq) (handle first : Nat) (items : List PsetItem)
  | psetVerify (rq : Rq) (handle : Nat) (sig : Option Nat)
  | psetCommit (rq : Rq) (handle digest : Nat)
  | psetAbort (rq : Rq) (handle : Nat)
  | psetStore (rq : Rq) (handle slot : Nat)
  | psetLoad (rq : Rq) (slot : Nat)
  | psetInfo (rq : Rq) (slot : Nat)
  | psetTimeout
  | deferredCompletion (k : Nat)
  | v1Status (rq : Rq) (addr : Nat)
  | v1Move (rq : Rq) (addr ty flags : Nat) (speed target : Int)
  | v1Tune (rq : Rq) (addr subop : Nat) (atd : Int)
  -- device-wide settings
  | wingbeatWrite (w : Wq) (v : Int)
  | dutyWrite (w : Wq) (v : Int)
  | setpointWrite (w : Wq) (v : Int)
  | setpointMoveDone
  | vengMiss
  | viddioWrite (w : Wq) (v : Int)
  | cfgCommit (w : Wq) (c : CfgClass)
  | cfgDeconfigure (w : Wq) (c : CfgClass)
  | placed (task : Fin 168)
  -- stages, legs, trips
  | stageEnable (w : Wq)
  | stageDisable (w : Wq)
  | stageClear (w : Wq)
  | diagStart (w : Wq)
  | diagStepEnd (stage : Fin 16) (pins : List Nat)
  | prechargeEnd (stage : Fin 16)
  | shutdownAck (stage : Fin 16)
  | dischargeEnd (stage : Fin 16) (elapsed : Bool)
  | gaChange (leg : Fin 48) (low level : Bool)
  | ackOnTimeout (leg : Fin 48) (low : Bool)
  | ackOffTimeout (leg : Fin 48) (low : Bool)
  | tripAssert (n : Fin 16)
  | tripRelease (n : Fin 16)
  | tripWindowEnd
  -- ΣΔ and analogue inputs
  | sdTrip (q : SdBits) (off : Nat)
  | sdLost (q : SdBits)
  | offsetCapture (k : Fin 48) (off : Nat)
  | sdClear (w : Wq)
  | gainref (w : Wq) (v : Int) (more : List Nat)
  | ainConversion (n : Fin 8) (codes : List Nat) (skips : Nat)
  -- STO
  | stoActive (a b : Bool)
  | stoRelease
  | stoDiscrepancy
  | stoReadback (pin : Fin 96)
  | stofbRise
  | stoClear (w : Wq)
  -- digital inputs and feedback
  | dioEdge (n : Fin 32) (level : Bool) (t glitches : Nat)
  | dioWindowEnd
  | dioStuck (n : Fin 32)
  | dioClear (w : Wq)
  | fbEdge (n : Fin 16) (pin : Fin 3) (level both : Bool) (t glitches : Nat)
  | fbStuck (n : Fin 16) (index : Bool)
  | ssiTransferDone (n : Fin 16) (low : Bool) (word : Nat)
  | fbEnable (w : Wq) (v : Int)
  | fbSel (w : Wq) (v : Int)
  | fbClear (w : Wq)
  | posset (w : Wq) (v : Int)
  | idxarm (w : Wq)
  -- CAN
  | canFrameReceived (port : Fin 4) (f : CanRx)
  | stopMatch (port : Fin 4) (f : CanRx)
  | canTxDone (port : Fin 4)
  | canError (port : Fin 4) (tx tdc : Bool) (dtec drec : Nat)
  | busOffRecovery (port : Fin 4)
  | protocolException (port : Fin 4)
  | partnerSilent (p : Fin 256)
  | partnerEnableTimeout (p : Fin 256)
  | canEnable (w : Wq)
  | canDisable (w : Wq)
  | canRecover (w : Wq)
  | restrWrite (w : Wq) (v : Int)
  | partEnable (w : Wq) (v : Int)
  | canResetRequest (port : Fin 4) (f : CanRx)
  | canResetSignature (port : Fin 4) (f : CanRx)
  | canRemoteReset (port : Fin 4)
  -- cell rings
  | linkLock (ring : Fin 4)
  | linktmo (ring : Fin 4)
  | enumerationDone (ring : Fin 4) (a b : List (Nat × Nat)) (la lb : Nat) (da : List Nat)
  | enumtmo (ring : Fin 4)
  | blockingReady (ring : Fin 4) (uids : List Nat)
  | responseReceived (ring : Fin 4) (f : FrameIn)
  | portLoss (ring : Fin 4) (dirB : Bool)
  | ringEnable (w : Wq) (v : Int)
  | ringRun (w : Wq) (v : Int)
  | cellApply (ring : Fin 4) (pos : Fin 384) (a b : Option Nat) (dead : Bool)
  | cellDirectionLoss (ring : Fin 4) (pos : Fin 384) (dirB : Bool)
  | cellBlock (ring : Fin 4) (pos : Fin 384)
  -- converters
  | convEnable (w : Wq) (v : Int)
  | convChargeDone (c : Fin 8)
  | balanceDone (c : Fin 8)
  | mainContactDone (c : Fin 8)
  | prechargeFail (c : Fin 8)
  | convShutdownDone (c : Fin 8)
  | convDischargeDone (c : Fin 8) (elapsed : Bool)
  | convClear (w : Wq)
  | cellClear (w : Wq)
  | cellExcl (w : Wq) (v : Int)
  | cellRetire (w : Wq) (v : Int)
  -- machines, axes, loops, motion
  | machEnable (w : Wq) (v : Int)
  | machClear (w : Wq)
  | axisEnable (w : Wq) (v : Int)
  | push (w : Wq) (v : Int)
  | flush (w : Wq)
  | freeze (w : Wq) (v : Int)
  | ipreset (w : Wq) (v : Int)
  | freezeTimeout (loop : Fin 96)
  | atstart (w : Wq) (v : Int)
  | autotuneTimeout (loop : Fin 96)
  | traceArm (w : Wq)
  | trignow (w : Wq)
  | traceRead (w : Wq)
  | ffActive (w : Wq) (v : Int)
  | spack (w : Wq)
  | styleWrite (w : Wq) (v : Int)
  | patternSrc (w : Wq) (v : Int)
  | brakeApplyDelay (axis : Fin 16)
  | holdReduction (axis : Fin 16)
  | brakeTimeout (axis : Fin 16)
  | giveRecover (axis : Fin 16)
  | giveRecovered (axis : Fin 16)
  | giveTimeout (axis : Fin 16)
  | memberDisable (mach : Fin 32)
  | poolTorqueDev (mach : Fin 32)
  | feedbackHoldEnd (axis : Fin 16)
  -- stops
  | stopRequest (w : Wq) (v : Int)
  | stopEreq (w : Wq) (v : Int)
  | stopAck (w : Wq)
  | sourceClear (w : Wq)
  | stopRest (axis : Fin 16)
  | brakeSet (axis : Fin 16) (elapsed : Bool)
  | stopTimeout (axis : Fin 16)
  | stopComplete
  | supholdEnd
  | ridethruEnd (axis : Fin 16)
  | ridethruFail (axis : Fin 16)
  -- temperature
  | thermalSample (reading : F32)
  | throttleDown
  | tclear (w : Wq)
  | rclear (w : Wq)
  | perchRetry
  -- engines
  | engineFault (e : Fin 8) (why : EngineWhy)
  | taskOverrun (task : Fin 168)
  | engineTestStart
  | engineTestDone (pass : Bool) (ms : F32)
  | retiredClear (w : Wq) (v : Int)
  -- security, counters, power
  | keyBurn (w : Wq)
  | dsgen (w : Wq)
  | arbcommit (w : Wq)
  | fwrevoke (w : Wq)
  | debugUnlock (sig : Nat)
  | reserveCommit (w : Wq)
  | counterCommit
  | psreq (w : Wq) (v : Int)
  | powerEntry
  | wake (src : WakeSrc)
  | wakeExitDone (crcOk : Bool) (ms : Nat)
  | auditScrub (find : AuditFind)
  | ledgerWrite
  | seal
  | tdecHalving (stream : Fin 8)
  | badFrame (rq : Rq) (opcode : Nat)
  | busIntegration (port : Fin 4)
  | arbitrationLost (port : Fin 4)
  | comparePulseEnd (c : Fin 4)
  | calStale (which : Fin 3)
  | diodeCalibration (corr : F32)
  | otpBurnVerified (ok : Bool)
  | reserveCommitDone
  | tabcrcCheck (bad : Nat)
  | fallbackBlockFrame
  | wbcountInternalAdvance
  | debugAccess (op : DebugOp)
  | receiverWordLock (ring : Fin 4) (dirB : Bool)
deriving DecidableEq, Repr

end Sys2Proof
end

