-- ==== Sys2Proof/Config.lean ====
section
/-! DEFINITION. What an implementation of the block fixes and the spec leaves open. Every constant here
is opaque: nothing can be proved of its value, so a claim about the block holds for every value. -/
namespace Sys2Proof.Config
open Sys2Proof.Machine (F32)

/-- The device UID burnt at Nymven (R614). -/
opaque uid : BitVec 64
/-- Silicon revision and Aethino build (R499, R530). -/
opaque siliconRevision : BitVec 8
opaque aethinoBuild : BitVec 16
/-- SHA-256 of a byte string, as 32 bytes (R535, R596): the spec names the function, and no claim of
this model rests on its values. -/
opaque sha256 : List Byte → BitVec 256
/-- Whether a 64-byte ECDSA P-256 signature over a digest verifies under a public key (R618). -/
opaque ecdsaVerify : (key : Nat) → (digest : BitVec 256) → (signature : Nat) → Bool
/-- The ECDSA P-256 signature that the Ledger signing key makes over a digest (R596). -/
opaque ecdsaSign : (deviceSecret : Nat) → (digest : BitVec 256) → Nat
/-- The public key published for the Ledger signing key (R617). -/
opaque ledgerPublicKey : (deviceSecret : Nat) → BitVec 512
/-- Whether 64 bytes are a point on P-256 (R615). -/
opaque onCurve : Nat → Bool
/-- The keys in boot ROM: the evaluation firmware key and the return key (R618). -/
opaque nepk : Nat
opaque nrpk : Nat
/-- The error of the engines' sine and cosine in units in the last place, of which at most one is used, and of their
arc tangent in 2^-32 revolution, of which at most 128 is used (log entry 8). -/
opaque sinUlp : Nat → Int
opaque cosUlp : Nat → Int
opaque atanOff : F32 → F32 → Int
/-- Free values of the state: the k-th value that the spec leaves open, of 32 bits, of any width, and
one bit (log entry 6). -/
opaque freeWord : Nat → BitVec 32
opaque freeInt : Nat → Int
opaque freeBit : Nat → Bool
/-- The factory angle tables of boot ROM: pattern p, row j, angle i (R327). -/
opaque factoryAngle : (p j i : Nat) → BitVec 16
/-- The bytes of boot ROM, 2 MiB: the Chrysalis loader and the base image (R22). -/
opaque bootRom : (addr : Nat) → BitVec 8
/-- The forwarding delays f_A and f_B of the cell with a UID, in units of 0.2 ns: fixed by the cell's design (R381). -/
opaque cellDelayA : (uid : Nat) → BitVec 16
opaque cellDelayB : (uid : Nat) → BitVec 16
/-- The 16 bytes of the k-th nonce (R619), and the k-th 32 bytes of CRYPT's entropy source (R616). -/
opaque nonce : Nat → BitVec 128
opaque entropy : Nat → BitVec 256

end Sys2Proof.Config
end

