-- ==== Sys2Proof/Machine/Member.lean ====
section
/-! DEFINITION. What describes a member of the object dictionary: its class and instances (R524), its
number (R525), its type (R529), its access (R11, R532), its range and its reset value. -/
namespace Sys2Proof.Machine

/-- The value types of R529. -/
inductive Ty where
  | u8 | i8 | u16 | i16 | u32 | i32 | u64 | i64 | f32 | o16
deriving DecidableEq, Repr

/-- The accesses of a member: RO, RW, WO, W1C, RW-S (a write needs the secure world) and a WO member
that needs it. -/
inductive Acc where
  | ro | rw | wo | w1c | rws | wos
deriving DecidableEq, Repr

/-- The static range of a member. A float bound is given by its binary32 bits. -/
inductive Rng where
  | any                              -- every value of the type
  | int (lo hi : Int)                -- lo to hi
  | intOr (lo hi x : Int)            -- lo to hi, or x
  | step (lo hi st : Int)            -- lo to hi in steps of st
  | oneOf (l : List Int)
  | nz                               -- not 0
  | zeroOr (lo hi : Int)             -- 0, or lo to hi
  | twTo (hi : Int)                  -- T_w in µs to hi
  | zeroOrTwTo (hi : Int)            -- 0, or T_w in µs to hi
  | belowTw                          -- 0 to T_w less one timebase cycle
  | belowCpr                         -- 0 to CPR less 1
  | srcT                             -- 0x00–0x07, 0x100–0x1FF, 0xFFFF
  | srcB                             -- 0x00–0x1F, 0x100–0x1FF, 0xFFFF
  | canId                            -- [31] IDE, [28:0] identifier
  | clr                              -- a counter: a write of 0 clears, any other value is refused
  | flt (lo hi : Int)
  | fltGe0
  | fltGt0
  | fltNz                            -- not 0
  | fltOr0 (lo hi : Int)             -- 0, or lo to hi
  | fltMul25 (lo hi : Int)           -- lo to hi times 2.5
  | fltQ (lo hi : Int)               -- lo to hi times 0.25
deriving DecidableEq, Repr

/-- One row of the object dictionary. Instance `i` of the row, 0 ≤ i < `n`, is instance `lo + i` of
class `cls`; element `x` of an indexed member has the number `num + x` (R525). `dsel` names a reset
value that depends on the instance or element; 0 where `dflt` is the value of all. -/
structure Mem where
  name : String
  cls  : Nat
  lo   : Nat
  n    : Nat
  num  : Nat
  cnt  : Nat := 1
  ty   : Ty
  acc  : Acc
  rng  : Rng
  dflt : Int := 0
  dsel : Nat := 0
deriving DecidableEq, Repr

/-- The object address of element `x` of the member in instance `i` of its row (R12, R524). -/
def Mem.key (m : Mem) (i : Nat) (x : Nat := 0) : Nat :=
  m.cls * 16777216 + (m.lo + i) * 4096 + (m.num + x)

/-- The bytes of a value (R529). -/
def Ty.bytes : Ty → Nat
  | .u8 | .i8 => 1
  | .u16 | .i16 => 2
  | .u32 | .i32 | .f32 => 4
  | .u64 | .i64 => 8
  | .o16 => 16

/-- The type code of a value (R529). -/
def Ty.code : Ty → Nat
  | .u8 => 1 | .i8 => 2 | .u16 => 3 | .i16 => 4 | .u32 => 5 | .i32 => 6
  | .u64 => 7 | .i64 => 8 | .f32 => 9 | .o16 => 10

def Ty.signed : Ty → Bool
  | .i8 | .i16 | .i32 | .i64 => true
  | _ => false

/-- The values a type holds. -/
def Ty.holds (t : Ty) (v : Int) : Bool :=
  if t.signed then decide (-(2 ^ (8 * t.bytes - 1) : Nat) ≤ v) && decide (v < (2 ^ (8 * t.bytes - 1) : Nat))
  else decide (0 ≤ v) && decide (v < (2 ^ (8 * t.bytes) : Nat))

/-- The access code that DICT_READ reports (R532): 1 RO, 2 RW, 3 WO, 4 W1C, 6 RW-S. -/
def Acc.code : Acc → Nat
  | .ro => 1 | .rw => 2 | .wo => 3 | .w1c => 4 | .rws => 6 | .wos => 3

end Sys2Proof.Machine
end

