-- ==== Sys2Proof/Machine/DictA.lean ====
section
/-! DEFINITION. The object dictionary, part 1 of 4: one row per member table of the chapters, in their order.
The spec fixes the members' names, types, ranges, defaults and accesses, the numbers 0x000–0x002 and the table
members' numbers; the other numbers are those DICT_READ returns, consecutive here (DESIGN CHOICE, log entry 3). -/
namespace Sys2Proof.Machine

/-! Class SYS (R23, R657, R479, R515). -/
def SYS.WINGBEAT : Mem := { name := "WINGBEAT", cls := 1, lo := 0, n := 1, num := 3, ty := .u32, acc := .rw, rng := .step 10000 100000 2500, dflt := 20000 }
def SYS.WBCOUNT : Mem := { name := "WBCOUNT", cls := 1, lo := 0, n := 1, num := 4, ty := .u64, acc := .ro, rng := .any }
def SYS.RSTCAUSE : Mem := { name := "RSTCAUSE", cls := 1, lo := 0, n := 1, num := 5, ty := .u8, acc := .ro, rng := .any }
def SYS.BOOTCNT : Mem := { name := "BOOTCNT", cls := 1, lo := 0, n := 1, num := 6, ty := .u32, acc := .ro, rng := .any }
def SYS.REFLOSSCNT : Mem := { name := "REFLOSSCNT", cls := 1, lo := 0, n := 1, num := 7, ty := .u32, acc := .rw, rng := .clr }
def SYS.MBCAUSE : Mem := { name := "MBCAUSE", cls := 1, lo := 0, n := 1, num := 8, ty := .u8, acc := .ro, rng := .any }
def SYS.BADFRM : Mem := { name := "BADFRM", cls := 1, lo := 0, n := 1, num := 9, ty := .u32, acc := .rw, rng := .clr }

def SYS.rows : List Mem := [SYS.WINGBEAT, SYS.WBCOUNT, SYS.RSTCAUSE, SYS.BOOTCNT, SYS.REFLOSSCNT, SYS.MBCAUSE, SYS.BADFRM]

/-! Class LIFE (R633). -/
def LIFE.STATE : Mem := { name := "STATE", cls := 2, lo := 0, n := 1, num := 3, ty := .u8, acc := .ro, rng := .any }
def LIFE.SVCUSED : Mem := { name := "SVCUSED", cls := 2, lo := 0, n := 1, num := 4, ty := .u8, acc := .ro, rng := .any }

def LIFE.rows : List Mem := [LIFE.STATE, LIFE.SVCUSED]

/-! Class POWER (R59, R678, R701). -/
def POWER.SETPOINT : Mem := { name := "SETPOINT", cls := 3, lo := 0, n := 1, num := 3, ty := .u8, acc := .rw, rng := .int 0 2 }
def POWER.SPSTATE : Mem := { name := "SPSTATE", cls := 3, lo := 0, n := 1, num := 4, ty := .u8, acc := .ro, rng := .any }
def POWER.VENG : Mem := { name := "VENG", cls := 3, lo := 0, n := 1, num := 5, ty := .u16, acc := .ro, rng := .any }
def POWER.PSREQ : Mem := { name := "PSREQ", cls := 3, lo := 0, n := 1, num := 6, ty := .u8, acc := .wo, rng := .int 0 5 }
def POWER.PSTATE : Mem := { name := "PSTATE", cls := 3, lo := 0, n := 1, num := 7, ty := .u8, acc := .ro, rng := .any }
def POWER.WAKEEN : Mem := { name := "WAKEEN", cls := 3, lo := 0, n := 1, num := 8, ty := .u16, acc := .rw, rng := .int 0 0xFFF, dflt := 3 }
def POWER.WKPOL : Mem := { name := "WKPOL", cls := 3, lo := 0, n := 1, num := 9, ty := .u8, acc := .rw, rng := .int 0 15 }
def POWER.ALARM : Mem := { name := "ALARM", cls := 3, lo := 0, n := 1, num := 10, ty := .u32, acc := .rw, rng := .any }
def POWER.WAKECAUSE : Mem := { name := "WAKECAUSE", cls := 3, lo := 0, n := 1, num := 11, ty := .u8, acc := .ro, rng := .any }
def POWER.WAKEPEND : Mem := { name := "WAKEPEND", cls := 3, lo := 0, n := 1, num := 12, ty := .u16, acc := .w1c, rng := .any }
def POWER.VIDDIO : Mem := { name := "VIDDIO", cls := 3, lo := 0, n := 1, num := 13, ty := .u8, acc := .rw, rng := .intOr 0 29 255, dflt := 255 }

def POWER.rows : List Mem := [POWER.SETPOINT, POWER.SPSTATE, POWER.VENG, POWER.PSREQ, POWER.PSTATE, POWER.WAKEEN, POWER.WKPOL, POWER.ALARM, POWER.WAKECAUSE, POWER.WAKEPEND, POWER.VIDDIO]

/-! Class PROFILE (R56). -/
def PROFILE.DUTY : Mem := { name := "DUTY", cls := 4, lo := 0, n := 1, num := 3, ty := .u8, acc := .rw, rng := .int 0 1 }
def PROFILE.STATE : Mem := { name := "STATE", cls := 4, lo := 0, n := 1, num := 4, ty := .u8, acc := .ro, rng := .any }
def PROFILE.UNPAIRED : Mem := { name := "UNPAIRED", cls := 4, lo := 0, n := 1, num := 5, ty := .u16, acc := .ro, rng := .any }

def PROFILE.rows : List Mem := [PROFILE.DUTY, PROFILE.STATE, PROFILE.UNPAIRED]

/-! Class AXIS (R528, R525, R215, R52, R78, R679). -/
def AXIS.CFG : Mem := { name := "CFG", cls := 5, lo := 0, n := 16, num := 2, ty := .u8, acc := .rw, rng := .int 0 1 }
def AXIS.ENABLE : Mem := { name := "ENABLE", cls := 5, lo := 0, n := 16, num := 1, ty := .u8, acc := .rw, rng := .int 0 1 }
def AXIS.MODE : Mem := { name := "MODE", cls := 5, lo := 0, n := 16, num := 3, ty := .u8, acc := .rw, rng := .int 0 4 }
def AXIS.REFM : Mem := { name := "REFM", cls := 5, lo := 0, n := 16, num := 4, ty := .u8, acc := .rw, rng := .int 0 31, dsel := 9 }
def AXIS.FBPOS : Mem := { name := "FBPOS", cls := 5, lo := 0, n := 16, num := 5, ty := .u8, acc := .rw, rng := .intOr 0 15 255, dflt := 255 }
def AXIS.FBSPD : Mem := { name := "FBSPD", cls := 5, lo := 0, n := 16, num := 6, ty := .u8, acc := .rw, rng := .intOr 0 15 255, dflt := 255 }
def AXIS.PRNUM : Mem := { name := "PRNUM", cls := 5, lo := 0, n := 16, num := 7, ty := .i32, acc := .rw, rng := .nz, dflt := 1 }
def AXIS.SRNUM : Mem := { name := "SRNUM", cls := 5, lo := 0, n := 16, num := 8, ty := .i32, acc := .rw, rng := .nz, dflt := 1 }
def AXIS.PRDEN : Mem := { name := "PRDEN", cls := 5, lo := 0, n := 16, num := 9, ty := .u32, acc := .rw, rng := .int 1 4294967295, dflt := 1 }
def AXIS.SRDEN : Mem := { name := "SRDEN", cls := 5, lo := 0, n := 16, num := 10, ty := .u32, acc := .rw, rng := .int 1 4294967295, dflt := 1 }
def AXIS.SPSRC : Mem := { name := "SPSRC", cls := 5, lo := 0, n := 16, num := 11, ty := .u8, acc := .rw, rng := .int 0 4, dflt := 1 }
def AXIS.SPIDX : Mem := { name := "SPIDX", cls := 5, lo := 0, n := 16, num := 12, ty := .u16, acc := .rw, rng := .any }
def AXIS.SPGAIN : Mem := { name := "SPGAIN", cls := 5, lo := 0, n := 16, num := 13, ty := .f32, acc := .rw, rng := .any, dflt := 0x3f800000 }
def AXIS.SPOFFS : Mem := { name := "SPOFFS", cls := 5, lo := 0, n := 16, num := 14, ty := .f32, acc := .rw, rng := .any }
def AXIS.SPMIN : Mem := { name := "SPMIN", cls := 5, lo := 0, n := 16, num := 15, ty := .f32, acc := .rw, rng := .any, dflt := 0xff7fc99e }
def AXIS.SPMAX : Mem := { name := "SPMAX", cls := 5, lo := 0, n := 16, num := 16, ty := .f32, acc := .rw, rng := .any, dflt := 0x7f7fc99e }
def AXIS.SPRAMP : Mem := { name := "SPRAMP", cls := 5, lo := 0, n := 16, num := 17, ty := .f32, acc := .rw, rng := .fltGe0 }
def AXIS.SPINVAL : Mem := { name := "SPINVAL", cls := 5, lo := 0, n := 16, num := 18, ty := .u8, acc := .rw, rng := .int 0 2, dflt := 1 }
def AXIS.SPACK : Mem := { name := "SPACK", cls := 5, lo := 0, n := 16, num := 19, ty := .u8, acc := .wo, rng := .int 1 1 }
def AXIS.SETPT : Mem := { name := "SETPT", cls := 5, lo := 0, n := 16, num := 20, ty := .f32, acc := .rw, rng := .any }
def AXIS.TSRC : Mem := { name := "TSRC", cls := 5, lo := 0, n := 16, num := 21, ty := .u16, acc := .rw, rng := .srcT, dflt := 65535 }
def AXIS.TFF : Mem := { name := "TFF", cls := 5, lo := 0, n := 16, num := 22, ty := .f32, acc := .rw, rng := .any }
def AXIS.VMAXT : Mem := { name := "VMAXT", cls := 5, lo := 0, n := 16, num := 23, ty := .f32, acc := .rw, rng := .fltGe0 }
def AXIS.KPV : Mem := { name := "KPV", cls := 5, lo := 0, n := 16, num := 24, ty := .f32, acc := .rw, rng := .fltGe0 }
def AXIS.KVFF : Mem := { name := "KVFF", cls := 5, lo := 0, n := 16, num := 25, ty := .f32, acc := .rw, rng := .flt 0x00000000 0x3F99999A, dflt := 0x3f800000 }
def AXIS.JFF : Mem := { name := "JFF", cls := 5, lo := 0, n := 16, num := 26, ty := .f32, acc := .rw, rng := .fltGe0 }
def AXIS.OBSFF : Mem := { name := "OBSFF", cls := 5, lo := 0, n := 16, num := 27, ty := .u8, acc := .rw, rng := .int 0 1 }
def AXIS.OBSSPD : Mem := { name := "OBSSPD", cls := 5, lo := 0, n := 16, num := 28, ty := .u8, acc := .rw, rng := .int 0 1 }
def AXIS.VMAX : Mem := { name := "VMAX", cls := 5, lo := 0, n := 16, num := 29, ty := .f32, acc := .rw, rng := .fltGe0 }
def AXIS.TMAXP : Mem := { name := "TMAXP", cls := 5, lo := 0, n := 16, num := 30, ty := .f32, acc := .rw, rng := .fltGe0 }
def AXIS.TMAXN : Mem := { name := "TMAXN", cls := 5, lo := 0, n := 16, num := 31, ty := .f32, acc := .rw, rng := .fltGe0 }
def AXIS.FOLLOWMAX : Mem := { name := "FOLLOWMAX", cls := 5, lo := 0, n := 16, num := 32, ty := .f32, acc := .rw, rng := .fltGe0 }
def AXIS.VERRMAX : Mem := { name := "VERRMAX", cls := 5, lo := 0, n := 16, num := 33, ty := .f32, acc := .rw, rng := .fltGe0 }
def AXIS.VERRT : Mem := { name := "VERRT", cls := 5, lo := 0, n := 16, num := 34, ty := .u32, acc := .rw, rng := .int 1 60000, dflt := 100 }
def AXIS.OVSPD : Mem := { name := "OVSPD", cls := 5, lo := 0, n := 16, num := 35, ty := .f32, acc := .rw, rng := .fltGe0 }
def AXIS.OVSTOP : Mem := { name := "OVSTOP", cls := 5, lo := 0, n := 16, num := 36, ty := .u8, acc := .rw, rng := .int 0 2 }
def AXIS.FSTOP : Mem := { name := "FSTOP", cls := 5, lo := 0, n := 16, num := 37, ty := .u8, acc := .rw, rng := .int 0 2 }
def AXIS.FBFSTOP : Mem := { name := "FBFSTOP", cls := 5, lo := 0, n := 16, num := 38, ty := .u8, acc := .rw, rng := .int 0 2 }
def AXIS.HOLDT : Mem := { name := "HOLDT", cls := 5, lo := 0, n := 16, num := 39, ty := .u32, acc := .rw, rng := .int 0 10000, dflt := 500 }
def AXIS.POS : Mem := { name := "POS", cls := 5, lo := 0, n := 16, num := 40, ty := .i64, acc := .ro, rng := .any }
def AXIS.SPD : Mem := { name := "SPD", cls := 5, lo := 0, n := 16, num := 41, ty := .f32, acc := .ro, rng := .any }
def AXIS.TDEM : Mem := { name := "TDEM", cls := 5, lo := 0, n := 16, num := 42, ty := .f32, acc := .ro, rng := .any }
def AXIS.EXTRAP : Mem := { name := "EXTRAP", cls := 5, lo := 0, n := 16, num := 43, ty := .u8, acc := .rw, rng := .int 0 1 }
def AXIS.LATECNT : Mem := { name := "LATECNT", cls := 5, lo := 0, n := 16, num := 44, ty := .u32, acc := .rw, rng := .clr }
def AXIS.LATERUN : Mem := { name := "LATERUN", cls := 5, lo := 0, n := 16, num := 45, ty := .u16, acc := .ro, rng := .any }
def AXIS.LATEWARN : Mem := { name := "LATEWARN", cls := 5, lo := 0, n := 16, num := 46, ty := .u16, acc := .rw, rng := .int 0 1024, dflt := 16 }
def AXIS.LATEMAX : Mem := { name := "LATEMAX", cls := 5, lo := 0, n := 16, num := 47, ty := .u8, acc := .rw, rng := .int 1 16, dflt := 3 }
def AXIS.LATEBLK : Mem := { name := "LATEBLK", cls := 5, lo := 0, n := 16, num := 48, ty := .u16, acc := .ro, rng := .any }
def AXIS.CRIT : Mem := { name := "CRIT", cls := 5, lo := 0, n := 16, num := 49, ty := .u8, acc := .rw, rng := .int 0 1 }
def AXIS.PIN : Mem := { name := "PIN", cls := 5, lo := 0, n := 16, num := 50, ty := .u8, acc := .rw, rng := .int 1 255, dflt := 255 }
def AXIS.THRDEC : Mem := { name := "THRDEC", cls := 5, lo := 0, n := 16, num := 51, ty := .u8, acc := .rw, rng := .int 1 4, dflt := 1 }

def AXIS.rows : List Mem := [AXIS.CFG, AXIS.ENABLE, AXIS.MODE, AXIS.REFM, AXIS.FBPOS, AXIS.FBSPD, AXIS.PRNUM, AXIS.SRNUM, AXIS.PRDEN, AXIS.SRDEN, AXIS.SPSRC, AXIS.SPIDX, AXIS.SPGAIN, AXIS.SPOFFS, AXIS.SPMIN, AXIS.SPMAX, AXIS.SPRAMP, AXIS.SPINVAL, AXIS.SPACK, AXIS.SETPT, AXIS.TSRC, AXIS.TFF, AXIS.VMAXT, AXIS.KPV, AXIS.KVFF, AXIS.JFF, AXIS.OBSFF, AXIS.OBSSPD, AXIS.VMAX, AXIS.TMAXP, AXIS.TMAXN, AXIS.FOLLOWMAX, AXIS.VERRMAX, AXIS.VERRT, AXIS.OVSPD, AXIS.OVSTOP, AXIS.FSTOP, AXIS.FBFSTOP, AXIS.HOLDT, AXIS.POS, AXIS.SPD, AXIS.TDEM, AXIS.EXTRAP, AXIS.LATECNT, AXIS.LATERUN, AXIS.LATEWARN, AXIS.LATEMAX, AXIS.LATEBLK, AXIS.CRIT, AXIS.PIN, AXIS.THRDEC]

/-! Class MACH (R528, R525, R214, R52, R78, R281, R311, R343). -/
def MACH.CFG : Mem := { name := "CFG", cls := 6, lo := 0, n := 32, num := 2, ty := .u8, acc := .rw, rng := .int 0 1 }
def MACH.ENABLE : Mem := { name := "ENABLE", cls := 6, lo := 0, n := 32, num := 1, ty := .u8, acc := .rw, rng := .int 0 1 }
def MACH.AXIS : Mem := { name := "AXIS", cls := 6, lo := 0, n := 32, num := 3, ty := .u8, acc := .rw, rng := .intOr 0 15 255, dflt := 255 }
def MACH.KIND : Mem := { name := "KIND", cls := 6, lo := 0, n := 32, num := 4, ty := .u8, acc := .rw, rng := .int 0 1 }
def MACH.POLEP : Mem := { name := "POLEP", cls := 6, lo := 0, n := 32, num := 5, ty := .u8, acc := .rw, rng := .int 1 64, dflt := 1 }
def MACH.FBANG : Mem := { name := "FBANG", cls := 6, lo := 0, n := 32, num := 6, ty := .u8, acc := .rw, rng := .intOr 0 15 255, dflt := 255 }
def MACH.MNUM : Mem := { name := "MNUM", cls := 6, lo := 0, n := 32, num := 7, ty := .i32, acc := .rw, rng := .any, dflt := 1 }
def MACH.MDEN : Mem := { name := "MDEN", cls := 6, lo := 0, n := 32, num := 8, ty := .u32, acc := .rw, rng := .int 1 4294967295, dflt := 1 }
def MACH.ANGOFF : Mem := { name := "ANGOFF", cls := 6, lo := 0, n := 32, num := 9, ty := .u32, acc := .rw, rng := .any }
def MACH.ANGLEAD : Mem := { name := "ANGLEAD", cls := 6, lo := 0, n := 32, num := 10, ty := .u32, acc := .rw, rng := .int 0 100000 }
def MACH.SDU : Mem := { name := "SDU", cls := 6, lo := 0, n := 32, num := 11, ty := .u8, acc := .rw, rng := .intOr 0 47 255, dflt := 255 }
def MACH.SDV : Mem := { name := "SDV", cls := 6, lo := 0, n := 32, num := 12, ty := .u8, acc := .rw, rng := .intOr 0 47 255, dflt := 255 }
def MACH.SDW : Mem := { name := "SDW", cls := 6, lo := 0, n := 32, num := 13, ty := .u8, acc := .rw, rng := .intOr 0 47 255, dflt := 255 }
def MACH.SDDC : Mem := { name := "SDDC", cls := 6, lo := 0, n := 32, num := 14, ty := .u8, acc := .rw, rng := .intOr 0 47 255, dflt := 255 }
def MACH.VDCNOM : Mem := { name := "VDCNOM", cls := 6, lo := 0, n := 32, num := 15, ty := .f32, acc := .rw, rng := .fltGt0, dflt := 0x442f0000 }
def MACH.LD : Mem := { name := "LD", cls := 6, lo := 0, n := 32, num := 16, ty := .f32, acc := .rw, rng := .fltGt0, dflt := 0x3a83126f }
def MACH.LQ : Mem := { name := "LQ", cls := 6, lo := 0, n := 32, num := 17, ty := .f32, acc := .rw, rng := .fltGt0, dflt := 0x3a83126f }
def MACH.PSI : Mem := { name := "PSI", cls := 6, lo := 0, n := 32, num := 18, ty := .f32, acc := .rw, rng := .fltGe0 }
def MACH.LM : Mem := { name := "LM", cls := 6, lo := 0, n := 32, num := 19, ty := .f32, acc := .rw, rng := .fltGt0, dflt := 0x3c23d70a }
def MACH.LR : Mem := { name := "LR", cls := 6, lo := 0, n := 32, num := 20, ty := .f32, acc := .rw, rng := .fltGt0, dflt := 0x3c23d70a }
def MACH.TAUR : Mem := { name := "TAUR", cls := 6, lo := 0, n := 32, num := 21, ty := .f32, acc := .rw, rng := .fltGt0, dflt := 0x3dcccccd }
def MACH.DECOUP : Mem := { name := "DECOUP", cls := 6, lo := 0, n := 32, num := 22, ty := .u8, acc := .rw, rng := .int 0 1, dflt := 1 }
def MACH.VPRIO : Mem := { name := "VPRIO", cls := 6, lo := 0, n := 32, num := 23, ty := .u8, acc := .rw, rng := .int 0 1 }
def MACH.MODMAX : Mem := { name := "MODMAX", cls := 6, lo := 0, n := 32, num := 24, ty := .f32, acc := .rw, rng := .flt 0x3F000000 0x3F8D2546, dflt := 0x3f800000 }
def MACH.IMAX : Mem := { name := "IMAX", cls := 6, lo := 0, n := 32, num := 25, ty := .f32, acc := .rw, rng := .fltGe0 }
def MACH.TMAXM : Mem := { name := "TMAXM", cls := 6, lo := 0, n := 32, num := 26, ty := .f32, acc := .rw, rng := .fltGe0 }
def MACH.TRATED : Mem := { name := "TRATED", cls := 6, lo := 0, n := 32, num := 27, ty := .f32, acc := .rw, rng := .fltGt0, dflt := 0x3f800000 }
def MACH.IDREF : Mem := { name := "IDREF", cls := 6, lo := 0, n := 32, num := 28, ty := .f32, acc := .rw, rng := .any }
def MACH.IDMIN : Mem := { name := "IDMIN", cls := 6, lo := 0, n := 32, num := 29, ty := .f32, acc := .rw, rng := .any }
def MACH.KFW : Mem := { name := "KFW", cls := 6, lo := 0, n := 32, num := 30, ty := .f32, acc := .rw, rng := .fltGe0 }
def MACH.FWLVL : Mem := { name := "FWLVL", cls := 6, lo := 0, n := 32, num := 31, ty := .f32, acc := .rw, rng := .flt 0x3F4CCCCD 0x3F800000, dflt := 0x3f733333 }
def MACH.IERRMAX : Mem := { name := "IERRMAX", cls := 6, lo := 0, n := 32, num := 32, ty := .f32, acc := .rw, rng := .fltGe0 }
def MACH.IERRN : Mem := { name := "IERRN", cls := 6, lo := 0, n := 32, num := 33, ty := .u16, acc := .rw, rng := .int 1 65535, dflt := 20 }
def MACH.FPOL : Mem := { name := "FPOL", cls := 6, lo := 0, n := 32, num := 34, ty := .u8, acc := .rw, rng := .int 0 2 }
def MACH.ASCSPD : Mem := { name := "ASCSPD", cls := 6, lo := 0, n := 32, num := 35, ty := .f32, acc := .rw, rng := .fltGe0 }
def MACH.ID : Mem := { name := "ID", cls := 6, lo := 0, n := 32, num := 36, ty := .f32, acc := .ro, rng := .any }
def MACH.IQ : Mem := { name := "IQ", cls := 6, lo := 0, n := 32, num := 37, ty := .f32, acc := .ro, rng := .any }
def MACH.MODIDX : Mem := { name := "MODIDX", cls := 6, lo := 0, n := 32, num := 38, ty := .f32, acc := .ro, rng := .any }
def MACH.CLEAR : Mem := { name := "CLEAR", cls := 6, lo := 0, n := 32, num := 39, ty := .u8, acc := .wo, rng := .int 1 1 }
def MACH.EXTRAP : Mem := { name := "EXTRAP", cls := 6, lo := 0, n := 32, num := 40, ty := .u8, acc := .rw, rng := .int 0 1 }
def MACH.LATECNT : Mem := { name := "LATECNT", cls := 6, lo := 0, n := 32, num := 41, ty := .u32, acc := .rw, rng := .clr }
def MACH.LATERUN : Mem := { name := "LATERUN", cls := 6, lo := 0, n := 32, num := 42, ty := .u16, acc := .ro, rng := .any }
def MACH.LATEWARN : Mem := { name := "LATEWARN", cls := 6, lo := 0, n := 32, num := 43, ty := .u16, acc := .rw, rng := .int 0 1024, dflt := 16 }
def MACH.LATEMAX : Mem := { name := "LATEMAX", cls := 6, lo := 0, n := 32, num := 44, ty := .u8, acc := .rw, rng := .int 1 16, dflt := 3 }
def MACH.LATEBLK : Mem := { name := "LATEBLK", cls := 6, lo := 0, n := 32, num := 45, ty := .u16, acc := .ro, rng := .any }
def MACH.CRIT : Mem := { name := "CRIT", cls := 6, lo := 0, n := 32, num := 46, ty := .u8, acc := .rw, rng := .int 0 1, dflt := 1 }
def MACH.PIN : Mem := { name := "PIN", cls := 6, lo := 0, n := 32, num := 47, ty := .u8, acc := .rw, rng := .int 1 255, dflt := 255 }
def MACH.ANGSRC : Mem := { name := "ANGSRC", cls := 6, lo := 0, n := 32, num := 48, ty := .u8, acc := .rw, rng := .int 0 1 }
def MACH.PANUM : Mem := { name := "PANUM", cls := 6, lo := 0, n := 32, num := 49, ty := .i32, acc := .rw, rng := .any, dflt := 1 }
def MACH.PADEN : Mem := { name := "PADEN", cls := 6, lo := 0, n := 32, num := 50, ty := .u32, acc := .rw, rng := .int 1 4294967295, dflt := 1 }
def MACH.ANGIDX : Mem := { name := "ANGIDX", cls := 6, lo := 0, n := 32, num := 51, ty := .u32, acc := .ro, rng := .any }
def MACH.RNUM : Mem := { name := "RNUM", cls := 6, lo := 0, n := 32, num := 52, ty := .i32, acc := .rw, rng := .nz, dflt := 1 }
def MACH.RDEN : Mem := { name := "RDEN", cls := 6, lo := 0, n := 32, num := 53, ty := .u32, acc := .rw, rng := .int 1 4294967295, dflt := 1 }
def MACH.PWT : Mem := { name := "PWT", cls := 6, lo := 0, n := 32, num := 54, ty := .f32, acc := .rw, rng := .flt 0x00000000 0x41200000, dflt := 0x3f800000 }
def MACH.PGRP : Mem := { name := "PGRP", cls := 6, lo := 0, n := 32, num := 55, ty := .u8, acc := .rw, rng := .intOr 0 1 255, dflt := 255 }
def MACH.DRP : Mem := { name := "DRP", cls := 6, lo := 0, n := 32, num := 56, ty := .f32, acc := .rw, rng := .fltGe0 }
def MACH.THSRC : Mem := { name := "THSRC", cls := 6, lo := 0, n := 32, num := 57, ty := .u16, acc := .rw, rng := .srcT, dflt := 65535 }
def MACH.THTAU : Mem := { name := "THTAU", cls := 6, lo := 0, n := 32, num := 58, ty := .f32, acc := .rw, rng := .flt 0x3F800000 0x470CA000, dflt := 0x44160000 }
def MACH.THINIT : Mem := { name := "THINIT", cls := 6, lo := 0, n := 32, num := 59, ty := .f32, acc := .rw, rng := .flt 0x00000000 0x3F800000, dflt := 0x3f000000 }
def MACH.THAMB : Mem := { name := "THAMB", cls := 6, lo := 0, n := 32, num := 60, ty := .f32, acc := .rw, rng := .any, dflt := 0x42200000 }
def MACH.THMAX : Mem := { name := "THMAX", cls := 6, lo := 0, n := 32, num := 61, ty := .f32, acc := .rw, rng := .any, dflt := 0x430c0000 }
def MACH.THX : Mem := { name := "THX", cls := 6, lo := 0, n := 32, num := 62, ty := .f32, acc := .ro, rng := .any }
def MACH.PSHARE : Mem := { name := "PSHARE", cls := 6, lo := 0, n := 32, num := 63, ty := .f32, acc := .ro, rng := .any }
def MACH.PTDEV : Mem := { name := "PTDEV", cls := 6, lo := 0, n := 32, num := 64, ty := .f32, acc := .rw, rng := .fltGe0 }
def MACH.PTDEVT : Mem := { name := "PTDEVT", cls := 6, lo := 0, n := 32, num := 65, ty := .u16, acc := .rw, rng := .int 1 10000, dflt := 100 }
def MACH.DUPD : Mem := { name := "DUPD", cls := 6, lo := 0, n := 32, num := 66, ty := .u8, acc := .rw, rng := .int 0 1, dflt := 1 }
def MACH.STYLE : Mem := { name := "STYLE", cls := 6, lo := 0, n := 32, num := 67, ty := .u8, acc := .rw, rng := .int 0 1 }
def MACH.HUSHST : Mem := { name := "HUSHST", cls := 6, lo := 0, n := 32, num := 68, ty := .u8, acc := .ro, rng := .any }
def MACH.RS : Mem := { name := "RS", cls := 6, lo := 0, n := 32, num := 69, ty := .f32, acc := .rw, rng := .fltGt0, dflt := 0x3c23d70a }
def MACH.HTKI : Mem := { name := "HTKI", cls := 6, lo := 0, n := 32, num := 70, ty := .f32, acc := .rw, rng := .fltGe0 }
def MACH.HTLIM : Mem := { name := "HTLIM", cls := 6, lo := 0, n := 32, num := 71, ty := .f32, acc := .rw, rng := .fltGe0 }
def MACH.HSTEP : Mem := { name := "HSTEP", cls := 6, lo := 0, n := 32, num := 72, ty := .f32, acc := .rw, rng := .fltGe0 }
def MACH.HSWIN : Mem := { name := "HSWIN", cls := 6, lo := 0, n := 32, num := 73, ty := .u32, acc := .rw, rng := .twTo 100000, dflt := 10000 }
def MACH.HIERR : Mem := { name := "HIERR", cls := 6, lo := 0, n := 32, num := 74, ty := .f32, acc := .rw, rng := .fltGe0 }
def MACH.HRETT : Mem := { name := "HRETT", cls := 6, lo := 0, n := 32, num := 75, ty := .u32, acc := .rw, rng := .int 10 60000, dflt := 2000 }
def MACH.CEILACT : Mem := { name := "CEILACT", cls := 6, lo := 0, n := 32, num := 76, ty := .f32, acc := .ro, rng := .any, dflt := 0x3f800000 }

def MACH.rows : List Mem := [MACH.CFG, MACH.ENABLE, MACH.AXIS, MACH.KIND, MACH.POLEP, MACH.FBANG, MACH.MNUM, MACH.MDEN, MACH.ANGOFF, MACH.ANGLEAD, MACH.SDU, MACH.SDV, MACH.SDW, MACH.SDDC, MACH.VDCNOM, MACH.LD, MACH.LQ, MACH.PSI, MACH.LM, MACH.LR, MACH.TAUR, MACH.DECOUP, MACH.VPRIO, MACH.MODMAX, MACH.IMAX, MACH.TMAXM, MACH.TRATED, MACH.IDREF, MACH.IDMIN, MACH.KFW, MACH.FWLVL, MACH.IERRMAX, MACH.IERRN, MACH.FPOL, MACH.ASCSPD, MACH.ID, MACH.IQ, MACH.MODIDX, MACH.CLEAR, MACH.EXTRAP, MACH.LATECNT, MACH.LATERUN, MACH.LATEWARN, MACH.LATEMAX, MACH.LATEBLK, MACH.CRIT, MACH.PIN, MACH.ANGSRC, MACH.PANUM, MACH.PADEN, MACH.ANGIDX, MACH.RNUM, MACH.RDEN, MACH.PWT, MACH.PGRP, MACH.DRP, MACH.THSRC, MACH.THTAU, MACH.THINIT, MACH.THAMB, MACH.THMAX, MACH.THX, MACH.PSHARE, MACH.PTDEV, MACH.PTDEVT, MACH.DUPD, MACH.STYLE, MACH.HUSHST, MACH.RS, MACH.HTKI, MACH.HTLIM, MACH.HSTEP, MACH.HSWIN, MACH.HIERR, MACH.HRETT, MACH.CEILACT]

/-! Class STAGE (R341, R377). -/
def STAGE.CARN : Mem := { name := "CARN", cls := 7, lo := 0, n := 16, num := 3, ty := .u16, acc := .rw, rng := .int 2 200, dflt := 16 }
def STAGE.TC : Mem := { name := "TC", cls := 7, lo := 0, n := 16, num := 4, ty := .f32, acc := .ro, rng := .any, dflt := 0x43200000 }
def STAGE.MINPW : Mem := { name := "MINPW", cls := 7, lo := 0, n := 16, num := 5, ty := .u16, acc := .rw, rng := .int 0 20000, dflt := 1000 }
def STAGE.MINPOL : Mem := { name := "MINPOL", cls := 7, lo := 0, n := 16, num := 6, ty := .u8, acc := .rw, rng := .int 0 1 }
def STAGE.LADEN : Mem := { name := "LADEN", cls := 7, lo := 0, n := 16, num := 7, ty := .u8, acc := .rw, rng := .int 0 127, dflt := 1 }
def STAGE.LADF : Mem := { name := "LADF", cls := 7, lo := 0, n := 16, num := 8, cnt := 5, ty := .f32, acc := .rw, rng := .fltOr0 0x3F800000 0x461C4000 }
def STAGE.LADH : Mem := { name := "LADH", cls := 7, lo := 0, n := 16, num := 13, ty := .f32, acc := .rw, rng := .flt 0x3CA3D70A 0x3E4CCCCD, dflt := 0x3d4ccccd }
def STAGE.SIXN : Mem := { name := "SIXN", cls := 7, lo := 0, n := 16, num := 14, ty := .u16, acc := .rw, rng := .int 1 1000, dflt := 50 }
def STAGE.SYNLEAD : Mem := { name := "SYNLEAD", cls := 7, lo := 0, n := 16, num := 15, ty := .u32, acc := .rw, rng := .int 0 10000 }
def STAGE.SPREAD : Mem := { name := "SPREAD", cls := 7, lo := 0, n := 16, num := 16, ty := .f32, acc := .rw, rng := .flt 0x00000000 0x41200000, dflt := 0x41200000 }
def STAGE.RUNG : Mem := { name := "RUNG", cls := 7, lo := 0, n := 16, num := 17, ty := .u8, acc := .ro, rng := .any }
def STAGE.RUNGCNT : Mem := { name := "RUNGCNT", cls := 7, lo := 0, n := 16, num := 18, ty := .u32, acc := .rw, rng := .clr }
def STAGE.LATEEDGE : Mem := { name := "LATEEDGE", cls := 7, lo := 0, n := 16, num := 19, ty := .u32, acc := .rw, rng := .clr }
def STAGE.DROPCNT : Mem := { name := "DROPCNT", cls := 7, lo := 0, n := 16, num := 20, ty := .u32, acc := .rw, rng := .clr }
def STAGE.MACH : Mem := { name := "MACH", cls := 7, lo := 0, n := 16, num := 21, ty := .u8, acc := .rw, rng := .intOr 0 31 255, dflt := 255 }
def STAGE.ENABLE : Mem := { name := "ENABLE", cls := 7, lo := 0, n := 16, num := 1, ty := .u8, acc := .rw, rng := .int 0 1 }
def STAGE.STATE : Mem := { name := "STATE", cls := 7, lo := 0, n := 16, num := 22, ty := .u8, acc := .ro, rng := .any }
def STAGE.GAFILT : Mem := { name := "GAFILT", cls := 7, lo := 0, n := 16, num := 23, ty := .f32, acc := .rw, rng := .fltMul25 2 255, dflt := 0x42c80000 }
def STAGE.BSN : Mem := { name := "BSN", cls := 7, lo := 0, n := 16, num := 24, ty := .u8, acc := .rw, rng := .int 1 64, dflt := 4 }
def STAGE.BSPW : Mem := { name := "BSPW", cls := 7, lo := 0, n := 16, num := 25, ty := .u16, acc := .rw, rng := .step 500 10000 50, dflt := 2000 }
def STAGE.BSREF : Mem := { name := "BSREF", cls := 7, lo := 0, n := 16, num := 26, ty := .u8, acc := .rw, rng := .int 0 1, dflt := 1 }
def STAGE.BSPRET : Mem := { name := "BSPRET", cls := 7, lo := 0, n := 16, num := 27, ty := .u16, acc := .rw, rng := .int 0 10000 }
def STAGE.DIAGEN : Mem := { name := "DIAGEN", cls := 7, lo := 0, n := 16, num := 28, ty := .u8, acc := .rw, rng := .int 0 2 }
def STAGE.DIAG : Mem := { name := "DIAG", cls := 7, lo := 0, n := 16, num := 29, ty := .u8, acc := .wo, rng := .int 1 1 }
def STAGE.PSK : Mem := { name := "PSK", cls := 7, lo := 0, n := 16, num := 30, ty := .f32, acc := .rw, rng := .flt 0x38D1B717 0x3F800000, dflt := 0x3ac49ba6 }
def STAGE.PSCUR : Mem := { name := "PSCUR", cls := 7, lo := 0, n := 16, num := 31, ty := .f32, acc := .rw, rng := .fltQ 1 8, dflt := 0x3f000000 }
def STAGE.PSSET : Mem := { name := "PSSET", cls := 7, lo := 0, n := 16, num := 32, ty := .u32, acc := .rw, rng := .int 10 10000, dflt := 200 }
def STAGE.PSWLO : Mem := { name := "PSWLO", cls := 7, lo := 0, n := 16, num := 33, ty := .f32, acc := .rw, rng := .flt 0x3D4CCCCD 0x3F733333, dflt := 0x3e800000 }
def STAGE.PSWHI : Mem := { name := "PSWHI", cls := 7, lo := 0, n := 16, num := 34, ty := .f32, acc := .rw, rng := .flt 0x3D4CCCCD 0x3F733333, dflt := 0x3f400000 }
def STAGE.PSVDCMIN : Mem := { name := "PSVDCMIN", cls := 7, lo := 0, n := 16, num := 35, ty := .f32, acc := .rw, rng := .fltGe0, dflt := 0x42480000 }
def STAGE.DIAGRES : Mem := { name := "DIAGRES", cls := 7, lo := 0, n := 16, num := 36, ty := .u32, acc := .ro, rng := .any }
def STAGE.DISCHDIO : Mem := { name := "DISCHDIO", cls := 7, lo := 0, n := 16, num := 37, ty := .u8, acc := .rw, rng := .intOr 0 31 255, dflt := 255 }
def STAGE.DISCHV : Mem := { name := "DISCHV", cls := 7, lo := 0, n := 16, num := 38, ty := .f32, acc := .rw, rng := .fltGe0, dflt := 0x42480000 }
def STAGE.DISCHT : Mem := { name := "DISCHT", cls := 7, lo := 0, n := 16, num := 39, ty := .u32, acc := .rw, rng := .int 1 600000, dflt := 5000 }
def STAGE.CLEAR : Mem := { name := "CLEAR", cls := 7, lo := 0, n := 16, num := 40, ty := .u8, acc := .wo, rng := .int 1 1 }
def STAGE.TRIPCNT : Mem := { name := "TRIPCNT", cls := 7, lo := 0, n := 16, num := 41, ty := .u32, acc := .rw, rng := .clr }
def STAGE.REFCNT : Mem := { name := "REFCNT", cls := 7, lo := 0, n := 16, num := 42, ty := .u32, acc := .rw, rng := .clr }

def STAGE.rows : List Mem := [STAGE.CARN, STAGE.TC, STAGE.MINPW, STAGE.MINPOL, STAGE.LADEN, STAGE.LADF, STAGE.LADH, STAGE.SIXN, STAGE.SYNLEAD, STAGE.SPREAD, STAGE.RUNG, STAGE.RUNGCNT, STAGE.LATEEDGE, STAGE.DROPCNT, STAGE.MACH, STAGE.ENABLE, STAGE.STATE, STAGE.GAFILT, STAGE.BSN, STAGE.BSPW, STAGE.BSREF, STAGE.BSPRET, STAGE.DIAGEN, STAGE.DIAG, STAGE.PSK, STAGE.PSCUR, STAGE.PSSET, STAGE.PSWLO, STAGE.PSWHI, STAGE.PSVDCMIN, STAGE.DIAGRES, STAGE.DISCHDIO, STAGE.DISCHV, STAGE.DISCHT, STAGE.CLEAR, STAGE.TRIPCNT, STAGE.REFCNT]

/-! Class PAT (R342). -/
def PAT.K : Mem := { name := "K", cls := 7, lo := 16, n := 5, num := 3, ty := .u8, acc := .ro, rng := .any, dsel := 2 }
def PAT.CEIL : Mem := { name := "CEIL", cls := 7, lo := 16, n := 5, num := 4, ty := .f32, acc := .ro, rng := .any, dsel := 3 }
def PAT.SRC : Mem := { name := "SRC", cls := 7, lo := 16, n := 5, num := 5, ty := .u8, acc := .rw, rng := .int 0 1 }
def PAT.EXPCRC : Mem := { name := "EXPCRC", cls := 7, lo := 16, n := 5, num := 6, ty := .u32, acc := .rw, rng := .any }
def PAT.TABCRC : Mem := { name := "TABCRC", cls := 7, lo := 16, n := 5, num := 7, ty := .u32, acc := .ro, rng := .any }
def PAT.ENTRY : Mem := { name := "ENTRY", cls := 7, lo := 16, n := 5, num := 2048, cnt := 512, ty := .u16, acc := .rw, rng := .int 1 0x3FFF, dsel := 4 }
def PAT.ROWAMP : Mem := { name := "ROWAMP", cls := 7, lo := 16, n := 5, num := 1024, cnt := 64, ty := .f32, acc := .ro, rng := .any, dsel := 5 }

def PAT.rows : List Mem := [PAT.K, PAT.CEIL, PAT.SRC, PAT.EXPCRC, PAT.TABCRC, PAT.ENTRY, PAT.ROWAMP]

/-! Class LEG (R378). -/
def LEG.MODE : Mem := { name := "MODE", cls := 8, lo := 0, n := 48, num := 3, ty := .u8, acc := .rw, rng := .int 0 1 }
def LEG.SWCMD : Mem := { name := "SWCMD", cls := 8, lo := 0, n := 48, num := 4, ty := .u8, acc := .rws, rng := .int 0 3 }
def LEG.DEADT : Mem := { name := "DEADT", cls := 8, lo := 0, n := 48, num := 5, ty := .f32, acc := .rws, rng := .fltMul25 40 4000, dflt := 0x44fa0000 }
def LEG.ACKON : Mem := { name := "ACKON", cls := 8, lo := 0, n := 48, num := 6, ty := .u32, acc := .rws, rng := .step 100 20000 100, dflt := 5000 }
def LEG.ACKOFF : Mem := { name := "ACKOFF", cls := 8, lo := 0, n := 48, num := 7, ty := .u32, acc := .rws, rng := .step 100 20000 100, dflt := 5000 }
def LEG.BOOTEN : Mem := { name := "BOOTEN", cls := 8, lo := 0, n := 48, num := 8, ty := .u8, acc := .rws, rng := .int 0 1 }
def LEG.DTEFF : Mem := { name := "DTEFF", cls := 8, lo := 0, n := 48, num := 9, ty := .f32, acc := .ro, rng := .any }
def LEG.DTPEAK : Mem := { name := "DTPEAK", cls := 8, lo := 0, n := 48, num := 10, ty := .f32, acc := .rw, rng := .clr }
def LEG.STAT : Mem := { name := "STAT", cls := 8, lo := 0, n := 48, num := 11, ty := .u32, acc := .ro, rng := .any }

def LEG.rows : List Mem := [LEG.MODE, LEG.SWCMD, LEG.DEADT, LEG.ACKON, LEG.ACKOFF, LEG.BOOTEN, LEG.DTEFF, LEG.DTPEAK, LEG.STAT]

end Sys2Proof.Machine
end

