-- ==== Sys2Proof/Machine/DictB.lean ====
section
/-! DEFINITION. The object dictionary, part 2 of 4: one row per member table of the chapters, in their order.
The spec fixes the members' names, types, ranges, defaults and accesses, the numbers 0x000–0x002 and the table
members' numbers; the other numbers are those DICT_READ returns, consecutive here (DESIGN CHOICE, log entry 3). -/
namespace Sys2Proof.Machine

/-! Class CONV (R528, R444, R78). -/
def CONV.CFG : Mem := { name := "CFG", cls := 9, lo := 0, n := 8, num := 2, ty := .u8, acc := .rw, rng := .int 0 1 }
def CONV.ENABLE : Mem := { name := "ENABLE", cls := 9, lo := 0, n := 8, num := 1, ty := .u8, acc := .rw, rng := .int 0 1 }
def CONV.STATE : Mem := { name := "STATE", cls := 9, lo := 0, n := 8, num := 3, ty := .u8, acc := .ro, rng := .any }
def CONV.MACH : Mem := { name := "MACH", cls := 9, lo := 0, n := 8, num := 4, ty := .u8, acc := .rw, rng := .intOr 0 31 255, dflt := 255 }
def CONV.RING : Mem := { name := "RING", cls := 9, lo := 0, n := 8, num := 5, ty := .u8, acc := .rw, rng := .int 0 3 }
def CONV.ARMS : Mem := { name := "ARMS", cls := 9, lo := 0, n := 8, num := 6, ty := .u8, acc := .rw, rng := .oneOf [2, 4, 6], dflt := 6 }
def CONV.ARM0 : Mem := { name := "ARM0", cls := 9, lo := 0, n := 8, num := 7, ty := .u8, acc := .rw, rng := .int 0 31 }
def CONV.SDDC : Mem := { name := "SDDC", cls := 9, lo := 0, n := 8, num := 8, ty := .u8, acc := .rw, rng := .intOr 0 47 255, dflt := 255 }
def CONV.VDCNOM : Mem := { name := "VDCNOM", cls := 9, lo := 0, n := 8, num := 9, ty := .f32, acc := .rw, rng := .fltGt0 }
def CONV.VDCMAX : Mem := { name := "VDCMAX", cls := 9, lo := 0, n := 8, num := 10, ty := .f32, acc := .rw, rng := .fltGe0 }
def CONV.VCNOM : Mem := { name := "VCNOM", cls := 9, lo := 0, n := 8, num := 11, ty := .f32, acc := .rw, rng := .fltGt0 }
def CONV.VCLIMP : Mem := { name := "VCLIMP", cls := 9, lo := 0, n := 8, num := 12, ty := .f32, acc := .rws, rng := .fltGe0 }
def CONV.VCRATE : Mem := { name := "VCRATE", cls := 9, lo := 0, n := 8, num := 13, ty := .f32, acc := .rw, rng := .flt 0x3DCCCCCD 0x447A0000, dflt := 0x41200000 }
def CONV.LIMP : Mem := { name := "LIMP", cls := 9, lo := 0, n := 8, num := 14, ty := .u8, acc := .rw, rng := .int 0 1 }
def CONV.LIMPMIN : Mem := { name := "LIMPMIN", cls := 9, lo := 0, n := 8, num := 15, ty := .f32, acc := .rw, rng := .flt 0x00000000 0x3F5DB22D, dflt := 0x3f000000 }
def CONV.REDWARN : Mem := { name := "REDWARN", cls := 9, lo := 0, n := 8, num := 16, ty := .u8, acc := .rw, rng := .int 0 60, dflt := 2 }
def CONV.FPOL : Mem := { name := "FPOL", cls := 9, lo := 0, n := 8, num := 17, ty := .u8, acc := .rw, rng := .int 0 2 }
def CONV.KPC : Mem := { name := "KPC", cls := 9, lo := 0, n := 8, num := 18, ty := .f32, acc := .rw, rng := .fltGe0 }
def CONV.KIC : Mem := { name := "KIC", cls := 9, lo := 0, n := 8, num := 19, ty := .f32, acc := .rw, rng := .fltGe0 }
def CONV.KSUM : Mem := { name := "KSUM", cls := 9, lo := 0, n := 8, num := 20, ty := .f32, acc := .rw, rng := .fltGe0 }
def CONV.KDIF : Mem := { name := "KDIF", cls := 9, lo := 0, n := 8, num := 21, ty := .f32, acc := .rw, rng := .fltGe0 }
def CONV.ICMAX : Mem := { name := "ICMAX", cls := 9, lo := 0, n := 8, num := 22, ty := .f32, acc := .rw, rng := .fltGe0 }
def CONV.UCMAX : Mem := { name := "UCMAX", cls := 9, lo := 0, n := 8, num := 23, ty := .f32, acc := .rw, rng := .fltGe0 }
def CONV.LFF : Mem := { name := "LFF", cls := 9, lo := 0, n := 8, num := 24, ty := .f32, acc := .rw, rng := .fltGe0, dflt := 0x40a00000 }
def CONV.UZAMP : Mem := { name := "UZAMP", cls := 9, lo := 0, n := 8, num := 25, ty := .f32, acc := .rw, rng := .fltGe0 }
def CONV.UXMIN : Mem := { name := "UXMIN", cls := 9, lo := 0, n := 8, num := 26, ty := .f32, acc := .rw, rng := .fltGe0 }
def CONV.ZHALF : Mem := { name := "ZHALF", cls := 9, lo := 0, n := 8, num := 27, ty := .u16, acc := .rw, rng := .int 1 1000, dflt := 50 }
def CONV.VBAND : Mem := { name := "VBAND", cls := 9, lo := 0, n := 8, num := 28, ty := .f32, acc := .rw, rng := .flt 0x00000000 0x447A0000, dflt := 0x40a00000 }
def CONV.DITH : Mem := { name := "DITH", cls := 9, lo := 0, n := 8, num := 29, ty := .u8, acc := .rw, rng := .int 0 1, dflt := 1 }
def CONV.ISGNTH : Mem := { name := "ISGNTH", cls := 9, lo := 0, n := 8, num := 30, ty := .f32, acc := .rw, rng := .fltGe0, dflt := 0x40a00000 }
def CONV.IAMAX : Mem := { name := "IAMAX", cls := 9, lo := 0, n := 8, num := 31, ty := .f32, acc := .rws, rng := .fltGe0 }
def CONV.VCOV : Mem := { name := "VCOV", cls := 9, lo := 0, n := 8, num := 32, ty := .f32, acc := .rws, rng := .fltGe0 }
def CONV.VCUV : Mem := { name := "VCUV", cls := 9, lo := 0, n := 8, num := 33, ty := .f32, acc := .rws, rng := .fltGe0 }
def CONV.AUTOPBYP : Mem := { name := "AUTOPBYP", cls := 9, lo := 0, n := 8, num := 34, ty := .u8, acc := .rw, rng := .int 0 1 }
def CONV.PBYPT : Mem := { name := "PBYPT", cls := 9, lo := 0, n := 8, num := 35, ty := .u16, acc := .rw, rng := .int 2 1000, dflt := 50 }
def CONV.RSTMAX : Mem := { name := "RSTMAX", cls := 9, lo := 0, n := 8, num := 36, ty := .u8, acc := .rw, rng := .int 0 255, dflt := 3 }
def CONV.VSPRMAX : Mem := { name := "VSPRMAX", cls := 9, lo := 0, n := 8, num := 37, ty := .f32, acc := .rw, rng := .fltGe0 }
def CONV.VSPRT : Mem := { name := "VSPRT", cls := 9, lo := 0, n := 8, num := 38, ty := .u16, acc := .rw, rng := .int 1 10000, dflt := 100 }
def CONV.PCHDIO : Mem := { name := "PCHDIO", cls := 9, lo := 0, n := 8, num := 39, ty := .u8, acc := .rw, rng := .intOr 0 31 255, dflt := 255 }
def CONV.MAINDIO : Mem := { name := "MAINDIO", cls := 9, lo := 0, n := 8, num := 40, ty := .u8, acc := .rw, rng := .intOr 0 31 255, dflt := 255 }
def CONV.PCHV : Mem := { name := "PCHV", cls := 9, lo := 0, n := 8, num := 41, ty := .f32, acc := .rw, rng := .flt 0x3F000000 0x3F800000, dflt := 0x3f666666 }
def CONV.PCDONE : Mem := { name := "PCDONE", cls := 9, lo := 0, n := 8, num := 42, ty := .f32, acc := .rw, rng := .flt 0x3F4CCCCD 0x3F800000, dflt := 0x3f733333 }
def CONV.PCHTMO : Mem := { name := "PCHTMO", cls := 9, lo := 0, n := 8, num := 43, ty := .u32, acc := .rw, rng := .int 100 600000, dflt := 30000 }
def CONV.MAINT : Mem := { name := "MAINT", cls := 9, lo := 0, n := 8, num := 44, ty := .u16, acc := .rw, rng := .int 0 10000, dflt := 100 }
def CONV.DISCHEN : Mem := { name := "DISCHEN", cls := 9, lo := 0, n := 8, num := 45, ty := .u8, acc := .rw, rng := .int 0 1, dflt := 1 }
def CONV.DISCHV : Mem := { name := "DISCHV", cls := 9, lo := 0, n := 8, num := 46, ty := .f32, acc := .rw, rng := .fltGe0, dflt := 0x42480000 }
def CONV.DISCHT : Mem := { name := "DISCHT", cls := 9, lo := 0, n := 8, num := 47, ty := .u32, acc := .rw, rng := .int 1 600000, dflt := 60000 }
def CONV.NREQ : Mem := { name := "NREQ", cls := 9, lo := 0, n := 8, num := 48, ty := .u8, acc := .ro, rng := .any }
def CONV.CEIL : Mem := { name := "CEIL", cls := 9, lo := 0, n := 8, num := 49, ty := .f32, acc := .ro, rng := .any, dflt := 0x3f5db22d }
def CONV.VCTGT : Mem := { name := "VCTGT", cls := 9, lo := 0, n := 8, num := 50, ty := .f32, acc := .ro, rng := .any }
def CONV.LIMPACT : Mem := { name := "LIMPACT", cls := 9, lo := 0, n := 8, num := 51, ty := .u8, acc := .ro, rng := .any }
def CONV.CLEAR : Mem := { name := "CLEAR", cls := 9, lo := 0, n := 8, num := 52, ty := .u8, acc := .wo, rng := .int 1 1 }
def CONV.CRIT : Mem := { name := "CRIT", cls := 9, lo := 0, n := 8, num := 53, ty := .u8, acc := .rw, rng := .int 0 1, dflt := 1 }
def CONV.PIN : Mem := { name := "PIN", cls := 9, lo := 0, n := 8, num := 54, ty := .u8, acc := .rw, rng := .int 1 255, dflt := 255 }

def CONV.rows : List Mem := [CONV.CFG, CONV.ENABLE, CONV.STATE, CONV.MACH, CONV.RING, CONV.ARMS, CONV.ARM0, CONV.SDDC, CONV.VDCNOM, CONV.VDCMAX, CONV.VCNOM, CONV.VCLIMP, CONV.VCRATE, CONV.LIMP, CONV.LIMPMIN, CONV.REDWARN, CONV.FPOL, CONV.KPC, CONV.KIC, CONV.KSUM, CONV.KDIF, CONV.ICMAX, CONV.UCMAX, CONV.LFF, CONV.UZAMP, CONV.UXMIN, CONV.ZHALF, CONV.VBAND, CONV.DITH, CONV.ISGNTH, CONV.IAMAX, CONV.VCOV, CONV.VCUV, CONV.AUTOPBYP, CONV.PBYPT, CONV.RSTMAX, CONV.VSPRMAX, CONV.VSPRT, CONV.PCHDIO, CONV.MAINDIO, CONV.PCHV, CONV.PCDONE, CONV.PCHTMO, CONV.MAINT, CONV.DISCHEN, CONV.DISCHV, CONV.DISCHT, CONV.NREQ, CONV.CEIL, CONV.VCTGT, CONV.LIMPACT, CONV.CLEAR, CONV.CRIT, CONV.PIN]

/-! Class ARM (R445, R52, R78). -/
def ARM.SDI : Mem := { name := "SDI", cls := 10, lo := 0, n := 32, num := 3, ty := .u8, acc := .rw, rng := .intOr 0 47 255, dflt := 255 }
def ARM.SLOT0 : Mem := { name := "SLOT0", cls := 10, lo := 0, n := 32, num := 4, ty := .u16, acc := .rw, rng := .int 0 383 }
def ARM.NCELL : Mem := { name := "NCELL", cls := 10, lo := 0, n := 32, num := 5, ty := .u8, acc := .rw, rng := .int 4 64, dflt := 4 }
def ARM.AVAIL : Mem := { name := "AVAIL", cls := 10, lo := 0, n := 32, num := 6, ty := .u8, acc := .ro, rng := .any }
def ARM.REDUND : Mem := { name := "REDUND", cls := 10, lo := 0, n := 32, num := 7, ty := .i8, acc := .ro, rng := .any }
def ARM.VMEAN : Mem := { name := "VMEAN", cls := 10, lo := 0, n := 32, num := 8, ty := .f32, acc := .ro, rng := .any }
def ARM.SPREAD : Mem := { name := "SPREAD", cls := 10, lo := 0, n := 32, num := 9, ty := .f32, acc := .ro, rng := .any }
def ARM.LEVEL : Mem := { name := "LEVEL", cls := 10, lo := 0, n := 32, num := 10, ty := .u8, acc := .ro, rng := .any }
def ARM.SIGN : Mem := { name := "SIGN", cls := 10, lo := 0, n := 32, num := 11, ty := .i8, acc := .ro, rng := .any, dflt := 1 }
def ARM.SAT : Mem := { name := "SAT", cls := 10, lo := 0, n := 32, num := 12, ty := .u8, acc := .ro, rng := .any }
def ARM.SWCNT : Mem := { name := "SWCNT", cls := 10, lo := 0, n := 32, num := 13, ty := .u32, acc := .rw, rng := .clr }
def ARM.EXTRAP : Mem := { name := "EXTRAP", cls := 10, lo := 0, n := 32, num := 14, ty := .u8, acc := .rw, rng := .int 0 1 }
def ARM.LATECNT : Mem := { name := "LATECNT", cls := 10, lo := 0, n := 32, num := 15, ty := .u32, acc := .rw, rng := .clr }
def ARM.LATERUN : Mem := { name := "LATERUN", cls := 10, lo := 0, n := 32, num := 16, ty := .u16, acc := .ro, rng := .any }
def ARM.LATEWARN : Mem := { name := "LATEWARN", cls := 10, lo := 0, n := 32, num := 17, ty := .u16, acc := .rw, rng := .int 0 1024, dflt := 16 }
def ARM.LATEMAX : Mem := { name := "LATEMAX", cls := 10, lo := 0, n := 32, num := 18, ty := .u8, acc := .rw, rng := .int 1 16, dflt := 3 }
def ARM.LATEBLK : Mem := { name := "LATEBLK", cls := 10, lo := 0, n := 32, num := 19, ty := .u16, acc := .ro, rng := .any }
def ARM.CRIT : Mem := { name := "CRIT", cls := 10, lo := 0, n := 32, num := 20, ty := .u8, acc := .rw, rng := .int 0 1, dflt := 1 }
def ARM.PIN : Mem := { name := "PIN", cls := 10, lo := 0, n := 32, num := 21, ty := .u8, acc := .rw, rng := .int 1 255, dflt := 255 }

def ARM.rows : List Mem := [ARM.SDI, ARM.SLOT0, ARM.NCELL, ARM.AVAIL, ARM.REDUND, ARM.VMEAN, ARM.SPREAD, ARM.LEVEL, ARM.SIGN, ARM.SAT, ARM.SWCNT, ARM.EXTRAP, ARM.LATECNT, ARM.LATERUN, ARM.LATEWARN, ARM.LATEMAX, ARM.LATEBLK, ARM.CRIT, ARM.PIN]

/-! Class CELL (R446). -/
def CELL.STATE : Mem := { name := "STATE", cls := 11, lo := 0, n := 2048, num := 3, ty := .u8, acc := .ro, rng := .any }
def CELL.FCAUSE : Mem := { name := "FCAUSE", cls := 11, lo := 0, n := 2048, num := 4, ty := .u8, acc := .ro, rng := .any }
def CELL.EXCL : Mem := { name := "EXCL", cls := 11, lo := 0, n := 2048, num := 5, ty := .u8, acc := .rw, rng := .int 0 1 }
def CELL.RETIRE : Mem := { name := "RETIRE", cls := 11, lo := 0, n := 2048, num := 6, ty := .u8, acc := .rws, rng := .int 0 1 }
def CELL.VCAP : Mem := { name := "VCAP", cls := 11, lo := 0, n := 2048, num := 7, ty := .f32, acc := .ro, rng := .any }
def CELL.TEMP : Mem := { name := "TEMP", cls := 11, lo := 0, n := 2048, num := 8, ty := .f32, acc := .ro, rng := .any }
def CELL.STATUS : Mem := { name := "STATUS", cls := 11, lo := 0, n := 2048, num := 9, ty := .u16, acc := .ro, rng := .any }
def CELL.CMD : Mem := { name := "CMD", cls := 11, lo := 0, n := 2048, num := 10, ty := .u8, acc := .ro, rng := .any }
def CELL.NRST : Mem := { name := "NRST", cls := 11, lo := 0, n := 2048, num := 11, ty := .u32, acc := .rw, rng := .clr }
def CELL.CLEAR : Mem := { name := "CLEAR", cls := 11, lo := 0, n := 2048, num := 12, ty := .u8, acc := .wo, rng := .int 1 1 }

def CELL.rows : List Mem := [CELL.STATE, CELL.FCAUSE, CELL.EXCL, CELL.RETIRE, CELL.VCAP, CELL.TEMP, CELL.STATUS, CELL.CMD, CELL.NRST, CELL.CLEAR]

/-! Class FB (R144). -/
def FB.MODE : Mem := { name := "MODE", cls := 12, lo := 0, n := 16, num := 3, ty := .u8, acc := .rw, rng := .int 0 4 }
def FB.INV : Mem := { name := "INV", cls := 12, lo := 0, n := 16, num := 4, ty := .u8, acc := .rw, rng := .int 0 1 }
def FB.SSIDIV : Mem := { name := "SSIDIV", cls := 12, lo := 0, n := 16, num := 5, ty := .u16, acc := .rw, rng := .int 40 4000, dflt := 80 }
def FB.SAMPDLY : Mem := { name := "SAMPDLY", cls := 12, lo := 0, n := 16, num := 6, ty := .u8, acc := .rw, rng := .int 0 255 }
def FB.LEAD : Mem := { name := "LEAD", cls := 12, lo := 0, n := 16, num := 7, ty := .u8, acc := .rw, rng := .int 0 8 }
def FB.LEADVAL : Mem := { name := "LEADVAL", cls := 12, lo := 0, n := 16, num := 8, ty := .u8, acc := .rw, rng := .any }
def FB.MT : Mem := { name := "MT", cls := 12, lo := 0, n := 16, num := 9, ty := .u8, acc := .rw, rng := .int 0 32, dflt := 12 }
def FB.ST : Mem := { name := "ST", cls := 12, lo := 0, n := 16, num := 10, ty := .u8, acc := .rw, rng := .int 1 32, dflt := 13 }
def FB.STAT : Mem := { name := "STAT", cls := 12, lo := 0, n := 16, num := 11, ty := .u8, acc := .rw, rng := .int 0 8 }
def FB.STATERR : Mem := { name := "STATERR", cls := 12, lo := 0, n := 16, num := 12, ty := .u8, acc := .rw, rng := .any }
def FB.STATLOW : Mem := { name := "STATLOW", cls := 12, lo := 0, n := 16, num := 13, ty := .u8, acc := .rw, rng := .any }
def FB.CRCLEN : Mem := { name := "CRCLEN", cls := 12, lo := 0, n := 16, num := 14, ty := .u8, acc := .rw, rng := .zeroOr 3 16 }
def FB.CRCPOLY : Mem := { name := "CRCPOLY", cls := 12, lo := 0, n := 16, num := 15, ty := .u16, acc := .rw, rng := .int 0 65535 }
def FB.CRCINIT : Mem := { name := "CRCINIT", cls := 12, lo := 0, n := 16, num := 16, ty := .u16, acc := .rw, rng := .int 0 65535 }
def FB.CRCXOR : Mem := { name := "CRCXOR", cls := 12, lo := 0, n := 16, num := 17, ty := .u16, acc := .rw, rng := .int 0 65535 }
def FB.GRAY : Mem := { name := "GRAY", cls := 12, lo := 0, n := 16, num := 18, ty := .u8, acc := .rw, rng := .int 0 1, dflt := 1 }
def FB.MTSIGN : Mem := { name := "MTSIGN", cls := 12, lo := 0, n := 16, num := 19, ty := .u8, acc := .rw, rng := .int 0 1 }
def FB.BITS : Mem := { name := "BITS", cls := 12, lo := 0, n := 16, num := 20, ty := .u8, acc := .ro, rng := .any, dflt := 25 }
def FB.ADV : Mem := { name := "ADV", cls := 12, lo := 0, n := 16, num := 21, ty := .u32, acc := .rw, rng := .belowTw }
def FB.ENCDLY : Mem := { name := "ENCDLY", cls := 12, lo := 0, n := 16, num := 22, ty := .u32, acc := .rw, rng := .int 0 50000 }
def FB.MONO : Mem := { name := "MONO", cls := 12, lo := 0, n := 16, num := 23, ty := .u32, acc := .rw, rng := .int 500 30000, dflt := 2000 }
def FB.AGECOMP : Mem := { name := "AGECOMP", cls := 12, lo := 0, n := 16, num := 24, ty := .u8, acc := .rw, rng := .int 0 1 }
def FB.AGE : Mem := { name := "AGE", cls := 12, lo := 0, n := 16, num := 25, ty := .f32, acc := .ro, rng := .any }
def FB.JUMPMAX : Mem := { name := "JUMPMAX", cls := 12, lo := 0, n := 16, num := 26, ty := .u32, acc := .rw, rng := .any }
def FB.CPR : Mem := { name := "CPR", cls := 12, lo := 0, n := 16, num := 27, ty := .u32, acc := .rw, rng := .int 1 16777216, dflt := 4096 }
def FB.POSINIT : Mem := { name := "POSINIT", cls := 12, lo := 0, n := 16, num := 28, ty := .i64, acc := .rw, rng := .int (-140737488355328) 140737488355327 }
def FB.FILT : Mem := { name := "FILT", cls := 12, lo := 0, n := 16, num := 29, ty := .u8, acc := .rw, rng := .int 2 255, dflt := 8 }
def FB.MINSP : Mem := { name := "MINSP", cls := 12, lo := 0, n := 16, num := 30, ty := .u16, acc := .rw, rng := .int 0 65535 }
def FB.MAXACT : Mem := { name := "MAXACT", cls := 12, lo := 0, n := 16, num := 31, ty := .u16, acc := .rw, rng := .int 0 65535 }
def FB.EDGEMAX : Mem := { name := "EDGEMAX", cls := 12, lo := 0, n := 16, num := 32, ty := .u16, acc := .rw, rng := .int 1 65535, dflt := 8 }
def FB.LOSSN : Mem := { name := "LOSSN", cls := 12, lo := 0, n := 16, num := 33, ty := .u8, acc := .rw, rng := .int 1 16, dflt := 3 }
def FB.FRZN : Mem := { name := "FRZN", cls := 12, lo := 0, n := 16, num := 34, ty := .u16, acc := .rw, rng := .int 2 65535, dflt := 250 }
def FB.FRZSPD : Mem := { name := "FRZSPD", cls := 12, lo := 0, n := 16, num := 35, ty := .f32, acc := .rw, rng := .fltGt0, dflt := 0x447a0000 }
def FB.FRZTRQ : Mem := { name := "FRZTRQ", cls := 12, lo := 0, n := 16, num := 36, ty := .f32, acc := .rw, rng := .flt 0x3F800000 0x43960000, dflt := 0x41a00000 }
def FB.FBKCH : Mem := { name := "FBKCH", cls := 12, lo := 0, n := 16, num := 37, ty := .u8, acc := .rw, rng := .intOr 0 15 255, dflt := 255 }
def FB.SEL : Mem := { name := "SEL", cls := 12, lo := 0, n := 16, num := 38, ty := .u8, acc := .rw, rng := .int 0 1 }
def FB.OFFP : Mem := { name := "OFFP", cls := 12, lo := 0, n := 16, num := 39, ty := .i64, acc := .ro, rng := .any }
def FB.POSSET : Mem := { name := "POSSET", cls := 12, lo := 0, n := 16, num := 40, ty := .i64, acc := .wo, rng := .any }
def FB.TWIN : Mem := { name := "TWIN", cls := 12, lo := 0, n := 16, num := 41, ty := .u32, acc := .rw, rng := .int 2500 10000000, dflt := 250000 }
def FB.TSS : Mem := { name := "TSS", cls := 12, lo := 0, n := 16, num := 42, ty := .u32, acc := .rw, rng := .int 1000 1000000, dflt := 50000 }
def FB.VTAU : Mem := { name := "VTAU", cls := 12, lo := 0, n := 16, num := 43, ty := .u32, acc := .rw, rng := .zeroOrTwTo 100000 }
def FB.IDXMODE : Mem := { name := "IDXMODE", cls := 12, lo := 0, n := 16, num := 44, ty := .u8, acc := .rw, rng := .int 0 3, dflt := 1 }
def FB.IDXGATE : Mem := { name := "IDXGATE", cls := 12, lo := 0, n := 16, num := 45, ty := .u8, acc := .rw, rng := .int 0 1 }
def FB.IDXARM : Mem := { name := "IDXARM", cls := 12, lo := 0, n := 16, num := 46, ty := .u8, acc := .wo, rng := .int 0 1 }
def FB.IDXPOS : Mem := { name := "IDXPOS", cls := 12, lo := 0, n := 16, num := 47, ty := .u32, acc := .rw, rng := .belowCpr }
def FB.IDXTOL : Mem := { name := "IDXTOL", cls := 12, lo := 0, n := 16, num := 48, ty := .u16, acc := .rw, rng := .int 0 65535, dflt := 2 }
def FB.IDXESC : Mem := { name := "IDXESC", cls := 12, lo := 0, n := 16, num := 49, ty := .u8, acc := .rw, rng := .int 0 255, dflt := 4 }
def FB.IDXLAT : Mem := { name := "IDXLAT", cls := 12, lo := 0, n := 16, num := 50, ty := .i64, acc := .ro, rng := .any }
def FB.IDXERR : Mem := { name := "IDXERR", cls := 12, lo := 0, n := 16, num := 51, ty := .i64, acc := .ro, rng := .any }
def FB.POS : Mem := { name := "POS", cls := 12, lo := 0, n := 16, num := 52, ty := .i64, acc := .ro, rng := .any }
def FB.SPEED : Mem := { name := "SPEED", cls := 12, lo := 0, n := 16, num := 53, ty := .f32, acc := .ro, rng := .any }
def FB.SPEEDF : Mem := { name := "SPEEDF", cls := 12, lo := 0, n := 16, num := 54, ty := .f32, acc := .ro, rng := .any }
def FB.STATE : Mem := { name := "STATE", cls := 12, lo := 0, n := 16, num := 55, ty := .u8, acc := .ro, rng := .any }
def FB.NORESP : Mem := { name := "NORESP", cls := 12, lo := 0, n := 16, num := 56, ty := .u32, acc := .rw, rng := .clr }
def FB.CRCERR : Mem := { name := "CRCERR", cls := 12, lo := 0, n := 16, num := 57, ty := .u32, acc := .rw, rng := .clr }
def FB.BADFRM : Mem := { name := "BADFRM", cls := 12, lo := 0, n := 16, num := 58, ty := .u32, acc := .rw, rng := .clr }
def FB.EDGEFLT : Mem := { name := "EDGEFLT", cls := 12, lo := 0, n := 16, num := 59, ty := .u32, acc := .rw, rng := .clr }
def FB.GLITCH : Mem := { name := "GLITCH", cls := 12, lo := 0, n := 16, num := 60, ty := .u32, acc := .rw, rng := .clr }
def FB.IDXMIS : Mem := { name := "IDXMIS", cls := 12, lo := 0, n := 16, num := 61, ty := .u32, acc := .rw, rng := .clr }
def FB.CLEAR : Mem := { name := "CLEAR", cls := 12, lo := 0, n := 16, num := 62, ty := .u8, acc := .wo, rng := .int 1 1 }

def FB.rows : List Mem := [FB.MODE, FB.INV, FB.SSIDIV, FB.SAMPDLY, FB.LEAD, FB.LEADVAL, FB.MT, FB.ST, FB.STAT, FB.STATERR, FB.STATLOW, FB.CRCLEN, FB.CRCPOLY, FB.CRCINIT, FB.CRCXOR, FB.GRAY, FB.MTSIGN, FB.BITS, FB.ADV, FB.ENCDLY, FB.MONO, FB.AGECOMP, FB.AGE, FB.JUMPMAX, FB.CPR, FB.POSINIT, FB.FILT, FB.MINSP, FB.MAXACT, FB.EDGEMAX, FB.LOSSN, FB.FRZN, FB.FRZSPD, FB.FRZTRQ, FB.FBKCH, FB.SEL, FB.OFFP, FB.POSSET, FB.TWIN, FB.TSS, FB.VTAU, FB.IDXMODE, FB.IDXGATE, FB.IDXARM, FB.IDXPOS, FB.IDXTOL, FB.IDXESC, FB.IDXLAT, FB.IDXERR, FB.POS, FB.SPEED, FB.SPEEDF, FB.STATE, FB.NORESP, FB.CRCERR, FB.BADFRM, FB.EDGEFLT, FB.GLITCH, FB.IDXMIS, FB.CLEAR]

/-! Class CMPU (R146). -/
def CMPU.SRC : Mem := { name := "SRC", cls := 12, lo := 16, n := 4, num := 3, ty := .u8, acc := .rw, rng := .intOr 0 15 255, dflt := 255 }
def CMPU.CMPPOS : Mem := { name := "CMPPOS", cls := 12, lo := 16, n := 4, num := 4, ty := .i64, acc := .rw, rng := .any }
def CMPU.CMPSTEP : Mem := { name := "CMPSTEP", cls := 12, lo := 16, n := 4, num := 5, ty := .i64, acc := .rw, rng := .any }
def CMPU.CMPDIR : Mem := { name := "CMPDIR", cls := 12, lo := 16, n := 4, num := 6, ty := .u8, acc := .rw, rng := .int 0 2 }
def CMPU.OUTDIO : Mem := { name := "OUTDIO", cls := 12, lo := 16, n := 4, num := 7, ty := .u8, acc := .rw, rng := .intOr 0 31 255, dflt := 255 }
def CMPU.PULSEW : Mem := { name := "PULSEW", cls := 12, lo := 16, n := 4, num := 8, ty := .u32, acc := .rw, rng := .int 100 10000000, dflt := 1000 }
def CMPU.HITS : Mem := { name := "HITS", cls := 12, lo := 16, n := 4, num := 9, ty := .u32, acc := .ro, rng := .any }

def CMPU.rows : List Mem := [CMPU.SRC, CMPU.CMPPOS, CMPU.CMPSTEP, CMPU.CMPDIR, CMPU.OUTDIO, CMPU.PULSEW, CMPU.HITS]

/-! Class EO (R147). -/
def EO.ENABLE : Mem := { name := "ENABLE", cls := 12, lo := 20, n := 4, num := 1, ty := .u8, acc := .rw, rng := .int 0 1 }
def EO.SRC : Mem := { name := "SRC", cls := 12, lo := 20, n := 4, num := 3, ty := .u8, acc := .rw, rng := .int 0 31 }
def EO.LINES : Mem := { name := "LINES", cls := 12, lo := 20, n := 4, num := 4, ty := .u32, acc := .rw, rng := .int 1 65536, dflt := 1024 }
def EO.INDEXF : Mem := { name := "INDEXF", cls := 12, lo := 20, n := 4, num := 5, ty := .u32, acc := .rw, rng := .any }
def EO.INV : Mem := { name := "INV", cls := 12, lo := 20, n := 4, num := 6, ty := .u8, acc := .rw, rng := .int 0 1 }
def EO.SLIP : Mem := { name := "SLIP", cls := 12, lo := 20, n := 4, num := 7, ty := .u32, acc := .rw, rng := .clr }

def EO.rows : List Mem := [EO.ENABLE, EO.SRC, EO.LINES, EO.INDEXF, EO.INV, EO.SLIP]

/-! Class SD (R170). -/
def SD.ENABLE : Mem := { name := "ENABLE", cls := 13, lo := 0, n := 48, num := 1, ty := .u8, acc := .rw, rng := .int 0 1 }
def SD.CLK : Mem := { name := "CLK", cls := 13, lo := 0, n := 48, num := 3, ty := .u8, acc := .rw, rng := .int 0 5 }
def SD.SAMPDLY : Mem := { name := "SAMPDLY", cls := 13, lo := 0, n := 48, num := 4, ty := .u8, acc := .rw, rng := .int 0 31, dflt := 8 }
def SD.MC : Mem := { name := "MC", cls := 13, lo := 0, n := 48, num := 5, ty := .u16, acc := .rw, rng := .int 8 256, dflt := 32 }
def SD.MT : Mem := { name := "MT", cls := 13, lo := 0, n := 48, num := 6, ty := .u8, acc := .rws, rng := .int 4 64, dflt := 16 }
def SD.SCALE : Mem := { name := "SCALE", cls := 13, lo := 0, n := 48, num := 7, ty := .f32, acc := .rw, rng := .fltNz, dflt := 0x3f800000 }
def SD.GCOR : Mem := { name := "GCOR", cls := 13, lo := 0, n := 48, num := 8, ty := .f32, acc := .rw, rng := .flt 0x3F666666 0x3F8CCCCD, dflt := 0x3f800000 }
def SD.OFFS : Mem := { name := "OFFS", cls := 13, lo := 0, n := 48, num := 9, ty := .f32, acc := .rw, rng := .flt 0xBD4CCCCD 0x3D4CCCCD }
def SD.ZEROCAP : Mem := { name := "ZEROCAP", cls := 13, lo := 0, n := 48, num := 10, ty := .u8, acc := .rw, rng := .int 0 1, dflt := 1 }
def SD.GAINREF : Mem := { name := "GAINREF", cls := 13, lo := 0, n := 48, num := 11, ty := .f32, acc := .wo, rng := .any }
def SD.TRIPHI : Mem := { name := "TRIPHI", cls := 13, lo := 0, n := 48, num := 12, ty := .f32, acc := .rws, rng := .any, dflt := 0x7f7fc99e }
def SD.TRIPLO : Mem := { name := "TRIPLO", cls := 13, lo := 0, n := 48, num := 13, ty := .f32, acc := .rws, rng := .any, dflt := 0xff7fc99e }
def SD.TRIPCNT : Mem := { name := "TRIPCNT", cls := 13, lo := 0, n := 48, num := 14, ty := .u8, acc := .rws, rng := .int 1 255, dflt := 1 }
def SD.TRIPIN : Mem := { name := "TRIPIN", cls := 13, lo := 0, n := 48, num := 15, ty := .u8, acc := .rws, rng := .intOr 0 15 255, dflt := 255 }
def SD.LOSSTRIP : Mem := { name := "LOSSTRIP", cls := 13, lo := 0, n := 48, num := 16, ty := .u8, acc := .rws, rng := .int 0 1, dflt := 1 }
def SD.RUNMAX : Mem := { name := "RUNMAX", cls := 13, lo := 0, n := 48, num := 17, ty := .u16, acc := .rw, rng := .int 16 4096, dflt := 128 }
def SD.CLIPD : Mem := { name := "CLIPD", cls := 13, lo := 0, n := 48, num := 18, ty := .f32, acc := .rw, rng := .flt 0x3F000000 0x3F733333, dflt := 0x3f47ae14 }
def SD.CLIPN : Mem := { name := "CLIPN", cls := 13, lo := 0, n := 48, num := 19, ty := .u16, acc := .rw, rng := .int 1 65535, dflt := 4 }
def SD.VALUE : Mem := { name := "VALUE", cls := 13, lo := 0, n := 48, num := 20, ty := .f32, acc := .ro, rng := .any }
def SD.TVALUE : Mem := { name := "TVALUE", cls := 13, lo := 0, n := 48, num := 21, ty := .f32, acc := .ro, rng := .any }
def SD.DELAY : Mem := { name := "DELAY", cls := 13, lo := 0, n := 48, num := 22, ty := .f32, acc := .ro, rng := .any }
def SD.STATE : Mem := { name := "STATE", cls := 13, lo := 0, n := 48, num := 23, ty := .u8, acc := .ro, rng := .any }
def SD.CLEAR : Mem := { name := "CLEAR", cls := 13, lo := 0, n := 48, num := 24, ty := .u8, acc := .wo, rng := .int 1 1 }

def SD.rows : List Mem := [SD.ENABLE, SD.CLK, SD.SAMPDLY, SD.MC, SD.MT, SD.SCALE, SD.GCOR, SD.OFFS, SD.ZEROCAP, SD.GAINREF, SD.TRIPHI, SD.TRIPLO, SD.TRIPCNT, SD.TRIPIN, SD.LOSSTRIP, SD.RUNMAX, SD.CLIPD, SD.CLIPN, SD.VALUE, SD.TVALUE, SD.DELAY, SD.STATE, SD.CLEAR]

end Sys2Proof.Machine
end

