-- ==== Sys2Proof/Machine/DictC.lean ====
section
/-! DEFINITION. The object dictionary, part 3 of 4: one row per member table of the chapters, in their order.
The spec fixes the members' names, types, ranges, defaults and accesses, the numbers 0x000–0x002 and the table
members' numbers; the other numbers are those DICT_READ returns, consecutive here (DESIGN CHOICE, log entry 3). -/
namespace Sys2Proof.Machine

/-! Class SDCLK (R171). -/
def SDCLK.ENABLE : Mem := { name := "ENABLE", cls := 13, lo := 48, n := 6, num := 1, ty := .u8, acc := .rw, rng := .int 0 1 }
def SDCLK.DIV : Mem := { name := "DIV", cls := 13, lo := 48, n := 6, num := 3, ty := .u8, acc := .rw, rng := .int 16 80, dflt := 20 }

def SDCLK.rows : List Mem := [SDCLK.ENABLE, SDCLK.DIV]

/-! Class AIN (R172). -/
def AIN.PERIOD : Mem := { name := "PERIOD", cls := 14, lo := 0, n := 8, num := 3, ty := .u16, acc := .rw, rng := .int 0 1000 }
def AIN.AVG : Mem := { name := "AVG", cls := 14, lo := 0, n := 8, num := 4, ty := .u8, acc := .rw, rng := .int 1 16, dflt := 1 }
def AIN.GAIN : Mem := { name := "GAIN", cls := 14, lo := 0, n := 8, num := 5, ty := .f32, acc := .rw, rng := .fltNz, dflt := 0x3f800000 }
def AIN.ZERO : Mem := { name := "ZERO", cls := 14, lo := 0, n := 8, num := 6, ty := .f32, acc := .rw, rng := .flt 0x00000000 0x3FE66666 }
def AIN.DBAND : Mem := { name := "DBAND", cls := 14, lo := 0, n := 8, num := 7, ty := .f32, acc := .rw, rng := .fltGe0 }
def AIN.TAU : Mem := { name := "TAU", cls := 14, lo := 0, n := 8, num := 8, ty := .u32, acc := .rw, rng := .zeroOr 10 10000000 }
def AIN.LOLIM : Mem := { name := "LOLIM", cls := 14, lo := 0, n := 8, num := 9, ty := .f32, acc := .rw, rng := .flt 0x00000000 0x3FE66666 }
def AIN.HILIM : Mem := { name := "HILIM", cls := 14, lo := 0, n := 8, num := 10, ty := .f32, acc := .rw, rng := .flt 0x00000000 0x3FE66666, dflt := 0x3fe66666 }
def AIN.RANGEN : Mem := { name := "RANGEN", cls := 14, lo := 0, n := 8, num := 11, ty := .u8, acc := .rw, rng := .int 1 255, dflt := 3 }
def AIN.VOLTS : Mem := { name := "VOLTS", cls := 14, lo := 0, n := 8, num := 12, ty := .f32, acc := .ro, rng := .any }
def AIN.VALUE : Mem := { name := "VALUE", cls := 14, lo := 0, n := 8, num := 13, ty := .f32, acc := .ro, rng := .any }
def AIN.STATE : Mem := { name := "STATE", cls := 14, lo := 0, n := 8, num := 14, ty := .u8, acc := .ro, rng := .any }
def AIN.SKIP : Mem := { name := "SKIP", cls := 14, lo := 0, n := 8, num := 15, ty := .u32, acc := .rw, rng := .clr }

def AIN.rows : List Mem := [AIN.PERIOD, AIN.AVG, AIN.GAIN, AIN.ZERO, AIN.DBAND, AIN.TAU, AIN.LOLIM, AIN.HILIM, AIN.RANGEN, AIN.VOLTS, AIN.VALUE, AIN.STATE, AIN.SKIP]

/-! Class DIO (R145, R678). -/
def DIO.FUNC : Mem := { name := "FUNC", cls := 15, lo := 0, n := 32, num := 3, ty := .u8, acc := .rw, rng := .int 0 3 }
def DIO.POL : Mem := { name := "POL", cls := 15, lo := 0, n := 32, num := 4, ty := .u8, acc := .rw, rng := .int 0 1 }
def DIO.FILT : Mem := { name := "FILT", cls := 15, lo := 0, n := 32, num := 5, ty := .u32, acc := .rw, rng := .step 0 10000000 100, dflt := 200000 }
def DIO.MINSP : Mem := { name := "MINSP", cls := 15, lo := 0, n := 32, num := 6, ty := .u32, acc := .rw, rng := .step 0 100000000 100 }
def DIO.MAXACT : Mem := { name := "MAXACT", cls := 15, lo := 0, n := 32, num := 7, ty := .u16, acc := .rw, rng := .int 0 65535 }
def DIO.GLITCHMAX : Mem := { name := "GLITCHMAX", cls := 15, lo := 0, n := 32, num := 8, ty := .u16, acc := .rw, rng := .int 1 65535, dflt := 100 }
def DIO.SPACEMAX : Mem := { name := "SPACEMAX", cls := 15, lo := 0, n := 32, num := 9, ty := .u16, acc := .rw, rng := .int 1 65535, dflt := 10 }
def DIO.LATCHCH : Mem := { name := "LATCHCH", cls := 15, lo := 0, n := 32, num := 10, ty := .u8, acc := .rw, rng := .intOr 0 15 255, dflt := 255 }
def DIO.LATCHEDGE : Mem := { name := "LATCHEDGE", cls := 15, lo := 0, n := 32, num := 11, ty := .u8, acc := .rw, rng := .int 1 3, dflt := 1 }
def DIO.LATCHPOS : Mem := { name := "LATCHPOS", cls := 15, lo := 0, n := 32, num := 12, ty := .i64, acc := .ro, rng := .any }
def DIO.LATCHT : Mem := { name := "LATCHT", cls := 15, lo := 0, n := 32, num := 13, ty := .u64, acc := .ro, rng := .any }
def DIO.LATCHNEW : Mem := { name := "LATCHNEW", cls := 15, lo := 0, n := 32, num := 14, ty := .u8, acc := .w1c, rng := .any }
def DIO.LATCHOVR : Mem := { name := "LATCHOVR", cls := 15, lo := 0, n := 32, num := 15, ty := .u32, acc := .rw, rng := .clr }
def DIO.STATE : Mem := { name := "STATE", cls := 15, lo := 0, n := 32, num := 16, ty := .u8, acc := .ro, rng := .any }
def DIO.VALID : Mem := { name := "VALID", cls := 15, lo := 0, n := 32, num := 17, ty := .u8, acc := .ro, rng := .any, dflt := 1 }
def DIO.CLEAR : Mem := { name := "CLEAR", cls := 15, lo := 0, n := 32, num := 18, ty := .u8, acc := .wo, rng := .int 1 1 }
def DIO.WAKE : Mem := { name := "WAKE", cls := 15, lo := 0, n := 32, num := 19, ty := .u8, acc := .rw, rng := .int 0 1 }

def DIO.rows : List Mem := [DIO.FUNC, DIO.POL, DIO.FILT, DIO.MINSP, DIO.MAXACT, DIO.GLITCHMAX, DIO.SPACEMAX, DIO.LATCHCH, DIO.LATCHEDGE, DIO.LATCHPOS, DIO.LATCHT, DIO.LATCHNEW, DIO.LATCHOVR, DIO.STATE, DIO.VALID, DIO.CLEAR, DIO.WAKE]

/-! Class LOOP (R213, R237). -/
def LOOP.KIND : Mem := { name := "KIND", cls := 16, lo := 0, n := 96, num := 3, ty := .u8, acc := .ro, rng := .any, dsel := 1 }
def LOOP.KP : Mem := { name := "KP", cls := 16, lo := 0, n := 96, num := 4, ty := .f32, acc := .rw, rng := .fltGe0 }
def LOOP.KI : Mem := { name := "KI", cls := 16, lo := 0, n := 96, num := 5, ty := .f32, acc := .rw, rng := .fltGe0 }
def LOOP.KPD : Mem := { name := "KPD", cls := 16, lo := 0, n := 96, num := 6, ty := .f32, acc := .rw, rng := .fltGe0 }
def LOOP.KID : Mem := { name := "KID", cls := 16, lo := 0, n := 96, num := 7, ty := .f32, acc := .rw, rng := .fltGe0 }
def LOOP.ILIM : Mem := { name := "ILIM", cls := 16, lo := 0, n := 96, num := 8, ty := .f32, acc := .rw, rng := .fltGe0 }
def LOOP.FREEZE : Mem := { name := "FREEZE", cls := 16, lo := 0, n := 96, num := 9, ty := .u8, acc := .rw, rng := .int 0 1 }
def LOOP.FRZACK : Mem := { name := "FRZACK", cls := 16, lo := 0, n := 96, num := 10, ty := .u8, acc := .ro, rng := .any }
def LOOP.FRZMAX : Mem := { name := "FRZMAX", cls := 16, lo := 0, n := 96, num := 11, ty := .u16, acc := .rw, rng := .int 1 10000, dflt := 100 }
def LOOP.IPRESET : Mem := { name := "IPRESET", cls := 16, lo := 0, n := 96, num := 12, ty := .f32, acc := .wo, rng := .any }
def LOOP.INTEG : Mem := { name := "INTEG", cls := 16, lo := 0, n := 96, num := 13, ty := .f32, acc := .ro, rng := .any }
def LOOP.SAT : Mem := { name := "SAT", cls := 16, lo := 0, n := 96, num := 14, ty := .u8, acc := .ro, rng := .any }
def LOOP.SATCNT : Mem := { name := "SATCNT", cls := 16, lo := 0, n := 96, num := 15, ty := .u32, acc := .rw, rng := .clr }
def LOOP.OBSBW : Mem := { name := "OBSBW", cls := 16, lo := 0, n := 96, num := 16, ty := .f32, acc := .rw, rng := .flt 0x3F800000 0x43FA0000, dflt := 0x41a00000 }
def LOOP.JOBS : Mem := { name := "JOBS", cls := 16, lo := 0, n := 96, num := 17, ty := .f32, acc := .rw, rng := .fltGt0, dflt := 0x3f800000 }
def LOOP.VEST : Mem := { name := "VEST", cls := 16, lo := 0, n := 96, num := 18, ty := .f32, acc := .ro, rng := .any }
def LOOP.TLEST : Mem := { name := "TLEST", cls := 16, lo := 0, n := 96, num := 19, ty := .f32, acc := .ro, rng := .any }
def LOOP.ATSTART : Mem := { name := "ATSTART", cls := 16, lo := 0, n := 96, num := 20, ty := .u8, acc := .wo, rng := .int 0 1 }
def LOOP.ATRULE : Mem := { name := "ATRULE", cls := 16, lo := 0, n := 96, num := 21, ty := .u8, acc := .rw, rng := .int 0 1, dflt := 1 }
def LOOP.ATD : Mem := { name := "ATD", cls := 16, lo := 0, n := 96, num := 22, ty := .f32, acc := .rw, rng := .fltGt0 }
def LOOP.ATEPS : Mem := { name := "ATEPS", cls := 16, lo := 0, n := 96, num := 23, ty := .f32, acc := .rw, rng := .fltGe0 }
def LOOP.ATCYC : Mem := { name := "ATCYC", cls := 16, lo := 0, n := 96, num := 24, ty := .u8, acc := .rw, rng := .int 2 32, dflt := 8 }
def LOOP.ATMAX : Mem := { name := "ATMAX", cls := 16, lo := 0, n := 96, num := 25, ty := .u32, acc := .rw, rng := .int 10 600000, dflt := 10000 }
def LOOP.ATVLIM : Mem := { name := "ATVLIM", cls := 16, lo := 0, n := 96, num := 26, ty := .f32, acc := .rw, rng := .fltGt0, dflt := 0x42480000 }
def LOOP.ATAPPLY : Mem := { name := "ATAPPLY", cls := 16, lo := 0, n := 96, num := 27, ty := .u8, acc := .rw, rng := .int 0 1 }
def LOOP.ATSTATE : Mem := { name := "ATSTATE", cls := 16, lo := 0, n := 96, num := 28, ty := .u8, acc := .ro, rng := .any }
def LOOP.ATKU : Mem := { name := "ATKU", cls := 16, lo := 0, n := 96, num := 29, ty := .f32, acc := .ro, rng := .any }
def LOOP.ATA : Mem := { name := "ATA", cls := 16, lo := 0, n := 96, num := 30, ty := .f32, acc := .ro, rng := .any }
def LOOP.ATTU : Mem := { name := "ATTU", cls := 16, lo := 0, n := 96, num := 31, ty := .f32, acc := .ro, rng := .any }
def LOOP.ATTI : Mem := { name := "ATTI", cls := 16, lo := 0, n := 96, num := 32, ty := .f32, acc := .ro, rng := .any }
def LOOP.ATKP : Mem := { name := "ATKP", cls := 16, lo := 0, n := 96, num := 33, ty := .f32, acc := .ro, rng := .any }
def LOOP.ATKI : Mem := { name := "ATKI", cls := 16, lo := 0, n := 96, num := 34, ty := .f32, acc := .ro, rng := .any }
def LOOP.ATKPPU : Mem := { name := "ATKPPU", cls := 16, lo := 0, n := 96, num := 35, ty := .f32, acc := .ro, rng := .any }

def LOOP.rows : List Mem := [LOOP.KIND, LOOP.KP, LOOP.KI, LOOP.KPD, LOOP.KID, LOOP.ILIM, LOOP.FREEZE, LOOP.FRZACK, LOOP.FRZMAX, LOOP.IPRESET, LOOP.INTEG, LOOP.SAT, LOOP.SATCNT, LOOP.OBSBW, LOOP.JOBS, LOOP.VEST, LOOP.TLEST, LOOP.ATSTART, LOOP.ATRULE, LOOP.ATD, LOOP.ATEPS, LOOP.ATCYC, LOOP.ATMAX, LOOP.ATVLIM, LOOP.ATAPPLY, LOOP.ATSTATE, LOOP.ATKU, LOOP.ATA, LOOP.ATTU, LOOP.ATTI, LOOP.ATKP, LOOP.ATKI, LOOP.ATKPPU]

/-! Class FF (R216). -/
def FF.AXIS : Mem := { name := "AXIS", cls := 17, lo := 0, n := 64, num := 3, ty := .u8, acc := .rw, rng := .intOr 0 15 255, dflt := 255 }
def FF.MACH : Mem := { name := "MACH", cls := 17, lo := 0, n := 64, num := 4, ty := .u8, acc := .rw, rng := .intOr 0 31 255, dflt := 255 }
def FF.KIND : Mem := { name := "KIND", cls := 17, lo := 0, n := 64, num := 5, ty := .u8, acc := .rw, rng := .int 0 1 }
def FF.N : Mem := { name := "N", cls := 17, lo := 0, n := 64, num := 6, ty := .u16, acc := .rw, rng := .int 16 2048, dflt := 64 }
def FF.START : Mem := { name := "START", cls := 17, lo := 0, n := 64, num := 7, ty := .i64, acc := .rw, rng := .any }
def FF.SPAN : Mem := { name := "SPAN", cls := 17, lo := 0, n := 64, num := 8, ty := .i64, acc := .rw, rng := .int 1 9223372036854775807, dflt := 4294967296 }
def FF.PERIODIC : Mem := { name := "PERIODIC", cls := 17, lo := 0, n := 64, num := 9, ty := .u8, acc := .rw, rng := .int 0 1, dflt := 1 }
def FF.KFF : Mem := { name := "KFF", cls := 17, lo := 0, n := 64, num := 10, ty := .f32, acc := .rw, rng := .flt 0x00000000 0x40000000, dflt := 0x3f800000 }
def FF.FRV : Mem := { name := "FRV", cls := 17, lo := 0, n := 64, num := 11, ty := .f32, acc := .rw, rng := .fltGt0, dflt := 0x3f800000 }
def FF.FRSRC : Mem := { name := "FRSRC", cls := 17, lo := 0, n := 64, num := 12, ty := .u8, acc := .rw, rng := .int 0 1 }
def FF.FFLIM : Mem := { name := "FFLIM", cls := 17, lo := 0, n := 64, num := 13, ty := .f32, acc := .rw, rng := .fltGe0 }
def FF.FADE : Mem := { name := "FADE", cls := 17, lo := 0, n := 64, num := 14, ty := .u16, acc := .rw, rng := .int 0 10000, dflt := 100 }
def FF.ACTIVE : Mem := { name := "ACTIVE", cls := 17, lo := 0, n := 64, num := 15, ty := .u8, acc := .rw, rng := .int 0 1 }
def FF.CRCCHK : Mem := { name := "CRCCHK", cls := 17, lo := 0, n := 64, num := 16, ty := .u8, acc := .rw, rng := .int 0 1, dflt := 1 }
def FF.EXPCRC : Mem := { name := "EXPCRC", cls := 17, lo := 0, n := 64, num := 17, ty := .u32, acc := .rw, rng := .any }
def FF.TABCRC : Mem := { name := "TABCRC", cls := 17, lo := 0, n := 64, num := 18, ty := .u32, acc := .ro, rng := .any }
def FF.ENTRY : Mem := { name := "ENTRY", cls := 17, lo := 0, n := 64, num := 1024, cnt := 2048, ty := .f32, acc := .rw, rng := .any }

def FF.rows : List Mem := [FF.AXIS, FF.MACH, FF.KIND, FF.N, FF.START, FF.SPAN, FF.PERIODIC, FF.KFF, FF.FRV, FF.FRSRC, FF.FFLIM, FF.FADE, FF.ACTIVE, FF.CRCCHK, FF.EXPCRC, FF.TABCRC, FF.ENTRY]

/-! Class PROF (R280). -/
def PROF.VLIM : Mem := { name := "VLIM", cls := 18, lo := 0, n := 16, num := 3, ty := .f32, acc := .rw, rng := .fltGe0 }
def PROF.ALIM : Mem := { name := "ALIM", cls := 18, lo := 0, n := 16, num := 4, ty := .f32, acc := .rw, rng := .fltGe0 }
def PROF.DLIM : Mem := { name := "DLIM", cls := 18, lo := 0, n := 16, num := 5, ty := .f32, acc := .rw, rng := .fltGe0 }
def PROF.JLIM : Mem := { name := "JLIM", cls := 18, lo := 0, n := 16, num := 6, ty := .f32, acc := .rw, rng := .fltGe0 }
def PROF.LRATE : Mem := { name := "LRATE", cls := 18, lo := 0, n := 16, num := 7, ty := .f32, acc := .rw, rng := .fltGe0 }
def PROF.HAULV : Mem := { name := "HAULV", cls := 18, lo := 0, n := 16, num := 8, ty := .f32, acc := .rw, rng := .fltGe0 }
def PROF.PAYV : Mem := { name := "PAYV", cls := 18, lo := 0, n := 16, num := 9, ty := .f32, acc := .rw, rng := .fltGe0 }
def PROF.HAULA : Mem := { name := "HAULA", cls := 18, lo := 0, n := 16, num := 10, ty := .f32, acc := .rw, rng := .fltGe0 }
def PROF.PAYA : Mem := { name := "PAYA", cls := 18, lo := 0, n := 16, num := 11, ty := .f32, acc := .rw, rng := .fltGe0 }
def PROF.PMIN : Mem := { name := "PMIN", cls := 18, lo := 0, n := 16, num := 12, ty := .i64, acc := .rw, rng := .any, dflt := -9223372036854775808 }
def PROF.PMAX : Mem := { name := "PMAX", cls := 18, lo := 0, n := 16, num := 13, ty := .i64, acc := .rw, rng := .any, dflt := 9223372036854775807 }
def PROF.SOFTEN : Mem := { name := "SOFTEN", cls := 18, lo := 0, n := 16, num := 14, ty := .u8, acc := .rw, rng := .int 0 2 }
def PROF.MODULO : Mem := { name := "MODULO", cls := 18, lo := 0, n := 16, num := 15, ty := .i64, acc := .rw, rng := .int 0 9223372036854775807 }
def PROF.MODDIR : Mem := { name := "MODDIR", cls := 18, lo := 0, n := 16, num := 16, ty := .u8, acc := .rw, rng := .int 0 2 }
def PROF.LIMP : Mem := { name := "LIMP", cls := 18, lo := 0, n := 16, num := 17, ty := .u8, acc := .rw, rng := .intOr 0 31 255, dflt := 255 }
def PROF.LIMN : Mem := { name := "LIMN", cls := 18, lo := 0, n := 16, num := 18, ty := .u8, acc := .rw, rng := .intOr 0 31 255, dflt := 255 }
def PROF.LIMSTOP : Mem := { name := "LIMSTOP", cls := 18, lo := 0, n := 16, num := 19, ty := .u8, acc := .rw, rng := .intOr 0 2 255, dflt := 255 }
def PROF.HMETH : Mem := { name := "HMETH", cls := 18, lo := 0, n := 16, num := 20, ty := .u8, acc := .rw, rng := .int 0 3 }
def PROF.HDIO : Mem := { name := "HDIO", cls := 18, lo := 0, n := 16, num := 21, ty := .u8, acc := .rw, rng := .intOr 0 31 255, dflt := 255 }
def PROF.REGDIO : Mem := { name := "REGDIO", cls := 18, lo := 0, n := 16, num := 22, ty := .u8, acc := .rw, rng := .intOr 0 31 255, dflt := 255 }
def PROF.HDIST : Mem := { name := "HDIST", cls := 18, lo := 0, n := 16, num := 23, ty := .i64, acc := .rw, rng := .int 0 9223372036854775807 }
def PROF.HOMED : Mem := { name := "HOMED", cls := 18, lo := 0, n := 16, num := 24, ty := .u8, acc := .ro, rng := .any }
def PROF.TYPE : Mem := { name := "TYPE", cls := 18, lo := 0, n := 16, num := 25, ty := .u8, acc := .rw, rng := .int 1 8, dflt := 1 }
def PROF.TARGET : Mem := { name := "TARGET", cls := 18, lo := 0, n := 16, num := 26, ty := .i64, acc := .rw, rng := .any }
def PROF.REGD : Mem := { name := "REGD", cls := 18, lo := 0, n := 16, num := 27, ty := .i64, acc := .rw, rng := .any }
def PROF.VEL : Mem := { name := "VEL", cls := 18, lo := 0, n := 16, num := 28, ty := .f32, acc := .rw, rng := .any }
def PROF.ACC : Mem := { name := "ACC", cls := 18, lo := 0, n := 16, num := 29, ty := .f32, acc := .rw, rng := .any }
def PROF.DEC : Mem := { name := "DEC", cls := 18, lo := 0, n := 16, num := 30, ty := .f32, acc := .rw, rng := .any }
def PROF.JERK : Mem := { name := "JERK", cls := 18, lo := 0, n := 16, num := 31, ty := .f32, acc := .rw, rng := .any }
def PROF.LEVEL : Mem := { name := "LEVEL", cls := 18, lo := 0, n := 16, num := 32, ty := .f32, acc := .rw, rng := .any }
def PROF.TIME : Mem := { name := "TIME", cls := 18, lo := 0, n := 16, num := 33, ty := .u32, acc := .rw, rng := .any }
def PROF.FLAGS : Mem := { name := "FLAGS", cls := 18, lo := 0, n := 16, num := 34, ty := .u8, acc := .rw, rng := .int 0 15 }
def PROF.TAG : Mem := { name := "TAG", cls := 18, lo := 0, n := 16, num := 35, ty := .u16, acc := .rw, rng := .any }
def PROF.PUSH : Mem := { name := "PUSH", cls := 18, lo := 0, n := 16, num := 36, ty := .u8, acc := .wo, rng := .int 1 2 }
def PROF.FLUSH : Mem := { name := "FLUSH", cls := 18, lo := 0, n := 16, num := 37, ty := .u8, acc := .wo, rng := .int 1 1 }
def PROF.GSRC : Mem := { name := "GSRC", cls := 18, lo := 0, n := 16, num := 38, ty := .u8, acc := .rw, rng := .intOr 0 31 255, dflt := 255 }
def PROF.GORIG : Mem := { name := "GORIG", cls := 18, lo := 0, n := 16, num := 39, ty := .i64, acc := .rw, rng := .any }
def PROF.GPERIOD : Mem := { name := "GPERIOD", cls := 18, lo := 0, n := 16, num := 40, ty := .i64, acc := .rw, rng := .int 0 9223372036854775807 }
def PROF.GNSEG : Mem := { name := "GNSEG", cls := 18, lo := 0, n := 16, num := 41, ty := .u8, acc := .rw, rng := .int 1 32, dflt := 1 }
def PROF.GM : Mem := { name := "GM", cls := 18, lo := 0, n := 16, num := 42, cnt := 32, ty := .i64, acc := .rw, rng := .any }
def PROF.GBL : Mem := { name := "GBL", cls := 18, lo := 0, n := 16, num := 74, cnt := 32, ty := .i64, acc := .rw, rng := .any }
def PROF.GNUM : Mem := { name := "GNUM", cls := 18, lo := 0, n := 16, num := 106, cnt := 32, ty := .i32, acc := .rw, rng := .any }
def PROF.GDEN : Mem := { name := "GDEN", cls := 18, lo := 0, n := 16, num := 138, cnt := 32, ty := .u32, acc := .rw, rng := .int 1 4294967295, dflt := 1 }
def PROF.GENG : Mem := { name := "GENG", cls := 18, lo := 0, n := 16, num := 170, ty := .i64, acc := .rw, rng := .int 0 9223372036854775807 }
def PROF.GABS : Mem := { name := "GABS", cls := 18, lo := 0, n := 16, num := 171, ty := .u8, acc := .rw, rng := .int 0 1 }
def PROF.GOVACT : Mem := { name := "GOVACT", cls := 18, lo := 0, n := 16, num := 172, ty := .u8, acc := .rw, rng := .int 0 1 }
def PROF.GOFF : Mem := { name := "GOFF", cls := 18, lo := 0, n := 16, num := 173, ty := .i64, acc := .rw, rng := .any }
def PROF.GTOL : Mem := { name := "GTOL", cls := 18, lo := 0, n := 16, num := 174, ty := .i64, acc := .rw, rng := .int 0 9223372036854775807 }
def PROF.GABSV : Mem := { name := "GABSV", cls := 18, lo := 0, n := 16, num := 175, ty := .f32, acc := .rw, rng := .fltGe0 }
def PROF.LAYDIO : Mem := { name := "LAYDIO", cls := 18, lo := 0, n := 16, num := 176, ty := .u8, acc := .rw, rng := .intOr 0 31 255, dflt := 255 }
def PROF.LAYTOL : Mem := { name := "LAYTOL", cls := 18, lo := 0, n := 16, num := 177, ty := .i64, acc := .rw, rng := .int 0 9223372036854775807 }
def PROF.GSEGACT : Mem := { name := "GSEGACT", cls := 18, lo := 0, n := 16, num := 178, ty := .u8, acc := .ro, rng := .any }
def PROF.GSEGCNT : Mem := { name := "GSEGCNT", cls := 18, lo := 0, n := 16, num := 179, ty := .i32, acc := .ro, rng := .any }
def PROF.GRATIO : Mem := { name := "GRATIO", cls := 18, lo := 0, n := 16, num := 180, ty := .f32, acc := .ro, rng := .any }
def PROF.HOLDEN : Mem := { name := "HOLDEN", cls := 18, lo := 0, n := 16, num := 181, ty := .u8, acc := .rw, rng := .int 0 1 }
def PROF.BRKAUTO : Mem := { name := "BRKAUTO", cls := 18, lo := 0, n := 16, num := 182, ty := .u8, acc := .rw, rng := .int 0 1 }
def PROF.HOLDT : Mem := { name := "HOLDT", cls := 18, lo := 0, n := 16, num := 183, ty := .u32, acc := .rw, rng := .int 0 600000, dflt := 2000 }
def PROF.HOLDFRAC : Mem := { name := "HOLDFRAC", cls := 18, lo := 0, n := 16, num := 184, ty := .f32, acc := .rw, rng := .flt 0x00000000 0x3F800000, dflt := 0x3e99999a }
def PROF.HOLDRAMP : Mem := { name := "HOLDRAMP", cls := 18, lo := 0, n := 16, num := 185, ty := .u16, acc := .rw, rng := .int 0 10000, dflt := 100 }
def PROF.HOLDDEV : Mem := { name := "HOLDDEV", cls := 18, lo := 0, n := 16, num := 186, ty := .i64, acc := .rw, rng := .int 1 9223372036854775807, dflt := 42949673 }
def PROF.STILLV : Mem := { name := "STILLV", cls := 18, lo := 0, n := 16, num := 187, ty := .f32, acc := .rw, rng := .fltGe0, dflt := 0x3f800000 }
def PROF.BRKIN : Mem := { name := "BRKIN", cls := 18, lo := 0, n := 16, num := 188, ty := .u16, acc := .rw, rng := .srcB, dflt := 65535 }
def PROF.BRKAPT : Mem := { name := "BRKAPT", cls := 18, lo := 0, n := 16, num := 189, ty := .u32, acc := .rw, rng := .int 0 60000, dflt := 500 }
def PROF.BRKTMO : Mem := { name := "BRKTMO", cls := 18, lo := 0, n := 16, num := 190, ty := .u32, acc := .rw, rng := .int 0 60000, dflt := 2000 }
def PROF.BRKREQ : Mem := { name := "BRKREQ", cls := 18, lo := 0, n := 16, num := 191, ty := .u8, acc := .ro, rng := .any }
def PROF.HOLDACT : Mem := { name := "HOLDACT", cls := 18, lo := 0, n := 16, num := 192, ty := .u8, acc := .ro, rng := .any }
def PROF.STATE : Mem := { name := "STATE", cls := 18, lo := 0, n := 16, num := 193, ty := .u8, acc := .ro, rng := .any }
def PROF.QLEN : Mem := { name := "QLEN", cls := 18, lo := 0, n := 16, num := 194, ty := .u8, acc := .ro, rng := .any }
def PROF.ACTTAG : Mem := { name := "ACTTAG", cls := 18, lo := 0, n := 16, num := 195, ty := .u16, acc := .ro, rng := .any }
def PROF.DONETAG : Mem := { name := "DONETAG", cls := 18, lo := 0, n := 16, num := 196, ty := .u16, acc := .ro, rng := .any }
def PROF.FLUSHCNT : Mem := { name := "FLUSHCNT", cls := 18, lo := 0, n := 16, num := 197, ty := .u32, acc := .rw, rng := .clr }
def PROF.EVT : Mem := { name := "EVT", cls := 18, lo := 0, n := 16, num := 198, ty := .u16, acc := .w1c, rng := .any }
def PROF.PPROF : Mem := { name := "PPROF", cls := 18, lo := 0, n := 16, num := 199, ty := .i64, acc := .ro, rng := .any }
def PROF.POSMOD : Mem := { name := "POSMOD", cls := 18, lo := 0, n := 16, num := 200, ty := .i64, acc := .ro, rng := .any }
def PROF.VPROF : Mem := { name := "VPROF", cls := 18, lo := 0, n := 16, num := 201, ty := .f32, acc := .ro, rng := .any }
def PROF.APROF : Mem := { name := "APROF", cls := 18, lo := 0, n := 16, num := 202, ty := .f32, acc := .ro, rng := .any }

def PROF.rows : List Mem := [PROF.VLIM, PROF.ALIM, PROF.DLIM, PROF.JLIM, PROF.LRATE, PROF.HAULV, PROF.PAYV, PROF.HAULA, PROF.PAYA, PROF.PMIN, PROF.PMAX, PROF.SOFTEN, PROF.MODULO, PROF.MODDIR, PROF.LIMP, PROF.LIMN, PROF.LIMSTOP, PROF.HMETH, PROF.HDIO, PROF.REGDIO, PROF.HDIST, PROF.HOMED, PROF.TYPE, PROF.TARGET, PROF.REGD, PROF.VEL, PROF.ACC, PROF.DEC, PROF.JERK, PROF.LEVEL, PROF.TIME, PROF.FLAGS, PROF.TAG, PROF.PUSH, PROF.FLUSH, PROF.GSRC, PROF.GORIG, PROF.GPERIOD, PROF.GNSEG, PROF.GM, PROF.GBL, PROF.GNUM, PROF.GDEN, PROF.GENG, PROF.GABS, PROF.GOVACT, PROF.GOFF, PROF.GTOL, PROF.GABSV, PROF.LAYDIO, PROF.LAYTOL, PROF.GSEGACT, PROF.GSEGCNT, PROF.GRATIO, PROF.HOLDEN, PROF.BRKAUTO, PROF.HOLDT, PROF.HOLDFRAC, PROF.HOLDRAMP, PROF.HOLDDEV, PROF.STILLV, PROF.BRKIN, PROF.BRKAPT, PROF.BRKTMO, PROF.BRKREQ, PROF.HOLDACT, PROF.STATE, PROF.QLEN, PROF.ACTTAG, PROF.DONETAG, PROF.FLUSHCNT, PROF.EVT, PROF.PPROF, PROF.POSMOD, PROF.VPROF, PROF.APROF]

/-! Class POOL (R310). -/
def POOL.POLICY : Mem := { name := "POLICY", cls := 19, lo := 0, n := 16, num := 3, ty := .u8, acc := .rw, rng := .int 0 3 }
def POOL.POLACT : Mem := { name := "POLACT", cls := 19, lo := 0, n := 16, num := 4, ty := .u8, acc := .ro, rng := .any }
def POOL.MINM : Mem := { name := "MINM", cls := 19, lo := 0, n := 16, num := 5, ty := .u8, acc := .rw, rng := .int 1 8, dflt := 1 }
def POOL.HFLOOR : Mem := { name := "HFLOOR", cls := 19, lo := 0, n := 16, num := 6, ty := .f32, acc := .rw, rng := .flt 0x3D4CCCCD 0x3F800000, dflt := 0x3dcccccd }
def POOL.FOLTAU : Mem := { name := "FOLTAU", cls := 19, lo := 0, n := 16, num := 7, ty := .u32, acc := .rw, rng := .zeroOrTwTo 1000000, dflt := 20000 }
def POOL.PJOIN : Mem := { name := "PJOIN", cls := 19, lo := 0, n := 16, num := 8, ty := .u16, acc := .rw, rng := .int 0 10000, dflt := 200 }
def POOL.PRELOAD : Mem := { name := "PRELOAD", cls := 19, lo := 0, n := 16, num := 9, ty := .f32, acc := .rw, rng := .fltGe0 }
def POOL.PRELX : Mem := { name := "PRELX", cls := 19, lo := 0, n := 16, num := 10, ty := .f32, acc := .rw, rng := .fltGt0, dflt := 0x447a0000 }
def POOL.PRELRAMP : Mem := { name := "PRELRAMP", cls := 19, lo := 0, n := 16, num := 11, ty := .u16, acc := .rw, rng := .int 0 10000, dflt := 500 }
def POOL.BRKOUT : Mem := { name := "BRKOUT", cls := 19, lo := 0, n := 16, num := 12, ty := .u16, acc := .rw, rng := .srcB, dflt := 65535 }
def POOL.BRKSLIP : Mem := { name := "BRKSLIP", cls := 19, lo := 0, n := 16, num := 13, ty := .i64, acc := .rw, rng := .int 0 9223372036854775807 }
def POOL.MEMBERS : Mem := { name := "MEMBERS", cls := 19, lo := 0, n := 16, num := 14, ty := .u32, acc := .ro, rng := .any }
def POOL.NACT : Mem := { name := "NACT", cls := 19, lo := 0, n := 16, num := 15, ty := .u8, acc := .ro, rng := .any }
def POOL.POOLSAT : Mem := { name := "POOLSAT", cls := 19, lo := 0, n := 16, num := 16, ty := .u8, acc := .ro, rng := .any }
def POOL.PRELACT : Mem := { name := "PRELACT", cls := 19, lo := 0, n := 16, num := 17, ty := .u8, acc := .ro, rng := .any }

def POOL.rows : List Mem := [POOL.POLICY, POOL.POLACT, POOL.MINM, POOL.HFLOOR, POOL.FOLTAU, POOL.PJOIN, POOL.PRELOAD, POOL.PRELX, POOL.PRELRAMP, POOL.BRKOUT, POOL.BRKSLIP, POOL.MEMBERS, POOL.NACT, POOL.POOLSAT, POOL.PRELACT]

/-! Class GIVE (R312). -/
def GIVE.EN : Mem := { name := "EN", cls := 20, lo := 0, n := 16, num := 1, ty := .u8, acc := .rw, rng := .int 0 1 }
def GIVE.GDIR : Mem := { name := "GDIR", cls := 20, lo := 0, n := 16, num := 3, ty := .i8, acc := .rws, rng := .oneOf [-1, 1], dflt := -1 }
def GIVE.TRIG : Mem := { name := "TRIG", cls := 20, lo := 0, n := 16, num := 4, ty := .u8, acc := .rw, rng := .int 0 7, dflt := 1 }
def GIVE.GLTRIG : Mem := { name := "GLTRIG", cls := 20, lo := 0, n := 16, num := 5, ty := .f32, acc := .rw, rng := .any, dflt := 0x7f7fc99e }
def GIVE.GLREL : Mem := { name := "GLREL", cls := 20, lo := 0, n := 16, num := 6, ty := .f32, acc := .rw, rng := .any }
def GIVE.GRTRIG : Mem := { name := "GRTRIG", cls := 20, lo := 0, n := 16, num := 7, ty := .f32, acc := .rw, rng := .fltGt0, dflt := 0x7f7fc99e }
def GIVE.GRWIN : Mem := { name := "GRWIN", cls := 20, lo := 0, n := 16, num := 8, ty := .u32, acc := .rw, rng := .twTo 100000, dflt := 10000 }
def GIVE.GTTRIG : Mem := { name := "GTTRIG", cls := 20, lo := 0, n := 16, num := 9, ty := .f32, acc := .rw, rng := .fltGt0, dflt := 0x7f7fc99e }
def GIVE.GRELT : Mem := { name := "GRELT", cls := 20, lo := 0, n := 16, num := 10, ty := .u16, acc := .rw, rng := .int 1 10000, dflt := 200 }
def GIVE.GK : Mem := { name := "GK", cls := 20, lo := 0, n := 16, num := 11, ty := .f32, acc := .rw, rng := .fltGt0, dflt := 0x447a0000 }
def GIVE.GD : Mem := { name := "GD", cls := 20, lo := 0, n := 16, num := 12, ty := .f32, acc := .rw, rng := .fltGe0 }
def GIVE.GTPAY : Mem := { name := "GTPAY", cls := 20, lo := 0, n := 16, num := 13, ty := .f32, acc := .rws, rng := .any }
def GIVE.GTMAX : Mem := { name := "GTMAX", cls := 20, lo := 0, n := 16, num := 14, ty := .f32, acc := .rws, rng := .any }
def GIVE.GPAYV : Mem := { name := "GPAYV", cls := 20, lo := 0, n := 16, num := 15, ty := .f32, acc := .rws, rng := .fltGe0 }
def GIVE.GPMAX : Mem := { name := "GPMAX", cls := 20, lo := 0, n := 16, num := 16, ty := .f32, acc := .rws, rng := .fltGt0, dflt := 0x3f800000 }
def GIVE.GMAXT : Mem := { name := "GMAXT", cls := 20, lo := 0, n := 16, num := 17, ty := .u32, acc := .rws, rng := .int 10 600000, dflt := 10000 }
def GIVE.GRECT : Mem := { name := "GRECT", cls := 20, lo := 0, n := 16, num := 18, ty := .u16, acc := .rw, rng := .int 0 10000, dflt := 500 }
def GIVE.STATE : Mem := { name := "STATE", cls := 20, lo := 0, n := 16, num := 19, ty := .u8, acc := .ro, rng := .any }
def GIVE.GPAID : Mem := { name := "GPAID", cls := 20, lo := 0, n := 16, num := 20, ty := .f32, acc := .ro, rng := .any }
def GIVE.GPEAK : Mem := { name := "GPEAK", cls := 20, lo := 0, n := 16, num := 21, ty := .f32, acc := .ro, rng := .any }
def GIVE.GCOUNT : Mem := { name := "GCOUNT", cls := 20, lo := 0, n := 16, num := 22, ty := .u32, acc := .rw, rng := .clr }

def GIVE.rows : List Mem := [GIVE.EN, GIVE.GDIR, GIVE.TRIG, GIVE.GLTRIG, GIVE.GLREL, GIVE.GRTRIG, GIVE.GRWIN, GIVE.GTTRIG, GIVE.GRELT, GIVE.GK, GIVE.GD, GIVE.GTPAY, GIVE.GTMAX, GIVE.GPAYV, GIVE.GPMAX, GIVE.GMAXT, GIVE.GRECT, GIVE.STATE, GIVE.GPAID, GIVE.GPEAK, GIVE.GCOUNT]

end Sys2Proof.Machine
end

