-- ==== Sys2Proof/Machine/DictD.lean ====
section
/-! DEFINITION. The object dictionary, part 4 of 4: one row per member table of the chapters, in their order.
The spec fixes the members' names, types, ranges, defaults and accesses, the numbers 0x000–0x002 and the table
members' numbers; the other numbers are those DICT_READ returns, consecutive here (DESIGN CHOICE, log entry 3). -/
namespace Sys2Proof.Machine

/-! Class STOP (R486). -/
def STOP.REQ : Mem := { name := "REQ", cls := 21, lo := 0, n := 16, num := 3, ty := .u8, acc := .wo, rng := .int 0 2 }
def STOP.EREQ : Mem := { name := "EREQ", cls := 21, lo := 0, n := 16, num := 4, ty := .u8, acc := .wos, rng := .int 2 4 }
def STOP.ACK : Mem := { name := "ACK", cls := 21, lo := 0, n := 16, num := 5, ty := .u8, acc := .wo, rng := .int 1 1 }
def STOP.STOPDEC : Mem := { name := "STOPDEC", cls := 21, lo := 0, n := 16, num := 6, ty := .f32, acc := .rws, rng := .fltGe0 }
def STOP.SPDSTOP : Mem := { name := "SPDSTOP", cls := 21, lo := 0, n := 16, num := 7, ty := .u8, acc := .rws, rng := .int 0 1 }
def STOP.STOPTRATE : Mem := { name := "STOPTRATE", cls := 21, lo := 0, n := 16, num := 8, ty := .f32, acc := .rws, rng := .fltGe0 }
def STOP.MONDEC : Mem := { name := "MONDEC", cls := 21, lo := 0, n := 16, num := 9, ty := .f32, acc := .rws, rng := .fltGe0 }
def STOP.MONTOL : Mem := { name := "MONTOL", cls := 21, lo := 0, n := 16, num := 10, ty := .f32, acc := .rws, rng := .fltGe0, dflt := 0x42480000 }
def STOP.STOPT : Mem := { name := "STOPT", cls := 21, lo := 0, n := 16, num := 11, ty := .u32, acc := .rws, rng := .int 10 600000, dflt := 10000 }
def STOP.STOPREST : Mem := { name := "STOPREST", cls := 21, lo := 0, n := 16, num := 12, ty := .u16, acc := .rw, rng := .int 0 10000, dflt := 100 }
def STOP.BRKSETT : Mem := { name := "BRKSETT", cls := 21, lo := 0, n := 16, num := 13, ty := .u16, acc := .rws, rng := .int 0 10000, dflt := 500 }
def STOP.STOREQ : Mem := { name := "STOREQ", cls := 21, lo := 0, n := 16, num := 14, ty := .u8, acc := .rws, rng := .intOr 0 31 255, dflt := 255 }
def STOP.RELEN : Mem := { name := "RELEN", cls := 21, lo := 0, n := 16, num := 15, ty := .u8, acc := .rws, rng := .int 0 1 }
def STOP.RELFALL : Mem := { name := "RELFALL", cls := 21, lo := 0, n := 16, num := 16, ty := .u8, acc := .rws, rng := .int 0 1, dflt := 1 }
def STOP.RELT : Mem := { name := "RELT", cls := 21, lo := 0, n := 16, num := 17, ty := .f32, acc := .rws, rng := .fltGe0 }
def STOP.RELTQ : Mem := { name := "RELTQ", cls := 21, lo := 0, n := 16, num := 18, ty := .f32, acc := .rws, rng := .fltGe0 }
def STOP.RELV : Mem := { name := "RELV", cls := 21, lo := 0, n := 16, num := 19, ty := .f32, acc := .rws, rng := .fltGe0 }
def STOP.RTEN : Mem := { name := "RTEN", cls := 21, lo := 0, n := 16, num := 20, ty := .u8, acc := .rw, rng := .int 0 1 }
def STOP.RTVON : Mem := { name := "RTVON", cls := 21, lo := 0, n := 16, num := 21, ty := .f32, acc := .rw, rng := .fltGe0, dflt := 0x3f666666 }
def STOP.RTVREF : Mem := { name := "RTVREF", cls := 21, lo := 0, n := 16, num := 22, ty := .f32, acc := .rw, rng := .fltGe0, dflt := 0x3f733333 }
def STOP.RTVOFF : Mem := { name := "RTVOFF", cls := 21, lo := 0, n := 16, num := 23, ty := .f32, acc := .rw, rng := .fltGe0, dflt := 0x3f7851ec }
def STOP.KRT : Mem := { name := "KRT", cls := 21, lo := 0, n := 16, num := 24, ty := .f32, acc := .rw, rng := .fltGe0 }
def STOP.RTTMAX : Mem := { name := "RTTMAX", cls := 21, lo := 0, n := 16, num := 25, ty := .f32, acc := .rw, rng := .fltGe0 }
def STOP.RTN : Mem := { name := "RTN", cls := 21, lo := 0, n := 16, num := 26, ty := .u8, acc := .rw, rng := .int 1 255, dflt := 5 }
def STOP.RTRET : Mem := { name := "RTRET", cls := 21, lo := 0, n := 16, num := 27, ty := .u32, acc := .rw, rng := .int 1 60000, dflt := 200 }
def STOP.RTMAXT : Mem := { name := "RTMAXT", cls := 21, lo := 0, n := 16, num := 28, ty := .u32, acc := .rw, rng := .int 1 60000, dflt := 5000 }
def STOP.RTVMIN : Mem := { name := "RTVMIN", cls := 21, lo := 0, n := 16, num := 29, ty := .f32, acc := .rw, rng := .fltGe0 }
def STOP.RTSTOP : Mem := { name := "RTSTOP", cls := 21, lo := 0, n := 16, num := 30, ty := .u8, acc := .rw, rng := .int 0 2 }
def STOP.STATE : Mem := { name := "STATE", cls := 21, lo := 0, n := 16, num := 31, ty := .u8, acc := .ro, rng := .any }
def STOP.CAT : Mem := { name := "CAT", cls := 21, lo := 0, n := 16, num := 32, ty := .u8, acc := .ro, rng := .any, dflt := 255 }
def STOP.CAUSE : Mem := { name := "CAUSE", cls := 21, lo := 0, n := 16, num := 33, ty := .u8, acc := .ro, rng := .any, dflt := 255 }

def STOP.rows : List Mem := [STOP.REQ, STOP.EREQ, STOP.ACK, STOP.STOPDEC, STOP.SPDSTOP, STOP.STOPTRATE, STOP.MONDEC, STOP.MONTOL, STOP.STOPT, STOP.STOPREST, STOP.BRKSETT, STOP.STOREQ, STOP.RELEN, STOP.RELFALL, STOP.RELT, STOP.RELTQ, STOP.RELV, STOP.RTEN, STOP.RTVON, STOP.RTVREF, STOP.RTVOFF, STOP.KRT, STOP.RTTMAX, STOP.RTN, STOP.RTRET, STOP.RTMAXT, STOP.RTVMIN, STOP.RTSTOP, STOP.STATE, STOP.CAT, STOP.CAUSE]

/-! Class SRC (R487). -/
def SRC.ACTION : Mem := { name := "ACTION", cls := 21, lo := 16, n := 48, num := 3, ty := .u8, acc := .rws, rng := .int 0 4 }
def SRC.CAT : Mem := { name := "CAT", cls := 21, lo := 16, n := 48, num := 4, ty := .u8, acc := .rws, rng := .int 0 2 }
def SRC.SCOPE : Mem := { name := "SCOPE", cls := 21, lo := 16, n := 48, num := 5, ty := .u8, acc := .rws, rng := .int 0 1 }
def SRC.AXMASK : Mem := { name := "AXMASK", cls := 21, lo := 16, n := 48, num := 6, ty := .u16, acc := .rws, rng := .any }
def SRC.LATCHED : Mem := { name := "LATCHED", cls := 21, lo := 16, n := 48, num := 7, ty := .u8, acc := .ro, rng := .any }
def SRC.CLEAR : Mem := { name := "CLEAR", cls := 21, lo := 16, n := 48, num := 8, ty := .u8, acc := .wo, rng := .int 1 1 }
def SRC.COUNT : Mem := { name := "COUNT", cls := 21, lo := 16, n := 48, num := 9, ty := .u32, acc := .rw, rng := .clr }

def SRC.rows : List Mem := [SRC.ACTION, SRC.CAT, SRC.SCOPE, SRC.AXMASK, SRC.LATCHED, SRC.CLEAR, SRC.COUNT]

/-! Class STOPDEV (R657, R488). -/
def STOPDEV.RCLEAR : Mem := { name := "RCLEAR", cls := 21, lo := 64, n := 1, num := 3, ty := .u8, acc := .wo, rng := .int 1 1 }
def STOPDEV.SUPHOLD : Mem := { name := "SUPHOLD", cls := 21, lo := 64, n := 1, num := 4, ty := .u32, acc := .rw, rng := .int 0 60000, dflt := 1000 }
def STOPDEV.SUPCNT : Mem := { name := "SUPCNT", cls := 21, lo := 64, n := 1, num := 5, ty := .u32, acc := .rw, rng := .clr }
def STOPDEV.DONEGEN : Mem := { name := "DONEGEN", cls := 21, lo := 64, n := 1, num := 6, ty := .u32, acc := .ro, rng := .any }
def STOPDEV.ACTIVE : Mem := { name := "ACTIVE", cls := 21, lo := 64, n := 1, num := 7, ty := .u16, acc := .ro, rng := .any }
def STOPDEV.TCLEAR : Mem := { name := "TCLEAR", cls := 21, lo := 64, n := 1, num := 8, ty := .u8, acc := .wo, rng := .int 1 1 }

def STOPDEV.rows : List Mem := [STOPDEV.RCLEAR, STOPDEV.SUPHOLD, STOPDEV.SUPCNT, STOPDEV.DONEGEN, STOPDEV.ACTIVE, STOPDEV.TCLEAR]

/-! Class CAN (R580, R657, R678). -/
def CAN.EN : Mem := { name := "EN", cls := 22, lo := 0, n := 4, num := 1, ty := .u8, acc := .rw, rng := .int 0 1 }
def CAN.NBRP : Mem := { name := "NBRP", cls := 22, lo := 0, n := 4, num := 3, ty := .u16, acc := .rw, rng := .int 1 256, dflt := 2 }
def CAN.NTSEG1 : Mem := { name := "NTSEG1", cls := 22, lo := 0, n := 4, num := 4, ty := .u16, acc := .rw, rng := .int 2 256, dflt := 63 }
def CAN.NTSEG2 : Mem := { name := "NTSEG2", cls := 22, lo := 0, n := 4, num := 5, ty := .u8, acc := .rw, rng := .int 2 128, dflt := 16 }
def CAN.NSJW : Mem := { name := "NSJW", cls := 22, lo := 0, n := 4, num := 6, ty := .u8, acc := .rw, rng := .int 1 128, dflt := 16 }
def CAN.NTRIP : Mem := { name := "NTRIP", cls := 22, lo := 0, n := 4, num := 7, ty := .u8, acc := .rw, rng := .int 0 1 }
def CAN.FDEN : Mem := { name := "FDEN", cls := 22, lo := 0, n := 4, num := 8, ty := .u8, acc := .rw, rng := .int 0 1 }
def CAN.PEXC : Mem := { name := "PEXC", cls := 22, lo := 0, n := 4, num := 9, ty := .u8, acc := .rw, rng := .int 0 1 }
def CAN.TDCEN : Mem := { name := "TDCEN", cls := 22, lo := 0, n := 4, num := 10, ty := .u8, acc := .rw, rng := .int 0 1 }
def CAN.DBRP : Mem := { name := "DBRP", cls := 22, lo := 0, n := 4, num := 11, ty := .u8, acc := .rw, rng := .int 1 32, dflt := 2 }
def CAN.DTSEG1 : Mem := { name := "DTSEG1", cls := 22, lo := 0, n := 4, num := 12, ty := .u8, acc := .rw, rng := .int 1 32, dflt := 14 }
def CAN.DTSEG2 : Mem := { name := "DTSEG2", cls := 22, lo := 0, n := 4, num := 13, ty := .u8, acc := .rw, rng := .int 1 16, dflt := 5 }
def CAN.DSJW : Mem := { name := "DSJW", cls := 22, lo := 0, n := 4, num := 14, ty := .u8, acc := .rw, rng := .int 1 16, dflt := 5 }
def CAN.TDCO : Mem := { name := "TDCO", cls := 22, lo := 0, n := 4, num := 15, ty := .u8, acc := .rw, rng := .int 0 63 }
def CAN.NBR : Mem := { name := "NBR", cls := 22, lo := 0, n := 4, num := 16, ty := .f32, acc := .ro, rng := .any, dflt := 0x48f42400 }
def CAN.DBR : Mem := { name := "DBR", cls := 22, lo := 0, n := 4, num := 17, ty := .f32, acc := .ro, rng := .any, dflt := 0x49f42400 }
def CAN.TXORD : Mem := { name := "TXORD", cls := 22, lo := 0, n := 4, num := 18, ty := .u8, acc := .rw, rng := .int 0 1 }
def CAN.RETRYMAX : Mem := { name := "RETRYMAX", cls := 22, lo := 0, n := 4, num := 19, ty := .u8, acc := .rw, rng := .any, dflt := 16 }
def CAN.URETRYMAX : Mem := { name := "URETRYMAX", cls := 22, lo := 0, n := 4, num := 20, ty := .u8, acc := .rw, rng := .any }
def CAN.AUTOREC : Mem := { name := "AUTOREC", cls := 22, lo := 0, n := 4, num := 21, ty := .u8, acc := .rw, rng := .int 0 1, dflt := 1 }
def CAN.BOFFMAX : Mem := { name := "BOFFMAX", cls := 22, lo := 0, n := 4, num := 22, ty := .u8, acc := .rw, rng := .any, dflt := 3 }
def CAN.RECOVER : Mem := { name := "RECOVER", cls := 22, lo := 0, n := 4, num := 23, ty := .u8, acc := .wo, rng := .int 1 1 }
def CAN.RESTR : Mem := { name := "RESTR", cls := 22, lo := 0, n := 4, num := 24, ty := .u8, acc := .rw, rng := .int 0 1 }
def CAN.STATE : Mem := { name := "STATE", cls := 22, lo := 0, n := 4, num := 25, ty := .u8, acc := .ro, rng := .any }
def CAN.TEC : Mem := { name := "TEC", cls := 22, lo := 0, n := 4, num := 26, ty := .u16, acc := .ro, rng := .any }
def CAN.REC : Mem := { name := "REC", cls := 22, lo := 0, n := 4, num := 27, ty := .u16, acc := .ro, rng := .any }
def CAN.RECSEQ : Mem := { name := "RECSEQ", cls := 22, lo := 0, n := 4, num := 28, ty := .u8, acc := .ro, rng := .any }
def CAN.TDCV : Mem := { name := "TDCV", cls := 22, lo := 0, n := 4, num := 29, ty := .u8, acc := .ro, rng := .any }
def CAN.TXBST : Mem := { name := "TXBST", cls := 22, lo := 0, n := 4, num := 30, ty := .u8, acc := .ro, rng := .any }
def CAN.RXFR : Mem := { name := "RXFR", cls := 22, lo := 0, n := 4, num := 31, ty := .u32, acc := .rw, rng := .clr }
def CAN.TXFR : Mem := { name := "TXFR", cls := 22, lo := 0, n := 4, num := 32, ty := .u32, acc := .rw, rng := .clr }
def CAN.ERRCNT : Mem := { name := "ERRCNT", cls := 22, lo := 0, n := 4, num := 33, ty := .u32, acc := .rw, rng := .clr }
def CAN.ARBLOST : Mem := { name := "ARBLOST", cls := 22, lo := 0, n := 4, num := 34, ty := .u32, acc := .rw, rng := .clr }
def CAN.BOFFCNT : Mem := { name := "BOFFCNT", cls := 22, lo := 0, n := 4, num := 35, ty := .u32, acc := .rw, rng := .clr }
def CAN.TXFAIL : Mem := { name := "TXFAIL", cls := 22, lo := 0, n := 4, num := 36, ty := .u32, acc := .rw, rng := .clr }
def CAN.TXDROP : Mem := { name := "TXDROP", cls := 22, lo := 0, n := 4, num := 37, ty := .u32, acc := .rw, rng := .clr }
def CAN.PEXCCNT : Mem := { name := "PEXCCNT", cls := 22, lo := 0, n := 4, num := 38, ty := .u32, acc := .rw, rng := .clr }
def CAN.PAUSE : Mem := { name := "PAUSE", cls := 22, lo := 0, n := 4, num := 39, ty := .u32, acc := .rw, rng := .clr }
def CAN.RSTEN : Mem := { name := "RSTEN", cls := 22, lo := 0, n := 4, num := 40, ty := .u8, acc := .rws, rng := .int 0 1 }
def CAN.RSTID : Mem := { name := "RSTID", cls := 22, lo := 0, n := 4, num := 41, ty := .u32, acc := .rws, rng := .canId }
def CAN.WAKEID : Mem := { name := "WAKEID", cls := 22, lo := 0, n := 4, num := 42, ty := .u32, acc := .rw, rng := .canId }
def CAN.WAKEMASK : Mem := { name := "WAKEMASK", cls := 22, lo := 0, n := 4, num := 43, ty := .u32, acc := .rw, rng := .canId, dflt := 536870911 }

def CAN.rows : List Mem := [CAN.EN, CAN.NBRP, CAN.NTSEG1, CAN.NTSEG2, CAN.NSJW, CAN.NTRIP, CAN.FDEN, CAN.PEXC, CAN.TDCEN, CAN.DBRP, CAN.DTSEG1, CAN.DTSEG2, CAN.DSJW, CAN.TDCO, CAN.NBR, CAN.DBR, CAN.TXORD, CAN.RETRYMAX, CAN.URETRYMAX, CAN.AUTOREC, CAN.BOFFMAX, CAN.RECOVER, CAN.RESTR, CAN.STATE, CAN.TEC, CAN.REC, CAN.RECSEQ, CAN.TDCV, CAN.TXBST, CAN.RXFR, CAN.TXFR, CAN.ERRCNT, CAN.ARBLOST, CAN.BOFFCNT, CAN.TXFAIL, CAN.TXDROP, CAN.PEXCCNT, CAN.PAUSE, CAN.RSTEN, CAN.RSTID, CAN.WAKEID, CAN.WAKEMASK]

/-! Class PART (R581). -/
def PART.EN : Mem := { name := "EN", cls := 23, lo := 0, n := 256, num := 1, ty := .u8, acc := .rw, rng := .int 0 1 }
def PART.PORT : Mem := { name := "PORT", cls := 23, lo := 0, n := 256, num := 3, ty := .u8, acc := .rw, rng := .intOr 0 3 255, dflt := 255 }
def PART.KIND : Mem := { name := "KIND", cls := 23, lo := 0, n := 256, num := 4, ty := .u8, acc := .rw, rng := .int 0 2 }
def PART.MACH : Mem := { name := "MACH", cls := 23, lo := 0, n := 256, num := 5, ty := .u8, acc := .rw, rng := .intOr 0 31 255, dflt := 255 }
def PART.RXID : Mem := { name := "RXID", cls := 23, lo := 0, n := 256, num := 6, ty := .u32, acc := .rw, rng := .canId }
def PART.RXMASK : Mem := { name := "RXMASK", cls := 23, lo := 0, n := 256, num := 7, ty := .u32, acc := .rw, rng := .canId, dflt := 536870911 }
def PART.VOFF : Mem := { name := "VOFF", cls := 23, lo := 0, n := 256, num := 8, ty := .u8, acc := .rw, rng := .intOr 0 63 255, dflt := 255 }
def PART.SOFF : Mem := { name := "SOFF", cls := 23, lo := 0, n := 256, num := 9, ty := .u8, acc := .rw, rng := .intOr 0 63 255, dflt := 255 }
def PART.CWOFF : Mem := { name := "CWOFF", cls := 23, lo := 0, n := 256, num := 10, ty := .u8, acc := .rw, rng := .intOr 0 63 255, dflt := 255 }
def PART.OOFF : Mem := { name := "OOFF", cls := 23, lo := 0, n := 256, num := 11, ty := .u8, acc := .rw, rng := .intOr 0 63 255, dflt := 255 }
def PART.VFMT : Mem := { name := "VFMT", cls := 23, lo := 0, n := 256, num := 12, ty := .u8, acc := .rw, rng := .int 0 7 }
def PART.OFMT : Mem := { name := "OFMT", cls := 23, lo := 0, n := 256, num := 13, ty := .u8, acc := .rw, rng := .int 0 7 }
def PART.VGAIN : Mem := { name := "VGAIN", cls := 23, lo := 0, n := 256, num := 14, ty := .f32, acc := .rw, rng := .fltNz, dflt := 0x3f800000 }
def PART.VOFFS : Mem := { name := "VOFFS", cls := 23, lo := 0, n := 256, num := 15, ty := .f32, acc := .rw, rng := .any }
def PART.OGAIN : Mem := { name := "OGAIN", cls := 23, lo := 0, n := 256, num := 16, ty := .f32, acc := .rw, rng := .fltNz, dflt := 0x3f800000 }
def PART.SREADY : Mem := { name := "SREADY", cls := 23, lo := 0, n := 256, num := 17, ty := .u8, acc := .rw, rng := .intOr 0 15 255, dflt := 255 }
def PART.SFLT : Mem := { name := "SFLT", cls := 23, lo := 0, n := 256, num := 18, ty := .u8, acc := .rw, rng := .intOr 0 15 255, dflt := 255 }
def PART.SBRK : Mem := { name := "SBRK", cls := 23, lo := 0, n := 256, num := 19, ty := .u8, acc := .rw, rng := .intOr 0 15 255, dflt := 255 }
def PART.CEN : Mem := { name := "CEN", cls := 23, lo := 0, n := 256, num := 20, ty := .u8, acc := .rw, rng := .intOr 0 15 255, dflt := 255 }
def PART.CBRK : Mem := { name := "CBRK", cls := 23, lo := 0, n := 256, num := 21, ty := .u8, acc := .rw, rng := .intOr 0 15 255, dflt := 255 }
def PART.CWBASE : Mem := { name := "CWBASE", cls := 23, lo := 0, n := 256, num := 22, ty := .u16, acc := .rw, rng := .any }
def PART.SILTMO : Mem := { name := "SILTMO", cls := 23, lo := 0, n := 256, num := 23, ty := .u16, acc := .rw, rng := .int 1 60000, dflt := 100 }
def PART.ENTMO : Mem := { name := "ENTMO", cls := 23, lo := 0, n := 256, num := 24, ty := .u16, acc := .rw, rng := .int 1 60000, dflt := 500 }
def PART.TXID : Mem := { name := "TXID", cls := 23, lo := 0, n := 256, num := 25, ty := .u32, acc := .rw, rng := .canId }
def PART.TXFLAGS : Mem := { name := "TXFLAGS", cls := 23, lo := 0, n := 256, num := 26, ty := .u8, acc := .rw, rng := .int 0 7 }
def PART.TXLEN : Mem := { name := "TXLEN", cls := 23, lo := 0, n := 256, num := 27, ty := .u8, acc := .rw, rng := .int 0 64, dflt := 8 }
def PART.PERIOD : Mem := { name := "PERIOD", cls := 23, lo := 0, n := 256, num := 28, ty := .u16, acc := .rw, rng := .int 0 10000 }
def PART.PHASE : Mem := { name := "PHASE", cls := 23, lo := 0, n := 256, num := 29, ty := .u16, acc := .rw, rng := .any }
def PART.TXDATA : Mem := { name := "TXDATA", cls := 23, lo := 0, n := 256, num := 30, ty := .u64, acc := .rw, rng := .any }
def PART.TXSRC : Mem := { name := "TXSRC", cls := 23, lo := 0, n := 256, num := 31, ty := .u32, acc := .rw, rng := .any }
def PART.VALUE : Mem := { name := "VALUE", cls := 23, lo := 0, n := 256, num := 32, ty := .f32, acc := .ro, rng := .any }
def PART.STAT : Mem := { name := "STAT", cls := 23, lo := 0, n := 256, num := 33, ty := .u16, acc := .ro, rng := .any }
def PART.VALID : Mem := { name := "VALID", cls := 23, lo := 0, n := 256, num := 34, ty := .u8, acc := .ro, rng := .any }
def PART.LASTRX : Mem := { name := "LASTRX", cls := 23, lo := 0, n := 256, num := 35, ty := .u64, acc := .ro, rng := .any }
def PART.RXCNT : Mem := { name := "RXCNT", cls := 23, lo := 0, n := 256, num := 36, ty := .u32, acc := .rw, rng := .clr }
def PART.LOSTTX : Mem := { name := "LOSTTX", cls := 23, lo := 0, n := 256, num := 37, ty := .u32, acc := .rw, rng := .clr }
def PART.REPL : Mem := { name := "REPL", cls := 23, lo := 0, n := 256, num := 38, ty := .u32, acc := .rw, rng := .clr }

def PART.rows : List Mem := [PART.EN, PART.PORT, PART.KIND, PART.MACH, PART.RXID, PART.RXMASK, PART.VOFF, PART.SOFF, PART.CWOFF, PART.OOFF, PART.VFMT, PART.OFMT, PART.VGAIN, PART.VOFFS, PART.OGAIN, PART.SREADY, PART.SFLT, PART.SBRK, PART.CEN, PART.CBRK, PART.CWBASE, PART.SILTMO, PART.ENTMO, PART.TXID, PART.TXFLAGS, PART.TXLEN, PART.PERIOD, PART.PHASE, PART.TXDATA, PART.TXSRC, PART.VALUE, PART.STAT, PART.VALID, PART.LASTRX, PART.RXCNT, PART.LOSTTX, PART.REPL]

/-! Class HRING (R506). -/
def HRING.AGEMAX : Mem := { name := "AGEMAX", cls := 24, lo := 0, n := 16, num := 3, ty := .u32, acc := .rw, rng := .int 0 1000000 }
def HRING.LOST : Mem := { name := "LOST", cls := 24, lo := 0, n := 16, num := 4, ty := .u32, acc := .rw, rng := .clr }

def HRING.rows : List Mem := [HRING.AGEMAX, HRING.LOST]

/-! Class RING (R411). -/
def RING.EN : Mem := { name := "EN", cls := 24, lo := 16, n := 4, num := 1, ty := .u8, acc := .rw, rng := .int 0 1 }
def RING.RUN : Mem := { name := "RUN", cls := 24, lo := 16, n := 4, num := 3, ty := .u8, acc := .rw, rng := .int 0 1 }
def RING.STATE : Mem := { name := "STATE", cls := 24, lo := 16, n := 4, num := 4, ty := .u8, acc := .ro, rng := .any }
def RING.EXPN : Mem := { name := "EXPN", cls := 24, lo := 16, n := 4, num := 5, ty := .u16, acc := .rw, rng := .int 1 384 }
def RING.NCELL : Mem := { name := "NCELL", cls := 24, lo := 16, n := 4, num := 6, ty := .u16, acc := .ro, rng := .any }
def RING.UIDCHK : Mem := { name := "UIDCHK", cls := 24, lo := 16, n := 4, num := 7, ty := .u8, acc := .rw, rng := .int 0 1 }
def RING.DEGRADE : Mem := { name := "DEGRADE", cls := 24, lo := 16, n := 4, num := 8, ty := .u8, acc := .rw, rng := .int 0 1 }
def RING.LINKTMO : Mem := { name := "LINKTMO", cls := 24, lo := 16, n := 4, num := 9, ty := .u16, acc := .rw, rng := .int 10 10000, dflt := 100 }
def RING.ENUMTMO : Mem := { name := "ENUMTMO", cls := 24, lo := 16, n := 4, num := 10, ty := .u16, acc := .rw, rng := .int 10 10000, dflt := 100 }
def RING.SOFF : Mem := { name := "SOFF", cls := 24, lo := 16, n := 4, num := 11, ty := .i32, acc := .rw, rng := .any }
def RING.TAPPX : Mem := { name := "TAPPX", cls := 24, lo := 16, n := 4, num := 12, ty := .u32, acc := .rw, rng := .int 0 10000 }
def RING.TAPPLY : Mem := { name := "TAPPLY", cls := 24, lo := 16, n := 4, num := 13, ty := .f32, acc := .ro, rng := .any }
def RING.LOOP : Mem := { name := "LOOP", cls := 24, lo := 16, n := 4, num := 14, ty := .f32, acc := .ro, rng := .any }
def RING.LOOPA : Mem := { name := "LOOPA", cls := 24, lo := 16, n := 4, num := 15, ty := .f32, acc := .ro, rng := .any }
def RING.LOOPB : Mem := { name := "LOOPB", cls := 24, lo := 16, n := 4, num := 16, ty := .f32, acc := .ro, rng := .any }
def RING.RTT : Mem := { name := "RTT", cls := 24, lo := 16, n := 4, num := 17, ty := .f32, acc := .ro, rng := .any }
def RING.CGEN : Mem := { name := "CGEN", cls := 24, lo := 16, n := 4, num := 18, ty := .u32, acc := .ro, rng := .any }
def RING.BRKA : Mem := { name := "BRKA", cls := 24, lo := 16, n := 4, num := 19, ty := .u16, acc := .ro, rng := .any, dflt := 65535 }
def RING.BRKB : Mem := { name := "BRKB", cls := 24, lo := 16, n := 4, num := 20, ty := .u16, acc := .ro, rng := .any, dflt := 65535 }
def RING.FRTX : Mem := { name := "FRTX", cls := 24, lo := 16, n := 4, num := 21, ty := .u32, acc := .rw, rng := .clr }
def RING.FRRX : Mem := { name := "FRRX", cls := 24, lo := 16, n := 4, num := 22, cnt := 2, ty := .u32, acc := .rw, rng := .clr }
def RING.HCRC : Mem := { name := "HCRC", cls := 24, lo := 16, n := 4, num := 24, cnt := 2, ty := .u32, acc := .rw, rng := .clr }
def RING.CCRC : Mem := { name := "CCRC", cls := 24, lo := 16, n := 4, num := 26, cnt := 2, ty := .u32, acc := .rw, rng := .clr }
def RING.SYM : Mem := { name := "SYM", cls := 24, lo := 16, n := 4, num := 28, cnt := 2, ty := .u32, acc := .rw, rng := .clr }
def RING.TRUNC : Mem := { name := "TRUNC", cls := 24, lo := 16, n := 4, num := 30, cnt := 2, ty := .u32, acc := .rw, rng := .clr }
def RING.SRCFR : Mem := { name := "SRCFR", cls := 24, lo := 16, n := 4, num := 32, cnt := 2, ty := .u32, acc := .rw, rng := .clr }
def RING.LOS : Mem := { name := "LOS", cls := 24, lo := 16, n := 4, num := 34, cnt := 2, ty := .u32, acc := .rw, rng := .clr }
def RING.RLATE : Mem := { name := "RLATE", cls := 24, lo := 16, n := 4, num := 36, ty := .u32, acc := .rw, rng := .clr }

def RING.rows : List Mem := [RING.EN, RING.RUN, RING.STATE, RING.EXPN, RING.NCELL, RING.UIDCHK, RING.DEGRADE, RING.LINKTMO, RING.ENUMTMO, RING.SOFF, RING.TAPPX, RING.TAPPLY, RING.LOOP, RING.LOOPA, RING.LOOPB, RING.RTT, RING.CGEN, RING.BRKA, RING.BRKB, RING.FRTX, RING.FRRX, RING.HCRC, RING.CCRC, RING.SYM, RING.TRUNC, RING.SRCFR, RING.LOS, RING.RLATE]

/-! Class SLOT (R412). -/
def SLOT.UID : Mem := { name := "UID", cls := 24, lo := 256, n := 1536, num := 3, ty := .u64, acc := .ro, rng := .any }
def SLOT.CTYPE : Mem := { name := "CTYPE", cls := 24, lo := 256, n := 1536, num := 4, ty := .u8, acc := .ro, rng := .any }
def SLOT.RESP : Mem := { name := "RESP", cls := 24, lo := 256, n := 1536, num := 5, ty := .u64, acc := .ro, rng := .any }
def SLOT.AGE : Mem := { name := "AGE", cls := 24, lo := 256, n := 1536, num := 6, ty := .u8, acc := .ro, rng := .any, dflt := 255 }
def SLOT.STATE : Mem := { name := "STATE", cls := 24, lo := 256, n := 1536, num := 7, ty := .u8, acc := .ro, rng := .any }
def SLOT.RCRC : Mem := { name := "RCRC", cls := 24, lo := 256, n := 1536, num := 8, cnt := 2, ty := .u32, acc := .rw, rng := .clr }
def SLOT.MISS : Mem := { name := "MISS", cls := 24, lo := 256, n := 1536, num := 10, ty := .u32, acc := .rw, rng := .clr }
def SLOT.DIVERGE : Mem := { name := "DIVERGE", cls := 24, lo := 256, n := 1536, num := 11, ty := .u32, acc := .rw, rng := .clr }

def SLOT.rows : List Mem := [SLOT.UID, SLOT.CTYPE, SLOT.RESP, SLOT.AGE, SLOT.STATE, SLOT.RCRC, SLOT.MISS, SLOT.DIVERGE]

/-! Class LEDGER (R605). -/
def LEDGER.FIRST : Mem := { name := "FIRST", cls := 25, lo := 0, n := 1, num := 3, ty := .u64, acc := .ro, rng := .any }
def LEDGER.NEXT : Mem := { name := "NEXT", cls := 25, lo := 0, n := 1, num := 4, ty := .u64, acc := .ro, rng := .any }
def LEDGER.COALT : Mem := { name := "COALT", cls := 25, lo := 0, n := 1, num := 5, ty := .u16, acc := .rw, rng := .int 0 10000, dflt := 100 }
def LEDGER.SEALN : Mem := { name := "SEALN", cls := 25, lo := 0, n := 1, num := 6, ty := .u16, acc := .rws, rng := .int 14 1022, dflt := 254 }
def LEDGER.SEALT : Mem := { name := "SEALT", cls := 25, lo := 0, n := 1, num := 7, ty := .u32, acc := .rws, rng := .int 1 3600, dflt := 60 }
def LEDGER.MIRROR : Mem := { name := "MIRROR", cls := 25, lo := 0, n := 1, num := 8, ty := .u8, acc := .rw, rng := .int 0 1 }
def LEDGER.TPER : Mem := { name := "TPER", cls := 25, lo := 0, n := 1, num := 9, cnt := 8, ty := .u32, acc := .rw, rng := .zeroOr 1 1000000, dsel := 6 }
def LEDGER.TNCH : Mem := { name := "TNCH", cls := 25, lo := 0, n := 1, num := 17, cnt := 8, ty := .u8, acc := .rw, rng := .int 0 60, dsel := 7 }
def LEDGER.TNODE : Mem := { name := "TNODE", cls := 25, lo := 0, n := 1, num := 25, cnt := 480, ty := .u32, acc := .rw, rng := .any, dsel := 8 }
def LEDGER.TDEC : Mem := { name := "TDEC", cls := 25, lo := 0, n := 1, num := 505, cnt := 8, ty := .u8, acc := .ro, rng := .any, dflt := 1 }
def LEDGER.LOST : Mem := { name := "LOST", cls := 25, lo := 0, n := 1, num := 513, ty := .u32, acc := .rw, rng := .clr }
def LEDGER.OVWR : Mem := { name := "OVWR", cls := 25, lo := 0, n := 1, num := 514, ty := .u32, acc := .rw, rng := .clr }
def LEDGER.MLOST : Mem := { name := "MLOST", cls := 25, lo := 0, n := 1, num := 515, ty := .u32, acc := .rw, rng := .clr }
def LEDGER.TLOST : Mem := { name := "TLOST", cls := 25, lo := 0, n := 1, num := 516, ty := .u32, acc := .rw, rng := .clr }

def LEDGER.rows : List Mem := [LEDGER.FIRST, LEDGER.NEXT, LEDGER.COALT, LEDGER.SEALN, LEDGER.SEALT, LEDGER.MIRROR, LEDGER.TPER, LEDGER.TNCH, LEDGER.TNODE, LEDGER.TDEC, LEDGER.LOST, LEDGER.OVWR, LEDGER.MLOST, LEDGER.TLOST]

/-! Class TRACE (R235). -/
def TRACE.MODE : Mem := { name := "MODE", cls := 26, lo := 0, n := 4, num := 3, ty := .u8, acc := .rw, rng := .int 0 3 }
def TRACE.NCH : Mem := { name := "NCH", cls := 26, lo := 0, n := 4, num := 4, ty := .u8, acc := .rw, rng := .oneOf [1, 3, 7], dflt := 1 }
def TRACE.NODE : Mem := { name := "NODE", cls := 26, lo := 0, n := 4, num := 5, cnt := 7, ty := .u32, acc := .rw, rng := .any }
def TRACE.SBASE : Mem := { name := "SBASE", cls := 26, lo := 0, n := 4, num := 12, ty := .u8, acc := .rw, rng := .int 0 1 }
def TRACE.DEC : Mem := { name := "DEC", cls := 26, lo := 0, n := 4, num := 13, ty := .u16, acc := .rw, rng := .int 1 65535, dflt := 1 }
def TRACE.DECEFF : Mem := { name := "DECEFF", cls := 26, lo := 0, n := 4, num := 14, ty := .u16, acc := .ro, rng := .any, dflt := 1 }
def TRACE.PRE : Mem := { name := "PRE", cls := 26, lo := 0, n := 4, num := 15, ty := .u16, acc := .rw, rng := .any }
def TRACE.TRIGSRC : Mem := { name := "TRIGSRC", cls := 26, lo := 0, n := 4, num := 16, ty := .u8, acc := .rw, rng := .int 0 4 }
def TRACE.TRIGCH : Mem := { name := "TRIGCH", cls := 26, lo := 0, n := 4, num := 17, ty := .u8, acc := .rw, rng := .int 0 6 }
def TRACE.TRIGEDGE : Mem := { name := "TRIGEDGE", cls := 26, lo := 0, n := 4, num := 18, ty := .u8, acc := .rw, rng := .int 1 3, dflt := 1 }
def TRACE.TRIGLVL : Mem := { name := "TRIGLVL", cls := 26, lo := 0, n := 4, num := 19, ty := .f32, acc := .rw, rng := .any }
def TRACE.TRIGLO : Mem := { name := "TRIGLO", cls := 26, lo := 0, n := 4, num := 20, ty := .f32, acc := .rw, rng := .any }
def TRACE.TRIGHI : Mem := { name := "TRIGHI", cls := 26, lo := 0, n := 4, num := 21, ty := .f32, acc := .rw, rng := .any }
def TRACE.TRIGEVT : Mem := { name := "TRIGEVT", cls := 26, lo := 0, n := 4, num := 22, ty := .u8, acc := .rw, rng := .int 0 63 }
def TRACE.OVERWRITE : Mem := { name := "OVERWRITE", cls := 26, lo := 0, n := 4, num := 23, ty := .u8, acc := .rw, rng := .int 0 1 }
def TRACE.DEST : Mem := { name := "DEST", cls := 26, lo := 0, n := 4, num := 24, ty := .u8, acc := .rw, rng := .int 0 1 }
def TRACE.ARM : Mem := { name := "ARM", cls := 26, lo := 0, n := 4, num := 25, ty := .u8, acc := .wo, rng := .int 1 1 }
def TRACE.TRIGNOW : Mem := { name := "TRIGNOW", cls := 26, lo := 0, n := 4, num := 26, ty := .u8, acc := .wo, rng := .int 1 1 }
def TRACE.READ : Mem := { name := "READ", cls := 26, lo := 0, n := 4, num := 27, ty := .u8, acc := .wo, rng := .int 1 1 }
def TRACE.STATE : Mem := { name := "STATE", cls := 26, lo := 0, n := 4, num := 28, ty := .u8, acc := .ro, rng := .any }
def TRACE.DEPTH : Mem := { name := "DEPTH", cls := 26, lo := 0, n := 4, num := 29, ty := .u16, acc := .ro, rng := .any, dflt := 12288 }
def TRACE.PREGOT : Mem := { name := "PREGOT", cls := 26, lo := 0, n := 4, num := 30, ty := .u16, acc := .ro, rng := .any }
def TRACE.TRIGWB : Mem := { name := "TRIGWB", cls := 26, lo := 0, n := 4, num := 31, ty := .u64, acc := .ro, rng := .any }
def TRACE.CAPNO : Mem := { name := "CAPNO", cls := 26, lo := 0, n := 4, num := 32, ty := .u32, acc := .ro, rng := .any }
def TRACE.LOSTCAP : Mem := { name := "LOSTCAP", cls := 26, lo := 0, n := 4, num := 33, ty := .u32, acc := .rw, rng := .clr }
def TRACE.LOSTREC : Mem := { name := "LOSTREC", cls := 26, lo := 0, n := 4, num := 34, ty := .u32, acc := .rw, rng := .clr }
def TRACE.MISSTRIG : Mem := { name := "MISSTRIG", cls := 26, lo := 0, n := 4, num := 35, ty := .u32, acc := .rw, rng := .clr }

def TRACE.rows : List Mem := [TRACE.MODE, TRACE.NCH, TRACE.NODE, TRACE.SBASE, TRACE.DEC, TRACE.DECEFF, TRACE.PRE, TRACE.TRIGSRC, TRACE.TRIGCH, TRACE.TRIGEDGE, TRACE.TRIGLVL, TRACE.TRIGLO, TRACE.TRIGHI, TRACE.TRIGEVT, TRACE.OVERWRITE, TRACE.DEST, TRACE.ARM, TRACE.TRIGNOW, TRACE.READ, TRACE.STATE, TRACE.DEPTH, TRACE.PREGOT, TRACE.TRIGWB, TRACE.CAPNO, TRACE.LOSTCAP, TRACE.LOSTREC, TRACE.MISSTRIG]

/-! Class TRPORT (R236). -/
def TRPORT.PORTEN : Mem := { name := "PORTEN", cls := 26, lo := 4, n := 1, num := 3, ty := .u8, acc := .rws, rng := .int 0 1 }
def TRPORT.PORTBLK : Mem := { name := "PORTBLK", cls := 26, lo := 4, n := 1, num := 4, ty := .u32, acc := .ro, rng := .any }

def TRPORT.rows : List Mem := [TRPORT.PORTEN, TRPORT.PORTBLK]

/-! Class EXCH (R99). -/
def EXCH.ADMITTED : Mem := { name := "ADMITTED", cls := 27, lo := 0, n := 1, num := 3, ty := .u8, acc := .ro, rng := .any }
def EXCH.ISOLATED : Mem := { name := "ISOLATED", cls := 27, lo := 0, n := 1, num := 4, ty := .u8, acc := .ro, rng := .any, dflt := 255 }
def EXCH.RETIRED : Mem := { name := "RETIRED", cls := 27, lo := 0, n := 1, num := 5, ty := .u8, acc := .rws, rng := .any }
def EXCH.CHARGE : Mem := { name := "CHARGE", cls := 27, lo := 0, n := 1, num := 6, ty := .u32, acc := .ro, rng := .any }
def EXCH.ADMCAP : Mem := { name := "ADMCAP", cls := 27, lo := 0, n := 1, num := 7, ty := .u32, acc := .ro, rng := .any }
def EXCH.OCC : Mem := { name := "OCC", cls := 27, lo := 0, n := 1, num := 8, cnt := 8, ty := .u32, acc := .ro, rng := .any }
def EXCH.PGEN : Mem := { name := "PGEN", cls := 27, lo := 0, n := 1, num := 16, ty := .u32, acc := .ro, rng := .any }
def EXCH.PLACE : Mem := { name := "PLACE", cls := 27, lo := 0, n := 1, num := 17, cnt := 168, ty := .o16, acc := .ro, rng := .any }
def EXCH.BALTHR : Mem := { name := "BALTHR", cls := 27, lo := 0, n := 1, num := 185, ty := .u8, acc := .rw, rng := .int 1 50, dflt := 10 }
def EXCH.MIRRORALL : Mem := { name := "MIRRORALL", cls := 27, lo := 0, n := 1, num := 186, ty := .u8, acc := .rw, rng := .int 0 1 }
def EXCH.NLOST : Mem := { name := "NLOST", cls := 27, lo := 0, n := 1, num := 187, ty := .u32, acc := .rw, rng := .clr }

def EXCH.rows : List Mem := [EXCH.ADMITTED, EXCH.ISOLATED, EXCH.RETIRED, EXCH.CHARGE, EXCH.ADMCAP, EXCH.OCC, EXCH.PGEN, EXCH.PLACE, EXCH.BALTHR, EXCH.MIRRORALL, EXCH.NLOST]

/-! Class AUDIT (R604). -/
def AUDIT.PACE : Mem := { name := "PACE", cls := 28, lo := 0, n := 1, num := 3, ty := .u16, acc := .rw, rng := .int 50 2000, dflt := 500 }
def AUDIT.PASSMS : Mem := { name := "PASSMS", cls := 28, lo := 0, n := 1, num := 4, ty := .f32, acc := .ro, rng := .any, dflt := 0x42830000 }
def AUDIT.PASSES : Mem := { name := "PASSES", cls := 28, lo := 0, n := 1, num := 5, ty := .u32, acc := .ro, rng := .any }
def AUDIT.FREEFIX : Mem := { name := "FREEFIX", cls := 28, lo := 0, n := 1, num := 6, ty := .u32, acc := .rw, rng := .clr }
def AUDIT.SRAMCOR : Mem := { name := "SRAMCOR", cls := 28, lo := 0, n := 1, num := 7, ty := .u32, acc := .rw, rng := .clr }
def AUDIT.MRAMCOR : Mem := { name := "MRAMCOR", cls := 28, lo := 0, n := 1, num := 8, ty := .u32, acc := .rw, rng := .clr }
def AUDIT.BANKMAX : Mem := { name := "BANKMAX", cls := 28, lo := 0, n := 1, num := 9, ty := .u16, acc := .rw, rng := .int 1 65535, dflt := 16 }
def AUDIT.BANKAVOID : Mem := { name := "BANKAVOID", cls := 28, lo := 0, n := 1, num := 10, ty := .u16, acc := .w1c, rng := .any }

def AUDIT.rows : List Mem := [AUDIT.PACE, AUDIT.PASSMS, AUDIT.PASSES, AUDIT.FREEFIX, AUDIT.SRAMCOR, AUDIT.MRAMCOR, AUDIT.BANKMAX, AUDIT.BANKAVOID]

/-! Class ASSAY (R604). -/
def ASSAY.CALMAX : Mem := { name := "CALMAX", cls := 29, lo := 0, n := 1, num := 3, ty := .u16, acc := .rw, rng := .int 10 3600, dflt := 60 }
def ASSAY.ZEROPER : Mem := { name := "ZEROPER", cls := 29, lo := 0, n := 1, num := 4, ty := .u32, acc := .rw, rng := .int 60 86400, dflt := 600 }
def ASSAY.TAPAGE : Mem := { name := "TAPAGE", cls := 29, lo := 0, n := 1, num := 5, ty := .f32, acc := .ro, rng := .any }
def ASSAY.SARAGE : Mem := { name := "SARAGE", cls := 29, lo := 0, n := 1, num := 6, ty := .f32, acc := .ro, rng := .any }
def ASSAY.TEMPAGE : Mem := { name := "TEMPAGE", cls := 29, lo := 0, n := 1, num := 7, ty := .f32, acc := .ro, rng := .any }
def ASSAY.TEMPOFF : Mem := { name := "TEMPOFF", cls := 29, lo := 0, n := 1, num := 8, ty := .f32, acc := .ro, rng := .any }
def ASSAY.TESTING : Mem := { name := "TESTING", cls := 29, lo := 0, n := 1, num := 9, ty := .u8, acc := .ro, rng := .any, dflt := 255 }
def ASSAY.TESTMS : Mem := { name := "TESTMS", cls := 29, lo := 0, n := 1, num := 10, ty := .f32, acc := .ro, rng := .any }
def ASSAY.SARSTARV : Mem := { name := "SARSTARV", cls := 29, lo := 0, n := 1, num := 11, ty := .u32, acc := .rw, rng := .clr }

def ASSAY.rows : List Mem := [ASSAY.CALMAX, ASSAY.ZEROPER, ASSAY.TAPAGE, ASSAY.SARAGE, ASSAY.TEMPAGE, ASSAY.TEMPOFF, ASSAY.TESTING, ASSAY.TESTMS, ASSAY.SARSTARV]

/-! Class RESERVE (R604). -/
def RESERVE.WEARMAX : Mem := { name := "WEARMAX", cls := 30, lo := 0, n := 1, num := 3, ty := .u32, acc := .ro, rng := .any }
def RESERVE.SPARE : Mem := { name := "SPARE", cls := 30, lo := 0, n := 1, num := 4, ty := .u8, acc := .ro, rng := .any, dflt := 32 }
def RESERVE.RECLOST : Mem := { name := "RECLOST", cls := 30, lo := 0, n := 1, num := 5, ty := .u32, acc := .rw, rng := .clr }
def RESERVE.COMMIT : Mem := { name := "COMMIT", cls := 30, lo := 0, n := 1, num := 6, ty := .u8, acc := .wo, rng := .int 1 1 }

def RESERVE.rows : List Mem := [RESERVE.WEARMAX, RESERVE.SPARE, RESERVE.RECLOST, RESERVE.COMMIT]

/-! Class THERM (R679, R478). -/
def THERM.TJ : Mem := { name := "TJ", cls := 31, lo := 0, n := 1, num := 3, ty := .f32, acc := .ro, rng := .any }
def THERM.TJMAX : Mem := { name := "TJMAX", cls := 31, lo := 0, n := 1, num := 4, ty := .f32, acc := .rw, rng := .clr }
def THERM.TWARN : Mem := { name := "TWARN", cls := 31, lo := 0, n := 1, num := 5, ty := .f32, acc := .rw, rng := .flt 0x42700000 0x430C0000, dflt := 0x42d20000 }
def THERM.THR1 : Mem := { name := "THR1", cls := 31, lo := 0, n := 1, num := 6, ty := .f32, acc := .rw, rng := .flt 0x42A00000 0x430B0000, dflt := 0x42e60000 }
def THERM.THR2 : Mem := { name := "THR2", cls := 31, lo := 0, n := 1, num := 7, ty := .f32, acc := .rw, rng := .flt 0x42A00000 0x430B0000, dflt := 0x42f40000 }
def THERM.THR3 : Mem := { name := "THR3", cls := 31, lo := 0, n := 1, num := 8, ty := .f32, acc := .rw, rng := .flt 0x42A00000 0x430B0000, dflt := 0x43000000 }
def THERM.THRHYS : Mem := { name := "THRHYS", cls := 31, lo := 0, n := 1, num := 9, ty := .f32, acc := .rw, rng := .flt 0x40000000 0x41A00000, dflt := 0x40a00000 }
def THERM.THRTDEC : Mem := { name := "THRTDEC", cls := 31, lo := 0, n := 1, num := 10, ty := .u8, acc := .rw, rng := .int 1 64, dflt := 8 }
def THERM.THRTRDEC : Mem := { name := "THRTRDEC", cls := 31, lo := 0, n := 1, num := 11, ty := .u8, acc := .rw, rng := .int 1 16, dflt := 4 }
def THERM.THR3DEC : Mem := { name := "THR3DEC", cls := 31, lo := 0, n := 1, num := 12, ty := .u8, acc := .rw, rng := .int 1 4, dflt := 2 }
def THERM.STEP : Mem := { name := "STEP", cls := 31, lo := 0, n := 1, num := 13, ty := .u8, acc := .ro, rng := .any }
def THERM.STOPTJ : Mem := { name := "STOPTJ", cls := 31, lo := 0, n := 1, num := 14, ty := .u8, acc := .rws, rng := .int 120 140, dflt := 135 }

def THERM.rows : List Mem := [THERM.TJ, THERM.TJMAX, THERM.TWARN, THERM.THR1, THERM.THR2, THERM.THR3, THERM.THRHYS, THERM.THRTDEC, THERM.THRTRDEC, THERM.THR3DEC, THERM.STEP, THERM.STOPTJ]

/-! Class SEC (R633). -/
def SEC.UID : Mem := { name := "UID", cls := 32, lo := 0, n := 1, num := 3, ty := .u64, acc := .ro, rng := .any }
def SEC.KEYSEL : Mem := { name := "KEYSEL", cls := 32, lo := 0, n := 1, num := 4, ty := .u8, acc := .rws, rng := .oneOf [1, 2, 3, 4, 16, 17, 18, 19, 20] }
def SEC.KEYBUF : Mem := { name := "KEYBUF", cls := 32, lo := 0, n := 1, num := 5, cnt := 16, ty := .u32, acc := .rws, rng := .any }
def SEC.KEYCRC : Mem := { name := "KEYCRC", cls := 32, lo := 0, n := 1, num := 21, ty := .u32, acc := .rws, rng := .any }
def SEC.BURN : Mem := { name := "BURN", cls := 32, lo := 0, n := 1, num := 22, ty := .u8, acc := .wos, rng := .int 1 1 }
def SEC.DSGEN : Mem := { name := "DSGEN", cls := 32, lo := 0, n := 1, num := 23, ty := .u8, acc := .wos, rng := .int 1 1 }
def SEC.KEYSTAT : Mem := { name := "KEYSTAT", cls := 32, lo := 0, n := 1, num := 24, ty := .u16, acc := .ro, rng := .any }
def SEC.LEDGERPK : Mem := { name := "LEDGERPK", cls := 32, lo := 0, n := 1, num := 25, cnt := 16, ty := .u32, acc := .ro, rng := .any }
def SEC.ARB : Mem := { name := "ARB", cls := 32, lo := 0, n := 1, num := 41, ty := .u8, acc := .ro, rng := .any }
def SEC.ARBCOMMIT : Mem := { name := "ARBCOMMIT", cls := 32, lo := 0, n := 1, num := 42, ty := .u8, acc := .wos, rng := .int 1 1 }
def SEC.FWREVOKE : Mem := { name := "FWREVOKE", cls := 32, lo := 0, n := 1, num := 43, ty := .u8, acc := .wos, rng := .int 1 1 }
def SEC.FWSLOT : Mem := { name := "FWSLOT", cls := 32, lo := 0, n := 1, num := 44, ty := .u8, acc := .ro, rng := .any }
def SEC.SLOTSTAT : Mem := { name := "SLOTSTAT", cls := 32, lo := 0, n := 1, num := 45, cnt := 2, ty := .u8, acc := .ro, rng := .any }
def SEC.SLOTVER : Mem := { name := "SLOTVER", cls := 32, lo := 0, n := 1, num := 47, cnt := 2, ty := .u32, acc := .ro, rng := .any }
def SEC.VIOLCNT : Mem := { name := "VIOLCNT", cls := 32, lo := 0, n := 1, num := 49, ty := .u32, acc := .rw, rng := .clr }

def SEC.rows : List Mem := [SEC.UID, SEC.KEYSEL, SEC.KEYBUF, SEC.KEYCRC, SEC.BURN, SEC.DSGEN, SEC.KEYSTAT, SEC.LEDGERPK, SEC.ARB, SEC.ARBCOMMIT, SEC.FWREVOKE, SEC.FWSLOT, SEC.SLOTSTAT, SEC.SLOTVER, SEC.VIOLCNT]

end Sys2Proof.Machine
end

