-- ==== Sys2Proof/Machine/Dict.lean ====
section
/-! DEFINITION. The object dictionary whole: the rows of each class code (R524). -/
namespace Sys2Proof.Machine

/-- The rows of the class with code `c` (R524); none for a code that R524 does not list. -/
def classRows : Nat → List Mem
  | 1 => SYS.rows
  | 2 => LIFE.rows
  | 3 => POWER.rows
  | 4 => PROFILE.rows
  | 5 => AXIS.rows
  | 6 => MACH.rows
  | 7 => STAGE.rows ++ PAT.rows
  | 8 => LEG.rows
  | 9 => CONV.rows
  | 10 => ARM.rows
  | 11 => CELL.rows
  | 12 => FB.rows ++ CMPU.rows ++ EO.rows
  | 13 => SD.rows ++ SDCLK.rows
  | 14 => AIN.rows
  | 15 => DIO.rows
  | 16 => LOOP.rows
  | 17 => FF.rows
  | 18 => PROF.rows
  | 19 => POOL.rows
  | 20 => GIVE.rows
  | 21 => STOP.rows ++ SRC.rows ++ STOPDEV.rows
  | 22 => CAN.rows
  | 23 => PART.rows
  | 24 => HRING.rows ++ RING.rows ++ SLOT.rows
  | 25 => LEDGER.rows
  | 26 => TRACE.rows ++ TRPORT.rows
  | 27 => EXCH.rows
  | 28 => AUDIT.rows
  | 29 => ASSAY.rows
  | 30 => RESERVE.rows
  | 31 => THERM.rows
  | 32 => SEC.rows
  | _ => []

end Sys2Proof.Machine
end

