-- ==== Sys2Proof/Machine/Table.lean ====
section
/-! DEFINITION. Sparse tables keyed by a natural number, in one canonical form: the keys strictly
rising, and no entry that holds what an unlisted key reads as. Every object member, register,
internal record and memory byte of the block is held in one of them. -/
namespace Sys2Proof.Machine

/-- A sparse table: its listed keys with what they hold. -/
abbrev Tbl (α : Type) := List (Nat × α)

/-- What key `k` holds, `d` where it is not listed. -/
def Tbl.find {α : Type} (d : α) : Tbl α → Nat → α
  | [], _ => d
  | (j, a) :: t, k => if j = k then a else Tbl.find d t k

/-- The table with key `k` no longer listed. -/
def Tbl.del {α : Type} : Tbl α → Nat → Tbl α
  | [], _ => []
  | (j, a) :: t, k => if j = k then Tbl.del t k else (j, a) :: Tbl.del t k

/-- The table with `(k, a)` put before the first larger key; `k` is not listed before. -/
def Tbl.ins {α : Type} : Tbl α → Nat → α → Tbl α
  | [], k, a => [(k, a)]
  | (j, b) :: t, k, a => if k < j then (k, a) :: (j, b) :: t else (j, b) :: Tbl.ins t k a

/-- The table in which `k` holds `a`, `d` being what an unlisted `k` reads as: the entry goes when
the two are equal, so that equal tables are equal data. -/
def Tbl.put {α : Type} [DecidableEq α] (d : α) (t : Tbl α) (k : Nat) (a : α) : Tbl α :=
  if a = d then Tbl.del t k else Tbl.ins (Tbl.del t k) k a

/-- What key `k` lists, none where it is not listed. -/
def Tbl.look {α : Type} : Tbl α → Nat → Option α
  | [], _ => none
  | (j, a) :: t, k => if j = k then some a else Tbl.look t k

/-- The table in which `k` lists `o`, or nothing. -/
def Tbl.set {α : Type} (t : Tbl α) (k : Nat) (o : Option α) : Tbl α :=
  match o with
  | none => t.del k
  | some a => (t.del k).ins k a

/-- The keys that list something else in `b` than in `a`, with both. -/
def Tbl.changes {α : Type} [DecidableEq α] (a b : Tbl α) : List (Nat × Option α × Option α) :=
  (b.filterMap fun e => if a.look e.1 = some e.2 then none else some (e.1, a.look e.1, some e.2)) ++
  (a.filterMap fun e => if (b.look e.1).isNone then some (e.1, some e.2, none) else none)

/-- Every listed key is above `k`. -/
def Tbl.above {α : Type} (k : Nat) (t : Tbl α) : Bool := t.all fun e => decide (k < e.1)

/-- The canonical form of a table whose unlisted keys read as `d k`. -/
def Tbl.wf {α : Type} [DecidableEq α] (d : Nat → α) : Tbl α → Bool
  | [] => true
  | (k, a) :: t => decide (a ≠ d k) && Tbl.above k t && Tbl.wf d t

end Sys2Proof.Machine
end

