-- ==== Sys2Proof/Machine/State.lean ====
section
/-! DEFINITION. The state of the block: every register, member, memory, FIFO, counter, mode and pin that
the spec gives it, as plain data. What the host reads as an object member or a register has its one home
in `objs` or in the record named beside it; the sequencers, timers and records that the rules keep and the
host cannot read stand in the typed structures of this file. -/
namespace Sys2Proof.Machine

/-! ### Host ports, rings and interrupts (R490–R513) -/

/-- A hardware ring (R501–R504): the fields of its BASE, LIM, HEAD and TAIL registers. -/
structure Ring where
  base  : Nat
  lim   : Nat
  esz   : Nat
  thr   : Nat
  owner : Nat
  world : Bool := false
  en    : Bool := false
  hostc : Bool := false
  head  : Nat := 0
  tail  : Nat := 0
  loss  : Bool := false
  dberr : Bool := false
  cfgerr : Bool := false
deriving DecidableEq, Repr

/-- One SPI port: its banked HOST.PCFG, its error counts (R498) and its write buffer (R494). -/
structure Port where
  quad   : Bool := false
  crcen  : Bool := false
  dummy  : Nat := 16
  seccap : Bool := false
  errCrc   : Nat := 0
  errBusy  : Nat := 0
  errWorld : Nat := 0
  errAddr  : Nat := 0
  wbuf   : Option (Nat × List Byte) := none
  /-- the last status byte and read data the port drove (R492) -/
  status : Nat := 0
  rdata  : List Byte := []
  rcrc   : Option Nat := none  -- the CRC byte that followed the data of a read
deriving DecidableEq, Repr

/-- An alarm held in the coalescing table (R598). -/
structure Alarm where
  code   : Nat
  inst   : Nat
  detail : Nat
  wb     : Nat
  wblast : Nat
  count  : Nat
  /-- the entry was merged over instances: every later alarm of its code joins it -/
  merged : Bool := false
deriving DecidableEq, Repr

/-! ### Requests in progress (R514–R542) -/

/-- A completed request that a window ring remembers (R518), and its response frame. -/
structure Remembered where
  seq    : Nat
  opcode : Nat
  crc    : Nat
  resp   : List Byte
deriving DecidableEq, Repr

/-- What a deferred request waits for (R519): the end of a cell's service transaction, the change of the
life-cycle state to a target, or its own work. -/
inductive DeferKind where
  | cellSvc (ring : Nat)
  | lifeReq (target : Nat)
  | work
deriving DecidableEq, Repr

/-- A deferred request: its header and, once it has completed, the response it carries. -/
structure Deferred where
  rq     : Rq
  opcode : Nat
  addr   : Nat
  secure : Bool
  kind   : DeferKind
  done   : Option (Nat × Nat × List Byte) := none   -- status, ADDR, payload
deriving DecidableEq, Repr

/-- The staging area (R537–R541). -/
structure Pset where
  handle   : Nat
  port     : Nat
  secure   : Bool
  items    : List PsetItem := []
  verified : Bool := false
  sigNeeded : Bool := false
  sigValid  : Bool := false
deriving DecidableEq, Repr

/-- A stored parameter set (R542). -/
structure PsetSlot where
  items    : List PsetItem
  secure   : Bool
  sigNeeded : Bool
  sigValid  : Bool
deriving DecidableEq, Repr

/-! ### Ledger (R593–R597) -/

/-- A Ledger record before its number and CRC (R593). -/
structure LRec where
  boot   : Nat := 0
  code   : Nat
  inst   : Nat
  count  : Nat := 1
  wb     : Nat
  detail : Nat
  secure : Bool := false
  wblast : Nat
  data   : List Byte := []
  /-- the timebase cycle at which it was staged, with which its COALT window begins (R595) -/
  since  : Nat := 0
deriving DecidableEq, Repr

/-- The Ledger's staging buffer and seal state. -/
structure Ledger where
  staged   : List LRec := []
  lostNow  : Nat := 0          -- records lost since the last LOSS record
  unsealed : Nat := 0          -- records written since the last SEAL pair
  coalesced62 : Bool := false  -- event 62 raised in the present second
deriving DecidableEq, Repr

/-- A record that is not complete (R220): the values of its nodes at its instant, in which those of task outputs follow
their commits; and what its header is to say (R221). -/
structure TrCur where
  wb   : Nat
  half : Bool
  vals : List (Option Int)
  trig : Bool := false
  subst : Bool := false
  blk  : Bool := false
deriving DecidableEq, Repr

/-- Telemetry (R600, R601). -/
structure Telem where
  /-- event 62 has been raised for a discard of the present second -/
  told : Bool := false
  /-- the cycle after the last discard or halving of each stream -/
  last : Tbl Nat := []
  /-- blocks of the present mark that are not complete: stream and values -/
  cur : List (Nat × TrCur) := []
deriving DecidableEq, Repr

/-! ### Time, start-up and power (R23–R26, R39–R41, R635–R681) -/

/-- TBASE and the wingbeat count. -/
structure TimeBase where
  lock    : Bool := false
  refok   : Bool := false
  loss    : Bool := false     -- TBASE.STATUS.LOSS
  tapcal  : Bool := false
  ovrd    : Bool := false
  srcact  : Bool := false
  src     : Bool := false     -- TBASE.REFCFG.SRC
  xdrive  : Nat := 1
  early   : Bool := false     -- TBASE.TESTCFG.EARLY
  /-- no mark since REFOK first came: the next mark is wingbeat 0 -/
  first   : Bool := true
  /-- the modulator clock dividers start at the next mark, and the cycle of the mark at which they did (R150) -/
  divDue  : Bool := true
  div0    : Nat := 0
  /-- a wingbeat length in ns that takes effect at the next mark (R24) -/
  newTw   : Option Nat := none
  /-- timebase cycles from REFOK to the present mark, and the instant after it, in vernier units of
  312.5 ps (R40), of the latest command that names one -/
  cycles  : Nat := 0
  off     : Nat := 0
  half    : Bool := false     -- the half mark of the present wingbeat has passed
  seen    : Bool := false     -- REFOK has come since the reset (R500)
  /-- ns gone by since the last whole ms of the backup counters and the last whole s of FLIGHT time, and
  the ages of the vernier, SAR and diode calibrations in ns (R587, R592, R642) -/
  msNs    : Nat := 0
  flightNs : Nat := 0
  tapAge  : Nat := 0
  sarAge  : Nat := 0
  tempAge : Nat := 0
  /-- ns since REFOK came or came back, for the 10 ms of R653 -/
  sinceOk : Nat := 0
deriving DecidableEq, Repr

/-- Start-up and reset (R635–R650). -/
structure StartUp where
  phase    : Nat := 0
  cause    : Nat := 2
  optfail  : Bool := false
  mothball : Nat := 0          -- SYS.MBCAUSE
  pins     : Bool := false     -- reference-timed blocks released (P4 ended)
  nrstHeld : Bool := true      -- the device drives nRST low
  stretch  : Bool := true      -- the 200 µs of R637 run
  p3Notes  : Nat := 0          -- P3 restarts to report at READY
  tamperNote : Bool := false
  override : Bool := false     -- the Ledger record of R649 is due
  /-- a reset follows in 1 ms: its cause (RESET opcode, CAN remote reset, life-cycle change) -/
  due      : Option Nat := none
  /-- engines that P6 may not admit before their test (R646) -/
  testFirst : Bool := false
  p3Restart : Bool := false    -- the stretch that runs ends in P3 (R643)
  base     : Bool := false     -- the base image runs
deriving DecidableEq, Repr

/-- The backup domain (R641, R642). -/
structure Backup where
  ram   : Tbl Byte := []
  regs  : Tbl (BitVec 32) := []
  secs  : BitVec 32 := 0
  ms    : BitVec 32 := 0
deriving DecidableEq, Repr

/-- The OTP fields (R614). Keys are 0 while unprogrammed. -/
structure Otp where
  ds    : Nat := 0
  fwpk0 : Nat := 0
  fwpk1 : Nat := 0
  pspk  : Nat := 0
  aupk  : Nat := 0
  fwrev : Bool := false
  arb   : Nat := 0
  mint  : Bool := false
  field : Bool := false
  ret   : Bool := false
  void  : Bool := false
  wMint : Bool := false
  wField : Bool := false
  wRet  : Bool := false
  wVoid : Bool := false
  svc   : Nat := 0             -- LCSVC fuses burnt
  wSvc  : Nat := 0             -- their companion fuses
  /-- the key words could not be read in P3: every bit of them is taken as set (R645) -/
  keysBad : Bool := false
  opt   : Tbl (BitVec 32) := []
deriving DecidableEq, Repr

/-- A firmware slot (R620–R622). -/
structure Slot where
  stat    : Nat := 0           -- SLOTSTAT: 0 EMPTY, 1 INCOMPLETE, 2 VALID, 3 REJECTED
  length  : Nat := 0
  version : Nat := 0
  bytes   : List Byte := []
  sig     : Nat := 0
deriving DecidableEq, Repr

/-- The enumeration record of a cell ring (R407, R409). -/
structure RingRecord where
  uids : List Nat := []
  cgen : Nat := 0
  /-- LOOP and TAPPLY in units of 0.2 ns, and the D_A of every position -/
  loop : Nat := 0
  tapply : Nat := 0
  da   : List Nat := []
deriving DecidableEq, Repr

/-- MRAM (R590): what survives every reset. -/
structure Mram where
  retired  : Nat := 0          -- RETIRED mask
  retiredLost : Bool := false  -- the record was found lost
  rings    : Tbl RingRecord := []
  cellRetired : List (Nat × Nat) := []   -- CELL instance and the UID retired
  sdOffs   : Tbl Int := []     -- ΣΔ offsets, binary32 bits
  tempOff  : Int := 0          -- diode correction, binary32 bits
  flight   : Nat := 0          -- committed FLIGHT-time counter
  boots    : Nat := 0          -- committed boot counter
  slots    : Tbl Slot := []
  psets    : Tbl PsetSlot := []
  ledger   : Tbl (Nat × LRec) := []   -- RECNO to record and CRC
  first    : Nat := 0
  next     : Nat := 0
  chain    : BitVec 256 := 0   -- H of R596
  writes   : Tbl Nat := []     -- writes of each 4 KiB block
  spare    : Nat := 32
  /-- the second of the backup domain after which each worn device record was last written (R591) -/
  wornAt   : Tbl Nat := []
  resume   : Option (List (Nat × Int) × List Nat) := none
deriving DecidableEq, Repr

/-- Security state outside OTP and MRAM. -/
structure Sec where
  /-- per holder 0 A, 1 B, 2–5 CAN, 6 debug: the nonce in force, and the cycle of its draw -/
  nonces  : Tbl (Option (Nat × Nat)) := []
  drawn   : Nat := 0                 -- nonces drawn
  debug   : Bool := false            -- debug unlocked
  dbgFail : Nat := 0
  dbgIr   : JtagInstr := .idcode     -- the debug port's instruction in force
  dbgHalt : Bool := false            -- the Teller cores are halted by the debug port
  dbgData : Nat := 0                 -- the data the last debug access read
  burning : Option (Nat × Nat) := none   -- KEYSEL and value of the burn to verify
  fw      : Option (Nat × Nat × Nat) := none   -- FW_BEGIN in progress: slot, length, version
  lifeTo  : Option Nat := none       -- authorised target state
  blkmap  : BitVec 32 := 0xF1000000
  rgnmap0 : BitVec 32 := 0xFF000002
  rgnmap1 : BitVec 32 := 0xFFFF85FF
  vaddr   : Nat := 0
  vsrc    : Nat := 0
deriving DecidableEq, Repr

/-- The power ladder and the thermal unit (R659–R680). -/
structure Power where
  target  : Nat := 0
  moving  : Bool := false
  exiting : Bool := false
  spTarget : Option Nat := none      -- supply move in progress
  code    : Nat := 0                 -- VID code driven
  warned  : Bool := false            -- THERM_WARN written, not yet re-armed
  spFrom  : Nat := 0                 -- the setpoint being left; LEAN where the way leads through it
  lateStop : Bool := false           -- thermal latches set in ROOST, whose faults wait for the exit (R677)
  lateTrip : Bool := false
  diodeCal : Bool := false
  perchDue : Bool := false           -- PERCH requested by a thermal stop, retried each second
  gaDue   : Bool := false            -- back in FLIGHT: acknowledges resume at the next mark (R349)
  below10 : Nat := 0                 -- samples in a row below STOPTJ − 10 °C, at most 10,000 (1 s)
  /-- samples in a row that lie THRHYS below THR1, THR2 and THR3, at most 10,000 (R670) -/
  cool : List Nat := []
deriving DecidableEq, Repr

/-! ### Gate drive (R345–R379) -/

/-- One switch of a leg: its GX command and its accepted GA level (R345–R349). -/
structure Switch where
  cmd   : Bool := false
  ga    : Bool := false
  /-- GA has agreed with the command since the command last changed -/
  acked : Bool := true
  /-- the instant at which it was last commanded off, in vernier units -/
  offAt : Nat := 0
  /-- held off by a released non-latching trip until its request goes off and on again (R359) -/
  wait  : Bool := false
deriving DecidableEq, Repr

structure Leg where
  hi  : Switch := {}
  lo  : Switch := {}
  /-- bits [11:0] of GATE.LEGSTATnn -/
  flt : Nat := 0
  /-- the leg command of MOD, high or low (R346) -/
  lvl : Bool := false
  /-- the last edge instant, while its incoming switch is not yet on -/
  te  : Option Nat := none
  /-- the latest effective dead times, in vernier units, newest first, at most 1,024 (R348) -/
  dts : List Nat := []
  /-- modulation periods without a qualifying low interval, and whether one began in this period (R353) -/
  noLow : Nat := 0
  lowOk : Bool := false
  /-- the instant from which MOD seeks the next edge, a late or stretched edge, and an inserted low
  interval (R321–R323, R353) -/
  seek  : Nat := 0
  fix   : Option Nat := none
  /-- the leg's latest edge since RUN, for the toggle at a boundary (R340) -/
  last  : Option Nat := none
  low   : Option (Nat × Nat) := none
deriving DecidableEq, Repr

/-- A power stage beside its members (R361–R369). -/
structure StageX where
  enPend : Bool := false    -- an accepted enable waits for its mark
  disPend : Bool := false   -- a host disable waits for its mark
  act    : Nat := 0         -- shutdown actions: 0 none or complete, 1 waiting for GA, 2 discharging
  stopped : Bool := false   -- a stop source has acted since the last enable: no active short circuit (R370)
  step   : Nat := 0         -- diagnostic step in progress
  byEn   : Bool := false    -- the diagnostic run was made by an enable
  stop   : Bool := false    -- a fault was found in the present step or an earlier one
  open1  : List Nat := []   -- legs seen within the window while another leg was pulsed
  t0     : Nat := 0         -- instant of the enabling mark, origin of the carrier grid (R319), vernier units
  -- the resolution ladder (R331–R333): frequency rung and six-step flag in force and as targets
  b      : Nat := 0
  six    : Bool := false
  bT     : Nat := 0
  sixT   : Bool := false
  nClamp : Nat := 0         -- evaluations in a row in which the voltage clamp acted
  nUnder : Nat := 0         -- evaluations in a row with a below the six-step limit
  hand   : Bool := false    -- the first handover since the enable has come
  host   : Bool := false    -- the pattern in force is the host table
  lowTold : Bool := false   -- LOW_PULSE_RATIO is written for this excursion
  -- the carrier period in progress: valley, peak, next valley; HUSH spread; the period of a pattern
  tv     : Nat := 0
  tp     : Nat := 0
  te     : Nat := 0
  lfsr   : Nat := 0
  -- SYNLEAD less ANGLEAD in vernier units, as of the handover and as of the latest evaluation, and SPREAD (R329, R341)
  lead   : Int := 0
  leadN  : Int := 0
  spr    : F32 := F32.zero
  perEnd : Nat := 0
  -- the latest handover: f_e and t_s (R315)
  fe     : F32 := F32.zero
  ts     : Nat := 0
deriving DecidableEq, Repr

/-- A trip input (R356–R359). -/
structure TripIn where
  cfg : Nat := 0x1014
  pin : Bool := false       -- the filtered pin is active
  hit : Bool := false
  cnt : Nat := 0            -- assertions in the present 1 s window
  esc  : Bool := false   -- an assertion of the present 1 s window has escalated (R359)
deriving DecidableEq, Repr

/-! ### Cell link (R380–R414) -/

/-- The open service transaction of a ring (R388). -/
structure Svc where
  slot : Nat
  tid  : Nat
  op   : Nat
  addr : Nat
  data : List Byte
  frames : Nat := 0            -- frames that carried the message
deriving DecidableEq, Repr

/-- A cell ring beside its members. -/
structure RingX where
  lockA : Bool := false
  lockB : Bool := false
  offPend : Bool := false      -- EN = 0 waits for its mark
  enumOk  : Bool := false      -- enumeration has succeeded: OPERATE frames with ABLK
  degr    : Bool := false      -- degraded start from the MRAM record (R409)
  /-- measured loops of the frame named, in units of 0.2 ns -/
  la : Option (Nat × Nat) := none
  lb : Option (Nat × Nat) := none
  loop   : Nat := 0            -- LOOP and TAPPLY in units of 0.2 ns
  tapply : Nat := 0
  rtt    : Nat := 0            -- t_rt,meas in units of 0.2 ns
  rttBad  : Bool := false      -- an excursion of R395 has been reported
  loopBad : Bool := false      -- an excursion of R410 has been reported
  segBad  : Bool := false      -- RING_SEGMENT has been reported
  brkAge  : Nat := 0           -- frames since the last sourced frame
  blkSent : Bool := false      -- a BLOCK frame was sent since STO became active (R451)
  blkLeft : Nat := 0           -- BLOCK frames to send on the fallback oscillator (R404)
  txOff   : Bool := false      -- the transmitters are off after a reference loss
  svc : Option Svc := none
  tid : Nat := 0
  /-- what the device sent in direction A at the last launch: header, command block with its CRC, service down -/
  tx : List Byte := []
deriving DecidableEq, Repr

/-- A slot at the device: the entry of R399 and its counts, and the command last sent in it (R386). -/
structure SlotX where
  frame : Option Nat := none   -- frame number of the entry
  okRun : Nat := 0             -- consecutive accepted responses
  divRun : Nat := 0            -- consecutive divergent frames
  divAt : Nat := 0             -- the last of them
  cmd   : Nat := 0
deriving DecidableEq, Repr

/-- A cell controller, as R391–R407 describe it. Instants of the cell's own timebase are in units of 0.05 ns. -/
structure CellCtl where
  uid     : Nat := 0
  slot    : Option Nat := none -- the slot that the cell has taken; without one it forwards only
  misfit  : Bool := false      -- its two indexes did not fit: it stays in BLOCK
  cgen    : Nat := 0           -- the generation in which it took its slot
  pA      : Option Nat := none -- slots filled in ENUMERATE
  pB      : Option Nat := none
  dA      : Option Int := none -- D_A and D_B
  dB      : Option Int := none
  markN   : Option Int := none -- M_n of the latest frame
  next    : Option Int := none -- the predicted next mark
  tw      : Nat := 0           -- TW of the latest header, in units of 0.2 ns
  hdr     : List Byte := []    -- the last header received
  blind   : Nat := 0           -- predicted marks in a row without a valid frame
  okA     : Nat := 0           -- valid frames in a row at a receiver that was lost
  okB     : Nat := 0
  bFirst  : Bool := false      -- the frame came by B first
  cmda    : Bool := false      -- a valid command of the last frame on A, on B
  cmdb    : Bool := false
  ablk    : Bool := false      -- a blocking header since the mark
  latch   : Bool := false      -- a latched fault is present
  disch   : Bool := false      -- discharge resistor on
  /-- the frames that the cell sources at this mark: the instant at its transmit pin, and the header -/
  srcA    : Option (Int × List Byte) := none
  srcB    : Option (Int × List Byte) := none
  /-- the words that it writes into its slot of this frame, in each direction -/
  respA   : Option Nat := none
  respB   : Option Nat := none
  sw      : Nat := 0           -- 0 BLOCK, 1 BYPASS, 2 INSERT, 3 permanent bypass
  wdblk   : Bool := false
  restart : Bool := false
  cmderr  : Bool := false
  cmddif  : Bool := false
  missed  : Nat := 0           -- frames in a row without a valid command
  good    : Nat := 0           -- frames in a row with one
  pbyp    : Nat := 0           -- frames in a row with PBYP and its key
  lostA   : Bool := false
  lostB   : Bool := false
deriving DecidableEq, Repr

/-! ### Cell converters and machines (R415–R447, R209) -/

/-- A converter beside its members. -/
structure ConvX where
  act      : Nat := 0          -- actions of FAULT: 0 none or complete, 1 MAINT, 2 discharging
  mainWait : Bool := false     -- BALANCE is done and MAINT runs
  vdcEn    : F32 := F32.zero   -- V_dc latched at the enable (R420)
  redLast  : Int := 127        -- smallest REDUND of the last fixed point
  exhausted : Bool := false    -- REDUNDANCY_EXHAUSTED has been written
deriving DecidableEq, Repr

/-- An arm: SORT's residual, selection and frozen votes, and the circulating-current integrator. -/
structure ArmX where
  resid : F32 := F32.zero
  ins   : List Nat := []       -- cells inserted by the previous selection
  avail : List Nat := []       -- the available cells of the frozen set
  vcap  : List F32 := []       -- VCAP of every cell in the frozen set
  cur   : F32 := F32.zero      -- i_a latched at the mark
  vote  : Int := 0             -- majority of ISIGN in the frozen set; 0 for none
  ic    : F32 := F32.zero      -- I_c as last committed
  icref : F32 := F32.zero      -- i_cref of the last evaluation (R218)
  sprN  : Nat := 0             -- wingbeats with the spread above VSPRMAX
  sprTold : Bool := false      -- BALANCE_SPREAD has been written in this excursion
deriving DecidableEq, Repr

/-- A cell at SORT. -/
structure CellX where
  volt  : Nat := 0             -- consecutive responses beyond VCOV or VCUV
  cmde  : Nat := 0             -- consecutive responses with CMDERR
  lost  : Nat := 0             -- consecutive responses with SWST 0 or 2 after BYPASS (R433)
  good  : Nat := 0             -- consecutive responses with CMDA or CMDB
  clrf  : Nat := 0             -- frames of CLRF left
  pbyp  : Nat := 0             -- frames of PBYP sent since the failure
  byps  : Bool := false        -- commanded BYPASS in the frame before
  hist  : List Nat := []       -- FLIGHT times of entries into RESTARTING
deriving DecidableEq, Repr

/-- The coefficients that a full current-loop evaluation reads, kept for its half evaluation (R199). -/
structure Coef where
  kp : F32 := F32.zero
  ki : F32 := F32.zero
  kpd : F32 := F32.zero
  kid : F32 := F32.zero
  ilim : F32 := F32.zero
  ld : F32 := F32.zero
  lq : F32 := F32.zero
  psi : F32 := F32.zero
  lm : F32 := F32.zero
  lr : F32 := F32.zero
  taur : F32 := F32.zero
  ceil : F32 := F32.zero
  imax : F32 := F32.zero
  tmax : F32 := F32.zero
  idref : F32 := F32.zero
  idmin : F32 := F32.zero
  kfw : F32 := F32.zero
  fwlvl : F32 := F32.zero
  ierrmax : F32 := F32.zero
  ierrn : Nat := 0
  decoup : Bool := false
  vprio : Bool := false
  ind : Bool := false          -- KIND 1
  polep : Nat := 1
  frz   : Bool := false        -- LOOP.FREEZE
  vdcnom : F32 := F32.zero
deriving DecidableEq, Repr

/-- A machine beside its members. -/
structure MachX where
  policy : Bool := false       -- in its fault policy (R209)
  nm     : F32 := F32.zero     -- machine speed, rpm
  ed     : F32 := F32.zero     -- integrators I_d and I_q of R178
  iq     : F32 := F32.zero
  ifw    : F32 := F32.zero     -- i_fw of R180
  psir   : F32 := F32.zero     -- rotor flux and slip angle of R181
  slip   : Nat := 0
  theta  : Nat := 0            -- angle of the full evaluation, 2^-32 rev, and its ω_e, rad/s
  we     : F32 := F32.zero
  ffd    : F32 := F32.zero     -- its feed-forward terms, which the half evaluation reuses (R26)
  ffq    : F32 := F32.zero
  coef   : Coef := {}
  tclamp : Bool := false       -- torque-clamp flag of the wingbeat (R179), and of the one before
  tcPrev : Bool := false
  dem    : F32 := F32.zero     -- torque demand, as committed
  amp    : F32 := F32.zero     -- amplitude and angle that MOD holds
  ang    : Nat := 0
  ierr   : Nat := 0            -- consecutive evaluations beyond IERRMAX
  enWb   : Nat := 0            -- wingbeat of the enable
  w      : F32 := F32.one      -- weight ramp of R296, 0 to 1
  leave  : Bool := false       -- a host disable ramps the weight to 0
  thTold : Bool := false       -- THERMAL_SOURCE is written for this invalid period
  bad    : Nat := 0            -- live causes of the fault policy: 1 current error, 2 deadline run, 4 torque deviation
  /-- internal values of R218: i_dref, i_qref, u_d and u_q before the clamp; and the d-axis PI output -/
  idr    : F32 := F32.zero
  iqr    : F32 := F32.zero
  ud     : F32 := F32.zero
  uq     : F32 := F32.zero
  udPi   : F32 := F32.zero
  /-- HUSH (R335–R339): the slow trims, T_m of the last wingbeats newest first, wingbeats without a drop
  condition, and a stop that has begun -/
  duD    : F32 := F32.zero
  duQ    : F32 := F32.zero
  tHist  : List F32 := []
  hOk    : Nat := 0
  hStop  : Bool := false
deriving DecidableEq, Repr

/-- A loop beside its members (R190, R203): a preset that waits, the gains of its last evaluation. -/
structure LoopX where
  preset : Option F32 := none
  kp     : F32 := F32.zero
  kpd    : F32 := F32.zero
  satB   : Bool := false       -- saturated in the previous wingbeat
  resume : Option F32 := none  -- the output that a tune's end sets the integrator for (R233)
  xchg   : Bool := false       -- gains that a tune applies are exchanged as in a freeze (R203, R233)
deriving DecidableEq, Repr

/-- A move of the queue (R246), with the effective limits that its push formed (R243). -/
structure Move where
  ty     : Nat
  target : Int := 0
  vel    : F32 := F32.zero
  acc    : F32 := F32.zero
  dec    : F32 := F32.zero
  jerk   : F32 := F32.zero
  level  : F32 := F32.zero
  time   : Nat := 0
  regd   : Int := 0
  flags  : Nat := 0
  tag    : Nat := 0
  pred   : Bool := false       -- an ABS or REL move preceded it in the queue, or was active, at its push (R249)
deriving DecidableEq, Repr

/-- One phase of a plan (R253): its duration in ps, and the acceleration at its start and the jerk in
2^-32 rpm/s and 2^-32 rpm/s². -/
structure Phase where
  dur : Nat
  acc : Int
  jerk : Int
deriving DecidableEq, Repr

/-- The plan in progress: where it began, in p and in 2^-32 rpm, its phases, the time gone by in ps, and
its end. -/
structure Plan where
  p0   : Int := 0
  v0   : Int := 0
  ph   : List Phase := []
  t    : Nat := 0
  dec  : Nat := 0              -- the time at which its last change of speed begins
  tgt  : Option Int := none    -- position at the end of a position plan
  vEnd : F32 := F32.zero
deriving DecidableEq, Repr

/-- The profile generator of an axis beside its members (R241–R279). -/
structure Gen where
  p : Int := 0
  v : F32 := F32.zero
  a : F32 := F32.zero
  /-- p and v as committed for the last mark, which a follower reads (R263), and for the mark before it; whether the
  last were substituted (R271) -/
  pm : Int := 0
  vm : F32 := F32.zero
  pb : Int := 0
  vb : F32 := F32.zero
  pmLate : Bool := false
  act   : Option Move := none
  queue : List Move := []
  imm   : Option Move := none  -- an immediate push that waits for the mark
  immN  : Nat := 0             -- moves that were pending at that push
  hold  : Option Move := none  -- the completed VEL move whose speed is held (R249)
  evtWb : Option Nat := none   -- the wingbeat in which an EVT bit last raised its event (R251)
  replan : Bool := false
  plan  : Option Plan := none
  started : Bool := false      -- the active move has been planned
  tgt   : Int := 0             -- target of the active position move
  ticks : Nat := 0             -- wingbeats of a DWELL
  lvl   : F32 := F32.zero      -- LEVEL setpoint
  /-- homing: 0 none, 1 search, 2 index, 3 stopping, 4 returning; 5 a GEAR move that comes to rest first (R252) -/
  hphase : Nat := 0
  hstart : Int := 0
  hlatch : Nat := 0            -- LATCHT and IDXLAT seen when the search began
  hidx  : Int := 0
  reg   : Bool := false        -- registration has acted, or none is watched
  soft  : Bool := false        -- the plan comes to rest at a soft limit
  vj    : Bool := false        -- the plan ends at a joint speed
  -- gearing (R263–R271)
  m     : Int := 0             -- master position of the last mark
  ue    : Int := 0             -- u at the start of the engagement
  acc64 : Int := 0             -- ∫ g r du, in 2^-64 rev
  anchor : Int := 0
  full  : Bool := false        -- g has reached 1
  beyond  : Bool := false        -- an excursion of R268 has been reported
  seg   : Nat := 0
  unplan : Bool := false       -- an UNGEAR or a lost master plans to rest
  limP  : Bool := false        -- limit inputs as last seen
  limN  : Bool := false
  held  : Bool := false        -- waits for the brake (R276)
  layT  : Nat := 0             -- last accepted edge of LAYDIO: its time, and the master position then
  layM  : Option Int := none
deriving DecidableEq, Repr

/-- An axis beside its members: setpoint, loops, standstill, Pool and Give. -/
structure AxisX where
  vref  : F32 := F32.zero
  setp  : F32 := F32.zero      -- the setpoint in force
  pset  : Int := 0             -- the same in MODE 3
  pOrg  : Int := 0             -- origin of a pulse setpoint: axis position and channel position at enable
  chOrg : Int := 0
  spBad : Bool := false        -- SETPOINT_INVALID holds until SPACK
  spRamp0 : Bool := false      -- SPINVAL 1: the setpoint goes to zero
  pHold : Option Int := none   -- category 2 hold position (R468)
  onVest : Bool := false
  fbHold : Bool := false
  disPend : Bool := false      -- a host disable waits for the mark
  verr  : Nat := 0             -- wingbeats of |e_v| above VERRMAX
  told  : List Nat := []       -- excursions reported: 1 following, 2 speed error, 3 overspeed, 4 brake slip, 5 preload, 6 tension source
  wHat  : F32 := F32.zero
  satF  : Bool := false        -- final clamp or POOLSAT of the previous wingbeat
  gen   : Gen := {}
  -- standstill (R273–R276)
  rest  : Nat := 0             -- wingbeats at rest
  h     : F32 := F32.one
  pH    : Int := 0
  brkAt : Option Int := none   -- position at which the brake was first reported applied
  -- Pool
  filt  : F32 := F32.zero      -- T̄ of R290
  pre   : F32 := F32.zero      -- r of R291
  preDn : Bool := false
  mem   : Nat := 0             -- members at the last evaluation
  -- Give
  p0    : Int := 0
  pa    : Int := 0
  tau0  : F32 := F32.zero
  lH    : List F32 := []       -- L of the last M wingbeats, newest first
  recT  : Nat := 0             -- wingbeats since RECOVER
  tNow  : F32 := F32.zero      -- T_axis of the last evaluation
  d     : Nat := 1             -- wingbeats per evaluation (R674)
  /-- internal values of R218: α_ref, T_loop, T_fr, e_p and e_v -/
  aref  : F32 := F32.zero
  tLoop : F32 := F32.zero
  tFr   : F32 := F32.zero
  ep    : F32 := F32.zero
  ev    : F32 := F32.zero
deriving DecidableEq, Repr

/-! ### CAN (R547–R584) -/

/-- A frame of ring 14 (R562). -/
structure CanFrame where
  port  : Nat
  flags : Nat := 0
  part  : Nat := 0xFFFF
  id    : Nat
  data  : List Byte := []
deriving DecidableEq, Repr

/-- A loaded transmit buffer: its frame, its attempts, and the order in which it was loaded. -/
structure CanBuf where
  f     : CanFrame
  tries : Nat := 0
  seq   : Nat := 0
deriving DecidableEq, Repr

/-- A CAN port beside its members, and its stop matcher's registers (R583). -/
structure CanPort where
  urg   : List CanFrame := []
  norm  : List CanFrame := []
  buf0  : Option CanBuf := none
  buf1  : Option CanBuf := none
  buf2  : Option CanBuf := none
  seq   : Nat := 0
  first : Bool := false        -- buffer 2 goes first (R564)
  susp  : Bool := false        -- AUTOREC is suspended for this bus-off
  count : Bool := false        -- recovery is counting
  boffs : List Nat := []       -- timebase cycles of the entries to BUSOFF
  tdcBad : Bool := false       -- TDC_RANGE has been written in this excursion
  pexAt : Option Nat := none   -- timebase cycles of the last PROTOCOL_EXCEPTION
  smcfg : Nat := 0
  hits  : Nat := 0
  smid  : Nat := 0
  smidm : Nat := 0x1FFFFFFF
  smd0  : Nat := 0
  smd1  : Nat := 0
  smdm0 : Nat := 0
  smdm1 : Nat := 0
  /-- CAN remote reset (R648): the step reached, the nonce given, and the signature so far -/
  rstep : Nat := 0
  rsig  : List Byte := []
deriving DecidableEq, Repr

/-- A partner beside its members. -/
structure PartX where
  cen  : Bool := false         -- CEN of its command frames
  wait : Bool := false         -- the machine's enable waits for SREADY
  rel  : Bool := false         -- CBRK: release
  silent : Bool := false       -- R575
deriving DecidableEq, Repr

/-- A feed-forward table: its fade weight (R198). -/
structure FfX where
  w : F32 := F32.zero
deriving DecidableEq, Repr

/-! ### Stops (R448–R489) -/

/-- A stop that has not completed: its first source (R746) and its scope. -/
structure StopRec where
  src    : Nat
  device : Bool := false
  axes   : Nat := 0
  stages : Nat := 0
deriving DecidableEq, Repr

/-- The stop of an axis beside its members. -/
structure AxStop where
  /-- a category 1 or 2 stop that begins at the next mark: category, source, brake at the ramp's start -/
  pend  : Option (Nat × Nat × Bool) := none
  vs    : F32 := F32.zero      -- v_s
  ref   : F32 := F32.zero      -- the ramp reference, or the torque or tension setpoint (R465)
  t     : Nat := 0             -- wingbeats since the ramp began
  first : Bool := false        -- the next evaluation is the first of a stop ramp or of the return (R465, R477)
  rtN   : Nat := 0             -- wingbeats with V_dc below RTVON
deriving DecidableEq, Repr

/-- STO: its registers (R485) and latches. -/
structure Sto where
  cfg  : Nat := 4177
  a    : Bool := false         -- accepted levels of STOA and STOB
  b    : Bool := false
  act  : Bool := true
  disc : Bool := false
  rdbk : Bool := false
  fb   : Bool := false
  thStop : Bool := false
  thTrip : Bool := false
  refLoss : Bool := false
  maps : Tbl Nat := []
deriving DecidableEq, Repr

/-- Telemetry suppression (R482). -/
structure Supp where
  on    : Bool := false
  all   : Bool := false
  axes  : Nat := 0
  ports : Nat := 0
deriving DecidableEq, Repr

/-! ### Inputs (R102–R173) -/

/-- A DIO input beside its members (R116–R119, R135). -/
structure DioX where
  glitch : Nat := 0            -- in the present 1 s window
  space  : Nat := 0
  pin    : Bool := false       -- the level that has last held for FILT
  lastT  : Option Nat := none  -- the cycle in which the last edge was accepted
  wait   : Option (Nat × Nat) := none  -- a change within MINSP: the cycle that ends MINSP, and its timestamp (R118)
  latch  : List Nat := []      -- timestamps of latches that wait for an SSI word, oldest first
  latchN : Nat := 0            -- latches made
  latchI : Nat := 0            -- indices that its channel had accepted at the last of them
deriving DecidableEq, Repr

/-- A counted edge of a pulse channel, or a good SSI word with a new count (R115, R121): its timestamp in half ns, the
count from then on, and the timebase cycle in which it was accepted. -/
structure CntEdge where
  t   : Int
  c   : Int
  acc : Nat := 0
deriving DecidableEq, Repr

/-- A feedback channel beside its members (R104–R134). -/
structure FbX where
  count : Int := 0             -- signed 48-bit count
  word  : Option Nat := none   -- the MT and ST field of the last good SSI word
  a     : Bool := false        -- accepted pin levels, whatever MODE is
  b     : Bool := false
  z     : Bool := false
  lastA : Option Nat := none   -- timestamps of the last accepted edges
  lastB : Option Nat := none
  lastZ : Option Nat := none
  hist  : List CntEdge := []   -- newest first (R121)
  c0    : Int := 0
  lat   : Int := 0             -- the count latched for the present mark
  seen  : Int := 0             -- the count that the last mark saw (R127)
  off   : Int := 0             -- offset of the served position
  fbo   : Option Int := none   -- offset to the fallback, as last recorded (R128)
  posset : Option Int := none  -- POSSET that waits for the mark
  shift : Int := 0             -- index correction that waits for the mark
  idxN  : Nat := 0             -- indices accepted
  dlt   : Int := 0             -- shift of the served position at the present mark
  selPend : Option Nat := none -- an accepted SEL that waits for the mark
  bad   : Nat := 0             -- consecutive bad results
  good  : Nat := 0             -- consecutive good results
  edges : Nat := 0             -- edge faults in the present block of 1,024 wingbeats
  edgeBad : Bool := false      -- EDGEMAX was reached in this block
  stuck : Bool := false        -- the step pin is stuck
  stuckZ : Bool := false       -- the index pin is stuck
  still : Nat := 0             -- wingbeats without a count change under load
  miss  : Nat := 0             -- consecutive mismatched indices
  esc   : Bool := false        -- that run has escalated (R134)
  armed : Bool := true         -- IDXMODE 3 has a correction left
  samp  : List (Int × Int) := []   -- good SSI words, newest first: sample instant in half ns, and position (R135)
  got   : Option Bool := none  -- the outcome of the word of the next mark is in: good, or not
  cur   : Option Bool := none  -- the same of the present mark's word
  wait  : Bool := false        -- the word of the present mark is still under way (R112)
  todo  : Nat := 0             -- what is left of the present mark: 1 its result, 2 the position it serves
  lost  : Option Nat := none   -- declared lost or frozen with this code; the switch or the stop follows (R129)
  outc : Nat := 0              -- outcome of the last SSI transfer, as FB.STATnn reports it (R739)
deriving DecidableEq, Repr

structure CmpX where
  last : Int := 0              -- served position last tested
  off  : Bool := false         -- a single hit has been made
  pulse : Bool := false
  told : Bool := false         -- the event was raised in this wingbeat
deriving DecidableEq, Repr

/-- An encoder emulation output: counts emitted, counts to emit in this wingbeat, the count preset at the enable, and
how often EOeZ has become active (R140, R142). -/
structure EoX where
  out  : Int := 0
  emit : Int := 0
  org  : Int := 0
  zs   : Nat := 0
deriving DecidableEq, Repr

/-- A ΣΔ input beside its members. -/
structure SdX where
  bits  : List Bool := []      -- the latest bits, newest first
  edge  : Nat := 0             -- the clock edge that the newest belongs to, timebase cycle
  cnt   : Nat := 0             -- bits since the control filter began, up to 776
  run   : Nat := 0             -- identical bits up to the newest
  held  : Int := 0             -- VALUE as that run began
  clean : Nat := 0             -- bits since the last run of RUNMAX, up to 1,024
  above : Nat := 0             -- clock periods above the upper trip density, below the lower, within both
  below : Nat := 0
  inside : Nat := 0
  td    : F32 := F32.zero      -- density of the trip filter
  mark  : F32 := F32.zero      -- value latched at the wingbeat mark
  clip  : Nat := 0             -- latches over range
  clipTold : Bool := false
  clrPend : Bool := false
  delays : List Nat := []      -- offsets of the latest latches to their edges, timebase cycles
  sums  : List Nat := []       -- control filter sums of the last 4,096 latches
  quiet : Nat := 0             -- ns for which the gates have been off, up to 5 ms
  capN  : Nat := 0             -- latches since then, up to 4,096
  capAt : Option Nat := none   -- the cycle of the last offset capture
  /-- trip densities in force (R154) -/
  hi    : F32 := F32.ofInt 1000
  lo    : F32 := F32.ofInt (-1000)
deriving DecidableEq, Repr

structure AinX where
  out : Nat := 0               -- consecutive results outside the limits
  ins : Nat := 0
  code : Nat := 0              -- the code of the last result (R739)
deriving DecidableEq, Repr

/-- A relay auto-tune of a loop (R230–R233). -/
structure TuneX where
  run   : Bool := false
  sign  : Int := 0             -- the relay's side; 0 until it first switches
  t0    : F32 := F32.zero      -- T0, or the d-axis output at the start
  hold  : F32 := F32.zero      -- the setpoint held
  last  : Option Nat := none   -- the last switching from negative to positive, timebase cycles
  evals : Nat := 0             -- evaluations in the present period
  per   : Nat := 0             -- periods seen
  m     : Nat := 0             -- periods measured, the sum of their lengths, and of their swings
  sumT  : Nat := 0
  sumA  : F32 := F32.zero
  lo    : F32 := F32.zero      -- extremes of the measured quantity in the present period
  hi    : F32 := F32.zero
  late  : Bool := false        -- a late result falls in the present period
  lim   : Bool := false        -- the relay was switched for a limit
deriving DecidableEq, Repr

/-- A trace record (R220, R221): the wingbeat count of its instant, its header word, its channel words. -/
structure TrRec where
  wb   : Nat
  head : Nat
  ch   : List Nat
deriving DecidableEq, Repr

/-- A trace unit beside its members. -/
structure TraceX where
  buf   : List TrRec := []     -- newest first
  opn   : List TrCur := []     -- records of kept instants whose deadline is still to come, oldest first
  skip  : Nat := 0             -- instants until the next one kept
  trig  : Bool := false        -- the next kept instant gives the trigger record
  prev  : Option Int := none   -- the trigger channel of the record before
  post  : Nat := 0             -- records still to come in POST
  tidx  : Nat := 0             -- tile to send next
deriving DecidableEq, Repr

/-- What accesses to paired registers leave behind (R729): the high words that the latest reads of the low
words latched, a written FB.CMPPOSL that waits for its high word, and compare positions for the next mark. -/
structure RegX where
  wbHi  : Nat := 0
  cmpHi : Tbl Nat := []
  cmpLo : Tbl (Option Nat) := []
  due   : List (Nat × Int) := []
deriving DecidableEq, Repr


/-! ### The Exchange (R66–R101) and the output stages (R46–R55) -/

inductive EngState where
  | admitted | isolated | testing | retired
deriving DecidableEq, Repr

structure Engine where
  st       : EngState := .isolated
  lastFlt  : Nat := 0
  /-- timebase cycles of the failed local-store tag checks of the last second (R91) -/
  tagFails : List Nat := []
  /-- FLIGHT times in s of the isolations of the last 24 h -/
  isol     : List Nat := []
deriving DecidableEq, Repr

/-- A placement entry (R80); `eng` 15 is none. -/
structure Task where
  st     : Nat := 0
  engA   : Nat := 15
  engB   : Nat := 15
  engD   : Nat := 15
  crit   : Bool := false
  hintign : Bool := false
  mirr   : Bool := false
  charge : Nat := 0
  tiles  : Nat := 0
  tgen   : Nat := 0
  /-- admitted, its tiles not yet in place -/
  placing : Bool := false
  /-- its state tile was lost: fresh tiles of zero state at the next enable of its owner (R743) -/
  lost   : Bool := false
  /-- dispatched: its owner is enabled (R68) -/
  run    : Bool := false
  /-- the converter whose commit placed a common part or an arm's task -/
  conv   : Nat := 255
  /-- its owner has not yet left the fault policy of R743 -/
  pol    : Bool := false
  /-- the engine that its last copy left, to which FROM of REPLACED refers -/
  left   : Nat := 15
  /-- that copy was the primary of two, and the wingbeat in which it ended, plus 1 -/
  leftA  : Bool := false
  leftAt : Nat := 0
deriving DecidableEq, Repr

/-- A migration (R84–R87). -/
structure Mig where
  task   : Nat
  dst    : Nat
  src    : Nat               -- the engine the copy leaves; 15 when a duplicate is installed
  step   : Nat := 0          -- 0 to copy, 1 copied, 2 shadowed (below 20 µs)
  copies : Nat := 0          -- failed copies
  misses : Nat := 0          -- shadow mismatches
  resume : Nat := 0          -- wingbeat at which the Copy may be taken
  isDup  : Bool := false
deriving DecidableEq, Repr

/-- What an evaluation changed in the state of its task, by key: what stood before, the home state, and what the
evaluation left (R72). An unlisted key is none. -/
abbrev Changes (α : Type) := List (Nat × Option α × Option α)

/-- The changes of one evaluation, which are taken back where its result is not committed. -/
structure Undo where
  objs  : Changes Int := []
  machx : Changes MachX := []
  loopx : Changes LoopX := []
  axisx : Changes AxisX := []
  armx  : Changes ArmX := []
  tunes : Changes TuneX := []
deriving DecidableEq, Repr

/-- A result that an evaluation has computed and that is not yet handed over (R46). `seq` orders
sample instants: twice the wingbeat, plus one for a half evaluation. -/
structure Due where
  seq  : Nat
  half : Bool
  out  : List F32
  ang  : Nat := 0            -- the angle term of a machine's duty, 2^-32 rev
  fe   : F32 := F32.zero     -- its electrical frequency, Hz (R315)
  undo : Undo := {}
deriving DecidableEq, Repr

/-- An output stage (R47, R50): what stands, the last increment, and the run of late results. -/
structure OutStage where
  prev : List F32 := []
  inc  : List F32 := []
  ang  : Nat := 0
  angInc : Int := 0
  seq  : Nat := 0
  subst : Bool := false      -- the last output was substituted (R207)
  due  : List Due := []
  blk  : Nat := 0            -- outputs in the present block of 1,024
  warned : Bool := false     -- LATE_WARN written in the present block
  runBad : Bool := false     -- DEADLINE_RUN written for the present run
deriving DecidableEq, Repr

structure Exch where
  engines : Tbl Engine := []
  tasks   : Tbl Task := []
  outs    : Tbl OutStage := []
  migs    : List Mig := []
  overload : Bool := false
  nlostf  : Bool := false
  /-- the second engine of an unresolved disagreement waits for the first (R90) -/
  second  : List (Nat × Nat) := []
  /-- FULL to take effect at the next mark (R58) -/
  fullDue : Bool := false
  /-- tasks to place again from home state at the next mark -/
  replace : List Nat := []
  /-- axes whose OBSBW has been written (R175) -/
  obsw    : List Nat := []
  /-- tasks of an unresolved disagreement, to place on two engines other than these (R90) -/
  redup   : List (Nat × Nat × Nat) := []
  /-- FLIGHT times in s of the mirror repairs of the last hour, per bank (R586) -/
  repairs : Tbl (List Nat) := []
  /-- the placement has changed as R79 lists, and rebalancing has not yet ended -/
  balance : Bool := false
  /-- task kinds whose code tiles have no good copy in the tile store, until they are rewritten (R97) -/
  codeBad : List Nat := []
  /-- state tiles of tasks with no good home copy, to be rewritten from the local copy after the next evaluation -/
  fromLocal : List Nat := []
deriving DecidableEq, Repr

/-- A fault: the block stops. -/
inductive Fault where
  /-- Never raised: the spec gives the block no condition that stops it. Safe. -/
  | none
deriving DecidableEq, Repr

/-- Why a command has no meaning. -/
inductive Refusal where
  /-- An arm of `exec` whose command has no meaning yet, by mnemonic. Safe. -/
  | notModelled (mnemonic : String)
deriving DecidableEq, Repr

/-- The state of the block. -/
structure State where
  /-- object members whose value differs from the reset value, by object address (R524) -/
  objs   : Tbl Int := []
  rings  : Tbl Ring := []
  /-- the tile store, 8 MiB (R22); its bank 0 is the ring area (R72) -/
  tile   : Tbl Byte := []
  /-- tiles whose stored CRC-32C tag is not that of their bytes; a write gives a tile a new tag (R96) -/
  badTags : List Nat := []
  /-- the engine local stores, 128 KiB each, byte `a` of engine `e` at 131,072 e + a, and Teller SRAM (R22) -/
  stores : Tbl Byte := []
  sram   : Tbl Byte := []
  ports  : Tbl Port := []
  evPend : BitVec 64 := 0
  routes : Tbl Nat := []
  hcfg   : BitVec 32 := 0
  alarms : List Alarm := []
  aseq   : Nat := 0
  /-- SAR.CAL: the offset in codes, and the gain in 2^-16 added to 1 (R587) -/
  sarOff : Int := 0
  sarGain : Int := 0
  newest : Tbl Nat := []       -- newest active fault code by class and instance (R522, R526)
  dups   : Tbl (List Remembered) := []
  /-- the window that Aethino served last (R512); 0 for none since the reset -/
  served : Nat := 0
  defers : List Deferred := []
  pset   : Option Pset := none
  psetNo : Nat := 0
  ledg   : Ledger := {}
  telem  : Telem := {}
  tb     : TimeBase := {}
  up     : StartUp := {}
  bk     : Backup := {}
  otp    : Otp := {}
  mram   : Mram := {}
  sec    : Sec := {}
  pow    : Power := {}
  ex     : Exch := {}
  /-- a counter commit asked for by RESERVE[0].COMMIT is in progress -/
  commitDue : Bool := false
  /-- calibrations whose age excursion has been reported (R587) -/
  stale  : List Nat := []
  legs   : Tbl Leg := []
  stages : Tbl StageX := []
  trips  : Tbl TripIn := []
  sdTrip : List Nat := []      -- ΣΔ inputs whose trip comparator has asserted (R154)
  links  : Tbl RingX := []
  slotx  : Tbl SlotX := []     -- by 384 r + s
  cellc  : Tbl CellCtl := []   -- by 384 r + position
  /-- the fixed point of the present wingbeat has passed -/
  fixedPt : Bool := false
  convx  : Tbl ConvX := []
  armx   : Tbl ArmX := []
  cellx  : Tbl CellX := []     -- by 64 a + i
  machx  : Tbl MachX := []
  dioOut : Tbl Bool := []      -- DIO outputs driven active
  stops  : List StopRec := []
  axstop : Tbl AxStop := []
  sto    : Sto := {}
  supp   : Supp := {}
  /-- stops that an evaluation or a fault has asked for: axis, category, source -/
  axReq  : List (Nat × Nat × Nat) := []
  diox : Tbl DioX := []
  fbx  : Tbl FbX := []
  cmpx : Tbl CmpX := []
  eox  : Tbl EoX := []
  /-- writes of members that take effect at the next mark, by object address (R144, R170) -/
  late : Tbl Int := []
  /-- evaluations of the present mark that wait for an SSI word (R112): machine m, axis x as 72 + 6 x, emulation
  output e as 200 + e -/
  evWait : List Nat := []
  sdx  : Tbl SdX := []
  ainx : Tbl AinX := []
  /-- analogue inputs whose conversions of this wingbeat are to come, in their order (R166) -/
  sarDue : List Nat := []
  loopx : Tbl LoopX := []
  axisx : Tbl AxisX := []
  ffx   : Tbl FfX := []
  canx  : Tbl CanPort := []
  /-- an urgent entry waits at the tail of ring 14, and the consumption of the ring with it (R563) -/
  canPaused : Bool := false
  /-- urgent frames that Aethino could not stage yet (R563) -/
  urgDue : List CanFrame := []
  partx : Tbl PartX := []
  tunes : Tbl TuneX := []
  tracex : Tbl TraceX := []
  /-- the packet that the trace port has sent last (R228) -/
  trport : List Byte := []
  /-- raised event sources that trace units have still to take as triggers, oldest first (R223) -/
  evSeen : List Nat := []
  regs : RegX := {}
  /-- the model's own: free values taken so far (log entry 6) -/
  free   : Nat := 0
  pending : List Instr := []
deriving DecidableEq, Repr

/-- The state right after a power-on reset that found the backup domain lost. -/
def State.reset : State := {}

end Sys2Proof.Machine
end

