-- ==== Sys2Proof/Machine/Ops.lean ====
section
/-! DEFINITION. The named operations over the state: reading and writing members, events, rings, the
Ledger's staging and the alarms. -/
namespace Sys2Proof.Machine

/-! ### Members -/

/-- The reset value of element `x` of a member in instance `i` of its row. -/
def Mem.dfltAt (m : Mem) (i x : Nat) : Int :=
  match m.dsel with
  | 0 => m.dflt
  | 1 => if i < 32 then 0 else ((i - 32) % 4 + 1 : Nat)
  | 2 => match i with | 0 => 7 | 1 => 4 | 2 => 3 | 3 => 2 | _ => 1
  | 3 => match i with
    | 0 => 0x3F800000 | 1 => 0x3F83D70A | 2 => 0x3F866666 | 3 => 0x3F88F5C3 | _ => 0x3F8B851F
  | 4 => (Config.factoryAngle i (x / 8) (x % 8)).toNat
  | 6 => if x = 0 then 50000 else 0
  | 7 => if x = 0 then 8 else 0
  | 9 => -1
  | _ => m.dflt

/-- The two rows are one. -/
def Mem.is (m q : Mem) : Bool := m.cls == q.cls && m.num == q.num && m.lo == q.lo

namespace State

/-- The value that element `x` of member `m` holds in instance `i`. -/
def g (s : State) (m : Mem) (i : Nat := 0) (x : Nat := 0) : Int := s.objs.find (m.dfltAt i x) (m.key i x)

/-- The same as a natural number, as a binary32 value, and as a flag. -/
def n (s : State) (m : Mem) (i : Nat := 0) (x : Nat := 0) : Nat := (s.g m i x).toNat
def f (s : State) (m : Mem) (i : Nat := 0) (x : Nat := 0) : F32 := F32.ofBits (s.g m i x)
def b (s : State) (m : Mem) (i : Nat := 0) (x : Nat := 0) : Bool := s.g m i x != 0

/-- Sets element `x` of member `m` in instance `i`. -/
def put (s : State) (m : Mem) (i : Nat) (v : Int) (x : Nat := 0) : State :=
  { s with objs := s.objs.put (m.dfltAt i x) (m.key i x) v }

def putF (s : State) (m : Mem) (i : Nat) (v : F32) (x : Nat := 0) : State := s.put m i v.toBits x
def putB (s : State) (m : Mem) (i : Nat) (v : Bool) (x : Nat := 0) : State := s.put m i (if v then 1 else 0) x

/-- Adds `k` to a counter that saturates at the top of its type. -/
def inc (s : State) (m : Mem) (i : Nat := 0) (x : Nat := 0) (k : Nat := 1) : State :=
  s.put m i (min (s.g m i x + k) (2 ^ (8 * m.ty.bytes) - 1 : Nat)) x

/-- Adds 1 to a counter that wraps at the top of its type. -/
def incWrap (s : State) (m : Mem) (i : Nat := 0) (x : Nat := 0) : State :=
  s.put m i ((s.g m i x + 1) % (2 ^ (8 * m.ty.bytes) : Nat)) x

/-- The present wingbeat length in ns, in timebase cycles, and in µs as a binary32 value (R23). -/
def twNs (s : State) : Nat := s.n SYS.WINGBEAT
def twCyc (s : State) : Nat := s.twNs * 2 / 5
def twUs (s : State) : F32 := F32.ofFrac s.twNs 1000
/-- T_w in seconds. -/
def twS (s : State) : F32 := F32.ofFrac s.twNs 1000000000

/-- The wingbeat length that a configuration must fit: the present one, and a shorter one that waits for its mark. -/
def twFit (s : State) : Nat := min s.twNs (s.tb.newTw.getD s.twNs)

/-- The timebase cycle of the present instant. -/
def cycleOf (s : State) : Nat := s.tb.cycles + s.tb.off / 8

/-- SYS[0].WBCOUNT. -/
def wb (s : State) : Nat := s.n SYS.WBCOUNT

/-- The number of wingbeats that a time in ms, or in µs, spans, rounded up. -/
def wbOfMs (s : State) (ms : Nat) : Nat := (ms * 1000000 + s.twNs - 1) / s.twNs
def wbOfUs (s : State) (us : Nat) : Nat := (us * 1000 + s.twNs - 1) / s.twNs

/-- Drives a DIO pin with FUNC 1 to its active or inactive level (R145). -/
def dioDrive (s : State) (n : Nat) (on : Bool) : State :=
  if n < 32 && s.g DIO.FUNC n = 1 then { s with dioOut := s.dioOut.put false n (on && !s.tb.ovrd) } else s

/-- The next free value (log entry 6), as a word, an integer, or a bit. -/
def takeWord (s : State) : BitVec 32 × State := (Config.freeWord s.free, { s with free := s.free + 1 })
def takeInt (s : State) : Int × State := (Config.freeInt s.free, { s with free := s.free + 1 })
def takeBit (s : State) : Bool × State := (Config.freeBit s.free, { s with free := s.free + 1 })

/-- FLIGHT time in s, backup register 28 (R642). -/
def flightS (s : State) : Nat := (s.bk.regs.find 0 28).toNat

/-- READY: the windows are served and the objects exist (P7, R643). -/
def ready (s : State) : Bool := s.up.phase = 7
def inMothball (s : State) : Bool := s.up.mothball != 0 && s.up.phase = 7
/-- The device stands in FLIGHT. -/
def flight (s : State) : Bool := s.g POWER.PSTATE = 0

/-! ### Object addresses (R12, R524, R525) -/

/-- The member at an object address: its row, the instance of the row, and the element. -/
def lookup (addr : Nat) : Option (Mem × Nat × Nat) :=
  let i := addr / 4096 % 4096
  let k := addr % 4096
  match (classRows (addr / 16777216)).find? fun m => decide (m.lo ≤ i) && decide (i < m.lo + m.n) &&
      decide (m.num ≤ k) && decide (k < m.num + m.cnt) &&
      !(decide (m.cls = 21) && decide (22 ≤ i) && decide (i < 32)) with
  | some m => some (m, i - m.lo, k - m.num)
  | none => none

/-- A numeric member as a binary32 value. -/
def numeric (s : State) (addr : Nat) : F32 :=
  match lookup addr with
  | some (m, i, x) => if m.ty = .f32 then s.f m i x else F32.ofInt (s.g m i x)
  | none => F32.zero

/-! ### Event sources (R507) -/

/-- Unit `u` takes event source `k` as its trigger (R223). -/
def traceOn (s : State) (u k : Nat) : Bool := s.g TRACE.TRIGSRC u = 3 && s.n TRACE.TRIGEVT u = k

/-- The sources that raising `k` raises: `k`, and those of streaming units whose trigger it is (R225), from unit to unit. -/
def raised (s : State) (k : Nat) : Nat → List Nat
  | 0 => [k]
  | n + 1 => k :: ((List.range 4).filter fun u => s.traceOn u k && s.g TRACE.STATE u = 6).flatMap fun u => raised s (56 + u) n

/-- Raises event source `k`: its pending bit is set, and units that wait for it have their trigger. -/
def raise (s : State) (k : Nat) : State :=
  let l := s.raised k 3
  { s with evPend := l.foldl (fun p k => p ||| (1#64 <<< k)) s.evPend,
           evSeen := s.evSeen ++ l.filter fun k => (List.range 4).any fun u => s.traceOn u k && 2 ≤ s.n TRACE.STATE u }

def raiseAll (s : State) (l : List Nat) : State := l.foldl State.raise s

/-- Event source `k` is pending. -/
def pend (s : State) (k : Nat) : Bool := (s.evPend >>> k) &&& 1 == 1

/-- The event source of an axis (16 + x), none for 0xFF. -/
def raiseAxis (s : State) (x : Nat) : State := if x < 16 then s.raise (16 + x) else s

/-! ### Triggers of the trace units (R223–R226) -/

def traceX (s : State) (u : Nat) : TraceX := s.tracex.find {} u
def setTrace (s : State) (u : Nat) (x : TraceX) : State := { s with tracex := s.tracex.put {} u x }
def trState (s : State) (u : Nat) : Nat := s.n TRACE.STATE u

/-- An event or a write of TRIGNOW triggers unit `u` (R224): the record of the latest instant is the trigger record, or
that of the next where there is none yet. POST holds the records before it that PRE keeps. In a stream it is only
marked (R225); in POST and DONE the trigger is counted (R226). -/
def traceEvent (s : State) (u : Nat) : State :=
  let x := s.traceX u
  let st := s.trState u
  if st = 3 || st = 4 then s.inc TRACE.MISSTRIG u
  else if st = 6 then
    match x.opn.reverse, x.buf with
    | c :: l, _ => s.setTrace u { x with opn := l.reverse ++ [{ c with trig := true }] }
    | [], r :: t => s.setTrace u { x with buf := { r with head := setBits r.head 27 1 1 } :: t }
    | [], [] => s
  else if st = 2 then
    let (before, open', buf, wait) := match x.opn.reverse, x.buf with
      | c :: l, b =>
        let n := min (s.n TRACE.PRE u) (b.length + l.length)
        (n, (l.take n).reverse ++ [{ c with trig := true }], b.take (n - l.length), false)
      | [], r :: t =>
        let n := min (s.n TRACE.PRE u) t.length
        (n, [], { r with head := setBits r.head 27 1 1 } :: t.take n, false)
      | [], [] => (0, [], [], true)
    let s := s.setTrace u { x with opn := open', buf := buf, trig := wait, post := s.n TRACE.DEPTH u - before - 1 }
    (s.put TRACE.PREGOT u (before : Nat)).put TRACE.STATE u 3
  else s

/-- Units take the events that have been raised. Whatever shows or uses a trace unit does so after it. -/
def traceNote (s : State) : State :=
  s.evSeen.foldl (fun s k => (List.range 4).foldl (fun s u => if s.traceOn u k then s.traceEvent u else s) s)
    { s with evSeen := [] }

end State

/-! ### Rings (R501–R506) -/

/-- Ring `n` after reset (R731). -/
def Ring.dflt (n : Nat) : Ring :=
  match n with
  | 0 => { base := 0, lim := 4, esz := 4, thr := 0, owner := 0 }
  | 1 => { base := 4, lim := 44, esz := 80, thr := 0, owner := 0 }
  | 2 => { base := 44, lim := 84, esz := 80, thr := 0, owner := 0 }
  | 3 => { base := 84, lim := 124, esz := 80, thr := 0, owner := 1 }
  | 4 => { base := 124, lim := 164, esz := 80, thr := 0, owner := 1 }
  | 5 => { base := 164, lim := 204, esz := 80, thr := 1, owner := 0 }
  | 6 => { base := 204, lim := 244, esz := 80, thr := 1, owner := 1 }
  | 7 => { base := 244, lim := 372, esz := 2, thr := 1, owner := 0 }
  | 8 => { base := 372, lim := 628, esz := 16, thr := 1, owner := 0 }
  | 9 => { base := 628, lim := 696, esz := 17, thr := 1, owner := 0 }
  | 10 => { base := 696, lim := 776, esz := 5, thr := 0, owner := 0 }
  | 11 => { base := 776, lim := 856, esz := 5, thr := 0, owner := 0 }
  | 12 => { base := 856, lim := 936, esz := 5, thr := 0, owner := 0 }
  | 13 => { base := 936, lim := 1016, esz := 5, thr := 0, owner := 0 }
  | 14 => { base := 1016, lim := 1096, esz := 5, thr := 0, owner := 0 }
  | _ => { base := 1096, lim := 1112, esz := 1, thr := 1, owner := 0 }

namespace Ring

/-- The number of entries. -/
def size (r : Ring) : Nat := (r.lim - r.base) * 16 / r.esz
/-- The entries that the consumer owns. -/
def count (r : Ring) : Nat := if r.size = 0 then 0 else (r.head + 2 * r.size - r.tail) % (2 * r.size)
def full (r : Ring) : Bool := r.count = r.size
def empty (r : Ring) : Bool := r.head = r.tail
/-- The byte address in the ring area of the entry at an index. -/
def entry (r : Ring) (i : Nat) : Nat := r.base * 256 + (if r.size = 0 then 0 else i % r.size) * r.esz * 16
/-- The index after `i`. -/
def succ (r : Ring) (i : Nat) : Nat := if r.size = 0 then 0 else (i + 1) % (2 * r.size)

end Ring

/-- Whether the host consumes ring `n` (R504 DIR). -/
def hostConsumes (n : Nat) (r : Ring) : Bool :=
  if n ≤ 4 then false else if 10 ≤ n && n ≤ 13 then r.hostc else true

namespace State

def ring (s : State) (n : Nat) : Ring := s.rings.find (Ring.dflt n) n
def setRing (s : State) (n : Nat) (r : Ring) : State := { s with rings := s.rings.put (Ring.dflt n) n r }

/-- Byte `a` of the tile store. A byte that nothing has written reads 0: the reset wipe of P2 writes
zeros (R625). -/
def byteAt (s : State) (a : Nat) : Byte := s.tile.find 0 a
def setByte (s : State) (a : Nat) (v : Byte) : State :=
  { s with tile := s.tile.put 0 a v, badTags := s.badTags.filter (· != a / 256) }

/-- Writes bytes from address `a` on. -/
def setBytes (s : State) : Nat → List Byte → State
  | _, [] => s
  | a, v :: t => setBytes (s.setByte a v) (a + 1) t

def getBytes (s : State) (a : Nat) : Nat → List Byte
  | 0 => []
  | n + 1 => s.byteAt a :: getBytes s (a + 1) n

/-- The device produces an entry of ring `n`, which has room: its bytes, then HEAD, then the event of
R506. -/
def produce (s : State) (n : Nat) (bytes : List Byte) : State :=
  let r := s.ring n
  let s := s.setBytes (r.entry r.head) (padTo (r.esz * 16) bytes)
  let r := { r with head := r.succ r.head }
  let s := s.setRing n r
  if r.thr ≥ 1 && r.count ≥ r.thr && hostConsumes n r then s.raise n else s

/-- The device consumes the oldest entry of ring `n` (R506: the event when at least THR are free). -/
def consume (s : State) (n : Nat) : State :=
  let r := s.ring n
  if r.empty then s else
    let r := { r with tail := r.succ r.tail }
    let s := s.setRing n r
    if r.thr ≥ 1 && r.size - r.count ≥ r.thr && !hostConsumes n r then s.raise n else s

/-- Ring `n` can take an entry from the device: it is enabled and not full. DESIGN CHOICE (log entry 42): a ring that is
not enabled takes nothing, so that its producer acts as on a full ring, ring 15 among them (R83). -/
def hasRoom (s : State) (n : Nat) : Bool := (s.ring n).en && !(s.ring n).full

/-- An entry of ring `n` was lost or coalesced: TAIL.LOSS, and its event when it becomes 1. -/
def markLoss (s : State) (n : Nat) : State :=
  if (s.ring n).loss then s else (s.setRing n { s.ring n with loss := true }).raise n

/-! ### The Ledger's staging (R595) -/

/-- Domain A records and LIFE records, which are never lost. -/
def ledgerReserved (code : Nat) : Bool := code / 4096 = 10 || code = 0xF004

/-- The staged record `r`, in its window of `win` cycles, takes the new record `q`. -/
def joins (win : Nat) (r q : LRec) : Bool :=
  r.code = q.code && r.inst = q.inst && r.detail = q.detail && r.count < 65535 && q.since < r.since + win

/-- The staged records with `q` joined to the first that takes it, or none. -/
def joinStaged (win : Nat) (q : LRec) : List LRec → Option (List LRec)
  | [] => none
  | r :: t =>
    if joins win r q then some ({ r with count := r.count + 1, wblast := q.wblast } :: t)
    else (joinStaged win q t).map (r :: ·)

/-- A record enters the Ledger: it joins a staged record, takes an entry of the buffer, or is lost. -/
def ledger (s : State) (code inst detail : Nat) (data : List Byte := []) (secure : Bool := false) : State :=
  let q : LRec := { boot := (s.bk.regs.find 0 29).toNat % 65536, code := code, inst := inst, wb := s.wb,
                    detail := detail, secure := secure, wblast := s.wb, data := data, since := s.cycleOf }
  match joinStaged (s.n LEDGER.COALT * 400000) q s.ledg.staged with
  | some l =>
    let s := if s.ledg.coalesced62 then s else s.raise 62
    { s with ledg := { s.ledg with staged := l, coalesced62 := true } }
  | none =>
    let room := if ledgerReserved code then 1024 else 960
    if s.ledg.staged.length < room then { s with ledg := { s.ledg with staged := s.ledg.staged ++ [q] } }
    else
      let s := if s.ledg.coalesced62 then s else s.raise 62
      { (s.inc LEDGER.LOST) with ledg := { s.ledg with lostNow := s.ledg.lostNow + 1, coalesced62 := true } }

/-! ### Alarms on ring 7 (R598) -/

def Alarm.bytes (a : Alarm) (coalesced : Bool) (aseq : Nat) : List Byte :=
  le 2 a.code ++ le 2 a.inst ++ le 4 a.detail ++ le 8 a.wb ++ le 8 a.wblast ++
    le 2 (min a.count 65535) ++ le 1 (b2n coalesced) ++ [0] ++ le 4 aseq

/-- Joins `q` to the entry of the coalescing table that takes it. -/
def joinAlarm (q : Alarm) : List Alarm → Option (List Alarm)
  | [] => none
  | a :: t =>
    if a.code = q.code && (a.merged || a.inst = q.inst) then
      some ({ a with count := a.count + 1, wblast := q.wblast } :: t)
    else (joinAlarm q t).map (a :: ·)

/-- Merges the entries that share a code into the first of them, with INST 0xFFFF. -/
def mergeAlarms : Nat → List Alarm → List Alarm
  | 0, l => l
  | _, [] => []
  | k + 1, a :: t =>
    let same := t.filter (fun b => b.code = a.code)
    let rest := t.filter (fun b => b.code != a.code)
    let m := if same.isEmpty then a else
      { a with inst := 0xFFFF, merged := true, count := same.foldl (fun c b => c + b.count) a.count,
               wblast := same.foldl (fun w b => max w b.wblast) a.wblast }
    m :: mergeAlarms k rest

/-- An alarm goes to ring 7 while it has room and nothing waits ahead of it, and into the coalescing
table otherwise. Before READY, when no ring is enabled, the table keeps it and nothing is lost. -/
def ring7 (s : State) (code inst detail : Nat) : State :=
  let a : Alarm := { code := code, inst := inst, detail := detail, wb := s.wb, wblast := s.wb, count := 1 }
  if s.hasRoom 7 && s.alarms.isEmpty then
    { (s.produce 7 (Alarm.bytes a false s.aseq)) with aseq := (s.aseq + 1) % 4294967296 }
  else
    let s := if s.alarms.isEmpty && s.ready then (s.markLoss 7).raise 62 else s
    match joinAlarm a s.alarms with
    | some l => { s with alarms := l }
    | none =>
      if s.alarms.length < 256 then { s with alarms := s.alarms ++ [a] }
      else
        let l := mergeAlarms 256 s.alarms
        match joinAlarm a l with
        | some l => { s with alarms := l }
        | none => { s with alarms := l ++ [a] }

/-- Fault `code` becomes the newest active fault of an object (R522, R526). -/
def noteFault (s : State) (cls inst code : Nat) : State := { s with newest := s.newest.put 0 (cls * 65536 + inst) code }

/-- The INST of an alarm that concerns no instance. -/
def noInst : Nat := 0x10000

/-- A fault of R523: its alarm on ring 7, its Ledger record (R594), and the event sources of its rule.
`cls` is the class of the object concerned (R524), whose newest active fault it becomes; 0 for none. A fault that
concerns no instance has INST 0xFFFF in the Ledger (R593); on ring 7, where 0xFFFF stands for several (R598), it
carries 0. -/
def alarm (s : State) (code inst : Nat) (evs : List Nat) (detail : Nat := 0) (cls : Nat := 0)
    (data : List Byte := []) : State :=
  let i := if inst = noInst then 0 else inst
  let s := (s.ring7 code i detail).ledger code (if inst = noInst then 0xFFFF else inst) detail data
  let s := if cls = 0 then s else s.noteFault cls i code
  s.raiseAll evs

/-- The newest active fault of an object, and its end. -/
def newestOf (s : State) (cls inst : Nat) : Nat := s.newest.find 0 (cls * 65536 + inst)
def clearFault (s : State) (cls inst : Nat) : State :=
  { s with newest := s.newest.put 0 (cls * 65536 + inst) 0 }

end State
end Sys2Proof.Machine
end

