-- ==== Sys2Proof/Machine/HostIf.lean ====
section
/-! DEFINITION. The host ports (R490–R513): the direct page, the ring area, doorbells, and the interrupt
pins. -/
namespace Sys2Proof.Machine
namespace State

def port (s : State) (p : Nat) : Port := s.ports.find {} p
def setPort (s : State) (p : Nat) (x : Port) : State := { s with ports := s.ports.put {} p x }

/-- A world violation (R612): block `no` or region `no`, the address, and its path 0 SPI A, 1 SPI B,
2 request, 3 debug. -/
def violation (s : State) (no : Nat) (region : Bool) (addr path : Nat) : State :=
  let s := s.inc SEC.VIOLCNT
  let s := { s with sec := { s.sec with vaddr := addr, vsrc := no + 256 * b2n region + 65536 * path } }
  s.alarm 0xA101 no [61] addr 0x20

/-- Block `b` is assigned to the secure world (R608). -/
def blockSecure (s : State) (b : Nat) : Bool := s.sec.blkmap.getLsbD b

/-! ### Interrupt pins (R508–R510) -/

/-- The route field of a source: PIN in [1:0], EN in [2]. -/
def route (s : State) (k : Nat) : Nat := s.routes.find 0 k

/-- The sources that assert HIRQ pin `p`, lowest first. -/
def asserting (s : State) (p : Nat) : List Nat :=
  (List.range 64).filter fun k => s.pend k && bit (s.route k) 2 && s.route k % 4 == p
def hirq (s : State) (p : Nat) : Bool := !(s.asserting p).isEmpty

/-- The level of HIRQ pin `p`: driven high, driven low, or none when it is released (R509). -/
def hirqPin (s : State) (p : Nat) : Option Bool :=
  let c := s.hcfg.toNat
  if !bit c (4 * p) then none
  else
    let high := s.hirq p == bit c (4 * p + 1)
    if bit c (4 * p + 2) && high then none else some high

def hstat (s : State) : Nat :=
  (List.range 4).foldl (fun k p => match s.asserting p with
    | [] => k
    | f :: _ => k + 2 ^ p + f * 2 ^ (7 * p + 4) + 2 ^ (7 * p + 10)) 0

/-! ### Direct page (R498–R504, R730–R732) -/

/-- HOST.SUM (R500). -/
def hostSum (s : State) : Nat :=
  if !s.tb.seen then 0 else
    s.up.phase + 16 * b2n s.inMothball + 32 * s.n LIFE.STATE + 256 * s.n POWER.PSTATE + 2048 * b2n s.tb.refok
      + 4096 * b2n s.sto.act + 8192 * b2n (s.g STOPDEV.ACTIVE != 0) + 16384 * (s.n PROFILE.DUTY)
      + 32768 * b2n s.ex.overload + 65536 * s.up.cause
      + 16777216 * (List.range 8).foldl (fun k d => if s.pend (32 + d) then k + 2 ^ d else k) 0

def pcfg (x : Port) : Nat := b2n x.quad + 2 * b2n x.crcen + 4 * x.dummy + 256 * b2n x.seccap

/-- RING.BASEnn, LIMnn, HEADnn and TAILnn (R504). -/
def ringBase (s : State) (n : Nat) : Nat :=
  let r := s.ring n
  r.base + 65536 * r.esz + 2 ^ 24 * b2n r.world + 2 ^ 25 * b2n r.en + 2 ^ 26 * b2n r.hostc
    + 2 ^ 27 * b2n (n == 14 || hostConsumes n r) + 2 ^ 28 * r.owner
def ringLim (s : State) (n : Nat) : Nat := (s.ring n).lim + 65536 * (s.ring n).thr
def ringHead (s : State) (n : Nat) : Nat := (s.ring n).head + 65536 * (s.ring n).size
def ringTail (s : State) (n : Nat) : Nat :=
  let r := s.ring n
  r.tail + 2 ^ 16 * b2n r.full + 2 ^ 17 * b2n r.empty + 2 ^ 18 * b2n r.loss + 2 ^ 19 * b2n r.dberr + 2 ^ 20 * b2n r.cfgerr

/-- EVT.ROUTEr. -/
def routeReg (s : State) (r : Nat) : Nat :=
  (List.range 8).foldl (fun k j => k + (s.route (8 * r + j)) * 16 ^ j) 0

/-- The word at offset `off` of the direct page, as port `p` reads it. -/
def pageRead (s : State) (p off : Nat) : Nat :=
  let n := off / 4 % 16
  if off = 0 then 0x4E592140
  else if off = 4 then Config.siliconRevision.toNat +
    (if s.up.phase ≥ 6 then 256 * 3 + 65536 * Config.aethinoBuild.toNat else 0)
  else if off = 8 then pcfg (s.port p)
  else if off = 0xC then s.hostSum
  else if off = 0x10 then s.evPend.toNat % 2 ^ 32
  else if off = 0x14 then s.evPend.toNat / 2 ^ 32
  else if off < 0x38 then s.routeReg ((off - 0x18) / 4)
  else if off = 0x38 then s.hcfg.toNat
  else if off = 0x3C then s.hstat
  else if off < 0x80 then s.ringBase n
  else if off < 0xC0 then s.ringLim n
  else if off < 0x100 then s.ringHead n
  else if off < 0x140 then s.ringTail n
  else 0

/-- The register at offset `off` belongs to the secure world for SPI (R499, R733). -/
def pageSecure (s : State) (off : Nat) : Bool :=
  if off < 0x10 then s.blockSecure 1 else if off < 0x40 then s.blockSecure 3 else (s.ring (off / 4 % 16)).world

def fixedSpan (n : Nat) : Bool := n = 0 || n = 7 || (10 ≤ n && n ≤ 14)

/-- Spans of two rings overlap. -/
def overlaps (s : State) (n base lim : Nat) : Bool :=
  (List.range 16).any fun k => k != n && decide (base < (s.ring k).lim) && decide ((s.ring k).base < lim)

/-- A configuration write to ring `n` is refused: CFGERR and its event (R504, R506). -/
def cfgErr (s : State) (n : Nat) : State :=
  if (s.ring n).cfgerr then s else (s.setRing n { s.ring n with cfgerr := true }).raise n

/-- A write of RING.BASEnn. `secure` is the world of the write; `path` the SPI port of a violation. -/
def writeBase (s : State) (n v : Nat) (secure : Bool) (path : Nat) : State :=
  let r := s.ring n
  let base := bits v 0 12
  let world := bit v 24
  let en := bit v 25
  let hostc := if 10 ≤ n && n ≤ 13 then bit v 26 else false
  let owner := bits v 28 2
  let fixedOwner := 1 ≤ n && n ≤ 6 && owner != r.owner
  let size := (r.lim - base) * 16 / r.esz
  let spanBad := base != r.base &&
    (fixedSpan n || r.lim ≤ base || size = 0 || size > 16384 || s.overlaps n base r.lim)
  let bad := owner ≥ 2 || fixedOwner || spanBad || (r.en && (base != r.base || owner != r.owner)) ||
    (r.en && !en && !r.empty)
  let s := if !secure && world != r.world then s.violation 2 false (0x40002000 + 4 * n) path else s
  if bad then s.cfgErr n else
    let r := { r with base := base, owner := owner, hostc := hostc, world := if secure then world else r.world }
    if en && !r.en then
      let s := s.setRing n { r with en := true, head := 0, tail := 0 }
      if 1 ≤ n && n ≤ 4 then { s with dups := s.dups.put [] n [] } else s
    else s.setRing n { r with en := en }

/-- A write of RING.LIMnn. -/
def writeLim (s : State) (n v : Nat) : State :=
  let r := s.ring n
  let lim := bits v 0 12
  let thr := bits v 16 16
  let size := (lim - r.base) * 16 / r.esz
  let spanBad := lim != r.lim &&
    (fixedSpan n || lim > 2048 || lim ≤ r.base || size = 0 || size > 16384 || s.overlaps n r.base lim)
  if spanBad || (r.en && (lim != r.lim || thr != r.thr)) then s.cfgErr n
  else s.setRing n { r with lim := lim, thr := thr }

/-- A write of RING.TAILnn: its W1C bits. -/
def writeTail (s : State) (n v : Nat) : State :=
  let r := s.ring n
  s.setRing n { r with loss := r.loss && !bit v 18, dberr := r.dberr && !bit v 19, cfgerr := r.cfgerr && !bit v 20 }

/-- A doorbell is refused: DBERR and the ring's event (R503). -/
def dbErr (s : State) (n : Nat) : State := (s.setRing n { s.ring n with dberr := true }).raise n

/-- A port's write buffer reaches the tile store (R494). -/
def commitBuffer (s : State) (p : Nat) : State :=
  match (s.port p).wbuf with
  | none => s
  | some (a, l) => (s.setPort p { s.port p with wbuf := none }).setBytes a l

/-- A doorbell of port `p` on ring `n` with the index `v` (R503). It takes effect after the port's
earlier write is in the tile store (R494). -/
def doorbell (s : State) (p n v : Nat) : State :=
  let s := s.commitBuffer p
  let r := s.ring n
  let m := 2 * r.size
  if r.owner != p || !r.en || v ≥ m || n = 14 || (10 ≤ n && n ≤ 13 && !r.hostc) then s.dbErr n
  else if hostConsumes n r then
    if (r.head + m - v) % m ≤ (r.head + m - r.tail) % m then s.setRing n { r with tail := v } else s.dbErr n
  else
    if (v + m - r.tail) % m ≤ r.size && (v + m - r.head) % m ≤ (v + m - r.tail) % m then s.setRing n { r with head := v }
    else s.dbErr n

/-- One 32-bit write of the direct page from port `p`. -/
def pageWrite (s : State) (p off v : Nat) (secure : Bool) : State :=
  let n := off / 4 % 16
  if off = 8 then
    let x := s.port p
    s.setPort p { x with quad := bit v 0, crcen := bit v 1, dummy := max 4 (bits v 2 6) }
  else if off = 0x10 then { s with evPend := s.evPend &&& ~~~(BitVec.ofNat 64 (v % 2 ^ 32)) }
  else if off = 0x14 then { s with evPend := s.evPend &&& ~~~(BitVec.ofNat 64 (v % 2 ^ 32 * 2 ^ 32)) }
  else if 0x18 ≤ off && off < 0x38 then
    (List.range 8).foldl (fun s j =>
      { s with routes := s.routes.put 0 (8 * ((off - 0x18) / 4) + j) (bits v (4 * j) 3) }) s
  else if off = 0x38 then { s with hcfg := BitVec.ofNat 32 (v % 65536) &&& 0x7777 }
  else if 0x40 ≤ off && off < 0x80 then s.writeBase n v secure p
  else if 0x80 ≤ off && off < 0xC0 then s.writeLim n v
  else if 0x100 ≤ off && off < 0x140 then s.writeTail n v
  else if 0x140 ≤ off then s.doorbell p n (v % 65536)
  else s

/-- The words of a write, most significant byte first (R490). -/
def beWords : Nat → List Byte → List Nat
  | 0, _ => []
  | k + 1, l => (l.take 4).foldl (fun w b => w * 256 + b.toNat) 0 :: beWords k (l.drop 4)

def beBytes (w : Nat) : List Byte := (le 4 w).reverse

/-! ### Transactions -/

/-- The status byte (R493). -/
def statusByte (s : State) (ack busy crcerr world addr tag : Bool) : Nat :=
  b2n ack + 2 * b2n busy + 4 * b2n crcerr + 8 * b2n world + 16 * b2n addr
    + 32 * b2n ((List.range 4).any s.hirq) + 64 * b2n tag

/-- The ports answer from P3 on, and not in COCOON and DIAPAUSE (R497, R660). -/
def portsAnswer (s : State) : Bool := s.up.phase ≥ 3 && s.g POWER.PSTATE ≤ 3

def sat8 (k : Nat) : Nat := min 255 (k + 1)

/-- Ends a transaction of port `p`: the status byte it drove, the data with their CRC (R492), and its error counts. -/
def answer (s : State) (p : Nat) (ack busy crcerr world addr tag : Bool) (data : List Byte) : State :=
  let st := s.statusByte ack busy crcerr world addr tag
  let x := s.port p
  s.setPort p { x with status := st, rdata := data,
                       rcrc := if x.crcen && !data.isEmpty then some (crc8 (BitVec.ofNat 8 st :: data)) else none,
                       errCrc := if crcerr then sat8 x.errCrc else x.errCrc,
                       errBusy := if busy then sat8 x.errBusy else x.errBusy,
                       errWorld := if world then sat8 x.errWorld else x.errWorld,
                       errAddr := if addr then sat8 x.errAddr else x.errAddr }

/-- The ring whose span holds the tile of address `a`. -/
def ringOf (s : State) (a : Nat) : Option Nat :=
  (List.range 16).find? fun n => decide ((s.ring n).base ≤ a / 256) && decide (a / 256 < (s.ring n).lim)

/-- Byte `a` lies in an entry that port `p` owns as producer of a ring it may produce (R502). -/
def mayWrite (s : State) (p a : Nat) : Bool :=
  match s.ringOf a with
  | none => false
  | some n =>
    let r := s.ring n
    if hostConsumes n r || 4 < n || r.owner != p then false else
      let k := (a - r.base * 256) / (r.esz * 16)
      decide (k < r.size) && decide ((k + r.size - r.head % r.size) % r.size < r.size - r.count)

/-- The direct page: aligned, whole words, within 0x17F (R494). -/
def pageAddrOk (a n : Nat) : Bool := a % 4 = 0 && n % 4 = 0 && decide (0 < n) && decide (a + n ≤ 0x180)

/-- Whether an open-world direct-page access of `n` bytes at `a` meets a secure register. -/
def pageWorldBad (s : State) (secure : Bool) (a n : Nat) : Bool :=
  !secure && (List.range (n / 4)).any fun k => s.pageSecure (a + 4 * k)

/-- An open-world write of the WORLD field of a ring (R499). -/
def worldWrite (s : State) (secure : Bool) (a : Nat) (words : List Nat) : Bool :=
  !secure && (List.range words.length).any fun k =>
    decide (0x40 ≤ a + 4 * k) && decide (a + 4 * k < 0x80) && bit (words.getD k 0) 24 != (s.ring ((a + 4 * k) / 4 % 16)).world

/-- SPI_WRITE (R492–R496): port, SEC bit, SPACE, address, data, whether the CRC passed, and whether the
chip select rose before the last data byte (R497). -/
def spiWrite (s : State) (p : Nat) (sec : Bool) (space a : Nat) (data : List Byte) (crcOk cut : Bool) : State :=
  if !s.portsAnswer then s
  else if cut then s.setPort p { s.port p with errAddr := sat8 (s.port p).errAddr }
  else
    let secure := sec && (s.port p).seccap
    let crcBad := (s.port p).crcen && !crcOk
    if crcBad then s.answer p false false true false false false []
    else if space = 0 then
      if !pageAddrOk a data.length then s.answer p false false false false true false []
      else
        let words := beWords (data.length / 4) data
        let bad := s.pageWorldBad secure a data.length || s.worldWrite secure a words
        let s := (List.range words.length).foldl (fun s k =>
          let off := a + 4 * k
          if !secure && s.pageSecure off then
            (s.violation (if off < 0x10 then 1 else if off < 0x40 then 3 else 2) false off p)
          else s.pageWrite p off (words.getD k 0) secure) s
        s.answer p true false false bad false false []
    else if space = 1 then
      let n := data.length
      if n = 0 || a / 256 != (a + n - 1) / 256 || !(List.range n).all (fun k => s.mayWrite p (a + k)) then
        s.answer p false false false false true false []
      else if !secure && (s.ring ((s.ringOf a).getD 0)).world then
        (s.violation 0 true a p).answer p false false false true false false []
      else if s.g POWER.PSTATE = 3 || (s.port p).wbuf.isSome then s.answer p false true false false false false []
      else (s.setPort p { s.port p with wbuf := some (a, data) }).answer p true false false false false false []
    else s.answer p false false false false true false []

/-- A byte of the ring area as port `p` sees it: its own uncommitted write included (R494). -/
def portByte (s : State) (p a : Nat) : Byte :=
  match (s.port p).wbuf with
  | some (b, l) => if b ≤ a && a < b + l.length then l.getD (a - b) 0 else s.byteAt a
  | none => s.byteAt a

/-- Tile `k` is read by a port and fails its tag, which it does until it is written again: the Ledger's entry (R493). -/
def tagRead (s : State) (k : Nat) : State :=
  { s with badTags := if s.badTags.contains k then s.badTags else s.badTags ++ [k] }.ledger 0xF008 0xFFFF k

/-- SPI_READ (R492–R496): `fetched` says whether the tile was there in time or the chip select
rose before the last data byte (R497), and `tagBad` that its tag check failed. -/
def spiRead (s : State) (p : Nat) (sec : Bool) (space a n : Nat) (crcOk : Bool) (fetched : Fetch) (tagBad : Bool) : State :=
  if !s.portsAnswer then s
  else if fetched = .cut then s.setPort p { s.port p with errAddr := sat8 (s.port p).errAddr }
  else
    let secure := sec && (s.port p).seccap
    if (s.port p).crcen && !crcOk then s.answer p false false true false false false (zeros n)
    else if space = 0 then
      if !pageAddrOk a n then s.answer p false false false false true false (zeros n)
      else
        let bad := s.pageWorldBad secure a n
        let data := (List.range (n / 4)).foldl (fun l k =>
          l ++ (if !secure && s.pageSecure (a + 4 * k) then zeros 4 else beBytes (s.pageRead p (a + 4 * k)))) []
        let s := if bad then
            s.violation (if a < 0x10 then 1 else if a < 0x40 then 3 else 2) false a p else s
        s.answer p true false false bad false false data
    else if space = 1 then
      if n = 0 || a / 256 != (a + n - 1) / 256 || a / 256 ≥ 2048 then s.answer p false false false false true false (zeros n)
      else if !secure && (match s.ringOf a with | some r => (s.ring r).world | none => false) then
        (s.violation 0 true a p).answer p false false false true false false (zeros n)
      else if s.g POWER.PSTATE = 3 || fetched = .late then s.answer p false true false false false false (zeros n)
      else
        let data := (List.range n).map fun k => s.portByte p (a + k)
        let bad := tagBad || s.badTags.contains (a / 256)
        let s := if bad then s.tagRead (a / 256) else s
        s.answer p true false false false false bad data
    else s.answer p false false false false true false (zeros n)

/-- QUAD_EXIT (R497): eight SCK cycles with SIOx0 high. -/
def quadExit (s : State) (p : Nat) : State :=
  if !s.portsAnswer then s else s.setPort p { s.port p with quad := false }

/-- RING_AGE_TIMEOUT (R506): AGEMAX has elapsed on a ring that is not empty. -/
def ringAge (s : State) (n : Nat) : State :=
  if s.g HRING.AGEMAX n = 0 || (s.ring n).empty || !(s.ring n).en || !hostConsumes n (s.ring n) then s else s.raise n

/-- ALARM_FLUSH (R598): one coalesced alarm goes to ring 7 as the host frees an entry. -/
def alarmFlush (s : State) : State :=
  match s.alarms with
  | [] => s
  | a :: t =>
    if !s.hasRoom 7 then s else
      let s := s.produce 7 (Alarm.bytes a true s.aseq)
      let s := s.inc HRING.LOST 7 0 (min a.count 65535 - 1)
      { s with aseq := (s.aseq + 1) % 4294967296, alarms := t }

end State
end Sys2Proof.Machine
end

