-- ==== Sys2Proof/Machine/Exchange.lean ====
section
/-! DEFINITION. The Exchange (R29–R31, R42, R43, R66–R101): tasks and their charges, admission and
placement, notices, migration, engine faults and repair. -/
namespace Sys2Proof.Machine
namespace State

def eng (s : State) (e : Nat) : Engine := s.ex.engines.find {} e
def setEng (s : State) (e : Nat) (x : Engine) : State :=
  { s with ex := { s.ex with engines := s.ex.engines.put {} e x } }
def task (s : State) (t : Nat) : Task := s.ex.tasks.find {} t
def admitted (s : State) (e : Nat) : Bool := (s.eng e).st = .admitted
def admittedList (s : State) : List Nat := (List.range 8).filter s.admitted
/-- The ids with a placement entry that is not absent. -/
def taskIds (s : State) : List Nat := (s.ex.tasks.filter fun e => e.2.st != 0 || e.2.placing).map (·.1)

/-- PAIRED is in force: a FULL that waits for its mark does not act yet (R58). -/
def paired (s : State) : Bool := s.g PROFILE.DUTY = 0 || s.ex.fullDue

/-- The machine that a converter drives, the converter of a machine or arm (R29). -/
def convArms (s : State) (c : Nat) : List Nat := (List.range (s.n CONV.ARMS c)).map (s.n CONV.ARM0 c + ·)
def convs (s : State) : List Nat := (List.range 8).filter fun c => s.g CONV.CFG c != 0
def convOfMach (s : State) (m : Nat) : Option Nat := s.convs.find? fun c => s.n CONV.MACH c = m
def convOfArm (s : State) (a : Nat) : Option Nat := s.convs.find? fun c => (s.convArms c).contains a
/-- The partner of a machine that a CAN remote drive is (R573), and the stage that drives a machine. -/
def partOfMach (s : State) (m : Nat) : Option Nat :=
  (List.range 256).find? fun p => s.g PART.MACH p = m && s.g PART.KIND p = 1
def stageOfMach (s : State) (m : Nat) : Option Nat := (List.range 16).find? fun i => s.g STAGE.MACH i = m
def remote? (s : State) (m : Nat) : Bool := (s.partOfMach m).isSome
/-- The machines of an axis, in order (R29). -/
def machsOf (s : State) (x : Nat) : List Nat := (List.range 32).filter fun m => s.g MACH.AXIS m = x
/-- The reference machine of an axis: REFM, by default its lowest machine (R215). -/
def refm (s : State) (x : Nat) : Nat :=
  if s.g AXIS.REFM x < 0 then (s.machsOf x).headD 0 else s.n AXIS.REFM x
/-- The decimation in force in trace unit `u` (R222, R672). -/
def decEff (s : State) (u : Nat) : Nat :=
  if s.n THERM.STEP ≥ 2 then min 65535 (s.n TRACE.DEC u * s.n THERM.THRTRDEC) else s.n TRACE.DEC u

/-- What a machine keeps beyond its members. -/
def machX (s : State) (m : Nat) : MachX := s.machx.find {} m

/-- The members of the pool (R284), and their mask. -/
def members (s : State) (x : Nat) : List Nat := (s.machsOf x).filter fun m => s.b MACH.ENABLE m && !(s.machX m).policy
def memberMask (s : State) (x : Nat) : Nat := (s.members x).foldl (fun k m => k + 2 ^ m) 0

/-- The value that a member shows: REFM names the lowest machine until the host has written it (R215), BITS is
the sum of the word's fields (R107), KIND goes by the instance (R213), DECEFF is the decimation in force, a trace
unit shows the triggers that it has had, and the pool of an axis without evaluations shows the machines that would be
its members (R284, R294). -/
def shown (s : State) (m : Mem) (i x : Nat) : Int :=
  match s.late.look (m.key i x) with
  | some v => v
  | none =>
  if m.is AXIS.REFM then (s.refm i : Nat)
  else if m.is FB.BITS then s.g FB.LEAD i + s.g FB.MT i + s.g FB.ST i + s.g FB.STAT i + s.g FB.CRCLEN i
  else if m.is LOOP.KIND then (if i < 32 then 0 else (i - 32) % 4 + 1 : Nat)
  else if m.is TRACE.DECEFF then (s.decEff i : Nat)
  else if m.is POOL.MEMBERS && !s.b AXIS.ENABLE i then (s.memberMask i : Nat)
  else if m.is POOL.NACT && !s.b AXIS.ENABLE i then ((s.members i).length : Nat)
  else if m.cls = 26 then s.traceNote.g m i x
  else s.g m i x
/-- The feed-forward tables bound to an axis (R195). -/
def ffOf (s : State) (x : Nat) : List Nat := (List.range 64).filter fun i => s.g FF.AXIS i = x

/-! ### Charges and tiles (R30, R70, R316) -/

/-- The outer tasks of an axis by its MODE (R175): k = 0 profile, 1 position, 2 speed or tension,
3 observer, 4 feed-forward, 5 Pool and Give (R283). DEDUCED (log entry 48): an observer belongs to an axis of a mode other than 0
whose OBSBW has been written. -/
def outerTasks (s : State) (x : Nat) : List Nat :=
  let md := s.g AXIS.MODE x
  (if s.g AXIS.SPSRC x = 0 then [0] else []) ++ (if md = 3 then [1] else []) ++
    (if md = 2 || md = 3 || md = 4 then [2] else []) ++ (if md != 0 && s.ex.obsw.contains x then [3] else []) ++
    (if (s.ffOf x).isEmpty then [] else [4]) ++ (if md = 0 then [] else [5])

/-- The charge of a task, in flops per wingbeat. A cycle of a local current loop takes two wingbeats
below 20 µs (R26). -/
def chargeOf (s : State) (t : Nat) : Nat :=
  if t < 32 then
    let c := if s.b MACH.DUPD t then 1500 else 1000
    if s.twNs < 20000 then c / 2 else c
  else if t < 40 then 750
  else if t < 72 then 500
  else match (t - 72) % 6 with
    | 0 => 300 | 1 => 200 | 2 => 250 | 3 => 500 | 4 => 150 | _ => 225

def codeTiles (t : Nat) : Nat :=
  if t < 32 then 40 else if t < 40 then 48 else if t < 72 then 24
  else match (t - 72) % 6 with
    | 0 => 32 | 1 => 8 | 2 => 12 | 3 => 24 | 4 => 8 | _ => 24

def stateTiles (s : State) (t : Nat) : Nat :=
  if t < 32 then 4 else if t < 40 then 6 else if t < 72 then 3
  else match (t - 72) % 6 with
    | 0 => 6 | 1 => 1 | 2 => 2 | 3 => 4
    | 4 => (s.ffOf ((t - 72) / 6)).foldl (fun k i => k + (s.n FF.N i + 63) / 64) 1
    | _ => 4

/-- The kind of a task: its code tiles are shared among the tasks of one kind. -/
def taskKind (t : Nat) : Nat :=
  if t < 32 then 0 else if t < 40 then 1 else if t < 72 then 2 else 3 + (t - 72) % 6

/-- The owner's object address, member field 0 (R80), and its CRIT and PIN hints (R78). -/
def ownerAddr (t : Nat) : Nat :=
  if t < 32 then 0x06000000 + t * 4096 else if t < 40 then 0x09000000 + (t - 32) * 4096
  else if t < 72 then 0x0A000000 + (t - 40) * 4096 else 0x05000000 + ((t - 72) / 6) * 4096

def critHint (s : State) (t : Nat) : Bool :=
  if t < 32 then s.b MACH.CRIT t else if t < 40 then s.b CONV.CRIT (t - 32)
  else if t < 72 then s.b ARM.CRIT (t - 40) else s.b AXIS.CRIT ((t - 72) / 6)

def pinHint (s : State) (t : Nat) : Nat :=
  if t < 32 then s.n MACH.PIN t else if t < 40 then s.n CONV.PIN (t - 32)
  else if t < 72 then s.n ARM.PIN (t - 40) else s.n AXIS.PIN ((t - 72) / 6)

/-! ### Capacity (R42, R43, R74) -/

/-- The throughput of one engine at the admission temperature, in units of 0.01 flop per ns: setpoint
0 NOMINAL, 1 LEAN, 2 BOOST. -/
def throughput (sp : Nat) : Nat := if sp = 1 then 62 else 98

/-- The throughput in force: while the supply moves, the lower of the two setpoints (R43). -/
def throughputNow (s : State) : Nat :=
  if !s.flight then 98 else
    match s.pow.spTarget with
    | some t => min (throughput s.pow.spFrom) (throughput t)
    | none => throughput (s.n POWER.SPSTATE)

def capWith (s : State) (thr : Nat) (engines : Nat) (pair : Bool) : Nat :=
  engines * thr * s.twNs / (if pair then 200 else 100)

def admCap (s : State) : Nat := s.capWith s.throughputNow s.admittedList.length s.paired
def engCap (s : State) : Nat := s.throughputNow * s.twNs / 100

/-- The total charge of the placed tasks (R30), and of those with the tasks being placed. -/
def charge (s : State) : Nat :=
  s.ex.tasks.foldl (fun k e => if e.2.st != 0 then k + e.2.charge else k) 0
def chargeAll (s : State) : Nat :=
  s.ex.tasks.foldl (fun k e => if e.2.st != 0 || e.2.placing then k + e.2.charge else k) 0

def onEngine (e : Nat) (t : Task) : Bool := t.engA = e || t.engB = e || t.engD = e

/-- The occupancy of an engine (R74). -/
def occ (s : State) (e : Nat) : Nat :=
  s.ex.tasks.foldl (fun k x => if x.2.engA = e || x.2.engB = e then k + x.2.charge else k) 0

/-- The tiles taken in an engine's local store, those of a migration in progress included (R71). -/
def tilesOn (s : State) (e : Nat) : Nat :=
  let here := s.ex.tasks.filter fun x => onEngine e x.2
  let kinds := (here.map fun x => taskKind x.1).eraseDups
  let code := kinds.foldl (fun k q => k +
    (match here.find? (fun x => taskKind x.1 = q) with | some x => codeTiles x.1 | none => 0)) 0
  here.foldl (fun k x => k + x.2.tiles) code

/-- The tiles that the tasks `ts` add to engine `e`. -/
def tilesAdded (s : State) (e : Nat) (ts : List Nat) : Nat :=
  let kinds := ((s.ex.tasks.filter fun x => onEngine e x.2).map fun x => taskKind x.1).eraseDups
  let fresh := (ts.filter fun t => !kinds.contains (taskKind t))
  let code := ((fresh.map fun t => (taskKind t, codeTiles t)).eraseDups).foldl (fun k x => k + x.2) 0
  ts.foldl (fun k t => k + s.stateTiles t) code

/-- Home and mirror tiles in the placement area (R72). -/
def homeTiles (s : State) (extra : List Nat) : Nat :=
  let ids := s.taskIds ++ extra
  let kinds := ((ids.map fun t => (taskKind t, codeTiles t)).eraseDups).foldl (fun k x => k + 2 * x.2) 0
  ids.foldl (fun k t => k + s.stateTiles t * (if s.critHint t || s.b EXCH.MIRRORALL then 2 else 1)) kinds

/-! ### Notices and entries (R80–R83) -/

def noticeLedger (ty : Nat) : Bool := 5 ≤ ty && ty ≤ 0x11

/-- The INST of a notice's Ledger record (R593, log entry 18): its task, or the engine that it names, or none. -/
def noticeInst (tk frm dst : Nat) : Nat := if tk != 0xFF then tk else if frm < 8 then frm else if dst < 8 then dst else 0xFFFF

/-- Posts a placement notice (R82, R83); a record that R82 marks carries DETAIL 0 (R593). -/
def notice (s : State) (ty tk frm dst : Nat) (code : Nat := 0) : State :=
  let bytes := le 1 ty ++ le 1 tk ++ le 1 frm ++ le 1 dst ++ le 4 s.wb ++ le 4 (s.n EXCH.PGEN) ++ le 2 code ++ zeros 2
  let s := s.raise 60
  let s := if noticeLedger ty then s.ledger (0xE000 + ty) (noticeInst tk frm dst) 0 else s
  if s.hasRoom 15 then s.produce 15 bytes
  else ({ s with ex := { s.ex with nlostf := true } }.inc EXCH.NLOST).raise 62

/-- The entry as the placement table shows it, but for TGEN: an absent task shows nothing (R80). -/
def entryOf (x : Task) : Task :=
  if x.st = 0 then {} else { x with tgen := 0, placing := false, lost := false, left := 15, leftA := false, leftAt := 0,
                                    run := false, conv := 255, pol := false }

/-- Changes a task; where its placement entry changes, PGEN and TGEN of the entry (R80, R81). -/
def setTask (s : State) (t : Nat) (x : Task) : State :=
  if entryOf x = entryOf (s.task t) then
    { s with ex := { s.ex with tasks := s.ex.tasks.put {} t { x with tgen := (s.task t).tgen } } }
  else
    let s := s.incWrap EXCH.PGEN
    { s with ex := { s.ex with tasks := s.ex.tasks.put {} t { x with tgen := s.n EXCH.PGEN } } }

/-- The placement has changed as R79 lists: rebalancing follows. -/
def toBalance (s : State) : State := { s with ex := { s.ex with balance := true } }

/-- The STATE of a placed task that neither migrates nor substitutes (R80): dispatched or not, unpaired or not. -/
def runSt (s : State) (x : Task) : Nat := if !x.run then 1 else if x.crit && s.paired && x.engB = 15 then 3 else 2

/-- Gives a placed task a STATE; 6 while its owner is in its fault policy (R743). -/
def setTaskSt (s : State) (t st : Nat) : State :=
  if (s.task t).st = 0 || (s.task t).st = st then s else s.setTask t { s.task t with st := st, pol := st == 6 }

/-- The owner of the tasks `ts` has left its fault policy, or its stop has completed (R743). A task that no engine
could take stays in STATE 6 until it is placed again. -/
def leavePolicy (s : State) (ts : List Nat) : State :=
  ts.foldl (fun s t =>
    let x := s.task t
    if x.st != 6 then s else s.setTask t { x with pol := false, st := if x.engA = 15 then 6 else s.runSt x }) s

/-- The 16 bytes of EXCH[0].PLACE[t] (R80): an absent task has no engine, no charge and no tiles. -/
def placeBytes (s : State) (t : Nat) : List Byte :=
  let x := s.task t
  if x.st = 0 then [0, 0xFF, 0x0F, 0] ++ le 4 (ownerAddr t) ++ zeros 4 ++ le 4 x.tgen else
    le 1 x.st ++ le 1 (x.engA + 16 * x.engB) ++ le 1 x.engD ++
    le 1 (b2n x.crit + 2 * b2n x.hintign + 4 * b2n x.mirr) ++ le 4 (ownerAddr t) ++ le 2 x.charge ++
    le 2 x.tiles ++ le 4 x.tgen

def engineMask (s : State) (p : EngState → Bool) : Nat :=
  (List.range 8).foldl (fun k e => if p (s.eng e).st then k + 2 ^ e else k) 0

/-- A critical task without a running duplicate in PAIRED (R56). -/
def unpairedTask (s : State) (x : Nat × Task) : Bool :=
  s.paired && x.2.st != 0 && x.2.crit && x.2.engB = 15
def unpairedIds (s : State) : List Nat := (s.ex.tasks.filter s.unpairedTask).map (·.1)

/-- VENG as measured: within 10 mV of `mv`, else unstated (R703, log entry 6). -/
def vengNear (s : State) (mv : Nat) : State :=
  let (v, s) := s.takeInt
  s.put POWER.VENG 0 (mv - 10 + v % 21)

/-- VENG at an instant at which the spec bounds it by no value: while the supply moves (R59). -/
def vengAny (s : State) : State :=
  let (v, s) := s.takeInt
  s.put POWER.VENG 0 (v % 65536)

/-- PWR drives a VID code on the pins that VIDDIO names (R701). -/
def vidDrive (s : State) (code : Nat) : State :=
  let n := s.n POWER.VIDDIO
  let s := { s with pow := { s.pow with code := code } }
  if 30 ≤ n then s else (List.range 3).foldl (fun s k => s.dioDrive (n + k) (bit code k)) s

/-- The supply starts to move to setpoint `v` (R59): SETPOINT is `v`, SPSTATE 3. DESIGN CHOICE (log entry 42): where a
move is already in progress, the setpoint being left is LEAN if either of its two setpoints is, and the one it
was moving to otherwise, so that the lower throughput of all of them applies. -/
def setpointMove (s : State) (v : Nat) : State :=
  let frm := match s.pow.spTarget with
    | some t => if s.pow.spFrom = 1 || t = 1 then 1 else t
    | none => s.n POWER.SPSTATE
  let s := { s with pow := { s.pow with spTarget := some v, spFrom := frm } }
  ((((s.put POWER.SETPOINT 0 v).put POWER.SPSTATE 0 3).vengAny).vidDrive v)

/-- In OVERLOAD, LEAN ends (R95). -/
def leanExit (s : State) : State :=
  if s.g POWER.SETPOINT = 1 then
    let s := if s.flight then s.setpointMove 0 else s.put POWER.SETPOINT 0 0
    s.alarm 0x9102 0 [48]
  else s

/-- Brings the members and the OVERLOAD condition in line with the placement (R95, R99). The second
part of R95 moves LEAN to NOMINAL. -/
def exRefresh (s : State) : State :=
  let was := s.n PROFILE.UNPAIRED
  let un := s.unpairedIds.length
  let s := s.put PROFILE.UNPAIRED 0 un
  let full := un = 0 && (s.g PROFILE.STATE = 2 || (was != 0 && s.paired))
  let s := if s.g PROFILE.STATE = 2 && un = 0 then s.put PROFILE.STATE 0 0 else s
  let s := if full then s.notice 0x0D 0xFF 0xF 0xF else s
  let s := s.put EXCH.ADMITTED 0 (s.engineMask (· == .admitted))
  let s := s.put EXCH.ISOLATED 0 (s.engineMask fun e => e == .isolated || e == .testing)
  let s := s.put EXCH.RETIRED 0 (s.engineMask (· == .retired))
  let s := s.put EXCH.CHARGE 0 s.charge
  let s := s.put EXCH.ADMCAP 0 s.admCap
  let s := (List.range 8).foldl (fun s e => s.put EXCH.OCC 0 (s.occ e) e) s
  if s.charge > s.admCap && !s.ex.overload then
    let s := { s with ex := { s.ex with overload := true } }
    let s := (s.alarm 0x4303 0xFFFF [35] s.charge).notice 0x0E 0xFF 0xF 0xF 0x4303
    s.leanExit
  else if s.charge ≤ s.admCap && s.ex.overload then
    { s with ex := { s.ex with overload := false } }.notice 0x0F 0xFF 0xF 0xF
  else s

/-! ### Admission and placement (R68, R69, R75, R76, R78) -/

/-- A group of tasks that one choice of engines places: a current loop, a common part, an arm, or the
outer tasks of an axis. -/
structure Group where
  tasks : List Nat
deriving DecidableEq, Repr

def groupCharge (s : State) (q : List Nat) : Nat := q.foldl (fun k t => k + s.chargeOf t) 0

/-- The charges of the copies on their way to engine `e` (R84). -/
def coming (s : State) (e : Nat) : Nat := s.ex.tasks.foldl (fun k x => if x.2.engD = e then k + x.2.charge else k) 0

/-- Engine `e` can take the tasks within its capacity and tiles, those on their way to it included (R75). -/
def fits (s : State) (e : Nat) (q : List Nat) : Bool :=
  s.admitted e && decide (s.occ e + s.coming e + s.groupCharge q ≤ s.engCap) &&
    decide (s.tilesOn e + s.tilesAdded e q ≤ 480)

/-- The engine of lowest occupancy among those given, the lowest number first (R76). -/
def leastLoaded (s : State) (l : List Nat) : Option Nat :=
  l.foldl (fun best e => match best with
    | none => some e
    | some b => if s.occ e < s.occ b then some e else best) none

/-- The engines for the copies of a group: primary, duplicate (15 for none), and whether the pin hint
was ignored. -/
def chooseEngines (s : State) (q : List Nat) : Option (Nat × Nat × Bool) :=
  let t := q.headD 0
  let two := s.paired && s.critHint t
  let all := (List.range 8).filter fun e => s.fits e q
  let pin := all.filter fun e => bit (s.pinHint t) e
  let need := if two then 2 else 1
  let ign := pin.length < need
  let l := if ign then all else pin
  match s.leastLoaded l with
  | none => none
  | some a =>
    if two then
      match s.leastLoaded (l.filter (· != a)) with
      | none => none
      | some b => some (a, b, ign)
    else some (a, 15, ign)

/-- Enters a group with its engines: charged and reserved, its tiles not yet in place. -/
def enterGroup (s : State) (q : List Nat) (a b : Nat) (ign : Bool) : State :=
  q.foldl (fun s t => s.setTask t
    { engA := a, engB := b, crit := s.critHint t, hintign := ign,
      mirr := s.critHint t || s.b EXCH.MIRRORALL, charge := s.chargeOf t, tiles := s.stateTiles t,
      placing := true, tgen := (s.task t).tgen }) s

/-- A group of an axis that already has placed tasks joins them (R76). -/
def placeGroup (s : State) (q : List Nat) : Option State :=
  let t := q.headD 0
  let mates := if t < 72 then [] else
    (s.taskIds.filter fun k => decide (72 ≤ k) && (k - 72) / 6 == (t - 72) / 6)
  match mates with
  | k :: _ =>
    let x := s.task k
    if s.fits x.engA q && (x.engB = 15 || s.fits x.engB q) then some (s.enterGroup q x.engA x.engB x.hintign) else none
  | [] =>
    match s.chooseEngines q with
    | none => none
    | some (a, b, ign) =>
      let s := s.enterGroup q a b ign
      some (if ign then s.notice 0x12 t a 0xF else s)

/-- The order of R76 for groups placed together: critical first, then higher charge, then lower ID. DESIGN CHOICE (log
entry 42): the rule orders tasks; the outer tasks of an axis, which run on one engine, are ordered by the sum of
their charges and by their lowest task ID. -/
def groupBefore (s : State) (p q : List Nat) : Bool :=
  let cp := s.critHint (p.headD 0); let cq := s.critHint (q.headD 0)
  if cp != cq then cp
  else if s.groupCharge p != s.groupCharge q then decide (s.groupCharge q < s.groupCharge p)
  else decide (p.headD 0 ≤ q.headD 0)

/-- Inserts a group into an ordered list of groups. -/
def insGroup (s : State) (p : List Nat) : List (List Nat) → List (List Nat)
  | [] => [p]
  | q :: t => if s.groupBefore p q then p :: q :: t else q :: insGroup s p t
def sortGroups (s : State) (l : List (List Nat)) : List (List Nat) := l.foldl (fun a p => s.insGroup p a) []

/-- Admits and enters groups as a whole, or none (R69, R75). -/
def placeGroups (s : State) (l : List (List Nat)) : Option State :=
  let l := s.sortGroups (l.filter fun q => !q.isEmpty)
  let total := l.foldl (fun k q => k + s.groupCharge q) 0
  if !l.isEmpty && (s.ex.overload || s.chargeAll + total > s.admCap
      || s.homeTiles (l.foldl (· ++ ·) []) > 27136) then none
  else l.foldl (fun o q => match o with | none => none | some s => placeGroup s q) (some s)

/-- The groups that the configuration of an owner calls for (R528): class and instance. -/
def ownerGroups (s : State) (cls i : Nat) : List (List Nat) :=
  match cls with
  | 5 => [(s.outerTasks i).map fun k => 72 + 6 * i + k]
  | 6 => if (s.convOfMach i).isSome || s.remote? i then [] else [[i]]
  | 9 => [32 + i] :: (s.convArms i).map fun a => [40 + a]
  | _ => []

/-- The tasks of an owner that have an entry. -/
def ownerTasks (s : State) (cls i : Nat) : List Nat :=
  s.taskIds.filter fun t => match cls with
    | 5 => decide (72 ≤ t) && (t - 72) / 6 == i
    | 6 => t == i
    | 9 => decide (32 ≤ t) && decide (t < 72) && (s.task t).conv == i
    | _ => false

/-- Every task of an owner is in place (R68). -/
def ownerPlaced (s : State) (cls i : Nat) : Bool := (s.ownerTasks cls i).all fun t => (s.task t).st != 0

/-- A placed task of an owner waits for an engine that can take it (R98). -/
def ownerStranded (s : State) (cls i : Nat) : Bool :=
  (s.ownerTasks cls i).any fun t => (s.task t).st != 0 && (s.task t).engA = 15

/-! ### Home state (R72, R92) -/

/-- `was` where nothing but the evaluation has changed what it left, `now`. -/
def home {α : Type} [DecidableEq α] (was now cur : α) : α := if cur = now then was else cur

/-- A machine's loop from its home state; the demand, the fault policy and what else is not the loop's stays. -/
def homeMach (was _now cur : MachX) : MachX :=
  { cur with ed := was.ed, iq := was.iq, ifw := was.ifw, psir := was.psir, slip := was.slip, ffd := was.ffd, ffq := was.ffq,
             tclamp := was.tclamp, ierr := was.ierr, idr := was.idr, iqr := was.iqr, ud := was.ud, uq := was.uq,
             udPi := was.udPi, duD := was.duD, duQ := was.duQ, tHist := was.tHist, hOk := was.hOk, hStop := was.hStop || cur.hStop }

/-- A loop: a preset that the evaluation took acts again. -/
def homeLoop (was now cur : LoopX) : LoopX :=
  { preset := home was.preset now.preset cur.preset, kp := was.kp, kpd := was.kpd, satB := was.satB,
    resume := home was.resume now.resume cur.resume, xchg := home was.xchg now.xchg cur.xchg }

/-- The outer tasks of an axis. -/
def homeAxis (was now cur : AxisX) : AxisX :=
  { cur with vref := was.vref, setp := was.setp, pset := home was.pset now.pset cur.pset, wHat := was.wHat,
             satF := was.satF, gen := home was.gen now.gen cur.gen, rest := was.rest, h := home was.h now.h cur.h,
             pH := was.pH, filt := was.filt, pre := was.pre, preDn := was.preDn, p0 := was.p0, pa := was.pa,
             tau0 := was.tau0, lH := was.lH, recT := was.recT, tNow := was.tNow, aref := was.aref, tLoop := was.tLoop,
             tFr := was.tFr, ep := was.ep, ev := was.ev, verr := was.verr }

/-- An arm's circulating-current loop; SORT's selection is no task's. -/
def homeArm (was _now cur : ArmX) : ArmX := { cur with icref := was.icref }

/-- Takes back the changes of one table, each record by `f` of what stood before, what was left, and what stands. -/
def takeBack {α : Type} [DecidableEq α] (d : α) (f : α → α → α → α) (l : Changes α) (t : Tbl α) : Tbl α :=
  l.foldl (fun t e => t.put d e.1 (f (e.2.1.getD d) (e.2.2.getD d) (t.find d e.1))) t

/-- Takes back the member values that still stand as an evaluation left them. -/
def objsBack (l : Changes Int) (t : Tbl Int) : Tbl Int :=
  l.foldl (fun t e => if t.look e.1 = e.2.2 then t.set e.1 e.2.1 else t) t

/-- The task runs on from the state that stood before the evaluation of `u`. -/
def goHome (s : State) (u : Undo) : State :=
  { s with objs := objsBack u.objs s.objs, machx := takeBack {} homeMach u.machx s.machx,
           loopx := takeBack {} homeLoop u.loopx s.loopx, axisx := takeBack {} homeAxis u.axisx s.axisx,
           armx := takeBack {} homeArm u.armx s.armx, tunes := takeBack {} home u.tunes s.tunes }

/-- The member values that are a task's own state: those of LOOP and PROF, and the HUSH state of a machine. -/
def taskMember (k : Nat) : Bool :=
  k / 16777216 = 16 || k / 16777216 = 18 || (k / 16777216 = 6 && k % 4096 = MACH.HUSHST.num)

/-- What an evaluation that led from `a` to `b` has changed. -/
def undoOf (a b : State) : Undo :=
  { objs := Tbl.changes (a.objs.filter fun e => taskMember e.1) (b.objs.filter fun e => taskMember e.1),
    machx := Tbl.changes a.machx b.machx, loopx := Tbl.changes a.loopx b.loopx, axisx := Tbl.changes a.axisx b.axisx,
    armx := Tbl.changes a.armx b.armx, tunes := Tbl.changes a.tunes b.tunes }

/-- The results of output `k` that `p` names are lost: they count as never handed over, and the state that their
evaluations computed is not kept, the latest first (R55, R90, R92). -/
def loseDue (s : State) (k : Nat) (p : Due → Bool) : State :=
  let o := s.ex.outs.find {} k
  let s := (o.due.reverse.filter p).foldl (fun s d => s.goHome d.undo) s
  { s with ex := { s.ex with outs := s.ex.outs.put {} k { o with
      due := o.due.map fun d => if p d then { d with out := [], undo := {} } else d } } }

/-- The output that a task's results go to, or that its work enters: for the outer tasks of an axis that of the axis. -/
def taskOut (s : State) (t : Nat) : Nat :=
  if 72 ≤ t then 72 + (t - 72) / 6 * 6 else if 32 ≤ t && t < 40 then s.n CONV.MACH (t - 32) else t

/-- Fresh state tiles, which hold zero state (R743). -/
def zeroState (s : State) (t : Nat) : State :=
  let mach := fun (s : State) (m : Nat) =>
    let x := s.machx.find {} m
    let s := { s with machx := s.machx.put {} m { homeMach {} x x with hStop := false }, loopx := s.loopx.del m }
    s.putF LOOP.INTEG m F32.zero
  let loop := fun (s : State) (n : Nat) => { s.putF LOOP.INTEG n F32.zero with loopx := s.loopx.del n }
  if t < 32 then mach s t
  else if t < 40 then (if s.n CONV.MACH (t - 32) < 32 then mach s (s.n CONV.MACH (t - 32)) else s)
  else if t < 72 then { s with armx := s.armx.put {} (t - 40) (homeArm {} {} (s.armx.find {} (t - 40))) }
  else
    let a := (t - 72) / 6
    let x := s.axisx.find {} a
    let set := fun (y : AxisX) => { s with axisx := s.axisx.put {} a y }
    match (t - 72) % 6 with
    | 0 => set { x with gen := {} }
    | 1 => loop s (32 + 4 * a)
    | 2 => loop (loop s (32 + 4 * a + 1)) (32 + 4 * a + 2)
    | 3 => (set { x with wHat := F32.zero }).putF LOOP.VEST (32 + 4 * a + 3) F32.zero |>.putF LOOP.TLEST (32 + 4 * a + 3) F32.zero
    | 4 => s
    | _ => set { x with filt := F32.zero, pre := F32.zero, preDn := false, p0 := 0, pa := 0, tau0 := F32.zero, lH := [], recT := 0 }

/-- The owner's tasks start or stop being dispatched (R68, R80): 2 running, 3 running unpaired, 1 placed. -/
def dispatch (s : State) (cls i : Nat) (on : Bool) : State :=
  (s.ownerTasks cls i).foldl (fun s t =>
    let x := { s.task t with run := on }
    let s := if on && x.lost then (s.zeroState t).setTask t { x with lost := false } else s.setTask t x
    let x := s.task t
    if on then s.setTaskSt t (s.runSt x) else if x.st = 6 then s else s.setTaskSt t 1) s

/-- Removes task `t` (R68): its entry becomes absent. -/
def removeTask (s : State) (t : Nat) : State :=
  let x := s.task t
  let s := s.incWrap EXCH.PGEN
  let s := { s with ex := { s.ex with tasks := s.ex.tasks.put {} t { tgen := s.n EXCH.PGEN }, outs := s.ex.outs.del t,
                                      migs := s.ex.migs.filter (fun m => m.task != t),
                                      replace := s.ex.replace.filter (· != t),
                                      fromLocal := s.ex.fromLocal.filter (· != t) } }
  s.notice 0x02 t x.engA 0xF

/-- Removes the tasks of an owner (R68). -/
def removeTasks (s : State) (cls i : Nat) : State :=
  let l := s.ownerTasks cls i
  let s := l.foldl (fun s t =>
    s.removeTask t) s
  s.toBalance.exRefresh

/-! ### Engines leaving and returning (R91–R95) -/

/-- Ends a migration without its switch. -/
def abandon (s : State) (m : Mig) (code : Nat := 0) : State :=
  let s := { s with ex := { s.ex with migs := s.ex.migs.filter (fun q => q.task != m.task) } }
  let x := s.task m.task
  let s := s.setTask m.task { x with engD := 15, st := if x.st = 4 then s.runSt x else x.st }
  s.notice 0x05 m.task m.src m.dst code

/-- The Switch step: the destination replaces the source, or becomes the second copy. -/
def switchIn (s : State) (m : Mig) : State :=
  let x := s.task m.task
  let y := if m.isDup then { x with engB := m.dst, engD := 15 }
    else if x.engA = m.src then { x with engA := m.dst, engD := 15 } else { x with engB := m.dst, engD := 15 }
  let s := { s with ex := { s.ex with migs := s.ex.migs.filter (fun q => q.task != m.task) } }
  let s := s.setTask m.task { y with st := if x.st = 4 || x.st = 3 then s.runSt y else x.st }
  (s.notice 0x04 m.task m.src m.dst).exRefresh

/-- A task copy on engine `e` ends; a result that no other copy forms awaits its deadline, and the task goes on from
its home state (R92). -/
def endCopy (s : State) (e t : Nat) : State :=
  let x := s.task t
  let y := if x.engA = e then { x with engA := x.engB, engB := 15, left := e, leftA := true, leftAt := s.wb + 1 }
    else { x with engB := 15, left := e, leftA := false, leftAt := s.wb + 1 }
  if (x.engA = e || x.engB = e) && x.engB != 15 then s.setTask t { y with st := if x.st = 2 then s.runSt y else x.st }
  else if x.engA = e then
    let s := s.setTask t { x with engA := 15, left := e,
                                  st := if 2 ≤ x.st && x.st ≤ 4 then (if x.run then 5 else 1) else x.st }
    let s := { s with ex := { s.ex with replace := s.ex.replace ++ [t] } }
    s.loseDue (s.taskOut t) (fun _ => true)
  else s

/-- The migrations that engine `e` takes part in, when it leaves (R98): a shadow takes over at once if its copy passes;
`bad` are the tasks whose shadow does not. -/
def endMigs (s : State) (e : Nat) (bad : List Nat) : State :=
  s.ex.migs.foldl (fun s m =>
    if m.src = e && m.dst != e && m.step = 2 && !bad.contains m.task then s.switchIn m
    else if m.dst = e || m.src = e then s.abandon m else s) s

/-- Withdraws engine `e`: ENG_ISOLATED, and RETIRED at the third isolation within 24 h (R94); `bad` as for `endMigs`.
DESIGN CHOICE (log entry 42): a notice that concerns one engine names it in FROM where the engine, or a copy on it,
is withdrawn, and in TO where it is readmitted or takes a copy. -/
def isolate (s : State) (e : Nat) (bad : List Nat := []) : State :=
  let x := s.eng e
  let now := s.flightS
  let times := (x.isol.filter fun k => now ≤ k + 86400) ++ [now]
  let s := s.setEng e { x with st := .isolated, isol := times }
  let s := s.notice 0x09 0xFF e 0xF
  let s := s.endMigs e bad
  let s := s.taskIds.foldl (fun s t => s.endCopy e t) s
  let s := if times.length ≥ 3 then
      let s := s.setEng e { s.eng e with st := .retired }
      let s := { s with mram := { s.mram with retired := s.mram.retired ||| 2 ^ e } }
      (s.alarm 0x4304 e [35] 0 0x1B).notice 0x0B 0xFF e 0xF 0x4304
    else s
  s.toBalance.exRefresh

/-- An output starts from zero (R54): no result stands, and neither a previous output nor an increment. -/
def resetOut (s : State) (k : Nat) : State := { s with ex := { s.ex with outs := s.ex.outs.del k } }

/-- Two tasks that run on one engine: the outer tasks of one axis (R76). -/
def sameGroup (t k : Nat) : Bool := t == k || (decide (72 ≤ t) && decide (72 ≤ k) && (t - 72) / 6 == (k - 72) / 6)

/-- The tasks of `l` in their groups (R76), each task of which is in one group. -/
def groupsOf (l : List Nat) : List (List Nat) :=
  (l.filter fun t => (l.find? fun k => sameGroup t k) == some t).map fun t => l.filter fun k => sameGroup t k

/-- Places again, from the home state, the tasks left with no copy: at the mark that follows, a group together
(R76, R92); beyond the engine capacity only while OVERLOAD is set (R95). Answers the running tasks that no engine could take (R98); these and the others that none could
take wait for an engine. -/
def replaceTasks (s : State) : State × List Nat :=
  let l := s.ex.replace
  let s := { s with ex := { s.ex with replace := [] } }
  (s.sortGroups (groupsOf l)).foldl (fun (s, bad) q =>
    let t := q.headD 0
    let adm := s.admittedList
    let tiles := adm.filter fun e => decide (s.tilesOn e + s.tilesAdded e q ≤ 480)
    let pin := tiles.filter fun e => bit (s.pinHint t) e
    let ok := (if pin.isEmpty then tiles else pin)
    let room := ok.filter fun e => s.fits e q
    match s.leastLoaded (if room.isEmpty && s.ex.overload then ok else room) with
    | some e =>
      (q.foldl (fun s t =>
        let x := s.task t
        let y := { x with engA := e }
        let s := s.setTask t { y with st := if x.st = 5 || (x.st = 6 && !x.pol) then s.runSt y else x.st }
        (if x.st = 0 then s else s.notice 0x0C t x.left e).exRefresh) s, bad)
    | none =>
      let run := q.filter fun t => (s.task t).st = 5
      let s := run.foldl (fun s t => s.setTaskSt t 6) s
      ({ s with ex := { s.ex with replace := s.ex.replace ++ q } }, bad ++ run)) (s, [])

/-- A task of an unresolved disagreement moves to two other engines (R90). -/
def reduplicate (s : State) : State :=
  let l := s.ex.redup
  let s := { s with ex := { s.ex with redup := [] } }
  l.foldl (fun s (t, p, q) =>
    let g := s.taskIds.filter fun k => sameGroup t k && (s.task k).engA = (s.task t).engA && (s.task k).engB = (s.task t).engB
    let ok := s.admittedList.filter fun e => e != p && e != q && s.fits e g
    let a := (s.leastLoaded ok).getD 15
    let b := (s.leastLoaded (ok.filter (· != a))).getD 15
    let s := g.foldl (fun s k =>
      let x := s.task k
      let y := { x with engA := a, engB := b, left := min p q }
      let s := s.setTask k { y with st := if x.st = 1 || x.st = 6 then x.st else if a = 15 then 5 else s.runSt y }
      if a = 15 then { s with ex := { s.ex with replace := s.ex.replace ++ [k] } }
      else s.notice 0x0C k (min p q) a) s
    let s := if s.admitted (min p q) then s.isolate (min p q) else s
    if (s.eng (min p q)).st = .retired then (if s.admitted (max p q) then s.isolate (max p q) else s)
    else { s with ex := { s.ex with second := s.ex.second ++ [(min p q, max p q)] } }) s

/-- The disagreement of the copies on engines `p` and `q` is unresolved (R90). -/
def unresolved (s : State) (t p q : Nat) : State :=
  let s := (s.alarm 0x4302 t [35] 0 0x1B).notice 0x07 t p q 0x4302
  { s with ex := { s.ex with redup := s.ex.redup ++ [(t, p, q)] } }

/-- The two copies of task `t` disagree; `pa` and `pb` tell which copy passes (R89, R90). The copy of an engine
that has faulted in this wingbeat does not (R98). The answer tells whether an output is handed over. -/
def disagree (s : State) (t : Nat) (pa pb : Bool) : State × Bool :=
  let x := s.task t
  if x.engA = 15 then (s, true)
  else if x.engB = 15 then
    if x.leftAt != s.wb + 1 then (s, true)
    else if (if x.leftA then pb else pa) then (s.notice 0x06 t x.left x.engA, true)
    else (if x.leftA then s.unresolved t x.left x.engA else s.unresolved t x.engA x.left, false)
  else if pa != pb then
    let (win, lose) := if pa then (x.engA, x.engB) else (x.engB, x.engA)
    (((s.notice 0x06 t lose win).isolate lose), true)
  else (s.unresolved t x.engA x.engB, false)

/-- ENGINE_FAULT: the engine supervisor declares engine `e` faulted, for reason `why` of ENG.SUPe (R91, R92,
R739): 1 parity, 2 illegal operation, 3 overrun, 4 tags; 0 names no fault. `bad` are the tasks whose shadow on
another engine does not pass (R98). -/
def engineFault (s : State) (e why : Nat) (bad : List Nat := []) : State :=
  if !s.admitted e || why = 0 then s else
    let s := s.setEng e { s.eng e with lastFlt := why }
    let s := s.alarm 0x4301 e [35] 0 0x1B
    let s := s.notice 0x08 0xFF e 0xF 0x4301
    s.isolate e bad

/-- ENGINE_TEST_START: Assay is free and the lowest ISOLATED engine that may be tested enters TESTING
(R94); not while throttling pauses Assay (R671), nor below FLIGHT and HOVER (R668). -/
def engineTestStart (s : State) : State :=
  if s.g ASSAY.TESTING != 255 || s.g THERM.STEP ≥ 1 || s.g POWER.PSTATE ≥ 2 || s.inMothball ||
     !(s.ready || s.up.testFirst) then s else
    match (List.range 8).find? fun e => (s.eng e).st = .isolated with
    | some e => (s.setEng e { s.eng e with st := .testing }).put ASSAY.TESTING 0 e |>.exRefresh
    | none => s

/-- ENGINE_TEST_DONE: the engine under test is readmitted or retired (R94, R588). -/
def engineTestDone (s : State) (pass : Bool) (ms : F32) : State :=
  let e := s.n ASSAY.TESTING
  if e > 7 || (s.eng e).st != .testing then s else
    let s := (s.put ASSAY.TESTING 0 255).putF ASSAY.TESTMS 0 ms
    let s := { s with stores := s.stores.filter fun q => q.1 / 131072 != e }   -- wiped (R588)
    let s := if pass then (s.setEng e { s.eng e with st := .admitted, tagFails := [] }).notice 0x0A 0xFF 0xF e
      else
        let s := s.setEng e { s.eng e with st := .retired }
        let s := { s with mram := { s.mram with retired := s.mram.retired ||| 2 ^ e } }
        (s.alarm 0x4304 e [35] 0 0x1B).notice 0x0B 0xFF e 0xF 0x4304
    let other := (s.ex.second.find? fun p => p.1 = e).map (·.2)
    let s := { s with ex := { s.ex with second := s.ex.second.filter (fun p => p.1 != e) } }
    let s := s.toBalance.exRefresh
    match other with
    | some q => if s.admitted q then s.isolate q else s
    | none => s

/-- Clears the RETIRED bits that `keep` leaves 0: those engines return to ISOLATED (R94). -/
def clearRetired (s : State) (keep : Nat) : State :=
  let s := (List.range 8).foldl (fun s e =>
    if (s.eng e).st = .retired && !bit keep e then s.setEng e { s.eng e with st := .isolated, isol := [] } else s) s
  { s with mram := { s.mram with retired := s.mram.retired &&& keep } }.exRefresh

/-! ### Migration (R79, R84–R87, R93) -/

/-- The next duplicate to install: most critical kind first, then the lower task ID, where R75 points
2 and 3 can be met. -/
def nextDup (s : State) : Option Mig :=
  (s.unpairedIds.filterMap fun t =>
    let x := s.task t
    if x.engD != 15 || x.placing || x.engA = 15 then none else
      let l := s.admittedList.filter fun e => e != x.engA && s.fits e [t]
      let pin := l.filter fun e => bit (s.pinHint t) e
      let l := if pin.isEmpty then l else pin
      let mates := l.filter fun e => s.taskIds.any fun k =>
        k != t && sameGroup t k && ((s.task k).engB == e || (s.task k).engD == e)
      (s.leastLoaded (if mates.isEmpty then l else mates)).map fun e =>
        { task := t, dst := e, src := x.engA, isDup := true }).head?

/-- A copy that stands on an engine which its pin hint does not allow while an allowed one can take it (R78):
a task of an axis group joins the engine to which its group has begun to move (R76). -/
def nextHint (s : State) : Option Mig :=
  (s.taskIds.filterMap fun t =>
    let x := s.task t
    let pin := s.pinHint t
    if x.st = 0 || x.engD != 15 || x.placing then none else
    match [x.engA, x.engB].find? fun e => e != 15 && !bit pin e with
    | none => none
    | some e =>
      let ok := s.admittedList.filter fun d => bit pin d && d != x.engA && d != x.engB && s.fits d [t]
      let mates := ok.filter fun d => decide (72 ≤ t) && s.taskIds.any fun k =>
        decide (72 ≤ k) && (k - 72) / 6 == (t - 72) / 6 && ((s.task k).engA == d || (s.task k).engB == d)
      (s.leastLoaded (if mates.isEmpty then ok else mates)).map fun d =>
        ({ task := t, dst := d, src := e } : Mig)).head?

/-- A copy that rebalancing moves from the most loaded engine to the least loaded one that R76 permits for it
(R79): the lowest task ID whose move narrows the difference. A group of several outer tasks stays on one
engine. -/
def nextBalance (s : State) : Option Mig :=
  let l := s.admittedList
  match s.leastLoaded l, l.foldl (fun best e => match best with
      | none => some e
      | some b => if s.occ e > s.occ b then some e else best) none with
  | some lo, some hi =>
    if !s.ex.balance || (s.occ hi - s.occ lo) * 100 ≤ s.n EXCH.BALTHR * s.engCap then none else
      (s.taskIds.filterMap fun t =>
        let x := s.task t
        let alone := t < 72 || (s.taskIds.filter fun k => decide (72 ≤ k) && (k - 72) / 6 == (t - 72) / 6).length == 1
        if x.st != 0 && x.engD = 15 && alone && (x.engA = hi || x.engB = hi) then
          let ok := l.filter fun e => e != x.engA && e != x.engB && s.fits e [t] && (x.hintign || bit (s.pinHint t) e) &&
            decide (x.charge < s.occ hi - s.occ e)
          (s.leastLoaded ok).map fun e => ({ task := t, dst := e, src := hi } : Mig)
        else none).head?
  | _, _ => none

/-- Prepare: the destination is reserved (R84). -/
def prepare (s : State) (m : Mig) : State :=
  let s := { s with ex := { s.ex with migs := s.ex.migs ++ [m] } }
  let x := s.task m.task
  let s := s.setTask m.task { x with engD := m.dst, st := if 1 ≤ x.st && x.st ≤ 3 then 4 else x.st,
                                     hintign := x.hintign && !bit (s.pinHint m.task) m.dst }
  s.notice 0x03 m.task m.src m.dst

/-- The Copy of a local current loop below 20 µs is taken in odd wingbeats only (R84). -/
def copyTurn (s : State) (m : Mig) : Bool := s.twNs ≥ 20000 || m.task ≥ 32 || s.wb % 2 = 1

/-- The steps of the migrations at a mark. `failed` are the tasks whose copy did not complete, `differ`
those whose shadow did not match. -/
def migrationStep (s : State) (failed differ : List Nat) : State :=
  let fold := s.ex.migs.foldl (fun (s, busy) m =>
    match m.step with
    | 1 =>   -- copied in the wingbeat that ended
      if failed.contains m.task then
        let m := { m with copies := m.copies + 1, step := 0 }
        if m.copies ≥ 8 then (s.abandon m, busy)
        else if s.copyTurn m && !busy then
          ({ s with ex := { s.ex with migs := s.ex.migs.map fun q => if q.task = m.task then { m with step := 1 } else q } }, true)
        else ({ s with ex := { s.ex with migs := s.ex.migs.map fun q => if q.task = m.task then m else q } }, busy)
      else
        let long := s.twNs < 20000 && m.task < 32
        ({ s with ex := { s.ex with migs := s.ex.migs.map fun q =>
            if q.task = m.task then { m with step := 2, resume := s.wb + (if long then 2 else 1) } else q } }, busy)
    | 2 =>   -- shadowed
      if s.wb < m.resume then (s, busy)
      else if differ.contains m.task then
        let m := { m with misses := m.misses + 1, step := 0, resume := s.wb + 15 }
        if m.misses ≥ 3 then ((s.abandon m).isolate m.dst, busy)
        else ({ s with ex := { s.ex with migs := s.ex.migs.map fun q => if q.task = m.task then m else q } }, busy)
      else (s.switchIn m, busy)
    | _ => (s, busy)) (s, false)
  let s := fold.1
  if fold.2 then s else
    match s.ex.migs.find? fun m => m.step = 0 && m.resume ≤ s.wb && s.copyTurn m with
    | some m => { s with ex := { s.ex with migs := s.ex.migs.map fun q => if q.task = m.task then { q with step := 1 } else q } }
    | none =>
      if !s.flight then s else
      match s.nextDup with
      | some m => if s.copyTurn m then s.prepare { m with step := 1 } else s.prepare m
      | none => match s.nextHint.orElse (fun _ => s.nextBalance) with
        | some m => if s.copyTurn m then s.prepare { m with step := 1 } else s.prepare m
        | none => if s.ex.migs.isEmpty then { s with ex := { s.ex with balance := false } } else s

/-- The duplicate of task `t` ends, with a migration that would install or move it (R58, R78, R87). -/
def dropDuplicate (s : State) (t : Nat) : State :=
  let was := (s.task t).engB
  let s := (s.ex.migs.filter fun m => m.task = t && (m.isDup || m.src = was)).foldl (fun s m => s.abandon m 0) s
  let y := { s.task t with engB := 15 }
  let s := s.setTask t { y with st := if y.st = 2 || y.st = 3 then s.runSt y else y.st }
  if was = 15 then s else s.notice 0x02 t was 0xF

/-- FULL takes effect at a mark (R58, R87): duplicates are released, duplicate installs cancelled. -/
def releaseDuplicates (s : State) : State :=
  let s := { s with ex := { s.ex with fullDue := false } }
  let s := s.taskIds.foldl State.dropDuplicate s
  (s.put PROFILE.STATE 0 1).exRefresh

/-- The CFG member, the class and the instance of a task's owner (R29, R528). -/
def taskOwner (s : State) (t : Nat) : Mem × Nat × Nat :=
  if t < 32 then (MACH.CFG, 6, t) else if t < 40 then (CONV.CFG, 9, t - 32)
  else if t < 72 then (CONV.CFG, 9, (s.task t).conv) else (AXIS.CFG, 5, (t - 72) / 6)

/-- A hint of the tasks `ts` has changed (R78): the marks of their entries follow, HINTIGN among them where the mask
leaves the task no engine with room; a task that is no longer critical gives up its duplicate. Everything else moves
by migration. -/
def hintChanged (s : State) (ts : List Nat) : State :=
  ((ts.filter fun t => (s.task t).st != 0).foldl (fun s t =>
    let x := s.task t
    let c := s.critHint t
    let ok := s.admittedList.filter fun e => bit (s.pinHint t) e && (e = x.engA || e = x.engB || s.fits e [t])
    let ign := ok.length < (if c && s.paired then 2 else 1)
    let y := { x with crit := c, mirr := c || s.b EXCH.MIRRORALL, hintign := ign }
    let s := s.setTask t { y with st := if x.st = 2 || x.st = 3 then s.runSt y else x.st }
    let s := if ign && !x.hintign then s.notice 0x12 t x.engA 0xF else s
    if c then s else s.dropDuplicate t) s).toBalance.exRefresh

/-- N or AXIS of a feed-forward table has been written (R70, R195): the state tiles of the lookups of axis `x`. -/
def ffTiles (s : State) (x : Nat) : State :=
  let t := 76 + 6 * x
  if x < 16 && ((s.task t).st != 0 || (s.task t).placing) then s.setTask t { s.task t with tiles := s.stateTiles t } else s

/-- MIRRORALL is written (R72): the MIRR mark of every entry follows. -/
def mirrorAll (s : State) : State :=
  s.taskIds.foldl (fun s t => s.setTask t { s.task t with mirr := (s.task t).crit || s.b EXCH.MIRRORALL }) s

/-- PLACED: the tiles of task `t` are in place (R68). Its owner's CFG reads 2 once all its tasks are. A placement that
needs code without a good copy waits (R97). -/
def placed (s : State) (t : Nat) : State :=
  let x := s.task t
  if !x.placing || s.ex.codeBad.contains (taskKind t) then s else
    let (m, cls, i) := s.taskOwner t
    -- an outer task placed while its axis runs is dispatched at once (R175)
    let y := { x with placing := false, run := cls = 5 && s.b AXIS.ENABLE i }
    let s := s.setTask t { y with st := s.runSt y }
    let s := s.notice 0x01 t 0xF x.engA
    let s := if s.ownerPlaced cls i then s.put m i 2 else s
    s.toBalance.exRefresh

end State
end Sys2Proof.Machine
end

