-- ==== Sys2Proof/Machine/Status.lean ====
section
/-! DEFINITION. The status codes of R521. -/
namespace Sys2Proof.Machine

inductive Status where
  | ok | pending | busy | busyShutdown | deniedWorld | deniedLifecycle | badObject | badValue
  | badFrame | ringFull | stopped | faultActive | notPlaced | capacity
deriving DecidableEq, Repr

def Status.code : Status → Nat
  | .ok => 0 | .pending => 1 | .busy => 2 | .busyShutdown => 3 | .deniedWorld => 4
  | .deniedLifecycle => 5 | .badObject => 6 | .badValue => 7 | .badFrame => 8 | .ringFull => 9
  | .stopped => 10 | .faultActive => 11 | .notPlaced => 12 | .capacity => 13

/-- A write that was accepted. -/
def Status.accepted : Status → Bool
  | .ok | .pending => true
  | _ => false

end Sys2Proof.Machine
end

