-- ==== Sys2Proof/Machine/Gate.lean ====
section
/-! DEFINITION. GATE, TRIP and PSNS (R345–R379): switches, acknowledges, leg faults, trip inputs, the
off-state diagnostics and the stage states. What the stops add stands in `Stops`. -/
namespace Sys2Proof.Machine

def Leg.sw (x : Leg) (low : Bool) : Switch := if low then x.lo else x.hi
def Leg.setSw (x : Leg) (low : Bool) (w : Switch) : Leg := if low then { x with lo := w } else { x with hi := w }

/-- The leg is in its fault state (R351). -/
def Leg.faulted (x : Leg) : Bool := x.flt % 2048 != 0

namespace State

/-! ### Access -/

def leg (s : State) (l : Nat) : Leg := s.legs.find {} l
def setLeg (s : State) (l : Nat) (x : Leg) : State := { s with legs := s.legs.put {} l x }
def stg (s : State) (i : Nat) : StageX := s.stages.find {} i
def setStg (s : State) (i : Nat) (x : StageX) : State := { s with stages := s.stages.put {} i x }
def stState (s : State) (i : Nat) : Nat := s.n STAGE.STATE i
def legsOf (i : Nat) : List Nat := [3 * i, 3 * i + 1, 3 * i + 2]

/-- The axis of a stage's machine, of a machine, of a converter's machine; 255 for none. -/
def axisOfMach (s : State) (m : Nat) : Nat := if m < 32 then s.n MACH.AXIS m else 255
def axisOfStage (s : State) (i : Nat) : Nat := s.axisOfMach (s.n STAGE.MACH i)
def axisOfConv (s : State) (c : Nat) : Nat := s.axisOfMach (s.n CONV.MACH c)

/-- The event sources of a gate fault of stage `i` (R351, R379). -/
def gateEvents (s : State) (i : Nat) : List Nat :=
  if s.axisOfStage i < 16 then [32, 16 + s.axisOfStage i] else [32]

/-- The present instant, in vernier units since REFOK (R40), and that of an offset from the mark. -/
def vnow (s : State) : Nat := s.tb.cycles * 8 + s.tb.off
def atOff (s : State) (o : Nat) : State := { s with tb := { s.tb with off := max s.tb.off o } }


/-- The dead time of a leg in vernier units; the member is in ns (R348). -/
def deadT (s : State) (l : Nat) : Nat := ((s.f LEG.DEADT l).floorMul 16 / 5).toNat


/-- The value of GATE.LEGSTATnn (R375), with the present requests. -/
def legStat (x : Leg) (reqH reqL : Bool) : Nat :=
  x.flt + 65536 * b2n reqH + 131072 * b2n reqL + 262144 * b2n x.hi.cmd + 524288 * b2n x.lo.cmd
    + 1048576 * b2n x.hi.ga + 2097152 * b2n x.lo.ga + 4194304 * b2n x.faulted

/-! ### Trip inputs: configuration (R356) -/

def trip (s : State) (n : Nat) : TripIn := s.trips.find {} n
def setTrip (s : State) (n : Nat) (x : TripIn) : State := { s with trips := s.trips.put {} n x }
/-- Input `n` is active: its filtered pin, or a ΣΔ comparator with TRIPIN = n (R356), or a lost ΣΔ input with LOSSTRIP
(R159). -/
def tripLevel (s : State) (n : Nat) : Bool :=
  (s.trip n).pin || s.sdTrip.any (fun k => s.g SD.TRIPIN k == n) ||
    (List.range 48).any fun k => s.g SD.STATE k == 3 && s.b SD.LOSSTRIP k && s.g SD.TRIPIN k == n
def tripEn (s : State) (n : Nat) : Bool := bit (s.trip n).cfg 0
def tripLatch (s : State) (n : Nat) : Bool := bit (s.trip n).cfg 4
def tripAscOk (s : State) (n : Nat) : Bool := bit (s.trip n).cfg 5
def tripMaxN (s : State) (n : Nat) : Nat := bits (s.trip n).cfg 8 8
def tripMask (s : State) (n : Nat) (i : Nat) : Bool := bit (s.trip n).cfg (16 + i)
def tripActs (s : State) (n i : Nat) : Bool := s.tripEn n && s.tripLevel n && s.tripMask n i
/-- Inputs act in FLIGHT only (R372). -/
def tripHolds (s : State) (i : Nat) : Bool := (List.range 16).any fun n => s.tripActs n i
/-- Every active input of the stage yields to an active short circuit (R370). -/
def tripYields (s : State) (i : Nat) : Bool :=
  (List.range 16).all fun n => !s.tripActs n i || (s.tripLatch n && s.tripAscOk n)

/-! ### Requests and commands (R346–R348, R370) -/

/-- The request of a switch: MOD or SWCMD in RUN, the low sides in PRECHARGE and in an active short
circuit, the pulsed low side in a diagnostic run. -/
def request (s : State) (l : Nat) (low : Bool) : Bool :=
  let i := l / 3
  match s.stState i with
  | 1 => low && decide ((s.stg i).step = 3 + l % 3)
  | 2 => low
  | 3 => if s.g LEG.MODE l = 1 then bit (s.n LEG.SWCMD l) (b2n low) else (s.leg l).lvl != low
  | 6 => low
  | _ => false

/-- The request that GATE.LEGSTAT shows: in manual mode SWCMD also where the stage is not in RUN (R346, R375). -/
def shownRequest (s : State) (l : Nat) (low : Bool) : Bool :=
  let st := s.stState (l / 3)
  if s.g LEG.MODE l = 1 && (st = 0 || st = 4 || st = 5) then bit (s.n LEG.SWCMD l) (b2n low) else s.request l low

/-- A source of higher precedence holds the switches of leg `l` off (R370, sources 1 to 4). -/
def heldOff (s : State) (l : Nat) : Bool :=
  let i := l / 3
  let st := s.stState i
  (s.leg l).faulted || st = 0 || st = 4 || st = 5 || !s.tb.refok || s.tb.ovrd ||
    (s.tripHolds i && !(st = 6 && s.tripYields i))

/-- Commands a switch off, at instant `t`. -/
def swOff (s : State) (l : Nat) (low : Bool) (t : Nat) : State :=
  let x := s.leg l
  let w := x.sw low
  if w.cmd then s.setLeg l (x.setSw low { w with cmd := false, acked := !w.ga, offAt := t }) else s

/-- Commands a switch on at instant `t`, in a cycle in which every condition of R347 holds. -/
def swOn (s : State) (l : Nat) (low : Bool) (t : Nat) : State :=
  let x := s.leg l
  let w := x.sw low
  let o := x.sw (!low)
  if w.cmd || w.wait || !s.request l low || o.cmd || t < o.offAt + s.deadT l || o.ga || s.heldOff l then s
  else
    let x := x.setSw low { w with cmd := true, acked := w.ga }
    match x.te with
    | none => s.setLeg l x
    | some e =>
      let d := t - e
      let ds := (d :: x.dts).take 1024
      let s := s.setLeg l { x with te := none, dts := ds }
      let s := s.putF LEG.DTEFF l (F32.ofFrac ((ds.foldl (· + ·) 0 * 5 : Nat)) (16 * ds.length))
      if (s.f LEG.DTPEAK l).lt (F32.ofFrac (d * 5 : Nat) 16) then s.putF LEG.DTPEAK l (F32.ofFrac (d * 5 : Nat) 16) else s

/-- Every switch of the stage off. -/
def allOff (s : State) (i : Nat) : State :=
  (legsOf i).foldl (fun s l => (s.swOff l false s.vnow).swOff l true s.vnow) s

/-- Commands on whatever the requests of the stage ask for and R347 permits at this instant. -/
def driveStage (s : State) (i : Nat) : State :=
  (legsOf i).foldl (fun s l => (s.swOn l false s.vnow).swOn l true s.vnow) s

/-- A request of leg `l` changes at instant `t` (R347): the outgoing switch goes off; a switch held by a
released trip may act again (R359). When a request reverses before the incoming switch is on, the
outgoing switch goes on again at once (R371). -/
def setLevel (s : State) (l : Nat) (lvl : Bool) (t : Nat) : State :=
  let x := s.leg l
  if x.lvl = lvl then s else
    let x := { x with lvl := lvl }
    let x := if lvl then x.setSw true { x.lo with wait := false } else x.setSw false { x.hi with wait := false }
    let out := x.sw lvl        -- the switch whose request goes off
    let s := s.setLeg l { x with te := if out.cmd then some t else none }
    if s.g LEG.MODE l = 1 || s.stState (l / 3) != 3 then s else
      let s := s.swOff l lvl t
      if x.te.isSome then s.swOn l (!lvl) t else s

/-- GATE_EDGE (R347): at offset `o` the incoming switch goes on, if its conditions hold. -/
def gateEdge (s : State) (l : Nat) (low : Bool) (o : Nat) : State :=
  let s := s.atOff o
  s.swOn l low s.vnow

/-! ### The carrier grid (R318, R319) -/

/-- Half the nominal carrier period, in vernier units. -/
def carHalf (s : State) (i : Nat) : Nat := s.n STAGE.CARN i * s.twCyc * 2

/-- The first grid valley of stage `i` at or after `t`. -/
def valleyAt (s : State) (i t : Nat) : Nat :=
  let tc := 2 * s.carHalf i
  let o := (s.stg i).t0
  if tc = 0 then t else o + ((t - o) + tc - 1) / tc * tc

/-- A carrier period that starts at `tv` and is not spread: it ends at the first grid valley at least half a
period later, with its peak at the midpoint. -/
def plainPeriod (s : State) (i tv : Nat) : Nat × Nat :=
  let te := s.valleyAt i (tv + s.carHalf i)
  (tv + (te - tv) / 2, te)

/-- The stage enters RUN: the first carrier period begins, every leg command low (R319, R333). -/
def runBegin (s : State) (i : Nat) : State :=
  let t := s.vnow
  let (tp, te) := s.plainPeriod i t
  let s := s.setStg i { s.stg i with b := 0, six := false, bT := 0, sixT := false, nClamp := 0, nUnder := 0, hand := false,
                                     host := false, lowTold := false, tv := t, tp := tp, te := te,
                                     lfsr := 0xACE1 ^^^ i, perEnd := te, fe := F32.zero, ts := t,
                                     spr := s.f STAGE.SPREAD i }
  let s := s.put STAGE.RUNG i 0
  (legsOf i).foldl (fun s l => s.setLeg l { s.leg l with lvl := false, te := none, noLow := 0, lowOk := false, seek := t,
                                                         fix := none, low := none, last := none }) s

/-! ### Stage states (R364) -/

/-- Enters a stage state: ENABLE is 0 outside DIAG, PRECHARGE and RUN; entering RUN raises the axis's
event; entering SHUTDOWN or FAULT turns every switch off and starts the shutdown actions. -/
def stageTo (s : State) (i st : Nat) : State :=
  let was := s.stState i
  let s := s.put STAGE.STATE i st
  let s := if st = 1 || st = 2 || st = 3 then s else s.put STAGE.ENABLE i 0
  let s := s.setStg i { s.stg i with step := 0, enPend := false, disPend := false }
  let s := if was = 1 then s.put STAGE.DIAGRES i ((setBits (s.n STAGE.DIAGRES i) 26 1 0 : Nat)) else s
  if st = 3 then (s.runBegin i).raiseAxis (s.axisOfStage i)
  else if st = 4 || st = 5 then
    let s := s.allOff i
    if was = 4 || was = 5 then s else s.setStg i { s.stg i with act := 1 }
  else if st = 0 then (s.allOff i).setStg i { (s.allOff i).stg i with act := 0 }
  else s

/-- The shutdown actions of the stage are unfinished (R367). -/
def stageActs (s : State) (i : Nat) : Bool := (s.stState i = 4 || s.stState i = 5) && (s.stg i).act != 0 || s.stState i = 6

/-- A diagnostic run ends untested (R363, R371). -/
def diagUntested (s : State) (i : Nat) : State :=
  (s.put STAGE.DIAGRES i ((2 : Nat) ^ 24)).alarm 0x1306 i (s.gateEvents i) 0 7

/-- Enters PRECHARGE, or RUN where BSPRET is 0 (R366). -/
def toPrecharge (s : State) (i : Nat) : State :=
  if s.g STAGE.BSPRET i = 0 then (s.stageTo i 3).driveStage i else (s.stageTo i 2).driveStage i

/-- V_dc of a machine as PSNS and the stages see it: its SDDC input, or VDCNOM (R361). -/
def vdcOf (s : State) (m : Nat) : F32 :=
  if m ≥ 32 then F32.zero
  else if s.n MACH.SDDC m = 255 then s.f MACH.VDCNOM m else s.f SD.VALUE (s.n MACH.SDDC m)

/-- A diagnostic run begins, or is not made below PSVDCMIN (R362, R363). -/
def diagStart (s : State) (i : Nat) (byEn : Bool) : State :=
  if (s.vdcOf (s.n STAGE.MACH i)).lt (s.f STAGE.PSVDCMIN i) then
    let s := s.diagUntested i
    if !byEn then s
    else if s.g STAGE.DIAGEN i = 1 then s.stageTo i 0 else s.toPrecharge i
  else
    let s := s.stageTo i 1
    let s := s.setStg i { s.stg i with step := 1, byEn := byEn, stop := false, open1 := [] }
    s.put STAGE.DIAGRES i ((2 : Nat) ^ 26)

/-- An accepted enable takes effect at the mark (R364, R365). -/
def stageEnableEffect (s : State) (i : Nat) : State :=
  let s := s.setStg i { s.stg i with enPend := false, t0 := s.vnow, stopped := false }
  if s.g STAGE.DIAGEN i = 0 then s.toPrecharge i else s.diagStart i true

/-- A host disable takes effect at the mark: SHUTDOWN (R367). -/
def stageDisableEffect (s : State) (i : Nat) : State :=
  let s := s.setStg i { s.stg i with disPend := false, enPend := false }
  if s.stState i = 1 || s.stState i = 2 || s.stState i = 3 then
    let s := if s.stState i = 1 then s.diagUntested i else s
    s.stageTo i 4
  else s

/-- A stop source acts on the stage (R34, R370): every switch off, no active short circuit; a diagnostic run ends
untested. -/
def stageStop (s : State) (i : Nat) : State :=
  let s := s.setStg i { s.stg i with enPend := false, stopped := true }
  match s.stState i with
  | 1 => (s.diagUntested i).stageTo i 0
  | 2 => s.stageTo i 4
  | 3 => s.stageTo i 4
  | 6 => s.stageTo i 5
  | _ => s.put STAGE.ENABLE i 0

/-! ### Leg faults (R349–R352, R355) -/

/-- An active short circuit cannot be engaged, nor go on (R352). -/
def ascBarred (s : State) (i : Nat) : Bool :=
  (legsOf i).any fun l =>
    let x := s.leg l
    x.hi.ga || bit x.flt 0 || bit x.flt 3 || bit x.flt 8 || bit x.flt 9 || bit x.flt 10

/-- The stage fault response (R351). A low-side sag takes its leg out of an active short circuit (R371); what bars the
short circuit ends it. -/
def stageFault (s : State) (i : Nat) : State :=
  let st := s.stState i
  if st = 6 && s.ascBarred i then s.stageTo i 5
  else if st = 6 then
    (legsOf i).foldl (fun s l => if (s.leg l).faulted then (s.swOff l false s.vnow).swOff l true s.vnow else s) s
  else
    let s := s.allOff i
    if st = 1 || st = 2 || st = 3 || st = 4 then s.stageTo i 5 else s

/-- Latches fault bit `k` of leg `l` and writes its fault. -/
def legFault (s : State) (l k code : Nat) : State :=
  let x := s.leg l
  if bit x.flt k then s else
    ((s.setLeg l { x with flt := x.flt + 2 ^ k }).alarm code l (s.gateEvents (l / 3)) 0 8).noteFault 7 (l / 3) code

/-- A failed acknowledge of a switch that is commanded on: bit `k`, or BOOT_SAG on a bootstrap-supplied
high side without refresh (R355). -/
def ackFault (s : State) (l : Nat) (low : Bool) (k code : Nat) : State :=
  if !low && s.b LEG.BOOTEN l && !s.b STAGE.BSREF (l / 3) then
    let x := s.leg l
    let s := if bit x.flt 7 then s else s.setLeg l { x with flt := x.flt + 128 }
    s.legFault l k 0x1104
  else s.legFault l k code

/-- Both switches of a leg requested on (R350). -/
def legConflict (s : State) (l : Nat) : State :=
  let s := (s.swOff l false s.vnow).swOff l true s.vnow
  (s.legFault l 0 0x1101).stageFault (l / 3)

/-- Acknowledges are checked in FLIGHT from READY on (R349, R372). -/
def gaSampled (s : State) : Bool := s.ready && s.flight

/-- GA_CHANGE (R345, R349): the new accepted level of a switch, and its checks. -/
def gaChange (s : State) (l : Nat) (low level : Bool) : State :=
  if !s.gaSampled then s else
    let x := s.leg l
    let w := x.sw low
    if w.ga = level then s
    -- back in FLIGHT the checks resume at the first mark
    else if s.pow.gaDue then s.setLeg l (x.setSw low { w with ga := level, acked := level = w.cmd })
    else
      let s := s.setLeg l (x.setSw low { w with ga := level, acked := w.acked || decide (level = w.cmd) })
      let n := (s.leg l).flt
      let k := b2n low
      let s := if w.cmd && !level && w.acked then s.ackFault l low (5 + k) 0x1105 else s
      let s := if !w.cmd && level && w.acked then s.legFault l (8 + k) 0x1106 else s
      let s := if level && (x.sw (!low)).ga then s.legFault l 10 0x1107 else s
      let s := if (s.leg l).flt != n then s.stageFault (l / 3) else s
      -- t_a: the incoming switch may go on in this cycle
      if level then s else s.swOn l (!low) s.vnow

/-- At the first mark after the return to FLIGHT, a GA found high in OFF latches UNCMD_ON (R349). -/
def gaResume (s : State) : State :=
  (s.legs.map (·.1)).foldl (fun s l =>
    [false, true].foldl (fun s low =>
      let w := (s.leg l).sw low
      if w.ga && !w.cmd && s.stState (l / 3) = 0 then (s.legFault l (8 + b2n low) 0x1106).stageFault (l / 3) else s) s) s

/-- ACK_ON_TIMEOUT (R349): ACKON has elapsed with the switch commanded on and its GA not high. -/
def ackOnTimeout (s : State) (l : Nat) (low : Bool) : State :=
  let w := (s.leg l).sw low
  if !s.gaSampled || !w.cmd || w.ga then s else
    (s.ackFault l low (1 + b2n low) 0x1102).stageFault (l / 3)

/-- ACK_OFF_TIMEOUT (R349): ACKOFF has elapsed with the switch commanded off and its GA not low. -/
def ackOffTimeout (s : State) (l : Nat) (low : Bool) : State :=
  let w := (s.leg l).sw low
  if !s.gaSampled || w.cmd || !w.ga then s else
    (s.legFault l (3 + b2n low) 0x1103).stageFault (l / 3)

/-- The machine's fault policy calls for an active short circuit (R352); a stop source that has acted on the stage, or
STO, lets none (R370). -/
def ascEngage (s : State) (i : Nat) : State :=
  if s.stState i != 5 || s.ascBarred i || !s.tb.refok || (s.stg i).stopped || s.sto.act || (s.tripHolds i && !s.tripYields i) then s
  else (s.put STAGE.STATE i 6).driveStage i

/-- A short circuit ends: every switch off, FAULT and its actions (R352, R368). -/
def ascEnd (s : State) (i : Nat) : State := if s.stState i = 6 then s.stageTo i 5 else s

/-! ### Requests of stops (R453, R470) -/

/-- Two stops overlap: they share an axis or a stage, or either has device scope (R470). -/
def overlap (p q : StopRec) : Bool :=
  p.device || q.device || (p.axes &&& q.axes) != 0 || (p.stages &&& q.stages) != 0

/-- A request joins the incomplete stops it overlaps into one, or starts a stop of its own (R470). -/
def stopJoin (s : State) (q : StopRec) : State :=
  match s.stops.filter (overlap q) with
  | [] => { s with stops := s.stops ++ [q] }
  | f :: t =>
    let u := (f :: t).foldl (fun (u r : StopRec) => { u with device := u.device || r.device, axes := u.axes ||| r.axes,
                                                             stages := u.stages ||| r.stages }) q
    { s with stops := s.stops.filter (fun r => !overlap q r) ++ [{ u with src := f.src }] }

/-- A fault or an evaluation asks for a stop of axis `x`, which acts at the end of the present step. -/
def axisStopReq (s : State) (x cat src : Nat) : State :=
  if x < 16 then { s with axReq := s.axReq ++ [(x, cat, src)] } else s

/-! ### Trip inputs (R357–R360) -/

/-- A latching assertion on the stages `p` (R358): TRIPPED on the legs of each stage in PRECHARGE, RUN
or FAULT, and the stage fault response with TRIP naming the input; TRIP_ESCALATE before it where the assertion
is the one that reached MAXN (R359). -/
def tripLatchOn (s : State) (n : Nat) (escalated : Bool) (p : Nat → Bool) : State :=
  let l := (List.range 16).filter fun i => p i && (s.stState i = 2 || s.stState i = 3 || s.stState i = 5)
  let s := if escalated then s.alarm 0x1202 n [32] else s
  if l.isEmpty then s else
    let s := l.foldl (fun s i =>
      let s := (legsOf i).foldl (fun s k =>
        let x := s.leg k
        if bit x.flt 11 then s else s.setLeg k { x with flt := x.flt + 2048 }) s
      let s := (s.raiseAll (s.gateEvents i)).noteFault 7 i 0x1201
      s.stageFault i) s
    (s.alarm 0x1201 n [32]).stopJoin { src := 0x83, stages := l.foldl (fun k i => k + 2 ^ i) 0 }

/-- The switches of the stages `p` go off while input `n` is active (R357, R359). A diagnostic run ends untested: an
enable that only attempted it goes on under a non-latching input (R363, R364). -/
def tripOff (s : State) (n : Nat) (p : Nat → Bool) : State :=
  (List.range 16).foldl (fun s i =>
    if !p i then s
    else if s.stState i = 1 then
      let t := s.diagUntested i
      if (s.stg i).byEn && s.g STAGE.DIAGEN i = 2 && !s.tripLatch n then (t.allOff i).toPrecharge i else t.stageTo i 0
    else if s.stState i = 6 && s.tripYields i then s
    else s.allOff i) s

/-- An enabled input becomes active (R357–R359). -/
def tripAssert (s : State) (n : Nat) : State :=
  if !s.tripEn n || !s.flight then s else
    let x := s.trip n
    let esc := !s.tripLatch n && s.tripMaxN n != 0 && s.tripMaxN n ≤ x.cnt + 1 && !x.esc
    let s := s.setTrip n { x with hit := true, cnt := x.cnt + 1, esc := x.esc || esc }
    let s := (List.range 16).foldl (fun s i => if s.tripMask n i then s.inc STAGE.TRIPCNT i else s) s
    let s := s.tripOff n (s.tripMask n)
    if s.tripLatch n || esc then s.tripLatchOn n esc (s.tripMask n) else s

/-- TRIP_ASSERT: the filtered pin of input `n` becomes active. -/
def tripPin (s : State) (n : Nat) : State :=
  let was := s.tripLevel n
  let s := s.setTrip n { s.trip n with pin := true }
  if was then s else s.tripAssert n

/-- Releases the hold of non-latching trips on the stages `p` (R359): a switch whose request is on waits
for the next leg edge, in PRECHARGE too; an active short circuit goes on. -/
def tripFree (s : State) (p : Nat → Bool) : State :=
  (List.range 16).foldl (fun s i =>
    if !p i || s.tripHolds i then s
    else if s.stState i = 6 then s.driveStage i
    else if s.stState i = 2 || s.stState i = 3 then
      (legsOf i).foldl (fun s l =>
        let x := s.leg l
        s.setLeg l { x with hi := { x.hi with wait := s.request l false && !x.hi.cmd },
                            lo := { x.lo with wait := s.request l true && !x.lo.cmd } }) s
    else s) s

/-- TRIP_RELEASE: the filtered pin of input `n` is inactive again; a ΣΔ input that acts on it holds it. -/
def tripRelease (s : State) (n : Nat) : State :=
  if !(s.trip n).pin then s else
    let s := s.setTrip n { s.trip n with pin := false }
    if s.tripLevel n then s else s.tripFree (s.tripMask n)

/-- TRIP_WINDOW_END (R359): the fixed 1 s windows of every input. -/
def tripWindowEnd (s : State) : State :=
  { s with trips := s.trips.filterMap fun e =>
      let x := { e.2 with cnt := 0, esc := false }
      if x = ({} : TripIn) then none else some (e.1, x) }

/-- A write of TRIP.CFGnn (R356): stages added to the mask of an active input are held off, and latched
by a latching one; stages removed are released. -/
def tripCfgWrite (s : State) (n v : Nat) : State :=
  let old := fun i => s.tripActs n i
  let s := s.setTrip n { s.trip n with cfg := v }
  let fresh := fun i => s.tripActs n i && !old i
  let s := s.tripOff n fresh
  let s := if s.tripLatch n then s.tripLatchOn n false fresh else s
  s.tripFree fun i => old i && !s.tripActs n i

/-! ### Diagnostics (R361–R363) -/

/-- A diagnostic finding on leg `l`: its DIAGRES bit and its fault. -/
def diagFinding (s : State) (l k code : Nat) : State :=
  let i := l / 3
  let pos := 8 * (l % 3) + k
  let r := s.n STAGE.DIAGRES i
  let s := if bit r pos then s else s.put STAGE.DIAGRES i ((r + 2 ^ pos : Nat))
  (s.setStg i { s.stg i with stop := true }).alarm code l (s.gateEvents i) 0 7

/-- The run ends: FAULT with a finding; otherwise PRECHARGE, or OFF for a run that DIAG started. -/
def diagFinish (s : State) (i : Nat) : State :=
  if (s.stg i).stop then
    let r := s.n STAGE.DIAGRES i
    (s.stageTo i 5).put STAGE.DIAGRES i ((setBits r 26 1 0 : Nat))
  else
    let byEn := (s.stg i).byEn
    let s := s.put STAGE.DIAGRES i ((2 : Nat) ^ 25)
    if byEn then s.toPrecharge i else s.stageTo i 0

/-- DIAG_STEP_END (R362): the comparators of the three pins, 0 below the lower threshold, 1 within, 2
above the upper one. -/
def diagStepEnd (s : State) (i : Nat) (pin : Nat → Nat) : State :=
  let x := s.stg i
  if s.stState i != 1 then s else
    let each := fun (s : State) (f : State → Nat → State) => (legsOf i).foldl f s
    match x.step with
    | 1 =>
      let s := each s fun s l =>
        if pin (l % 3) = 2 then s.diagFinding l 0 0x1301 else if pin (l % 3) = 0 then s.diagFinding l 1 0x1302 else s
      s.setStg i { s.stg i with step := 2 }
    | 2 =>
      let bad := (List.range 3).any fun k => pin k != 0
      let s := each s fun s l => if pin (l % 3) != 0 then s.diagFinding l 2 0x1303 else s
      if bad then s.diagFinish i else
        let s := s.setStg i { s.stg i with step := 3 }
        s.swOn (3 * i) true s.vnow
    | k =>
      let l := 3 * i + (k - 3)
      let s := s.swOff l true s.vnow
      let s := if pin (k - 3) != 0 then s.diagFinding l 4 0x1305 else s
      let s := each s fun s j =>
        if j = l || pin (j % 3) != 1 then s
        else if (s.stg i).open1.contains j then s.diagFinding j 3 0x1304
        else s.setStg i { s.stg i with open1 := (s.stg i).open1 ++ [j] }
      if k ≥ 5 then s.diagFinish i else
        let s := s.setStg i { s.stg i with step := k + 1 }
        s.swOn (l + 1) true s.vnow

/-- PRECHARGE_END (R366): BSPRET has elapsed and the stage enters RUN. -/
def prechargeEnd (s : State) (i : Nat) : State :=
  if s.stState i != 2 then s else (s.stageTo i 3).driveStage i

/-! ### Shutdown (R367) -/

/-- The shutdown actions are complete: OFF from SHUTDOWN; FAULT stays. -/
def stageDone (s : State) (i : Nat) : State :=
  let s := s.setStg i { s.stg i with act := 0 }
  if s.stState i = 4 then s.stageTo i 0 else s

/-- SHUTDOWN_ACK (R367): every GA of the stage is low; a discharge output, where DISCHDIO names one, is
driven next. -/
def shutdownAck (s : State) (i : Nat) : State :=
  let st := s.stState i
  if !(st = 4 || st = 5) || (s.stg i).act != 1 || (legsOf i).any (fun l => (s.leg l).hi.ga || (s.leg l).lo.ga) then s
  else
    let d := s.n STAGE.DISCHDIO i
    if d < 32 && s.g DIO.FUNC d = 1 then (s.dioDrive d true).setStg i { s.stg i with act := 2 } else s.stageDone i

/-- DISCHARGE_END (R367): V_dc is below DISCHV, or DISCHT has elapsed. -/
def dischargeEnd (s : State) (i : Nat) (elapsed : Bool) : State :=
  let m := s.n STAGE.MACH i
  let noSd := m ≥ 32 || s.n MACH.SDDC m = 255
  if (s.stg i).act != 2 || (!elapsed && (noSd || !(s.vdcOf m).lt (s.f STAGE.DISCHV i))) then s
  else
    let s := s.dioDrive (s.n STAGE.DISCHDIO i) false
    let s := if elapsed && !noSd then s.alarm 0x1307 i (s.gateEvents i) 0 7 else s
    s.stageDone i

/-- A diagnostic fault, a trip or a GA that contradicts its command persists (R368). -/
def stageCause (s : State) (i : Nat) : Bool :=
  s.tripHolds i || (legsOf i).any (fun l => (s.leg l).hi.ga != (s.leg l).hi.cmd || (s.leg l).lo.ga != (s.leg l).lo.cmd)
    || (s.g STAGE.DIAGEN i == 1 && s.n STAGE.DIAGRES i % 2 ^ 24 != 0)

def stageLatched (s : State) (i : Nat) : Bool := (legsOf i).any fun l => (s.leg l).flt != 0

/-- The latched faults and DIAGRES of the stage are cleared and it is OFF (R368). -/
def stageCleared (s : State) (i : Nat) : State :=
  let s := (legsOf i).foldl (fun s l => s.setLeg l { s.leg l with flt := 0 }) s
  let s := (legsOf i).foldl (fun s l => s.clearFault 8 l) (s.clearFault 7 i)
  (s.put STAGE.DIAGRES i 0).stageTo i 0

/-- A write of CLEAR = 1 (R352, R368). -/
def stageClear (s : State) (i : Nat) : Status × State :=
  let st := s.stState i
  if st = 6 then
    if s.g MACH.FPOL (s.n STAGE.MACH i) = 1 then (.pending, s.ascEnd i) else (.busyShutdown, s)
  else if s.stageActs i then (.busyShutdown, s)
  else if st = 5 || (st = 0 && s.stageLatched i) then
    if s.stageCause i then (.faultActive, s) else (.ok, s.stageCleared i)
  else (.ok, s)

/-! ### Members of legs and stages with rules of their own (R346, R373, R377) -/

/-- A write of SWCMD (R346): only in RUN with MODE 1 and the machine not enabled. -/
def swcmdWrite (s : State) (l v : Nat) : Status × State :=
  let i := l / 3
  let m := s.n STAGE.MACH i
  if s.stState i != 3 || s.g LEG.MODE l != 1 || (m < 32 && s.g MACH.ENABLE m = 1) then (.busy, s)
  else
    let s := s.put LEG.SWCMD l (v % 4 : Nat)
    if v % 4 = 3 then (.ok, s.legConflict l)
    else
      let x := s.leg l
      let x := if bit v 0 then x else { x with hi := { x.hi with wait := false } }
      let x := if bit v 1 then x else { x with lo := { x.lo with wait := false } }
      let s := s.setLeg l x
      let s := if bit v 0 then s else s.swOff l false s.vnow
      let s := if bit v 1 then s else s.swOff l true s.vnow
      (.ok, (s.swOn l false s.vnow).swOn l true s.vnow)

end State
end Sys2Proof.Machine
end

