-- ==== Sys2Proof/Machine/Link.lean ====
section
/-! DEFINITION. XLNK, the Xoholar cell link (R380–R414): frames, responses, breaks, enumeration and the
ring states, and the cell controllers of R396–R405. -/
namespace Sys2Proof.Machine

/-- RCRC of a response slot holds (R385, R387). -/
def rcrcOk (w : Nat) : Bool := crc8 (le 7 w) = w / 2 ^ 56

namespace State

def link (s : State) (r : Nat) : RingX := s.links.find {} r
def setLink (s : State) (r : Nat) (x : RingX) : State := { s with links := s.links.put {} r x }
def slotX (s : State) (i : Nat) : SlotX := s.slotx.find {} i
def setSlotX (s : State) (i : Nat) (x : SlotX) : State := { s with slotx := s.slotx.put {} i x }
def cellCtl (s : State) (i : Nat) : CellCtl := s.cellc.find {} i
def setCellCtl (s : State) (i : Nat) (x : CellCtl) : State := { s with cellc := s.cellc.put {} i x }
def rState (s : State) (r : Nat) : Nat := s.n RING.STATE r

/-- The converters on a ring, and the event sources of its faults (R410). -/
def convsOn (s : State) (r : Nat) : List Nat := s.convs.filter fun c => s.n CONV.RING c = r
def ringEvents (s : State) (r : Nat) : List Nat :=
  33 :: (((s.convsOn r).map s.axisOfConv).filter (· < 16)).map (16 + ·)

/-- A fault of the link (R414): the ring, with the slot or port in DETAIL. -/
def linkFault (s : State) (code r detail : Nat) : State := s.alarm code (16 + r) (s.ringEvents r) detail 24

/-- A time in units of 0.2 ns as ns. -/
def ns5 (k : Nat) : F32 := F32.ofFrac (k : Nat) 5

/-- The frame duration in units of 0.2 ns (R383), and the limit of R395. -/
def tFrame (n : Nat) : Nat := (392 + 12 * n) * 10
def rttLimit (s : State) : Nat := s.twNs * 5 - 10000
def rttOk (s : State) (r : Nat) : Bool := (s.link r).rtt ≤ s.rttLimit

/-- Frames carry ABLK: the ring is not RUNNING (R403). -/
def ablk (s : State) (r : Nat) : Bool := s.rState r != 4

/-- The ring sends OPERATE frames: in BLOCKING and RUNNING, once its enumeration has succeeded, and in a degraded start
(R406, R407, R409); and it sends a frame at the mark. -/
def operates (s : State) (r : Nat) : Bool :=
  s.rState r = 3 || s.rState r = 4 || (s.link r).enumOk || (s.link r).degr
def sends (s : State) (r : Nat) : Bool := s.rState r = 2 || s.operates r

/-- NSLOT of the ring's frames (R384, R406). -/
def nslot (s : State) (r : Nat) : Nat := if s.operates r then s.n RING.NCELL r else s.n RING.EXPN r

/-- The arm and cell of a slot: arm, cell index. -/
def cellOfSlot (s : State) (r k : Nat) : Option (Nat × Nat) :=
  ((s.convsOn r).foldl (fun l c => l ++ s.convArms c) []).findSome? fun a =>
    if s.n ARM.SLOT0 a ≤ k && k < s.n ARM.SLOT0 a + s.n ARM.NCELL a then some (a, k - s.n ARM.SLOT0 a) else none

/-! ### The frame (R383, R384) -/

/-- The header of the frame launched on ring `r` at the present mark (R384). -/
def header (s : State) (r : Nat) (dirB : Bool) : List Byte :=
  let x := s.link r
  let operate := s.operates r
  let b := le 1 (if operate then 1 else 2) ++
    le 1 (b2n dirB + 4 * b2n (operate && s.ablk r) + 8 * b2n x.svc.isSome) ++ le 1 r ++ le 1 1 ++
    le 4 s.wb ++ le 2 (s.nslot r) ++ le 2 0xFFFF ++
    le 4 (s.twNs * 5) ++ le 4 x.loop ++ leInt 4 (s.g RING.SOFF r * 5) ++ le 4 x.tapply ++
    le 4 (s.n RING.CGEN r) ++ zeros 28
  b ++ le 4 (crc32c b)

/-- The command block of the frame: the command words formed for its slots, and BLOCK in every slot of an ENUMERATE
frame (R386, R406). -/
def commandBlock (s : State) (r : Nat) : List Byte :=
  (List.range (s.nslot r)).flatMap fun k =>
    le 4 ((if s.operates r then (s.slotX (384 * r + k)).cmd % 65536 else 0) + 65536 * k)

/-- A service block (R388): service down with the open message, or an empty block. -/
def serviceBlock (q : Option Svc) : List Byte :=
  let b := match q with
    | none => le 2 0xFFFF ++ zeros 122
    | some q => le 2 q.slot ++ le 1 q.tid ++ le 1 q.op ++ le 2 q.addr ++ le 1 q.data.length ++ le 1 0 ++ padTo 116 q.data
  b ++ le 4 (crc32c b)

/-- What the device sends in direction A (R383): direction B differs in DIR and HCRC only (R386). -/
def frameOf (s : State) (r : Nat) : List Byte :=
  let c := s.commandBlock r
  s.header r false ++ c ++ le 4 (crc32c c) ++ serviceBlock (s.link r).svc

/-- A command slot (R386): CMD, CLRF, PBYP with its key, DISCH, and the slot index. -/
def commandWord (cmd : Nat) (clrf pbyp disch : Bool) (slot : Nat) : Nat :=
  cmd + 4 * b2n clrf + 8 * b2n pbyp + 16 * b2n disch + 256 * (if pbyp then 0xB5 else 0) + 65536 * slot

/-- A cell's controller restarts (R405): BLOCK, RESTART, and without its retained values it forwards only. -/
def cellRestart (x : CellCtl) (kept : Bool) : CellCtl :=
  let x := { x with sw := if x.sw = 3 then 3 else 0, restart := true, wdblk := false, missed := 0, good := 0, pbyp := 0,
                    markN := none, next := none, blind := 0, cmda := false, cmdb := false, cmddif := false, cmderr := false,
                    ablk := false }
  if kept then x else { x with slot := none, misfit := false, cgen := 0, pA := none, pB := none, dA := none, dB := none }

/-- CELL_SVC_DONE (R388, R534): the transaction of ring `r` has ended, with the cell's result; 3 and no data after
1,000 frames without a reply. The cell has taken a DLYSET and holds D_B with it (R409), or has restarted; what a
restart loses shows at the next mark. -/
def cellSvcDone (s : State) (r rsts : Nat) (data : List Byte) : State :=
  match (s.link r).svc with
  | none => s
  | some q =>
    let i := 384 * r + q.slot
    let x := s.cellCtl i
    let f := (Config.cellDelayA x.uid).toNat + (Config.cellDelayB x.uid).toNat
    let s := if rsts != 0 then s
      else if q.op = 2 && q.addr = 0x100 then
        let d : Int := 4 * unle (q.data.take 4)
        s.setCellCtl i { x with dA := some d, dB := some (4 * unle (slice 16 4 x.hdr) - 2 * f - d) }
      else if q.op = 3 then s.setCellCtl i (cellRestart x true)
      else s
    let s := s.setLink r { s.link r with svc := none }
    let pay := le 1 rsts ++ le 1 data.length ++ zeros 2 ++ data.take 116
    { s with defers := s.defers.map fun d =>
      if d.kind = .cellSvc r then { d with done := some (Status.ok.code, d.addr, pay) } else d }

/-- FRAME_LAUNCH (R389): the ring sends a frame at the mark, with the open message of its service channel, which ends
after 1,000 frames (R388); sourced frames have been absent for 16 frames when the breaks are forgotten (R401). -/
def frameLaunch (s : State) (r : Nat) : State :=
  if !s.sends r then s else
    let s := if (s.link r).svc.any (1000 ≤ ·.frames) then s.cellSvcDone r 3 [] else s
    let s := s.inc RING.FRTX r
    let x := s.link r
    let x := { x with brkAge := x.brkAge + 1, tx := s.frameOf r, svc := x.svc.map fun q => { q with frames := q.frames + 1 } }
    let s := s.setLink r x
    if x.brkAge ≥ 16 then
      ((s.put RING.BRKA r 0xFFFF).put RING.BRKB r 0xFFFF).setLink r { x with brkAge := 16, segBad := false }
    else s

/-! ### Responses (R398–R401, R410) -/

/-- What a newly accepted response shows (R405): CELL_RESTART and CELL_REPORT, and the cell's members. -/
def acceptResponse (s : State) (r k w : Nat) : State :=
  let i := 384 * r + k
  let old := s.n SLOT.RESP i
  let st := bits w 32 16
  let was := bits old 32 16
  let s := s.put SLOT.RESP i w
  let s := match s.cellOfSlot r k with
    | some (a, c) =>
      let j := 64 * a + c
      ((s.putF CELL.VCAP j (F32.ofFrac (bits w 0 16 : Nat) 10)).putF CELL.TEMP j
        (F32.ofInt ((bits w 20 8 : Nat) - 40))).put CELL.STATUS j st
    | none => s
  let rs := fun v => bit v 8 || bit v 9
  let s := if rs st && !rs was then s.linkFault 0x2107 r k else s
  if st % 64 != was % 64 then s.linkFault 0x2201 r (k + 65536 * st) else s

/-- One response slot of a returning frame (R398, R399). -/
def slotIn (s : State) (r : Nat) (f : FrameIn) (k w : Nat) : State :=
  let i := 384 * r + k
  let d := b2n f.dirB
  if !rcrcOk w then s.inc SLOT.RCRC i d
  else if bits w 48 8 != f.fnum % 256 || bit w 31 || !f.hdrOk then s
  else
    let x := s.slotX i
    if x.frame = some f.fnum then
      -- the second copy
      if s.n SLOT.RESP i % 2 ^ 56 = w % 2 ^ 56 then s.setSlotX i { x with divRun := 0 }
      else
        let run := if x.divAt + 1 = f.fnum then x.divRun + 1 else 1
        let s := (s.inc SLOT.DIVERGE i).setSlotX i { x with divRun := run, divAt := f.fnum }
        if run = 16 then s.linkFault 0x2108 r k else s
    else if (match x.frame with | some g => decide (f.fnum < g) | none => false) then
      if s.fixedPt || f.fnum < s.wb then s.inc RING.RLATE r else s
    else
      let run := if x.frame = some (f.fnum - 1) then x.okRun + 1 else 1
      let s := s.setSlotX i { x with frame := some f.fnum, okRun := run }
      let s := if s.fixedPt || f.fnum < s.wb then s.inc RING.RLATE r else s
      let s := s.acceptResponse r k w
      if s.g SLOT.STATE i = 0 then s.put SLOT.STATE i 1
      else if s.g SLOT.STATE i = 2 && run ≥ 16 then s.put SLOT.STATE i 1 else s

/-- The measured loops of a frame that returned unsourced in both directions (R390, R395, R410). -/
def loopIn (s : State) (r : Nat) (f : FrameIn) : State :=
  let x := s.link r
  let x := if f.dirB then { x with lb := some (f.fnum, f.loop) } else { x with la := some (f.fnum, f.loop) }
  let s := s.setLink r x
  match x.la, x.lb with
  | some (p, a), some (q, b) =>
    if p != q then s else
      let rtt := tFrame (s.nslot r) + max a b + 100
      let s := ((s.putF RING.LOOPA r (ns5 a)).putF RING.LOOPB r (ns5 b)).putF RING.RTT r (ns5 rtt)
      let beyond := decide (rtt > s.rttLimit) && s.rState r = 4
      let off := s.rState r ≥ 3 && (decide (a + b > 2 * x.loop + 100) || decide (a + b + 100 < 2 * x.loop))
      let s := s.setLink r { x with rtt := rtt, rttBad := beyond, loopBad := off }
      let s := if beyond then s.inc RING.RLATE r else s
      if (beyond && !x.rttBad) || (off && !x.loopBad) then s.linkFault 0x2104 r 0xFFFF else s
  | _, _ => s

/-- A sourced frame (R401): the sourcing position is recorded, and the break reported when new. -/
def sourcedIn (s : State) (r : Nat) (f : FrameIn) (p : Nat) : State :=
  let m := if f.dirB then RING.BRKB else RING.BRKA
  let s := s.inc RING.SRCFR r (b2n f.dirB)
  let s := s.setLink r { s.link r with brkAge := 0 }
  if s.n m r = p then s else (s.put m r p).linkFault 0x2102 r p

/-- The wingbeat of the mark at which the frame with the 32-bit number `k` was launched (R384): the latest one
with those low bits. A number ahead of the present wingbeat gives one still to come. -/
def launchWb (s : State) (k : Nat) : Nat :=
  let d := (s.wb + 4294967296 - k % 4294967296) % 4294967296
  if d ≤ s.wb && d < 2147483648 then s.wb - d else s.wb + 1

/-- RESPONSE_RECEIVED (R398, R410). -/
def responseReceived (s : State) (r : Nat) (f : FrameIn) : State :=
  let f := { f with fnum := s.launchWb f.fnum }
  if !s.sends r || f.fnum > s.wb then s else
    let d := b2n f.dirB
    let s := s.inc RING.FRRX r d
    let s := if f.symErr = 0 then s else s.inc RING.SYM r d f.symErr
    let s := if f.eof then s else s.inc RING.TRUNC r d
    let s := if f.hdrOk then s else s.inc RING.HCRC r d
    let s := if f.ccrcOk || f.src.isSome then s else s.inc RING.CCRC r d
    let s := if !f.hdrOk then s else match f.src with
      | some p => s.sourcedIn r f p
      | none => s.loopIn r f
    if s.operates r then f.slots.foldl (fun s e => s.slotIn r f e.1 e.2) s else s

/-- AGE of every slot at the fixed point; a slot that reaches AGE 2 becomes SILENT (R399). Slots between
the two breaks are a segment (R401). -/
def slotAges (s : State) (r : Nat) : State :=
  (List.range (s.n RING.NCELL r)).foldl (fun s k =>
    let i := 384 * r + k
    match (s.slotX i).frame with
    | none => s
    | some g =>
      let age := min 255 (s.wb - g)
      let s := if age ≥ 1 then s.inc SLOT.MISS i else s
      let s := s.put SLOT.AGE i (age : Nat)
      if age ≥ 2 && s.g SLOT.STATE i = 1 then
        let s := ((s.put SLOT.STATE i 2).setSlotX i { s.slotX i with okRun := 0 }).linkFault 0x2106 r k
        let a := s.n RING.BRKA r
        let b := s.n RING.BRKB r
        if a < 384 && b < k && k < a && !(s.link r).segBad then
          (s.setLink r { s.link r with segBad := true }).linkFault 0x2103 r k
        else s
      else s) s

/-! ### Ring states (R406–R409) -/

def ringTo (s : State) (r st : Nat) : State :=
  let s := s.put RING.STATE r st
  let s := if st = 4 then s else s.put RING.RUN r 0
  if st = 5 then (s.setLink r { s.link r with enumOk := false, degr := false }).linkFault 0x2105 r 0xFFFF else s

/-- The ring enters OFF and its transmitters switch off. -/
def ringOff (s : State) (r : Nat) : State :=
  let s := s.put RING.STATE r 0 |>.put RING.RUN r 0 |>.put RING.EN r 0
  s.setLink r { s.link r with offPend := false, enumOk := false, degr := false, lockA := false, lockB := false,
                              la := none, lb := none, blkSent := false }

/-- The round trip of a ring of `n` cells, with hops of 20 ns, does not fit the wingbeat (R28). -/
def tripTight (s : State) (n : Nat) : Bool := s.twFit * 5 - 10000 < tFrame n + n * 100

/-- A write of EN (R406). -/
def ringEnable (s : State) (r v : Nat) : Status × State :=
  let st := s.rState r
  if v = 1 then
    if st = 0 then
      if s.g RING.EXPN r = 0 then (.badValue, s)
      else if s.tripTight (s.n RING.EXPN r) then (.capacity, s)
      else (.ok, (s.put RING.EN r 1).put RING.STATE r 1)
    else (.ok, s)
  else if st = 4 then (.busy, s)
  else if st = 0 then (.ok, s)
  else (.ok, (s.put RING.EN r 0).setLink r { s.link r with offPend := true })

/-- LINK_LOCK: both receivers have been word-locked for 1 ms. -/
def linkLock (s : State) (r : Nat) : State :=
  let x := s.link r
  if s.rState r = 1 && x.lockA && x.lockB && !x.degr then s.put RING.STATE r 2 else s

/-- LINKTMO: LINKTMO has elapsed in LINKUP (R409): a degraded start, or FAILED. -/
def linkTimeout (s : State) (r : Nat) : State :=
  let x := s.link r
  if s.rState r != 1 || x.degr then s else
    let rec' := s.mram.rings.find {} r
    if s.b RING.DEGRADE r && x.lockA != x.lockB && !rec'.uids.isEmpty then
      let s := s.setLink r { x with degr := true, loop := rec'.loop, tapply := rec'.tapply }
      let s := ((s.putF RING.LOOP r (ns5 rec'.loop)).putF RING.TAPPLY r (ns5 rec'.tapply)).put RING.CGEN r rec'.cgen
      s.put RING.NCELL r rec'.uids.length
    else s.ringTo r 5

/-- The identities found replace those of the slots; a retired cell whose UID differs is no longer
retired (R407, R432). -/
def slotIdentities (s : State) (r : Nat) (ids : List (Nat × Nat)) : State :=
  let s := (List.range (s.n RING.NCELL r)).foldl (fun s k => if k < ids.length then s else s.put SLOT.STATE (384 * r + k) 0) s
  let s := (List.range ids.length).foldl (fun s k =>
    let i := 384 * r + k
    let e := ids.getD k (0, 0)
    let s := ((((s.put SLOT.UID i e.1).put SLOT.CTYPE i e.2).put SLOT.STATE i 1).put SLOT.AGE i 0).setSlotX i { frame := some s.wb }
    match s.cellOfSlot r k with
    | none => s
    | some (a, c) =>
      let j := 64 * a + c
      match s.mram.cellRetired.find? fun p => p.1 = j with
      | some (_, u) => if u = e.1 then s.put CELL.STATE j 5 |>.put CELL.RETIRE j 1
        else { (s.put CELL.STATE j 0 |>.put CELL.RETIRE j 0) with
               mram := { s.mram with cellRetired := s.mram.cellRetired.filter fun p => p.1 != j } }
      | none => s) s
  s.put RING.NCELL r ids.length

/-- ENUMERATION_DONE (R407): 16 frame pairs agree on the filled slots of both directions (UID and CTYPE
in slot order) with the mean loops and the D_A of every position in units of 0.2 ns. -/
def enumerationDone (s : State) (r : Nat) (a b : List (Nat × Nat)) (la lb : Nat) (da : List Nat) : State :=
  if s.rState r != 2 || (s.link r).enumOk then s else
    let uids := a.map (·.1)
    let same := b == a.reverse && a.length = s.n RING.EXPN r && uids.all (fun u => u != 0 && u != 2 ^ 48 - 1)
    let known := !s.b RING.UIDCHK r || uids == (s.mram.rings.find {} r).uids
    if !same || !known then s else
      let loop := (la + lb) / 2
      let tap := (134 + 4 * a.length) * 10 + max la lb + 1000 + s.n RING.TAPPX r * 5
      if tap > s.twNs * 5 - 2500 then (s.linkFault 0x2104 r 0xFFFF).ringTo r 5
      else
        let cg := (s.n RING.CGEN r + 1) % 2 ^ 32
        let s := s.slotIdentities r a
        let rtt := tFrame a.length + max la lb + 100
        let s := s.setLink r { s.link r with enumOk := true, loop := loop, tapply := tap, rtt := rtt }
        let s := ((s.putF RING.LOOP r (ns5 loop)).putF RING.TAPPLY r (ns5 tap)).putF RING.RTT r (ns5 rtt)
        let q : RingRecord := { uids := uids, cgen := cg, loop := loop, tapply := tap, da := da }
        ({ s with mram := { s.mram with rings := s.mram.rings.put {} r q } }).put RING.CGEN r cg

/-- ENUMTMO (R406). -/
def enumTimeout (s : State) (r : Nat) : State := if s.rState r = 2 then s.ringTo r 5 else s

/-- Every slot of the ring has returned 64 consecutive accepted responses (R407). -/
def allAnswer (s : State) (r : Nat) : Bool :=
  (List.range (s.n RING.NCELL r)).all fun k => 64 ≤ (s.slotX (384 * r + k)).okRun

/-- BLOCKING_READY (R407, R409): every slot has returned 64 accepted responses; in a degraded start `uids` are what the
identity pages answered, and they must be those of the record. -/
def blockingReady (s : State) (r : Nat) (uids : List Nat) : State :=
  let x := s.link r
  if s.rState r = 2 && x.enumOk && s.allAnswer r then (s.put RING.STATE r 3).setLink r { x with enumOk := false }
  else if s.rState r = 1 && x.degr then
    if uids == (s.mram.rings.find {} r).uids then
      ((s.slotIdentities r (uids.zipIdx.map fun e => (e.1, s.n SLOT.CTYPE (384 * r + e.2)))).put RING.STATE r 3).setLink r
        { x with degr := false }
    else s.ringTo r 5
  else s

/-- PORT_LOSS and RECEIVER_WORD_LOCK (R382, R410, R413). -/
def portLoss (s : State) (r : Nat) (dirB : Bool) : State :=
  let x := s.link r
  if s.rState r = 0 || !(if dirB then x.lockB else x.lockA) then s else
    let s := s.setLink r (if dirB then { x with lockB := false } else { x with lockA := false })
    (s.inc RING.LOS r (b2n dirB)).linkFault 0x2101 r (2 * r + b2n dirB)

def wordLock (s : State) (r : Nat) (dirB : Bool) : State :=
  if s.rState r = 0 then s else
    let x := s.link r
    s.setLink r (if dirB then { x with lockB := true } else { x with lockA := true })

/-- XLNK blocks a ring that is not OFF (R403): a BLOCK frame on both ports, RUN to 0. -/
def ringBlock (s : State) (r : Nat) : State :=
  let st := s.rState r
  if st = 0 then s else
    let s := (s.inc RING.FRTX r).setLink r { s.link r with blkSent := true }
    let s := s.put RING.RUN r 0
    if st = 4 then s.put RING.STATE r 3 else s

/-- XLNK.RSTATr (R413). -/
def rstat (s : State) (r : Nat) : Nat :=
  let x := s.link r
  s.rState r + 8 * b2n x.lockA + 16 * b2n x.lockB
    + 32 * b2n (s.n RING.BRKA r != 0xFFFF || s.n RING.BRKB r != 0xFFFF)
    + 64 * b2n (s.ablk r && s.operates r) + 128 * b2n (x.rtt != 0 && s.rttOk r) + 256 * s.n RING.NCELL r

/-- FALLBACK_BLOCK_FRAME (R404): one of the 8 BLOCK frames; after the last the transmitters are off. -/
def fallbackBlockFrame (s : State) : State :=
  (s.links.map (·.1)).foldl (fun s r =>
    let x := s.link r
    if x.blkLeft = 0 then s else
      s.setLink r { x with blkLeft := x.blkLeft - 1, blkSent := true, txOff := x.txOff || x.blkLeft = 1 }) s

/-! ### Cell controllers (R391, R396, R397, R400, R402, R405, R407) -/

/-- A received header passes its CRC (R384, R396). -/
def hdrValid (h : List Byte) : Bool := h.length = 64 && unle (slice 60 4 h) = crc32c (h.take 60)

/-- Fields of a header (R384). -/
def hdrType (h : List Byte) : Nat := unle (slice 0 1 h)
def hdrFnum (h : List Byte) : Nat := unle (slice 4 4 h)
def hdrNslot (h : List Byte) : Nat := unle (slice 8 2 h)
def hdrTw (h : List Byte) : Nat := unle (slice 12 4 h)
def hdrLoop (h : List Byte) : Nat := unle (slice 16 4 h)
def hdrCgen (h : List Byte) : Nat := unle (slice 28 4 h)

/-- The header of the frame that a cell at position `k` sources in a direction, copied from the last one it received
(R400). DIR is that of the direction (DEDUCED, log entry 48). -/
def sourcedHeader (h : List Byte) (k : Nat) (dirB : Bool) : List Byte :=
  let f := unle (slice 1 1 h)
  let b := h.take 1 ++ le 1 (f - f % 4 + 2 + b2n dirB) ++ slice 2 2 h ++ le 4 (hdrFnum h + 1) ++ slice 8 2 h ++ le 2 k ++
    slice 12 48 h
  b ++ le 4 (crc32c b)

/-- The valid frame that a receiver got: its header passes and it is no BLOCK frame (R396, R397, R403). -/
def cellHears (o : Option CellRx) : Option CellRx := o.filter fun q => hdrValid q.hdr && hdrType q.hdr != 3

/-- A cell takes its slot when it sees a new CGEN, if its two indexes fit; else it stays in BLOCK and reports CMDERR
(R407). A cell that filled no slot of this generation forwards only (R405). -/
def takeSlot (x : CellCtl) (h : List Byte) : CellCtl :=
  if hdrCgen h = x.cgen then x
  else match x.pA, x.pB with
    | some p, some q =>
      let fits := p + q + 1 = hdrNslot h
      { x with cgen := hdrCgen h, pA := none, pB := none, slot := some p, misfit := !fits,
               sw := if fits || x.sw = 3 then x.sw else 0 }
    | _, _ => { x with slot := none, pA := none, pB := none }

/-- D_A, D_B, M_n and the predicted next mark (R391), from the instants of the SOF at the receivers that are not lost.
Δ is that of the latest frame that came by both (DESIGN CHOICE, log entry 46: a cell may average it). -/
def cellTime (x : CellCtl) (h : List Byte) (tA tB : Option Int) : CellCtl :=
  let f : Int := (Config.cellDelayA x.uid).toNat + (Config.cellDelayB x.uid).toNat
  let loop : Int := hdrLoop h
  let x := match tA, tB with
    | some a, some b =>
      let d := 2 * loop - f - 2 * (b - a)
      { x with dA := some d, dB := some (4 * loop - 2 * f - d), bFirst := decide (b < a) }
    | _, _ => { x with bFirst := tA.isNone }
  let m := match tA, x.dA, tB, x.dB with
    | some a, some d, _, _ => some (4 * a - d - 2560)
    | _, _, some b, some d => some (4 * b - d - 2560)
    | _, _, _, _ => none
  { x with markN := m, next := m.map (· + 4 * (hdrTw h : Int)) }

/-- The STATUS word of a cell (R387). -/
def cellStatus (x : CellCtl) (own : Nat) : Nat :=
  own % 64 + 64 * b2n x.lostA + 128 * b2n x.lostB + 256 * b2n x.wdblk + 512 * b2n x.restart + 1024 * b2n (x.cmderr || x.misfit) +
    2048 * b2n x.srcA.isSome + 4096 * b2n x.srcB.isSome + 8192 * b2n x.latch + own / 16384 % 4 * 16384

/-- The response of a cell in the frame with FNUM `n` (R387, R397). SWST is the state at the mark, also where SOFF moves
the sample (DESIGN CHOICE, log entry 46). -/
def cellResponse (x : CellCtl) (q : CellIn) (n : Nat) (nosamp : Bool) : Nat :=
  let w := q.vcap % 65536 + 2 ^ 16 * b2n q.isign + 2 ^ 17 * b2n q.ival + 2 ^ 18 * x.sw + 2 ^ 20 * (q.temp % 256) +
    2 ^ 28 * b2n x.cmda + 2 ^ 29 * b2n x.cmdb + 2 ^ 30 * b2n x.cmddif + 2 ^ 31 * b2n nosamp +
    2 ^ 32 * cellStatus x q.status + 2 ^ 48 * (n % 256)
  w + 2 ^ 56 * crc8 (le 7 w)

/-- The identity that a cell writes in an ENUMERATE frame (R387, R407). -/
def cellIdentity (q : CellIn) : Nat :=
  let w := q.uid % 2 ^ 48 + 2 ^ 48 * (q.ctype % 256)
  w + 2 ^ 56 * crc8 (le 7 w)

/-- A receiver that was lost: valid frames in a row, and whether 16 have come, which ends the sourcing (R400). -/
def regained (lost : Bool) (run : Nat) (o : Option CellRx) : Bool × Nat :=
  let n := if o.any fun q => hdrValid q.hdr && q.ccrcOk then run + 1 else 0
  if !lost then (false, 0) else if 16 ≤ run then (false, 0) else (true, n)

/-- A cell in the frame of a mark (R391, R397, R400, R405, R407): its timing, its slot, the frames that it sources and the
response that it writes into both directions. A frame whose header check fails is forwarded unchanged. -/
def cellFrame (x : CellCtl) (q : CellIn) : CellCtl :=
  let x := match q.restarted with | some kept => cellRestart x kept | none => x
  let (lostA, okA) := regained x.lostA x.okA q.a
  let (lostB, okB) := regained x.lostB x.okB q.b
  let x := { x with uid := q.uid, latch := x.latch || bit q.status 13, ablk := false, respA := none, respB := none,
                    srcA := none, srcB := none, lostA := lostA, lostB := lostB, okA := okA, okB := okB }
  let a := if lostA then none else cellHears q.a
  let b := if lostB then none else cellHears q.b
  let nosamp := x.next.isNone
  let f : Int := 2 * ((Config.cellDelayA x.uid).toNat + (Config.cellDelayB x.uid).toNat)
  -- the frames sourced from the predicted mark, while D_A and D_B are held
  let src := fun (dirB : Bool) (d : Option Int) =>
    match x.next, d with
    | some m, some d => if x.hdr.isEmpty then none else some (m + d + f, sourcedHeader x.hdr q.pos.val dirB)
    | _, _ => none
  let x := { x with srcA := if lostA then src false x.dA else none, srcB := if lostB then src true x.dB else none }
  match a.or b with
  | none =>
    let n := hdrFnum x.hdr + 1
    let w := cellResponse x q n nosamp
    let out := fun (o : Option (Int × List Byte)) => if x.slot.isSome && o.isSome then some w else none
    { x with blind := x.blind + 1, next := x.next.map (· + 4 * (x.tw : Int)), respA := out x.srcA, respB := out x.srcB }
  | some c =>
    let h := if (b.map (·.t)).any fun t => a.any fun c => t > c.t then (b.map (·.hdr)).getD c.hdr else c.hdr
    let x := { x with blind := 0, tw := hdrTw h, hdr := h }
    if hdrType h = 2 then
      { x with pA := ((a.bind (·.free)).or x.pA), pB := ((b.bind (·.free)).or x.pB),
               respA := (a.bind (·.free)).map fun _ => cellIdentity q, respB := (b.bind (·.free)).map fun _ => cellIdentity q }
    else
      let x := cellTime (takeSlot x h) h (a.map (·.t)) (b.map (·.t))
      let w := cellResponse x q (hdrFnum h) nosamp
      let out := fun (heard sourced : Bool) => if x.slot.isSome && (heard || sourced) then some w else none
      { x with respA := out a.isSome x.srcA.isSome, respB := out b.isSome x.srcB.isSome }

/-- The cell `q` in the frame of the mark. -/
def cellMark (s : State) (q : CellIn) : State :=
  let i := 384 * q.ring.val + q.pos.val
  s.setCellCtl i (cellFrame (s.cellCtl i) q)

/-- A command slot is valid for the cell (R396), its frame's header and CRC having passed; never for a cell whose indexes
did not fit (R407). -/
def cmdValid (x : CellCtl) (w : Nat) : Bool := !x.misfit && x.slot = some (bits w 16 9)

/-- CELL_APPLY: at the apply instant of a frame the cell executes the first valid command of the copies that reached it,
`a` by A and `b` by B; `dead` says that no valid frame came at two predicted marks (R405). After a blocking header
INSERT and BYPASS wait for the next frame (R402). -/
def cellApply (s : State) (r k : Nat) (a b : Option Nat) (dead : Bool) : State :=
  let i := 384 * r + k
  let x := s.cellCtl i
  let a' := a.filter (cmdValid x)
  let b' := b.filter (cmdValid x)
  let err := (a.isSome && a'.isNone) || (b.isSome && b'.isNone)
  let x := { x with cmddif := a'.isSome && b'.isSome && a' != b', cmderr := err, cmda := a'.isSome, cmdb := b'.isSome }
  match if x.bFirst then b'.or a' else a'.or b' with
  | none =>
    let x := { x with missed := x.missed + 1, good := 0, pbyp := 0 }
    if (x.missed ≥ 2 || dead || x.blind ≥ 2) && x.sw != 3 then s.setCellCtl i { x with sw := 0, wdblk := true }
    else s.setCellCtl i x
  | some w =>
    let x := { x with missed := 0, good := x.good + 1, disch := bit w 4 }
    let key := bit w 3 && bits w 8 8 = 0xB5
    let x := { x with pbyp := if key then x.pbyp + 1 else 0 }
    let x := if bit w 2 && x.good ≥ 2 then { x with wdblk := false, restart := false, latch := false } else x
    let want := w % 4
    let x := { x with cmderr := x.cmderr || want = 3 }
    if x.sw = 3 || x.pbyp ≥ 2 then s.setCellCtl i { x with sw := 3 }
    else if want = 3 || want = 0 || x.wdblk || x.restart || x.ablk then s.setCellCtl i { x with sw := 0 }
    else s.setCellCtl i { x with sw := want }

/-- CELL_DIRECTION_LOSS (R400): the cell ends its frame and sources that direction from the next predicted mark. -/
def cellDirectionLoss (s : State) (r k : Nat) (dirB : Bool) : State :=
  let x := s.cellCtl (384 * r + k)
  s.setCellCtl (384 * r + k) (if dirB then { x with lostB := true } else { x with lostA := true })

/-- CELL_BLOCK (R402): a blocking header blocks the cell; permanent bypass stays. -/
def cellBlock (s : State) (r k : Nat) : State :=
  let x := { s.cellCtl (384 * r + k) with ablk := true }
  s.setCellCtl (384 * r + k) (if x.sw = 3 then x else { x with sw := 0 })

end State
end Sys2Proof.Machine
end

