-- ==== Sys2Proof/Machine/Conv.lean ====
section
/-! DEFINITION. SORT and the cell converters (R415–R447): converter states, the frozen set, cells out of
service, redundancy, the insertion sorter and the commands of a frame. The loops of the arms stand in
`ArmLoop`. -/
namespace Sys2Proof.Machine
namespace State

def convX (s : State) (c : Nat) : ConvX := s.convx.find {} c
def setConvX (s : State) (c : Nat) (x : ConvX) : State := { s with convx := s.convx.put {} c x }
def armX (s : State) (a : Nat) : ArmX := s.armx.find {} a
def setArmX (s : State) (a : Nat) (x : ArmX) : State := { s with armx := s.armx.put {} a x }
def cellX (s : State) (j : Nat) : CellX := s.cellx.find {} j
def setCellX (s : State) (j : Nat) (x : CellX) : State := { s with cellx := s.cellx.put {} j x }
def setMachX (s : State) (m : Nat) (x : MachX) : State := { s with machx := s.machx.put {} m x }
def cvState (s : State) (c : Nat) : Nat := s.n CONV.STATE c

/-- The event sources and the faults of a converter (R447). -/
def convEvents (s : State) (c : Nat) : List Nat := if s.axisOfConv c < 16 then [33, 16 + s.axisOfConv c] else [33]
def convFaultRec (s : State) (code c : Nat) (detail : Nat := 0) : State := s.alarm code c (s.convEvents c) detail 9
def armFaultRec (s : State) (code c a : Nat) (detail : Nat := 0) : State := s.alarm code a (s.convEvents c) detail 10
def cellFaultRec (s : State) (code c j : Nat) (detail : Nat := 0) : State := s.alarm code j (s.convEvents c) detail 11

/-- V_dc of a converter. -/
def convVdc (s : State) (c : Nat) : F32 :=
  if s.n CONV.SDDC c = 255 then F32.zero else s.f SD.VALUE (s.n CONV.SDDC c)

/-- The smallest AVAIL of the converter's arms. -/
def nMin (s : State) (c : Nat) : Nat :=
  match s.convArms c with
  | [] => 0
  | a :: t => t.foldl (fun k a => min k (s.n ARM.AVAIL a)) (s.n ARM.AVAIL a)

/-- NREQ (R434). -/
def nReq (s : State) (c : Nat) : Nat :=
  (-((((s.f CONV.VDCMAX c).add (s.f CONV.UCMAX c)).div (s.f CONV.VCNOM c)).neg.floor)).toNat

/-! ### Converter states (R437–R442) -/

/-- Enters a converter state; ENABLE reads 1 from CHARGE to RUN. The tasks run from BALANCE on, and show the fault
policy in FAULT (R743). -/
def convTo (s : State) (c st : Nat) : State :=
  let s := (s.put CONV.STATE c st).put CONV.ENABLE c (if 1 ≤ st && st ≤ 4 then 1 else 0)
  let runs := 2 ≤ st && (st ≤ 4 || st = 8)
  let s := s.dispatch 9 c runs
  let s := if st = 7 then (s.ownerTasks 9 c).foldl (fun s t => s.setTaskSt t 6) s
    else if st = 0 then s.leavePolicy (s.ownerTasks 9 c) else s
  if st = 1 then (s.dioDrive (s.n CONV.PCHDIO c) true).setConvX c { s.convX c with vdcEn := s.convVdc c, exhausted := false, redLast := 127 }
  else if st = 5 || st = 7 then
    let s := (s.dioDrive (s.n CONV.PCHDIO c) false).dioDrive (s.n CONV.MAINDIO c) false
    s.setConvX c { s.convX c with act := if st = 7 then 1 else 0, mainWait := false }
  else if st = 0 then s.setConvX c { s.convX c with act := 0, mainWait := false }
  else s

/-- The converter's shutdown, discharge or fault actions are unfinished (R439, R441). -/
def convActs (s : State) (c : Nat) : Bool :=
  let st := s.cvState c
  st = 5 || st = 6 || st = 8 || (st = 7 && (s.convX c).act != 0)

/-- The converter enters its fault policy (R440); `hard` for the causes to which policy 0 applies. -/
def convFault (s : State) (c : Nat) (hard : Bool) : State :=
  let st := s.cvState c
  if st = 0 || st = 5 || st = 6 || st = 7 then s
  else
    let m := s.n CONV.MACH c
    let fast := m < 32 && (s.f MACH.ASCSPD m).lt (s.machX m).nm.abs
    let pol := s.n CONV.FPOL c
    let short := !hard && s.rState (s.n CONV.RING c) = 4 && st != 1 && st != 2 && (pol = 1 || (pol = 2 && fast))
    if short then (if st = 8 then s else s.convTo c 8) else s.convTo c 7

/-- A stop takes the converter (R442). -/
def convStop (s : State) (c : Nat) : State :=
  let st := s.cvState c
  if 1 ≤ st && st ≤ 4 then s.convTo c 5 else if st = 8 then s.convTo c 7 else s

/-- The short of a converter ends (R440). -/
def convShortEnd (s : State) (c : Nat) : State := if s.cvState c = 8 then s.convTo c 7 else s

/-- CONV_CHARGE_DONE (R437). -/
def convChargeDone (s : State) (c : Nat) : State :=
  if s.cvState c = 1 && !(s.convVdc c).lt ((s.f CONV.PCHV c).mul (s.f CONV.VDCNOM c)) &&
     s.rState (s.n CONV.RING c) = 4 && (s.nMin c ≥ s.n CONV.NREQ c || s.b CONV.LIMP c) then s.convTo c 2 else s

/-- The fixed level of BALANCE (R438). -/
def nPc (s : State) (c : Nat) : Nat :=
  (((s.convVdc c).div ((F32.ofInt 2).mul (s.f CONV.VCTGT c))).nearest).toNat

/-- The available cells of an arm: OK or STALE (R424). -/
def availCells (s : State) (a : Nat) : List Nat :=
  (List.range (s.n ARM.NCELL a)).filter fun i => s.g CELL.STATE (64 * a + i) ≤ 1

/-- BALANCE_DONE (R438): every available cell has reached its target. -/
def balanceDone (s : State) (c : Nat) : State :=
  let npc := s.nPc c
  let goal := (s.f CONV.PCDONE c).mul ((s.convVdc c).div (F32.ofInt (2 * npc : Nat)))
  let all := (s.convArms c).all fun a => (s.availCells a).all fun i => !(s.f CELL.VCAP (64 * a + i)).lt goal
  if s.cvState c != 2 || npc = 0 || !all || (s.convX c).mainWait then s
  else (s.dioDrive (s.n CONV.MAINDIO c) true).setConvX c { s.convX c with mainWait := true }

/-- MAIN_CONTACT_DONE (R438). -/
def mainContactDone (s : State) (c : Nat) : State :=
  if s.cvState c = 2 && (s.convX c).mainWait then
    (s.dioDrive (s.n CONV.PCHDIO c) false |>.setConvX c { s.convX c with mainWait := false }).convTo c 3
  else s

/-- PRECHARGE_FAIL (R437). -/
def prechargeFail (s : State) (c : Nat) : State :=
  if s.cvState c = 1 || s.cvState c = 2 then (s.convFaultRec 0x2307 c).convTo c 7 else s

/-- CONV_SHUTDOWN_DONE (R437): MAINT has elapsed. -/
def convShutdownDone (s : State) (c : Nat) : State :=
  let d := s.b CONV.DISCHEN c
  if s.cvState c = 5 then s.convTo c (if d then 6 else 0)
  else if s.cvState c = 7 && (s.convX c).act = 1 then s.setConvX c { s.convX c with act := if d then 2 else 0 }
  else s

/-- Every capacitor of the converter is below DISCHV. -/
def discharged (s : State) (c : Nat) : Bool :=
  (s.convArms c).all fun a => (List.range (s.n ARM.NCELL a)).all fun i =>
    (s.f CELL.VCAP (64 * a + i)).lt (s.f CONV.DISCHV c)

/-- CONV_DISCHARGE_DONE (R437): the cells are below DISCHV, or DISCHT has elapsed. -/
def convDischargeDone (s : State) (c : Nat) (elapsed : Bool) : State :=
  let here := s.cvState c = 6 || (s.cvState c = 7 && (s.convX c).act = 2)
  if !here || (!elapsed && !s.discharged c) then s
  else
    let s := if elapsed then s.convFaultRec 0x230A c else s
    if s.cvState c = 6 then s.convTo c 0 else s.setConvX c { s.convX c with act := 0 }

/-! ### The frozen set and the cells (R424, R429–R433) -/

/-- The cell leaves the available set as FAILED (R430). -/
def cellFail (s : State) (c j cause : Nat) : State :=
  let s := (s.put CELL.STATE j 4).put CELL.FCAUSE j cause
  (s.setCellX j { s.cellX j with pbyp := 0, good := 0, clrf := 0 }).cellFaultRec 0x2301 c j cause

/-- The cell is RETIRED, and MRAM records it with its UID (R432). -/
def cellRetired (s : State) (c j uid : Nat) : State :=
  let s := (s.put CELL.STATE j 5).put CELL.RETIRE j 1
  let s := { s with mram := { s.mram with cellRetired := (s.mram.cellRetired.filter fun (p : Nat × Nat) => p.1 != j) ++ [(j, uid)] } }
  s.cellFaultRec 0x2302 c j

/-- The first cause of failure of R430 that a cell shows; `st` is its STATUS word. -/
def failCause (s : State) (c j slot : Nat) (x : CellX) (st : Nat) : Nat :=
  if s.g SLOT.STATE slot = 2 then 1
  else if bit st 13 then 2
  else if bit st 5 then 3
  else if x.volt ≥ 3 then 4
  else if x.cmde ≥ 16 then 5
  else if (x.hist.filter fun t => s.flightS ≤ t + 3600).length > s.n CONV.RSTMAX c && s.g CELL.STATE j = 3 then 6
  else 0

/-- One cell at the fixed point: `i` of arm `a`. Answers the state and whether a bypass is lost. -/
def cellFix (s : State) (c a i : Nat) : State × Bool :=
  let j := 64 * a + i
  let k := s.n ARM.SLOT0 a + i
  let slot := 384 * (s.n CONV.RING c) + k
  let w := s.n SLOT.RESP slot
  let fresh := s.g SLOT.AGE slot = 0
  let st := bits w 32 16
  let sw := bits w 18 2
  let x := s.cellX j
  let v := F32.ofFrac (bits w 0 16 : Nat) 10
  let beyond := !(s.f CONV.VCOV c).zero? && (s.f CONV.VCOV c).lt v
  let under := !(s.f CONV.VCUV c).zero? && v.lt (s.f CONV.VCUV c) && (s.cvState c = 3 || s.cvState c = 4)
  let x := if !fresh then x else
    { x with volt := if beyond || under then x.volt + 1 else 0, cmde := if bit st 10 then x.cmde + 1 else 0,
             good := if bit w 28 || bit w 29 then x.good + 1 else 0,
             lost := if x.byps && (sw = 0 || sw = 2) then x.lost + 1 else 0 }
  let s := s.setCellX j x
  let here := s.n CELL.STATE j
  let lostBypass := fresh && ((here ≥ 4 && x.lost ≥ 2) || (bit st 5 && sw != 1))
  if here = 5 then (s, lostBypass)
  else if here = 4 then
    if fresh && sw = 3 && s.b CONV.AUTOPBYP c && x.pbyp ≤ s.n CONV.PBYPT c then
      (s.cellRetired c j (s.n SLOT.UID slot), lostBypass)
    else (s, lostBypass)
  else
    let f := s.failCause c j slot x st
    if f != 0 then (s.cellFail c j f, lostBypass)
    else if here = 2 then (s, lostBypass)
    else if here = 3 then
      if fresh && !bit st 8 && !bit st 9 then (s.put CELL.STATE j 0, lostBypass)
      else if x.clrf = 0 && x.good ≥ 2 then (s.setCellX j { x with clrf := 2, good := 0 }, lostBypass)
      else (s, lostBypass)
    else if bit st 8 || bit st 9 then
      let x := { x with hist := (x.hist.filter fun t => s.flightS ≤ t + 3600) ++ [s.flightS], good := 0 }
      let s := ((s.put CELL.STATE j 3).inc CELL.NRST j).setCellX j x
      if x.hist.length > s.n CONV.RSTMAX c then (s.cellFail c j 6, lostBypass) else (s, lostBypass)
    else if s.g SLOT.STATE slot = 0 then (s, lostBypass)
    else (s.put CELL.STATE j (min 1 (s.g SLOT.AGE slot)), lostBypass)

/-- The frozen set of an arm: its available cells, their mean, spread and votes (R424, R428). -/
def armFix (s : State) (c a : Nat) : State :=
  let l := s.availCells a
  let vs := l.map fun i => s.f CELL.VCAP (64 * a + i)
  let s := s.put ARM.AVAIL a (l.length : Nat)
  let s := s.put ARM.REDUND a (l.length - s.g CONV.NREQ c)
  let sum := vs.foldl F32.add F32.zero
  let s := s.putF ARM.VMEAN a (if l.isEmpty then F32.zero else sum.div (F32.ofInt l.length))
  let spread := match vs with
    | [] => F32.zero
    | v :: t => (t.foldl F32.max v).sub (t.foldl F32.min v)
  let s := s.putF ARM.SPREAD a spread
  let resp := fun i => s.n SLOT.RESP (384 * (s.n CONV.RING c) + s.n ARM.SLOT0 a + i)
  let p := (l.filter fun i => bit (resp i) 17 && bit (resp i) 16).length
  let q := (l.filter fun i => bit (resp i) 17 && !bit (resp i) 16).length
  let x := s.armX a
  let lim := s.f CONV.VSPRMAX c
  let n := if lim.zero? || !lim.lt spread then 0 else x.sprN + 1
  let due := n != 0 && s.wbOfMs (s.n CONV.VSPRT c) ≤ n
  let s := s.setArmX a { x with avail := l, vcap := (List.range (s.n ARM.NCELL a)).map fun i => s.f CELL.VCAP (64 * a + i),
                                vote := if p > q then 1 else if q > p then -1 else 0, sprN := n, sprTold := due }
  if due && !x.sprTold then s.armFaultRec 0x2305 c a else s

/-- Redundancy, limp and VCTGT at the fixed point (R434, R435). -/
def redundancy (s : State) (c : Nat) : State :=
  let st := s.cvState c
  if st = 0 then s else
    let n := s.nMin c
    let req := s.n CONV.NREQ c
    let low : Int := (n : Int) - req
    let x := s.convX c
    let s := if low < x.redLast && low ≤ s.n CONV.REDWARN c then s.convFaultRec 0x2304 c n else s
    let s := s.setConvX c { x with redLast := low }
    if !((1 ≤ st && st ≤ 4) || st = 8) then s
    else if n ≥ req then s.put CONV.LIMPACT c 0
    else if s.b CONV.LIMP c then
      if s.b CONV.LIMPACT c then s else (s.put CONV.LIMPACT c 1).convFaultRec 0x2306 c n
    else if st = 1 || x.exhausted then s
    else ((s.setConvX c { s.convX c with exhausted := true }).convFaultRec 0x2308 c n).convFault c (st = 2)

/-- The target of R435 for VCTGT. -/
def vctGoal (s : State) (c : Nat) : F32 :=
  if s.b CONV.LIMPACT c then
    (s.f CONV.VCLIMP c).min (((s.f CONV.VDCMAX c).add (s.f CONV.UCMAX c)).div (F32.ofInt (s.nMin c)))
  else s.f CONV.VCNOM c

/-- VCTGT moves towards its target at VCRATE, and CEIL follows the latched V_dc, once per wingbeat
(R419, R435). -/
def convMark (s : State) (c : Nat) : State :=
  let st := s.cvState c
  if st = 0 then s else
    let now := s.f CONV.VCTGT c
    let goal := s.vctGoal c
    let step := (s.f CONV.VCRATE c).mul s.twS
    let s := s.putF CONV.VCTGT c (goal.clamp (now.sub step) (now.add step))
    let vdc := s.convVdc c
    if vdc.zero? then s else
      let half := vdc.div (F32.ofInt 2)
      let avail := (F32.ofInt (s.nMin c)).mul (s.f CONV.VCTGT c)
      let g := if s.n CONV.ARMS c = 4 then F32.ofInt 2 else F32.one
      let m := half.min ((avail.sub (s.f CONV.UCMAX c)).sub half)
      let ceil := (g.mul m).div (vdc.div (F32.ofInt 3).sqrt)
      let s := s.putF CONV.CEIL c ceil
      if ceil.lt (s.f CONV.LIMPMIN c) && ((2 ≤ st && st ≤ 4) || st = 8) && !(s.convX c).exhausted then
        ((s.setConvX c { s.convX c with exhausted := true }).convFaultRec 0x2308 c).convFault c (st = 2)
      else s

/-- SORT_FIXED_POINT (R424): AGE of every slot, every cell, the means of every arm, the redundancy. -/
def sortFixedPoint (s : State) : State :=
  if !s.tb.refok || s.fixedPt then s else
    let s := { s with fixedPt := true }
    let s := (List.range 4).foldl (fun s r => if s.operates r then s.slotAges r else s) s
    s.convs.foldl (fun s c =>
      let (s, bad) := (s.convArms c).foldl (fun (s, bad) a =>
        let (s, b) := (List.range (s.n ARM.NCELL a)).foldl (fun (s, b) i =>
          let (s, l) := s.cellFix c a i
          (s, b || l)) (s, false)
        (s.armFix c a, bad || b)) (s, false)
      let s := if bad && (1 ≤ s.cvState c && s.cvState c ≤ 4 || s.cvState c = 8) then (s.convFaultRec 0x2303 c).convFault c true else s
      s.redundancy c) s

/-- The arm currents latched at the mark (R427), and ARM_OVERCURRENT, which SORT checks at every mark (R440). -/
def armOvercurrent (s : State) (c : Nat) : State :=
  let lim := s.f CONV.IAMAX c
  (s.convArms c).foldl (fun s a =>
    let k := s.n ARM.SDI a
    let i := if k < 48 then s.f SD.VALUE k else F32.zero
    let s := s.setArmX a { s.armX a with cur := i }
    let st := s.cvState c
    if !lim.zero? && lim.lt i.abs && ((1 ≤ st && st ≤ 4) || st = 8) then
      (s.armFaultRec 0x2309 c a).convFault c true else s) s

/-! ### The insertion sorter (R425–R427) -/

/-- Inserts a cell with key `v` into an ordered list: ascending or descending, ties in input order. -/
def insCell (up : Bool) (e : F32 × Nat) : List (F32 × Nat) → List (F32 × Nat)
  | [] => [e]
  | q :: t => if (if up then e.1.lt q.1 else q.1.lt e.1) then e :: q :: t else q :: insCell up e t

/-- The available cells of an arm in the order of R427 for the current sign `sg`, by the frozen set (R27, R424). -/
def cellOrder (s : State) (c a : Nat) (sg : Int) : List Nat :=
  let prev := (s.armX a).ins
  let key := fun i =>
    let v := (s.armX a).vcap.getD i F32.zero
    if !prev.contains i then v
    else if sg > 0 then v.sub (s.f CONV.VBAND c) else v.add (s.f CONV.VBAND c)
  ((s.armX a).avail.foldl (fun l i => insCell (decide (sg > 0)) (key i, i) l) []).map (·.2)

/-- The current sign of R427 for an arm. -/
def armSign (s : State) (c a : Nat) : Int :=
  let k := s.n ARM.SDI a
  let i := (s.armX a).cur
  if s.cvState c = 2 then 1
  else if k < 48 && !(i.abs.lt (s.f CONV.ISGNTH c)) then (if i.neg? then -1 else 1)
  else if (s.armX a).vote != 0 then (s.armX a).vote
  else s.g ARM.SIGN a

/-- SORT_SELECTION (R425–R427): one selection of arm `a` of converter `c` for the reference `u`. -/
def armSelect (s : State) (c a : Nat) (u : F32) : State :=
  let st := s.cvState c
  if !((2 ≤ st && st ≤ 4) || st = 8) then s else
    let x := s.armX a
    let avail := s.n ARM.AVAIL a
    let raw := u.div (s.f ARM.VMEAN a)
    let dith := s.b CONV.DITH c
    let half := F32.ofFrac 1 2
    let lvl : Int := if avail = 0 then 0 else
      if dith then ((raw.add x.resid).add half).floor else (raw.add half).floor
    let lvl := if st = 2 then (s.nPc c : Int) else lvl
    let sat := decide (lvl < 0) || decide ((avail : Int) < lvl)
    let n := (max 0 (min lvl avail)).toNat
    let resid := if sat || avail = 0 || st = 2 then F32.zero
      else if dith then (x.resid.add raw).sub (F32.ofInt lvl) else x.resid
    let sg := s.armSign c a
    let s := s.put ARM.SIGN a sg
    let ins := (s.cellOrder c a sg).take n
    let moved := (x.avail.filter fun i => x.ins.contains i != ins.contains i).length
    let s := (s.put ARM.LEVEL a (n : Nat)).putB ARM.SAT a sat
    (s.inc ARM.SWCNT a 0 moved).setArmX a { x with resid := resid, ins := ins }

/-! ### Commands of a frame (R386, R429, R431, R432, R437) -/

/-- The command word of cell `i` of arm `a` for the frame launched now, and the cell's counts. -/
def cellCommand (s : State) (c a i : Nat) : State :=
  let j := 64 * a + i
  let r := s.n CONV.RING c
  let k := s.n ARM.SLOT0 a + i
  let st := s.cvState c
  let cs := s.n CELL.STATE j
  let x := s.cellX j
  let on := ((2 ≤ st && st ≤ 4) || st = 8) && !s.ablk r
  let cmd := if !on then 0 else
    if cs ≤ 1 then (if (s.armX a).ins.contains i then 2 else 1) else 1
  let pbyp := cs = 5 || (cs = 4 && s.b CONV.AUTOPBYP c)
  let disch := st = 6 || (st = 7 && (s.convX c).act = 2)
  let s := s.setCellX j { x with clrf := x.clrf - 1, byps := decide (cmd = 1),
                                 pbyp := if cs = 4 && pbyp then x.pbyp + 1 else x.pbyp }
  let s := s.put CELL.CMD j cmd
  s.setSlotX (384 * r + k) { s.slotX (384 * r + k) with cmd := commandWord cmd (decide (x.clrf > 0)) pbyp disch k }

/-- The command block of ring `r` for the frame of this mark: slots of no arm carry BLOCK. -/
def formCommands (s : State) (r : Nat) : State :=
  if !s.operates r then s else
    let s := (List.range (s.n RING.NCELL r)).foldl (fun s k =>
      s.setSlotX (384 * r + k) { s.slotX (384 * r + k) with cmd := commandWord 0 false false false k }) s
    (s.convsOn r).foldl (fun s c =>
      (s.convArms c).foldl (fun s a =>
        (List.range (s.n ARM.NCELL a)).foldl (fun s i => s.cellCommand c a i) s) s) s

/-! ### Cell requests (R430, R432, R436) -/

/-- A write of CELL CLEAR = 1 (R430). -/
def cellClear (s : State) (j : Nat) : Status × State :=
  let a := j / 64
  match s.convOfArm a with
  | none => (.ok, s)
  | some c =>
    let slot := 384 * (s.n CONV.RING c) + s.n ARM.SLOT0 a + j % 64
    if s.g CELL.STATE j != 4 then (.ok, s)
    else if s.cvState c = 4 then (.busy, s)
    else if s.g SLOT.STATE slot != 1 || s.failCause c j slot (s.cellX j) (s.n CELL.STATUS j) != 0 then (.faultActive, s)
    else
      let s := (s.put CELL.STATE j 0).put CELL.FCAUSE j 0
      (.ok, (s.setCellX j { clrf := 2, hist := (s.cellX j).hist }).clearFault 11 j)

/-- A write of EXCL (R436). -/
def cellExcl (s : State) (j v : Nat) : Status × State :=
  let a := j / 64
  match s.convOfArm a with
  | none => (.ok, s.put CELL.EXCL j v)
  | some c =>
    if v = 1 then
      let here := s.g CELL.STATE j ≤ 1
      if here && (s.availCells a).length ≤ s.n CONV.NREQ c && !s.b CONV.LIMP c then (.badValue, s)
      else
        let s := s.put CELL.EXCL j 1
        (.ok, if s.g CELL.STATE j ≤ 1 || s.g CELL.STATE j = 3 then s.put CELL.STATE j 2 else s)
    else
      let s := s.put CELL.EXCL j 0
      (.ok, if s.g CELL.STATE j = 2 then s.put CELL.STATE j 0 else s)

/-- A secure write of RETIRE (R432); RETIRE = 0 only in SERVICE. -/
def cellRetire (s : State) (j v : Nat) : Status × State :=
  let a := j / 64
  let slot := match s.convOfArm a with
    | some c => 384 * (s.n CONV.RING c) + s.n ARM.SLOT0 a + j % 64
    | none => 1536
  if v = 1 then
    if s.g CELL.STATE j = 5 then (.ok, s)
    else (.ok, s.cellRetired ((s.convOfArm a).getD 0) j (s.n SLOT.UID slot))
  else if s.g LIFE.STATE != 3 then (.deniedLifecycle, s)
  else
    let s := { s with mram := { s.mram with cellRetired := s.mram.cellRetired.filter fun (p : Nat × Nat) => p.1 != j } }
    let s := s.put CELL.RETIRE j 0
    (.ok, if s.g CELL.STATE j = 5 then s.put CELL.STATE j 4 else s)

end State
end Sys2Proof.Machine
end

