-- ==== Sys2Proof/Machine/Inputs.lean ====
section
/-! DEFINITION. DIO, FB, EO, SD and SAR (R102–R173): switch inputs, feedback channels, compare units,
encoder emulation, ΣΔ inputs and analogue inputs. -/
namespace Sys2Proof.Machine

/-- `count` revolutions of `cpr` counts as a position (R16, R104), rounded to the nearest unit. -/
def posOf (count : Int) (cpr : Nat) : Int :=
  if cpr = 0 then 0 else (count * 2 ^ 33 + cpr) / (2 * cpr : Nat)

/-- A moving sum of `n` numbers over a list. -/
def box (n : Nat) (l : List Nat) : List Nat :=
  (List.range (l.length + 1 - n)).map fun i => ((l.drop i).take n).foldl (· + ·) 0

/-- The sum of a sinc filter of order `o` and length `m` over the newest bits, and the density that it gives (R152). -/
def sincSum (o m : Nat) (bits : List Bool) : Nat :=
  ((List.range o).foldl (fun l _ => box m l) ((bits.take (o * (m - 1) + 1)).map fun b => if b then 1 else 0)).headD 0
def density (o m sum : Nat) : F32 := F32.ofFrac ((2 * sum : Nat) - (m ^ o : Nat)) (m ^ o)

/-- A 48-bit count wraps at ±2^47 (R104). -/
def wrap48 (v : Int) : Int := (v + 2 ^ 47) % (2 ^ 48 : Nat) - 2 ^ 47

namespace State

def dioX (s : State) (n : Nat) : DioX := s.diox.find {} n
def setDioX (s : State) (n : Nat) (x : DioX) : State := { s with diox := s.diox.put {} n x }
def fbX (s : State) (n : Nat) : FbX := s.fbx.find {} n
def setFbX (s : State) (n : Nat) (x : FbX) : State := { s with fbx := s.fbx.put {} n x }
def cmpX (s : State) (c : Nat) : CmpX := s.cmpx.find {} c
def setCmpX (s : State) (c : Nat) (x : CmpX) : State := { s with cmpx := s.cmpx.put {} c x }
def eoX (s : State) (e : Nat) : EoX := s.eox.find {} e
def setEoX (s : State) (e : Nat) (x : EoX) : State := { s with eox := s.eox.put {} e x }
def sdX (s : State) (k : Nat) : SdX := s.sdx.find {} k
def setSdX (s : State) (k : Nat) (x : SdX) : State := { s with sdx := s.sdx.put {} k x }

/-- The axes that bind a feedback channel: FBPOS, FBSPD, or FBANG of one of their machines. -/
def axesOfFb (s : State) (n : Nat) : List Nat :=
  (List.range 16).filter fun x => s.g AXIS.FBPOS x == n || s.g AXIS.FBSPD x == n
    || (s.machsOf x).any fun m => s.g MACH.FBANG m == n

/-- The axes that bind a DIO input: as their home, registration, lay or brake input, or as a limit switch. -/
def axesOfDio (s : State) (n : Nat) : List Nat :=
  (List.range 16).filter fun x => [PROF.HDIO, PROF.REGDIO, PROF.LAYDIO, PROF.BRKIN, PROF.LIMP, PROF.LIMN].any fun m => s.g m x == n

/-- The axes whose machine or converter binds a ΣΔ input. -/
def axesOfSd (s : State) (k : Nat) : List Nat :=
  let ms := (List.range 32).filter fun m => s.g MACH.SDU m == k || s.g MACH.SDV m == k || s.g MACH.SDW m == k || s.g MACH.SDDC m == k
  let cs := (s.convs.filter fun c => s.g CONV.SDDC c == k || (s.convArms c).any fun a => s.g ARM.SDI a == k).map fun c => s.n CONV.MACH c
  ((ms ++ cs).map s.axisOfMach).filter (· < 16) |>.eraseDups

def inputFault (s : State) (code inst cls : Nat) (axes : List Nat) : State :=
  s.alarm code inst (34 :: axes.map (16 + ·)) 0 cls

/-- The timebase cycle of the last mark since REFOK, and the present one. -/
def markCycle (s : State) : Nat := s.tb.cycles

/-! ### Positions and offsets (R104, R129, R130) -/

def cprOf (s : State) (n : Nat) : Nat := if s.g FB.MODE n = 1 then 2 ^ (s.n FB.ST n) else s.n FB.CPR n
/-- The raw position of channel `n` as latched for the mark. -/
def rawPos (s : State) (n : Nat) : Int := posOf (s.fbX n).lat (s.cprOf n)

/-- The channel whose counts channel `n` serves: itself, or its fallback; and the offset that it adds. -/
def fbSource (s : State) (n : Nat) : Nat := if s.g FB.SEL n = 1 then s.n FB.FBKCH n else n
def fbOffset (s : State) (n : Nat) : Int := if s.g FB.SEL n = 1 then (s.fbX n).fbo.getD 0 else (s.fbX n).off

/-- The channel serves a position that follows its counts: OK or FALLBACK (R744). -/
def fbServes (s : State) (n : Nat) : Bool := s.g FB.STATE n = 2 || s.g FB.STATE n = 3

/-- The channels that follow the counts of channel `n`: itself, or those that it serves as the fallback. -/
def fbFollowers (s : State) (n : Nat) : List Nat := (List.range 16).filter fun p => s.fbServes p && s.fbSource p == n

/-- Channel `n` serves another as the fallback, and so has none of its own (R130). -/
def fbIsFallback (s : State) (n : Nat) : Bool := (List.range 16).any fun p => p != n && s.g FB.SEL p = 1 && s.n FB.FBKCH p == n

/-! ### Position latches (R135) -/

/-- The count of a channel at a timestamp in half ns. -/
def countAt (s : State) (n : Nat) (t : Int) : Int :=
  match (s.fbX n).hist.find? fun e => decide (e.t ≤ t) with
  | some e => e.c
  | none => (s.fbX n).c0

/-- The count that a channel held at the end of cycle `c`: an edge enters it FILT after its timestamp (R115). -/
def countIn (s : State) (n c : Nat) : Int :=
  match (s.fbX n).hist.find? fun e => decide (e.acc ≤ c) with
  | some e => e.c
  | none => (s.fbX n).c0

def latchTo (s : State) (n : Nat) (p : Int) (t : Nat) : State :=
  let s := if s.g DIO.LATCHNEW n = 1 then s.inc DIO.LATCHOVR n else s
  let s := ((s.put DIO.LATCHPOS n p).put DIO.LATCHT n t).put DIO.LATCHNEW n 1
  let s := s.setDioX n { s.dioX n with latchN := (s.dioX n).latchN + 1, latchI := (s.fbX (s.n DIO.LATCHCH n)).idxN }
  (s.axesOfFb (s.n DIO.LATCHCH n)).foldl State.raiseAxis s

/-- An accepted edge of DIO `n`, with timestamp `t`, latches its channel's served position: from the counts that the
channel follows; where those are of SSI words the latch waits for the word after the timestamp, and a channel that
serves no counts gives the position that it holds. -/
def dioLatch (s : State) (n : Nat) (rising : Bool) (t : Nat) : State :=
  let c := s.n DIO.LATCHCH n
  let e := s.n DIO.LATCHEDGE n
  let q := s.fbSource c
  if c ≥ 16 || !(if rising then bit e 0 else bit e 1) || s.g FB.MODE c = 0 then s
  else if !s.fbServes c then s.latchTo n (s.g FB.POS c) t
  else if s.g FB.MODE q = 1 then s.setDioX n { s.dioX n with latch := (s.dioX n).latch ++ [t] }
  else s.latchTo n (posOf (s.countAt q (t * 5)) (s.n FB.CPR q) + s.fbOffset c) t

/-- The position at timestamp `t` (half ns) between the two words that bracket it; before the oldest word kept, that
word's. -/
def sampAt : List (Int × Int) → Int → Int
  | [], _ => 0
  | [(_, p)], _ => p
  | (t1, p1) :: (t0, p0) :: r, t =>
    if t0 ≤ t then (if t1 = t0 then p1 else p0 + (p1 - p0) * (t - t0) / (t1 - t0)) else sampAt ((t0, p0) :: r) t

/-- The latches that the newest word of channel `c` brackets (R135). -/
def ssiLatches (s : State) (c : Nat) : State :=
  match (s.fbX c).samp with
  | [] => s
  | (t1, p1) :: r =>
    (List.range 32).foldl (fun s n =>
      let ch := s.n DIO.LATCHCH n
      if ch ≥ 16 || s.fbSource ch != c then s
      else
        let due := (s.dioX n).latch.filter fun (t : Nat) => decide ((t : Int) * 5 ≤ t1)
        let s := s.setDioX n { s.dioX n with latch := (s.dioX n).latch.filter fun (t : Nat) => decide (t1 < (t : Int) * 5) }
        due.foldl (fun s (t : Nat) => s.latchTo n (sampAt ((t1, p1) :: r) ((t : Int) * 5) + s.fbOffset ch) t) s) s

/-! ### DIO inputs (R116–R120) -/

/-- Input `n` is faulted with `code`: held, VALID 0 (R119). -/
def dioFaulted (s : State) (n code : Nat) : State :=
  if s.g DIO.VALID n = 0 then s
  else ((s.put DIO.VALID n 0).setDioX n { s.dioX n with wait := none }).inputFault code n 15 (s.axesOfDio n)

/-- Rejected pulses of input `n` are counted, and fault it at GLITCHMAX. -/
def dioGlitches (s : State) (n k : Nat) : State :=
  let x := s.dioX n
  let s := s.setDioX n { x with glitch := x.glitch + k }
  if x.glitch + k ≥ s.n DIO.GLITCHMAX n && k > 0 then s.dioFaulted n 0x3301 else s

/-- Level `v` of input `n` takes effect in cycle `c`, as an edge with timestamp `t`. -/
def dioAccept (s : State) (n : Nat) (v : Bool) (t c : Nat) : State :=
  ((s.putB DIO.STATE n v).setDioX n { s.dioX n with lastT := some c, wait := none }).dioLatch n v t

/-- A change that came within MINSP takes effect when MINSP has elapsed by cycle `c`, the pin still being at the new
level (R118). -/
def dioDue (s : State) (n c : Nat) : State :=
  match (s.dioX n).wait with
  | some (d, t) => if d ≤ c then s.dioAccept n (s.dioX n).pin t d else s
  | none => s

/-- DIO_EDGE: level `v` has held for FILT; it first appeared at cycle `t`, and `k` shorter pulses were
rejected before it. Settled within MINSP of the last accepted edge it is a spacing fault (R118), and waits. -/
def dioEdge (s : State) (n : Nat) (v : Bool) (t k : Nat) : State :=
  if s.g DIO.FUNC n = 1 || s.g DIO.FUNC n = 3 then s else
    let s := s.dioGlitches n k
    let c := t + s.n DIO.FILT n * 2 / 5
    let s := s.dioDue n c
    let s := s.setDioX n { s.dioX n with pin := v, wait := none }
    let x := s.dioX n
    let gap := (s.n DIO.MINSP n * 2 + 4) / 5
    match x.lastT.filter fun l => decide (c < l + gap) with
    | some l =>
      let s := s.setDioX n { x with space := x.space + 1,
                                    wait := if s.g DIO.VALID n = 0 || s.b DIO.STATE n = v then none else some (l + gap, t) }
      if x.space + 1 ≥ s.n DIO.SPACEMAX n then s.dioFaulted n 0x3302 else s
    | none => if s.g DIO.VALID n = 0 || s.b DIO.STATE n = v then s else s.dioAccept n v t c

/-- A DIO input reports its active level and is valid. -/
def dioActive (s : State) (n : Nat) : Bool := n < 32 && s.b DIO.VALID n && s.b DIO.STATE n == (s.g DIO.POL n == 0)

/-- DIO_WINDOW_END (R118): the 1 s windows of every input end. An input that was cleared while its count stands at the
limit is faulted again (R119, R120). -/
def dioWindowEnd (s : State) : State :=
  (s.diox.map (·.1)).foldl (fun s n =>
    let x := s.dioX n
    let s := if s.n DIO.GLITCHMAX n ≤ x.glitch then s.dioFaulted n 0x3301
      else if s.n DIO.SPACEMAX n ≤ x.space then s.dioFaulted n 0x3302 else s
    s.setDioX n { s.dioX n with glitch := 0, space := 0 }) s

/-- DIO_STUCK (R120): active for longer than MAXACT. -/
def dioStuck (s : State) (n : Nat) : State :=
  if s.g DIO.MAXACT n = 0 || !s.dioActive n || s.g DIO.FUNC n = 1 then s else s.dioFaulted n 0x3303

/-- A write of DIO CLEAR = 1 ends the hold: the logical state is the pin's again (R119). The level that the pin came to
meanwhile is no edge that latches: its timestamp is not kept (DESIGN CHOICE, log entry 43). -/
def dioClear (s : State) (n : Nat) : Status × State :=
  (.ok, if s.g DIO.VALID n = 0 then ((s.put DIO.VALID n 1).putB DIO.STATE n (s.dioX n).pin).clearFault 15 n else s.clearFault 15 n)

/-! ### Compare units (R137–R139) -/

/-- A served position of channel `n` is tested by the units that watch it. After a hit with a CMPSTEP of 0 the unit is
off until CMPPOS, CMPSTEP or SRC is written (DESIGN CHOICE, log entry 43: the spec names no way back). -/
def compareTest (s : State) (n : Nat) (p : Int) : State :=
  (List.range 4).foldl (fun s c =>
    if s.g CMPU.SRC c != n then s else
      let x := s.cmpX c
      let q := x.last
      let at' := s.g CMPU.CMPPOS c
      let st := s.g CMPU.CMPSTEP c
      let up := decide (q < at') && decide (at' ≤ p)
      let dn := decide (p ≤ at') && decide (at' < q)
      let d := s.g CMPU.CMPDIR c
      let hit := !x.off && ((up && d != 2) || (dn && d != 1))
      if !hit then s.setCmpX c { x with last := p } else
        let k : Int := if up && st > 0 then (p - at') / st + 1 else if dn && st < 0 then (at' - p) / (-st) + 1 else 1
        let s := s.put CMPU.HITS c ((s.g CMPU.HITS c + k) % (2 ^ 32 : Nat))
        let s := s.put CMPU.CMPPOS c (at' + k * st)
        let o := s.n CMPU.OUTDIO c
        let out := o < 32 && s.g DIO.FUNC o = 3
        let s := if out then { s with dioOut := s.dioOut.put false o true } else s
        let s := if x.told then s else s.raise (52 + c)
        s.setCmpX c { x with last := p, off := decide (st = 0), pulse := out, told := true }) s

/-- The channels that follow the counts of channel `n` are tested at the raw position `p`; `own` is the position that
`n` itself serves. -/
def compareAll (s : State) (n : Nat) (p own : Int) : State :=
  (s.fbFollowers n).foldl (fun s q => s.compareTest q (if q = n then own else p + s.fbOffset q)) s

/-- A shift of the served position is no crossing (R133). -/
def compareShift (s : State) (n : Nat) (p : Int) : State :=
  (List.range 4).foldl (fun s c => if s.g CMPU.SRC c = n then s.setCmpX c { s.cmpX c with last := p } else s) s

/-- Unit `c` watches its channel from the position that it serves now. -/
def compareFrom (s : State) (c : Nat) : State :=
  let n := s.n CMPU.SRC c
  s.setCmpX c { s.cmpX c with off := false, last := if n < 16 then s.g FB.POS n else 0 }

/-- COMPARE_PULSE_END (R138). -/
def comparePulseEnd (s : State) (c : Nat) : State :=
  if !(s.cmpX c).pulse then s else
    ({ s with dioOut := s.dioOut.put false (s.n CMPU.OUTDIO c) false }).setCmpX c { s.cmpX c with pulse := false }

/-! ### Loss, freeze and fallback (R126–R131) -/

/-- Every axis that binds the channel enters its feedback-fault stop (R129, R211). -/
def fbAxesStop (s : State) (n : Nat) : State :=
  (s.axesOfFb n).foldl (fun s x =>
    if s.g AXIS.FBPOS x = n || s.g AXIS.FBSPD x = n then s.axisStopReq x 9 0x85 else s) s

/-- Channel `n` is declared lost or frozen: the fault is written, and the switch or the stop is left to `fbSettle`. -/
def fbDeclare (s : State) (n code : Nat) : State :=
  if s.g FB.STATE n = 4 || s.g FB.STATE n = 5 || s.g FB.MODE n = 0 || (s.fbX n).lost.isSome then s
  else (s.setFbX n { s.fbX n with lost := some code }).inputFault code n 12 (s.axesOfFb n)

/-- What a declared channel brings (R129–R131): those that it serves are lost, and it switches to its fallback where
that is OK, was not declared itself, and an offset is recorded; else it stands, lost or frozen. -/
def fbSettle (s : State) (n : Nat) : State :=
  match (s.fbX n).lost with
  | none => s
  | some code =>
    let s := s.setFbX n { s.fbX n with lost := none }
    let mine := s.fbIsFallback n
    let s := (List.range 16).foldl (fun s p =>
      if p != n && s.g FB.SEL p = 1 && s.n FB.FBKCH p = n && s.g FB.STATE p = 3 then
        (s.put FB.STATE p 4).fbAxesStop p else s) s
    let f := s.n FB.FBKCH n
    if s.g FB.STATE n = 3 then s
    else if !mine && f < 16 && s.g FB.STATE f = 2 && (s.fbX f).lost.isNone && (s.fbX n).fbo.isSome then
      ((s.put FB.SEL n 1).put FB.STATE n 3).inputFault 0x3104 n 12 (s.axesOfFb n)
    else (s.put FB.STATE n (if code = 0x3102 then 5 else 4)).fbAxesStop n

/-- One bad result (R126), and one good one. -/
def fbBad (s : State) (n : Nat) : State :=
  let x := s.fbX n
  let s := s.setFbX n { x with bad := x.bad + 1, good := 0 }
  if x.bad + 1 ≥ s.n FB.LOSSN n && (s.g FB.STATE n = 1 || s.g FB.STATE n = 2) then s.fbDeclare n 0x3101 else s
def fbGood (s : State) (n : Nat) : State :=
  let x := s.fbX n
  let s := s.setFbX n { x with bad := 0, good := x.good + 1 }
  if s.g FB.STATE n = 1 then s.put FB.STATE n 2 else s

/-! ### Pulse channels (R113–R117, R132–R134) -/

/-- A counted edge enters the history: entries older than both 11 ms (which every DIO timestamp lies within) and the
window are dropped but for the newest of them. -/
def pushEdge (s : State) (n : Nat) (x : FbX) (e : CntEdge) : FbX :=
  let win : Int := max 22000000 (s.n FB.TWIN n * 2 : Nat)
  let l := e :: x.hist
  { x with count := e.c, hist := l.filter (fun q => e.t ≤ q.t + win) ++ (l.find? fun q => decide (q.t + win < e.t)).toList }

/-- One more index that does not match; IDXESC of them in a row lose the channel (R134). -/
def indexMiss (s : State) (n : Nat) : State :=
  let x := s.fbX n
  let out := s.n FB.IDXESC n != 0 && s.n FB.IDXESC n ≤ x.miss + 1 && !x.esc
  let s := (s.setFbX n { x with miss := x.miss + 1, esc := x.esc || out }).inc FB.IDXMIS n
  if out then ((s.inputFault 0x3202 n 12 (s.axesOfFb n)).fbDeclare n 0x3101).fbSettle n else s

/-- An index with timestamp `t`: latched, compared, and corrected by the policy IDXMODE (R132–R134). Mode 3 corrects at
the first index whether or not that matches. -/
def index (s : State) (n t : Nat) : State :=
  let x := s.fbX n
  if s.g FB.IDXMODE n = 0 || x.stuckZ || (s.b FB.IDXGATE n && !(x.a && x.b)) then s else
    let cpr : Int := s.n FB.CPR n
    let c := s.countAt n (t * 5)
    let s := s.put FB.IDXLAT n c
    -- the nearest count congruent to IDXPOS
    let d := (c - s.g FB.IDXPOS n) % cpr
    let e := if 2 * d ≥ cpr then d - cpr else d
    let md := s.g FB.IDXMODE n
    let miss := s.n FB.IDXTOL n < e.natAbs
    let fix := (md = 2 && miss) || (md = 3 && x.armed)
    let x := { x with idxN := x.idxN + 1, shift := if fix then x.shift - e else x.shift, armed := x.armed && md != 3 }
    if miss then ((s.setFbX n x).put FB.IDXERR n e).indexMiss n
    else s.setFbX n { x with miss := 0, esc := false }

/-- An edge fault (R117). -/
def edgeFault (s : State) (n : Nat) : State :=
  let s := s.inc FB.EDGEFLT n
  let x := s.fbX n
  let s := s.setFbX n { x with edges := x.edges + 1 }
  if s.n FB.EDGEMAX n ≤ x.edges + 1 && !x.edgeBad then
    (s.setFbX n { s.fbX n with edgeBad := true }).inputFault 0x3105 n 12 (s.axesOfFb n)
  else s

/-- An accepted edge follows the last one on its pin within MINSP: a spacing fault (R116, R117). -/
def edgeSpacing (s : State) (n : Nat) (last : Option Nat) (t : Nat) : State :=
  match last with
  | some l => if s.n FB.MINSP n != 0 && t - l < s.n FB.MINSP n then s.edgeFault n else s
  | none => s

/-- What an accepted edge adds to the count (R113): `a` and `b` are the levels after it, `ra` and `rb` tell which pins
have risen, `both` that A and B changed in one cycle, and `pinA` that the edge is A's. -/
def edgeStep (md : Nat) (a b ra rb both pinA : Bool) : Int :=
  match md with
  | 2 => if both then 0 else if pinA then (if a != b then 1 else -1) else (if a == b then 1 else -1)
  | 3 => if ra then (if b then 1 else -1) else 0
  | _ => (if ra then 1 else 0) - (if rb then 1 else 0)

/-- An accepted edge of A or B of a pulse channel, both where they came in one cycle. -/
def countEdge (s : State) (n : Nat) (pinA v both : Bool) (t : Nat) : State :=
  let md := s.n FB.MODE n
  let x := s.fbX n
  let onA := pinA || both
  let onB := !pinA || both
  let a := if pinA then v else if both then !x.a else x.a
  let b := if pinA then (if both then !x.b else x.b) else v
  let s := if onA then s.edgeSpacing n x.lastA t else s
  let s := if onB then s.edgeSpacing n x.lastB t else s
  let y := s.fbX n
  let s := s.setFbX n { y with a := a, b := b, lastA := if onA then some t else y.lastA, lastB := if onB then some t else y.lastB,
                               stuck := y.stuck && a }
  let s := if md = 2 && both then s.edgeFault n else s
  let d := edgeStep md a b (onA && a) (onB && b) both pinA
  let d := if s.b FB.INV n then -d else d
  if d = 0 then s else
    let y := s.fbX n
    let s := s.setFbX n (s.pushEdge n y { t := t * 5, c := wrap48 (y.count + d), acc := t + s.n FB.FILT n })
    let p := posOf (s.fbX n).count (s.n FB.CPR n)
    s.compareAll n p (p + (s.fbX n).off)

/-- FB_EDGE: pin 0 A, 1 B or 2 Z of a channel takes level `v`, first seen at cycle `t`; `both` says
that A and B were accepted in one cycle, and `k` shorter pulses were rejected before. A pin that the mode does not use
keeps its level and has no other effect (R102). -/
def fbEdge (s : State) (n pin : Nat) (v both : Bool) (t k : Nat) : State :=
  if !s.tb.refok then s
  else if s.n FB.MODE n < 2 then
    let x := s.fbX n
    s.setFbX n (if pin = 2 then { x with z := v } else
      { x with a := if pin = 0 then v else if both then !x.a else x.a, b := if pin = 1 then v else if both then !x.b else x.b })
  else
    let s := s.inc FB.GLITCH n 0 k
    if pin = 2 then
      let x := s.fbX n
      let s := (s.edgeSpacing n x.lastZ t)
      let s := s.setFbX n { s.fbX n with z := v, lastZ := some t, stuckZ := (s.fbX n).stuckZ && v }
      if v then s.index n t else s
    else s.countEdge n (pin == 0) v both t

/-- FB_STUCK (R120): the step pin, or the index pin, active for longer than MAXACT. -/
def fbStuck (s : State) (n : Nat) (idx : Bool) : State :=
  let md := s.n FB.MODE n
  if md < 2 || s.g FB.MAXACT n = 0 || (!idx && md != 3) then s else
    let x := s.fbX n
    let s := (s.setFbX n (if idx then { x with stuckZ := true } else { x with stuck := true })).inputFault 0x3106 n 12 (s.axesOfFb n)
    if idx then s.indexMiss n else s

/-! ### SSI channels (R105–R112) -/

/-- The CRC of R108 over message bits, most significant first. -/
def ssiCrc (len poly init : Nat) (msg : List Bool) : Nat :=
  msg.foldl (fun c b =>
    let f := b != bit c (len - 1)
    let c := c * 2 % 2 ^ len
    if f then c ^^^ (poly % 2 ^ len) else c) (init % 2 ^ len)

/-- The bits of `v`, `n` of them, most significant first. -/
def msbBits (v n : Nat) : List Bool := (List.range n).map fun i => bit v (n - 1 - i)

/-- Gray code to binary, over `n` bits. -/
def gray (v : Nat) : Nat → Nat
  | 0 => v
  | n + 1 => gray (v ^^^ (v / 2 ^ (2 ^ n))) n

/-- The level of FBnC between requests (R102, R691): idle high in SSI mode, low else. -/
def fbClock (s : State) (n : Nat) : Bool := s.g FB.MODE n = 1 && s.n POWER.PSTATE < 4

def ssiBits (s : State) (n : Nat) : Nat := s.n FB.LEAD n + s.n FB.MT n + s.n FB.ST n + s.n FB.STAT n + s.n FB.CRCLEN n

/-- The word of a mark comes after it: consumers of channel `n` wait for it (R112). -/
def ssiLate (s : State) (n : Nat) : Bool :=
  decide (s.n FB.ADV n < (s.ssiBits n + 1) * s.n FB.SSIDIV n + s.n FB.SAMPDLY n)

/-- The outcome of an SSI transfer (R739): 0 good, 1 no response, 2 CRC error, 3 bad frame. -/
def ssiOutcome (s : State) (n k : Nat) : State := s.setFbX n { s.fbX n with outc := k }

/-- The mark that comes next, in timebase cycles. -/
def nextMark (s : State) : Nat := if s.tb.first then s.markCycle else s.markCycle + s.twCyc

/-- The MT and ST field of a word, and the count that it gives (R107, R110). -/
def ssiField (s : State) (n w : Nat) : Nat :=
  let ps := bits w (s.n FB.CRCLEN n + s.n FB.STAT n) (s.n FB.MT n + s.n FB.ST n)
  if s.b FB.GRAY n then gray ps 6 else ps
def ssiCount (s : State) (n ps : Nat) : Int :=
  let mt := s.n FB.MT n; let st := s.n FB.ST n
  let span := 2 ^ (mt + st)
  let x := s.fbX n
  let neg := s.b FB.INV n
  match x.word with
  | some old =>
    let d : Int := ((ps : Int) - old) % (span : Nat)
    let d := if 2 * d ≥ (span : Nat) then d - (span : Nat) else d
    wrap48 (x.count + if neg then -d else d)
  | none =>
    let m : Int := ps / 2 ^ st
    let m := if s.b FB.MTSIGN n && mt > 0 && 2 * m ≥ (2 ^ mt : Nat) then m - (2 ^ mt : Nat) else m
    let c := m * (2 ^ st : Nat) + (ps % 2 ^ st : Nat)
    wrap48 (if neg then -c else c)

/-- The outcome of a word (R109), in the order of its table, as FB.STATnn codes it; `low` where the data line was low at
the request. -/
def ssiClass (s : State) (n : Nat) (low : Bool) (w : Nat) : Nat :=
  let lead := s.n FB.LEAD n; let stat := s.n FB.STAT n; let cl := s.n FB.CRCLEN n
  let body := s.n FB.MT n + s.n FB.ST n + stat
  let total := s.ssiBits n
  let x := s.fbX n
  let crcBad := cl != 0 &&
    (ssiCrc cl (s.n FB.CRCPOLY n) (s.n FB.CRCINIT n) (msbBits (bits w cl body) body) ^^^ (s.n FB.CRCXOR n % 2 ^ cl)) != w % 2 ^ cl
  let sb := bits w cl stat
  let statBad := (List.range stat).any fun i => bit (s.n FB.STATERR n) i && bit sb i != bit (s.n FB.STATLOW n) i
  let jump := x.word.isSome && s.n FB.JUMPMAX n != 0 &&
    s.n FB.JUMPMAX n < (s.ssiCount n (s.ssiField n w) - x.count).natAbs
  if low || w = 2 ^ total - 1 then 1
  else if crcBad then 2
  else if bits w (total - lead) lead != s.n FB.LEADVAL n % 2 ^ lead || statBad || jump then 3 else 0

/-- The position that the good word `cnt` of channel `n` serves (R111): with AGECOMP that at the mark, by the served
speed. DESIGN CHOICE (log entry 43): the served speed of R111 is SPEED, as the last mark left it. -/
def ssiServe (s : State) (n : Nat) (age : Int) : State :=
  let p := s.rawPos n + (s.fbX n).off
  let c := (s.f FB.SPEED n).mul (F32.ofFrac age 2000000000)
  s.put FB.POS n (if s.b FB.AGECOMP n then p + (c.div (F32.ofInt (s.cprOf n))).floorMul (2 ^ 32) else p)

/-- A good word of channel `n` with the field `ps` (R110, R111, R126). -/
def ssiGood (s : State) (n ps : Nat) (late : Bool) : State :=
  let x := s.fbX n
  let cnt := s.ssiCount n ps
  let mk := if late then s.markCycle else s.nextMark
  let age : Int := (s.n FB.ADV n : Int) * 5 - (s.n FB.ENCDLY n : Int) * 2     -- half ns
  let ts : Int := mk * 5 - age
  let x := if x.word.isNone then { x with count := cnt, c0 := cnt, hist := [] }
    else if cnt = x.count then x else s.pushEdge n x { t := ts, c := cnt, acc := mk }
  let x := { x with word := some ps, lat := cnt, outc := 0, samp := (ts, posOf cnt (s.cprOf n)) :: x.samp.filter fun e => ts ≤ e.1 + 22000000 }
  let s := ((s.setFbX n x).putF FB.AGE n (F32.ofFrac age 2000)).fbGood n
  let s := if s.g FB.SEL n = 0 && s.g FB.STATE n = 2 then s.ssiServe n age else s
  (s.ssiLatches n).compareAll n (s.rawPos n) (s.g FB.POS n)

/-- SSI_TRANSFER_DONE (R109): the word of the mark that its request was made for: the next one, or the present one
where consumers wait for it (R105, R111, R112). The SSI clocks stand below HOVER (R660). -/
def ssiDone (s : State) (n : Nat) (low : Bool) (word : Nat) : State :=
  if s.g FB.MODE n != 1 || !s.tb.refok || 2 ≤ s.n POWER.PSTATE then s else
    let w := word % 2 ^ s.ssiBits n
    let k := s.ssiClass n low w
    let x := s.fbX n
    let late := x.wait
    let got := some (k == 0)
    let s := s.setFbX n (if late then { x with wait := false, cur := got } else { x with got := got })
    match k with
    | 0 => s.ssiGood n (s.ssiField n w) late
    | 1 => ((s.inc FB.NORESP n).ssiOutcome n 1).fbBad n
    | 2 => ((s.inc FB.CRCERR n).ssiOutcome n 2).fbBad n
    | _ => ((s.inc FB.BADFRM n).ssiOutcome n 3).fbBad n

/-! ### The mark (R114, R121, R126–R130, R133) -/

/-- The speed estimate at the mark (R121), in counts/s; `now` is the mark's timebase cycle. -/
def estimate (s : State) (n now : Nat) : F32 :=
  let x := s.fbX n
  let tss : Int := (s.n FB.TSS n * 2000 : Nat)
  match x.hist with
  | [] => F32.zero
  | e :: rest =>
    let elapsed : Int := (now : Int) * 5 - e.t
    if elapsed ≥ tss then F32.zero else
      let win : Int := (s.n FB.TWIN n * 2 : Nat)
      let (dt, cr) := match rest.find? fun q => decide (q.t + win ≤ e.t) with
        | some q => (min (e.t - q.t) tss, q.c)
        | none => (tss, x.c0)
      let v := F32.ofFrac ((e.c - cr) * 2000000000) dt.toNat
      if elapsed > 0 then
        let cap := F32.ofFrac 2000000000 elapsed.toNat
        if cap.lt v.abs then (if v.neg? then cap.neg else cap) else v
      else v

/-- The channel as the mark at cycle `now` finds it: a new block of edge faults (R117), the latched count of a pulse
channel (R114, R115), and the word of an SSI channel: come, or waited for (R112). -/
def markLatch (s : State) (n now : Nat) : FbX :=
  let x := s.fbX n
  let x := if s.wb % 1024 = 0 then { x with edges := 0, edgeBad := false } else x
  let x := { x with cur := x.got, got := none, todo := 1, dlt := 0 }
  if s.g FB.MODE n != 1 then { x with lat := s.countIn n (now - s.n FB.ADV n) }
  else { x with wait := x.cur.isNone && s.ssiLate n }

/-- The counts of a channel, shifted by its index correction (R133). -/
def fbShifted (x : FbX) : FbX :=
  if x.shift = 0 then x else
    { x with count := wrap48 (x.count + x.shift), lat := wrap48 (x.lat + x.shift), c0 := x.c0 + x.shift, shift := 0,
             hist := x.hist.map fun e => { e with c := wrap48 (e.c + x.shift) } }

/-- The served position of channel `n` advanced by its served speed over one wingbeat (R111). -/
def advanced (s : State) (n : Nat) : Int :=
  s.g FB.POS n + (((s.f FB.SPEED n).mul s.twS).div (F32.ofInt (s.cprOf n))).floorMul (2 ^ 32)

/-- The position that channel `n` serves at this mark from the counts that it follows: advanced by the served speed
where these are of an SSI word that is missing or not good (R111, R131); a good word of its own has been served. -/
def servedNow (s : State) (n : Nat) : Int :=
  let q := s.fbSource n
  if s.g FB.MODE q = 1 && (s.fbX q).cur != some true then s.advanced n
  else if q = n && s.g FB.MODE n = 1 then s.g FB.POS n
  else s.rawPos q + s.fbOffset n

/-- POSSET takes effect on the channel `x`, whose index correction was `sh`; its consumers follow the shift
(R278). -/
def markPosset (s : State) (n : Nat) (sh : Int) (x : FbX) : FbX :=
  let raw := posOf x.lat (s.cprOf n)
  let base := if s.g FB.SEL n = 1 then s.servedNow n else raw + x.off
  let dlt := (if sh = 0 then 0 else posOf sh (s.cprOf n)) + (match x.posset with
    | some p => p - base
    | none => 0)
  match x.posset with
  | some p =>
    if s.g FB.SEL n = 1 then { x with fbo := some (p - s.rawPos (s.n FB.FBKCH n)), dlt := dlt }
    else { x with off := p - raw, dlt := dlt }
  | none => { x with dlt := dlt }

/-- An accepted SEL takes effect (R130): back on the primary without a jump of the served position, or on the fallback. -/
def markSel (s : State) (n : Nat) : State :=
  let x := s.fbX n
  match x.selPend with
  | some 0 =>
    if s.g FB.SEL n = 0 then s.setFbX n { x with selPend := none }
    else
      let p := x.posset.getD (s.servedNow n)
      let off := p - s.rawPos n
      ((((s.put FB.SEL n 0).put FB.OFFP n off).put FB.STATE n 2).put FB.POS n p).setFbX n { x with selPend := none, off := off }
  | some _ =>
    (((s.put FB.SEL n 1).put FB.STATE n 3).setFbX n { x with selPend := none }).inputFault 0x3104 n 12 (s.axesOfFb n)
  | none => s

/-- The speed of the channel and its filter. -/
def markSpeed (s : State) (n now : Nat) : State :=
  let v := if s.g FB.STATE n = 1 then F32.zero else
    if s.g FB.SEL n = 1 then
      let f := s.n FB.FBKCH n
      (s.f FB.SPEED f).mul ((F32.ofInt (s.cprOf n)).div (F32.ofInt (s.cprOf f)))
    else s.estimate n now
  let s := s.putF FB.SPEED n v
  let tau := s.n FB.VTAU n
  let y := s.f FB.SPEEDF n
  s.putF FB.SPEEDF n (if tau = 0 || s.g FB.STATE n = 1 then v else y.add ((s.twUs.div (F32.ofInt tau)).mul (v.sub y)))

/-- The offset to the fallback while the primary is good (R128). -/
def markFallback (s : State) (n : Nat) : State :=
  let f := s.n FB.FBKCH n
  let x := s.fbX n
  if s.g FB.STATE n = 2 && x.bad = 0 && x.todo = 0 && f < 16 && s.g FB.STATE f = 2 && (s.fbX f).todo = 0 then
    s.setFbX n { x with fbo := some (s.g FB.POS n - s.rawPos f) } else s

/-- The freeze supervision (R127); `loaded` says that a consumer's command meets its thresholds. -/
def markFreeze (s : State) (n : Nat) (loaded : Bool) : State :=
  let x := s.fbX n
  let still := if x.lat = x.seen && loaded then x.still + 1 else 0
  let s := s.setFbX n { x with still := still, seen := x.lat }
  if still ≥ s.n FB.FRZN n && s.g FB.STATE n = 2 then s.fbDeclare n 0x3102 else s

/-- The results of a pulse channel at the mark. -/
def markResults (s : State) (n : Nat) : State :=
  if s.g FB.MODE n != 1 then (if (s.fbX n).edgeBad || (s.fbX n).stuck then s.fbBad n else s.fbGood n) else s

/-- The first half of a channel's mark: corrections, POSSET and SEL take effect, and its result is in. -/
def fbResult (s : State) (n : Nat) (loaded : Bool) : State :=
  let x := s.fbX n
  let s := s.setFbX n { s.markPosset n x.shift (fbShifted x) with todo := 2 }
  let s := if x.posset.isSome then s.put FB.OFFP n 0 else s
  ((s.markSel n).markResults n).markFreeze n loaded

/-- The second half: the served position, held in LOST, FROZEN and INIT (R129, R744). -/
def fbPlace (s : State) (n : Nat) : State :=
  let x := s.fbX n
  let p := x.posset.getD (if s.fbServes n then s.servedNow n else s.g FB.POS n)
  let s := (s.put FB.POS n p).setFbX n { x with posset := none, todo := 0 }
  if x.dlt = 0 then s else s.compareShift n p

/-! ### Requests of feedback channels (R106, R107, R130, R133, R144, R744) -/

/-- The SSI word and its timing are consistent (R106, R107). -/
def ssiOk (s : State) (n twNs : Nat) : Bool :=
  let b := s.ssiBits n
  decide (8 ≤ b) && decide (b ≤ 48) && decide (s.n FB.MT n + s.n FB.ST n ≤ 47) &&
    decide ((b + 1) * s.n FB.SSIDIV n * 5 + s.n FB.MONO n * 2 ≤ twNs * 2)

/-- The position of channel `n` begins anew: axes on it are no longer homed (R259). -/
def fbUnhomed (s : State) (n : Nat) : State :=
  (List.range 16).foldl (fun s x => if s.g AXIS.FBPOS x = n then s.put PROF.HOMED x 0 else s) s

/-- A write of MODE: 0 takes the channel OFF, another mode enables it into INIT. -/
def fbMode (s : State) (n v : Nat) : Status × State :=
  if v = 0 then (.ok, (s.put FB.MODE n 0).put FB.STATE n 0)
  else if s.g FB.MODE n != 0 then (.busy, s)
  else if s.twFit * 2 ≤ s.n FB.ADV n * 5 || (v = 1 && !s.ssiOk n s.twFit) then (.badValue, s)
  else
    let x := s.fbX n
    let c0 := if v = 1 then x.count else s.g FB.POSINIT n
    let p := if v = 1 then s.g FB.POS n else posOf c0 (s.n FB.CPR n)
    let s := (((s.put FB.MODE n v).put FB.STATE n 1).put FB.SEL n 0).put FB.OFFP n 0
    let s := ((s.put FB.POS n p).put FB.SPEED n 0).put FB.SPEEDF n 0
    let s := s.fbUnhomed n
    (.ok, s.setFbX n { count := c0, c0 := c0, lat := c0, seen := c0, a := x.a, b := x.b, z := x.z })

/-- A write of SEL (R130). -/
def fbSel (s : State) (n v : Nat) : Status × State :=
  let f := s.n FB.FBKCH n
  if v = 0 then
    if (s.fbX n).good < 1000 then (.faultActive, s)
    else (.ok, s.setFbX n { s.fbX n with selPend := some 0 })
  else if s.g FB.SEL n = 1 then (.ok, s)
  else if f ≥ 16 || s.g FB.STATE f != 2 || (s.fbX n).fbo.isNone || s.fbIsFallback n then (.faultActive, s)
  else (.ok, s.setFbX n { s.fbX n with selPend := some 1 })

/-- A write of FB CLEAR = 1 (R144). -/
def fbClear (s : State) (n : Nat) : Status × State :=
  if (s.axesOfFb n).any fun x => s.b AXIS.ENABLE x then (.busy, s)
  else if s.g FB.STATE n = 4 || s.g FB.STATE n = 5 then
    (.ok, ((s.put FB.STATE n 1).setFbX n { s.fbX n with bad := 0, good := 0, still := 0, miss := 0, esc := false }).clearFault 12 n)
  else (.ok, s)

def possetWrite (s : State) (n : Nat) (v : Int) : Status × State := (.ok, s.setFbX n { s.fbX n with posset := some v })
/-- A write of IDXARM: 1 arms a correction, 0 has no effect. -/
def idxarm (s : State) (n v : Nat) : Status × State := (.ok, if v = 1 then s.setFbX n { s.fbX n with armed := true } else s)

/-! ### Encoder emulation (R140–R143) -/

/-- A channel's position in output counts: `per` of them a revolution, negated by INV. -/
def eoCount (s : State) (e : Nat) (p : Int) : Int :=
  (if s.b EO.INV e then -p else p) * (4 * s.n EO.LINES e : Nat) / 2 ^ 32

/-- The counts of (`lo`, `hi`] that stand at the output position INDEXF (R142). -/
def eoZeros (s : State) (e : Nat) (lo hi : Int) : Nat :=
  let per : Int := 4 * s.n EO.LINES e
  let z := s.g EO.INDEXF e * per / 2 ^ 32
  ((hi - z) / per - (lo - z) / per).toNat

/-- Output `e` at the mark: what it emitted in the last wingbeat, and what it is to emit towards the position `p` of its
source, or nothing while that is lost. DESIGN CHOICES (log entry 43): dropped edges move the output count with them, so
that EOeZ follows the source; and a write of SRC, LINES or INV while the output is enabled keeps the count, the
difference in the new unit or sense being emitted from the next mark on. -/
def eoMark (s : State) (e : Nat) (p : Option Int) : State :=
  if !s.b EO.ENABLE e then s else
    let x := s.eoX e
    let per : Int := 4 * s.n EO.LINES e
    let out := x.out + x.emit
    let zs := x.zs + (if 0 ≤ x.emit then s.eoZeros e x.out out else s.eoZeros e (out - 1) (x.out - 1))
    match p with
    | none => s.setEoX e { x with out := out, emit := 0, zs := zs }
    | some p =>
      let want := s.eoCount e p - out
      let room : Int := (s.twNs / 100 : Nat)
      let emit := max (-room) (min room want)
      let left := want - emit
      let drop := if left > per then left - per else if left < -per then left + per else 0
      let s := s.setEoX e { x with out := out + drop, emit := emit, org := x.org + drop, zs := zs }
      if drop = 0 then s else (s.inc EO.SLIP e 0 drop.natAbs).inputFault 0x3401 (20 + e) 12 []

/-- The count is preset when the output is enabled (R142). DESIGN CHOICE (log entry 43): so is that of an output already
enabled, whose carried edges are forgotten. -/
def eoEnable (s : State) (e : Nat) (v : Nat) (p : Int) : State :=
  let s := s.put EO.ENABLE e v
  if v = 0 then s.setEoX e {} else s.setEoX e { out := s.eoCount e p, org := s.eoCount e p }

/-- The levels of EOeA, EOeB and EOeZ as the last mark left them (R142, R143, R691): low until enabled and in COCOON and
DIAPAUSE, A leading B as the count rises, Z at the count of INDEXF. -/
def eoPins (s : State) (e : Nat) : Bool × Bool × Bool :=
  if !s.b EO.ENABLE e || 4 ≤ s.n POWER.PSTATE then (false, false, false)
  else
    let x := s.eoX e
    let q := (x.out - x.org) % 4
    (q == 1 || q == 2, q == 2 || q == 3, s.eoZeros e (x.out - 1) x.out == 1)

/-! ### ΣΔ inputs (R150–R164) -/

/-- The level of clock pin SDCc in timebase cycle `t` (R150, R660, R691): its high phase takes the larger half of DIV. -/
def sdClock (s : State) (c t : Nat) : Bool :=
  let d := s.n SDCLK.DIV c
  s.b SDCLK.ENABLE c && s.tb.refok && !s.tb.divDue && s.n POWER.PSTATE < 2 && (t - s.tb.div0) % d < (d + 1) / 2

/-- The modulator of input `k` is clocked, and its bits are taken. -/
def sdRuns (s : State) (k : Nat) : Bool :=
  s.b SD.ENABLE k && s.b SDCLK.ENABLE (s.n SD.CLK k) && s.tb.refok && s.n POWER.PSTATE < 2

/-- The engineering value of density `d` (R153). -/
def sdValue (s : State) (k : Nat) (d : F32) : F32 := ((s.f SD.SCALE k).mul (s.f SD.GCOR k)).mul (d.sub (s.f SD.OFFS k))

/-- The density that a trip value converts to (R154). -/
def tripDensity (s : State) (k : Nat) (v : F32) : F32 := (v.div ((s.f SD.SCALE k).mul (s.f SD.GCOR k))).add (s.f SD.OFFS k)

/-- Trip levels that a change since `z` raises act as assertions, and those that it lowers as releases (R154, R359). -/
def tripMoved (z s : State) : State :=
  let up := (List.range 16).filter fun n => !z.tripLevel n && s.tripLevel n
  let dn := (List.range 16).filter fun n => z.tripLevel n && !s.tripLevel n
  dn.foldl (fun s n => s.tripFree (s.tripMask n)) (up.foldl State.tripAssert s)

/-- The comparator of input `k` asserts: 0x3503, and the trip input (R154). -/
def sdAssert (s : State) (k : Nat) : State :=
  s.tripMoved ({ s with sdTrip := s.sdTrip ++ [k] }.inputFault 0x3503 k 13 [])

/-- It releases. -/
def sdRelease (s : State) (k : Nat) : State := s.tripMoved { s with sdTrip := s.sdTrip.filter (· != k) }

/-- The trip filter at a clock edge (R152, R154), once its window is full: TRIPCNT periods in a row beyond the upper, or
the lower, trip density assert the comparator, and as many within both release it. With a negative SCALE the density of
TRIPLO is the upper one (DEDUCED, log entry 48). -/
def sdCompare (s : State) (k : Nat) : State :=
  let x := s.sdX k
  let mt := s.n SD.MT k
  if x.bits.length < 2 * mt then s
  else
    let d := density 2 mt (sincSum 2 mt x.bits)
    let high := (x.hi.max x.lo).lt d
    let low := d.lt (x.hi.min x.lo)
    let y := { x with td := d, above := if high then x.above + 1 else 0, below := if low then x.below + 1 else 0,
                      inside := if high || low then 0 else x.inside + 1 }
    let s := s.setSdX k y
    let n := s.n SD.TRIPCNT k
    if s.sdTrip.contains k then (if n ≤ y.inside then s.sdRelease k else s)
    else if n ≤ y.above || n ≤ y.below then s.sdAssert k else s

/-- RUNMAX identical bits: the input is lost (R159, R440), its VALUE that of the last latch before the run began. -/
def sdLost (s : State) (k : Nat) : State :=
  if !s.b SD.ENABLE k || s.g SD.STATE k = 3 then s else
    let z := s
    let s := ((s.put SD.STATE k 3).put SD.VALUE k (s.sdX k).held).setSdX k { s.sdX k with clean := 0 }
    let s := z.tripMoved (s.inputFault 0x3501 k 13 (s.axesOfSd k))
    s.convs.foldl (fun s c =>
      if s.n CONV.SDDC c = k || (s.convArms c).any fun a => s.g ARM.SDI a == k then s.convFault c true else s) s

/-- One bit of input `k` (R152, R154, R159, R161). -/
def sdBit (s : State) (k : Nat) (b : Bool) : State :=
  let x := s.sdX k
  let same := x.bits.head? = some b
  let run := if same then x.run + 1 else 1
  let max' := s.n SD.RUNMAX k
  let s := s.setSdX k { x with bits := (b :: x.bits).take 776, cnt := min 776 (x.cnt + 1), run := run,
                               held := if same then x.held else s.g SD.VALUE k,
                               clean := if max' ≤ run then 0 else min 1024 (x.clean + 1) }
  let s := s.sdCompare k
  if max' ≤ run then s.sdLost k else s

/-- The bits of an input up to the one sampled in cycle `q.t`: each belongs to the rising edge SAMPDLY before its
sample (R151). -/
def sdTake (s : State) (q : SdBits) : State :=
  if 48 ≤ q.k || !s.sdRuns q.k then s
  else
    let s := q.bits.foldl (fun s b => s.sdBit q.k b) s
    s.setSdX q.k { s.sdX q.k with edge := q.t - s.n SD.SAMPDLY q.k }

/-- The bits of input `k` whose edges come after cycle `t`. -/
def sdAhead (s : State) (k t : Nat) : Nat :=
  let d := s.n SDCLK.DIV (s.n SD.CLK k)
  ((s.sdX k).edge - t + d - 1) / d

/-- The latch of input `k` at cycle `t` (R152, R157, R160), once the control filter's window is full: over the bits that
end at the last clock edge at or before `t`. Over-range is reported once while it lasts. -/
def sdLatch (s : State) (k t : Nat) (half : Bool) : State :=
  let x := s.sdX k
  let mc := s.n SD.MC k
  let skip := s.sdAhead k t
  if !s.sdRuns k || s.g SD.STATE k = 3 || x.cnt < 3 * mc + skip then s
  else
    let d := s.n SDCLK.DIV (s.n SD.CLK k)
    let sum := sincSum 3 mc (x.bits.drop skip)
    let den := density 3 mc sum
    let v := s.sdValue k den
    let s := (s.putF SD.VALUE k v).put SD.STATE k 2
    let clip := if den.abs.lt (s.f SD.CLIPD k) then 0 else x.clip + 1
    let out := s.n SD.CLIPN k ≤ clip
    let dl := ((t - s.tb.div0) % d :: x.delays).take 1024
    let grp := 3 * (mc - 1) * d                     -- half cycles
    let mean := F32.ofFrac ((2 * dl.foldl (· + ·) 0 + grp * dl.length) * 5 : Nat) (4 * dl.length)
    let s := (s.putF SD.DELAY k mean).setSdX k
      { x with mark := if half then x.mark else v, clip := clip, clipTold := out, delays := dl, sums := (sum :: x.sums).take 4096,
               capN := if (x.quiet : Nat) < 5000000 then 0 else min 4096 (x.capN + 1) }
    if out && !x.clipTold then s.inputFault 0x3502 k 13 [] else s

/-- Every gate channel of what input `k` measures is off, or every cell bypassed (R163). -/
def sdGatesOff (s : State) (k : Nat) : Bool :=
  let ms := (List.range 32).filter fun m => s.g MACH.SDU m == k || s.g MACH.SDV m == k || s.g MACH.SDW m == k || s.g MACH.SDDC m == k
  ms.all (fun m => match s.stageOfMach m with
    | some i => (legsOf i).all fun l => !(s.leg l).hi.cmd && !(s.leg l).lo.cmd
    | none => true) &&
  s.convs.all fun c => !(s.g CONV.SDDC c == k || (s.convArms c).any (fun a => s.g ARM.SDI a == k) || ms.any fun m => s.n CONV.MACH c == m) ||
    (let cmds := (s.convArms c).flatMap fun a => (List.range (s.n ARM.NCELL a)).map fun i => s.g CELL.CMD (64 * a + i)
     cmds.all (· == 0) || cmds.all (· == 1))

/-- What the mark brings an enabled input: trip densities (R154), the restart of a cleared one (R161), TVALUE, and how
long its gates have been off (R163). -/
def sdMark (s : State) (k : Nat) : State :=
  let z := s
  let x := s.sdX k
  let s := s.setSdX k { x with hi := s.tripDensity k (s.f SD.TRIPHI k), lo := s.tripDensity k (s.f SD.TRIPLO k), clrPend := false,
                               cnt := if x.clrPend then 0 else x.cnt,
                               quiet := if s.sdGatesOff k then min 5000000 (x.quiet + s.twNs) else 0 }
  let s := s.putF SD.TVALUE k (s.sdValue k x.td)
  if x.clrPend then z.tripMoved (s.put SD.STATE k 2) else s

/-- SD_TRIP (R154): the bits with which the trip filter has stayed beyond a trip density. -/
def sdTripOn (s : State) (q : SdBits) : State := s.sdTake q

/-- SD_LOST (R159): the bits that complete a run of RUNMAX. -/
def sdRunOut (s : State) (q : SdBits) : State := s.sdTake q

/-- A write of SD CLEAR = 1 (R161). -/
def sdClear (s : State) (k : Nat) : Status × State :=
  if s.g SD.STATE k != 3 then (.ok, s)
  else if (s.sdX k).clean < 1024 then (.faultActive, s)
  else (.ok, (s.setSdX k { s.sdX k with clrPend := true }).clearFault 13 k)

/-- The mean density of the latches in `l` (R163, R164). -/
def sdMean (s : State) (k : Nat) (l : List Nat) : F32 :=
  let p := s.n SD.MC k ^ 3
  F32.ofFrac ((2 * l.foldl (· + ·) 0 : Nat) - (p * l.length : Nat)) (p * l.length)

/-- OFFSET_CAPTURE (R163, R587): 4,096 latches have come with the gates off, and no capture within ZEROPER before. -/
def offsetCapture (s : State) (k : Nat) : State :=
  let x := s.sdX k
  let soon := x.capAt.any fun c => c ≤ s.tb.cycles && s.tb.cycles - c < s.n ASSAY.ZEROPER * 400000000
  if !s.b SD.ENABLE k || !s.b SD.ZEROCAP k || x.capN < 4096 || !s.sdGatesOff k || s.g SD.STATE k != 2 || s.g THERM.STEP ≥ 1 || soon
  then s
  else
    let mean := s.sdMean k x.sums
    let s := s.setSdX k { x with capN := 0, capAt := some s.tb.cycles }
    if mean.abs.le (F32.ofFrac 5 100) then
      { (s.putF SD.OFFS k mean) with mram := { s.mram with sdOffs := s.mram.sdOffs.put 0 k mean.toBits } }
    else (s.inputFault 0x3504 k 13 []).alarm 0x7502 2 [38] 0 0x1D

/-- The control-filter sums `l`, newest first, that input `k` has latched between a write of GAINREF and its answer
(R164). -/
def sdMore (s : State) (k : Nat) (l : List Nat) : State :=
  if l.isEmpty || 48 ≤ k || !s.sdRuns k then s
  else s.setSdX k { s.sdX k with sums := (l.map (min (s.n SD.MC k ^ 3)) ++ (s.sdX k).sums).take 4096 }

/-- A write of GAINREF (R164), by the mean over the input's last 4,096 latches; a gain outside its limit is discarded, with
0x7502 (R587). DESIGN CHOICES (log entry 43): an input that has made fewer latches answers by those, and one that has made
none with BAD_VALUE. -/
def gainref (s : State) (k : Nat) (v : F32) : Status × State :=
  let l := (s.sdX k).sums
  let gc := v.div ((s.f SD.SCALE k).mul ((s.sdMean k l).sub (s.f SD.OFFS k)))
  if !l.isEmpty && (F32.ofFrac 9 10).le gc && gc.le (F32.ofFrac 11 10) then (.ok, s.putF SD.GCOR k gc)
  else (.badValue, if l.isEmpty then s else s.alarm 0x7502 3 [38] 0 0x1D)

/-! ### Analogue inputs (R165–R168) -/

/-- The state of input `n` once its results outside and inside the limits stand as `x` says (R168). -/
def ainState (s : State) (n : Nat) (x : AinX) : State :=
  let s := { s with ainx := s.ainx.put {} n x }
  let rn := s.n AIN.RANGEN n
  if s.g AIN.STATE n = 4 then (if x.ins ≥ rn then s.put AIN.STATE n 2 else s)
  else if x.out ≥ rn then (s.put AIN.STATE n 4).inputFault 0x3601 n 14 []
  else s.put AIN.STATE n 2

/-- The value of input `n` from a result in volts (R167). A result period longer than TAU takes the whole step: the
spec gives no arithmetic of the low-pass (DESIGN CHOICE, log entry 43). -/
def ainValue (s : State) (n : Nat) (volts : F32) : State :=
  let v := (s.f AIN.GAIN n).mul (volts.sub (s.f AIN.ZERO n))
  let v := if v.abs.le (s.f AIN.DBAND n) then F32.zero else v
  let tau := s.n AIN.TAU n
  let y := s.f AIN.VALUE n
  let dt := (F32.ofInt (s.n AIN.PERIOD n)).mul s.twUs
  s.putF AIN.VALUE n (if tau = 0 then v else y.add (((dt.div (F32.ofInt tau)).min F32.one).mul (v.sub y)))

/-- The inputs due in the wingbeat that begins take its slots in their order, after any still to be converted (R166). -/
def sarMark (s : State) : State :=
  let due := (List.range 8).filter fun n => s.g AIN.PERIOD n != 0 && s.wb % s.n AIN.PERIOD n = 0 && !s.sarDue.contains n
  { s with sarDue := s.sarDue.filter (fun n => s.g AIN.PERIOD n != 0) ++ due }

/-- The result of input `n`, in 1/n of a code of `n` conversions with sum `total`, as volts (R165, R167). -/
def ainVolts (s : State) (total n : Nat) : F32 :=
  F32.ofFrac (((total : Int) - s.sarOff * n) * (65536 + s.sarGain) * 18) (163840 * 65536 * n)

/-- A result of input `n` of `total` over `k` conversions (R166–R168): held from RANGEN results out of range on. -/
def ainResult (s : State) (n total k : Nat) : State :=
  let volts := s.ainVolts total k
  let s := s.putF AIN.VOLTS n volts
  let x := s.ainx.find {} n
  let bad := volts.lt (s.f AIN.LOLIM n) || (s.f AIN.HILIM n).lt volts
  let s := s.ainState n { out := if bad then x.out + 1 else 0, ins := if bad then 0 else x.ins + 1, code := total / k }
  if s.g AIN.STATE n = 4 then s else s.ainValue n volts

/-- AIN_CONVERSION: the codes of the AVG conversions of input `n`, whose turn it is, and the slots skipped (R166). -/
def ainConversion (s : State) (n : Nat) (codes : List Nat) (skips : Nat) : State :=
  if s.sarDue.head? != some n || s.g AIN.PERIOD n = 0 || codes.length != s.n AIN.AVG n || 2 ≤ s.n POWER.PSTATE then s
  else
    let t : State := { s with sarDue := s.sarDue.tail }
    (t.inc AIN.SKIP n 0 skips).ainResult n (codes.foldl (fun k c => k + c % 16384) 0) codes.length

end State
end Sys2Proof.Machine
end

