-- ==== Sys2Proof/Machine/Relay.lean ====
section
/-! DEFINITION. The relay auto-tune inside its loop (R231–R233): the relay, its measurements, and how a tune
ends. What starts and cancels one stands in Tune.lean. -/
namespace Sys2Proof.Machine
namespace State

def loopX (s : State) (n : Nat) : LoopX := s.loopx.find {} n
def setLoopX (s : State) (n : Nat) (x : LoopX) : State := { s with loopx := s.loopx.put {} n x }
def axisX (s : State) (x : Nat) : AxisX := s.axisx.find {} x
def setAxisX (s : State) (x : Nat) (q : AxisX) : State := { s with axisx := s.axisx.put {} x q }
def loopOf (x k : Nat) : Nat := 32 + 4 * x + k

/-- A fault of the loops (R217), of axis `x`. -/
def loopFault (s : State) (code inst x cls : Nat) (detail : Nat := 0) : State :=
  s.alarm code inst (if x < 16 then [35, 16 + x] else [35]) detail cls

/-- The axis of a loop; 255 for a current loop of no axis. -/
def axisOfLoop (s : State) (n : Nat) : Nat := if n < 32 then s.n MACH.AXIS n else (n - 32) / 4

def tuneX (s : State) (n : Nat) : TuneX := s.tunes.find {} n
def setTune (s : State) (n : Nat) (t : TuneX) : State := { s with tunes := s.tunes.put {} n t }
def tuning (s : State) (n : Nat) : Bool := (s.tuneX n).run

/-- A tune that does not end normally (R233). -/
def tuneAbort (s : State) (n code : Nat) : State :=
  if !s.tuning n then s
  else ((s.setTune n {}).put LOOP.ATSTATE n code).loopFault 0x4108 n (s.axisOfLoop n) 16 code

/-- The tunes of an axis and of its machines. -/
def axisLoops (s : State) (x : Nat) : List Nat := s.machsOf x ++ [loopOf x 1]

/-- A stop of the axis ends its tunes. -/
def tuneStop (s : State) (x : Nat) : State := (s.axisLoops x).foldl (fun s n => s.tuneAbort n 0x10) s

/-- The results of a tune (R232, R234): `a` the swing, `tu` the period in s. -/
def tuneDone (s : State) (n : Nat) (a tu : F32) : State :=
  let t := s.tuneX n
  let eps := s.f LOOP.ATEPS n
  if a.lt ((F32.ofInt 2).mul eps) then s.tuneAbort n 0x13
  else
    let pi := F32.ofBits 0x40490FDB
    let ku := ((F32.ofInt 4).mul (s.f LOOP.ATD n)).div (pi.mul (((a.mul a).sub (eps.mul eps)).sqrt))
    let classic := s.g LOOP.ATRULE n = 0
    let kp := (if classic then F32.ofFrac 45 100 else F32.ofFrac 1 4).mul ku
    let ti := if classic then tu.div (F32.ofFrac 6 5) else (F32.ofInt 2).mul tu
    let ki := kp.div ti
    let cur := n < 32
    let r := fun (v : F32) => if cur then (v.mul (s.f MACH.LQ n)).div (s.f MACH.LD n) else v
    let x := s.axisOfLoop n
    let pu := if cur then r kp else ((r kp).mul (s.f AXIS.VMAX x)).div (s.f MACH.TRATED (s.refm x))
    let ms := fun (v : F32) => v.mul (F32.ofInt 1000)
    let s := (((s.putF LOOP.ATKU n ku).putF LOOP.ATTU n (ms tu)).putF LOOP.ATA n a).putF LOOP.ATTI n (ms ti)
    let s := (((s.putF LOOP.ATKP n (r kp)).putF LOOP.ATKI n (r ki)).putF LOOP.ATKPPU n pu).put LOOP.ATSTATE n 3
    let s := s.setTune n {}
    let out := some (if cur then F32.zero else t.t0)
    if !s.b LOOP.ATAPPLY n then s.setLoopX n { s.loopX n with resume := out }
    else
      let s := (s.putF LOOP.KP n (r kp)).putF LOOP.KI n (r ki)
      let s := if cur then (s.putF LOOP.KPD n kp).putF LOOP.KID n ki else s
      s.setLoopX n { s.loopX n with resume := out, xchg := cur }

/-- One evaluation of the relay of loop `n` at the sample instant `now` in timebase cycles: the error `e`, the
measured quantity `y`, its limit and whether it is beyond it, whether the feedback is lost, whether the
result before was late. The answer is the side of the relay. -/
def relay (s : State) (n now : Nat) (e y : F32) (beyond : F32 → Bool) (lost late : Bool) : State × Int :=
  let t := s.tuneX n
  if t.lim then (s.tuneAbort n 0x15, t.sign)
  else if lost then (s.tuneAbort n 0x16, t.sign)
  else
    let eps := s.f LOOP.ATEPS n
    let sg := if eps.lt e then 1 else if e.lt eps.neg then -1 else t.sign
    let lo := t.lo.min y; let hi := t.hi.max y
    let a := (hi.sub lo).mul (F32.ofBits 0x3F000000)
    let t := { t with lo := lo, hi := hi, evals := t.evals + 1, late := t.late || late }
    if beyond a then (s.setTune n { t with sign := -sg, lim := true }, -sg)
    else if !(sg = 1 && t.sign = -1) then (s.setTune n { t with sign := sg }, sg)
    else
      -- a switching from negative to positive
      let fresh := { t with sign := sg, last := some now, evals := 0, lo := y, hi := y, late := false }
      match t.last with
      | none => (s.setTune n fresh, sg)
      | some t0 =>
        let T := now - t0
        let fresh := { fresh with per := t.per + 1 }
        if t.evals < 8 then (s.tuneAbort n 0x12, sg)
        else if t.per < 2 then
          ((s.setTune n fresh).put LOOP.ATSTATE n (if t.per = 1 then 2 else 1), sg)
        else if t.late then (s.setTune n fresh, sg)
        else if t.m != 0 && 5 * ((T * t.m : Int) - t.sumT).natAbs > t.sumT then (s.tuneAbort n 0x14, sg)
        else
          let m := t.m + 1
          let f := { fresh with m := m, sumT := t.sumT + T, sumA := t.sumA.add a }
          let s := s.setTune n f
          if m < s.n LOOP.ATCYC n then (s, sg)
          else (s.tuneDone n (f.sumA.div (F32.ofInt m)) (F32.ofFrac f.sumT (400000000 * m)), sg)

end State
end Sys2Proof.Machine
end

