-- ==== Sys2Proof/Machine/Trig.lean ====
section
/-! DEFINITION. The trigonometric functions of the engines' code (R178, R180, R320, R326, R415), which R20 gives no
rounding of: each value is the exact one rounded to binary32 and moved by at most one unit in the last place, which
Config leaves free (log entry 8). Exact values are formed in whole numbers at the scale 2^96. -/
namespace Sys2Proof.Machine
namespace Trig

/-- 2π at the scale 2^96. -/
def twoPi : Nat := 497805226624462170461043889244

/-- The alternating series t − t·x²/((k+1)(k+2)) + …, with `x2` = x². -/
def series (x2 : Nat) : Nat → Nat → Nat → Int
  | _, t, 0 => t
  | k, t, n + 1 => (t : Int) - series x2 (k + 2) (t * x2 / 2 ^ 96 / ((k + 1) * (k + 2))) n

/-- Sine and cosine of `a` ≤ 2^29, an angle of 2^-32 revolution. -/
def small (a : Nat) : Int × Int :=
  let x := twoPi * a / 2 ^ 32
  let x2 := x * x / 2 ^ 96
  (series x2 1 x 14, series x2 0 (2 ^ 96) 14)

/-- The same within a quarter revolution, and within a whole one. -/
def quarter (a : Nat) : Int × Int :=
  if a ≤ 2 ^ 29 then small a else let (c, s) := small (2 ^ 30 - a); (s, c)
def sinCos (a : Nat) : Int × Int :=
  let (s, c) := quarter (a % 2 ^ 30)
  match a / 2 ^ 30 % 4 with
  | 0 => (s, c)
  | 1 => (c, -s)
  | 2 => (-s, -c)
  | _ => (-c, s)

/-- The largest angle up to a quarter revolution whose tangent is at most `y / x`, found from bit `n` down. -/
def arc (x y : Nat) : Nat → Nat → Nat
  | 0, a => a
  | n + 1, a =>
    let b := a + 2 ^ n
    let (s, c) := quarter b
    arc x y n (if b ≤ 2 ^ 30 && s * (x : Int) ≤ c * (y : Int) then b else a)

/-- Moves a value that is no zero by `n` units in the last place, at most one. -/
def nudge (x : F32) (n : Int) : F32 :=
  if x.zero? then x else ⟨x.bits + BitVec.ofInt 32 (max (-1) (min 1 n))⟩

end Trig

/-- Sine and cosine of an angle of 2^-32 revolution. -/
def sinRev (a : Nat) : F32 := Trig.nudge (F32.roundInt (Trig.sinCos a).1 (-96)) (Config.sinUlp a)
def cosRev (a : Nat) : F32 := Trig.nudge (F32.roundInt (Trig.sinCos a).2 (-96)) (Config.cosUlp a)

/-- atan2(`y`, `x`) in 2^-32 revolution. Binary32 resolves an angle near half a revolution to 2^-25, so that the value
may lie up to 128 units beside the exact one; it is exact on the axes, and 0 at the origin and for what is no
finite number. -/
def atan2Rev (y x : F32) : Nat :=
  if x.special? || y.special? || (x.zero? && y.zero?) then 0
  else
    let e := min x.scale y.scale
    let p := (x.atScale e).natAbs
    let q := (y.atScale e).natAbs
    let a := Trig.arc p q 31 0
    let a : Int := if x.neg? then (if y.neg? then (2 ^ 31 : Nat) + a else (2 ^ 31 : Nat) - a) else if y.neg? then -(a : Int) else a
    let off := if x.zero? || y.zero? then 0 else max (-128) (min 128 (Config.atanOff y x))
    ((a + off) % (2 ^ 32 : Nat)).toNat

end Sys2Proof.Machine
end

