-- ==== Sys2Proof/Machine/Loops.lean ====
section
/-! DEFINITION. The loops (R174–R217): angles, the current loop, setpoints, the outer loops, the observer,
the feed-forward tables and what supervises them. Arithmetic is binary32 in the order in which the rules
write it (DEDUCED, log entry 8). -/
namespace Sys2Proof.Machine

def F32.twoPi : F32 := F32.ofBits 0x40C90FDB
def F32.sqrt3 : F32 := F32.ofBits 0x3FDDB3D7
def F32.f60 : F32 := F32.ofInt 60
def F32.half : F32 := F32.ofBits 0x3F000000
/-- x² + y², square-rooted. -/
def F32.hyp (x y : F32) : F32 := ((x.mul x).add (y.mul y)).sqrt
/-- `x` held within ±`l`. -/
def F32.lim (x l : F32) : F32 := x.clamp l.neg l
/-- A position (R16) as revolutions. -/
def revOf (p : Int) : F32 := F32.roundInt p (-32)
/-- Revolutions as a position, to the nearest unit. -/
def posF (x : F32) : Int :=
  let e := x.scale + 32
  let m := x.atScale x.scale
  if x.special? then 0
  else if 0 ≤ e then m * (2 ^ e.toNat : Nat)
  else (2 * m + (2 ^ (-e).toNat : Nat)) / (2 * 2 ^ (-e).toNat : Nat)
/-- `n / d` to the nearest integer. -/
def divNear (n : Int) (d : Int) : Int := if d = 0 then 0 else (2 * n + d) / (2 * d)
/-- A position wraps as 64-bit two's complement. -/
def wrap64 (v : Int) : Int := (v + 2 ^ 63) % (2 ^ 64 : Nat) - 2 ^ 63
/-- A fraction of a revolution in 2^-32 rev. -/
def angOf (x : F32) : Int := x.floorMul (2 ^ 32)

/-- The member is one of a list of rows. -/
def Mem.among (m : Mem) (l : List Mem) : Bool := l.any m.is

/-- The classes of R200 by members: Structural, Model, and the class as DICT_READ codes it (R532). -/
def structural : List Mem :=
  [AXIS.MODE, AXIS.REFM, AXIS.FBPOS, AXIS.FBSPD, AXIS.PRNUM, AXIS.PRDEN, AXIS.SRNUM, AXIS.SRDEN, AXIS.SPSRC,
   AXIS.SPIDX, AXIS.TSRC, AXIS.OBSSPD, MACH.AXIS, MACH.KIND, MACH.POLEP, MACH.FBANG, MACH.MNUM, MACH.MDEN,
   MACH.ANGOFF, MACH.SDU, MACH.SDV, MACH.SDW, MACH.SDDC, MACH.DECOUP, MACH.VPRIO, MACH.ANGSRC, MACH.DUPD]
def modelMems : List Mem := [MACH.LD, MACH.LQ, MACH.PSI, MACH.LM, MACH.LR, MACH.TAUR, MACH.RS, LOOP.JOBS]
def r200 (m : Mem) : Nat :=
  if m.among structural then 6
  else if m.among modelMems then 4
  else if m.among [FF.KFF, FF.FRV, FF.FRSRC, FF.FFLIM, FF.FADE, FF.ENTRY, AXIS.KVFF, AXIS.JFF, AXIS.TFF, AXIS.OBSFF,
      AXIS.SPRAMP, MACH.IERRMAX, MACH.IERRN, AXIS.VERRMAX, AXIS.VERRT, AXIS.FOLLOWMAX, AXIS.OVSPD, MACH.ANGLEAD,
      MACH.IDREF, MACH.HSTEP, MACH.HSWIN, MACH.HIERR, MACH.HRETT] then 1
  else if m.among [LOOP.KP, LOOP.KI, LOOP.KPD, LOOP.KID, LOOP.OBSBW, MACH.KFW, MACH.FWLVL, AXIS.KPV, MACH.HTKI] then 2
  else if m.among [LOOP.ILIM, AXIS.TMAXP, AXIS.TMAXN, AXIS.VMAX, AXIS.VMAXT, AXIS.SPMIN, AXIS.SPMAX, MACH.IMAX,
      MACH.TMAXM, MACH.MODMAX, MACH.IDMIN, MACH.HTLIM] then 3
  else if m.among [AXIS.SPGAIN, AXIS.SPOFFS, AIN.GAIN, AIN.ZERO] then 5
  else 0

namespace State

/-- Δt of the outer evaluations of an axis in seconds (R188, R674). -/
def outS (s : State) (x : Nat) : F32 := if (s.axisX x).d ≤ 1 then s.twS else (F32.ofInt (s.axisX x).d).mul s.twS

/-- The path of a machine (R174): 0 none, 1 local stage, 2 converter, 3 CAN remote drive. -/
def pathOf (s : State) (m : Nat) : Nat :=
  if s.remote? m then 3 else if (s.convOfMach m).isSome then 2 else if (s.stageOfMach m).isSome then 1 else 0

/-- The task that forms a machine's voltage waits for an engine that can take it (R98). -/
def machStranded (s : State) (m : Nat) : Bool :=
  match s.pathOf m with
  | 2 => (s.convOfMach m).any fun c => s.ownerStranded 9 c
  | 3 => false
  | _ => s.ownerStranded 6 m

/-! ### Measurement (R176, R177) -/

def fbAvail (s : State) (c : Nat) : Bool := c < 16 && s.g FB.MODE c != 0
/-- The channel cannot serve a consumer: INIT, LOST, FROZEN or OFF (R744). -/
def fbDown (s : State) (c : Nat) : Bool := c ≥ 16 || (s.g FB.STATE c != 2 && s.g FB.STATE c != 3)

/-- The speed of a channel in rpm. -/
def fbRpm (s : State) (c : Nat) : F32 :=
  if s.fbAvail c then ((s.f FB.SPEEDF c).mul F32.f60).div (F32.ofInt (s.cprOf c)) else F32.zero

/-- Axis position and speed (R176). The positive direction of an axis (R17) has no member of its own in the spec's tables:
DESIGN CHOICE (log entry 42), the signs of PRNUM and SRNUM stand for it, as those of RNUM and MNUM do for a machine. -/
def axisMeasure (s : State) (x : Nat) : State :=
  let c := s.n AXIS.FBPOS x
  let s := if s.fbAvail c then
      s.put AXIS.POS x (wrap64 (divNear (s.g FB.POS c * s.g AXIS.PRNUM x) (s.g AXIS.PRDEN x))) else s
  let c := s.n AXIS.FBSPD x
  if s.fbAvail c then
    s.putF AXIS.SPD x (((s.fbRpm c).mul (F32.ofInt (s.g AXIS.SRNUM x))).div (F32.ofInt (s.g AXIS.SRDEN x)))
  else s

/-- θ_e without slip and lead, and n_m (R177, R272). -/
def machAngle (s : State) (m : Nat) : Nat × F32 :=
  let x := s.n MACH.AXIS m
  let pp := s.g MACH.POLEP m
  if s.g MACH.ANGSRC m = 1 then
    let g := (s.axisX x).gen
    let nm := (g.v.mul (F32.ofInt (s.g MACH.PANUM m))).div (F32.ofInt (s.g MACH.PADEN m))
    (((pp * g.p * s.g MACH.PANUM m / s.g MACH.PADEN m + s.g MACH.ANGOFF m) % (2 ^ 32 : Nat)).toNat, nm)
  else
    let c := s.n MACH.FBANG m
    let pos := if s.fbAvail c then s.g FB.POS c else 0
    let nm := ((s.fbRpm c).mul (F32.ofInt (s.g MACH.MNUM m))).div (F32.ofInt (s.g MACH.MDEN m))
    (((pp * pos * s.g MACH.MNUM m / s.g MACH.MDEN m + s.g MACH.ANGOFF m) % (2 ^ 32 : Nat)).toNat, nm)

/-- ω_e in rad/s. -/
def omegaE (s : State) (m : Nat) (nm : F32) : F32 :=
  ((F32.twoPi.mul (F32.ofInt (s.g MACH.POLEP m))).mul nm).div F32.f60

/-- An angle advanced by ω_e over a time in ns. -/
def advance (th : Nat) (we : F32) (ns : Nat) : Nat :=
  (((th : Int) + angOf ((we.mul (F32.ofFrac ns 1000000000)).div F32.twoPi)) % (2 ^ 32 : Nat)).toNat

/-! ### The current loop (R178–R181, R187–R189, R335–R339, R417, R418) -/

def coefOf (s : State) (m : Nat) : Coef :=
  { kp := s.f LOOP.KP m, ki := s.f LOOP.KI m, kpd := s.f LOOP.KPD m, kid := s.f LOOP.KID m, ilim := s.f LOOP.ILIM m,
    ld := s.f MACH.LD m, lq := s.f MACH.LQ m, psi := s.f MACH.PSI m, lm := s.f MACH.LM m, lr := s.f MACH.LR m,
    taur := s.f MACH.TAUR m, ceil := (s.f MACH.MODMAX m).min (s.f MACH.CEILACT m), imax := s.f MACH.IMAX m,
    tmax := s.f MACH.TMAXM m, idref := s.f MACH.IDREF m, idmin := s.f MACH.IDMIN m, kfw := s.f MACH.KFW m,
    fwlvl := s.f MACH.FWLVL m, ierrmax := s.f MACH.IERRMAX m, ierrn := s.n MACH.IERRN m,
    decoup := s.b MACH.DECOUP m, vprio := s.b MACH.VPRIO m, ind := s.b MACH.KIND m, polep := s.n MACH.POLEP m,
    frz := s.b LOOP.FREEZE m, vdcnom := s.f MACH.VDCNOM m }

/-- The latched value of input `k` that an evaluation reads: that of the wingbeat mark for a full one, also where it ran
after the half mark (R112, R178). -/
def sdAt (s : State) (k : Nat) (full : Bool) : F32 := if full && s.tb.half then (s.sdX k).mark else s.f SD.VALUE k

/-- The current of an arm, and of leg `k` of a converter (R417). -/
def armCurrent (s : State) (a : Nat) : F32 := if s.n ARM.SDI a < 48 then s.f SD.VALUE (s.n ARM.SDI a) else F32.zero
def legCurrent (s : State) (c k : Nat) : F32 :=
  let a := s.n CONV.ARM0 c + 2 * k
  (s.armCurrent a).sub (s.armCurrent (a + 1))

/-- A phase current of a converter's machine: its own input, or the leg's current (R417). -/
def phaseCurrent (s : State) (m c k : Nat) (inp : Mem) (full : Bool) : F32 :=
  if s.n inp m < 48 then s.sdAt (s.n inp m) full else s.legCurrent c k

/-- A DC machine, driven by a converter of 2 or 4 arms (R418). -/
def dcMach (s : State) (m : Nat) : Bool := match s.convOfMach m with | some c => s.n CONV.ARMS c != 6 | none => false

/-- The Clarke transform of the phase currents (R178). -/
def clarke (s : State) (m : Nat) (full : Bool) : F32 × F32 :=
  let three := fun (u w z : F32) => ((((((F32.ofInt 2).mul u).sub w).sub z)).div (F32.ofInt 3), (w.sub z).div F32.sqrt3)
  match s.convOfMach m with
  | some c => three (s.phaseCurrent m c 0 MACH.SDU full) (s.phaseCurrent m c 1 MACH.SDV full) (s.phaseCurrent m c 2 MACH.SDW full)
  | none =>
  let v := fun k => s.sdAt (s.n k m) full
  let u := v MACH.SDU; let w := v MACH.SDV
  if s.n MACH.SDW m = 255 then (u, (u.add ((F32.ofInt 2).mul w)).div F32.sqrt3)
  else three u w (v MACH.SDW)

/-- Current references and the torque-clamp flag (R179). -/
def currentRef (c : Coef) (x : MachX) (dem : F32) : F32 × F32 × Bool :=
  let t := dem.lim c.tmax
  let pp := (F32.ofFrac 3 2).mul (F32.ofInt c.polep)
  let idr := (c.idref.add x.ifw).max c.idmin
  let iqr := if c.ind then
      t.div ((pp.mul (c.lm.div c.lr)).mul (x.psir.max (((F32.ofFrac 1 10).mul c.lm).mul c.idref)))
    else
      t.div ((pp.mul (c.psi.add ((c.ld.sub c.lq).mul idr))).max (((F32.ofFrac 3 4).mul (F32.ofInt c.polep)).mul c.psi))
  let idr := idr.lim c.imax
  let top := ((c.imax.mul c.imax).sub (idr.mul idr)).sqrt
  (idr, iqr.lim top, t != dem || top.lt iqr.abs)

/-- One integrator step (R188). -/
def integrate (i ki dt e lo hi : F32) : F32 := (i.add ((ki.mul dt).mul e)).clamp lo hi

/-- The torque demand of every machine with STYLE HUSH at the mark, newest first, as far back as R338 looks. -/
def hushTorques (s : State) : State :=
  (List.range 32).foldl (fun s m =>
    let x := s.machX m
    if s.b MACH.STYLE m && s.b MACH.ENABLE m then
      s.setMachX m { x with tHist := (x.dem :: x.tHist).take (s.n MACH.HSWIN m * 1000 / s.twNs + 1) }
    else s.setMachX m { x with tHist := [] }) s

/-- The conditions of R338 under which HUSH drops, as the HUSHST that names them: torque step, current
error, ladder target above 0, stop. -/
def hushDrop (s : State) (m : Nat) (ed eq : F32) (ladder : Bool) : Option Nat :=
  let x := s.machX m
  let step := match x.tHist.drop (s.n MACH.HSWIN m * 1000 / s.twNs) with
    | old :: _ => (s.f MACH.HSTEP m).lt (x.dem.sub old).abs
    | [] => false
  let err := (s.f MACH.HIERR m).lt ed.abs || (s.f MACH.HIERR m).lt eq.abs
  if step then some 2 else if err then some 3 else if ladder then some 4 else if x.hStop then some 5 else none

/-- The result of a current-loop evaluation. -/
structure Duty where
  amp  : F32
  ang  : Nat
  clampd : Bool      -- the voltage clamp of R180 acted

/-- One evaluation of the current loop at angle `th` (R178–R181, R335–R339), `we` being ω_e, `dt` the Δt of
R188, `full` a full evaluation, `ladder` a ladder target above rung 0 (R336), `at` the sample instant in
timebase cycles: the next state and the duty for MOD. -/
def currentEval (s : State) (m : Nat) (c : Coef) (th : Nat) (we dt : F32) (full subst ladder : Bool) (at' : Nat) :
    State × Duty :=
  let x := s.machX m
  let lx := s.loopX m
  let frz := c.frz
  let (al, be) := s.clarke m full
  let co := cosRev th; let si := sinRev th
  let dc := s.dcMach m
  let i_d := if dc then F32.zero else (al.mul co).add (be.mul si)
  let i_q := if dc then (match s.convOfMach m with | some c => s.phaseCurrent m c 0 MACH.SDU full | none => F32.zero)
    else (be.mul co).sub (al.mul si)
  let (idr, iqr, tcl) := currentRef c x (if x.policy then F32.zero else x.dem)
  let tune := s.tuning m
  let idr := if dc then F32.zero else idr
  let (idr, iqr) := if tune then (F32.zero, F32.zero) else (idr, iqr)
  let e_d := idr.sub i_d; let e_q := iqr.sub i_q
  -- a preset, the output a tune resumes at, and the exchange of gains in a freeze (R190, R203, R233)
  let preset := if full then lx.preset else none
  let iq := preset.getD x.iq
  let iq := if frz || (full && lx.xchg) then iq.add ((lx.kp.sub c.kp).mul e_q) else iq
  let ed := match lx.resume with | some r => r.sub (c.kpd.mul e_d) | none => x.ed
  let ed := if frz then ed.add ((lx.kpd.sub c.kpd).mul e_d) else ed
  let dec := if c.decoup then we else F32.zero
  let flux := if c.ind then x.psir else c.psi
  let ffd := if full then (dec.mul (if c.ind then c.ld else c.lq)).mul i_q else x.ffd
  let ffq := if full then dec.mul ((c.ld.mul i_d).add flux) else x.ffq
  let fb := s.n MACH.FBANG m
  let lost := s.g MACH.ANGSRC m = 0 && fb < 16 && s.g FB.MODE fb != 0 && (s.g FB.STATE fb = 4 || s.g FB.STATE fb = 5)
  let (s, sg) := if tune then s.relay m at' e_d i_d (fun _ => c.imax.lt i_d.abs) lost subst else (s, 0)
  let pi := if !tune then (c.kpd.mul e_d).add ed
    else if sg = 0 then (s.tuneX m).t0 else if sg < 0 then (s.f LOOP.ATD m).neg else s.f LOOP.ATD m
  let crispD := if dc then F32.zero else pi.sub ffd
  let crispQ := ((c.kp.mul e_q).add iq).add ffq
  -- HUSH (R335)
  let rs := s.f MACH.RS m
  let hd := (rs.mul idr).sub ((dec.mul c.lq).mul iqr)
  let hq := (rs.mul iqr).add (dec.mul ((c.ld.mul idr).add c.psi))
  let hst := s.n MACH.HUSHST m
  let style := s.b MACH.STYLE m
  let drop := s.hushDrop m e_d e_q ladder
  -- wingbeats without one: a cycle below 20 µs takes two
  let hOk := if drop.isSome then 0 else x.hOk + (if s.twNs < 20000 then 2 else 1)
  let htl := s.f MACH.HTLIM m
  let next := if !full then hst
    else if !style || tune then 0
    else if hst = 1 then drop.getD 1
    else if hst = 0 then drop.getD 1
    else if drop.isNone && hOk ≥ s.wbOfMs (s.n MACH.HRETT m) then 1 else hst
  let hush := next = 1
  let enter := hush && hst != 1
  let leave := !hush && hst = 1
  let duD := if enter then (crispD.sub hd).lim htl else x.duD
  let duQ := if enter then (crispQ.sub hq).lim htl else x.duQ
  -- the handover of R338 sets the integrators so that the output does not step
  let ed := if leave then ((hd.add x.duD).sub (c.kpd.mul e_d)).add ((dec.mul c.lq).mul i_q) else ed
  let iq := if leave then ((hq.add x.duQ).sub (c.kp.mul e_q)).sub (dec.mul ((c.ld.mul i_d).add c.psi)) else iq
  let (ud, uq) := if hush then (if full then (hd.add duD, hq.add duQ) else (x.ud, x.uq))
    else if leave then (hd.add x.duD, hq.add x.duQ) else (crispD, crispQ)
  let vdc := if s.n MACH.SDDC m = 255 then c.vdcnom else s.sdAt (s.n MACH.SDDC m) full
  let base := vdc.div F32.sqrt3
  let vlim := c.ceil.mul base
  let u := F32.hyp ud uq
  let dead := vdc.lt F32.one
  let beyond := vlim.lt u
  let (cd, cq) := if !beyond then (ud, uq)
    else if c.vprio then (ud.mul (vlim.div u), uq.mul (vlim.div u))
    else let d := ud.lim vlim; (d, uq.lim (((vlim.mul vlim).sub (d.mul d)).sqrt))
  -- the amplitude of a DC machine carries the sign of u_o
  let amp := if dead then F32.zero else if dc then cq.div base else (F32.hyp cd cq).div base
  let ang := (th + atan2Rev cq cd) % 2 ^ 32
  let own := dead || beyond
  let sat := own || subst
  let lim := if c.ilim.zero? then vlim else c.ilim
  let ed' := if sat || frz || tune || hush then ed else integrate ed c.kid dt e_d lim.neg lim
  let iq' := if sat || frz || hush then iq else integrate iq c.ki dt e_q lim.neg lim
  let trim := fun (d e : F32) => if sat || !hush || !full || enter then d
    else (d.add (((s.f MACH.HTKI m).mul dt).mul e)).lim htl
  let ifw := if (F32.zero).lt c.kfw && !dc then
      F32.zero.min (x.ifw.sub ((c.kfw.mul dt).mul (u.sub (c.fwlvl.mul vlim)))) else F32.zero
  -- the rotor flux and the slip of an induction machine (R181)
  let psir := if c.ind then x.psir.add ((dt.div c.taur).mul ((c.lm.mul i_d).sub x.psir)) else x.psir
  let wsl := if !c.ind || psir.lt (((F32.ofFrac 1 10).mul c.lm).mul c.idref) then F32.zero
    else (c.lm.mul i_q).div (c.taur.mul psir)
  let slip := (((x.slip : Int) + angOf ((wsl.mul dt).div F32.twoPi)) % (2 ^ 32 : Nat)).toNat
  -- supervision (R208)
  let early := (s.wb - x.enWb) * s.twNs < 1000000
  let bad := !c.ierrmax.zero? && !own && !early && (c.ierrmax.lt e_d.abs || c.ierrmax.lt e_q.abs)
  let n := if bad then x.ierr + 1 else 0
  let s := s.setMachX m { x with ffd := ffd, ffq := ffq, ed := ed', iq := iq', ifw := ifw, psir := psir, slip := slip,
                                 tclamp := x.tclamp || tcl, ierr := n, idr := idr, iqr := iqr, ud := ud, uq := uq,
                                 udPi := pi, duD := trim duD e_d, duQ := trim duQ e_q,
                                 hOk := if full then hOk else x.hOk, hStop := if full then false else x.hStop }
  let s := s.setLoopX m { lx with preset := if full then none else lx.preset, resume := if tune then (s.loopX m).resume else if full then none else lx.resume,
                                  xchg := if tune then (s.loopX m).xchg else !full && lx.xchg,
                                  kp := c.kp, kpd := c.kpd, satB := sat }
  let s := if next = hst then s else
    let s := s.put MACH.HUSHST m next
    if hst ≤ 1 && 2 ≤ next then s.loopFault 0x4501 m (s.n MACH.AXIS m) 6 else s
  let s := ((s.putF LOOP.INTEG m iq').putB LOOP.SAT m sat).putB LOOP.FRZACK m frz
  let s := if sat then s.inc LOOP.SATCNT m else s
  let s := (s.putF MACH.ID m i_d).putF MACH.IQ m i_q
  (s, { amp := amp, ang := ang, clampd := beyond })

/-- A stop of axis `x` begins: its machines in HUSH drop at their next full evaluation (R338). -/
def hushDropAxis (s : State) (x : Nat) : State :=
  (s.machsOf x).foldl (fun s m => s.setMachX m { s.machX m with hStop := true }) s

/-! ### Coefficients written during a stop (R212) -/

/-- A stop of axis `x` is in progress. -/
def inStop (s : State) (x : Nat) : Bool := let st := s.n STOP.STATE x; st = 1 || st = 2 || st = 6 || st = 7

/-- A write of coefficient `m` of instance `i` waits: its object runs in a stop, and uses the new value once it is
enabled again (R212). A machine in its fault policy runs no loop that could use it. -/
def coefHeld (s : State) (m : Mem) (i : Nat) : Bool :=
  let axis := fun (x : Nat) => x < 16 && s.b AXIS.ENABLE x && s.inStop x
  let mach := fun (k : Nat) => s.b MACH.ENABLE k && axis (s.n MACH.AXIS k)
  if r200 m = 0 || r200 m = 6 then false
  else match m.cls with
  | 5 => axis i
  | 6 => mach i
  | 16 => if i < 32 then mach i else axis ((i - 32) / 4)
  | 17 => axis (s.n FF.AXIS i)
  | _ => false

/-- Writes of coefficients that no longer wait take effect. -/
def coefDue (s : State) : State :=
  s.late.foldl (fun s e => match lookup e.1 with
    | some (m, i, x) => if r200 m = 0 || s.coefHeld m i then s else { s.put m i e.2 x with late := s.late.del e.1 }
    | none => s) s

/-! ### Fault policies (R209, R210) -/

/-- A machine enters its fault policy; `why` is the live cause that its CLEAR waits for (R209). -/
def machFault (s : State) (m why : Nat) : State :=
  let x := s.machX m
  let s := s.setMachX m { x with policy := true, bad := x.bad ||| why }
  if x.policy then s
  else
    let s := (s.setTaskSt m 6).put MACH.ENABLE m 0
    let s := match s.convOfMach m with
      | some c => s.convFault c false
      | none => s
    match s.stageOfMach m with
    | none => s
    | some i =>
      let st := s.stState i
      let live := st = 2 || st = 3
      let s := if live || st = 4 then s.stageTo i 5 else s
      let asc := s.n MACH.FPOL m = 1 || (s.n MACH.FPOL m = 2 && (s.f MACH.ASCSPD m).lt (s.machX m).nm.abs)
      if (live || st = 5) && asc then s.ascEngage i else s

/-- Policy 2 at a mark (R209): the short circuit stands while |n_m| exceeds ASCSPD. -/
def ascTrack (s : State) (m : Nat) : State :=
  match s.stageOfMach m with
  | none => s
  | some i =>
    if !(s.machX m).policy || s.n MACH.FPOL m != 2 then s
    else
      let nm := (s.machAngle m).2
      let s := s.setMachX m { s.machX m with nm := nm }
      if (s.f MACH.ASCSPD m).lt nm.abs then s.ascEngage i else s.ascEnd i

/-- An axis whose every machine is in its fault policy stops as category 0 (R210). -/
def axisAllFaulted (s : State) (x : Nat) : State :=
  let l := s.machsOf x
  if x < 16 && s.b AXIS.ENABLE x && !l.isEmpty && l.all fun m => (s.machX m).policy then s.axisStopReq x 0 0x85 else s

/-- The fault stop of an axis: category FSTOP (R210). -/
def axisFault (s : State) (x : Nat) : State := s.axisStopReq x (s.n AXIS.FSTOP x) 0x85

/-! ### Setpoints (R191–R194) -/

/-- A partner that a source names (0x100 + p) is silent or not valid. -/
def partDown (s : State) (p : Nat) : Bool := p ≥ 256 || s.g PART.VALID p = 0

/-- The setpoint source is invalid (R194). -/
def spInvalid (s : State) (x : Nat) : Bool :=
  let i := s.n AXIS.SPIDX x
  match s.n AXIS.SPSRC x with
  | 2 => i ≥ 8 || s.g AIN.STATE i = 4 || s.g AIN.STATE i = 0
  | 3 => s.fbDown i
  | 4 => s.partDown i
  | _ => false

/-- The value of sources 1 to 4 as a setpoint, clamped (R191, R192). -/
def spSource (s : State) (x : Nat) : F32 :=
  let i := s.n AXIS.SPIDX x
  let lin := fun v => ((s.f AXIS.SPGAIN x).mul v).add (s.f AXIS.SPOFFS x)
  let v := match s.n AXIS.SPSRC x with
    | 1 => s.f AXIS.SETPT x
    | 2 => lin (s.f AIN.VALUE i)
    | 3 => lin (s.fbRpm i)
    | _ => lin (s.f PART.VALUE i)
  v.clamp (s.f AXIS.SPMIN x) (s.f AXIS.SPMAX x)

/-- The same as a position in MODE 3. -/
def spPosition (s : State) (x : Nat) : Int :=
  if s.g AXIS.SPSRC x = 3 then
    let q := s.axisX x
    let d := revOf (s.g FB.POS (s.n AXIS.SPIDX x) - q.chOrg)
    let p := q.pOrg + posF ((s.f AXIS.SPGAIN x).mul d)
    max (posF (s.f AXIS.SPMIN x)) (min p (posF (s.f AXIS.SPMAX x)))
  else posF (s.spSource x)

/-- `v` moved towards `tgt` by at most `d`. -/
def towards (v tgt d : F32) : F32 := tgt.clamp (v.sub d) (v.add d)

/-- One wingbeat of the setpoint of sources 1 to 4 (R193, R194). -/
def setpointStep (s : State) (x : Nat) : State :=
  if s.g AXIS.SPSRC x = 0 || s.g AXIS.MODE x = 0 then s else
    let bad := s.spInvalid x
    let q := s.axisX x
    let s := if bad && !q.spBad then
        let s := s.loopFault 0x4106 x x 5
        let s := if s.g AXIS.SPINVAL x = 2 then s.axisFault x else s
        let hold := if s.g AXIS.MODE x = 3 && s.g AXIS.SPINVAL x = 1 then s.g AXIS.POS x else (s.axisX x).pset
        s.setAxisX x { s.axisX x with spBad := true, spRamp0 := s.g AXIS.SPINVAL x == 1, pset := hold }
      else s
    let q := s.axisX x
    let rate := (s.f AXIS.SPRAMP x).mul (s.outS x)
    let free := (s.f AXIS.SPRAMP x).zero?
    if s.g AXIS.MODE x = 3 then
      if q.spBad then s else
        let p := s.spPosition x
        let d := posF rate
        s.setAxisX x { q with pset := if free then p else max (q.pset - d) (min p (q.pset + d)) }
    else if q.spBad && !q.spRamp0 then s
    else
      let v := if q.spBad then F32.zero else s.spSource x
      s.setAxisX x { q with setp := if free then v else towards q.setp v rate }

/-- A write of SPACK = 1 (R194). -/
def spack (s : State) (x : Nat) : Status × State :=
  if s.spInvalid x then (.faultActive, s)
  else (.ok, (s.setAxisX x { s.axisX x with spBad := false, spRamp0 := false }).clearFault 5 x)

/-! ### Outer loops (R182–R189) -/

/-- One evaluation of outer loop `n` (R187–R189, R203): error `e`, the terms added to KP·e + I, the output
limits, the gain scale 60 of the position loop, and the downstream saturation. -/
def piEval (s : State) (n : Nat) (e add lo hi scale : F32) (down : Bool) : State × F32 :=
  let lx := s.loopX n
  let frz := s.b LOOP.FREEZE n
  let kp := (s.f LOOP.KP n).mul scale
  let ki := (s.f LOOP.KI n).mul scale
  let i := lx.preset.getD (s.f LOOP.INTEG n)
  let i := if frz then i.add ((lx.kp.sub kp).mul e) else i
  let i := match lx.resume with | some r => (r.sub (kp.mul e)).sub add | none => i
  let raw := ((kp.mul e).add i).add add
  let out := raw.clamp lo hi
  let sat := out != raw || down
  let il := s.f LOOP.ILIM n
  let dt := s.outS ((n - 32) / 4)
  let i := if sat || frz then i else
    if il.zero? then integrate i ki dt e lo hi else integrate i ki dt e il.neg il
  let s := ((s.putF LOOP.INTEG n i).putB LOOP.SAT n sat).putB LOOP.FRZACK n frz
  let s := if sat then s.inc LOOP.SATCNT n else s
  (s.setLoopX n { lx with preset := none, resume := none, kp := kp, satB := sat }, out)

/-- The downstream flag of a speed or tension loop (R189), with the substituted output of R207 and the
standstill reduction of R274. -/
def torqueSat (s : State) (x : Nat) (subst : Bool) : Bool :=
  let q := s.axisX x
  q.satF || subst || q.h.lt F32.one || (s.machsOf x).any fun m => (s.machX m).tcPrev

/-- The measured speed that the speed loop uses: VEST with OBSSPD or in the stop of R211. -/
def loopSpeed (s : State) (x : Nat) : F32 :=
  if s.b AXIS.OBSSPD x || (s.axisX x).onVest then s.f LOOP.VEST (loopOf x 3) else s.f AXIS.SPD x

/-- An excursion `k` of axis `x`: whether it is to be reported now (once while it lasts). -/
def excursion (s : State) (x k : Nat) (now : Bool) : Bool × State :=
  let q := s.axisX x
  (now && !q.told.contains k,
   s.setAxisX x { q with told := if now then (if q.told.contains k then q.told else q.told ++ [k]) else q.told.filter (· != k) })

/-- The speed loop (R182) with its supervision (R208). -/
def speedLoop (s : State) (x : Nat) (vref aref : F32) (down : Bool) : State × F32 :=
  -- a tune holds the setpoint (R231)
  let vref := if s.tuning (loopOf x 1) then (s.tuneX (loopOf x 1)).hold else vref
  let e := vref.sub (s.loopSpeed x)
  let q := s.axisX x
  let lim := s.f AXIS.VERRMAX x
  let n := if lim.zero? || !lim.lt e.abs then 0 else q.verr + q.d
  let s := s.setAxisX x { q with vref := vref, verr := n }
  let (say, s) := s.excursion x 2 (n != 0 && n ≥ s.wbOfMs (s.n AXIS.VERRT x))
  let s := if say then (s.loopFault 0x4103 x x 5).axisFault x else s
  let a := if s.g AXIS.SPSRC x = 0 then (s.f AXIS.JFF x).mul aref else F32.zero
  let n := loopOf x 1
  let s := s.setAxisX x { s.axisX x with ev := e, aref := aref }
  if s.tuning n then
    let t := s.tuneX n
    let (s, sg) := s.relay n s.tb.cycles e (s.loopSpeed x) (fun a => (s.f LOOP.ATVLIM n).lt a) (s.fbDown (s.n AXIS.FBSPD x))
      ((s.ex.outs.find {} (72 + 6 * x)).subst)
    let d := s.f LOOP.ATD n
    (s, if sg = 0 then t.t0 else if sg < 0 then t.t0.sub d else t.t0.add d)
  else s.piEval (loopOf x 1) e a (s.f AXIS.TMAXN x).neg (s.f AXIS.TMAXP x) F32.one down

/-- The position loop (R183) with the following error (R208). -/
def positionLoop (s : State) (x : Nat) (pref : Int) (vprof : F32) (down : Bool) : State × F32 :=
  let e := revOf (wrap64 (pref - s.g AXIS.POS x))
  let lim := s.f AXIS.FOLLOWMAX x
  let (say, s) := s.excursion x 1 (!lim.zero? && lim.lt e.abs)
  let s := if say then (s.loopFault 0x4102 x x 5).axisFault x else s
  let v := if s.g AXIS.SPSRC x = 0 then (s.f AXIS.KVFF x).mul vprof else F32.zero
  let s := s.setAxisX x { s.axisX x with ep := e }
  let m := s.f AXIS.VMAX x
  s.piEval (loopOf x 0) e v m.neg m F32.f60 down

/-- The measured tension and its validity (R184). -/
def tension (s : State) (x : Nat) : F32 × Bool :=
  let t := s.n AXIS.TSRC x
  if t < 8 then (s.f AIN.VALUE t, s.g AIN.STATE t != 4 && s.g AIN.STATE t != 0)
  else if 256 ≤ t && t < 512 then (s.f PART.VALUE (t - 256), !s.partDown (t - 256))
  else (F32.zero, false)

/-- The tension loop (R184). -/
def tensionLoop (s : State) (x : Nat) (tref : F32) (down : Bool) : State × F32 :=
  let (t, ok) := s.tension x
  let (say, s) := s.excursion x 6 (!ok)
  let s := if say then (s.loopFault 0x4106 x x 5).axisStopReq x 9 0x85 else s
  let v := s.f AXIS.SPD x
  let vm := s.f AXIS.VMAXT x
  let act := vm.lt v.abs
  let beyond := if v.neg? then v.add vm else v.sub vm
  let add := ((s.f AXIS.TFF x).mul tref).sub (if act then (s.f AXIS.KPV x).mul beyond else F32.zero)
  s.piEval (loopOf x 2) (tref.sub t) add (s.f AXIS.TMAXN x).neg (s.f AXIS.TMAXP x) F32.one (down || act)

/-- The observer of axis `x` is placed (R175). -/
def observed (s : State) (x : Nat) : Bool := (s.task (75 + 6 * x)).st != 0

/-- The observer (R185). -/
def observer (s : State) (x : Nat) : State :=
  let n := loopOf x 3
  let q := s.axisX x
  let wo := F32.twoPi.mul (s.f LOOP.OBSBW n)
  let wm := (s.f AXIS.SPD x).mul (F32.twoPi.div F32.f60)
  let e := wm.sub q.wHat
  let j := s.f LOOP.JOBS n
  let tl := s.f LOOP.TLEST n
  let w := q.wHat.add ((s.outS x).mul ((((s.f AXIS.TDEM x).sub tl).div j).add (((F32.ofInt 2).mul wo).mul e)))
  let tl := tl.sub (((((s.outS x).mul wo).mul wo).mul j).mul e)
  ((s.setAxisX x { q with wHat := w }).putF LOOP.TLEST n tl).putF LOOP.VEST n (w.mul (F32.f60.div F32.twoPi))

/-- Overspeed (R208). -/
def overspeed (s : State) (x : Nat) : State :=
  let lim := s.f AXIS.OVSPD x
  let (say, s) := s.excursion x 3 (!lim.zero? && lim.lt (s.f AXIS.SPD x).abs)
  if say then (s.loopFault 0x4104 x x 5).axisStopReq x (s.n AXIS.OVSTOP x) 0x85 else s

/-! ### Feed-forward tables (R195–R198) -/

def ffX (s : State) (i : Nat) : FfX := s.ffx.find {} i

/-- The value of table `i` at position `p` (R196). -/
def ffValue (s : State) (i : Nat) (p : Int) : F32 :=
  let n := s.n FF.N i
  let span := s.g FF.SPAN i
  let d := p - s.g FF.START i
  let (num, last) := if s.b FF.PERIODIC i then ((d % span) * (n : Int), false)
    else (max 0 (min d span) * ((n : Int) - 1), true)
  let j := (num / span).toNat
  let fr := F32.ofFrac (num % span) span.toNat
  let e := fun k => s.f FF.ENTRY i (if k < n then k else if last then n - 1 else 0)
  ((F32.one.sub fr).mul (e j)).add (fr.mul (e (j + 1)))

/-- The fade of a table by one wingbeat (R198). -/
def ffFade (s : State) (i : Nat) : State :=
  let x := s.ffX i
  if s.g FF.ACTIVE i = 0 && x.w.zero? then s else
  let d := if s.g FF.FADE i = 0 then F32.one else s.twUs.div (F32.ofInt (1000 * s.n FF.FADE i : Nat))
  let w := towards x.w (if s.b FF.ACTIVE i then F32.one else F32.zero) d
  { s with ffx := s.ffx.put {} i { w := w } }

/-- The torque of table `i` (R197). -/
def ffTorque (s : State) (i : Nat) (p : Int) (v : F32) : F32 :=
  let base := ((s.ffX i).w.mul (s.f FF.KFF i)).mul (s.ffValue i p)
  let frv := s.f FF.FRV i
  let t := if s.g FF.KIND i = 1 then base
    else base.mul (if v.abs.lt frv then v.div frv else F32.ofInt v.sgn)
  t.lim (s.f FF.FFLIM i)

/-- The tables that the lookup task of an axis reads, once it is in place (R175). -/
def ffRun (s : State) (x : Nat) : List Nat := if (s.task (76 + 6 * x)).st = 0 then [] else s.ffOf x

/-- The speed reference that FRSRC 0 reads (R197): v_prof where the profile generator gives the setpoint (R239), and that
of the speed loop during a stop or in modes 2 and 3. DESIGN CHOICE (log entry 44): another axis has none, and 0 stands for it. -/
def ffRef (s : State) (x : Nat) : F32 :=
  let st := s.n STOP.STATE x
  let md := s.g AXIS.MODE x
  if st = 1 || st = 2 || st = 4 || s.tuning (loopOf x 1) then (s.axisX x).vref
  else if s.g AXIS.SPSRC x = 0 then (s.axisX x).gen.v
  else if md = 2 || md = 3 then (s.axisX x).vref else F32.zero

/-- The axis friction torque, and the cogging torque of a machine. A friction table that names a machine
adds to that machine; a cogging table of axis level adds to no machine (DEDUCED, log entry 8). -/
def frictionTorque (s : State) (x : Nat) : F32 :=
  (s.ffRun x).foldl (fun t i => if s.g FF.KIND i = 0 && s.n FF.MACH i = 255 then
    t.add (s.ffTorque i (s.g AXIS.POS x) (if s.g FF.FRSRC i = 0 then s.ffRef x else s.f AXIS.SPD x)) else t) F32.zero
def coggingTorque (s : State) (x m : Nat) : F32 :=
  let c := s.n MACH.FBANG m
  let th := if s.fbAvail c then s.g FB.POS c * s.g MACH.MNUM m / s.g MACH.MDEN m else 0
  (s.ffRun x).foldl (fun t i => if s.n FF.MACH i = m then
    t.add (if s.g FF.KIND i = 1 then s.ffTorque i th F32.zero
      else s.ffTorque i (s.g AXIS.POS x) (if s.g FF.FRSRC i = 0 then s.ffRef x else s.f AXIS.SPD x)) else t) F32.zero

/-- TABCRC after an entry write (R198). -/
def ffCrc (s : State) (i : Nat) : State :=
  let bytes := (List.range (s.n FF.N i)).foldl (fun c j => (leInt 4 (s.g FF.ENTRY i j)).foldl crc32cByte c) 0xFFFFFFFF
  s.put FF.TABCRC i ((bytes ^^^ 0xFFFFFFFF : Nat) : Int)

/-- A write of ACTIVE (R198). -/
def ffActive (s : State) (i v : Nat) : Status × State :=
  if v = 1 && s.b FF.CRCCHK i && s.g FF.EXPCRC i != s.g FF.TABCRC i then (.badValue, s)
  else (.ok, s.put FF.ACTIVE i v)

/-! ### Freeze and preset (R190, R203) -/

/-- The owner of a loop is enabled. -/
def loopEnabled (s : State) (n : Nat) : Bool :=
  if n < 32 then s.b MACH.ENABLE n else s.b AXIS.ENABLE ((n - 32) / 4)
def freezeWrite (s : State) (n v : Nat) : Status × State :=
  (.ok, (s.put LOOP.FREEZE n v).put LOOP.FRZACK n (if v = 0 then 0 else s.g LOOP.FRZACK n))

def ipresetWrite (s : State) (n : Nat) (v : F32) : Status × State :=
  if s.loopEnabled n && s.g LOOP.FREEZE n = 0 then (.busy, s)
  else (.ok, s.setLoopX n { s.loopX n with preset := some v })

/-- FREEZE_TIMEOUT (R203). -/
def freezeTimeout (s : State) (n : Nat) : State :=
  if s.g LOOP.FREEZE n = 0 then s
  else ((s.put LOOP.FREEZE n 0).put LOOP.FRZACK n 0).loopFault 0x4105 n (s.axisOfLoop n) 16

/-- A stop ends every freeze of the axis and its machines (R203). -/
def freezeEnd (s : State) (x : Nat) : State :=
  ([0, 1, 2].map (loopOf x) ++ s.machsOf x).foldl (fun s n => (s.put LOOP.FREEZE n 0).put LOOP.FRZACK n 0) s

end State
end Sys2Proof.Machine
end

