-- ==== Sys2Proof/Machine/ArmLoop.lean ====
section
/-! DEFINITION. The arm references and the circulating-current loop (R314, R415–R423). -/
namespace Sys2Proof.Machine
namespace State

/-- The amplitude that the common task has committed, as a fraction of V_dc ÷ √3: u_k is 0 outside RUN (R437, R440). -/
def convAmp (s : State) (c : Nat) : F32 := if s.cvState c = 4 then (s.machX (s.n CONV.MACH c)).amp else F32.zero

/-- The leg voltages u_k that the common task has committed (R314, R415). -/
def legVoltages (s : State) (c : Nat) : List F32 :=
  let m := s.n CONV.MACH c
  let x := s.machX m
  let u := (s.convAmp c).mul ((s.vdcOf m).div F32.sqrt3)
  match s.n CONV.ARMS c with
  | 4 => [u.div (F32.ofInt 2), (u.div (F32.ofInt 2)).neg]
  | 2 => [u]
  | _ => (List.range 3).map fun (k : Nat) =>
      u.mul (sinRev (((x.ang : Int) + 0x40000000 - (k : Int) * (2 ^ 32 : Nat) / 3) % (2 ^ 32 : Nat)).toNat)

/-- u_o of a converter of 2 or 4 arms. -/
def convUo (s : State) (c : Nat) : F32 := (s.convAmp c).mul ((s.vdcOf (s.n CONV.MACH c)).div F32.sqrt3)

/-- The common-mode square wave holds, and its value (R422), which is 0 in FAULTSC (R440). -/
def zeroSeq (s : State) (c : Nat) : Bool × F32 :=
  let m := s.n CONV.MACH c
  let x := s.machX m
  let fe := (x.we.div F32.twoPi).abs
  let on := match s.n CONV.ARMS c with
    | 4 => (s.convUo c).abs.lt (s.f CONV.UXMIN c)
    | 2 => false
    | _ => fe.lt (s.f CONV.LFF c) || !(F32.zero).lt (s.convAmp c)
  let z := s.f CONV.UZAMP c
  (on, if !on || s.cvState c = 8 then F32.zero else if s.wb / s.n CONV.ZHALF c % 2 = 0 then z else z.neg)

/-- w_k of leg `k` with voltage `u` (R422). -/
def legWeight (s : State) (c : Nat) (u : F32) : F32 :=
  let (on, uz) := s.zeroSeq c
  let m := s.n CONV.MACH c
  let amp := (s.f CONV.UZAMP c)
  if on then (if amp.zero? then F32.zero else uz.div amp)
  else if s.n CONV.ARMS c = 6 then u.div ((s.convAmp c).mul ((s.vdcOf m).div F32.sqrt3))
  else if s.n CONV.ARMS c = 2 && (s.convUo c).abs.lt (s.f CONV.UXMIN c) then F32.zero
  else F32.ofInt u.sgn

/-- One evaluation of arm `a` of converter `c` (R420–R422): the next state and the reference u_a with the
integrator I_c, which stands in BALANCE (R438). -/
def armEval (s : State) (c a : Nat) (subst : Bool) : State × F32 × F32 :=
  let j := a - s.n CONV.ARM0 c
  let k := j / 2
  let p := s.n CONV.ARM0 c + 2 * k
  let us := s.legVoltages c
  let u := (us.drop k).headD F32.zero
  let vdc := s.convVdc c
  let (_, uz) := s.zeroSeq c
  let vp := s.f ARM.VMEAN p; let vn := s.f ARM.VMEAN (p + 1)
  let two := F32.ofInt 2
  let sk := (vp.add vn).div two
  let dk := (vp.sub vn).div two
  let pac := us.zipIdx.foldl (fun t (u, i) => t.add (u.mul (s.legCurrent c i))) F32.zero
  let ic := ((s.armCurrent p).add (s.armCurrent (p + 1))).div two
  let ref := ((pac.div ((F32.ofInt (s.n CONV.ARMS c / 2)).mul vdc)).add ((s.f CONV.KSUM c).mul ((s.f CONV.VCTGT c).sub sk))).add
    (((s.f CONV.KDIF c).mul dk).mul (s.legWeight c u))
  let ref := ref.lim (s.f CONV.ICMAX c)
  let i := (s.armX p).ic
  let e := ref.sub ic
  let raw := ((s.f CONV.KPC c).mul e).add i
  let top := s.f CONV.UCMAX c
  let uc := raw.lim top
  let sat := uc != raw || s.b ARM.SAT p || s.b ARM.SAT (p + 1) || subst
  let i' := if sat || s.cvState c = 2 then i else integrate i (s.f CONV.KIC c) s.twS e top.neg top
  let half := vdc.div two
  let v := if j % 2 = 0 then ((half.sub u).sub uz).sub uc else ((half.add u).add uz).sub uc
  (s.setArmX a { s.armX a with icref := ref }, v, i')

/-- Policy 2 at a mark (R440): the short of a converter ends as |n_m| falls to ASCSPD or below. -/
def convTrack (s : State) (c : Nat) : State :=
  let m := s.n CONV.MACH c
  if s.cvState c != 8 || s.n CONV.FPOL c != 2 || 32 ≤ m then s
  else
    let nm := (s.machAngle m).2
    let s := s.setMachX m { s.machX m with nm := nm }
    if (s.f MACH.ASCSPD m).lt nm.abs then s else s.convShortEnd c

/-- The zero of an arm output (R54, R420). -/
def armZero (s : State) (c : Nat) : F32 := (s.convX c).vdcEn.div (F32.ofInt 2)

/-- An arm reference commits at SORT: I_c, and the selection (R421, R425). -/
def armCommit (s : State) (c a : Nat) (out : List F32) : State :=
  let s := match out with
    | _ :: i :: _ => s.setArmX a { s.armX a with ic := i }
    | _ => s
  s.armSelect c a (out.headD F32.zero)

end State
end Sys2Proof.Machine
end

