-- ==== Sys2Proof/Machine/Modulation.lean ====
section
/-! DEFINITION. The modulator (R314–R344) and the bootstrap refresh (R353): the carrier, edges, minimum
pulses, patterns, and the resolution ladder. Instants are in vernier units of 312.5 ps (R40), angles in
2^-32 revolution. -/
namespace Sys2Proof.Machine

/-- 2√3 ÷ π, the ceiling of six-step (R325, R330). -/
def sixCeil : F32 := F32.ofBits 0x3F8D23E6

/-- The angle that passes at `fe` Hz in `dt` vernier units of 1 ÷ 3.2 GHz. -/
def angleIn (fe : F32) (dt : Int) : Int :=
  let m := fe.atScale fe.scale * dt * (2 ^ 32 : Nat)
  if fe.special? || fe.zero? then 0
  else if 0 ≤ fe.scale then m * (2 ^ fe.scale.toNat : Nat) / 3200000000
  else m / (3200000000 * 2 ^ (-fe.scale).toNat : Nat)

/-- The time in vernier units in which `a` ÷ `k` ≥ 0 passes at |`fe`| Hz, none at standstill; to the nearest. -/
def timeOf (fe : F32) (a : Int) (k : Nat) : Option Nat :=
  let m := fe.mant
  if fe.special? || fe.zero? || m = 0 then none
  else
    let n := a * 3200000000
    let d := (m : Int) * (2 ^ 32 : Nat) * k
    some (if 0 ≤ fe.scale then divNear n (d * (2 ^ fe.scale.toNat : Nat))
      else divNear (n * (2 ^ (-fe.scale).toNat : Nat)) d).toNat

namespace State

/-! ### Rungs and patterns (R325–R331) -/

/-- The rung in force. -/
def rungOf (s : State) (i : Nat) : Nat := if (s.stg i).six then 6 else (s.stg i).b

/-- The ceiling of a rung. -/
def rungCeil (s : State) (r : Nat) : F32 := if r = 0 then F32.one else if r = 6 then sixCeil else s.f PAT.CEIL (r - 1)

/-- The angle of row `j`, index `k`, of pattern `p`, in 2^-16 revolution. -/
def patEntry (s : State) (p : Nat) (host : Bool) (j k : Nat) : Nat :=
  if host then s.n PAT.ENTRY p (8 * j + k) else (Config.factoryAngle p j k).toNat

/-- The switching angles of pattern `p` at amplitude `a`, in 2^-32 revolution (R326). -/
def patAngles (s : State) (p : Nat) (host : Bool) (a : F32) : List Int :=
  let ceil := s.f PAT.CEIL p
  let x := ((a.min ceil).mul (F32.ofInt 63)).div ceil
  let j := min 62 x.floor.toNat
  let f := x.sub (F32.ofInt j)
  (List.range (s.n PAT.K p)).map fun k =>
    let lo := F32.ofInt (s.patEntry p host j k); let hi := F32.ofInt (s.patEntry p host (j + 1) k)
    (((F32.one.sub f).mul lo).add (f.mul hi)).floorMul 65536

/-- The angles at which S toggles over one revolution, in order: high just above the first, low above the
next, and so on in turn (R325). -/
def toggles (l : List Int) : List Int :=
  let h : Int := 0x80000000
  let q := [0] ++ l ++ l.reverse.map (h - ·)
  q ++ q.map (h + ·)

/-- The toggles of the pattern in force of stage `i`. -/
def stageToggles (s : State) (i : Nat) : List Int :=
  let r := s.rungOf i
  toggles (if r = 0 || r = 6 then [] else s.patAngles (r - 1) (s.stg i).host (s.machX (s.n STAGE.MACH i)).amp)

/-- S at an angle: the level above the last toggle at or below it. -/
def levelAt (l : List Int) (a : Int) : Bool :=
  let p := a % (2 ^ 32 : Nat)
  (l.filter (· ≤ p)).length % 2 = 1

/-- ψ_h of the machine (R315), and ψ at an instant (R329), not reduced. -/
def psiH (s : State) (i : Nat) : Int := ((s.machX (s.n STAGE.MACH i)).ang : Int) + 0x40000000
def psiAt (s : State) (i t : Nat) : Int :=
  let q := s.stg i
  s.psiH i + angleIn q.fe ((t : Int) - q.ts + q.lead)

/-- The lag of a leg's phase (R315): a third of a revolution each. -/
def phaseLag (k : Nat) : Int := (k : Int) * (2 ^ 32 : Nat) / 3

/-- The next crossing after `from'` at which leg `k` comes to a level other than `lvl`. -/
def syncEdge (s : State) (i k from' : Nat) (lvl : Bool) : Option Nat :=
  let q := s.stg i
  let here := s.psiAt i from' - phaseLag k
  let back := q.fe.neg?
  let l := s.stageToggles i
  let cand := l.zipIdx.filterMap fun (a, j) =>
    let up := j % 2 = 0
    let lv := if back then !up else up
    let d := (if back then here - a else a - here) % (2 ^ 32 : Nat)
    if decide lv = lvl then none else (timeOf q.fe (if d = 0 then (2 ^ 32 : Nat) else d) 1).map (from' + max 1 ·)
  cand.foldl (fun b t => match b with | none => some t | some u => some (min t u)) none

/-! ### The asynchronous rung (R318–R322, R337) -/

/-- The duties of the three legs (R320). -/
def duties (s : State) (i : Nat) : List F32 :=
  let p := s.psiH i
  let r := (List.range 3).map fun k => sinRev ((p - phaseLag k) % (2 ^ 32 : Nat)).toNat
  let hi := (r.drop 1).foldl F32.max (r.headD F32.zero)
  let lo := (r.drop 1).foldl F32.min (r.headD F32.zero)
  let mid := (hi.add lo).div (F32.ofInt 2)
  -- a = 0 until the first handover (R333)
  let g := if (s.stg i).hand then (s.machX (s.n STAGE.MACH i)).amp.div F32.sqrt3 else F32.zero
  r.map fun x => F32.half.add (g.mul (x.sub mid))

/-- One shift of the register of R337. -/
def lfsrStep (r : Nat) : Nat :=
  let b := (r ^^^ (r / 4) ^^^ (r / 8) ^^^ (r / 32)) % 2
  r / 2 + 32768 * b

/-- 16 shifts. -/
def lfsrNext (r : Nat) : Nat := (List.range 16).foldl (fun r _ => lfsrStep r) r

/-- The machine of the stage runs HUSH: its carrier is spread. -/
def spreads (s : State) (i : Nat) : Bool := s.n STAGE.MACH i < 32 && s.g MACH.HUSHST (s.n STAGE.MACH i) = 1

/-- The carrier period after valley `tv`: its peak, its end, and the register. -/
def nextPeriod (s : State) (i tv r : Nat) : Nat × Nat × Nat :=
  if s.spreads i then
    let sj := ((s.stg i).spr.div (F32.ofInt 100)).mul ((F32.ofInt ((r : Int) - 32768)).div (F32.ofInt 32768))
    let half := (((F32.one.add sj).mul (F32.ofFrac (s.carHalf i) 8)).nearest).toNat   -- half the period in timebase cycles
    (tv + half * 8, tv + half * 16, lfsrNext r)
  else
    let (tp, te) := s.plainPeriod i tv
    (tp, te, r)

/-- Half a carrier period of `h` units at duty `d`, to the nearest unit. -/
def dutyTime (d : F32) (h : Nat) : Nat := ((d.floorMul (2 * h) + 1) / 2).toNat

/-- The next asynchronous edge of leg `k` sought from `from'`. -/
def asyncEdge (s : State) (i k from' : Nat) (lvl : Bool) : Option Nat :=
  let q := s.stg i
  let d := ((s.duties i).drop k).headD F32.half
  let (tp2, te2, _) := s.nextPeriod i q.te q.lfsr
  let full := F32.one.le d
  let none' := d.le F32.zero
  if !lvl then
    if none' then none
    else
      let rise := fun tv tp => if full then tv else tp - dutyTime d (tp - tv)
      if from' < q.tp then some (max (rise q.tv q.tp) from') else some (max (rise q.te tp2) from')
  else if full then none
  else
    let fall := fun tp te => if none' then tp else tp + dutyTime d (te - tp)
    if from' < q.te then some (max (fall q.tp q.te) from') else some (max (fall tp2 te2) from')

/-! ### Edges (R321–R323, R353) -/

/-- The next edge of leg `l` from `from'` at level `lvl` by the rung alone. -/
def rungEdge (s : State) (l from' : Nat) (lvl : Bool) : Option Nat :=
  if s.rungOf (l / 3) = 0 then s.asyncEdge (l / 3) (l % 3) from' lvl else s.syncEdge (l / 3) (l % 3) from' lvl

/-- The same, an inserted low interval included (R353). -/
def edgeFrom (s : State) (l from' : Nat) (lvl : Bool) : Option Nat :=
  let e := s.rungEdge l from' lvl
  match (s.leg l).low with
  | none => e
  | some (a, b) =>
    if lvl then (if from' < b then some (max from' (match e with | some t => min t a | none => a)) else e)
    else if from' < b then some (match e with | some t => max t b | none => b) else e

/-- The next edge of leg `l`. -/
def nextEdge (s : State) (l : Nat) : Option Nat :=
  let x := s.leg l
  match x.fix with
  | some t => some t
  | none => s.edgeFrom l x.seek x.lvl

/-- BSPW + DEADT of a leg in vernier units: the length of a qualifying low interval. -/
def bsLen (s : State) (l : Nat) : Nat := s.n STAGE.BSPW (l / 3) * 16 / 5 + s.deadT l

/-- The refresh acts on leg `l` (R353). -/
def refreshes (s : State) (l : Nat) : Bool := s.b STAGE.BSREF (l / 3) && s.b LEG.BOOTEN l

/-- A modulation period of leg `l` ends at `t` (R324, R353). -/
def legPeriod (s : State) (l t : Nat) : State :=
  let i := l / 3
  let x := s.leg l
  if !s.refreshes l then s.setLeg l { x with noLow := 0, lowOk := false, low := none }
  else
    let n := if x.lowOk then 0 else x.noLow + 1
    let x := { x with noLow := n, lowOk := false, low := match x.low with | some (a, b) => if b ≤ t then none else some (a, b) | none => none }
    -- a trip that holds the stage off lets the count go on; the refresh waits for its release (R371)
    if n < s.n STAGE.BSN i || x.low.isSome || s.tripHolds i then s.setLeg l x
    else
      let len := s.bsLen l
      let q := s.stg i
      let iv := if s.rungOf i = 0 then
          -- the first valley whose pulse start lies at least 100 ns ahead
          let (_, te2, _) := s.nextPeriod i q.te q.lfsr
          let v := if t + 320 + len / 2 ≤ q.te then q.te else te2
          (v - len / 2, v - len / 2 + len)
        else (t + 320, t + 320 + len)
      (s.setLeg l { x with noLow := 0, low := some iv }).inc STAGE.REFCNT i

/-- Advances the carrier, or the pattern's period, of a stage in RUN to the instant `t` (R319, R324). -/
def carTo (s : State) (i t : Nat) : Nat → State
  | 0 => s
  | k + 1 =>
    let q := s.stg i
    let r := s.rungOf i
    if r = 0 then
      if t < q.te then s
      else
        let (tp, te, f) := s.nextPeriod i q.te q.lfsr
        let s := s.setStg i { q with tv := q.te, tp := tp, te := te, lfsr := f, perEnd := te }
        carTo ((legsOf i).foldl (fun s l => s.legPeriod l q.te) s) i t k
    else if t < q.perEnd then s
    else
      let n := if r = 6 then 6 else 2 * s.n PAT.K (r - 1) + 1
      match timeOf q.fe (2 ^ 32 : Nat) n with
      | none => s.setStg i { q with perEnd := t + 1 }
      | some d =>
        let s := s.setStg i { q with perEnd := q.perEnd + max 1 d }
        carTo ((legsOf i).foldl (fun s l => s.legPeriod l q.perEnd) s) i t k

/-- MOD modulates stage `i`. -/
def modulates (s : State) (i : Nat) : Bool := s.stState i = 3 && s.tb.refok && !s.tb.ovrd

/-- An edge of leg `l` is placed at `t`; the leg's next edge is sought from there. -/
def placeEdge (s : State) (l t : Nat) (fix : Option Nat) : State :=
  let x := s.leg l
  (s.setLeg l { x with seek := t, fix := fix, last := some t }).setLevel l (!x.lvl) t

/-- MINPW of stage `i` in vernier units. -/
def minLen (s : State) (i : Nat) : Nat := s.n STAGE.MINPW i * 16 / 5

/-- Minimum pulses (R323): leg `l` is to change at `t`. The interval that the edge opens is dropped, has its
second edge moved, or stands. The refresh acts on the commands that leave this rule: the rung's own edges bound the
interval, and a low interval that meets an inserted one is not dropped. -/
def minPulse (s : State) (l t : Nat) : State :=
  let i := l / 3
  let x := s.leg l
  let w := s.minLen i
  match s.edgeFrom l t (!x.lvl) with
  | none => s.placeEdge l t none
  | some e =>
    -- a low interval that begins here and lasts long enough qualifies (R353)
    let ok := fun (s : State) (u : Nat) => if x.lvl && s.bsLen l ≤ u - t then s.setLeg l { s.leg l with lowOk := true } else s
    let meets := x.lvl && (match x.low with | some (a, b) => decide (t < b) && decide (a ≤ e) | none => false)
    let u := if x.lvl then e else (s.rungEdge l t true).getD (t + w)
    if meets || w ≤ u - t then (ok s e).placeEdge l t none
    else if s.g STAGE.MINPOL i = 0 then (s.setLeg l { x with seek := u, fix := none }).inc STAGE.DROPCNT i
    else (ok (s.inc STAGE.DROPCNT i) (t + w)).placeEdge l t (some (t + w))

/-- Leg `l` toggles at the boundary instant `t` (R332). Within MINPW of its previous edge the toggle itself is dropped,
or moved to MINPW after that edge (R340). -/
def boundaryToggle (s : State) (l t : Nat) : State :=
  let i := l / 3
  let x := s.leg l
  match x.last with
  | none => s.minPulse l t
  | some p =>
    if p + s.minLen i ≤ t then s.minPulse l t
    else
      let s := s.inc STAGE.DROPCNT i
      if s.g STAGE.MINPOL i = 0 then s.setLeg l { x with seek := (s.edgeFrom l t (!x.lvl)).getD t, fix := none }
      else s.setLeg l { x with fix := some (p + s.minLen i) }

/-- EDGE_PLACEMENT (R321): MOD begins placing the next edge of leg `l`, 40 cycles before its instant. -/
def edgePlacement (s : State) (l : Nat) : State :=
  let i := l / 3
  if !s.modulates i then s
  else match s.nextEdge l with
  | none => s
  | some t =>
    let mark := s.tb.cycles * 8
    if t < mark + 320 then (s.carTo i s.vnow 64).minPulse l t
    else if mark + s.twCyc * 8 ≤ t - 320 then s
    else
      let s := s.atOff (t - 320 - mark)
      (s.carTo i (t - 320) 64).minPulse l t

/-- A commit at `now` recomputes the next edge of leg `l`; an edge that cannot be placed in time, or a
pattern angle that has passed a switching angle, is a late edge (R322, R329). -/
def reedge (s : State) (l now : Nat) : State :=
  let i := l / 3
  let x := s.leg l
  let late := (s.setLeg l { x with fix := some (now + 320) }).inc STAGE.LATEEDGE i
  if x.fix.isSome then s
  else if s.rungOf i != 0 && levelAt (s.stageToggles i) (s.psiAt i now - phaseLag (l % 3)) != x.lvl && x.seek ≤ now then late
  else match s.edgeFrom l x.seek x.lvl with
  | none => s
  | some t =>
    let q := s.stg i
    -- the half-period that the edge belongs to is still in progress
    let here := s.rungOf i != 0 || (if x.lvl then decide (now < q.te) else decide (now < q.tp))
    if now + 320 ≤ t || x.seek > now then s else if here then late else s.setLeg l { x with seek := now }

/-- The CRC-32C over the host entries of a pattern, row by row (R327). -/
def tableCrc (s : State) (p : Nat) : Nat :=
  crc32c (((List.range 64).map fun j => ((List.range (s.n PAT.K p)).map fun k => le 2 (s.n PAT.ENTRY p (8 * j + k))).flatten).flatten)

/-- The stages whose pattern `p` is in force. -/
def usingPattern (s : State) (p : Nat) : List Nat :=
  (List.range 16).filter fun i => s.stState i = 3 && !(s.stg i).six && (s.stg i).b = p + 1

/-- A host table fails its check: the factory table takes its place from the next 60° boundary (R328, R344). -/
def tableFails (s : State) (p : Nat) : State :=
  let ax := (((s.usingPattern p).map s.axisOfStage).filter (· < 16)).eraseDups
  (s.put PAT.SRC p 0).alarm 0x4503 (16 + p) (35 :: ax.map (16 + ·)) 0 7

/-- The check of pattern `p`; `bad` tells that the stored entries no longer give TABCRC. -/
def checkTable (s : State) (p : Nat) (bad : Bool) : State :=
  if s.b PAT.SRC p && (bad || s.g PAT.TABCRC p != s.g PAT.EXPCRC p) then s.tableFails p else s

/-- TABCRC_CHECK (R328): once per second; `bad` names the patterns whose stored entries no longer give TABCRC. -/
def tabcrcCheck (s : State) (bad : Nat) : State :=
  (List.range 5).foldl (fun s p => if (s.usingPattern p).isEmpty then s else s.checkTable p (bit bad p)) s

/-- A rung takes effect in stage `i` at instant `t`. -/
def rungTo (s : State) (i b : Nat) (six : Bool) (t : Nat) : State :=
  let s := if !six && 0 < b then s.checkTable (b - 1) false else s
  let was := s.rungOf i
  let q := s.stg i
  let q := { q with b := b, six := six, bT := b, sixT := six, host := !six && 0 < b && s.b PAT.SRC (b - 1) }
  let s := s.setStg i q
  let r := s.rungOf i
  if r = was then s
  else
    let s := (s.put STAGE.RUNG i r).inc STAGE.RUNGCNT i
    let s := if r = 0 then
        let (tp, te) := s.plainPeriod i t
        s.setStg i { s.stg i with tv := t, tp := tp, te := te, perEnd := te }
      else s.setStg i { s.stg i with perEnd := t, lowTold := false }
    (legsOf i).foldl (fun s l => s.setLeg l { s.leg l with seek := t, fix := none }) s

/-- A change is pending in stage `i`: a rung, or the factory table in place of a failed host table. -/
def rungPending (s : State) (i : Nat) : Bool :=
  let q := s.stg i
  q.bT != q.b || q.sixT != q.six || (q.host && s.g PAT.SRC (q.b - 1) = 0)

/-- RUNG_CHANGE (R332): ψ of stage `i` crosses a 60° boundary at offset `o` and what is pending takes
effect; ψ exists from the first handover, and a machine in HUSH stays in the asynchronous rung (R336). -/
def rungChange (s : State) (i o : Nat) : State :=
  if !s.modulates i || s.tripHolds i || !s.rungPending i || !(s.stg i).hand || s.spreads i then s
  else
    let s := s.atOff o
    let t := s.vnow
    let s := s.carTo i t 64
    let q := s.stg i
    let s := s.rungTo i q.bT q.sixT t
    if s.rungOf i = 0 then s
    else
      -- each leg takes the command of the new rung at the boundary
      let g : Int := (2 ^ 32 : Nat)
      let sixth := divNear (6 * s.psiAt i t) g
      let at' := divNear (sixth * g) 6
      let just := if q.fe.neg? then at' - 1 else at' + 1
      (legsOf i).foldl (fun s l =>
        if levelAt (s.stageToggles i) (just - phaseLag (l % 3)) != (s.leg l).lvl then s.boundaryToggle l t else s) s

/-! ### The ladder (R317, R331, R333) -/

/-- Rung `r` from 1 to 5 is permitted and |f_e| is at least `k` times its threshold. -/
def rungOk (s : State) (i : Nat) (fe k : F32) (r : Nat) : Bool :=
  bit (s.n STAGE.LADEN i) r && ((s.f STAGE.LADF i (r - 1)).mul k).le fe.abs

/-- "up" of R331. -/
def rungUp (s : State) (i : Nat) (fe : F32) : Nat :=
  ((List.range 5).map (· + 1)).foldl (fun b r => if s.rungOk i fe F32.one r then r else b) 0

/-- b_target of R331. -/
def rungTarget (s : State) (i : Nat) (fe : F32) : Nat :=
  let b := (s.stg i).b
  let up := s.rungUp i fe
  let k := F32.one.sub (s.f STAGE.LADH i)
  if b < up then up
  else if 0 < b && (fe.abs.lt ((s.f STAGE.LADF i (b - 1)).mul k) || !bit (s.n STAGE.LADEN i) b) then
    ((List.range b).filter (0 < ·)).foldl (fun t r => if s.rungOk i fe k r then r else t) 0
  else b

/-- The decision of R331 at an evaluation that gave amplitude `a`; SYNLEAD and SPREAD are taken there too (R341). -/
def ladder (s : State) (i : Nat) (fe a : F32) (clampd : Bool) : State :=
  let q := s.stg i
  let bt := s.rungTarget i fe
  let nC := if clampd then q.nClamp + 1 else 0
  let under := a.lt ((F32.one.sub (s.f STAGE.LADH i)).mul (s.rungCeil bt))
  let nU := if under then q.nUnder + 1 else 0
  let k := s.n STAGE.SIXN i
  let perm := bit (s.n STAGE.LADEN i) 6
  let sixT := if !q.six then perm && 1 ≤ bt && k ≤ nC else !(bt = 0 || k ≤ nU || !perm)
  s.setStg i { q with bT := bt, sixT := sixT, nClamp := nC, nUnder := nU, spr := s.f STAGE.SPREAD i,
                      leadN := ((s.n STAGE.SYNLEAD i : Int) - s.n MACH.ANGLEAD (s.n STAGE.MACH i)) * 16 / 5 }

/-- LOW_PULSE_RATIO (R333): f_c ÷ |f_e| below 9 in the asynchronous rung. -/
def lowRatio (s : State) (i m : Nat) (fe : F32) : State :=
  let fc := F32.ofFrac 2000000000 (s.n STAGE.CARN i * s.twNs)
  let low := s.rungOf i = 0 && s.stState i = 3 && fc.lt ((F32.ofInt 9).mul fe.abs)
  let q := s.stg i
  let s := if low && !q.lowTold then s.loopFault 0x4502 m (s.n MACH.AXIS m) 6 i else s
  s.setStg i { s.stg i with lowTold := low }

/-- MACH.CEILACT for the evaluation dispatched now (R317); `conv` is the ceiling of a converter (R419). -/
def ceilSet (s : State) (m : Nat) (conv : F32) : State :=
  let c := match s.pathOf m with
    | 1 => s.rungCeil (s.rungOf ((s.stageOfMach m).getD 0))
    | 2 => conv
    | _ => s.f MACH.MODMAX m
  s.putF MACH.CEILACT m ((s.f MACH.MODMAX m).min c)

/-- MOD takes a handover of machine `m` at `now`: its amplitude and angle stand in the machine's record, `fe`
in Hz, `ts` the sample instant (R315, R321, R329, R333). -/
def modCommit (s : State) (m : Nat) (fe : F32) (ts now : Nat) : State :=
  match s.stageOfMach m with
  | none => s
  | some i =>
    let s := s.setStg i { s.stg i with lead := (s.stg i).leadN }
    if !s.modulates i then s.setStg i { s.stg i with fe := fe, ts := ts }
    else
      let s := s.carTo i now 64
      let first := !(s.stg i).hand
      let s := s.setStg i { s.stg i with fe := fe, ts := ts, hand := true }
      let s := if first then s.rungTo i (s.rungUp i fe) false now else s
      let s := s.lowRatio i m fe
      (legsOf i).foldl (fun s l => s.reedge l now) s

/-- A wingbeat mark: the carriers advance. -/
def modMark (s : State) : State :=
  (List.range 16).foldl (fun s i => if s.modulates i then s.carTo i s.vnow 64 else s) s

/-! ### Writes (R318, R327, R330, R334) -/

/-- T_c of CARN at a wingbeat length in ns lies in its range (R318). -/
def carnOk (carn tw : Nat) : Bool := 40000 ≤ carn * tw && carn * tw ≤ 2000000

/-- STAGE.TC in µs. -/
def tcOf (carn tw : Nat) : F32 := F32.ofFrac (carn * tw) 2000

/-- LADEN as R330 permits it. -/
def ladOk (s : State) (i laden : Nat) : Bool :=
  let f := fun (r : Nat) => s.f STAGE.LADF i r
  let rs := (List.range 5).filter fun r => bit laden (r + 1)
  rs.all (fun r => !(f r).zero?) &&
    (rs.zip (rs.drop 1)).all (fun (a, b) => (f a).lt (f b)) &&
    !(bit laden 6 && s.n STAGE.MACH i < 32 && (s.f MACH.MODMAX (s.n STAGE.MACH i)).lt (F32.ofFrac 11026 10000))

/-- The amplitude of row `j` of a table (R326). -/
def rowAmp (s : State) (p : Nat) (host : Bool) (j : Nat) : F32 :=
  let t := ((List.range (s.n PAT.K p)).map fun k => (k, cosRev (s.patEntry p host j k * 65536)))
  let sum := t.foldl (fun a (k, c) => if k % 2 = 0 then a.sub c else a.add c) F32.zero
  sixCeil.mul (F32.one.add ((F32.ofInt 2).mul sum))

/-- The rows of a host table rise within a quarter revolution, and have their amplitudes (R327). -/
def rowsOk (s : State) (p : Nat) : Bool :=
  let k := s.n PAT.K p
  let ceil := s.f PAT.CEIL p
  (List.range 64).all fun j =>
    let l := (List.range k).map fun i => s.n PAT.ENTRY p (8 * j + i)
    let up := (l.zip (l.drop 1)).all fun (a, b) => decide (a < b)
    let aj := ((F32.ofInt j).mul ceil).div (F32.ofInt 63)
    up && l.all (fun a => decide (0 < a) && decide (a < 0x4000)) &&
      ((s.rowAmp p true j).sub aj).abs.le ((F32.ofFrac 5 1000).mul ceil)

/-- A stage that is enabled has pattern `p` in force or pending. -/
def patternBusy (s : State) (p : Nat) : Bool :=
  (List.range 16).any fun i => s.b STAGE.ENABLE i &&
    ((!(s.stg i).six && (s.stg i).b = p + 1) || (!(s.stg i).sixT && (s.stg i).bT = p + 1))

/-- PATTERN_SRC (R327). -/
def patternSrc (s : State) (p v : Nat) : Status × State :=
  if v = 1 && (s.g PAT.EXPCRC p != s.g PAT.TABCRC p || !s.rowsOk p) then (.badValue, s)
  else if s.patternBusy p then (.busy, s)
  else (.ok, s.put PAT.SRC p v)

/-- A write of a host entry (R327); it changes TABCRC. -/
def patEntryWrite (s : State) (p x v : Nat) : Status × State :=
  if s.b PAT.SRC p && s.patternBusy p then (.busy, s)
  else
    let s := s.put PAT.ENTRY p v x
    (.ok, s.put PAT.TABCRC p (s.tableCrc p : Nat))

/-- STYLE_WRITE (R334). -/
def styleWrite (s : State) (m v : Nat) : Status × State :=
  if v = 1 && (s.b MACH.KIND m || s.pathOf m != 1 || (s.f MACH.HTKI m).zero? || (s.f MACH.HSTEP m).zero? ||
      (s.f MACH.HIERR m).zero?) then (.badValue, s)
  else (.ok, s.put MACH.STYLE m v)

end State
end Sys2Proof.Machine
end

