-- ==== Sys2Proof/Machine/Can.lean ====
section
/-! DEFINITION. The CAN ports and their partners (R547–R584). TEC and REC follow ISO 11898-1 (PRESUMED,
log entry 10). A frame is in transmission only within the command that ends it. -/
namespace Sys2Proof.Machine

namespace CanFrame
def ide (f : CanFrame) : Bool := bit f.flags 0
def urgent (f : CanFrame) : Bool := bit f.flags 3
def oneshot (f : CanFrame) : Bool := bit f.flags 4
def telem (f : CanFrame) : Bool := bit f.flags 5

/-- The 80 bytes of a ring 14 entry (R562), and what they say. -/
def bytes (f : CanFrame) : List Byte :=
  le 1 f.port ++ le 1 f.flags ++ le 2 f.part ++ le 4 f.id ++ le 1 f.data.length ++ zeros 7 ++ padTo 64 f.data
def ofBytes (l : List Byte) : CanFrame :=
  { port := unle (slice 0 1 l) % 4, flags := unle (slice 1 1 l) % 64, part := unle (slice 2 2 l),
    id := unle (slice 4 4 l), data := slice 16 (min 64 (unle (slice 8 1 l))) l }

/-- The base and extended parts that decide arbitration, base frames first (R564). -/
def rank (f : CanFrame) : Nat :=
  if f.ide then f.id / 2 ^ 18 % 2048 * 2 ^ 19 + 2 ^ 18 + f.id % 2 ^ 18 else f.id % 2048 * 2 ^ 19
end CanFrame

def CanPort.buf (x : CanPort) (k : Nat) : Option CanBuf := if k = 0 then x.buf0 else if k = 1 then x.buf1 else x.buf2
def CanPort.setBuf (x : CanPort) (k : Nat) (b : Option CanBuf) : CanPort :=
  if k = 0 then { x with buf0 := b } else if k = 1 then { x with buf1 := b } else { x with buf2 := b }

def CanRx.bytes (f : CanRx) (p : Nat) : List Byte :=
  le 1 p ++ le 1 f.flags ++ le 1 f.data.length ++ [0] ++ le 4 f.id ++ le 8 f.ts ++ padTo 64 f.data

def canLens : List Nat := [0, 1, 2, 3, 4, 5, 6, 7, 8]
def fdLens : List Nat := [12, 16, 20, 24, 32, 48, 64]

namespace State

def canP (s : State) (p : Nat) : CanPort := s.canx.find {} p
def setCan (s : State) (p : Nat) (x : CanPort) : State := { s with canx := s.canx.put {} p x }
def partX (s : State) (i : Nat) : PartX := s.partx.find {} i
def setPart (s : State) (i : Nat) (x : PartX) : State := { s with partx := s.partx.put {} i x }
def cState (s : State) (p : Nat) : Nat := s.n CAN.STATE p

/-- Timebase cycles in one second of reference time. -/
def cyclesPerS : Nat := 400000000

def portFault (s : State) (code p detail : Nat) : State := s.alarm code p [37, 40 + p] detail 22

/-- The axes that bind a partner (R584). -/
def axesOfPart (s : State) (i : Nat) : List Nat :=
  let a := 256 + i
  (List.range 16).filter fun x =>
    (s.machsOf x).any (fun m => s.g PART.MACH i == m || s.n MACH.THSRC m == a) ||
    (s.g AXIS.SPSRC x == 4 && s.n AXIS.SPIDX x == i) || s.n AXIS.TSRC x == a || s.n PROF.BRKIN x == a || s.n POOL.BRKOUT x == a
def partFault (s : State) (code i : Nat) : State := s.alarm code i (37 :: (s.axesOfPart i).map (16 + ·)) 0 23

/-! ### Transmission (R562–R568) -/

/-- Enters a state of the port: event 40 + p, and the faults of R557. -/
def canTo (s : State) (p st : Nat) : State :=
  let was := s.cState p
  if was = st then s else
    let s := (s.put CAN.STATE p st).raise (40 + p)
    if st = 3 then s.portFault 0x6101 p 0
    else if st = 4 then s.portFault 0x6102 p 0
    else if st = 2 && (was = 3 || was = 4) then s.ledger 0xF007 p p
    else s

/-- Telemetry suppression acts on port `p` (R482). -/
def suppPort (s : State) (p : Nat) : Bool := s.supp.on && (s.supp.all || bit s.supp.ports p ||
  (List.range 256).any fun i => s.g PART.PORT i == p && s.b PART.EN i && (s.axesOfPart i).any fun x => bit s.supp.axes x)

/-- Loads empty buffers from the queues (R564). -/
def canLoad (s : State) (p : Nat) : State :=
  let x := s.canP p
  let x := match x.buf2, x.urg with
    | none, f :: t => { x with buf2 := some { f := f, seq := x.seq }, urg := t, seq := x.seq + 1 }
    | _, _ => x
  let x := match x.buf0, x.norm with
    | none, f :: t => { x with buf0 := some { f := f, seq := x.seq }, norm := t, seq := x.seq + 1 }
    | _, _ => x
  let x := match x.buf1, x.norm with
    | none, f :: t => { x with buf1 := some { f := f, seq := x.seq }, norm := t, seq := x.seq + 1 }
    | _, _ => x
  let s := s.setCan p x
  s.put CAN.TXBST p ((b2n x.buf0.isSome + 4 * b2n x.buf1.isSome + 16 * b2n x.buf2.isSome : Nat) : Int)

/-- One entry of ring 14 moves to its port's queue; false while an urgent entry must wait, which is counted once for each
pause (R563). -/
def canTake (s : State) : State × Bool :=
  let r := s.ring 14
  if r.empty then (s, false) else
    let f := CanFrame.ofBytes (s.getBytes (r.entry r.tail) 80)
    let x := s.canP f.port
    let paused := s.canPaused
    let s := { s with canPaused := false }
    if f.telem && s.suppPort f.port then ((s.consume 14).inc STOPDEV.SUPCNT, true)
    else if f.urgent then
      if x.urg.any fun q => q.id = f.id && q.ide == f.ide then
        ((s.setCan f.port { x with urg := x.urg.map fun q => if q.id = f.id && q.ide == f.ide then f else q }).consume 14, true)
      else if x.urg.length < 8 then
        (((s.setCan f.port { x with urg := x.urg ++ [f] }).consume 14).canLoad f.port, true)
      else ({ (if paused then s else s.inc CAN.PAUSE f.port) with canPaused := true }, false)
    else if x.norm.length < 32 then (((s.setCan f.port { x with norm := x.norm ++ [f] }).consume 14).canLoad f.port, true)
    else (((s.consume 14).inc CAN.TXDROP f.port).raise 62, true)

/-- The CAN block takes what it can of ring 14. -/
def canPump : Nat → State → State
  | 0, s => s
  | k + 1, s => match s.canTake with
    | (s, true) => canPump k s
    | (s, false) => s

/-- Appends a frame to ring 14 and lets the block take it; false where the ring is full. -/
def canSend (s : State) (f : CanFrame) : State × Bool :=
  if !s.hasRoom 14 then (s, false) else (canPump 256 (s.produce 14 f.bytes), true)

/-- Aethino stages an urgent frame, or keeps it for a later wingbeat where ring 14 is full (R563). -/
def canStage (s : State) (f : CanFrame) : State :=
  match s.canSend f with
  | (t, true) => t
  | (t, false) => { t with urgDue := t.urgDue ++ [f] }

/-- The frames kept are staged again. -/
def canRetry (s : State) : State := s.urgDue.foldl State.canStage { s with urgDue := [] }

/-- The buffer that the port chooses for its next frame (R564). -/
def canChoice (s : State) (p : Nat) : Option Nat :=
  let x := s.canP p
  let l := [(0, x.buf0), (1, x.buf1), (2, x.buf2)].filterMap fun (k, b) => b.map fun b => (k, b)
  let best := fun (key : CanBuf → Nat) (l : List (Nat × CanBuf)) =>
    (l.foldl (fun (o : Option (Nat × CanBuf)) e => match o with
      | none => some e
      | some q => if key e.2 < key q.2 then some e else o) none).map (·.1)
  if x.first && x.buf2.isSome then some 2
  else if s.g CAN.TXORD p = 0 then best (fun b => b.f.rank) l
  else if x.buf2.isSome then some 2 else best (fun b => b.seq) l


/-- The port may transmit: ACTIVE or PASSIVE with the reference. -/
def canMaySend (s : State) (p : Nat) : Bool :=
  (s.cState p = 2 || s.cState p = 3) && s.tb.refok && !s.tb.ovrd && !s.b CAN.RESTR p && s.n POWER.PSTATE ≤ 2

/-- ISO 11898-1 state by TEC and REC. -/
def errState (s : State) (p : Nat) : Nat := if s.n CAN.TEC p > 127 || s.n CAN.REC p > 127 then 3 else 2

/-- The port enters BUSOFF (R559): at BOFFMAX entries within 60 s AUTOREC is suspended. -/
def busOff (s : State) (p : Nat) : State :=
  let x := s.canP p
  let now := s.tb.cycles
  let l := (x.boffs.filter fun t => now < t + 60 * cyclesPerS) ++ [now]
  let max := s.n CAN.BOFFMAX p
  let many := max != 0 && l.length ≥ max
  let s := (s.inc CAN.BOFFCNT p).canTo p 4
  let s := s.put CAN.RECSEQ p 0
  let s := s.setCan p { s.canP p with boffs := l, susp := many, count := s.b CAN.AUTOREC p && !many }
  if many then s.portFault 0x6103 p 0 else s

/-- Sets TEC and REC, the warning event and the state that follows (R557, R558). -/
def setErr (s : State) (p tec rc : Nat) : State :=
  let w := (s.n CAN.TEC p < 96 && 96 ≤ tec) || (s.n CAN.REC p < 96 && 96 ≤ rc)
  let s := (s.put CAN.TEC p tec).put CAN.REC p rc
  let s := if w then s.raise (40 + p) else s
  if s.cState p = 2 || s.cState p = 3 then (if tec > 255 then s.busOff p else s.canTo p (s.errState p)) else s

/-- An attempt of buffer `k` failed (R565). -/
def canAttempt (s : State) (p k : Nat) : State :=
  let x := s.canP p
  match x.buf k with
  | none => s
  | some b =>
    let n := b.tries + 1
    let lim := if k = 2 then s.n CAN.URETRYMAX p else s.n CAN.RETRYMAX p
    if b.f.oneshot then canPump 256 ((s.setCan p (x.setBuf k none)).canLoad p)
    else if lim != 0 && n > lim then
      canPump 256 ((((s.setCan p (x.setBuf k none)).inc CAN.TXFAIL p).portFault 0x6201 p b.f.id).canLoad p)
    else s.setCan p (x.setBuf k (some { b with tries := n }))

/-- An FD frame with BRS measures the transmitter delay while TDCEN is 1 (R554); the spec gives the measured
value no rule, so it is free from 0 to 63. -/
def canTdc (s : State) (p : Nat) (f : CanFrame) : State :=
  if s.b CAN.TDCEN p && bit f.flags 1 && bit f.flags 2 then
    let (v, s) := s.takeWord
    (s.put CAN.TDCV p (v.toNat % 64 : Nat)).setCan p { s.canP p with tdcBad := false }
  else s

/-- CAN_TX_DONE: the frame that the port chose has been sent. -/
def canTxDone (s : State) (p : Nat) : State :=
  if !s.canMaySend p then s else
    match s.canChoice p with
    | none => s
    | some k =>
      let s := match (s.canP p).buf k with | some b => s.canTdc p b.f | none => s
      let s := (s.setCan p { (s.canP p).setBuf k none with first := false }).inc CAN.TXFR p
      let s := s.setErr p (s.n CAN.TEC p - 1) (s.n CAN.REC p)
      canPump 256 (s.canLoad p)

/-- ARBITRATION_LOST: an attempt of the chosen buffer. -/
def arbitrationLost (s : State) (p : Nat) : State :=
  if !s.canMaySend p then s else
    match s.canChoice p with
    | none => s
    | some k =>
      let s := s.setCan p { s.canP p with first := false }
      (s.inc CAN.ARBLOST p).canAttempt p k

/-- CAN_ERROR: an error of a frame that the port sends (`tx`) or receives; `dt` and `dr` are what ISO 11898-1
adds to TEC and REC, and `tdc` says that the measured delay lies above 63 cycles (R555). -/
def canError (s : State) (p : Nat) (tx tdc : Bool) (dt dr : Nat) : State :=
  let st := s.cState p
  if !(st = 2 || st = 3 || st = 5) || !s.tb.refok then s else
    let s := s.inc CAN.ERRCNT p
    let s := if tdc && tx && s.b CAN.TDCEN p && !(s.canP p).tdcBad then
        (s.setCan p { s.canP p with tdcBad := true }).portFault 0x6105 p 0 else s
    if st = 5 then s else
      let s := s.setErr p (s.n CAN.TEC p + dt) (s.n CAN.REC p + dr)
      if !tx then s else match s.canChoice p with
        | some k => (s.setCan p { s.canP p with first := false }).canAttempt p k
        | none => s

/-- BUS_OFF_RECOVERY: `n` occurrences of 11 recessive bits counted, 128 in all (R559). -/
def busOffRecovery (s : State) (p : Nat) : State :=
  if s.cState p != 4 || !(s.canP p).count then s else
    let s := ((s.put CAN.TEC p 0).put CAN.REC p 0).put CAN.RECSEQ p 128
    let s := s.setCan p { s.canP p with count := false, susp := false, first := true }
    s.canTo p (if s.b CAN.RESTR p then 5 else 2)

/-- BUS_INTEGRATION: 11 consecutive recessive bits in INTEGRATING (R557). -/
def busIntegration (s : State) (p : Nat) : State :=
  if s.cState p != 1 || !s.tb.refok then s else
    let s := s.setCan p { s.canP p with first := true }
    s.canTo p (if s.b CAN.RESTR p then 5 else s.errState p)

/-- PROTOCOL_EXCEPTION (R561). -/
def protocolException (s : State) (p : Nat) : State :=
  let st := s.cState p
  if !(st = 2 || st = 3 || st = 5) || s.b CAN.FDEN p || !s.b CAN.PEXC p then s else
    let s := (s.inc CAN.PEXCCNT p).canTo p 1
    if (s.canP p).pexAt.any fun t => s.tb.cycles < t + cyclesPerS then s
    else (s.setCan p { s.canP p with pexAt := some s.tb.cycles }).portFault 0x6104 p 0

/-! ### Requests of a port (R552, R559, R560, R579) -/

/-- The timing rules of R552 hold. -/
def canTimingOk (s : State) (p : Nat) : Bool :=
  let nb := (1 + s.n CAN.NTSEG1 p + s.n CAN.NTSEG2 p) * s.n CAN.NBRP p
  let db := (1 + s.n CAN.DTSEG1 p + s.n CAN.DTSEG2 p) * s.n CAN.DBRP p
  decide (s.n CAN.NSJW p ≤ s.n CAN.NTSEG2 p) && decide (s.n CAN.DSJW p ≤ s.n CAN.DTSEG2 p) &&
    decide (8 ≤ 1 + s.n CAN.NTSEG1 p + s.n CAN.NTSEG2 p) && decide (80 ≤ nb) &&
    (!s.b CAN.FDEN p || (decide (5 ≤ 1 + s.n CAN.DTSEG1 p + s.n CAN.DTSEG2 p) && decide (10 ≤ db) && decide (db ≤ nb))) &&
    (!s.b CAN.NTRIP p || (decide (320 ≤ nb) && decide (3 ≤ s.n CAN.NTSEG1 p))) && (!s.b CAN.TDCEN p || s.b CAN.FDEN p)

def canEnable (s : State) (p : Nat) : Status × State :=
  if s.b CAN.EN p then (.ok, s)
  else if !s.canTimingOk p then (.badValue, s)
  else (.ok, (((s.put CAN.EN p 1).put CAN.TEC p 0).put CAN.REC p 0).canTo p 1)

def canDisable (s : State) (p : Nat) : Status × State :=
  let used := (List.range 256).any fun i => s.b PART.EN i && s.g PART.PORT i == p && s.g PART.KIND i == 1 &&
    s.n PART.MACH i < 32 && s.b MACH.ENABLE (s.n PART.MACH i)
  if used then (.busy, s)
  else
    let x := s.canP p
    let k := x.urg.length + x.norm.length + b2n x.buf0.isSome + b2n x.buf1.isSome + b2n x.buf2.isSome
    let s := s.inc CAN.TXDROP p 0 k
    let s := s.setCan p { x with urg := [], norm := [], buf0 := none, buf1 := none, buf2 := none, count := false, susp := false }
    (.ok, canPump 256 (((s.put CAN.TXBST p 0).put CAN.EN p 0).canTo p 0))

def canRecover (s : State) (p : Nat) : Status × State :=
  if s.cState p != 4 then (.busy, s) else (.ok, s.setCan p { s.canP p with count := true })

/-- A write of RESTR (R560). -/
def restrWrite (s : State) (p v : Nat) : Status × State :=
  let s := s.put CAN.RESTR p v
  let st := s.cState p
  if v = 1 then (.ok, if st = 2 || st = 3 then s.canTo p 5 else s)
  else if st = 5 then (.ok, (s.setCan p { s.canP p with first := true }).canTo p (s.errState p))
  else (.ok, s)

/-! ### Partners (R573–R578) -/

/-- The bytes of a field format, and its value from raw bytes (R576). -/
def fmtBytes (f : Nat) : Nat := if 2 ≤ f && f ≤ 5 then 4 else 2
def fmtRead (f : Nat) (l : List Byte) : F32 :=
  let n := fmtBytes f
  let v := unle (if f % 2 = 1 then (padTo n l).reverse else padTo n l)
  if f = 4 || f = 5 then F32.ofBits (v : Nat)
  else if f ≥ 6 then F32.ofInt v
  else F32.ofInt (if 2 * v ≥ 256 ^ n then (v : Int) - (256 ^ n : Nat) else v)
def fmtWrite (f : Nat) (v : F32) : List Byte :=
  let n := fmtBytes f
  let half : Int := (256 ^ n / 2 : Nat)
  let i := if v.special? then (if v.nan? then 0 else if v.neg? then -(2 : Int) ^ 40 else 2 ^ 40) else v.nearest
  let w := if f = 4 || f = 5 then v.toBits
    else if f ≥ 6 then max 0 (min i (2 * half - 1)) else max (-half) (min i (half - 1))
  let b := leInt n w
  if f % 2 = 1 then b.reverse else b

/-- `l` with `b` written at byte `o`. -/
def overlay (l : List Byte) (o : Nat) (b : List Byte) : List Byte := l.take o ++ b ++ l.drop (o + b.length)

/-- The torque demand that a remote drive is sent (R577). -/
def partDemand (s : State) (i : Nat) : F32 :=
  let m := s.n PART.MACH i
  if !(s.partX i).cen || m ≥ 32 || (s.machX m).policy || !s.b MACH.ENABLE m then F32.zero
  else (s.machX m).dem.lim (s.f MACH.TMAXM m)

/-- The command frame of partner `i` (R576). -/
def partFrame (s : State) (i : Nat) (urgent : Bool) : CanFrame :=
  let x := s.partX i
  let kd := s.n PART.KIND i
  let fl := s.n PART.TXFLAGS i
  let base := padTo 64 (le 8 (s.n PART.TXDATA i))
  let cw := s.n PART.CWBASE i
  let put := fun (w b : Nat) (v : Bool) => if b < 16 then setBits w b 1 (b2n v) else w
  let cw := if kd = 1 then put cw (s.n PART.CEN i) x.cen else cw
  let cw := if kd = 2 then put cw (s.n PART.CBRK i) x.rel else cw
  let l := if s.n PART.CWOFF i < 64 then overlay base (s.n PART.CWOFF i) (le 2 cw) else base
  let v := if kd = 1 then s.partDemand i else if kd = 0 then s.numeric (s.n PART.TXSRC i) else F32.zero
  let l := if s.n PART.OOFF i < 64 then
      overlay l (s.n PART.OOFF i) (fmtWrite (s.n PART.OFMT i) ((s.f PART.OGAIN i).mul v)) else l
  let id := s.n PART.TXID i
  { port := s.n PART.PORT i, part := i, id := id % 2 ^ 29, data := l.take (s.n PART.TXLEN i),
    flags := b2n (bit id 31) + 2 * b2n (bit fl 0) + 4 * b2n (bit fl 1) + 8 * b2n urgent + 32 * b2n (kd = 0 && bit fl 2) }

/-- Stages one urgent frame of the present command (R577, R578). -/
def partUrgent (s : State) (i : Nat) : State := s.canStage (s.partFrame i true)

/-- The slot of partner `i` at this mark (R567, R568). -/
def partSlot (s : State) (i : Nat) : State :=
  let per := s.n PART.PERIOD i
  let p := s.n PART.PORT i
  if !s.b PART.EN i || per = 0 || (s.wb + per - s.n PART.PHASE i % per) % per != 0 then s
  else
    let f := s.partFrame i false
    if f.telem && s.suppPort p then s.inc STOPDEV.SUPCNT
    else
      let x := s.canP p
      let mine := fun (q : CanFrame) => decide (q.part = i) && !q.urgent
      let bmine := fun (b : Option CanBuf) => match b with | some b => mine b.f | none => false
      if x.norm.any mine then
        (s.setCan p { x with norm := x.norm.map fun q => if mine q then f else q }).inc PART.REPL i
      else if bmine x.buf0 then
        (s.setCan p { x with buf0 := some { f := f, seq := (x.buf0.map (·.seq)).getD 0 } }).inc PART.REPL i
      else if bmine x.buf1 then
        (s.setCan p { x with buf1 := some { f := f, seq := (x.buf1.map (·.seq)).getD 0 } }).inc PART.REPL i
      else match s.canSend f with
        | (s, true) => s
        | (s, false) => s.inc PART.LOSTTX i

/-- The urgent frames that wait, and every slot of a mark; only partners that are enabled are looked at. -/
def canMark (s : State) : State :=
  let s := s.canRetry
  if !s.tb.refok then s else (List.range 256).foldl (fun s i => if s.b PART.EN i then s.partSlot i else s) s

/-- Telemetry suppression begins on ports: frames with TELEM leave queues and buffers (R568). -/
def suppFlush (s : State) : State :=
  (List.range 4).foldl (fun s p =>
    if !s.suppPort p then s else
      let x := s.canP p
      let bad := fun (b : Option CanBuf) => match b with | some b => b.f.telem | none => false
      let k := (x.norm.filter (·.telem)).length + (x.urg.filter (·.telem)).length + b2n (bad x.buf0) + b2n (bad x.buf1) +
        b2n (bad x.buf2)
      if k = 0 then s else
        canPump 256 (((s.setCan p { x with norm := x.norm.filter (fun f => !f.telem), urg := x.urg.filter (fun f => !f.telem),
                                           buf0 := if bad x.buf0 then none else x.buf0, buf1 := if bad x.buf1 then none else x.buf1,
                                           buf2 := if bad x.buf2 then none else x.buf2 }).inc STOPDEV.SUPCNT 0 0 k).canLoad p)) s

/-- The disable command of a remote drive (R577): CEN cleared, one urgent frame at once. -/
def partDisable (s : State) (m : Nat) : State :=
  match s.partOfMach m with
  | none => s
  | some i => (s.setPart i { s.partX i with cen := false, wait := false }).partUrgent i

/-- The partner's machine enters its fault policy (R577). -/
def partPolicy (s : State) (i : Nat) : State :=
  let m := s.n PART.MACH i
  if s.g PART.KIND i = 1 && m < 32 && s.b MACH.ENABLE m then (s.machFault m 0).partDisable m |>.axisAllFaulted (s.n MACH.AXIS m) else s

/-- A write of PART EN (R573). -/
def partEnable (s : State) (i v : Nat) : Status × State :=
  let m := s.n PART.MACH i
  let kd := s.n PART.KIND i
  let p := s.n PART.PORT i
  let out := fun (k : Mem) (w len : Nat) => decide (s.n k i < 255) && decide (s.n k i + w > len)
  let has := fun (k : Mem) => decide (s.n k i < 255)
  if v = 0 then
    if kd = 1 && m < 32 && s.b MACH.ENABLE m then (.busy, s)
    else (.ok, ((s.put PART.EN i 0).put PART.VALID i 0).setPart i {})
  else if s.b PART.EN i then (.ok, s)
  else if p ≥ 4 || ((List.range 256).filter fun j => s.b PART.EN j && s.g PART.PORT j == p).length ≥ 128 ||
      out PART.VOFF (fmtBytes (s.n PART.VFMT i)) 64 || out PART.SOFF 2 64 || out PART.CWOFF 2 (s.n PART.TXLEN i) ||
      out PART.OOFF (fmtBytes (s.n PART.OFMT i)) (s.n PART.TXLEN i) ||
      (kd = 1 && (m ≥ 32 || !has PART.CWOFF || !has PART.CEN || !has PART.OOFF || !has PART.SREADY || s.g PART.PERIOD i = 0 ||
        (List.range 256).any (fun j => j != i && s.g PART.KIND j == 1 && s.g PART.MACH j == m && s.b PART.EN j) ||
        (s.stageOfMach m).isSome || (s.convOfMach m).isSome)) ||
      (kd = 2 && (!has PART.CWOFF || !has PART.CBRK || s.g PART.PERIOD i = 0)) then (.badValue, s)
  else (.ok, s.put PART.EN i 1)

/-- PARTNER_SILENT (R575). -/
def partSilent (s : State) (i : Nat) : State :=
  if !s.b PART.EN i || (s.partX i).silent then s
  else (((s.put PART.VALID i 0).setPart i { s.partX i with silent := true }).partFault 0x6301 i).partPolicy i

/-- PARTNER_ENABLE_TIMEOUT (R577). -/
def partEnableTimeout (s : State) (i : Nat) : State :=
  if !(s.partX i).wait then s
  else (s.setPart i { s.partX i with cen := false, wait := false }).partFault 0x6303 i

/-! ### Reception (R569, R570, R574) -/


/-- The machine of a remote drive becomes enabled; the axis joins it in `Pool`. -/
def machOnNote (s : State) (m : Nat) : State :=
  let s := (s.put MACH.ENABLE m 1).dispatch 6 m true
  s.setMachX m { s.machX m with enWb := s.wb, policy := false, bad := 0, leave := false,
                                w := if s.n MACH.AXIS m < 16 && s.b AXIS.ENABLE (s.n MACH.AXIS m) then F32.zero else F32.one }

/-- A matching frame updates partner `i` (R574, R575, R577). -/
def partIn (s : State) (i : Nat) (f : CanRx) : State :=
  let d := padTo 64 f.data
  let s := if s.n PART.VOFF i < 64 then
      s.putF PART.VALUE i (((s.f PART.VGAIN i).mul (fmtRead (s.n PART.VFMT i) (d.drop (s.n PART.VOFF i)))).add (s.f PART.VOFFS i)) else s
  let was := s.n PART.STAT i
  let st := if s.n PART.SOFF i < 64 then unle (slice (s.n PART.SOFF i) 2 d) else was
  let s := (((s.put PART.STAT i st).put PART.VALID i 1).put PART.LASTRX i f.ts).inc PART.RXCNT i
  let s := s.setPart i { s.partX i with silent := false }
  let fl := s.n PART.SFLT i
  let flt := fl < 16 && bit st fl
  let s := if flt && !bit was fl then s.partFault 0x6302 i else s
  let m := s.n PART.MACH i
  let s := if (s.partX i).wait && s.n PART.SREADY i < 16 && bit st (s.n PART.SREADY i) && m < 32 then
      (s.setPart i { s.partX i with wait := false }).machOnNote m
    else s
  if flt then s.partPolicy i else s

def partMatches (s : State) (i p : Nat) (f : CanRx) : Bool :=
  s.b PART.EN i && s.g PART.PORT i == p && bit (s.n PART.RXID i) 31 == bit f.flags 0 &&
    ((f.id ^^^ s.n PART.RXID i) &&& s.n PART.RXMASK i) % 2 ^ 29 == 0

/-- The frame matches the stop matcher of port `p` (R571, R572). -/
def smMatches (s : State) (p : Nat) (f : CanRx) : Bool :=
  let x := s.canP p
  let fd := bit f.flags 1
  let fmt := bits x.smcfg 1 2
  let ok := fun (k : Nat) =>
    let pat := (if k < 4 then x.smd0 else x.smd1) / 256 ^ (k % 4) % 256
    let mask := (if k < 4 then x.smdm0 else x.smdm1) / 256 ^ (k % 4) % 256
    (((f.data.getD k 0).toNat ^^^ pat) &&& mask) == 0
  bit x.smcfg 0 && s.tb.refok && s.n POWER.PSTATE ≤ 3 && !bit f.flags 4 && bit x.smid 31 == bit f.flags 0 &&
    ((f.id ^^^ x.smid) &&& x.smidm) % 2 ^ 29 == 0 && (fmt == 0 || (fmt == 1 && !fd) || (fmt == 2 && fd)) &&
    decide (bits x.smcfg 3 4 ≤ f.data.length) && (List.range 8).all ok

/-- CAN_FRAME_RECEIVED (R569, R570). -/
def canFrameReceived (s : State) (p : Nat) (f : CanRx) : State :=
  let st := s.cState p
  if !(st = 2 || st = 3 || st = 5) || !s.tb.refok then s else
    let s := s.inc CAN.RXFR p
    let rc := s.n CAN.REC p
    let (k, s) := if rc > 127 then s.takeInt else ((0 : Int), s)
    let s := if st = 5 then s
      else s.setErr p (s.n CAN.TEC p) (if rc > 127 then 119 + (k % 9).toNat else rc - 1)
    let n := 10 + p
    if !s.hasRoom n then ((s.inc HRING.LOST n).markLoss n).raise 62
    else
      let f := { f with flags := setBits f.flags 5 1 (b2n (s.smMatches p f)) }
      let s := s.produce n (f.bytes p)
      let s := (List.range 256).foldl (fun s i => if s.partMatches i p f then s.partIn i f else s) s
      if (s.ring n).hostc then s else s.consume n

/-! ### Brakes (R273, R274, R299, R578) -/

/-- The brake is reported applied at BRKIN. -/
def brakeOn (s : State) (x : Nat) : Bool :=
  let b := s.n PROF.BRKIN x
  if b < 32 then s.dioActive b
  else if 256 ≤ b && b < 512 then
    let p := b - 256
    s.b PART.VALID p && s.n PART.SBRK p < 16 && bit (s.n PART.STAT p) (s.n PART.SBRK p)
  else false

/-- Drives the brake output of axis `x`: the DIO, or the command of the partner (R299). -/
def brkDrive (s : State) (x : Nat) (v : Bool) : State :=
  let o := s.n POOL.BRKOUT x
  if o < 32 then s.dioDrive o v
  else if 256 ≤ o && o < 512 then
    let i := o - 256
    (s.setPart i { s.partX i with rel := v }).partUrgent i
  else s

/-- Sets BRKREQ of axis `x`, 1 for release, and drives BRKOUT. -/
def brkReq (s : State) (x : Nat) (v : Bool) : State :=
  if s.b PROF.BRKREQ x = v then s else (s.putB PROF.BRKREQ x v).brkDrive x v

/-- The write `t` of BRKOUT of axis `x`, or of FUNC of a DIO: an output that the axis no longer names is not driven for
it any more, and the one that it names carries a standing request (R299). -/
def brkMoved (s t : State) (x : Nat) : State :=
  if !s.b PROF.BRKREQ x then t
  else if s.n POOL.BRKOUT x = t.n POOL.BRKOUT x then t.brkDrive x true
  else
    let o := s.n POOL.BRKOUT x
    let t : State := if o < 32 then t.dioDrive o false
      else if 256 ≤ o && o < 512 then (t.setPart (o - 256) { t.partX (o - 256) with rel := false }).partUrgent (o - 256) else t
    t.brkDrive x true

end State
end Sys2Proof.Machine
end

