-- ==== Sys2Proof/Machine/Motion.lean ====
section
/-! DEFINITION. The profile generator (R239–R282): limits, moves and their queue, plans of up to seven
phases, homing, registration, limit switches, gearing, the standstill reduction. A plan is kept in whole
numbers: positions in 2^-32 rev, speeds in 2^-32 rpm, accelerations and jerks likewise, times in ps; the
spec states no arithmetic for it beyond the rounding of each step (DESIGN CHOICE, log entry 9). -/
namespace Sys2Proof.Machine

/-! ### Phases (R253) -/

/-- One picosecond count of a second. -/
def psS : Int := 1000000000000

/-- The distance, the speed and the acceleration after `t` ps of a phase from speed `v`. -/
def Phase.at (f : Phase) (v : Int) (t : Nat) : Int × Int × Int :=
  let t : Int := t
  (divNear (6 * v * t * psS * psS + 3 * f.acc * t * t * psS + f.jerk * t * t * t) (360 * psS * psS * psS),
   v + divNear (2 * f.acc * t * psS + f.jerk * t * t) (2 * psS * psS), f.acc + divNear (f.jerk * t) psS)

/-- Where a list of phases has come after `t` ps: at its end it keeps its speed. -/
def phasesAt : List Phase → Int → Nat → Int × Int × Int
  | [], v, t => (divNear (v * t) (60 * psS), v, 0)
  | f :: r, v, t =>
    if t < f.dur then f.at v t
    else
      let (d, w, _) := f.at v f.dur
      let (e, x, a) := phasesAt r w (t - f.dur)
      (d + e, x, a)

def phasesDur (l : List Phase) : Nat := l.foldl (fun k f => k + f.dur) 0
/-- Distance and final speed of a list of phases from speed `v`. -/
def travel (l : List Phase) (v : Int) : Int := (phasesAt l v (phasesDur l)).1

def isqrtI (n : Int) : Int := (F32.isqrt n.toNat 80 0 : Nat)

/-- Speed `v` with acceleration `a` to speed `w` with none, at limit `lim` (above 0) and jerk `j`
(0 for no limit). -/
def ramp (v a w lim j : Int) : List Phase :=
  if lim ≤ 0 then []
  else if j = 0 then
    if w = v then [] else [{ dur := ((w - v).natAbs * psS.toNat / lim.toNat), acc := if w < v then -lim else lim, jerk := 0 }]
  else
    let rest := v + a * a.natAbs / (2 * j)
    let sg : Int := if rest ≤ w then 1 else -1
    let a := sg * a
    let dv := sg * (w - v)
    let pk := min lim (isqrtI (j * dv + a * a / 2))
    let up := decide (a ≤ pk)
    let t1 := (pk - a).natAbs * psS.toNat / j.toNat
    let dv1 := if up then (pk * pk - a * a) / (2 * j) else (a * a - pk * pk) / (2 * j)
    let dv3 := pk * pk / (2 * j)
    let t2 := if pk ≤ 0 then 0 else ((dv - dv1 - dv3) * psS / pk).toNat
    [{ dur := t1, acc := sg * a, jerk := if up then sg * j else -(sg * j) }, { dur := t2, acc := sg * pk, jerk := 0 },
     { dur := pk.toNat * psS.toNat / j.toNat, acc := sg * pk, jerk := -(sg * j) }]

/-- The limits of a direction of motion, in 2^-32 units: speed, acceleration, deceleration, jerk. -/
structure Lims where
  v : Int
  a : Int
  d : Int
  j : Int

/-- `up` and then `down` through peak speed `w`, in the direction of motion. -/
def hump (l : Lims) (v a w e : Int) : List Phase × List Phase :=
  (ramp v a w (if v ≤ w then l.a else l.d) l.j, ramp w 0 e (if e ≤ w then l.d else l.a) l.j)

/-- The largest peak speed from `lo` on whose hump does not exceed `dist`, by halving. -/
def peak (l : Lims) (v a e dist : Int) : Nat → Int → Int → Int
  | 0, lo, _ => lo
  | k + 1, lo, hi =>
    let w := (lo + hi + 1) / 2
    let (p, q) := hump l v a w e
    if travel p v + travel q w ≤ dist then peak l v a e dist k w hi else peak l v a e dist k lo (w - 1)

def flip (l : List Phase) : List Phase := l.map fun f => { f with acc := -f.acc, jerk := -f.jerk }

/-- The shortest-time phases over `dist` in direction `sg` from (v, a) to the end speed `e` (its magnitude),
with the time at which the last change of speed begins. -/
def forward (l : Lims) (sg v a dist e : Int) : List Phase × Nat :=
  let v := sg * v; let a := sg * a; let dist := sg * dist
  let w := peak l v a e dist 80 0 l.v
  let (p, q) := hump l v a w e
  let rest := dist - travel p v - travel q w
  let c := if w ≤ 0 then 0 else (max 0 rest * 60 * psS / w).toNat
  let ph := p ++ [{ dur := c, acc := 0, jerk := 0 }]
  let all := ph ++ q
  (if sg < 0 then flip all else all, phasesDur ph)

/-! ### Rationals of the gear table (R264–R267) -/

/-- A fraction `n / d`, `d` above 0. -/
structure Frac where
  n : Int
  d : Nat
deriving DecidableEq, Repr

namespace Frac
def ofInt (i : Int) : Frac := ⟨i, 1⟩
def add (x y : Frac) : Frac := ⟨x.n * y.d + y.n * x.d, x.d * y.d⟩
def sub (x y : Frac) : Frac := ⟨x.n * y.d - y.n * x.d, x.d * y.d⟩
def mul (x y : Frac) : Frac := ⟨x.n * y.n, x.d * y.d⟩
def near (x : Frac) : Int := divNear x.n x.d
def toF (x : Frac) : F32 := F32.ofFrac x.n x.d
end Frac

namespace State

def gen (s : State) (x : Nat) : Gen := (s.axisX x).gen
def setGen (s : State) (x : Nat) (g : Gen) : State := s.setAxisX x { s.axisX x with gen := g }
def genFault (s : State) (code x : Nat) : State := s.alarm code x [35, 16 + x] 0 18
/-- Sets bit `k` of PROF[x].EVT (R251); its event is raised at most once per wingbeat. -/
def profEvt (s : State) (x k : Nat) : State :=
  let e := s.n PROF.EVT x
  let s := if bit e k then s else s.put PROF.EVT x ((e + 2 ^ k : Nat) : Int)
  if (s.gen x).evtWb = some s.wb then s else (s.setGen x { s.gen x with evtWb := some s.wb }).raise (16 + x)

/-- A speed in rpm as 2^-32 rpm, and back. -/
def fixV (v : F32) : Int := posF v
def unV (v : Int) : F32 := revOf v

/-! ### Limits (R243–R245, R261) -/

def orLim (f l : F32) : F32 := if f.zero? then l else f.min l

/-- The effective limits of a move in direction `sg`. -/
def limsOf (s : State) (x : Nat) (mv : Move) (sg : Int) : Lims :=
  let v := orLim mv.vel.abs (s.f PROF.VLIM x)
  let vm := s.f AXIS.VMAX x
  let v := if vm.zero? then v else v.min vm
  let cap := fun (k q : Mem) (v : F32) =>
    let w := if sg < 0 then s.f q x else s.f k x
    if w.zero? then v else v.min w
  let jl := s.f PROF.JLIM x
  { v := fixV (cap PROF.HAULV PROF.PAYV v), a := fixV (cap PROF.HAULA PROF.PAYA (orLim mv.acc (s.f PROF.ALIM x))),
    d := fixV (cap PROF.HAULA PROF.PAYA (orLim mv.dec (s.f PROF.DLIM x))),
    j := if jl.zero? then 0 else fixV (orLim mv.jerk jl) }

/-- The soft limits act. -/
def softOn (s : State) (x : Nat) : Bool :=
  s.g PROF.MODULO x = 0 && (s.g PROF.SOFTEN x = 2 || (s.g PROF.SOFTEN x = 1 && s.b PROF.HOMED x))
def softBad (s : State) (x : Nat) (p : Int) : Bool := s.softOn x && (p < s.g PROF.PMIN x || s.g PROF.PMAX x < p)

/-- A limit input is active; a faulted one counts as active (R261). -/
def limitOn (s : State) (n : Nat) : Bool := n < 32 && (s.dioActive n || s.g DIO.VALID n = 0)
def limitAt (s : State) (x : Nat) (sg : Int) : Bool := s.limitOn (if sg < 0 then s.n PROF.LIMN x else s.n PROF.LIMP x)

/-! ### Plans -/

/-- Phases to rest from (v, a) at the limits of the present direction. -/
def restPhases (s : State) (x : Nat) (mv : Move) (v a : Int) : List Phase :=
  let l := s.limsOf x mv (if v < 0 || (v = 0 && a < 0) then -1 else 1)
  ramp v a 0 l.d l.j

/-- A plan to rest (R259, R261, R270). -/
def planRest (s : State) (x : Nat) (mv : Move) : Gen :=
  let g := s.gen x
  { g with plan := some { p0 := g.p, v0 := fixV g.v, ph := s.restPhases x mv (fixV g.v) (fixV g.a) }, soft := false }

/-- Acceleration as the plan starts: without a jerk limit it is not continuous. -/
def startAcc (s : State) (x : Nat) (g : Gen) : Int := if (s.f PROF.JLIM x).zero? then 0 else fixV g.a

/-- A position plan to `tgt` with the joint speed `e` (R253, R254). -/
def planTo (s : State) (x : Nat) (mv : Move) (tgt e : Int) : State :=
  let g := s.gen x
  let v := fixV g.v
  let a := s.startAcc x g
  let stop := s.restPhases x mv v a
  let rest := g.p + travel stop v
  let sg : Int := if v < 0 || (v = 0 && tgt < g.p) then -1 else 1
  let ahead := if v = 0 then true else decide (0 ≤ sg * (tgt - rest))
  if ahead then
    let (ph, dec) := forward (s.limsOf x mv sg) sg v a (tgt - g.p) e
    s.setGen x { g with plan := some { p0 := g.p, v0 := v, ph := ph, dec := dec, tgt := some tgt, vEnd := unV (sg * e) },
                        started := true }
  else
    let (ph, dec) := forward (s.limsOf x mv (-sg)) (-sg) 0 0 (tgt - rest) 0
    (s.setGen x { g with plan := some { p0 := g.p, v0 := v, ph := stop ++ ph, dec := dec + phasesDur stop, tgt := some tgt },
                         started := true, vj := false }).profEvt x 5

/-- A plan to speed `w` (R247 VEL). -/
def planVel (s : State) (x : Nat) (mv : Move) (w : Int) : State :=
  let g := s.gen x
  let v := fixV g.v
  let a := s.startAcc x g
  let turn := decide (v < 0 && 0 < w) || decide (0 < v && w < 0)
  let l := s.limsOf x mv (if w < 0 || (w = 0 && v < 0) then -1 else 1)
  let w := max (-l.v) (min w l.v)
  let ph := if turn then s.restPhases x mv v a ++ ramp 0 0 w l.a l.j
    else ramp v a w (if v.natAbs ≤ w.natAbs then l.a else l.d) l.j
  s.setGen x { g with plan := some { p0 := g.p, v0 := v, ph := ph, vEnd := unV w }, started := true }

/-- The target of an ABS move on a rotary axis (R245). -/
def modTarget (s : State) (x : Nat) (p t : Int) : Int :=
  let m := s.g PROF.MODULO x
  if m = 0 then t else
    let up := p + (t - p) % m
    match s.n PROF.MODDIR x with
    | 1 => up
    | 2 => if up = p then p else up - m
    | _ => if 2 * (up - p) ≤ m then up else up - m

/-- The joint speed into the next move, 0 where R252 gives none. -/
def joint (s : State) (x : Nat) (mv : Move) (tgt : Int) : Int :=
  if !bit mv.flags 0 then 0 else
  match (s.gen x).queue with
  | n :: _ =>
    if n.ty > 2 then 0 else
      let t2 := if n.ty = 1 then s.modTarget x tgt n.target else tgt + n.target
      let sg : Int := if tgt < (s.gen x).p then -1 else 1
      if sg * (t2 - tgt) ≤ 0 then 0 else
        let l1 := s.limsOf x mv sg
        let l := s.limsOf x n sg
        let top := min l1.v l.v
        -- the largest speed from which the next move can still stop at its target
        (List.range 80).foldl (fun (b : Int × Int) _ =>
          let w := (b.1 + b.2 + 1) / 2
          if b.1 ≥ b.2 then b
          else if travel (ramp w 0 0 l.d l.j) w ≤ sg * (t2 - tgt) then (w, b.2) else (b.1, w - 1)) (0, top) |>.1
  | [] => 0

/-- The largest speed up to `e` that the axis can have at `tgt` from its present state. -/
def reach (s : State) (x : Nat) (mv : Move) (tgt e : Int) : Int :=
  let g := s.gen x
  let sg : Int := if tgt < g.p then -1 else 1
  let l := s.limsOf x mv sg
  let v := sg * fixV g.v; let a := sg * s.startAcc x g
  let d := sg * (tgt - g.p)
  (List.range 80).foldl (fun (b : Int × Int) _ =>
    let w := (b.1 + b.2 + 1) / 2
    if b.1 ≥ b.2 then b
    else if w ≤ v || travel (ramp v a w l.a l.j) v ≤ d then (w, b.2) else (b.1, w - 1)) (0, e) |>.1

/-- A position move is planned to its target, with the joint speed where it has one. -/
def planPos (s : State) (x : Nat) (mv : Move) : State :=
  let g := s.gen x
  let e := s.reach x mv g.tgt (s.joint x mv g.tgt)
  (s.setGen x { g with vj := e != 0 }).planTo x mv g.tgt e

/-- Plans the active move from the present state; without one, the speed that a VEL move has left, or rest. -/
def planActive (s : State) (x : Nat) : State :=
  match (s.gen x).act with
  | none =>
    match (s.gen x).hold with
    | some mv => s.planVel x mv (fixV mv.vel)
    | none => if (s.gen x).v.zero? then s else s.setGen x (s.planRest x { ty := 8 })
  | some mv =>
    let g := s.gen x
    match mv.ty with
    | 1 | 2 => s.planPos x mv
    | 3 =>
      let w := fixV mv.vel
      let lim := if w < 0 then s.g PROF.PMIN x else s.g PROF.PMAX x
      if s.softOn x && w != 0 then (s.setGen x { g with soft := true }).planTo x mv lim 0
      else (s.setGen x { g with soft := false }).planVel x mv w
    | 6 =>
      if g.hphase = 3 then s.setGen x (s.planRest x mv)
      else if g.hphase = 4 then s.planTo x mv mv.target 0 else s.planVel x mv (fixV mv.vel)
    | 7 => if g.hphase = 5 then s.setGen x (s.planRest x mv) else s
    | 8 => s.setGen x (s.planRest x mv)
    | _ => s

/-! ### The queue (R249–R251, R277) -/

def setState (s : State) (x st : Nat) : State := s.put PROF.STATE x st
def queueLen (s : State) (x : Nat) : State := s.put PROF.QLEN x ((s.gen x).queue.length : Nat)

/-- EVT.QEMPTY where the queue has become empty (R251); `was` tells that it was so before. -/
def emptied (s : State) (x : Nat) (was : Bool) : State := if !was && (s.gen x).queue.isEmpty then s.profEvt x 1 else s

/-- Removes pending moves that `keep` does not hold: FLUSHCNT and EVT.FLUSH. -/
def flushQueue (s : State) (x : Nat) (keep : Move → Bool) (extra : Nat := 0) : State :=
  let g := s.gen x
  let out := (g.queue.filter fun m => !keep m).length + extra
  let s := s.setGen x { g with queue := g.queue.filter keep }
  let s := if out = 0 then s else (s.inc PROF.FLUSHCNT x 0 out).profEvt x 2
  (s.emptied x g.queue.isEmpty).queueLen x

/-- The active move ends without completing. -/
def dropActive (s : State) (x : Nat) : State := s.setGen x { s.gen x with act := none, started := false, hphase := 0, soft := false, held := false }

/-- The active move completes (R251). -/
def moveDone (s : State) (x : Nat) : State :=
  match (s.gen x).act with
  | none => s
  | some mv =>
    let s := s.put PROF.DONETAG x mv.tag
    let hold := if mv.ty = 3 && !(s.gen x).soft then some mv else none
    (s.setGen x { s.gen x with act := none, started := false, hphase := 0, soft := false, hold := hold }).profEvt x 0

/-- The gear state: 4 engaging, 5 geared. -/
def geared (s : State) (x : Nat) : Bool := s.n PROF.STATE x = 4 || s.n PROF.STATE x = 5

/-! ### Stops (R277) -/

/-- A stop of the axis begins: the queue and the active move are flushed, gearing ends. -/
def motionStop (s : State) (x : Nat) : State :=
  if s.g AXIS.SPSRC x != 0 then s else
    let g := s.gen x
    let s := s.setGen x { g with imm := none, plan := none, replan := false, hold := none }
    let s := (s.flushQueue x (fun _ => false) (b2n g.act.isSome + b2n g.imm.isSome)).dropActive x
    s.setState x 6

/-- The stop-complete event: p = POS, v = 0, a = 0, IDLE. -/
def motionIdle (s : State) (x : Nat) : State :=
  if s.n PROF.STATE x != 6 then s
  else (s.setGen x { s.gen x with p := s.g AXIS.POS x, v := F32.zero, a := F32.zero, plan := none }).setState x 0

/-- The active move is planned again at the next mark. -/
def motionReplan (s : State) (x : Nat) : State := s.setGen x { s.gen x with replan := true }

/-- The generator as the axis is enabled (R242). -/
def motionEnable (s : State) (x : Nat) : State :=
  let l := s.limsOf x { ty := 0 } (if (s.f AXIS.SPD x).neg? then -1 else 1)
  let v := (s.f AXIS.SPD x).lim (unV l.v)
  let lvl := if s.g AXIS.MODE x = 4 then (s.tension x).1 else F32.zero
  ((s.setGen x { p := s.g AXIS.POS x, v := v, lvl := lvl, limP := s.limitAt x 1, limN := s.limitAt x (-1) }).setState x 0).queueLen x

/-- The axis is disabled: queue and active move flushed (R279). -/
def motionDisable (s : State) (x : Nat) : State :=
  let g := s.gen x
  let s := (s.flushQueue x (fun _ => false) (b2n g.act.isSome + b2n g.imm.isSome)).dropActive x
  (s.setGen x { s.gen x with plan := none, imm := none, hold := none, v := F32.zero, a := F32.zero }).setState x 0

/-! ### PUSH (R243–R250, R256, R260, R261, R264) -/

def stopRuns (s : State) (x : Nat) : Bool :=
  let st := s.n STOP.STATE x
  (1 ≤ st && st ≤ 3) || (s.axstop.find {} x).pend.isSome || s.n PROF.STATE x = 6
    || (st = 4 && s.n STOP.CAUSE x != 0x85) || st = 6 || st = 7

/-- The gear table is consistent (R264). -/
def gearOk (s : State) (x : Nat) : Bool :=
  let n := s.n PROF.GNSEG x
  let per := s.g PROF.GPERIOD x
  s.g PROF.GM x 0 = 0 && (List.range n).all fun k =>
    let b := s.g PROF.GM x k
    let fin := k + 1 < n || per > 0
    let e := if k + 1 < n then s.g PROF.GM x (k + 1) else per
    (!fin || (b < e && s.g PROF.GBL x k ≤ e - b)) && 0 ≤ s.g PROF.GBL x k && (per = 0 || b < per)

/-- The position from which an immediate move counts at this instant, and the next appended one (R249). -/
def actBase (s : State) (x : Nat) : Int :=
  let g := s.gen x
  match g.act with
  | some m => if m.ty = 1 || m.ty = 2 then g.tgt else g.p
  | none => g.p
def relBase (s : State) (x : Nat) : Int :=
  let start := s.actBase x
  (s.gen x).queue.foldl (fun b m => if m.ty = 1 then m.target else if m.ty = 2 then b + m.target else b) start

/-- A push of the staged move, `now` as the immediate one, is refused with BAD_VALUE. -/
def pushBad (s : State) (x : Nat) (now : Bool) : Bool :=
  let ty := s.n PROF.TYPE x
  let md := s.n AXIS.MODE x
  let t := s.g PROF.TARGET x
  let fb := s.n AXIS.FBPOS x
  let fl := s.n PROF.FLAGS x
  let okMode := match ty with
    | 3 => md = 2 || md = 3
    | 4 => 1 ≤ md && md ≤ 4
    | 5 => md = 1 || md = 4
    | _ => md = 3
  let base := if now then s.actBase x else s.relBase x
  -- an immediate move is planned from the present state
  let here := if now then (s.gen x).p else base
  let goal := if ty = 1 then s.modTarget x here t else base + t
  let hm := s.n PROF.HMETH x
  let hd := s.n PROF.HDIO x
  let dir : Int := if ty = 1 || ty = 2 then (if goal < here then -1 else if here < goal then 1 else 0)
    else if ty = 3 || (ty = 6 && hm != 3) then (s.f PROF.VEL x).sgn else 0
  (s.f PROF.VLIM x).zero? || (s.f PROF.ALIM x).zero? || (s.f PROF.DLIM x).zero? || !okMode ||
  ((ty = 1 || ty = 2) && s.softBad x goal) || (ty = 6 && bit fl 3 && s.softBad x t) ||
  (ty = 1 && s.g PROF.MODULO x > 0 && (t < 0 || s.g PROF.MODULO x ≤ t)) ||
  (ty = 6 && hm ≤ 1 && (hd ≥ 32 || s.n DIO.LATCHCH hd != fb)) ||
  (ty = 6 && (hm = 1 || hm = 2) && (fb ≥ 16 || s.n FB.MODE fb < 2)) ||
  (ty ≤ 3 && bit fl 2 && (s.n PROF.REGDIO x ≥ 32 || s.n DIO.LATCHCH (s.n PROF.REGDIO x) != fb)) ||
  (dir != 0 && s.limitAt x dir && !(ty = 6 && hm = 0 && hd == (if dir < 0 then s.n PROF.LIMN x else s.n PROF.LIMP x))) ||
  (ty = 7 && !s.gearOk x)

/-- The staged move with its capped fields, and whether one was capped (R243). -/
def staged (s : State) (x : Nat) : Move × Bool :=
  let ty := s.n PROF.TYPE x
  let cap := fun (v l : F32) => if l.lt v.abs then (if v.neg? then l.neg else l) else v
  let v := cap (s.f PROF.VEL x) (s.f PROF.VLIM x)
  let a := if ty = 5 then s.f PROF.ACC x else cap (s.f PROF.ACC x) (s.f PROF.ALIM x)
  let d := cap (s.f PROF.DEC x) (s.f PROF.DLIM x)
  let jl := s.f PROF.JLIM x
  let j := if jl.zero? then s.f PROF.JERK x else cap (s.f PROF.JERK x) jl
  ({ ty := ty, target := s.g PROF.TARGET x, vel := v, acc := a, dec := d, jerk := j, level := s.f PROF.LEVEL x,
     time := s.n PROF.TIME x, regd := s.g PROF.REGD x, flags := s.n PROF.FLAGS x, tag := s.n PROF.TAG x },
   v != s.f PROF.VEL x || a != s.f PROF.ACC x || d != s.f PROF.DEC x || j != s.f PROF.JERK x)

/-- PUSH (R246, R248). -/
def push (s : State) (x v : Nat) : Status × State :=
  let g := s.gen x
  if (s.task (72 + 6 * x)).st = 0 || s.ownerStranded 5 x then (.notPlaced, s)
  else if !s.b AXIS.ENABLE x || s.stopRuns x then (.stopped, s)
  else if s.n STOP.STATE x = 4 then (.faultActive, s)
  else if g.queue.length ≥ 16 || (v = 2 && s.n PROF.TYPE x != 8 && s.geared x) then (.busy, s)
  else if s.pushBad x (v = 2) then (.badValue, s)
  else
    let (mv, capped) := s.staged x
    let pos := fun (m : Move) => m.ty = 1 || m.ty = 2
    let mv := { mv with pred := g.act.any pos || (v = 1 && g.queue.any pos) }
    let s := if capped then s.profEvt x 3 else s
    if v = 2 then
      let s := if g.imm.isSome then (s.inc PROF.FLUSHCNT x).profEvt x 2 else s
      (.ok, s.setGen x { s.gen x with imm := some mv, immN := g.queue.length })
    else
      -- pushed after the deceleration that it could have blended with
      let began := match g.plan, g.act with
        | some p, some m => pos m && g.queue.isEmpty && decide (p.dec ≤ p.t) &&
            (s.setGen x { g with queue := [mv] }).joint x m g.tgt != 0
        | _, _ => false
      let s := if began then s.profEvt x 4 else s
      let again := match g.act with
        | some m => bit m.flags 0 && g.queue.isEmpty && !began && m.ty ≤ 2
        | none => false
      let g := s.gen x
      (.ok, (s.setGen x { g with queue := g.queue ++ [mv], replan := g.replan || again }).queueLen x)

/-- FLUSH (R250). -/
def flushWrite (s : State) (x : Nat) : Status × State :=
  let s := s.flushQueue x fun _ => false
  -- a move that was to blend comes to rest
  (.ok, s.setGen x { s.gen x with immN := 0, replan := (s.gen x).replan || (s.gen x).vj })

/-! ### Gearing (R263–R271) -/

/-- Master position and speed at the present mark (R263). -/
def master (s : State) (x : Nat) : Int × F32 :=
  let q := s.n PROF.GSRC x
  if q < 16 then (s.g FB.POS q, s.fbRpm q)
  else
    let g := s.gen (q - 16)
    (g.pm + posF ((g.vm.mul s.twS).div F32.f60), g.vm)

/-- The master is lost or not valid (R263, R270). -/
def masterBad (s : State) (x : Nat) : Bool :=
  let q := s.n PROF.GSRC x
  if q < 16 then s.fbDown q
  else if q < 32 then
    let y := q - 16
    y = x || s.g AXIS.SPSRC y != 0 || !s.b AXIS.ENABLE y || s.stopRuns y || s.n STOP.STATE y != 0
  else true

def ratio (s : State) (x k : Nat) : Frac := ⟨s.g PROF.GNUM x k, s.n PROF.GDEN x k⟩

/-- Segment, distance into it, length of its ramp and the ratio before it, at `w` in one period. -/
def segAt (s : State) (x : Nat) (w : Int) : Nat × Int × Int × Frac :=
  let n := s.n PROF.GNSEG x
  let k := ((List.range n).filter fun k => s.g PROF.GM x k ≤ w).length - 1
  let cyc := s.g PROF.GPERIOD x > 0
  let l := if k = 0 && !cyc then 0 else s.g PROF.GBL x k
  (k, w - s.g PROF.GM x k, l, s.ratio x (if k = 0 then n - 1 else k - 1))

/-- ∫ of the ratio over the first `y` of a segment. -/
def segInt (r0 r1 : Frac) (l y : Int) : Frac :=
  if y < l then (r0.mul (.ofInt y)).add ((r1.sub r0).mul ⟨y * y, (2 * l).toNat⟩)
  else (((r0.add r1).mul ⟨l, 2⟩)).add (r1.mul (.ofInt (y - l)))

/-- F over [0, w] of one period. -/
def fPart (s : State) (x : Nat) (w : Int) : Frac :=
  let (k, y, l, r0) := s.segAt x w
  if w < 0 then (s.ratio x 0).mul (.ofInt w) else
    let whole := (List.range k).foldl (fun (t : Frac) j =>
      let (_, _, lj, rj) := s.segAt x (s.g PROF.GM x j)
      t.add (segInt rj (s.ratio x j) lj (s.g PROF.GM x (j + 1) - s.g PROF.GM x j))) ⟨0, 1⟩
    whole.add (segInt r0 (s.ratio x k) l y)

/-- F(u) (R265). -/
def gearF (s : State) (x : Nat) (u : Int) : Frac :=
  let per := s.g PROF.GPERIOD x
  if per = 0 then s.fPart x u
  else ((Frac.ofInt (u / per)).mul (s.fPart x per)).add (s.fPart x (u % per))

/-- The ratio at u, and the number of segment starts passed. -/
def gearR (s : State) (x : Nat) (u : Int) : Frac × Int × Nat :=
  let per := s.g PROF.GPERIOD x
  let w := if per = 0 then u else u % per
  let (k, y, l, r0) := s.segAt x w
  let r1 := s.ratio x k
  let c := if per = 0 then 0 else u / per
  (if y < l && 0 ≤ y then r0.add ((r1.sub r0).mul ⟨y, l.toNat⟩) else r1, c * (s.n PROF.GNSEG x : Int) + k, k)

/-- The distance at which the `i`-th segment start lies. -/
def segStart (s : State) (x : Nat) (i : Int) : Int :=
  let n : Int := max 1 (s.n PROF.GNSEG x : Int)
  (i / n) * s.g PROF.GPERIOD x + s.g PROF.GM x (i % n).toNat

/-- g of R266 at u. -/
def gearG (s : State) (x : Nat) (ue u : Int) : Frac :=
  let e := s.g PROF.GENG x
  let d : Int := (u - ue).natAbs
  if d ≥ e then ⟨1, 1⟩ else ⟨d, e.toNat⟩

/-- The instants between u and w at which g × r changes its form, in order from u to w. -/
def gearBreaks (s : State) (x : Nat) (ue u w : Int) : List Int :=
  let per := s.g PROF.GPERIOD x
  let n := s.n PROF.GNSEG x
  let cs := if per = 0 then [0] else [u / per, w / per]
  let segs := cs.foldl (fun l c => l ++ ((List.range n).map fun k => [c * per + s.g PROF.GM x k,
    c * per + s.g PROF.GM x k + s.g PROF.GBL x k]).flatten) []
  let all := segs ++ [ue, ue + s.g PROF.GENG x, ue - s.g PROF.GENG x]
  let lo := min u w; let hi := max u w
  let l := (all.filter fun b => lo < b && b < hi).eraseDups
  let l := l.foldl (fun t b => t.filter (· < b) ++ [b] ++ t.filter (b < ·)) []
  if u ≤ w then l ++ [w] else l.reverse ++ [w]

/-- ∫ g r du from u to w in 2^-64 rev: Simpson's rule is exact on each stretch. -/
def gearStep (s : State) (x : Nat) (ue u w : Int) : Int :=
  let gr := fun (twice : Int) =>   -- at twice the distance, so that a midpoint is whole
    let e := s.g PROF.GENG x
    let d : Int := (twice - 2 * ue).natAbs
    let g : Frac := if d ≥ 2 * e then ⟨1, 1⟩ else ⟨d, (2 * e).toNat⟩
    let a := (s.gearR x (twice / 2)).1
    let b := (s.gearR x ((twice + 1) / 2)).1
    g.mul ((a.add b).mul ⟨1, 2⟩)
  ((s.gearBreaks x ue u w).foldl (fun (acc : Int × Int) b =>
    let a := acc.2
    let inner := (((gr (2 * a + (if a < b then 1 else -1))).add ((gr (a + b)).mul (.ofInt 4))).add (gr (2 * b - (if a < b then 1 else -1)))).mul ⟨b - a, 6⟩
    (acc.1 + divNear (inner.n * 2 ^ 32) inner.d, b)) (0, u)).1

/-- A gear move that cannot engage, or a lost master (R266, R270). -/
def gearFail (s : State) (x code : Nat) : State := (s.genFault code x).flushQueue x fun _ => false

/-- GEAR becomes active (R266). -/
def gearBegin (s : State) (x : Nat) : State :=
  let g := s.gen x
  let (m, vm) := s.master x
  let u := m - s.g PROF.GORIG x
  let bad := s.masterBad x || s.g PROF.GSRC x = 255
  if bad then ((s.dropActive x).gearFail x 0x4406).setState x 0
  else
    let seg := (s.gearR x u).2.2
    let g := { g with m := m, ue := u, acc64 := 0, full := false, beyond := false, seg := seg, plan := none, hphase := 0 }
    if s.b PROF.GABS x then
      let want := s.g PROF.GOFF x + (s.gearF x u).near
      if vm.abs.le (s.f PROF.GABSV x) && (g.p - want).natAbs ≤ s.n PROF.GTOL x then
        let s := s.setGen x { g with p := want, anchor := s.g PROF.GOFF x, full := true }
        (((s.setState x 5).put PROF.GSEGACT x seg).moveDone x).profEvt x 9
      else ((s.dropActive x).gearFail x 0x4406).setState x 0
    else (s.setGen x { g with anchor := g.p }).setState x 4 |>.put PROF.GSEGACT x seg

/-- One mark of a follower (R265–R269). -/
def gearMark (s : State) (x : Nat) : State :=
  let g := s.gen x
  let (m, vm) := s.master x
  if s.masterBad x then
    -- the master is lost: plan to rest
    let s := s.setGen x (s.planRest x { ty := 8 })
    ((s.dropActive x).gearFail x 0x4404).setState x 1
  else
    let org := s.g PROF.GORIG x
    let u0 := g.m - org
    let u := m - org
    let (r, i1, k) := s.gearR x u
    let i0 := (s.gearR x u0).2.1
    let acc := if g.full then g.acc64 else g.acc64 + s.gearStep x g.ue u0 u
    let full := g.full || decide (((u - g.ue).natAbs : Int) ≥ s.g PROF.GENG x)
    let gq := if full then (⟨1, 1⟩ : Frac) else s.gearG x g.ue u
    -- while engaging the anchor holds p_e; on completion it becomes A
    let p := if g.full then g.anchor + (s.gearF x u).near else g.anchor + divNear acc (2 ^ 32)
    let anchor := if full && !g.full then p - (s.gearF x u).near else g.anchor
    let v := ((gq.mul r).toF).mul vm
    let a := ((v.sub g.v).div (s.outS x))
    let lay := s.n PROF.LAYDIO x
    let edge := match (s.dioX lay).lastT with
      | some t =>
        -- where the master was at the edge, between the two marks
        let dt := (t : Int) - ((s.tb.cycles : Int) - s.twCyc)
        if t != g.layT then (t, some (g.m + (m - g.m) * (max 0 (min dt s.twCyc)) / s.twCyc)) else (g.layT, g.layM)
      | none => (g.layT, g.layM)
    let done := full && !g.full
    let s := s.setGen x { g with p := p, v := v, a := a, m := m, acc64 := acc, full := full, anchor := anchor, seg := k,
                                 layT := edge.1, layM := edge.2 }
    let s := ((s.put PROF.GSEGACT x k).putF PROF.GRATIO x (gq.mul r).toF)
    let s := if i1 = i0 then s else
      let s := (s.put PROF.GSEGCNT x (((s.g PROF.GSEGCNT x + (i1 - i0)) + 2 ^ 31) % (2 ^ 32 : Nat) - 2 ^ 31)).profEvt x 8
      let near := fun (i : Int) => match edge.2 with
        | some q => (org + s.segStart x i - q).natAbs ≤ s.n PROF.LAYTOL x
        | none => false
      let lo := min i0 i1
      ((List.range (i1 - i0).natAbs).map fun (j : Nat) => lo + 1 + (j : Int)).foldl (fun s i =>
        if lay < 32 && !near i then s.genFault 0x4407 x else s) s
    let s := if done then ((s.setState x 5).moveDone x).profEvt x 9 else s
    -- limits are checked, not enforced (R268, R262, R271)
    let lim := fun (k : Mem) => !(s.f k x).zero? && (s.f k x).lt v.abs
    let beyond := lim PROF.VLIM || (if v.neg? then lim PROF.PAYV else lim PROF.HAULV)
    let s := if beyond && !g.beyond then
        let s := s.genFault 0x4405 x
        if s.b PROF.GOVACT x then s.axisFault x else s
      else s
    let s := s.setGen x { s.gen x with beyond := beyond }
    if s.softBad x p && !s.softBad x g.p then (s.genFault 0x4401 x).axisFault x else s

/-- UNGEAR becomes active (R270). -/
def ungear (s : State) (x : Nat) (mv : Move) : State :=
  (s.setGen x { s.planRest x mv with unplan := true }).setState x 1

/-! ### Homing (R256–R259) -/

/-- Homing fails: plan to rest, queue flushed. -/
def homeFail (s : State) (x : Nat) : State :=
  match (s.gen x).act with
  | some mv =>
    let s := (s.setGen x (s.planRest x mv)).dropActive x
    ((s.genFault 0x4403 x).flushQueue x fun _ => false).setState x 1
  | none => s

/-- The master channel `c` of engaged followers was shifted by `d`: their anchors follow (R271). -/
def gearShift (s : State) (c : Nat) (d : Int) : State :=
  (List.range 16).foldl (fun s x =>
    if d != 0 && s.n PROF.GSRC x = c && s.geared x then
      let g := s.gen x
      let u := g.m - s.g PROF.GORIG x
      let j := ((s.gearF x u).sub (s.gearF x (u + d))).near
      (s.setGen x { g with m := g.m + d, ue := g.ue + d, anchor := if g.full then g.anchor + j else g.anchor }).profEvt x 12
    else s) s

/-- The served position of FBPOS is shifted so that the event lies at TARGET (R258). -/
def homeShift (s : State) (x : Nat) (mv : Move) (pe : Int) : State :=
  let c := s.n AXIS.FBPOS x
  let d := mv.target - pe
  let f := s.fbX c
  let df := divNear (d * s.g AXIS.PRDEN x) (s.g AXIS.PRNUM x)
  let drop := divNear (f.dlt * s.g AXIS.PRNUM x) (s.g AXIS.PRDEN x)
  let s := s.setFbX c (if s.g FB.SEL c = 1 then { f with fbo := f.fbo.map (· + df - f.dlt), dlt := 0 }
    else { f with off := f.off + df - f.dlt, dlt := 0 })
  let s := ((s.put FB.POS c (s.g FB.POS c + df - f.dlt)).put FB.OFFP c 0).axisMeasure x
  let s := s.compareShift c (s.g FB.POS c)
  let g := s.gen x
  let k := d - drop
  let s := s.setGen x { g with p := g.p + k, tgt := g.tgt + k, hphase := 3,
                               plan := g.plan.map fun q => { q with p0 := q.p0 + k, tgt := q.tgt.map (· + k) } }
  let s := (s.put PROF.HOMED x 1).profEvt x 6
  let s := s.gearShift c (df - f.dlt)
  s.setGen x (s.planRest x mv)

/-- The position of the home event that has arrived, in axis units. -/
def homeEvent (s : State) (x : Nat) : Option Int :=
  let g := s.gen x
  let c := s.n AXIS.FBPOS x
  let toAxis := fun p => divNear (p * s.g AXIS.PRNUM x) (s.g AXIS.PRDEN x)
  let hd := s.n PROF.HDIO x
  let latched := hd < 32 && (s.dioX hd).latchN != g.hlatch
  let idx := (s.fbX c).idxN != g.hidx.toNat
  let ipos := posOf (s.g FB.IDXLAT c) (s.n FB.CPR c) + (s.fbX c).off
  match s.n PROF.HMETH x with
  | 0 => if latched then some (toAxis (s.g DIO.LATCHPOS hd)) else none
  | 1 => if g.hphase = 2 && idx then some (toAxis ipos) else none
  | 2 => if idx then some (toAxis ipos) else none
  | _ => some (s.g AXIS.POS x)

/-- One mark of a HOME move. -/
def homeMark (s : State) (x : Nat) (mv : Move) : State :=
  let g := s.gen x
  let c := s.n AXIS.FBPOS x
  let hd := s.n PROF.HDIO x
  let sg := mv.vel.sgn
  let lim := if sg < 0 then s.n PROF.LIMN x else s.n PROF.LIMP x
  if g.hphase = 1 || g.hphase = 2 then
    let latched := hd < 32 && (s.dioX hd).latchN != g.hlatch
    match s.homeEvent x with
    | some pe => s.homeShift x mv pe
    | none =>
      let far := s.g PROF.HDIST x > 0 && s.g PROF.HDIST x < (g.p - g.hstart).natAbs
      if far || s.fbDown c || (s.limitOn lim && !(s.n PROF.HMETH x = 0 && lim == hd)) then s.homeFail x
      else if s.n PROF.HMETH x = 1 && g.hphase = 1 && latched then
        s.setGen x { g with hphase := 2, hidx := (s.dioX hd).latchI }
      else s
  else s

/-! ### Activation -/

/-- The brake is reported applied on BRKIN (R276). -/
def brakeHolds (s : State) (x : Nat) : Bool := s.n PROF.BRKIN x != 0xFFFF && s.brakeOn x

/-- The standstill reduction ends (R275). -/
def holdOff (s : State) (x : Nat) : State :=
  if s.g PROF.HOLDACT x = 0 then s
  else ((s.setAxisX x { s.axisX x with h := F32.one, rest := 0 }).put PROF.HOLDACT x 0).profEvt x 11

/-- A GEAR move engages from rest: a speed that a VEL move has left comes to rest first (R252, R266). -/
def gearStart (s : State) (x : Nat) (mv : Move) : State :=
  if (s.gen x).v.zero? then s.gearBegin x
  else (s.setGen x { s.planRest x mv with hphase := 5 }).setState x 1

/-- A move becomes active at this mark and is planned, or held for the brake. -/
def activate (s : State) (x : Nat) (mv : Move) : State :=
  let g := s.gen x
  let base := if mv.pred then g.tgt else g.p
  let tgt := if mv.ty = 1 then s.modTarget x g.p mv.target else if mv.ty = 2 then base + mv.target else g.tgt
  let hd := s.n PROF.HDIO x
  let c := s.n AXIS.FBPOS x
  let rd := s.n PROF.REGDIO x
  let watch := if mv.ty = 6 then hd else rd
  let s := s.setGen x { g with act := some mv, started := false, tgt := tgt, ticks := 0, soft := false, vj := false,
                               reg := !bit mv.flags 2, hstart := g.p, hold := none, hphase := if mv.ty = 6 then 1 else 0,
                               hlatch := (s.dioX watch).latchN, hidx := (s.fbX c).idxN, unplan := false }
  let s := (s.put PROF.ACTTAG x mv.tag).holdOff x
  let s := if s.b PROF.BRKAUTO x then s.brkReq x true else s
  let st := match mv.ty with | 4 => 2 | 5 => 7 | 6 => 3 | _ => 1
  let s := if mv.ty = 7 || mv.ty = 8 then s else s.setState x st
  let s := if mv.ty = 6 then s.put PROF.HOMED x 0 else s
  if s.brakeHolds x && mv.ty != 4 then s.setGen x { s.gen x with held := true }
  else match mv.ty with
    | 6 => if s.n PROF.HMETH x = 3 then s.homeShift x mv (s.g AXIS.POS x) else s.planActive x
    | 7 => s.gearStart x mv
    | 8 => s.ungear x mv
    | _ => s.planActive x

/-- The next move, if one may become active: while geared only UNGEAR. -/
def nextMove (s : State) (x : Nat) : State :=
  let g := s.gen x
  match g.act, g.queue with
  | none, mv :: t =>
    if s.geared x && mv.ty != 8 then s
    else
      let s := ((s.setGen x { g with queue := t }).emptied x false).queueLen x
      s.activate x mv
  | _, _ => s

/-- The active move is done, as R247 says. -/
def checkDone (s : State) (x : Nat) : State :=
  let g := s.gen x
  match g.act with
  | none => s
  | some mv =>
    if g.held then s else
    let beyond := match g.plan with
      | some q => decide (phasesDur q.ph ≤ q.t)
      | none => false
    match mv.ty with
    | 4 => if s.wbOfMs mv.time ≤ g.ticks then s.moveDone x else s
    | 5 => if g.lvl = mv.level then s.moveDone x else s
    | 6 =>
      if g.hphase = 3 && beyond then
        if bit mv.flags 3 then (s.setGen x { g with hphase := 4, tgt := mv.target }).planTo x mv mv.target 0
        else s.moveDone x
      else if g.hphase = 4 && beyond then s.moveDone x else s
    | 7 => if g.hphase = 5 && beyond then s.gearBegin x else s
    | 8 => if beyond then s.moveDone x else s
    | _ =>
      if !beyond || !g.started then s
      else if g.soft then ((s.moveDone x).genFault 0x4401 x).flushQueue x fun _ => false
      else s.moveDone x

/-- Registration (R260). -/
def registration (s : State) (x : Nat) : State :=
  let g := s.gen x
  match g.act with
  | some mv =>
    let rd := s.n PROF.REGDIO x
    if g.reg || mv.ty > 3 || rd ≥ 32 || (s.dioX rd).latchN = g.hlatch then s
    else
      let p := divNear (s.g DIO.LATCHPOS rd * s.g AXIS.PRNUM x) (s.g AXIS.PRDEN x) + mv.regd
      let bad := s.softBad x p
      let p := if bad then max (s.g PROF.PMIN x) (min p (s.g PROF.PMAX x)) else p
      let s := (s.setGen x { g with reg := true, tgt := p, act := some { mv with ty := 1 }, soft := false }).profEvt x 7
      let s := if bad then s.genFault 0x4401 x else s
      s.planActive x
  | none => s

/-- Limit switches during motion (R261, R262). -/
def limitMark (s : State) (x : Nat) : State :=
  let g := s.gen x
  let p := s.limitAt x 1; let n := s.limitAt x (-1)
  let s := s.setGen x { g with limP := p, limN := n }
  let sg := g.v.sgn
  let rise := (sg > 0 && p && !g.limP) || (sg < 0 && n && !g.limN)
  let homing := match g.act with
    | some mv => mv.ty = 6 && s.n PROF.HMETH x = 0 &&
        s.n PROF.HDIO x == (if sg < 0 then s.n PROF.LIMN x else s.n PROF.LIMP x)
    | none => false
  if !rise || homing then s
  else
    let s := s.genFault 0x4402 x
    if s.geared x then s.axisFault x
    else
      let s := s.flushQueue x fun _ => false
      match s.n PROF.LIMSTOP x with
      | 255 =>
        if g.act.any (fun mv => mv.ty = 6) then s   -- homing fails in homeMark
        else ((s.setGen x (s.planRest x { ty := 8 })).dropActive x).setState x 1
      | k => s.axisStopReq x k 0x85

/-- The state of the generator after one T_w of its plan (R241, R255). -/
def advancePlan (s : State) (x : Nat) : State :=
  let g := s.gen x
  let tw := s.twNs * 1000 * (s.axisX x).d
  match g.plan with
  | none =>
    let v := fixV g.v
    s.setGen x { g with p := g.p + divNear (v * tw) (60 * psS), a := F32.zero }
  | some q =>
    let t := q.t + tw
    let q' := { q with t := t }
    let (d, v, a) := phasesAt q.ph q.v0 t
    if phasesDur q.ph ≤ t then
      let p := match q.tgt with | some e => e | none => q.p0 + d
      let keep := q.tgt.isNone
      s.setGen x { g with p := p, v := q.vEnd, a := F32.zero, plan := if keep then some q' else some { q' with p0 := p } }
    else s.setGen x { g with p := q.p0 + d, v := unV v, a := unV a, plan := some q' }

/-- LEVEL and DWELL move on (R247). -/
def levelStep (s : State) (x : Nat) : State :=
  let g := s.gen x
  match g.act with
  | some mv =>
    let g := { g with ticks := g.ticks + (s.axisX x).d }
    let rate := if mv.acc.zero? then s.f PROF.LRATE x else mv.acc
    s.setGen x (if mv.ty = 5 && !g.held then { g with lvl := towards g.lvl mv.level (rate.mul (s.outS x)) } else g)
  | none => s

/-- A plan that has ended with no move behind it stands still: it is dropped. -/
def settle (s : State) (x : Nat) : State :=
  let g := s.gen x
  match g.act, g.plan with
  | none, some q =>
    if phasesDur q.ph ≤ q.t && g.v.zero? then (s.setGen x { g with plan := none }).setState x 0 else s
  | none, none => if s.geared x || s.n PROF.STATE x = 6 then s else if g.v.zero? then s.setState x 0 else s
  | _, _ => s

/-- Members that report the generator, ANGIDX of the machines with ANGSRC 1 among them (R272). -/
def genReport (s : State) (x : Nat) : State :=
  let g := s.gen x
  let m := s.g PROF.MODULO x
  let s := ((s.machsOf x).filter fun k => s.g MACH.ANGSRC k == 1).foldl
    (fun s k => s.put MACH.ANGIDX k ((s.machAngle k).1 : Nat)) s
  (((s.put PROF.PPROF x (wrap64 g.p)).putF PROF.VPROF x g.v).putF PROF.APROF x
    (g.a.mul (F32.twoPi.div F32.f60))).put PROF.POSMOD x (if m > 0 then g.p % m else wrap64 g.p)

/-- Starts moves: an immediate push replaces the active move and removes what was pending at it, but for KEEP (R250). -/
def startMoves (s : State) (x : Nat) : State :=
  let g := s.gen x
  match g.imm with
  | some mv =>
    let later := g.queue.drop g.immN
    let s := s.setGen x { g with queue := g.queue.take g.immN }
    let s := if g.act.any fun a => a.ty = 6 then s.homeFail x else s
    let s := s.flushQueue x fun m => bit m.flags 1
    let s := (s.setGen x { s.gen x with imm := none, act := none, queue := (s.gen x).queue ++ later }).queueLen x
    s.activate x mv
  | none =>
    -- a blend passes its target without rest; a completed move hands over at this mark
    s.nextMove x

/-- One mark of the generator of axis `x` (R239–R279). -/
def genMark (s : State) (x : Nat) : State :=
  let g := s.gen x
  if s.n PROF.STATE x = 6 then s
  else if s.n GIVE.STATE x = 2 then
    (s.setGen x { g with p := s.g AXIS.POS x, v := s.f AXIS.SPD x, a := F32.zero, plan := none, replan := true }).genReport x
  else
    let s := if s.geared x then s.gearMark x else s.advancePlan x
    let s := (s.levelStep x).registration x
    let s := s.limitMark x
    let s := match (s.gen x).act with
      | some mv => if mv.ty = 6 && !(s.gen x).held then s.homeMark x mv else s
      | none => s
    let s := s.checkDone x
    let s := s.startMoves x
    let g := s.gen x
    -- a held move starts when the brake is released; a replan was asked for
    let s := match g.act with
      | some mv =>
        if g.held then
          if s.brakeHolds x then s
          else
            let s := s.setGen x { g with held := false }
            match mv.ty with
            | 6 => if s.n PROF.HMETH x = 3 then s.homeShift x mv (s.g AXIS.POS x) else s.planActive x
            | 7 => s.gearStart x mv
            | 8 => s.ungear x mv
            | _ => s.planActive x
        else if g.replan && !s.geared x then (s.setGen x { g with replan := false }).planActive x
        else s
      | none => if g.replan && !s.geared x then (s.setGen x { g with replan := false }).planActive x else s.setGen x { g with replan := false }
    -- outputs at the start of a plan
    let g := s.gen x
    let s := match g.plan with
      | some q => if q.t = 0 then s.setGen x { g with a := unV (phasesAt q.ph q.v0 0).2.2 } else s
      | none => s
    (s.settle x).genReport x

/-- The served position of FB channel `c` was shifted by `d`: p, the plan and every anchor follow (R271,
R278). -/
def genShift (s : State) (c : Nat) (d : Int) (host : Bool) : State :=
  let s := if host then s.fbUnhomed c else s
  if d = 0 then s else
    ((List.range 16).foldl (fun s x =>
      if s.n AXIS.FBPOS x = c then
        let k := divNear (d * s.g AXIS.PRNUM x) (s.g AXIS.PRDEN x)
        let g := s.gen x
        s.setGen x { g with p := g.p + k, tgt := g.tgt + k, hstart := g.hstart + k,
                            plan := g.plan.map fun q => { q with p0 := q.p0 + k, tgt := q.tgt.map (· + k) } }
      else s) s).gearShift c d

/-! ### Standstill (R273–R276) -/

/-- The axis is at rest (R273). -/
def atRest (s : State) (x : Nat) : Bool :=
  let g := s.gen x
  g.act.all (fun mv => mv.ty = 4 || g.held) && g.v.zero? &&
    (s.f AXIS.SPD x).abs.le (s.f PROF.STILLV x)

/-- BRAKE_APPLY_DELAY: BRKAPT at rest has elapsed. -/
def brakeApplyDelay (s : State) (x : Nat) : State :=
  if s.b PROF.BRKAUTO x && s.b AXIS.ENABLE x && s.atRest x && s.n GIVE.STATE x < 2 then s.brkReq x false else s

/-- BRKIN names an input that is valid. -/
def brakeValid (s : State) (x : Nat) : Bool :=
  let b := s.n PROF.BRKIN x
  if b < 32 then s.b DIO.VALID b else 256 ≤ b && b < 512 && !s.partDown (b - 256)

/-- The conditions of R274 at the mark. -/
def holdOk (s : State) (x : Nat) : Bool :=
  let md := s.n AXIS.MODE x
  s.b PROF.HOLDEN x && (md = 2 || md = 3) && s.g AXIS.SPSRC x = 0 && !s.geared x && s.b AXIS.ENABLE x &&
    s.brakeValid x && s.brakeOn x &&
    !s.stopRuns x && s.n STOP.STATE x = 0 && !(s.machsOf x).any (fun m => (s.machX m).policy) && s.atRest x

/-- HOLD_REDUCTION (R274): HOLDT since the axis came to rest. -/
def holdReduction (s : State) (x : Nat) : State :=
  if !s.holdOk x || s.b PROF.HOLDACT x then s
  else ((s.setAxisX x { s.axisX x with pH := s.g AXIS.POS x }).put PROF.HOLDACT x 1).profEvt x 10

/-- h at the mark (R274, R275). -/
def holdMark (s : State) (x : Nat) : State :=
  if !s.b PROF.HOLDACT x then s else
    let q := s.axisX x
    if (s.g AXIS.POS x - q.pH).natAbs > s.n PROF.HOLDDEV x || !s.brakeValid x || !s.brakeOn x || s.stopRuns x then s.holdOff x
    else
      let fr := s.f PROF.HOLDFRAC x
      let d := if s.g PROF.HOLDRAMP x = 0 then F32.one
        else (F32.one.sub fr).mul (((s.outS x).mul (F32.ofInt 1000)).div (F32.ofInt (s.n PROF.HOLDRAMP x)))
      s.setAxisX x { q with h := (q.h.sub d).max fr }

/-- BRAKE_TIMEOUT (R276). -/
def brakeTimeout (s : State) (x : Nat) : State :=
  if !(s.gen x).held then s
  else (((s.dropActive x).genFault 0x4408 x).flushQueue x fun _ => false).setState x 0

end State
end Sys2Proof.Machine
end

