-- ==== Sys2Proof/Machine/Pool.lean ====
section
/-! DEFINITION. Pool and Give, the outer evaluation of an axis (R186, R283–R313, R464–R477), and the
enables of machines and axes (R190, R209, R242, R285, R296, R456). -/
namespace Sys2Proof.Machine
namespace State

def poolFault (s : State) (code inst x cls : Nat) : State := s.alarm code inst [36, 16 + x] 0 cls

/-- The ratio and the capacity of a machine (R285). -/
def ratioM (s : State) (m : Nat) : F32 := F32.ofFrac (s.g MACH.RNUM m) (s.n MACH.RDEN m)
def capM (s : State) (m : Nat) : F32 := (s.f MACH.TMAXM m).mul (s.ratioM m).abs

/-! ### Weights and shares (R286–R290) -/

/-- Whether the thermal source of a machine is valid, and its temperature. -/
def thermalSource (s : State) (m : Nat) : Bool × F32 :=
  let t := s.n MACH.THSRC m
  if t < 8 then (s.g AIN.STATE t != 4 && s.g AIN.STATE t != 0, s.f AIN.VALUE t)
  else (!s.partDown (t - 256), s.f PART.VALUE (t - 256))

/-- The thermal state of a machine of axis `x`, once per wingbeat (R287): the model runs while the machine is enabled. -/
def thermalStep (s : State) (x m : Nat) : State :=
  if s.n MACH.THSRC m = 0xFFFF then
    if !s.b MACH.ENABLE m then s else
    let r := (s.machX m).dem.div (s.f MACH.TRATED m)
    let v := s.f MACH.THX m
    s.putF MACH.THX m (v.add ((s.twS.div (s.f MACH.THTAU m)).mul ((r.mul r).sub v)))
  else
    let (ok, t) := s.thermalSource m
    let q := s.machX m
    let s := if !ok && !q.thTold then s.poolFault 0x5106 m x 6 else s
    let s := s.setMachX m { s.machX m with thTold := !ok }
    if ok then s.putF MACH.THX m ((t.sub (s.f MACH.THAMB m)).div ((s.f MACH.THMAX m).sub (s.f MACH.THAMB m))) else s

/-- The thermal states at a mark: the machines of every axis whose Pool and Give task is in place. -/
def thermalMark (s : State) : State :=
  (List.range 16).foldl (fun s x =>
    if s.g AXIS.CFG x = 0 then s else (s.machsOf x).foldl (fun s m => s.thermalStep x m) s) s

/-- H_m (R286, R287). -/
def headroom (s : State) (x m : Nat) (pol : Nat) : F32 :=
  let fl := s.f POOL.HFLOOR x
  if pol != 1 then F32.one
  else if s.n MACH.THSRC m != 0xFFFF && !(s.thermalSource m).1 then fl
  else fl.max (F32.one.sub (s.f MACH.THX m))

def sumF (l : List F32) : F32 := l.foldl F32.add F32.zero

/-- The weights of the members in their order: by capacity alone where all are 0 (R298). -/
def weights (s : State) (x pol : Nat) (ms : List Nat) : List F32 :=
  let w := ms.map fun m => ((((s.f MACH.PWT m).mul (s.capM m)).mul (s.headroom x m pol)).mul (s.machX m).w)
  if w.all F32.zero? then ms.map s.capM else w

/-- Shares before preload and clamp (R288–R290), `t` being T_axis and `f` T̄. -/
def shares (s : State) (x pol : Nat) (ms : List Nat) (w : List F32) (t f : F32) : List F32 :=
  let sw := sumF w
  let part := fun (v : F32) (a : F32) => (v.mul a).div sw
  match pol with
  | 2 =>
    let d := ms.map fun m => if s.remote? m || s.n MACH.FBANG m = 255 then F32.zero
      else (s.f MACH.DRP m).mul ((s.f AXIS.SPD x).sub ((s.machAngle m).2.div (s.ratioM m)))
    let rest := t.sub (sumF d)
    (w.zip d).map fun (a, e) => (part rest a).add e
  | 3 =>
    let r := s.refm x
    let fol := sumF ((ms.zip w).map fun (m, a) => if m = r then F32.zero else part f a)
    (ms.zip w).map fun (m, a) => if m = r then t.sub fol else part f a
  | _ => w.map (part t)

/-- The biases of the backlash preload (R291). -/
def biases (s : State) (x : Nat) (ms : List Nat) (w : List F32) (t : F32) : List F32 :=
  let p := s.f POOL.PRELOAD x
  let amp := (p.mul (F32.zero.max (F32.one.sub (t.abs.div (s.f POOL.PRELX x))))).mul (s.axisX x).pre
  let grp := fun g => sumF ((ms.zip w).map fun (m, a) => if s.g MACH.PGRP m = g then a else F32.zero)
  (ms.zip w).map fun (m, a) =>
    if s.g POOL.PRELACT x = 0 then F32.zero
    else match s.n MACH.PGRP m with
      | 0 => (amp.mul a).div (grp 0)
      | 1 => ((amp.mul a).div (grp 1)).neg
      | _ => F32.zero

/-- The capacity clamp (R292) on (torque, capacity, weight, free): the fitted torques, and whether a residual
was dropped. -/
def fitShares : Nat → List (F32 × F32 × F32 × Bool) → List F32 × Bool
  | 0, l => (l.map (·.1), false)
  | k + 1, l =>
    let step := l.foldl (fun (acc : F32 × List (F32 × F32 × F32 × Bool)) e =>
      let (t, c, w, fr) := e
      if fr && c.lt t.abs then
        let cl := if t.neg? then c.neg else c
        ((acc.1.add t).sub cl, acc.2 ++ [(cl, c, w, false)])
      else (acc.1, acc.2 ++ [e])) (F32.zero, [])
    let (res, l) := step
    let free := l.filter fun e => e.2.2.2
    if res.zero? then (l.map (·.1), false)
    else if free.isEmpty then (l.map (·.1), true)
    else
      let sw := sumF (free.map fun e => e.2.2.1)
      fitShares k (l.map fun e => if e.2.2.2 then (e.1.add ((res.mul e.2.2.1).div sw), e.2) else e)

/-! ### Give (R301–R308) -/

def giveDir (s : State) (x : Nat) : F32 := F32.ofInt (s.g GIVE.GDIR x)
/-- The axis's normal limit in the hold direction, and in the relief direction (R303). -/
def giveLims (s : State) (x : Nat) : F32 × F32 :=
  if s.g GIVE.GDIR x < 0 then (s.f AXIS.TMAXP x, s.f AXIS.TMAXN x) else (s.f AXIS.TMAXN x, s.f AXIS.TMAXP x)
/-- L of R302. -/
def giveLoad (s : State) (x : Nat) : F32 := (s.giveDir x).neg.mul (s.f LOOP.TLEST (loopOf x 3))

/-- A selected trigger holds (R302). -/
def giveTrigger (s : State) (x : Nat) : Bool :=
  let tr := s.n GIVE.TRIG x
  let q := s.axisX x
  let l := s.giveLoad x
  let m := s.n GIVE.GRWIN x * 1000 / s.twNs
  let old := q.lH.getD m l
  let rate := (l.sub old).div (F32.ofFrac (s.g GIVE.GRWIN x) 1000000)
  let (t, ok) := s.tension x
  (bit tr 0 && (s.f GIVE.GLTRIG x).lt l) || (bit tr 1 && q.lH.length > m && (s.f GIVE.GRTRIG x).lt rate)
    || (bit tr 2 && ok && (s.f GIVE.GTTRIG x).lt t)

/-- Give is armed (R301). -/
def giveArmed (s : State) (x : Nat) : Bool :=
  let md := s.n AXIS.MODE x
  s.b GIVE.EN x && s.b AXIS.ENABLE x && 2 ≤ md && md ≤ 4 && !s.geared x && !s.stopRuns x && s.n STOP.STATE x = 0 &&
    s.b PROF.BRKREQ x && (s.n PROF.BRKIN x = 0xFFFF || !s.brakeOn x)

/-- Give ends at once (R308). -/
def giveEnd (s : State) (x : Nat) : State := if s.g GIVE.STATE x = 0 then s else s.put GIVE.STATE x 0

/-- Give becomes ACTIVE: 0x5201, GCOUNT. -/
def giveStart (s : State) (x : Nat) (again : Bool) : State :=
  let q := s.axisX x
  let s := ((s.put GIVE.STATE x 2).inc GIVE.GCOUNT x).poolFault 0x5201 x x 20
  if again then s else
    let p := s.g AXIS.POS x
    (((s.setAxisX x { q with p0 := p, pa := p, tau0 := (s.giveDir x).neg.mul (s.f AXIS.TDEM x) }).putF GIVE.GPAID x F32.zero).putF
      GIVE.GPEAK x F32.zero)

/-- The state of Give at an evaluation, and its L history. -/
def giveMark (s : State) (x : Nat) : State :=
  let q := s.axisX x
  let m := s.n GIVE.GRWIN x * 1000 / s.twNs
  let s := s.setAxisX x { q with lH := (s.giveLoad x :: q.lH).take (m + 1), recT := q.recT + q.d }
  match s.n GIVE.STATE x with
  | 2 => s
  | 3 => if s.giveTrigger x then s.giveStart x true else s
  | _ =>
    let s := s.put GIVE.STATE x (if s.giveArmed x then 1 else 0)
    if s.g GIVE.STATE x = 1 && s.giveTrigger x then s.giveStart x false else s

/-- T_axis while Give is ACTIVE (R303, R304, R307). -/
def giveTorque (s : State) (x : Nat) : State × F32 :=
  let q := s.axisX x
  let d := s.g GIVE.GDIR x
  let p := s.g AXIS.POS x
  let k := s.f GIVE.GK x
  let dmax := F32.zero.max (((s.f GIVE.GTPAY x).sub q.tau0).div k)
  let beyond := (revOf (d * (p - q.pa))).sub dmax
  let move := if (F32.zero).lt beyond then beyond.min (((s.f GIVE.GPAYV x).mul (s.outS x)).div F32.f60) else F32.zero
  let pa := q.pa + d * posF move
  let delta := revOf (d * (p - pa))
  let vr := (s.giveDir x).mul (s.f AXIS.SPD x)
  let tau := (q.tau0.add (k.mul delta)).add ((s.f GIVE.GD x).mul vr)
  let tau := tau.clamp (s.giveLims x).2.neg (s.f GIVE.GTMAX x)
  let paid := revOf (d * (p - q.p0))
  let s := s.setAxisX x { q with pa := pa }
  let s := (s.putF GIVE.GPAID x paid).putF GIVE.GPEAK x ((s.f GIVE.GPEAK x).max tau)
  let s := if (s.f GIVE.GPMAX x).le paid then (s.poolFault 0x5203 x x 20).axisFault x else s
  (s, (s.giveDir x).neg.mul tau)

/-- GIVE_RECOVER (R306): L below GLREL and every trigger false for GRELT. -/
def giveRecover (s : State) (x : Nat) : State :=
  if s.n GIVE.STATE x != 2 || s.giveTrigger x || !(s.giveLoad x).lt (s.f GIVE.GLREL x) then s
  else
    let s := s.put GIVE.STATE x 3
    let s := if s.n AXIS.MODE x = 3 then s.putF LOOP.INTEG (loopOf x 0) F32.zero else s
    let s := s.setAxisX x { s.axisX x with recT := 0 }
    { s with axstop := s.axstop.put {} x { (s.axstop.find {} x : AxStop) with first := true } }.motionReplan x

/-- GIVE_RECOVERED (R306): the limit ramp of GRECT has ended. -/
def giveRecovered (s : State) (x : Nat) : State :=
  if s.n GIVE.STATE x != 3 then s else (s.put GIVE.STATE x 1).poolFault 0x5202 x x 20

/-- GIVE_TIMEOUT (R307): ACTIVE for GMAXT. -/
def giveTimeout (s : State) (x : Nat) : State :=
  if s.n GIVE.STATE x != 2 then s else (s.poolFault 0x5204 x x 20).axisFault x

/-- The torque limits of the axis, negative and positive, as Give widens them in RECOVER (R306). -/
def axisLims (s : State) (x : Nat) : F32 × F32 :=
  let hi := s.f AXIS.TMAXP x; let lo := s.f AXIS.TMAXN x
  if s.n GIVE.STATE x != 3 then (lo.neg, hi) else
    let (norm, _) := s.giveLims x
    let g := s.f GIVE.GTMAX x
    let fr := if s.g GIVE.GRECT x = 0 then F32.one else
      (((F32.ofInt ((s.axisX x).recT : Nat)).mul s.twUs).div (F32.ofInt (1000 * s.n GIVE.GRECT x : Nat))).min F32.one
    let h := g.sub ((g.sub norm).mul fr)
    if s.g GIVE.GDIR x < 0 then (lo.neg, h) else (h.neg, hi)

/-! ### T_axis (R186, R464, R465, R472, R473, R476) -/

/-- The integrator of loop `n` is set so that T_loop + T_fr + OBSFF × TLEST equals `t` (R306, R465, R477);
`e` is the error and `add` what the loop adds. -/
def presetTo (s : State) (x n : Nat) (t e add : F32) : State :=
  let fr := s.frictionTorque x
  let ob := if s.b AXIS.OBSFF x then s.f LOOP.TLEST (loopOf x 3) else F32.zero
  s.putF LOOP.INTEG n ((((t.sub fr).sub ob).sub ((s.f LOOP.KP n).mul e)).sub add)

/-- Marks the position loop as saturated without an evaluation (R464). -/
def posSaturated (s : State) (x : Nat) : State :=
  (s.putB LOOP.SAT (loopOf x 0) true).inc LOOP.SATCNT (loopOf x 0)

/-- The speed loop with its preset where one is due. -/
def speedWith (s : State) (x : Nat) (vref aref : F32) (down first : Bool) : State × F32 :=
  let s := if first then
      (s.setAxisX x { s.axisX x with vref := vref }).presetTo x (loopOf x 1) (s.axisX x).tNow (vref.sub (s.loopSpeed x))
        (if s.g AXIS.SPSRC x = 0 then (s.f AXIS.JFF x).mul aref else F32.zero)
    else s
  s.speedLoop x vref aref down

/-- T_loop, the loops having run (R186 steps 2 and 3), with `down` of R189. -/
def loopTorque (s : State) (x : Nat) (down first subst : Bool) : State × F32 :=
  let st := s.n STOP.STATE x
  let md := s.n AXIS.MODE x
  let q := s.axisX x
  let a := s.axstop.find {} x
  let g := q.gen
  let prof := s.g AXIS.SPSRC x = 0
  let stopping := st = 1 || st = 2 || st = 4
  let rad := F32.twoPi.div F32.f60
  let dec := if a.ref.zero? then F32.zero else ((s.f STOP.STOPDEC x).mul rad).mul (F32.ofInt (-a.ref.sgn))
  if stopping && (md = 1 || md = 4) && !s.b STOP.SPDSTOP x then
    let r := if st = 4 then F32.zero else a.ref
    if md = 1 then (s, r) else s.tensionLoop x r down
  else if st = 4 && md = 3 then
    let (s, v) := s.positionLoop x (q.pHold.getD (s.g AXIS.POS x)) F32.zero ((s.loopX (loopOf x 1)).satB || subst)
    s.speedWith x v F32.zero down first
  else if stopping then
    let s := if md = 3 then s.posSaturated x else s
    s.speedWith x (if st = 4 then F32.zero else a.ref) (if st = 1 then dec else F32.zero) down first
  else match md with
    | 1 => (s, if prof then g.lvl else q.setp)
    | 2 => s.speedWith x (if prof then g.v else q.setp) (if prof then g.a.mul rad else F32.zero) down first
    | 3 =>
      let (s, v) := s.positionLoop x (if prof then g.p else q.pset) g.v ((s.loopX (loopOf x 1)).satB || subst || s.n GIVE.STATE x = 2)
      s.speedWith x v (if prof then g.a.mul rad else F32.zero) down first
    | 4 =>
      let t := if prof then g.lvl else q.setp
      let s := if first then s.presetTo x (loopOf x 2) q.tNow (t.sub (s.tension x).1) ((s.f AXIS.TFF x).mul t) else s
      s.tensionLoop x t down
    | _ => (s, F32.zero)

/-- The observer of the axis, where it is in place, at each wingbeat (R185). -/
def observe (s : State) (x : Nat) : State := if s.observed x then s.observer x else s

/-- T_axis before Pool, and whether the final clamp acts (R186, R472, R473, R476). -/
def axisTorque (s : State) (x : Nat) (subst : Bool) : State × F32 × Bool :=
  let st := s.n STOP.STATE x
  let v := s.f AXIS.SPD x
  let a := s.axstop.find {} x
  let give := s.n GIVE.STATE x = 2
  let down := s.torqueSat x subst || give || st = 8
  let s := { s with axstop := s.axstop.put {} x { a with first := false } }
  let first := a.first && (st = 0 || st = 8 || s.n AXIS.MODE x = 1 || s.n AXIS.MODE x = 4)
  let release := fun (s : State) =>
    let w := v.abs.sub (s.f STOP.RELV x)
    if v.neg? && (F32.zero).lt w then ((s.f AXIS.KPV x).mul w).min (s.f AXIS.TMAXP x) else F32.zero
  if (s.axisX x).fbHold then (s.observe x, (s.axisX x).tNow, false)
  else if st = 6 then (s.observe x, release s, false)
  else if st = 7 then
    if (s.tension x).2 then
      -- t_ref = RELT, VMAXT replaced by RELV
      let keep := s.f AXIS.VMAXT x
      let (s, t) := (s.putF AXIS.VMAXT x (s.f STOP.RELV x)).tensionLoop x (s.f STOP.RELT x) down
      ((s.putF AXIS.VMAXT x keep).observe x, t, false)
    else (s.observe x, s.f STOP.RELTQ x, false)
  else
    let (s, tl) := s.loopTorque x down first subst
    let s := s.observe x
    let s := s.giveMark x
    let fr := s.frictionTorque x
    let s := s.setAxisX x { s.axisX x with tLoop := tl, tFr := fr }
    let ob := if s.b AXIS.OBSFF x then s.f LOOP.TLEST (loopOf x 3) else F32.zero
    if s.n GIVE.STATE x = 2 then
      let (s, t) := s.giveTorque x
      (s, t, false)
    else if st = 8 then
      let m := s.refm x
      let (vd, nom) := match s.convOfMach m with
        | some c => (s.convVdc c, s.f CONV.VDCNOM c)
        | none => (s.vdcOf m, s.f MACH.VDCNOM m)
      let b := ((s.f STOP.KRT x).mul (((s.f STOP.RTVREF x).mul nom).sub vd)).clamp F32.zero (s.f STOP.RTTMAX x)
      (s, if v.zero? then F32.zero else if v.neg? then b else b.neg, false)
    else
      let raw := (tl.add fr).add ob
      let (lo, hi) := s.axisLims x
      let t := raw.clamp lo hi
      (s, t, t != raw)

/-! ### The Pool and Give task (R283–R300) -/

/-- Members that are lost, the pool minimum and the policy in effect (R290, R294, R295). -/
def poolMembers (s : State) (x : Nat) : State :=
  let ms := s.members x
  let mask := s.memberMask x
  let q := s.axisX x
  let lost := (List.range 32).filter fun m => bit q.mem m && !bit mask m &&
    ((s.machX m).policy || (s.n POOL.POLICY x = 3 && m = s.refm x))
  let s := lost.foldl (fun s m => s.poolFault 0x5101 m x 6) s
  let few := (s.machsOf x).length > 0 && ms.length < s.n POOL.MINM x && ms.length < s.n POOL.NACT x
  let s := ((s.put POOL.MEMBERS x mask).put POOL.NACT x ms.length).setAxisX x { s.axisX x with mem := mask }
  let pol := s.n POOL.POLICY x
  let s := s.put POOL.POLACT x (if pol = 3 && !ms.contains (s.refm x) then 0 else pol)
  if few then (s.poolFault 0x5102 x x 19).axisFault x else s

/-- r of R291, PRELACT and its notice. -/
def preloadStep (s : State) (x : Nat) (ms : List Nat) : State :=
  let q := s.axisX x
  let on := (F32.zero).lt (s.f POOL.PRELOAD x)
  let both := ms.any (fun m => s.g MACH.PGRP m = 0) && ms.any (fun m => s.g MACH.PGRP m = 1)
  let d := if s.g POOL.PRELRAMP x = 0 then F32.one
    else ((s.outS x).mul (F32.ofInt 1000)).div (F32.ofInt (s.n POOL.PRELRAMP x))
  let s := (s.setAxisX x { q with pre := towards q.pre (if q.preDn then F32.zero else F32.one) d }).putB POOL.PRELACT x (on && both)
  let (say, s) := s.excursion x 5 (on && !both)
  if say then s.poolFault 0x5104 x x 19 else s

/-- The stop of the axis begins: the preload ramps out. -/
def preloadOut (s : State) (x : Nat) : State := s.setAxisX x { s.axisX x with preDn := true }

/-- The weight ramps of joining and leaving members (R296). -/
def joinStep (s : State) (x : Nat) : State :=
  (s.machsOf x).foldl (fun s m =>
    let q := s.machX m
    let d := if s.g POOL.PJOIN x = 0 then F32.one else ((s.outS x).mul (F32.ofInt 1000)).div (F32.ofInt (s.n POOL.PJOIN x))
    s.setMachX m { q with w := towards q.w (if q.leave then F32.zero else F32.one) d }) s

/-- The Pool and Give task on `t` = T_axis: the demand of every machine of the axis (R286–R293). -/
def poolSplit (s : State) (x : Nat) (t : F32) : State × List F32 :=
  let s := (s.joinStep x).poolMembers x
  let ms := s.members x
  let pol := s.n POOL.POLACT x
  let s := s.preloadStep x ms
  let q := s.axisX x
  let tau := s.n POOL.FOLTAU x
  -- the low-pass runs once per wingbeat: T_axis stood at its last value in those without an evaluation
  let fl := if tau = 0 then t else
    (List.replicate (q.d - 1) q.tNow ++ [t]).foldl (fun (y u : F32) => y.add ((s.twUs.div (F32.ofInt tau)).mul (u.sub y))) q.filt
  let s := s.setAxisX x { q with filt := fl }
  let w := s.weights x pol ms
  let sh := s.shares x pol ms w t fl
  let bi := s.biases x ms w t
  let l := (((sh.zip bi).map fun (a, b) => a.add b).zip ((ms.map s.capM).zip w)).map fun (t, c, w) => (t, c, w, true)
  let (ts, sat) := fitShares ms.length l
  let s := s.putB POOL.POOLSAT x sat
  let pairs := ms.zip ts
  let s := (s.machsOf x).foldl (fun s m => s.putF MACH.PSHARE m (((pairs.find? fun p => p.1 = m).map (·.2)).getD F32.zero)) s
  let h := (s.axisX x).h
  (s, (s.machsOf x).map fun m => match pairs.find? fun p => p.1 = m with
    | some (_, t) => ((t.div (s.ratioM m)).add (s.coggingTorque x m)).mul h
    | none => F32.zero)

/-- The brake slip check (R300), at every mark of a configured axis. -/
def brakeSlip (s : State) (x : Nat) : State :=
  let q := s.axisX x
  if s.n PROF.BRKIN x = 0xFFFF || !s.brakeOn x then
    s.setAxisX x { q with brkAt := none, told := q.told.filter (· != 4) }
  else
    let p0 := q.brkAt.getD (s.g AXIS.POS x)
    let s := s.setAxisX x { q with brkAt := some p0 }
    let lim := s.n POOL.BRKSLIP x
    if lim != 0 && (s.g AXIS.POS x - p0).natAbs > lim && !q.told.contains 4 then
      (s.setAxisX x { s.axisX x with told := (s.axisX x).told ++ [4] }).poolFault 0x5105 x x 19
    else s

/-- POOL_TORQUE_DEV (R297): the reported torque has deviated for PTDEVT. -/
def poolTorqueDev (s : State) (m : Nat) : State :=
  match s.partOfMach m with
  | none => s
  | some i =>
    if (s.f MACH.PTDEV m).zero? || !s.b MACH.ENABLE m || s.partDown i ||
       !(s.f MACH.PTDEV m).lt ((s.f PART.VALUE i).sub (s.partDemand i)).abs then s
    else
      let x := s.n MACH.AXIS m
      let s := if x < 16 then s.poolFault 0x5103 m x 6 else s.alarm 0x5103 m [36] 0 6
      ((s.machFault m 4).partDisable m).axisAllFaulted x

/-! ### The outer evaluation (R77, R186) -/

/-- The evaluation of axis `x` at a mark: the next state and the output T_axis with the demand of every machine of the axis. -/
def outerEval (s : State) (x : Nat) (subst : Bool) : State × List F32 :=
  let s := if s.g AXIS.SPSRC x = 0 then s.genMark x else s.setpointStep x
  let s := s.holdMark x
  let (s, t, cl) := s.axisTorque x subst
  let s := s.overspeed x
  let (s, ds) := s.poolSplit x t
  let s := s.setAxisX x { s.axisX x with satF := cl || s.b POOL.POOLSAT x, tNow := t }
  (s, t :: ds)

/-- The committed output of an axis (R46): T_axis and the demands of its machines. -/
def commitAxis (s : State) (x : Nat) (out : List F32) : State :=
  let s := s.putF AXIS.TDEM x (out.headD F32.zero)
  ((s.machsOf x).zip (out.drop 1)).foldl (fun s (m, t) => s.setMachX m { s.machX m with dem := t }) s

/-! ### Enables of machines (R190, R209, R296, R456, R577) -/

/-- A machine is disabled: no torque, its task not dispatched; a converter returns to READY. -/
def machOff (s : State) (m : Nat) : State :=
  let s := ((s.put MACH.ENABLE m 0).dispatch 6 m false).coefDue
  let s := s.setMachX m { s.machX m with dem := F32.zero, amp := F32.zero, leave := false }
  let s := (s.putF MACH.MODIDX m F32.zero).resetOut m
  match s.convOfMach m with
  | some c => if s.cvState c = 4 then s.convTo c 3 else s
  | none => s

/-- A machine is enabled: its integrators, flux and thermal state start (R54, R181, R190, R287). -/
def machOn (s : State) (m : Nat) : State :=
  let s := s.machOnNote m
  let s := s.setMachX m { s.machX m with iq := (s.loopX m).preset.getD F32.zero, ed := F32.zero, ifw := F32.zero,
                                         psir := F32.zero, slip := 0, ierr := 0, tclamp := false, tcPrev := false,
                                         dem := F32.zero, amp := F32.zero, duD := F32.zero, duQ := F32.zero,
                                         tHist := [], hOk := 0, hStop := false }
  let s := s.put MACH.HUSHST m 0
  let s := (s.setLoopX m { s.loopX m with preset := none, resume := none, satB := false }).putF LOOP.INTEG m (s.machX m).iq
  ((if s.n MACH.THSRC m = 0xFFFF then s.putF MACH.THX m (s.f MACH.THINIT m) else s).resetOut m)

/-- A stop that has not completed covers the axis (R456, R470). -/
def stopOver (s : State) (x : Nat) : Bool := s.stops.any fun q => q.device || (x < 16 && bit q.axes x)

/-- Statuses of R456 for axis `x`, a stop of the device included. -/
def stopStatusOf (s : State) (x : Nat) (latched : Bool) : Option Status :=
  if s.stopOver x then some .busyShutdown
  else
    let st := s.n STOP.STATE x
    if s.sto.act || latched || (x < 16 && (st = 4 || st = 6 || st = 7)) then some .stopped else none

/-- The task of a machine's current loop is in place (R68). -/
def machPlaced (s : State) (m : Nat) : Bool :=
  (match s.pathOf m with
   | 2 => (s.convOfMach m).any fun c => s.g CONV.CFG c = 2
   | 3 => true
   | _ => s.g MACH.CFG m = 2) && !s.machStranded m

/-- MACH_ENABLE with 1; `latched` tells whether a latched source has the axis in its scope. -/
def machEnable (s : State) (m : Nat) (latched : Bool) : Status × State :=
  let x := s.n MACH.AXIS m
  let path := s.pathOf m
  let noGain := (s.f LOOP.KP m).zero? && (s.f LOOP.KPD m).zero?
  let prof := s.g MACH.ANGSRC m = 1
  if s.b MACH.ENABLE m then (.ok, s)
  else if !s.machPlaced m then (.notPlaced, s)
  else if (path = 1 && ((s.f MACH.IMAX m).zero? || noGain)) ||
      (prof && (s.g MACH.KIND m = 1 || x ≥ 16 || s.g AXIS.SPSRC x != 0)) ||
      (s.dcMach m && s.b MACH.KIND m) then (.badValue, s)
  else if s.stopOver x then (.busyShutdown, s)
  else if (s.machX m).policy || (!prof && s.fbAvail (s.n MACH.FBANG m) && s.g FB.STATE (s.n MACH.FBANG m) = 1) then (.faultActive, s)
  else match s.stopStatusOf x latched with
  | some e => (e, s)
  | none =>
    match path with
    | 3 =>
      let i := (s.partOfMach m).getD 0
      let p := s.n PART.PORT i
      if !s.b PART.EN i || !(s.cState p = 2 || s.cState p = 3) then (.stopped, s)
      else (.pending, s.setPart i { s.partX i with cen := true, wait := true })
    | 2 =>
      let c := (s.convOfMach m).getD 0
      if s.cvState c != 3 then (.stopped, s) else (.ok, (s.machOn m).convTo c 4)
    | 1 => if s.stState ((s.stageOfMach m).getD 0) != 3 then (.stopped, s) else (.ok, s.machOn m)
    | _ => (.stopped, s)

/-- MACH_ENABLE with 0 (R296): a member of an enabled axis leaves over PJOIN. -/
def machDisable (s : State) (m : Nat) : Status × State :=
  let x := s.n MACH.AXIS m
  if !s.b MACH.ENABLE m then (.ok, s.partDisable m)
  else if x < 16 && s.b AXIS.ENABLE x && !(s.machX m).policy then
    if (s.members x).length ≤ 1 then (.busy, s)
    else (.pending, s.setMachX m { s.machX m with leave := true })
  else (.ok, (s.machOff m).partDisable m)

/-- MEMBER_DISABLE (R296): the weight has reached 0. -/
def memberDisable (s : State) (m : Nat) : State :=
  let q := s.machX m
  if q.leave && q.w.zero? && s.b MACH.ENABLE m then (s.machOff m).partDisable m else s

/-- A live cause of the machine's fault policy (R209, R212). -/
def machCause (s : State) (m : Nat) : Bool :=
  let lost := fun k => k < 48 && s.g SD.STATE k = 3
  let fb := s.n MACH.FBANG m
  ((s.pathOf m = 1 || s.pathOf m = 2) && [MACH.SDU, MACH.SDV, MACH.SDW, MACH.SDDC].any fun q => lost (s.n q m)) ||
    (s.g MACH.ANGSRC m = 0 && s.fbAvail fb && s.fbDown fb)
    || (match s.partOfMach m with
        | some i => s.partDown i || (s.n PART.SFLT i < 16 && bit (s.n PART.STAT i) (s.n PART.SFLT i))
        | none => false)

/-- The fault code of that cause: the newest fault of the stage, a lost current input, or the newest fault of the
feedback channel or of the partner. -/
def machCauseCode (s : State) (m : Nat) : Nat :=
  match s.stageOfMach m with
  | some i =>
    if s.stState i = 5 || s.stState i = 6 then s.newestOf 7 i
    else if s.machCause m && s.pathOf m = 1 && [s.n MACH.SDU m, s.n MACH.SDV m, s.n MACH.SDW m].any (fun k => k < 48 && s.g SD.STATE k = 3)
    then 0x3501 else s.newestOf 12 (s.n MACH.FBANG m)
  | none =>
    match s.partOfMach m with
    | some i => s.newestOf 23 i
    | none => s.newestOf 12 (s.n MACH.FBANG m)

/-- MACH_CLEAR (R209); refused while the machine's stage carries a latched fault (R368). -/
def machClear (s : State) (m : Nat) : Status × State :=
  let stage := match s.stageOfMach m with | some i => s.stState i = 5 || s.stState i = 6 || s.stageLatched i | none => false
  if s.machCause m || stage || ((s.machX m).policy && s.machStranded m) then (.faultActive, s)
  else if !(s.machX m).policy then (.ok, s)
  else (.ok, ((s.setMachX m { s.machX m with policy := false, bad := 0, ierr := 0 }).leavePolicy [m]).clearFault 6 m)

/-- Machine `m` enters its fault policy for a cause that its inputs or its stage show. -/
def machFalls (s : State) (m : Nat) : State :=
  ((s.machFault m 0).noteFault 6 m (s.machCauseCode m)).partDisable m |>.axisAllFaulted (s.n MACH.AXIS m)

/-- Causes that the inputs show put enabled machines into their policy (R212). -/
def machWatch (s : State) : State :=
  (List.range 32).foldl (fun s m => if s.b MACH.ENABLE m && s.machCause m then s.machFalls m else s) s

/-- An enabled machine whose stage has faulted enters its policy at its next evaluation, the half evaluation where
`half` (R351). -/
def stageWatch (s : State) (half : Bool) : State :=
  (List.range 32).foldl (fun s m =>
    let bad := match s.stageOfMach m with | some i => s.stState i = 5 || s.stState i = 6 | none => false
    if s.b MACH.ENABLE m && bad && (!half || s.b MACH.DUPD m) then s.machFalls m else s) s

/-! ### Enables of axes (R175, R190, R242, R285, R290, R301, R303) -/

/-- The configuration that an axis enable refuses with BAD_VALUE. -/
def axisBad (s : State) (x : Nat) : Bool :=
  let md := s.n AXIS.MODE x
  let open' := fun k => (s.f LOOP.KP (loopOf x k)).zero? && (s.f LOOP.KI (loopOf x k)).zero?
  let r := s.refm x
  let tr := s.n GIVE.TRIG x
  md = 0 || (md = 2 && open' 1) || (md = 3 && (open' 0 || open' 1 || (s.f AXIS.VMAX x).zero?)) || (md = 4 && open' 2) ||
    (md ≥ 2 && (s.f AXIS.TMAXP x).zero? && (s.f AXIS.TMAXN x).zero?) ||
    s.g MACH.RNUM r != s.g MACH.RDEN r || (s.n POOL.POLICY x = 3 && s.remote? r) ||
    (s.b GIVE.EN x && ((tr % 4 != 0 && !s.observed x) || (bit tr 2 && s.n AXIS.TSRC x = 0xFFFF) ||
      (s.f GIVE.GTMAX x).lt (s.giveLims x).1))

/-- AXIS_ENABLE with 1. -/
def axisEnable (s : State) (x : Nat) (latched : Bool) : Status × State :=
  let init := fun c => s.fbAvail c && s.g FB.STATE c = 1
  if s.b AXIS.ENABLE x then (.ok, s)
  else if s.g AXIS.CFG x != 2 || s.ownerStranded 5 x then (.notPlaced, s)
  else if s.axisBad x then (.badValue, s)
  else if s.stopOver x then (.busyShutdown, s)
  else if init (s.n AXIS.FBPOS x) || init (s.n AXIS.FBSPD x) ||
      (s.machsOf x).any (fun m => s.g MACH.ANGSRC m = 0 && init (s.n MACH.FBANG m)) then (.faultActive, s)
  else match s.stopStatusOf x latched with
  | some e => (e, s)
  | none =>
    let s := (s.put AXIS.ENABLE x 1).dispatch 5 x true
    let s := s.axisMeasure x
    let s := ((s.put STOP.STATE x 0).put STOP.CAT x 255).put STOP.CAUSE x 255
    let s := [0, 1, 2].foldl (fun s k =>
      let n := loopOf x k
      let p := (s.loopX n).preset.getD F32.zero
      (s.setLoopX n { s.loopX n with preset := none, resume := none, satB := false }).putF LOOP.INTEG n p) s
    let v := s.f AXIS.SPD x
    let md := s.n AXIS.MODE x
    let i := s.n AXIS.SPIDX x
    let sp0 := if md = 2 then v else if md = 4 then (s.tension x).1 else F32.zero
    let q : AxisX := { setp := sp0, pset := s.g AXIS.POS x, pOrg := s.g AXIS.POS x,
                       chOrg := if i < 16 then s.g FB.POS i else 0, wHat := v.mul (F32.twoPi.div F32.f60),
                       mem := s.memberMask x, vref := v, d := (s.axisX x).d,
                       brkAt := (s.axisX x).brkAt, told := (s.axisX x).told.filter (· = 4) }
    let s := s.setAxisX x q
    let s := (s.putF LOOP.TLEST (loopOf x 3) F32.zero).putF LOOP.VEST (loopOf x 3) v
    let s := ((s.motionEnable x).genReport x).resetOut (72 + 6 * x)
    let s := ((s.putF AXIS.TDEM x F32.zero).put POOL.NACT x (s.members x).length).put POOL.MEMBERS x (s.memberMask x)
    let s := (s.machsOf x).foldl (fun s m => s.setMachX m { s.machX m with dem := F32.zero, w := F32.one }) s
    (.ok, if s.b PROF.BRKAUTO x then s else s.brkReq x true)

/-- AXIS_ENABLE with 0: it takes effect at the next mark (R273). -/
def axisDisable (s : State) (x : Nat) : Status × State :=
  if s.b AXIS.ENABLE x then (.ok, s.setAxisX x { s.axisX x with disPend := true }) else (.ok, s)

/-- The axis has no loops any more: demands 0, Give and standstill ended. -/
def axisOff (s : State) (x : Nat) : State :=
  let s := (((s.put AXIS.ENABLE x 0).dispatch 5 x false).giveEnd x).coefDue
  let s := s.put PROF.HOLDACT x 0
  let s := s.setAxisX x { s.axisX x with disPend := false, fbHold := false, h := F32.one, rest := 0 }
  let s := (s.putF AXIS.TDEM x F32.zero).resetOut (72 + 6 * x)
  (s.machsOf x).foldl (fun s m => s.setMachX m { s.machX m with dem := F32.zero }) s

/-- A host disable takes effect at the mark. -/
def axisOffMark (s : State) (x : Nat) : State :=
  if (s.axisX x).disPend then ((s.axisOff x).motionDisable x).brkReq x false else s

end State
end Sys2Proof.Machine
end

