-- ==== Sys2Proof/Machine/Stops.lean ====
section
/-! DEFINITION. STO, the stop sources, the stop categories, the emergency modes and ride-through
(R448–R489), and the enables that they refuse (R365, R369, R408, R439, R456). -/
namespace Sys2Proof.Machine
namespace State

def axStop (s : State) (x : Nat) : AxStop := s.axstop.find {} x
def setAxStop (s : State) (x : Nat) (q : AxStop) : State := { s with axstop := s.axstop.put {} x q }
def stopState (s : State) (x : Nat) : Nat := s.n STOP.STATE x
def setSto (s : State) (f : Sto → Sto) : State := { s with sto := f s.sto }
def stoMap (s : State) (x : Nat) : Nat := s.sto.maps.find 0 x
def setStoMap (s : State) (x v : Nat) : State := s.setSto fun q => { q with maps := q.maps.put 0 x v }

/-- A machine drives axis `x`, or the axis has a mode: it takes part in stops (R453). -/
def axisActs (s : State) (x : Nat) : Bool := s.g AXIS.MODE x != 0

def stagesOf (s : State) (x : Nat) : List Nat := (List.range 16).filter fun i => s.axisOfStage i = x
def convsOfAxis (s : State) (x : Nat) : List Nat := s.convs.filter fun c => s.axisOfConv c = x

/-- The parts of a stop that stages and converters give (R367, R441, R470). -/
def stagePart (s : State) (i : Nat) : Bool := s.stState i = 0 || (s.stState i = 5 && (s.stg i).act = 0)
def convPart (s : State) (c : Nat) : Bool := s.cvState c = 0 || (s.cvState c = 7 && (s.convX c).act = 0)

/-! ### Reach of sources and stops (R453, R456) -/

def srcFixed (j : Nat) : Bool := j = 16 || j = 17
def srcAction (s : State) (j : Nat) : Nat := if srcFixed j then 1 else s.n SRC.ACTION (j - 16)
def srcCat (s : State) (j : Nat) : Nat := if srcFixed j then 0 else s.n SRC.CAT (j - 16)
def srcDevice (s : State) (j : Nat) : Bool := srcFixed j || s.g SRC.SCOPE (j - 16) = 0
def srcMask (s : State) (j : Nat) : Nat := s.n SRC.AXMASK (j - 16)
def srcCovers (s : State) (j x : Nat) : Bool := s.srcDevice j || bit (s.srcMask j) x
def srcLatched (s : State) (j : Nat) : Bool := s.b SRC.LATCHED (j - 16)
def srcList : List Nat := [17, 18, 19, 20, 21] ++ (List.range 32).map (32 + ·)

/-- A latched source has axis `x` in its scope; `x` = 255 asks for a device-scope source only. -/
def latchedOver (s : State) (x : Nat) : Bool :=
  s.sto.thStop || s.sto.thTrip || s.sto.refLoss ||
    srcList.any fun j => s.srcLatched j && (s.srcDevice j || (x < 16 && bit (s.srcMask j) x))

/-- A stop that has not completed covers the axis, the stage, or the device. -/
def stopOverStage (s : State) (i : Nat) : Bool := s.stops.any fun q => bit q.stages i

/-- The axis is in HOLD or in an emergency mode. -/
def heldAxis (s : State) (x : Nat) : Bool := x < 16 && (s.stopState x = 4 || s.stopState x = 6 || s.stopState x = 7)

/-- The two statuses of R456 for an object of axis `x`, in their order. -/
def stopStatus (s : State) (x : Nat) : Option Status :=
  if s.stopOver x then some .busyShutdown
  else if s.sto.act || s.latchedOver x || s.heldAxis x then some .stopped
  else none

/-- STOP[64].ACTIVE (R470). -/
def stopRefresh (s : State) : State :=
  let m := (List.range 16).foldl (fun k x =>
    if (s.stops.any fun q => bit q.axes x || (q.device && s.axisActs x)) then k + 2 ^ x else k) 0
  s.put STOPDEV.ACTIVE 0 (m : Nat)

/-! ### Removing power (R463) -/

/-- The brake output goes to its apply level in hardware unless RELHOLD holds it (R454, R463). -/
def brakeApply (s : State) (x : Nat) : State :=
  let m := s.stoMap x
  if bit m 29 && !bit m 30 then s.dioDrive (bits m 24 5) false else s

def setRelHold (s : State) (x : Nat) (v : Bool) : State := s.setStoMap x (setBits (s.stoMap x) 30 1 (b2n v))

/-- STOP.CAT and CAUSE of a request: the lowest category, and its first source (R469, R746). -/
def stopCause (s : State) (x cat src : Nat) : State :=
  if cat < s.n STOP.CAT x then (s.put STOP.CAT x cat).put STOP.CAUSE x src else s

/-- What every stop does as it begins on an axis (R461). -/
def stopBegin (s : State) (x : Nat) : State :=
  let s := (((((s.motionStop x).giveEnd x).freezeEnd x).hushDropAxis x).preloadOut x).tuneStop x
  { s with supp := { s.supp with on := true, axes := s.supp.axes ||| 2 ^ x } }

/-- The axis's part is complete: DONE (R463, R470). -/
def axisDone (s : State) (x : Nat) : State :=
  if s.stopState x = 3 && (s.stagesOf x).all s.stagePart && (s.convsOfAxis x).all s.convPart then s.put STOP.STATE x 5 else s

/-- Ends the emergency mode of an axis: RELEASE_ACTIVE once more (R471). -/
def releaseNote (s : State) (x mode : Nat) : State :=
  (s.alarm 0xC301 x [46, 16 + x] mode 21)

/-- The machines, stages and converters of axis `x` lose power (R463). -/
def powerParts (s : State) (x : Nat) : State :=
  let s := (s.machsOf x).foldl (fun s m => (s.machOff m).partDisable m) s
  let s := (s.stagesOf x).foldl State.stageStop s
  (s.convsOfAxis x).foldl State.convStop s

/-- Removes power from axis `x` (R463); the brake stays as R472 and R473 decide. -/
def powerOff (s : State) (x : Nat) : State :=
  let st := s.stopState x
  let s := (s.axisOff x).powerParts x
  let s := s.setAxStop x { s.axStop x with pend := none }
  if st = 6 then s
  else if st = 7 then
    let s := s.alarm 0xC302 x [16 + x] 0 21
    if s.b STOP.RELFALL x then s.put STOP.STATE x 6
    else (((s.setRelHold x false).brkReq x false).brakeApply x).put STOP.STATE x 3 |>.axisDone x
  else (((s.brkReq x false).brakeApply x).put STOP.STATE x 3).axisDone x

/-! ### Stops of an axis (R455, R469) -/

/-- A stop request of category `cat` reaches axis `x`; `hold` is the stop of R474. An axis that is not enabled has
nothing to ramp or to hold: its machines, stages and converters are off at once, and it is DONE (R453). -/
def stopAxis (s : State) (x cat src : Nat) (hold : Bool := false) : State :=
  if !s.axisActs x then s else
    let st := s.stopState x
    let fresh := st = 0 || st = 4 || st = 5 || st = 8
    -- a request during HOLD or DONE starts a new stop
    let s := if fresh then (s.put STOP.CAT x 255).put STOP.CAUSE x 255 else s
    let s := s.stopCause x cat src
    if st = 6 || st = 7 then (if cat = 0 then (s.stopBegin x).powerOff x else s)
    else if !s.b AXIS.ENABLE x && st != 1 && st != 2 then
      if st = 3 then s else ((s.powerParts x).brkReq x false).put STOP.STATE x 5
    else if cat = 0 then (s.stopBegin x).powerOff x
    else if st = 1 || st = 2 || st = 3 then s     -- the ramp that runs keeps; its end follows CAT
    else
      let p := match (s.axStop x).pend with
        | some (c, q, h) => if cat < c then (cat, src, hold || h) else (c, q, hold || h)
        | none => (cat, src, hold)
      -- a request ends ride-through at once (R477)
      let s := if st = 8 then s.put STOP.STATE x 0 else s
      s.setAxStop x { s.axStop x with pend := some p }

/-- A stop of the axes in `mask` (R470). -/
def stopAxes (s : State) (mask cat src : Nat) (hold : Bool := false) : State :=
  let s := s.stopJoin { src := src, axes := mask }
  ((List.range 16).foldl (fun s x => if bit mask x then s.stopAxis x cat src hold else s) s).stopRefresh

/-- A hardware category 0 request of axis scope acts through STO.MAPxx (R454). -/
def mapStop (s : State) (x : Nat) : State :=
  let m := s.stoMap x
  let s := (List.range 16).foldl (fun s i => if bit m i then s.stageStop i else s) s
  let s := (List.range 8).foldl (fun s c => if bit m (16 + c) then s.convStop c else s) s
  s.brakeApply x

/-- XLNK acts on every ring, and every converter of the rings is blocked (R403, R442). -/
def xlnkStop (s : State) : State :=
  let s := (List.range 4).foldl State.ringBlock s
  s.convs.foldl State.convStop s

/-- The stage, or the converter, drives an enabled machine of an axis that acts. -/
def drives (s : State) (m : Nat) : Bool := m < 32 && s.b MACH.ENABLE m && s.n MACH.AXIS m < 16 && s.axisActs (s.n MACH.AXIS m)

/-- A stop of device scope (R453). -/
def stopDevice (s : State) (cat src : Nat) : State :=
  let s := s.stopJoin { src := src, device := true }
  let s := if cat = 0 then ((List.range 16).foldl State.stageStop s).xlnkStop
    else
      let s := (List.range 16).foldl (fun s i => if s.drives (s.n STAGE.MACH i) then s else s.stageStop i) s
      s.convs.foldl (fun s c => if s.drives (s.n CONV.MACH c) then s else s.convStop c) s
  let s := { s with supp := { s.supp with on := true, all := true } }
  let s := (List.range 16).foldl (fun s x =>
    let s := if cat = 0 then s.brakeApply x else s
    s.stopAxis x cat src) s
  s.stopRefresh

/-- The requests that faults and evaluations have made take effect; category 9 is the feedback-fault stop
of R211, with `obs` telling whether option 2 can run on axis `x`. -/
def runStopReqs (s : State) (obs : State → Nat → Bool) : State :=
  let l := s.axReq
  let s := { s with axReq := [] }
  l.foldl (fun s (x, cat, src) =>
    if cat < 9 then s.stopAxes (2 ^ x) cat src
    else if !s.b AXIS.ENABLE x || (s.axisX x).fbHold || (s.stopState x != 0 && s.stopState x ≤ 3 && s.n STOP.CAT x = 0) then s
    else match s.n AXIS.FBFSTOP x with
      | 0 => s.stopAxes (2 ^ x) 0 src
      | 1 => ((s.giveEnd x).setAxisX x { (s.giveEnd x).axisX x with fbHold := true, tNow := s.f AXIS.TDEM x }).brkReq x false
      | _ =>
        if obs s x then (s.setAxisX x { s.axisX x with onVest := true }).stopAxes (2 ^ x) 1 src
        else (s.alarm 0x4107 x [35, 16 + x] 0 5).stopAxes (2 ^ x) 0 src) s

/-- FEEDBACK_HOLD_END (R211): HOLDT of the hold has elapsed. -/
def feedbackHoldEnd (s : State) (x : Nat) : State :=
  if !(s.axisX x).fbHold then s
  else (s.setAxisX x { s.axisX x with fbHold := false }).stopAxes (2 ^ x) 0 0x85

/-! ### Emergency modes (R471–R475) -/

/-- A request of mode 2 (quick release), 3 (constant tension) or 4 (hold) on axis `x`. -/
def emodeAxis (s : State) (x mode : Nat) : State :=
  if !s.axisActs x then s
  else if mode = 4 then s.stopAxes (2 ^ x) 1 0x86 true
  else if !s.b STOP.RELEN x then s.stopAxes (2 ^ x) 1 0x86
  else
    let st := s.stopState x
    if st = 6 || (st = 7 && mode = 3) then s
    else
      let s := s.releaseNote x mode
      let s := (((s.giveEnd x).brkReq x true).setRelHold x true).setAxStop x { s.axStop x with pend := none, first := true }
      s.put STOP.STATE x (if mode = 2 then 6 else 7)

def emodeAxes (s : State) (mask mode : Nat) : State :=
  (List.range 16).foldl (fun s x => if bit mask x then s.emodeAxis x mode else s) s

/-! ### Requests of sources (R457–R460) -/

/-- The record STOP_SOURCE and its events (R460). -/
def stopSource (s : State) (inst what : Nat) (device : Bool) (mask : Nat) : State :=
  let evs := (List.range 16).filter fun x => device || bit mask x
  let s := s.raiseAll (evs.map (16 + ·))
  (s.ring7 0xC501 inst (what + 256 * b2n (!device) + 65536 * mask)).ledger 0xC501 inst (what + 256 * b2n (!device) + 65536 * mask)

/-- A request of hardware source `j` (R453). -/
def srcRequest (s : State) (j : Nat) : State :=
  let act := s.srcAction j
  if act = 0 || !s.ready then s else
    let dev := s.srcDevice j
    let mask := if dev then 0xFFFF else s.srcMask j
    let cat := s.srcCat j
    let s := (s.inc SRC.COUNT (j - 16)).put SRC.LATCHED (j - 16) 1
    let s := if j ≥ 18 && j ≤ 21 then { s with supp := { s.supp with ports := s.supp.ports ||| 2 ^ (j - 18) } } else s
    let s := s.stopSource j (if act = 1 then cat else act) dev (s.srcMask j)
    match act with
    | 1 =>
      if dev then s.stopDevice cat j
      else
        let s := if cat = 0 then (List.range 16).foldl (fun s x => if bit mask x then s.mapStop x else s) s else s
        s.stopAxes mask cat j
    | _ => s.emodeAxes mask act

/-- ESTOP (R511): the ESTOP bit of a ring 0 doorbell; accepted whatever the rings hold (R457). -/
def estop (s : State) : State := if bit s.sto.cfg 12 then s.srcRequest 17 else s

/-- An input of DIO stop source `n` is active or invalid (R456, R459). -/
def dioSource (s : State) (n : Nat) : Bool := s.g DIO.FUNC n = 2 && (s.dioActive n || s.g DIO.VALID n = 0)

/-- A DIO event with the request that it raises on a stop input (R459). -/
def dioStopEdge (s t : State) (n : Nat) : State := if t.dioSource n && !s.dioSource n then t.srcRequest (32 + n) else t

/-- A write of STOP[16 + j].CLEAR = 1 of a latched source (R456). -/
def sourceClear (s : State) (j : Nat) : Status × State :=
  if 32 ≤ j && s.dioSource (j - 32) then (.faultActive, s)
  else (.ok, (s.put SRC.LATCHED (j - 16) 0).clearFault 21 j)

/-- A write of STOP[x].REQ (R453, R460). -/
def stopRequest (s : State) (x cat : Nat) : Status × State :=
  let s := s.stopSource x cat false (2 ^ x)
  (.ok, s.stopAxes (2 ^ x) cat 0x84)

/-- A write of STOP[x].EREQ (R471). -/
def stopEreq (s : State) (x mode : Nat) : Status × State :=
  let s := s.stopSource x mode false (2 ^ x)
  (.ok, s.emodeAxis x mode)

/-- Ring 0 STOP and EMODE entries (R457, R536). -/
def ringStop (s : State) (mask cat : Nat) : State :=
  let one := (List.range 16).filter (bit mask ·)
  let s := s.stopSource (match one with | [x] => x | _ => 0xFFFF) cat false mask
  s.stopAxes mask cat 0x84
def ringEmode (s : State) (mask mode : Nat) : State :=
  let one := (List.range 16).filter (bit mask ·)
  let s := s.stopSource (match one with | [x] => x | _ => 0xFFFF) mode false mask
  s.emodeAxes mask mode

/-! ### STO (R448–R452) -/

/-- STO_ACTIVE: the accepted levels of STOA and STOB, one of them low. -/
def stoLevels (s : State) (a b : Bool) : State :=
  let was := s.sto.act
  let act := !a || !b || s.sto.disc
  let s := s.setSto fun q => { q with a := a, b := b, act := act, fb := q.fb && !a && !b }
  let s := if act != was then s.raise 44 else s
  if act && !was && s.ready then
    let s := (List.range 4).foldl (fun s r => s.setLink r { s.link r with blkSent := false }) s
    (s.alarm 0xC103 16 ((List.range 16).map (16 + ·)) 0 21).stopDevice 0 16
  else s

def stoActive (s : State) (a b : Bool) : State := if a && b then s else s.stoLevels a b
/-- STO_RELEASE: both pins accepted high. -/
def stoRelease (s : State) : State := s.stoLevels true true

/-- STO_DISCREPANCY (R450). -/
def stoDiscrepancy (s : State) : State :=
  if s.sto.a == s.sto.b || s.sto.disc then s else
    let s := (s.setSto fun q => { q with disc := true }).alarm 0xC101 16 ((List.range 16).map (16 + ·)) 0 21
    s.stoLevels s.sto.a s.sto.b

/-- STO_READBACK (R451): pin GX`k` reads high while GATE commands it low. -/
def stoReadback (s : State) (k : Nat) : State :=
  let w := (s.leg (k / 2)).sw (k % 2 = 1)
  if w.cmd || s.sto.rdbk then s
  else
    let x := s.axisOfStage (k / 6)
    (s.setSto fun q => { q with rdbk := true, fb := false }).alarm 0xC102 16 (if x < 16 then [16 + x] else []) k 21

/-- STOFB_RISE (R451): every condition of STOFB holds. -/
def stofbRise (s : State) : State :=
  if !s.sto.a && !s.sto.b && !s.sto.rdbk && s.ready &&
     (List.range 48).all (fun l => !(s.leg l).hi.cmd && !(s.leg l).lo.cmd) &&
     (List.range 4).all (fun r => s.rState r = 0 || (s.link r).blkSent) then
    s.setSto fun q => { q with fb := true }
  else s

/-- A write of STOP[16].CLEAR = 1 (R450, R451). -/
def stoClear (s : State) : Status × State :=
  if s.sto.a && s.sto.b then
    let s := s.setSto fun q => { q with disc := false, rdbk := false }
    (.ok, (s.stoLevels true true).clearFault 21 16)
  else (.faultActive, s)

/-- STO.STATUS, SRCLATCH and DIOLATCH (R485). -/
def stoStatus (s : State) : Nat :=
  b2n s.sto.a + 2 * b2n s.sto.b + 4 * b2n s.sto.act + 8 * b2n s.sto.disc + 16 * b2n s.sto.fb + 32 * b2n s.sto.rdbk
def srcLatchReg (s : State) : Nat :=
  b2n (s.srcLatched 17) + (List.range 4).foldl (fun k p => k + 2 ^ (p + 1) * b2n (s.srcLatched (18 + p))) 0
    + 32 * b2n s.sto.thStop + 64 * b2n s.sto.thTrip + 128 * b2n s.sto.refLoss
def dioLatchReg (s : State) : Nat := (List.range 32).foldl (fun k n => k + 2 ^ n * b2n (s.srcLatched (32 + n))) 0

/-- Aethino rewrites every STO.MAPxx at a configuration commit (R485). -/
def rewriteMaps (s : State) : State :=
  (List.range 16).foldl (fun s x =>
    let st := (s.stagesOf x).foldl (fun k i => k + 2 ^ i) 0
    let cv := (s.convsOfAxis x).foldl (fun k c => k + 2 ^ c) 0
    let o := s.n POOL.BRKOUT x
    let en := o < 32 && s.g DIO.FUNC o = 1
    s.setStoMap x (st + 65536 * cv + (if en then 2 ^ 24 * o + 2 ^ 29 else 0) + 2 ^ 30 * bits (s.stoMap x) 30 1)) s

/-! ### Ramps at the marks (R461–R468, R474) -/

/-- A category 1 or 2 stop cannot be carried out on axis `x` (R465). -/
def downgrade (s : State) (x : Nat) : Bool :=
  let md := s.g AXIS.MODE x
  let sp := s.b STOP.SPDSTOP x
  let lp := 32 + 4 * x + 1
  let fb := s.n AXIS.FBSPD x
  let torque := md = 1 || md = 4
  let blind := (fb ≥ 16 || (s.g FB.STATE fb != 2 && s.g FB.STATE fb != 3)) && !s.observed x
  (s.f STOP.STOPDEC x).zero? || (torque && sp && (s.f LOOP.KP lp).zero? && (s.f LOOP.KI lp).zero?)
    || (torque && !sp && (s.f STOP.STOPTRATE x).zero?) || blind

/-- A stop begins on the axis at this mark (R461, R464, R465). -/
def rampBegin (s : State) (x : Nat) : State :=
  match (s.axStop x).pend with
  | none => s
  | some (cat, src, hold) =>
    let s := s.setAxStop x { s.axStop x with pend := none }
    let s := s.stopCause x cat src
    if s.downgrade x then
      let s := s.alarm 0xC203 x [16 + x] 0 21
      ((s.put STOP.CAT x 0).stopBegin x).powerOff x
    else
      let s := s.stopBegin x
      let md := s.g AXIS.MODE x
      let q := s.axisX x
      let vs := if md = 2 || md = 3 then q.vref else if s.b STOP.SPDSTOP x then s.f AXIS.SPD x
        else if s.g AXIS.SPSRC x = 0 then q.gen.lvl else q.setp
      let s := if hold then s.brkReq x false else s
      (s.setAxStop x { s.axStop x with vs := vs, ref := vs, t := 0, first := true }).put STOP.STATE x 1

/-- `v` moved towards 0 by `d`. -/
def toZero (v d : F32) : F32 := if v.abs.le d then F32.zero else if v.neg? then v.add d else v.sub d

/-- The ramp of axis `x` is that of its torque or tension setpoint, with no speed in it (R465). -/
def setpointRamp (s : State) (x : Nat) : Bool := (s.g AXIS.MODE x = 1 || s.g AXIS.MODE x = 4) && !s.b STOP.SPDSTOP x

/-- One wingbeat of a ramp, and its envelope check (R464–R466). -/
def rampStep (s : State) (x : Nat) : State :=
  if s.stopState x != 1 then s else
    let q := s.axStop x
    let setp := s.setpointRamp x
    let rate := if setp then s.f STOP.STOPTRATE x else s.f STOP.STOPDEC x
    let s := s.setAxStop x { q with ref := toZero q.ref (rate.mul s.twS), t := q.t + 1 }
    let mon := s.f STOP.MONDEC x
    let env := (s.f STOP.MONTOL x).max ((q.vs.abs.add (s.f STOP.MONTOL x)).sub (mon.mul ((F32.ofInt (q.t : Nat)).mul s.twS)))
    if !setp && !mon.zero? && env.lt (s.f AXIS.SPD x).abs then
      ((s.alarm 0xC201 x [16 + x] 0 21).stopCause x 0 0x85).powerOff x |>.stopRefresh
    else s

/-- STOP_REST (R467, R468): the axis has stayed at rest for STOPREST. -/
def stopRest (s : State) (x : Nat) : State :=
  if s.stopState x != 1 || !(s.axStop x).ref.zero? || (!s.setpointRamp x && (s.f PROF.STILLV x).lt (s.f AXIS.SPD x).abs) then s
  else if s.n STOP.CAT x = 2 then
    -- in MODE 3 the position loop resumes at the position of rest with its integrator at 0
    let s := if s.g AXIS.MODE x = 3 then s.putF LOOP.INTEG (loopOf x 0) F32.zero else s
    (s.put STOP.STATE x 4).setAxisX x { s.axisX x with pHold := some (s.g AXIS.POS x), onVest := false }
  else (s.brkReq x false).put STOP.STATE x 2

/-- BRAKE_SET (R467): BRKIN reports the brake applied, or BRKSETT has elapsed. -/
def brakeSet (s : State) (x : Nat) (elapsed : Bool) : State :=
  if s.stopState x != 2 then s else
    let wired := s.n PROF.BRKIN x != 0xFFFF
    if !elapsed && !(wired && s.brakeOn x) then s else
      let s := if wired && elapsed && !s.brakeOn x then s.alarm 0xC204 x [16 + x] 0 21 else s
      let s := s.dioDrive (s.n STOP.STOREQ x) true
      (s.powerOff x).stopRefresh

/-- STOP_TIMEOUT (R466). -/
def stopTimeout (s : State) (x : Nat) : State :=
  if (s.stopState x = 1 || s.stopState x = 2) && s.n STOP.CAT x = 1 then
    ((s.alarm 0xC202 x [16 + x] 0 21).stopCause x 0 0x85).powerOff x |>.stopRefresh
  else s

/-- A write of STOP[x].ACK = 1 (R468, R475). -/
def stopAck (s : State) (x : Nat) : Status × State :=
  let st := s.stopState x
  if st = 4 then
    if s.latchedOver x || s.sto.act then (.stopped, s)
    else
      let s := ((s.put STOP.STATE x 0).put STOP.CAT x 255).put STOP.CAUSE x 255
      (.ok, (s.setAxisX x { s.axisX x with pHold := none }).motionIdle x)
  else if st = 6 || st = 7 then
    let live := srcList.any fun j => s.srcLatched j && (s.srcAction j = 2 || s.srcAction j = 3) && s.srcCovers j x
    if live then (.faultActive, s)
    else
      let s := ((s.put STOP.STATE x 0).setRelHold x false).releaseNote x (if st = 6 then 2 else 3)
      if s.b AXIS.ENABLE x then (.ok, s.stopAxes (2 ^ x) 1 0x86)
      else (.ok, (s.brkReq x false).brakeApply x)
  else (.ok, s)

/-! ### Completion (R470, R482) -/

/-- The axis holds with power on, or is powered in an emergency mode: its stages and converters stay (R468, R472,
R473). -/
def keepsPower (s : State) (x : Nat) : Bool :=
  x < 16 && (s.stopState x = 4 || (s.b AXIS.ENABLE x && (s.stopState x = 6 || s.stopState x = 7)))

/-- Every part of a stop is done. An axis in an emergency mode takes no part in the stop: it counts as done, and what keeps
power for it or for a hold is no open part (DEDUCED, log entry 48). -/
def stopDone (s : State) (q : StopRec) : Bool :=
  (List.range 16).all (fun x => !(bit q.axes x || q.device) || !s.axisActs x || s.stopState x = 4 || s.stopState x = 5
      || s.stopState x = 6 || s.stopState x = 7) &&
  (List.range 16).all (fun i => s.stagePart i || !(bit q.stages i ||
      ((q.device || bit q.axes (s.axisOfStage i)) && !s.keepsPower (s.axisOfStage i)))) &&
  s.convs.all (fun c => s.convPart c || !(q.device || bit q.axes (s.axisOfConv c)) || s.keepsPower (s.axisOfConv c)) &&
  (!q.device || (List.range 4).all fun r => s.rState r = 0 || s.rState r = 3 || s.rState r = 5 ||
    (s.convsOn r).any fun c => !s.convPart c && s.keepsPower (s.axisOfConv c))

/-- The rings of a device-scope stop are blocked once none of their converters acts (R470). -/
def ringsFollow (s : State) : State :=
  if !(s.stops.any (·.device)) then s else
    (List.range 4).foldl (fun s r => if s.rState r = 4 && (s.convsOn r).all s.convPart then s.ringBlock r else s) s

/-- STOP_COMPLETE: the stops whose every part is done complete; event 45, DONEGEN and the Ledger. -/
def stopComplete (s : State) : State :=
  let s := ((List.range 16).foldl State.axisDone s).ringsFollow
  let done := s.stops.filter s.stopDone
  let s := { s with stops := s.stops.filter fun q => !s.stopDone q }
  let s := done.foldl (fun s q =>
    let s := (s.raise 45).incWrap STOPDEV.DONEGEN
    let s := s.ledger 0xF002 0xFFFF q.src
    let s := (List.range 16).foldl (fun s x => if q.device || bit q.axes x then
        (let s := s.leavePolicy (s.ownerTasks 5 x); if s.axisActs x then s.motionIdle x else s) else s) s
    if q.src = 0x80 then { s with pow := { s.pow with perchDue := true } } else s) s
  s.stopRefresh

/-- SUPHOLD_END (R482). -/
def supholdEnd (s : State) : State := if s.stops.isEmpty then { s with supp := {} } else s

/-! ### Ride-through (R476, R477) -/

/-- V_dc and VDCNOM of the reference machine, or of its converter. -/
def axisVdc (s : State) (x : Nat) : F32 × F32 :=
  let m := s.refm x
  match s.convOfMach m with
  | some c => (s.convVdc c, s.f CONV.VDCNOM c)
  | none => (s.vdcOf m, s.f MACH.VDCNOM m)

/-- RIDETHRU_ENTRY at a mark, and the speed limit of a ride-through in progress. -/
def rideMark (s : State) (x : Nat) : State :=
  let st := s.stopState x
  let md := s.g AXIS.MODE x
  let (v, nom) := s.axisVdc x
  if st = 8 then
    if (s.f AXIS.SPD x).abs.lt (s.f STOP.RTVMIN x) then
      (s.alarm 0xC402 x [47, 16 + x] 0 21).put STOP.STATE x 0 |>.stopAxes (2 ^ x) (s.n STOP.RTSTOP x) 0x85
    else s
  else if !s.b STOP.RTEN x || !s.b AXIS.ENABLE x || st != 0 || (s.axStop x).pend.isSome || !(md = 2 || md = 3) then s
  else
    let n := if v.lt ((s.f STOP.RTVON x).mul nom) then (s.axStop x).rtN + 1 else 0
    let s := s.setAxStop x { s.axStop x with rtN := n }
    if n ≥ s.n STOP.RTN x then
      ((s.setAxStop x { s.axStop x with rtN := 0 }).put STOP.STATE x 8).alarm 0xC401 x [47, 16 + x] 0 21
    else s

/-- RIDETHRU_END (R477): V_dc has stayed at or above RTVOFF × VDCNOM for RTRET. The setpoint restarts from the present
state of the axis. -/
def rideEnd (s : State) (x : Nat) : State :=
  let (v, nom) := s.axisVdc x
  if s.stopState x != 8 || v.lt ((s.f STOP.RTVOFF x).mul nom) then s
  else
    let s := (s.put STOP.STATE x 0).setAxStop x { s.axStop x with first := true }
    let v := s.f AXIS.SPD x; let p := s.g AXIS.POS x
    let s := if s.g AXIS.SPSRC x = 0 && !s.geared x then
        (s.setGen x { s.gen x with p := p, v := v, a := F32.zero, plan := none }).motionReplan x
      else s.setAxisX x { s.axisX x with setp := v, pset := p }
    s.raise 47

/-- RIDETHRU_FAIL (R477): RTMAXT has elapsed. -/
def rideFail (s : State) (x : Nat) : State :=
  if s.stopState x != 8 then s
  else (s.alarm 0xC402 x [47, 16 + x] 0 21).put STOP.STATE x 0 |>.stopAxes (2 ^ x) (s.n STOP.RTSTOP x) 0x85

/-! ### Enables of stages, rings and converters (R365, R369, R408, R439) -/

/-- A write of STAGE[i].ENABLE = 1 (R365). -/
def stageEnable (s : State) (i : Nat) : Status × State :=
  let st := s.stState i
  let x := s.axisOfStage i
  if s.n STAGE.MACH i = 255 then (.badValue, s)
  else if st = 4 || s.stageActs i then (.busyShutdown, s)
  else if s.stopOver x || s.stopOverStage i then (.busyShutdown, s)
  else if st = 5 || s.stageLatched i then (.faultActive, s)
  else if s.sto.act || s.latchedOver x || s.heldAxis x then (.stopped, s)
  -- a run that DIAG started serves the enable from now on
  else if st = 1 && !(s.stg i).byEn then
    (.pending, (s.setStg i { s.stg i with byEn := true, t0 := (s.tb.cycles + s.twCyc) * 8, stopped := false }).put STAGE.ENABLE i 1)
  else if st = 1 || st = 2 || st = 3 then (.pending, s)
  else (.pending, (s.setStg i { s.stg i with enPend := true }).put STAGE.ENABLE i 1)

/-- A write of DIAG = 1 (R363): no run while a stop that covers the stage has not completed (R34). DESIGN CHOICE (log
entry 42): STOPPED where STO, a latched source or a held axis would end the run at once. -/
def stageDiag (s : State) (i : Nat) : Status × State :=
  let x := s.axisOfStage i
  if s.stState i != 0 || (s.stg i).enPend then (.busy, s)
  else if s.stopOver x || s.stopOverStage i then (.busyShutdown, s)
  else if s.sto.act || s.latchedOver x || s.heldAxis x then (.stopped, s)
  else (.ok, s.diagStart i false)

/-- A write of STAGE[i].ENABLE = 0 (R367, R369). -/
def stageDisable (s : State) (i : Nat) : Status × State :=
  let m := s.n STAGE.MACH i
  let st := s.stState i
  if m < 32 && s.b MACH.ENABLE m then (.busy, s)
  else if st = 1 || st = 2 || st = 3 then (.pending, s.setStg i { s.stg i with disPend := true })
  else (.ok, (s.put STAGE.ENABLE i 0).setStg i { s.stg i with enPend := false })

/-- A write of RING RUN (R408, R442, R443). -/
def ringRun (s : State) (r v : Nat) : Status × State :=
  let st := s.rState r
  if v = 0 then
    if st = 4 then (.ok, (s.convsOn r).foldl State.convStop (s.ringBlock r)) else (.ok, s)
  else if st != 3 && st != 4 then (.busy, s)
  else if s.stopOver 255 || (s.convsOn r).any (fun c => s.stopOver (s.axisOfConv c)) then (.busyShutdown, s)
  else if s.sto.act || s.latchedOver 255 || (s.convsOn r).any (fun c => s.latchedOver (s.axisOfConv c)) then (.stopped, s)
  else if !s.rttOk r then (.capacity, s)
  else if (List.range (s.n RING.NCELL r)).any fun k => s.g SLOT.STATE (384 * r + k) = 2 &&
      (match s.cellOfSlot r k with | some (a, c) => s.g CELL.STATE (64 * a + c) != 5 | none => true) then (.faultActive, s)
  else (.ok, (s.put RING.STATE r 4).put RING.RUN r 1)

/-- A write of CONV[c].ENABLE (R439). -/
def convEnable (s : State) (c v : Nat) : Status × State :=
  let st := s.cvState c
  let x := s.axisOfConv c
  let m := s.n CONV.MACH c
  if v = 0 then
    if m < 32 && s.b MACH.ENABLE m then (.busy, s)
    else if 1 ≤ st && st ≤ 3 then (.pending, s.convTo c 5)
    else (.ok, s)
  else if m = 255 || s.n CONV.SDDC c = 255 || (s.f CONV.VDCNOM c).zero? || (s.f CONV.VCNOM c).zero? ||
      (s.convArms c).any (fun a => s.n ARM.NCELL a < s.nReq c) then (.badValue, s)
  else if s.g CONV.CFG c != 2 || s.ownerStranded 9 c || (s.convArms c).any (fun a => (s.task (40 + a)).st = 0) then (.notPlaced, s)
  else if s.convActs c then (.busyShutdown, s)
  else if s.stopOver x then (.busyShutdown, s)
  else if st = 7 then (.faultActive, s)
  else if s.sto.act || s.latchedOver x || s.heldAxis x then (.stopped, s)
  else if st = 0 then
    let s := (s.put CONV.NREQ c (s.nReq c)).putF CONV.VCTGT c (s.f CONV.VCNOM c)
    let s := (s.convArms c).foldl (fun s a =>
      (s.resetOut (40 + a)).setArmX a { s.armX a with resid := F32.zero, ins := [], ic := F32.zero, icref := F32.zero }) s
    (.pending, s.convTo c 1)
  else (.pending, s)

/-- A cause of a converter's fault policy persists (R441). -/
def convCause (s : State) (c : Nat) : Bool :=
  let lost := fun k => k < 48 && s.g SD.STATE k = 3
  lost (s.n CONV.SDDC c) || (s.convArms c).any (fun a => lost (s.n ARM.SDI a) ||
    (!(s.f CONV.IAMAX c).zero? && s.n ARM.SDI a < 48 && (s.f CONV.IAMAX c).lt (s.f SD.VALUE (s.n ARM.SDI a)).abs))
    || (s.nMin c < s.n CONV.NREQ c && !s.b CONV.LIMP c)

/-- A write of CONV CLEAR = 1 (R440, R441). -/
def convClear (s : State) (c : Nat) : Status × State :=
  let st := s.cvState c
  if st = 8 && s.n CONV.FPOL c = 1 then (.pending, s.convShortEnd c)
  else if s.convActs c then (.busyShutdown, s)
  else if st = 7 then
    if s.convCause c then (.faultActive, s) else (.ok, (s.convTo c 0).clearFault 9 c)
  else (.ok, s)

end State
end Sys2Proof.Machine
end

