-- ==== Sys2Proof/Machine/Tune.lean ====
section
/-! DEFINITION. What starts, cancels and ends a relay auto-tune (R230, R233, R237). -/
namespace Sys2Proof.Machine
namespace State

/-- Loop `n` is one that R230 tunes: the current loop of a machine with a local stage, or a speed loop. -/
def tunable (s : State) (n : Nat) : Bool := if n < 32 then s.pathOf n = 1 else decide (n < 96) && n % 4 = 1

/-- Another tune runs on the axis of the loop. -/
def tuneElsewhere (s : State) (n : Nat) : Bool :=
  let x := s.axisOfLoop n
  if x < 16 then (s.axisLoops x).any s.tuning else s.tuning n

/-- What R230 refuses with BAD_VALUE. -/
def tuneBad (s : State) (n : Nat) : Bool :=
  let d := s.f LOOP.ATD n
  if n < 32 then
    let x := s.axisOfLoop n
    !s.b MACH.ENABLE n || (x < 16 && ((s.f AXIS.VMAX x).mul (F32.ofFrac 1 100)).lt (s.machX n).nm.abs) ||
      (((s.f MACH.MODMAX n).mul (s.f MACH.VDCNOM n)).div F32.sqrt3).lt d
  else
    let x := (n - 32) / 4
    !s.b AXIS.ENABLE x || s.g AXIS.MODE x != 2 || ((s.f AXIS.TMAXP x).min (s.f AXIS.TMAXN x)).lt d

/-- The machine or the axis of a loop is in a fault policy. -/
def loopPolicy (s : State) (n : Nat) : Bool :=
  let x := s.axisOfLoop n
  (n < 32 && (s.machX n).policy) || (x < 16 && (s.machsOf x).any fun m => (s.machX m).policy)

/-- ATSTART (R230): 1 starts, 0 cancels. -/
def atstart (s : State) (n v : Nat) : Status × State :=
  let x := s.axisOfLoop n
  if !s.tunable n then (.badObject, s)
  else if v = 0 then (.ok, s.tuneAbort n 0x17)
  else if s.stopOver x then (.stopped, s)
  else if s.loopPolicy n then (.faultActive, s)
  else if s.b LOOP.FREEZE n || s.tuneElsewhere n then (.busy, s)
  else if s.tuneBad n then (.badValue, s)
  else
    let y := if n < 32 then s.f MACH.ID n else s.loopSpeed x
    let t : TuneX := { run := true, t0 := if n < 32 then (s.machX n).udPi else (s.axisX x).tLoop,
                       hold := (s.axisX x).vref, lo := y, hi := y }
    (.ok, (s.setTune n t).put LOOP.ATSTATE n 1)

/-- AUTOTUNE_TIMEOUT (R233). -/
def autotuneTimeout (s : State) (n : Nat) : State := s.tuneAbort n 0x11

/-- A tune whose machine or axis no longer runs as R230 asks ends (R233): a stop, a trip, STO or a fault
policy; or the loss of its feedback, which it names. -/
def tuneWatch (s : State) : State :=
  s.tunes.foldl (fun s (n, _) =>
    let x := s.axisOfLoop n
    let stages := if n < 32 then (s.stageOfMach n).toList else if x < 16 then s.stagesOf x else []
    let off := if n < 32 then !s.b MACH.ENABLE n else !s.b AXIS.ENABLE x
    let fb := if n < 32 then s.n MACH.FBANG n else s.n AXIS.FBSPD x
    let lost := s.fbAvail fb && s.fbDown fb && !(n < 32 && s.b MACH.ANGSRC n)
    if lost then s.tuneAbort n 0x16
    else if off || s.loopPolicy n || s.sto.act || stages.any s.tripHolds || (x < 16 && s.stopState x != 0) then s.tuneAbort n 0x10
    else s) s

end State
end Sys2Proof.Machine
end

