-- ==== Sys2Proof/Machine/Trace.lean ====
section
/-! DEFINITION. The trace units (R218–R229, R235, R236). -/
namespace Sys2Proof.Machine
namespace State

/-! ### Nodes (R218, R219) -/

/-- An internal member of R218: its type and value. -/
def internalNode (s : State) (cls i k : Nat) : Option (Ty × Int) :=
  let f := fun (v : F32) => some (Ty.f32, v.toBits)
  if cls = 6 && i < 32 then
    let x := s.machX i
    match k with
    | 0xF00 => f x.idr | 0xF01 => f x.iqr | 0xF02 => f x.ud | 0xF03 => f x.uq
    | 0xF04 => some (.u32, x.theta) | 0xF05 => f x.dem | 0xF06 => f x.ifw | 0xF07 => f (s.vdcOf i)
    | _ => none
  else if cls = 5 && i < 16 then
    let q := s.axisX i
    match k with
    | 0xF00 => some (.i64, q.gen.p) | 0xF01 => f q.gen.v | 0xF02 => f q.aref | 0xF03 => f q.vref
    | 0xF04 => f q.tLoop | 0xF05 => f q.tFr | 0xF06 => f q.ep | 0xF07 => f q.ev
    | _ => none
  else if cls = 10 && i < 32 then
    match k with
    | 0xF00 => f ((s.ex.outs.find {} (40 + i)).prev.headD F32.zero) | 0xF01 => f (s.armCurrent i)
    | 0xF02 => f (s.armX i).icref | 0xF03 => some (.u32, s.g ARM.LEVEL i)
    | _ => none
  else none

/-- The type and value of the node at an object address. -/
def node (s : State) (addr : Nat) : Option (Ty × Int) :=
  let c := addr / 16777216
  match s.internalNode c (addr / 4096 % 4096) (addr % 4096) with
  | some v => some v
  | none =>
    if !(([5, 6, 9, 10, 12, 13, 14, 16]).contains c) then none
    else match lookup addr with
    | some (m, i, x) => if m.ty = .o16 then none else some (m.ty, s.shown m i x)
    | none => none

/-- The object of a node is deconfigured (R226, R528). DEDUCED (log entry 48): the loop of a machine that a configured converter drives
exists in the converter's common part (R67). -/
def nodeGone (s : State) (addr : Nat) : Bool :=
  let i := addr / 4096 % 4096
  match addr / 16777216 with
  | 5 => s.g AXIS.CFG i = 0
  | 6 => s.g MACH.CFG i = 0 && !s.b MACH.ENABLE i && (s.convOfMach i).isNone
  | 9 => s.g CONV.CFG i = 0
  | 10 => (s.convOfArm i).isNone
  | 16 => if i < 32 then s.g MACH.CFG i = 0 && !s.b MACH.ENABLE i && (s.convOfMach i).isNone else s.g AXIS.CFG ((i - 32) / 4) = 0
  | _ => false

/-- A 64-bit node is a position (R16); the counts of R144 are none (R219). -/
def positionNode (addr : Nat) (t : Ty) : Bool :=
  t = .i64 && !(match lookup addr with | some (m, _, _) => m.among [FB.POSINIT, FB.IDXLAT, FB.IDXERR] | none => false)

/-- The word of the channel of a node of type `t` (R219). -/
def nodeWord (addr : Nat) (t : Ty) (v : Int) : Nat :=
  ((if positionNode addr t then v / 65536 else v) % (2 ^ 32 : Nat)).toNat

/-- The output stage whose commits give the node its value, where it has one (R46): MODIDX and T_m of a machine, TDEM
of an axis, the reference and the level of an arm. -/
def commitOf (s : State) (addr : Nat) : Option Nat :=
  let i := addr / 4096 % 4096
  let k := addr % 4096
  match addr / 16777216 with
  | 5 => if k = AXIS.TDEM.num then some (72 + 6 * i) else none
  | 6 => if k = MACH.MODIDX.num then some i else if k = 0xF05 then some (72 + 6 * s.n MACH.AXIS i) else none
  | 10 => if k = 0xF00 || k = 0xF03 || k = ARM.LEVEL.num then some (40 + i) else none
  | _ => none

/-- The axis, and the tasks whose outputs a node shows. -/
def nodeOuts (s : State) (addr : Nat) : List Nat :=
  let i := addr / 4096 % 4096
  match addr / 16777216 with
  | 5 => [72 + 6 * i]
  | 6 => [i]
  | 9 => [s.n CONV.MACH i]
  | 10 => [40 + i]
  | 16 => if i < 32 then [i] else [72 + 6 * ((i - 32) / 4)]
  | _ => []

/-- A stop has taken the power from axis `x` (R34, R463): POWEROFF or DONE. -/
def axisCut (s : State) (x : Nat) : Bool := x < 16 && (s.stopState x = 3 || s.stopState x = 5)

/-- An output of a machine, or of a converter, is blocked by a stop or a trip that acts (R34): STO, a stop of its axis or
of its stage, a trip that holds its stage or has latched in it, or a blocked converter. -/
def machBlocked (s : State) (m : Nat) : Bool :=
  s.sto.act || s.axisCut (s.n MACH.AXIS m) ||
    (match s.stageOfMach m with
      | some i => s.stState i = 4 || s.tripHolds i || (legsOf i).any fun l => bit (s.leg l).flt 11
      | none => false) ||
    (match s.convOfMach m with | some c => s.cvState c = 5 || s.cvState c = 7 || s.cvState c = 8 | none => false)
def nodeBlocked (s : State) (addr : Nat) : Bool :=
  let i := addr / 4096 % 4096
  let axis := fun x => s.axisCut x || (!(s.machsOf x).isEmpty && (s.machsOf x).all s.machBlocked)
  match addr / 16777216 with
  | 5 => axis i
  | 6 => s.machBlocked i
  | 9 => s.machBlocked (s.n CONV.MACH i)
  | 10 => match s.convOfArm i with | some c => s.machBlocked (s.n CONV.MACH c) | none => false
  | 16 => if i < 32 then s.machBlocked i else axis ((i - 32) / 4)
  | _ => false

/-! ### Buffer and tiles (R222, R227, R228) -/

/-- Records per tile, and DEPTH. -/
def perTile (nch : Nat) : Nat := 256 / (4 * (nch + 1))
def depthOf (nch : Nat) : Nat := 384 * perTile nch

def TrRec.bytes (r : TrRec) : List Byte := le 4 r.head ++ (r.ch.map (le 4)).flatten

/-- A block: descriptor and tile (R227). -/
def traceBlock (u : Nat) (last tagBad stream : Bool) (tile capno : Nat) (recs : List TrRec) : List Byte :=
  le 1 u ++ le 1 (b2n last + 2 * b2n tagBad + 4 * b2n stream) ++ le 2 tile ++ le 4 capno ++
    le 8 ((recs.head?.map (·.wb)).getD 0) ++ padTo 256 ((recs.map TrRec.bytes).flatten)

/-- A packet of the trace port between its K27.7 and K29.7: the block with its CRC-32C (R228). -/
def tracePacket (block : List Byte) : List Byte := block ++ le 4 (crc32c block)

/-- The symbols of a packet, control characters marked, and those of a data lane (R228). -/
def traceSymbols (packet : List Byte) : List (Bool × Byte) := [(true, 0xFB)] ++ packet.map ((false, ·)) ++ [(true, 0xFD)]
def traceLane (lane : Nat) (packet : List Byte) : List (Bool × Byte) :=
  ((traceSymbols packet).zipIdx.filter fun e => e.2 % 2 = lane).map (·.1)

/-- One block goes to DEST; false where ring 9 has no room, or the trace port does not drive (R229). -/
def sendBlock (s : State) (u : Nat) (bytes : List Byte) : State × Bool :=
  if s.g TRACE.DEST u = 1 then
    if s.g TRPORT.PORTEN = 0 then (s, false) else ({ s with trport := tracePacket bytes }.incWrap TRPORT.PORTBLK, true)
  else if s.hasRoom 9 then (s.produce 9 bytes, true) else (s, false)

/-- The unit re-arms: an empty buffer in PRE, or streaming. -/
def traceRearm (s : State) (u : Nat) : State :=
  (s.setTrace u {}).put TRACE.STATE u (if s.g TRACE.MODE u = 3 then 6 else 2)

/-- The unit enters DONE (R224, R226). -/
def traceDone (s : State) (u : Nat) : State :=
  let x := s.traceX u
  let w := match x.buf.find? fun r => bit r.head 27 with | some r => r.wb | none => 0
  let s := (((s.put TRACE.STATE u 4).raise (56 + u)).incWrap TRACE.CAPNO u).put TRACE.TRIGWB u w
  if s.g TRACE.MODE u = 2 && s.b TRACE.OVERWRITE u then ((s.inc TRACE.LOSTCAP u).raise 62).traceRearm u else s

/-! ### Triggers (R223, R224) -/

/-- `x` to the nearest integer, ties to even. -/
def nearEven (x : F32) : Int :=
  let n := x.nearest
  if n % 2 != 0 && F32.eqv ((F32.ofInt n).sub x) F32.half then n - 1 else n

/-- `v` of type `t` is above `k`. -/
def aboveK (t : Ty) (v : Int) (k : F32) : Bool := if t = .f32 then k.lt (F32.ofBits v) else decide (nearEven k < v)
def belowK (t : Ty) (v : Int) (k : F32) : Bool := if t = .f32 then (F32.ofBits v).lt k else decide (v < nearEven k)

/-- The trigger of TRIGSRC 1 and 2 on the value `v` of the trigger channel, `p` that of the record before. -/
def levelTrigger (s : State) (u : Nat) (t : Ty) (p : Option Int) (v : Int) : Bool :=
  let l := s.f TRACE.TRIGLVL u
  let out := fun v => belowK t v (s.f TRACE.TRIGLO u) || aboveK t v (s.f TRACE.TRIGHI u)
  match s.n TRACE.TRIGSRC u, p with
  | 1, some q =>
    let e := s.n TRACE.TRIGEDGE u
    (e % 2 = 1 && !aboveK t q l && aboveK t v l) || (2 ≤ e && !belowK t q l && belowK t v l)
  | 2, some q => !out q && out v
  | 2, none => out v
  | _, _ => false

/-- The newest complete record meets the trigger of TRIGSRC 1 or 2 (R223, R225). -/
def traceFire (s : State) (u : Nat) : State :=
  let x := s.traceX u
  match x.buf with
  | [] => s
  | r :: t =>
    let r := { r with head := setBits r.head 27 1 1 }
    match s.trState u with
    | 2 =>
      let pre := min (s.n TRACE.PRE u) t.length
      let s := s.setTrace u { x with buf := r :: t.take pre, post := s.n TRACE.DEPTH u - pre - 1 }
      (s.put TRACE.PREGOT u (pre : Nat)).put TRACE.STATE u 3
    | 6 => (s.setTrace u { x with buf := r :: t }).raise (56 + u)
    | _ => s

/-! ### Records (R220, R221, R225) -/

/-- The nodes of telemetry stream `k` (R600). -/
def streamNodes (s : State) (k : Nat) : List Nat :=
  (List.range (s.n LEDGER.TNCH 0 k)).map fun j => s.n LEDGER.TNODE 0 (60 * k + j)

/-- The channels of a unit, and the value of one. -/
def channels (s : State) (u : Nat) : List Nat := (List.range (s.n TRACE.NCH u)).map (s.n TRACE.NODE u ·)
def channelValue (s : State) (a : Nat) : Option Int := if s.nodeGone a then none else (s.node a).map (·.2)

/-- The sample instant of a record, two to a wingbeat. -/
def seqOf (c : TrCur) : Nat := 2 * c.wb + b2n c.half

/-- A result of output `k` sampled at `q` belongs to record `c`: that of its instant, and that of the half mark after it
where it has no half evaluation (R220). -/
def recordTakes (s : State) (c : TrCur) (k q : Nat) : Bool :=
  seqOf c = q || (c.half && 2 * c.wb = q && !(k < 32 && s.b MACH.DUPD k))

/-- Record `c` of nodes `chs` takes what output `k` has given for instant `q`: the values of the nodes that `p` names,
and its header bits. -/
def recordTake (s : State) (k q : Nat) (p : Nat → Bool) (subst blk : Bool) (chs : List Nat) (c : TrCur) : TrCur :=
  if !s.recordTakes c k q then c
  else
    let mine := chs.any fun a => (s.nodeOuts a).contains k
    { c with vals := (chs.zip c.vals).map fun (a, v) => if p a then s.channelValue a else v,
             subst := c.subst || (subst && mine), blk := c.blk || (blk && mine) }

/-- The open records and telemetry blocks take it. -/
def traceTake (s : State) (k q : Nat) (p : Nat → Bool) (subst blk : Bool) : State :=
  let s := (s.tracex.filter fun e => !e.2.opn.isEmpty).foldl (fun s e =>
    s.setTrace e.1 { s.traceX e.1 with opn := (s.traceX e.1).opn.map (s.recordTake k q p subst blk (s.channels e.1)) }) s
  { s with telem := { s.telem with cur := s.telem.cur.map fun e => (e.1, s.recordTake k q p false false (s.streamNodes e.1) e.2) } }

/-- Output `k` has committed or substituted a value for instant `q`; it was blocked; or an evaluation that waited for its
channel has run. -/
def traceCommit (s : State) (k q : Nat) (subst : Bool) : State := s.traceTake k q (fun a => s.commitOf a == some k) subst false
def traceBlocked (s : State) (k q : Nat) : State := s.traceTake k q (fun _ => false) false true
def traceEvaluated (s : State) (k : Nat) : State :=
  s.traceTake k (2 * s.wb) (fun a => (s.nodeOuts a).contains k && (s.commitOf a).isNone) false false

/-- Record `c` of unit `u` is complete and enters the buffer. -/
def traceFill (s : State) (u : Nat) (c : TrCur) : State :=
  let x := s.traceX u
  let chs := s.channels u
  let vals := (chs.zip c.vals).map fun (a, v) =>
    if s.nodeGone a then none else match v, s.node a with | some v, some n => some (a, n.1, v) | _, _ => none
  let words := vals.map fun v => match v with | some (a, t, v) => nodeWord a t v | none => 0xFFFFFFFF
  let head := c.wb % 16777216 + 2 ^ 24 * b2n c.half + 2 ^ 25 * b2n c.subst + 2 ^ 26 * b2n c.blk + 2 ^ 27 * b2n c.trig +
    2 ^ 28 * b2n (vals.any Option.isNone)
  let r : TrRec := { wb := c.wb, head := head, ch := words }
  let st := s.trState u
  let tv := (vals.drop (s.n TRACE.TRIGCH u)).headD none
  let hit := match tv with | some (_, t, v) => s.levelTrigger u t x.prev v | none => false
  let x : TraceX := { x with prev := tv.map fun w => w.2.2 }
  if st = 4 then (if hit then (s.setTrace u x).inc TRACE.MISSTRIG u else s.setTrace u x)
  else
    let buf := (r :: x.buf).take (s.n TRACE.DEPTH u)
    if st = 3 then
      -- records before the trigger record, and itself, are none of the further records
      let before := c.trig || x.trig || x.opn.any TrCur.trig
      let s := s.setTrace u { x with buf := buf, post := if before then x.post else x.post - 1 }
      if hit then s.inc TRACE.MISSTRIG u else s
    else
      let s := s.setTrace u { x with buf := buf }
      if hit then s.traceFire u else s

/-- A unit in POST that has its last record enters DONE. -/
def traceFull (s : State) (u : Nat) : State :=
  let x := s.traceX u
  if s.trState u = 3 && x.post = 0 && !x.trig && !x.opn.any TrCur.trig then s.traceDone u else s

/-- A full tile of a stream is sent, or dropped (R225, R226). DESIGN CHOICE (log entry 44): a trace port that does not
drive drops it as a full ring does. -/
def traceStream (s : State) (u : Nat) (tagBad : Bool) : State :=
  let x := s.traceX u
  let k := perTile (s.n TRACE.NCH u)
  if s.trState u != 6 || x.buf.length < k then s
  else
    let (s, ok) := s.sendBlock u (traceBlock u false tagBad true (x.tidx % 65536) (s.n TRACE.CAPNO u) x.buf.reverse)
    let s := s.setTrace u { x with buf := [], tidx := x.tidx + 1 }
    if ok then s else (s.inc TRACE.LOSTREC u 0 k).raise 62

/-- Unit `u` takes part in the instant. -/
def traceTakes (s : State) (u : Nat) (half : Bool) : Bool :=
  [2, 3, 4, 6].contains (s.trState u) && !(half && s.g TRACE.SBASE u = 0)

/-- The sample instant `q` comes, before its latches: the records whose deadline it is are complete (R49, R220). -/
def traceClose (s : State) (q : Nat) (tagBad : Nat) : State :=
  (List.range 4).foldl (fun s u =>
    if !([2, 3, 4, 6].contains (s.trState u)) then s
    else
      let s := s.traceFull u
      let s := ((s.traceX u).opn.filter fun c => seqOf c + 2 ≤ q).foldl (fun s c =>
        ((s.setTrace u { s.traceX u with opn := (s.traceX u).opn.drop 1 }).traceFill u c).traceFull u |>.traceStream u (bit tagBad u)) s
      s) s.traceNote

/-- The instant, after its latches: a kept instant opens its record. -/
def traceOpen (s : State) (half : Bool) : State :=
  (List.range 4).foldl (fun s u =>
    let x := s.traceX u
    if !s.traceTakes u half then s
    else if 0 < x.skip then s.setTrace u { x with skip := x.skip - 1 }
    else
      let chs := s.channels u
      let c : TrCur := { wb := s.wb, half := half, vals := chs.map s.channelValue, trig := x.trig, blk := chs.any s.nodeBlocked }
      s.setTrace u { x with skip := s.decEff u - 1, opn := x.opn ++ [c], trig := false }) s.traceNote

/-! ### Writes (R218, R224, R226, R227) -/

/-- A configuration write is accepted in this state (R235); a unit that is OFF takes MODE alone. -/
def traceFree (s : State) (u : Nat) (mode : Bool) : Bool :=
  let st := s.traceNote.trState u
  st = 1 || st = 4 || (mode && st = 0)

/-- TRACE_ARM (R224). -/
def traceArm (s : State) (u : Nat) : Status × State :=
  let t := s.traceNote
  if t.trState u != 1 && t.trState u != 4 then (.busy, s) else (.ok, t.traceRearm u)

/-- TRIGNOW (R223, R226). -/
def trignow (s : State) (u : Nat) : Status × State :=
  let t := s.traceNote
  if t.trState u != 2 then (.busy, s) else (.ok, if s.g TRACE.TRIGSRC u = 4 then t.traceEvent u else s)

/-- TRACE_READ (R227, R229). -/
def traceRead (s : State) (u : Nat) : Status × State :=
  let t := s.traceNote
  if t.trState u != 4 then (.busy, s)
  else if s.g TRACE.DEST u = 1 && s.g TRPORT.PORTEN = 0 then (.deniedWorld, s)
  else (.ok, (t.put TRACE.STATE u 5).setTrace u { t.traceX u with tidx := 0, opn := [] })

/-- TRACE_READOUT_BLOCK (R227): the next tile of the capture goes out. The capture stays in DONE while the port that it is
to go to does not drive (R229). -/
def readoutBlock (s : State) (u : Nat) (tagBad : Bool) : State :=
  if s.trState u != 5 then s
  else if s.g TRACE.DEST u = 1 && s.g TRPORT.PORTEN = 0 then s.put TRACE.STATE u 4
  else
    let x := s.traceX u
    -- the capture keeps the layout in which it was recorded
    let k := perTile ((x.buf.head?.map fun r => r.ch.length).getD (s.n TRACE.NCH u))
    let l := x.buf.reverse
    let last := l.length ≤ (x.tidx + 1) * k
    let (s, ok) := s.sendBlock u (traceBlock u last tagBad false x.tidx (s.n TRACE.CAPNO u) ((l.drop (x.tidx * k)).take k))
    if !ok then s
    else if !last then s.setTrace u { x with tidx := x.tidx + 1 }
    else if s.g TRACE.MODE u = 2 then s.traceRearm u else s.put TRACE.STATE u 4

/-- MODE (R235): the unit is OFF in mode 0. -/
def traceMode (s : State) (u v : Nat) : State :=
  let s := s.put TRACE.MODE u v
  if v = 0 then s.put TRACE.STATE u 0 else if s.trState u = 0 then s.put TRACE.STATE u 1 else s

/-- NCH (R222, R235): DEPTH follows it. -/
def traceNch (s : State) (u v : Nat) : State := (s.put TRACE.NCH u v).put TRACE.DEPTH u (depthOf v : Nat)

end State
end Sys2Proof.Machine
end

