-- ==== Sys2Proof/Machine/Outputs.lean ====
section
/-! DEFINITION. Evaluations at the marks and the output stages (R25, R26, R44–R55, R188, R206, R207): what a
task forms stands as a result until it is handed over and commits, or is substituted at its deadline. The
output of a machine has the key of its current loop (0–31), that of an arm the key 40 + a, and that of the
outer tasks of an axis the key 72 + 6 x. -/
namespace Sys2Proof.Machine
namespace State

def outSt (s : State) (k : Nat) : OutStage := s.ex.outs.find {} k
def setOut (s : State) (k : Nat) (o : OutStage) : State := { s with ex := { s.ex with outs := s.ex.outs.put {} k o } }

/-- The output that a task's result goes to: the Pool and Give task carries the output of an axis. -/
def outKey (s : State) (t : Nat) : Option Nat :=
  if t < 32 then some t
  else if t < 40 then (if s.g CONV.CFG (t - 32) = 0 then none else some (s.n CONV.MACH (t - 32)))
  else if t < 72 then some t
  else if t < 168 && (t - 72) % 6 = 5 then some (t - 5) else none

/-- The axis of an output (R53), and its class and instance. -/
def outAxis (s : State) (k : Nat) : Nat :=
  if k < 32 then s.n MACH.AXIS k
  else if k < 72 then (match s.convOfArm (k - 40) with | some c => s.axisOfConv c | none => 255)
  else (k - 72) / 6
def outOwner (k : Nat) : Nat × Nat := if k < 32 then (6, k) else if k < 72 then (10, k - 40) else (5, (k - 72) / 6)

/-- The members of R52 of an output's owner. -/
structure LateMems where
  extrap : Mem
  cnt  : Mem
  run  : Mem
  warn : Mem
  mx   : Mem
  blk  : Mem
def lateMems (k : Nat) : LateMems :=
  if k < 32 then ⟨MACH.EXTRAP, MACH.LATECNT, MACH.LATERUN, MACH.LATEWARN, MACH.LATEMAX, MACH.LATEBLK⟩
  else if k < 72 then ⟨ARM.EXTRAP, ARM.LATECNT, ARM.LATERUN, ARM.LATEWARN, ARM.LATEMAX, ARM.LATEBLK⟩
  else ⟨AXIS.EXTRAP, AXIS.LATECNT, AXIS.LATERUN, AXIS.LATEWARN, AXIS.LATEMAX, AXIS.LATEBLK⟩

/-- A fault of the output stages (R65). -/
def lateFault (s : State) (code k : Nat) : State :=
  let x := s.outAxis k
  s.alarm code (outOwner k).2 (if x < 16 then [35, 16 + x] else [35]) 0 (outOwner k).1

/-- The output is blocked (R34): by a stop or a trip, or because the stage of its machine has left RUN. -/
def outBlocked (s : State) (k : Nat) : Bool :=
  s.nodeBlocked ((outOwner k).1 * 16777216 + (outOwner k).2 * 4096) ||
    (k < 32 && (match s.stageOfMach k with | some i => s.stState i = 0 || 4 ≤ s.stState i | none => false))

/-! ### Forming results -/

/-- The result of the evaluation that led from `z` to `s` stands for its handover. -/
def addDue (z s : State) (k : Nat) (d : Due) : State :=
  let o := s.outSt k
  s.setOut k { o with due := o.due.filter (fun e => !(e.seq = d.seq && e.out.isEmpty)) ++ [{ d with undo := undoOf z s }], subst := false }

/-- Local current loops run a cycle in this wingbeat (R26). -/
def cycleNow (s : State) : Bool := 20000 ≤ s.twNs || s.wb % 2 = 0

/-- Machine `m` runs its current loop: enabled, and its stage or converter carries it. -/
def machRuns (s : State) (m : Nat) : Bool := s.b MACH.ENABLE m && (s.pathOf m = 1 || s.pathOf m = 2)

/-- Δt of a current-loop evaluation in ns (R26, R188). -/
def curNs (s : State) (m : Nat) (half : Bool) : Nat :=
  let t := s.twNs
  if s.pathOf m = 2 then t
  else if s.b MACH.DUPD m then (if half || 20000 ≤ t then t / 2 else 3 * t / 2)
  else if 20000 ≤ t then t else 2 * t

/-- f_e of a machine, in Hz. -/
def feOf (we : F32) : F32 := we.div F32.twoPi

/-- The full evaluation of machine `m` at the mark (R177, R178, R317, R331). -/
def evalFull (s : State) (m : Nat) : State :=
  let z := s
  let (th, nm) := s.machAngle m
  let we := s.omegaE m nm
  let x := s.machX m
  let ind := s.b MACH.KIND m
  let th := if s.dcMach m then 0 else advance ((th + (if ind then x.slip else 0)) % 2 ^ 32) we (s.n MACH.ANGLEAD m)
  let ceil := match s.convOfMach m with | some c => s.f CONV.CEIL c | none => F32.one
  let s := s.ceilSet m ceil
  let c := s.coefOf m
  let s := s.setMachX m { x with nm := nm, theta := th, we := we, coef := c }
  let i := (s.stageOfMach m).getD 0
  let local' := s.pathOf m = 1
  let lad := local' && s.rungTarget i (feOf we) != 0
  let subst := (s.outSt m).subst
  let (s, d) := s.currentEval m c th we (F32.ofFrac (s.curNs m false) 1000000000) true subst lad s.tb.cycles
  let s := if local' then s.ladder i (feOf we) d.amp d.clampd else s
  addDue z s m { seq := 2 * s.wb, half := false, out := [d.amp], ang := d.ang, fe := feOf we }

/-- The half evaluation of machine `m` (R26, R177, R199). -/
def evalHalf (s : State) (m : Nat) : State :=
  let z := s
  let x := s.machX m
  let ns := s.curNs m true
  let th := advance x.theta x.we ns
  let subst := (s.outSt m).subst
  let i := (s.stageOfMach m).getD 0
  let lad := s.rungTarget i (feOf x.we) != 0
  let (s, d) := s.currentEval m x.coef th x.we (F32.ofFrac ns 1000000000) false subst lad (s.tb.cycles + s.twCyc / 2)
  let s := s.ladder i (feOf x.we) d.amp d.clampd
  addDue z s m { seq := 2 * s.wb + 1, half := true, out := [d.amp], ang := d.ang, fe := feOf x.we }

/-- The fault policy of R208 after an evaluation: the current error has lasted IERRN evaluations. -/
def errCheck (s : State) (m : Nat) : State :=
  let x := s.machX m
  if !x.coef.ierrmax.zero? && 0 < x.coef.ierrn && x.coef.ierrn ≤ x.ierr && !x.policy then
    ((s.loopFault 0x4101 m (s.n MACH.AXIS m) 6).machFault m 1).axisAllFaulted (s.n MACH.AXIS m)
  else s

/-- The feedback channels that evaluation `k` (machine m, or axis x as 72 + 6 x) reads. -/
def evReads (s : State) (k : Nat) : List Nat :=
  let ang := fun (m : Nat) => if s.g MACH.ANGSRC m = 0 then [s.n MACH.FBANG m] else []
  if k < 32 then ang k
  else
    let x := (k - 72) / 6
    [s.n AXIS.FBPOS x, s.n AXIS.FBSPD x, s.n PROF.GSRC x] ++ (if s.g AXIS.SPSRC x = 3 then [s.n AXIS.SPIDX x] else []) ++
      (s.machsOf x).flatMap ang

/-- It waits: a channel that it reads has not yet the position of this mark (R112). -/
def evAwaits (s : State) (k : Nat) : Bool := (s.evReads k).any fun c => c < 16 && (s.fbX c).todo != 0

/-- Evaluation `k` waits for its channels: no result of it stands yet. -/
def evHold (s : State) (k : Nat) : State :=
  addDue s { s with evWait := s.evWait ++ [k] } k { seq := 2 * s.wb, half := false, out := [] }

/-- The current loop of machine `m` at the mark. -/
def machEval (s : State) (m : Nat) : State :=
  if !s.machRuns m || s.machStranded m then s
  else if s.evAwaits m then s.evHold m
  else (s.evalFull m).errCheck m

/-- The current loops of the mark in the order of R77: those of local stages by machine, then the converters' common
parts by converter. -/
def fullEvals (s : State) : State :=
  let s := (List.range 32).foldl (fun s m => if s.pathOf m = 1 && s.cycleNow then s.machEval m else s) s
  s.convs.foldl (fun s c => let m := s.n CONV.MACH c; if m < 32 && s.pathOf m = 2 then s.machEval m else s) s

/-- The current loops of the half mark. -/
def halfEvals (s : State) : State :=
  (List.range 32).foldl (fun s m =>
    if s.machRuns m && !s.machStranded m && s.pathOf m = 1 && s.b MACH.DUPD m && s.cycleNow then (s.evalHalf m).errCheck m else s) s

/-- The arm tasks of the mark (R420). -/
def armEvals (s : State) : State :=
  s.convs.foldl (fun s c =>
    let st := s.cvState c
    if !(2 ≤ st && (st ≤ 4 || st = 8)) || s.ownerStranded 9 c then s
    else (s.convArms c).foldl (fun s a =>
      let z := s
      let (s, u, i) := s.armEval c a (s.outSt (40 + a)).subst
      addDue z s (40 + a) { seq := 2 * s.wb, half := false, out := [u, i] }) s) s

/-- The axis is decimated by D (R672–R674). -/
def decimation (s : State) (x : Nat) : Nat :=
  let step := s.n THERM.STEP
  let gv := s.n GIVE.STATE x
  if s.stopState x != 0 || gv = 2 || gv = 3 || step < 2 then 1
  else
    let d := max 1 (s.n AXIS.THRDEC x)
    if 3 ≤ step && s.g AXIS.CRIT x = 0 then max d (s.n THERM.THR3DEC) else d

/-- The outer tasks of axis `x` at a mark that they do not skip. -/
def axisEval (s : State) (x : Nat) : State :=
  let k := 72 + 6 * x
  if !s.b AXIS.ENABLE x || s.g AXIS.CFG x = 0 || s.ownerStranded 5 x then s
  else if s.evAwaits k then s.evHold k
  else
    let (t, out) := s.outerEval x (s.outSt k).subst
    addDue s t k { seq := 2 * t.wb, half := false, out := out }

/-- The outer tasks of the mark (R175, R674). -/
def outerEvals (s : State) : State :=
  (List.range 16).foldl (fun s x =>
    if !s.b AXIS.ENABLE x then s
    else
      let d := s.decimation x
      let s := s.setAxisX x { s.axisX x with d := d }
      if (s.wb + x) % d != 0 then s else s.axisEval x) s

/-- An evaluation that has waited runs: an axis measures with the position that it waited for (R112). -/
def evaluate (s : State) (k : Nat) : State :=
  (if k < 32 then s.machEval k else (s.axisMeasure ((k - 72) / 6)).axisEval ((k - 72) / 6)).traceEvaluated k

/-! ### Commit and substitution -/

/-- One more output of the present block of 1,024 (R52). -/
def outCount (s : State) (k : Nat) : State :=
  let o := s.outSt k
  if o.blk < 1024 then s.setOut k { o with blk := o.blk + 1 }
  else (s.setOut k { o with blk := 1, warned := false }).put (lateMems k).blk (outOwner k).2 0

/-- The instant of a sample in vernier units (R315). -/
def sampleAt (s : State) (d : Due) : Nat :=
  (s.tb.cycles - (s.wb - d.seq / 2) * s.twCyc + (if d.half then s.twCyc / 2 else 0)) * 8

/-- An output stage hands a value on: MOD, the converter's common task, SORT, or the machines of the axis. -/
def outPass (s : State) (k : Nat) (d : Due) (fresh : Bool) : State :=
  if k < 32 then
    let s := (s.setMachX k { s.machX k with amp := d.out.headD F32.zero, ang := d.ang }).putF MACH.MODIDX k (d.out.headD F32.zero).abs
    if s.pathOf k = 1 then s.modCommit k d.fe (s.sampleAt d) s.vnow else s
  else if k < 72 then
    match s.convOfArm (k - 40) with
    | some c => s.armCommit c (k - 40) (if fresh then d.out else d.out.take 1)
    | none => s
  else s.commitAxis ((k - 72) / 6) d.out

/-- A commit, with the records that wait for it (R220). -/
def outCommit (s : State) (k : Nat) (d : Due) (fresh : Bool) : State := (s.outPass k d fresh).traceCommit k d.seq (!fresh)

/-- The previous output, or the zero of R54. -/
def prevOut (s : State) (k : Nat) : List F32 :=
  let o := s.outSt k
  if !o.prev.isEmpty then o.prev
  else if k < 32 then [F32.zero]
  else if k < 72 then (match s.convOfArm (k - 40) with | some c => [s.armZero c] | none => [F32.zero])
  else List.replicate (1 + (s.machsOf ((k - 72) / 6)).length) F32.zero

/-- A value becomes the newest at its output. -/
def outSet (s : State) (k : Nat) (d : Due) (subst : Bool) : State :=
  let o := s.outSt k
  let was := s.prevOut k
  s.setOut k { o with prev := d.out, inc := (d.out.zip was).map fun (a, b) => a.sub b, ang := d.ang,
                      angInc := (d.ang : Int) - o.ang, seq := d.seq, subst := subst }

/-- The results of an output without the one with sample instant `q`. -/
def dropDue (s : State) (k q : Nat) : State :=
  let o := s.outSt k
  s.setOut k { o with due := o.due.filter (·.seq != q) }

/-- A result is rejected: it counts as never handed over, and its task runs on from its home state (R72, R90). -/
def rejectDue (s : State) (k q : Nat) : State := s.loseDue k (fun e => e.seq == q)

/-- A result that is no finite number counts as never handed over (R55); the state that its evaluation wrote home
stays. -/
def dropOut (s : State) (k q : Nat) : State :=
  let st := s.outSt k
  s.setOut k { st with due := st.due.map fun e => if e.seq = q then { e with out := [] } else e }

/-- A local-store tile of engine `e` fails its tag: reloaded from home; the third within 1 s faults the
engine. -/
def localTileBad (s : State) (e : Nat) : State :=
  if !s.admitted e then s
  else
    let now := s.tb.cycles
    let l := ((s.eng e).tagFails.filter fun c => now < c + 400000000) ++ [now]
    let s := s.setEng e { s.eng e with tagFails := l }
    if 3 ≤ l.length then s.engineFault e 4 else s

/-- The owner of a task that no engine can take, or whose state is lost, takes the fault reaction of its class (R98,
R743); `code` stands as its fault. -/
def taskFails (s : State) (t code : Nat) : State :=
  let s := s.setTaskSt t 6
  if t < 32 then ((s.machFault t 0).noteFault 6 t code).axisAllFaulted (s.n MACH.AXIS t)
  else if t < 40 then (s.convFault (t - 32) true).noteFault 9 (t - 32) code
  else if t < 72 then (match s.convOfArm (t - 40) with | some c => (s.convFault c true).noteFault 10 (t - 40) code | none => s)
  else (s.axisStopReq ((t - 72) / 6) 0 0x85).noteFault 5 ((t - 72) / 6) code

/-- A tile of bank `b` is rewritten from its mirror (R97); `t` is its task, 0xFF for code. Repairs of a bank beyond
BANKMAX in an hour degrade it (R586). -/
def tileRepaired (s : State) (b t : Nat) : State :=
  let s := s.notice 0x10 t 0xF 0xF
  let l := ((s.ex.repairs.find [] b).filter fun k => s.flightS < k + 3600) ++ [s.flightS]
  let s := { s with ex := { s.ex with repairs := s.ex.repairs.put [] b l } }
  if s.n AUDIT.BANKMAX < l.length && !bit (s.n AUDIT.BANKAVOID) b then
    (s.put AUDIT.BANKAVOID 0 (s.n AUDIT.BANKAVOID ||| 2 ^ b : Nat)).alarm 0x7102 b [38] 0 0x1C
  else s

/-- A state tile of task `t` has no good copy anywhere (R97). -/
def tileLost (s : State) (t : Nat) : State :=
  let s := (s.alarm 0x7201 t [38] 0 0x1B).notice 0x11 t 0xF 0xF 0x7201
  let s := { s with ex := { s.ex with fromLocal := s.ex.fromLocal.filter (· != t) } }
  (s.setTask t { s.task t with lost := true }).taskFails t 0x7201

/-- A home state tile of task `t` in bank `b` fails its tag (R97): rewritten from its mirror at once, from a good copy
in a local store after the next evaluation, or lost. -/
def placedTileBad (s : State) (b t : Nat) (mirrorOk localOk : Bool) : State :=
  let x := s.task t
  if x.st = 0 then s
  else if mirrorOk && x.mirr then s.tileRepaired b t
  else if localOk && x.engA != 15 then
    (if s.ex.fromLocal.contains t then s else { s with ex := { s.ex with fromLocal := s.ex.fromLocal ++ [t] } })
  else s.tileLost t

/-- A home code tile of a task kind in bank `b` fails its tag (R97): rewritten from its mirror, or else Aethino writes
it from the running firmware image, for which placements of the kind wait. -/
def codeTileBad (s : State) (b kind : Nat) (mirrorOk : Bool) : State :=
  if mirrorOk then s.tileRepaired b 0xFF
  else if s.ex.codeBad.contains kind then s
  else { s with ex := { s.ex with codeBad := s.ex.codeBad ++ [kind] } }

/-- The code tiles of a kind have been rewritten from the firmware image (R97). -/
def codeRewritten (s : State) (kind : Nat) : State :=
  if s.ex.codeBad.contains kind then
    { s with ex := { s.ex with codeBad := s.ex.codeBad.filter (· != kind) } }.notice 0x10 0xFF 0xF 0xF
  else s

/-- The tiles that fail their tag at an evaluation of task `t` (R96, R97). -/
def tileFinds (s : State) (t : Nat) (l : List TileFind) : State :=
  l.foldl (fun s f => match f with
    | .localTile e => s.localTileBad e.val
    | .homeTile b m c => s.placedTileBad b.val t m c
    | .codeTile b m => s.codeTileBad b.val (taskKind t) m) s

/-- A local-store tile fails on every engine that runs a copy of the task: no copy forms a result (R97). -/
def tilesFail (s : State) (t : Nat) (l : List TileFind) : Bool :=
  let x := s.task t
  let bad := fun (e : Nat) => l.any fun f => match f with | .localTile q => q.val == e | _ => false
  x.engA < 8 && bad x.engA && (x.engB = 15 || bad x.engB)

/-- The comparison of the two copies of task `t`, where they disagree (R88–R90): the answer tells whether its result is
handed over. -/
def compareCopies (s : State) (t : Nat) (copies : Option (Bool × Bool)) : State × Bool :=
  match copies with | some (pa, pb) => s.disagree t pa pb | none => (s, true)

/-- A home tile that only a local copy could restore is written from it after the evaluation (R97). -/
def rewriteHome (s : State) (t : Nat) : State :=
  if s.ex.fromLocal.contains t then { s with ex := { s.ex with fromLocal := s.ex.fromLocal.filter (· != t) } }.notice 0x10 t 0xF 0xF
  else s

/-- The deadline of a result has come (R49): one T_w after its sample instant. -/
def dueLate (s : State) (d : Due) : Bool :=
  let w := d.seq / 2
  if d.half then decide (w + 1 < s.wb) || (s.wb = w + 1 && s.tb.half) else decide (w < s.wb)

/-- RESULT_HANDOVER (R46, R47, R55): the result of task `t` sampled at the mark, or at the half mark, arrives
at its output stage at offset `o`. `copies` is none where the copies agree or only one runs; otherwise it
tells which copy passes (R89, R90); `tiles` are the tiles that failed their tag (R96). An outer task of an axis other
than Pool and Give hands its output to the next: where its copies yield none, nor does the axis. DESIGN CHOICE (log
entry 42): a result that is not finite is tested for before an output that is blocked, so that 0x4203 is written. -/
def resultHandover (s : State) (t : Nat) (half : Bool) (o : Nat) (copies : Option (Bool × Bool)) (tiles : List TileFind) : State :=
  let s := s.tileFinds t tiles
  match s.outKey t with
  | none =>
    match (s.outSt (s.taskOut t)).due.find? (·.half = half) with
    | none => s
    | some d =>
      if t < 72 || d.out.isEmpty || s.dueLate d then s
      else
        let (z, beyond) := s.compareCopies t copies
        if beyond && !s.tilesFail t tiles then z.rewriteHome t else z.rejectDue (s.taskOut t) d.seq
  | some k =>
    match (s.outSt k).due.find? (·.half = half) with
    | none => s
    | some d =>
      if d.out.isEmpty then s                              -- it has been rejected and awaits its deadline
      else if s.dueLate d then s                           -- it waits for its deadline's substitution
      else if s.tilesFail t tiles then s.rejectDue k d.seq
      else
      let (s, beyond) := s.compareCopies t copies
      if !beyond then s.rejectDue k d.seq
      else
      let s := s.rewriteHome t
      if !(d.out.all F32.finite?) then (s.dropOut k d.seq).lateFault 0x4203 k
      else if s.outBlocked k then (s.dropDue k d.seq).traceBlocked k d.seq
      else if d.seq < (s.outSt k).seq then s.dropDue k d.seq
      else
        let s := s.atOff o
        let s := (s.dropDue k d.seq).outCount k
        let s := ((s.outSet k d false).setOut k { (s.outSet k d false).outSt k with runBad := false }).put (lateMems k).run (outOwner k).2 0
        s.outCommit k d true

/-- The owner of an output enters its fault policy (R53, R209, R423). -/
def outPolicy (s : State) (k : Nat) : State :=
  let x := s.outAxis k
  if k < 32 then (s.machFault k 2).axisAllFaulted x
  else if k < 72 then (match s.convOfArm (k - 40) with | some c => s.convFault c false | none => s)
  else s.axisStopReq x 0 0x85

/-- The late counts and what they call for (R52, R53): DEADLINE_RUN once in a run that exceeds LATEMAX, from whichever
late result on it does. -/
def lateCount (s : State) (k : Nat) (run : Bool) : State :=
  let m := lateMems k
  let i := (outOwner k).2
  let s := (s.outCount k).inc m.cnt i
  let s := s.inc m.blk i
  let s := if s.n m.warn i != 0 && s.n m.warn i ≤ s.n m.blk i && !(s.outSt k).warned then
      (s.setOut k { s.outSt k with warned := true }).lateFault 0x4202 k else s
  if !run then s
  else
    let s := s.inc m.run i
    if s.n m.mx i < s.n m.run i && !(s.outSt k).runBad then
      ((s.setOut k { s.outSt k with runBad := true }).lateFault 0x4201 k).outPolicy k
    else s

/-- The limits of an output (R50): each value of the substitute within its own. -/
def outLimit (s : State) (k : Nat) (l : List F32) : List F32 :=
  if k < 32 then
    let c := (s.machX k).coef.ceil
    l.map fun v => if s.dcMach k then v.lim c else v.clamp F32.zero c
  else if k < 72 then l
  else
    let x := (k - 72) / 6
    (l.zip (none :: (s.machsOf x).map some)).map fun (v, m) => match m with
      | none => v.clamp (s.f AXIS.TMAXN x).neg (s.f AXIS.TMAXP x)
      | some m => v.lim (s.f MACH.TMAXM m)

/-- DEADLINE (R49, R50, R55): the deadline of the late result of task `t` passes. -/
def deadline (s : State) (t : Nat) (half : Bool) : State :=
  match s.outKey t with
  | none => s
  | some k =>
    match (s.outSt k).due.find? (·.half = half) with
    | none => s
    | some d =>
      let s := s.dropDue k d.seq
      if s.outBlocked k then s.traceBlocked k d.seq
      else if d.seq < (s.outSt k).seq then s.lateCount k false
      else
        let o := s.outSt k
        let m := lateMems k
        let prev := s.prevOut k
        let first := s.n m.run (outOwner k).2 = 0 && s.b m.extrap (outOwner k).2
        let out := if first then s.outLimit k ((prev.zip (o.inc ++ List.replicate prev.length F32.zero)).map fun (a, b) => a.add b)
          else prev
        let ang := if first then (((o.ang : Int) + o.angInc) % (2 ^ 32 : Nat)).toNat else o.ang
        let sub : Due := { d with out := out, ang := ang }
        let s := (s.outSet k sub true).outCommit k sub false
        s.lateCount k true

end State
end Sys2Proof.Machine
end

