-- ==== Sys2Proof/Machine/Services.lean ====
section
/-! DEFINITION. Audit, Assay, Reserve and Ledger (R585–R606), without what a lost tile does to its owner. -/
namespace Sys2Proof.Machine

/-- The 64 bytes of a Ledger record (R593), its CRC last. -/
def LRec.body (r : LRec) (recno : Nat) : List Byte :=
  le 8 recno ++ le 2 r.boot ++ le 2 r.code ++ le 2 r.inst ++ le 2 (min r.count 65535) ++ le 8 r.wb ++
    (if r.code = 0xF0F1 || r.code = 0xF0F2 then padTo 36 r.data   -- a SEAL record (R596)
     else le 4 r.detail ++ le 1 (b2n r.secure + 2 * b2n (decide (r.count > 1))) ++ zeros 3 ++ le 8 r.wblast
       ++ padTo 20 r.data)

def LRec.bytes (r : LRec) (recno : Nat) : List Byte := r.body recno ++ le 4 (crc32c (r.body recno))

/-- The record as an open-world reader sees it (R597). -/
def LRec.redact (r : LRec) : LRec := if r.secure then { r with detail := 0, data := [] } else r

namespace State

/-- The Ledger signing key exists (R617): DS programmed, not in RETURN or VOID. -/
def hasSealKey (s : State) : Bool := s.otp.ds != 0 && s.g LIFE.STATE != 4 && s.g LIFE.STATE != 5

/-- A write to MRAM block `k` of 4 KiB is counted (R591). A block that is worn goes to a spare one. -/
def mramCount (s : State) (k : Nat) : State :=
  let c := s.mram.writes.find 0 k + 1
  let s := if s.g RESERVE.WEARMAX < c then s.put RESERVE.WEARMAX 0 c else s
  if c < 90000000 || s.mram.spare = 0 then { s with mram := { s.mram with writes := s.mram.writes.put 0 k c } }
  else
    let s := { s with mram := { s.mram with writes := s.mram.writes.put 0 k 0, spare := s.mram.spare - 1 } }
    let s := s.put RESERVE.SPARE 0 s.mram.spare
    if s.mram.spare = 0 then s.alarm 0x7303 noInst [38] 0 0x1E else s

/-- A write to MRAM block `k` (R590, R591). After MRAM_WEAR a device record, in blocks 592 to 719, is written at most once
per 10 s, and the writes in between are coalesced into the last value, which the model holds at once. -/
def mramWrite (s : State) (k : Nat) : State :=
  if s.mram.spare != 0 || k < 592 || 720 ≤ k then s.mramCount k
  else if s.bk.secs.toNat < s.mram.wornAt.find 0 k + 9 && s.mram.wornAt.find 0 k != 0 then s
  else { s with mram := { s.mram with wornAt := s.mram.wornAt.put 0 k (s.bk.secs.toNat + 1) } }.mramCount k

/-- Event 62 at the first discard of a second (R601). -/
def lossEvent (s : State) : State :=
  if s.telem.told then s else { s.raise 62 with telem := { s.telem with told := true } }

/-- The Ledger copy of a record on ring 8 (R599, R601). -/
def mirror (s : State) (bytes : List Byte) : State :=
  if !s.b LEDGER.MIRROR then s
  else if s.hasRoom 8 then s.produce 8 ([1, 0] ++ le 2 1 ++ zeros 4 ++ le 8 s.wb ++ bytes)
  else s.lossEvent.inc LEDGER.MLOST

/-- A record is numbered and written to MRAM: the chain digest, the circular public part (R593–R596). -/
def ledgerPut (s : State) (r : LRec) : State :=
  let k := s.mram.next
  let bytes := r.bytes k
  let h := Config.sha256 (le 32 s.mram.chain.toNat ++ bytes)
  let r := { r with since := 0 }
  let s := { s with mram := { s.mram with
    ledger := s.mram.ledger.put (0, { code := 0, inst := 0, wb := 0, detail := 0, wblast := 0 }) k (k, r),
    next := k + 1, chain := h } }
  let s := if k + 1 - s.mram.first > 16384 then
      (({ s with mram := { s.mram with ledger := s.mram.ledger.del s.mram.first, first := s.mram.first + 1 } }).inc
        LEDGER.OVWR) else s
  let s := (s.put LEDGER.NEXT 0 s.mram.next).put LEDGER.FIRST 0 s.mram.first
  (s.mramWrite (768 + k % 16384 / 64)).mirror bytes

/-- LEDGER_WRITE (R595): the oldest staged record's window ends and it is written to MRAM. A LOSS
record follows when room has returned. -/
def ledgerWrite (s : State) : State :=
  match s.ledg.staged with
  | [] => s
  | r :: t =>
    let s := { s with ledg := { s.ledg with staged := t, unsealed := s.ledg.unsealed + 1 } }
    let s := s.ledgerPut r
    if s.ledg.lostNow = 0 || 960 ≤ s.ledg.staged.length then s else
      let lost := s.ledg.lostNow
      { s with ledg := { s.ledg with lostNow := 0 } }.ledger 0xF003 0xFFFF lost

/-- Writes every staged record (R663). -/
def ledgerFlush (s : State) : Nat → State
  | 0 => s
  | k + 1 => if s.ledg.staged.isEmpty then s else ledgerFlush s.ledgerWrite k

/-- SEAL (R596): after SEALN records, or after SEALT with a record unsealed, the two SEAL records. -/
def sealPair (s : State) : State :=
  if s.ledg.unsealed = 0 || !s.hasSealKey then s else
    let sig := Config.ecdsaSign s.otp.ds
      (Config.sha256 (le 8 Config.uid.toNat ++ le 8 s.mram.next ++ le 32 s.mram.chain.toNat))
    let bytes := (le 64 sig).reverse
    let rec' := fun (code : Nat) (data : List Byte) =>
      ({ boot := (s.bk.regs.find 0 29).toNat % 65536, code := code, inst := 0xFFFF, wb := s.wb, wblast := s.wb,
         detail := 0, data := data } : LRec)
    let s := s.ledgerPut (rec' 0xF0F1 (slice 0 36 bytes))
    let s := s.ledgerPut (rec' 0xF0F2 (slice 36 28 bytes))
    { s with ledg := { s.ledg with unsealed := 0 } }

/-- The records that LEDGER_READ returns (R597): up to 16 whole, from the first RECNO held at or after
the one asked for. -/
def ledgerRead (s : State) (recno n : Nat) (secure : Bool) : List Byte :=
  let held := s.mram.ledger.filter fun e => decide (recno ≤ e.1)
  (held.take (min n 16)).foldl (fun l e =>
    l ++ (if secure then e.2.2.bytes e.1 else e.2.2.redact.bytes e.1)) []

/-- The FLIGHT-time and boot counters go to MRAM (R592). -/
def commitCounters (s : State) : State :=
  { s with mram := { s.mram with flight := (s.bk.regs.find 0 28).toNat, boots := (s.bk.regs.find 0 29).toNat } }.mramWrite 704

/-- COUNTER_COMMIT: every 60 s of FLIGHT. -/
def counterCommit (s : State) : State := if s.ready && s.flight then s.commitCounters else s

/-- RESERVE_COMMIT_DONE: the commit that COMMIT asked for has reached MRAM (R592). -/
def reserveCommitDone (s : State) : State :=
  if s.commitDue then ({ s with commitDue := false }.commitCounters).raise 48 else s

/-- A calibration pauses while throttling acts (R671). -/
def assayRuns (s : State) : Bool := s.g THERM.STEP = 0 && s.ready

/-- VERNIER_CALIBRATION (R587): the tap spread is within its limit, or the result is discarded. -/
def vernierCalibration (s : State) (good : Bool) : State :=
  if !s.tb.refok || s.g THERM.STEP ≥ 1 || s.g POWER.PSTATE ≥ 2 then s
  else if good then
    { (s.putF ASSAY.TAPAGE 0 F32.zero) with tb := { s.tb with tapcal := true, tapAge := 0 }, stale := s.stale.filter (· != 0) }
  else s.alarm 0x7502 0 [38] 0 0x1D

/-- DIODE_CALIBRATION (R587): the correction in °C that the comparison gave. It survives resets (R589). -/
def diodeCalibration (s : State) (corr : F32) : State :=
  if s.up.phase < 6 || s.g THERM.STEP ≥ 1 || s.g POWER.PSTATE ≥ 3 then s
  else if (corr.abs).le (F32.ofInt 5) then
    let s := ((s.putF ASSAY.TEMPOFF 0 corr).putF ASSAY.TEMPAGE 0 F32.zero)
    { s with pow := { s.pow with diodeCal := true }, tb := { s.tb with tempAge := 0 }, stale := s.stale.filter (· != 2), mram := { s.mram with tempOff := corr.toBits } }.mramWrite 704
  else s.alarm 0x8101 0 [39] 0 0x1D

/-- CAL_STALE (R587): the age of calibration `which` (0 vernier, 1 SAR, 2 diode) exceeds CALMAX; once
per excursion. The diode's faults, this one too, are TEMP_CAL. -/
def calStale (s : State) (which : Nat) : State :=
  let age := if which = 0 then s.tb.tapAge else if which = 1 then s.tb.sarAge else s.tb.tempAge
  if s.stale.contains which || !s.ready || age ≤ s.n ASSAY.CALMAX * 1000000000 then s
  else if which = 2 then { s with stale := s.stale ++ [which] }.alarm 0x8101 0 [39] 0 0x1D
  else { s with stale := s.stale ++ [which] }.alarm 0x7501 which [38] 0 0x1D

/-- The calibration conversion of R587, due each 1,000 wingbeats in a slot that no input has taken: its
result, offset and gain. A wingbeat without a free slot is counted. -/
def sarCalibration (s : State) (off gain : Int) : State :=
  if s.wb % 1000 != 0 || !s.assayRuns || s.g POWER.PSTATE ≥ 2 then s
  else
    let due := (List.range 8).foldl (fun k n =>
      if s.g AIN.PERIOD n != 0 && s.wb % s.n AIN.PERIOD n = 0 then k + s.n AIN.AVG n else k) 0
    if s.twNs / 500 ≤ due then s.inc ASSAY.SARSTARV
    else if -40 ≤ off && off ≤ 40 && -655 ≤ gain && gain ≤ 655 then
      { (s.putF ASSAY.SARAGE 0 F32.zero) with sarOff := off, sarGain := gain, tb := { s.tb with sarAge := 0 },
                                              stale := s.stale.filter (· != 1) }
    else s.alarm 0x7502 1 [38] 0 0x1D

/-- `ns` of time go by: the counters of the backup domain, FLIGHT time, and the calibrations' ages. -/
def elapse (s : State) (ns : Nat) : State :=
  let t := s.tb
  let m := t.msNs + ns
  let ms := s.bk.ms.toNat + m / 1000000
  let bk := { s.bk with ms := BitVec.ofNat 32 ms,
                        secs := BitVec.ofNat 32 (s.bk.secs.toNat + (ms / 1000 - s.bk.ms.toNat / 1000)) }
  let f := if s.ready && s.flight then t.flightNs + ns else t.flightNs
  let bk := { bk with regs := bk.regs.put 0 28 (BitVec.ofNat 32 ((bk.regs.find 0 28).toNat + f / 1000000000)) }
  let t := { t with msNs := m % 1000000, flightNs := f % 1000000000, sinceOk := t.sinceOk + ns,
                    tapAge := t.tapAge + ns, sarAge := t.sarAge + ns, tempAge := t.tempAge + ns }
  let s := { s with tb := t, bk := bk }
  ((s.putF ASSAY.TAPAGE 0 (F32.ofFrac t.tapAge 1000000000)).putF ASSAY.SARAGE 0 (F32.ofFrac t.sarAge 1000000000)).putF
    ASSAY.TEMPAGE 0 (F32.ofFrac t.tempAge 1000000000)

/-- TDEC_HALVING (R601, R672): a second without a discard in stream `k`, nor a halving, has passed. -/
def tdecHalving (s : State) (k : Nat) : State :=
  if s.telem.last.find 0 k != 0 && s.cycleOf + 1 < s.telem.last.find 0 k + 400000000 then s
  else
    let floor := if s.g THERM.STEP ≥ 2 then s.n THERM.THRTDEC else 1
    { s.put LEDGER.TDEC 0 (max floor (s.n LEDGER.TDEC 0 k / 2)) k with
      telem := { s.telem with last := s.telem.last.put 0 k (s.cycleOf + 1) } }

end State
end Sys2Proof.Machine
end

