-- ==== Sys2Proof/Machine/Telemetry.lean ====
section
/-! DEFINITION. The telemetry streams of ring 8 (R599–R601) and the payload of STATUS (R530). -/
namespace Sys2Proof.Machine
namespace State

/-- The 32 bytes that STATUS answers (R530). -/
def statusPayload (s : State) : List Byte :=
  let mask := fun (p : Nat → Bool) => (List.range 16).foldl (fun k x => if p x then k + 2 ^ x else k) 0
  le 4 s.hostSum ++ le 2 (s.n STOPDEV.ACTIVE) ++ le 2 (mask fun x => s.b AXIS.ENABLE x) ++
    le 2 (mask fun x => (s.machsOf x).any fun m => (s.machX m).policy) ++ zeros 2 ++ le 8 s.wb ++ le 4 (s.n THERM.TJ) ++
    le 4 (s.n EXCH.CHARGE) ++ le 4 (s.n EXCH.ADMCAP)

/-- The block of stream `k` for a mark (R599, R600): a stream's node 0 at place j of stream 0 is word j of STATUS,
its value at reset (log entry 12). -/
def streamBlock (s : State) (k wb : Nat) (latched : List (Option Int)) : List Byte :=
  let nodes := s.streamNodes k
  let status := s.statusPayload
  let words := ((List.range nodes.length).zip (nodes.zip latched)).map fun (j, a, v) =>
    if k = 0 && a = 0 && decide (j < 8) then slice (4 * j) 4 status
    else if s.nodeGone a then le 4 0xFFFFFFFF
    else match s.node a with
      | some (t, w) => le 4 (nodeWord a t (v.getD w))
      | none => le 4 0xFFFFFFFF
  [2] ++ le 1 k ++ le 2 words.length ++ zeros 4 ++ le 8 wb ++ words.flatten

/-- The streams that are due at this mark form their blocks (R220, R600). -/
def telemOpen (s : State) : State :=
  if !s.ready || 3 ≤ s.n POWER.PSTATE then s
  else
    let due := (List.range 8).filter fun k =>
      s.n LEDGER.TPER 0 k != 0 && s.n LEDGER.TNCH 0 k != 0 && s.wb % (s.n LEDGER.TPER 0 k * s.n LEDGER.TDEC 0 k) == 0
    { s with telem := { s.telem with cur := due.map fun k =>
      (k, { wb := s.wb, half := false, vals := (s.streamNodes k).map s.channelValue }) } }

/-- A block of stream `k` goes to ring 8, is withheld by suppression, or finds no room (R482, R601). -/
def sendStream (s : State) (k : Nat) (bytes : List Byte) : State :=
  if s.supp.on then s.inc STOPDEV.SUPCNT
  else if s.hasRoom 8 then s.produce 8 bytes
  else
    let s := (s.lossEvent.inc LEDGER.TLOST).put LEDGER.TDEC 0 (min 64 (2 * s.n LEDGER.TDEC 0 k) : Nat) k
    { s with telem := { s.telem with last := s.telem.last.put 0 k (s.cycleOf + 1) } }

/-- The blocks of the mark before are complete: their task outputs stand. -/
def telemClose (s : State) : State :=
  let l := s.telem.cur
  l.foldl (fun s q => s.sendStream q.1 (s.streamBlock q.1 q.2.wb q.2.vals)) { s with telem := { s.telem with cur := [] } }

/-- A whole second of reference time ends: the losses and discards of the next second are reported anew
(R595, R601). -/
def newSecond (s : State) (was : Nat) : State :=
  if s.tb.cycles / 400000000 = was / 400000000 then s
  else { s with telem := { s.telem with told := false }, ledg := { s.ledg with coalesced62 := false } }

end State
end Sys2Proof.Machine
end

