-- ==== Sys2Proof/Machine/Mark.lean ====
section
/-! DEFINITION. The wingbeat mark, the half mark and the fixed point (R23, R25), and what follows every
command: the causes and stop requests that it has left (R209, R211, R233). -/
namespace Sys2Proof.Machine

namespace State

/-- Option 2 of R211 can run: a placed observer and a good FBANG on every machine of the axis. -/
def obsOk (s : State) (x : Nat) : Bool :=
  s.observed x && (s.machsOf x).all fun m => s.g MACH.ANGSRC m = 1 || s.pathOf m = 3 || !s.fbDown (s.n MACH.FBANG m)

/-- DIO changes whose MINSP has elapsed take effect (R118). The spec gives the moment no event: the model applies it at
the marks, at the half marks and before the next edge of the input (DESIGN CHOICE, log entry 43). -/
def dioTick (s : State) : State :=
  (s.diox.filter fun e => e.2.wait.isSome).foldl (fun s e => s.dioStopEdge (s.dioDue e.1 s.cycleOf) e.1) s

/-- The 1 s windows of the DIO inputs end. -/
def dioWindowsEnd (s : State) : State :=
  let t := s.dioWindowEnd
  (List.range 32).foldl (fun u n => s.dioStopEdge u n) t

/-- What follows a command: tunes and machines whose causes have come, and the stops asked for. -/
def settleStops (s : State) : State :=
  let s := s.machWatch
  let s := s.tuneWatch
  (s.runStopReqs obsOk).stopRefresh

/-- A speed of a consumer in rpm, as counts/s of channel `n` seen through the ratio `num`/`den` from channel to
consumer (R127). -/
def fbCps (s : State) (n : Nat) (rpm : F32) (num den : Int) : F32 :=
  (((rpm.div F32.f60).mul (F32.ofInt (s.cprOf n))).mul (F32.ofInt den)).div (F32.ofInt num)

/-- A consumer that binds channel `n` commands a speed or a torque that meets R127. The commanded speed of a machine is
that of its axis, seen through its ratio. -/
def fbLoadedBy (s : State) (n : Nat) : Bool :=
  let pct := fun (m : Nat) => ((s.f FB.FRZTRQ n).div (F32.ofInt 100)).mul (s.f MACH.TRATED m)
  let moves := fun (x : Nat) (num den : Int) => s.b AXIS.ENABLE x && (s.g AXIS.MODE x = 2 || s.g AXIS.MODE x = 3) &&
    (s.f FB.FRZSPD n).le (s.fbCps n (s.axisX x).vref num den).abs
  (List.range 16).any (fun x =>
    let pos := s.g AXIS.FBPOS x = n; let spd := s.g AXIS.FBSPD x = n
    s.b AXIS.ENABLE x && (pos || spd) &&
      (moves x (if spd then s.g AXIS.SRNUM x else s.g AXIS.PRNUM x) (if spd then s.g AXIS.SRDEN x else s.g AXIS.PRDEN x) ||
        (pct (s.refm x)).le (s.f AXIS.TDEM x).abs)) ||
  (List.range 32).any fun m => s.b MACH.ENABLE m && s.g MACH.FBANG m = n &&
    ((pct m).le (s.machX m).dem.abs ||
      (s.n MACH.AXIS m < 16 && moves (s.n MACH.AXIS m) (s.g MACH.MNUM m * s.g MACH.RDEN m) (s.g MACH.MDEN m * s.g MACH.RNUM m)))

/-- The same for the channel and every channel that it serves as the fallback. -/
def fbLoaded (s : State) (n : Nat) : Bool :=
  s.fbLoadedBy n || (List.range 16).any fun p => s.g FB.SEL p = 1 && s.n FB.FBKCH p = n && s.g FB.STATE p = 3 && s.fbLoadedBy p

/-- Compare positions written through FB.CMPPOSL and FB.CMPPOSH take effect (R729). -/
def compareDue (s : State) : State :=
  let t := s.regs.due.foldl (fun s e => (s.put CMPU.CMPPOS e.1 e.2).setCmpX e.1 { s.cmpX e.1 with off := false }) s
  { t with regs := { t.regs with due := [] } }

/-- Writes of members that wait for the mark take effect (R144, R170), and those of coefficients whose object runs in no
stop any more (R212); a changed trip input moves with them. -/
def lateDue (s : State) : State :=
  let t := s.coefDue
  let t := t.late.foldl (fun t e => match lookup e.1 with
    | some (m, i, x) => if r200 m != 0 then t else { t.put m i e.2 x with late := t.late.del e.1 }
    | none => t) t
  s.tripMoved t

/-- Channel `n` has a mark: enabled, and with its SSI clock running (R660). -/
def fbMarks (s : State) (n : Nat) : Bool := s.n FB.MODE n != 0 && !(s.n FB.MODE n = 1 && 2 ≤ s.n POWER.PSTATE)

/-- The mark of channel `n` waits for an SSI word that is still under way (R112): its own, or that of the fallback which
serves it or to which it is to switch. -/
def fbHeld (s : State) (n : Nat) : Bool :=
  let x := s.fbX n
  let own := x.wait
  let fb := (s.fbX (s.n FB.FBKCH n)).wait
  (s.g FB.SEL n = 0 && own) || (s.g FB.SEL n = 1 && fb) || (x.selPend = some 0 && own) || ((x.selPend = some 1 || x.lost.isSome) && fb)

/-- The mark of the channels that no word holds: results, then the switches and stops of those declared, then speeds,
those served by a fallback last, then the positions with what follows their shifts, then the offsets to fallbacks. -/
def fbServe (s : State) : State :=
  let todo := fun (s : State) (k : Nat) => (List.range 16).filter fun n => (s.fbX n).todo = k && !s.fbHeld n
  let s := (todo s 1).foldl (fun s n => s.fbResult n (s.fbLoaded n)) s
  let l := todo s 2
  let s := l.foldl State.fbSettle s
  let s := (l.filter fun n => s.g FB.SEL n = 0).foldl (fun s n => s.markSpeed n s.markCycle) s
  let s := (l.filter fun n => s.g FB.SEL n != 0).foldl (fun s n => s.markSpeed n s.markCycle) s
  let s := l.foldl (fun s n =>
    let x := s.fbX n
    (s.fbPlace n).genShift n x.dlt x.posset.isSome) s
  ((List.range 16).filter fun n => l.contains n || l.contains (s.n FB.FBKCH n)).foldl State.markFallback s

/-- The feedback channels at the mark (R25). A channel whose word of the last mark never came has served a position
advanced by its speed. -/
def markFeedback (s : State) : State :=
  let l := (List.range 16).filter s.fbMarks
  let s := l.foldl (fun s n => if (s.fbX n).todo = 0 || !s.fbServes n then s else s.put FB.POS n (s.advanced n)) s
  let s := l.foldl (fun s n => s.setFbX n (s.markLatch n s.markCycle)) s
  s.fbServe

/-- The bits, latches and conversions of the SD and SAR blocks at the mark (R157, R166). -/
def markAnalogue (s : State) (q : MarkIn) : State :=
  let s := q.sd.foldl State.sdTake s
  let s := (List.range 48).foldl (fun s k => if s.b SD.ENABLE k then (s.sdMark k).sdLatch k s.markCycle false else s) s
  s.sarMark.sarCalibration q.sarOff q.sarGain

/-- What the mark latches: late members, DIO changes whose MINSP has elapsed, compare events, the channels, and the
SD and SAR blocks, which stand in PERCH and ROOST (R25, R660). -/
def markInputs (s : State) (q : MarkIn) : State :=
  let s := (s.compareDue.lateDue).dioTick
  let s := (List.range 4).foldl (fun s c => s.setCmpX c { s.cmpX c with told := false }) s
  let s := s.markFeedback
  if 2 ≤ s.n POWER.PSTATE then s else s.markAnalogue q

/-- Emulation output `e` at the mark, or once its source has its position (R140); a profile source holds below FLIGHT. -/
def emulate (s : State) (e : Nat) : State :=
  let src := s.n EO.SRC e
  s.eoMark e (if src < 16 then (if s.fbDown src then none else some (s.g FB.POS src)) else some (s.axisX (src - 16)).gen.p)

/-- The source of output `e` has not yet the position of this mark (R112). -/
def eoAwaits (s : State) (e : Nat) : Bool :=
  let src := s.n EO.SRC e
  if src < 16 then (s.fbX src).todo != 0 else s.evWait.contains (72 + 6 * (src - 16))

def markEmulation (s : State) : State :=
  (List.range 4).foldl (fun s e =>
    if s.b EO.ENABLE e && s.eoAwaits e then { s with evWait := s.evWait ++ [200 + e] } else s.emulate e) s

/-- SSI words that consumers waited for have come: their channels are served, and what no longer waits is evaluated
(R112). -/
def ssiRelease (s : State) : State :=
  if s.evWait.isEmpty && (List.range 16).all (fun n => (s.fbX n).todo = 0) then s
  else
    let s := s.fbServe
    let go := s.evWait.filter fun k => k < 200 && !s.evAwaits k
    let s := go.foldl State.evaluate { s with evWait := s.evWait.filter fun k => !go.contains k }
    let go := s.evWait.filter fun k => 200 ≤ k && !s.eoAwaits (k - 200)
    go.foldl (fun s k => s.emulate (k - 200)) { s with evWait := s.evWait.filter fun k => !go.contains k }

/-- A keep-alive BLOCK frame of ring `r` in PERCH, one per ms (R660). -/
def keepAlive (s : State) (r : Nat) : State :=
  if s.rState r = 0 || (s.tb.cycles / 400000) = ((s.tb.cycles - s.twCyc) / 400000) then s
  else (s.inc RING.FRTX r).setLink r { s.link r with blkSent := true }

/-- The cell rings at the mark (R25, R384, R406, R419, R660). -/
def markRings (s : State) : State :=
  if 3 ≤ s.n POWER.PSTATE then s
  else if s.n POWER.PSTATE = 2 then (List.range 4).foldl (fun s r =>
    if (s.link r).offPend then s.ringOff r else s.keepAlive r) s
  else
  let s := s.convs.foldl State.convMark s
  (List.range 4).foldl (fun s r =>
    if (s.link r).offPend then s.ringOff r else (s.formCommands r).frameLaunch r) s

/-- Accepted enables and disables take effect (R273, R365, R367). -/
def markEnables (s : State) : State :=
  let s := (List.range 16).foldl (fun s i =>
    if (s.stg i).disPend then s.stageDisableEffect i else if (s.stg i).enPend then s.stageEnableEffect i else s) s
  (List.range 16).foldl State.axisOffMark s

/-- The Exchange at the mark (R84–R98). A home tile that waits for a local copy is lost with the last of them (R97). -/
def markExchange (s : State) (q : MarkIn) : State :=
  let s := (s.ex.fromLocal.filter fun t => (s.task t).engA = 15).foldl State.tileLost s
  let (s, bad) := s.reduplicate.replaceTasks
  let s := bad.foldl (fun s t => s.taskFails t 0x4301) s
  s.migrationStep q.failed q.differ

/-- Stops and ride-through at the mark (R464–R466, R477). -/
def markStops (s : State) : State :=
  (List.range 16).foldl (fun s x => if s.axisActs x then ((s.rideMark x).rampBegin x).rampStep x else s) s

/-- An axis that runs on a position or speed channel that is lost, frozen or not valid enters its feedback-fault
stop, also where it was so when the axis was enabled, and during a ramp (R211, R484, R744). -/
def feedbackWatch (s : State) (x : Nat) : State :=
  let down := fun c => decide (c < 16) && s.fbDown c
  if s.b AXIS.ENABLE x && !(s.axisX x).fbHold && !(s.axisX x).onVest && (down (s.n AXIS.FBPOS x) || down (s.n AXIS.FBSPD x))
  then s.axisStopReq x 9 0x85 else s

/-- The evaluations of the mark (R25, R77): current loops, converters and arms, then the axes. -/
def markEvals (s : State) : State :=
  let s := (List.range 32).foldl (fun s m =>
    if s.b MACH.ENABLE m then s.setMachX m { s.machX m with tcPrev := (s.machX m).tclamp, tclamp := false } else s) s
  let s := (List.range 16).foldl (fun s x => if s.g AXIS.CFG x = 0 then s else (s.axisMeasure x).brakeSlip x) s
  let s := (List.range 16).foldl State.feedbackWatch s
  let s := s.convs.foldl State.armOvercurrent s
  (s.thermalMark.hushTorques.fullEvals.armEvals).outerEvals

/-- The timebase put in place. -/
def setTb (s : State) (t : TimeBase) : State := { s with tb := t }

/-- A new wingbeat length takes effect (R24): with it the charge of every task. -/
def takeWingbeat (s : State) (t : Nat) : State :=
  let s := (s.put SYS.WINGBEAT 0 t).setTb { s.tb with newTw := none }
  (s.taskIds.foldl (fun s k => s.setTask k { s.task k with charge := s.chargeOf k }) s).exRefresh

/-- Time at the mark: WBCOUNT, the timebase, and a new wingbeat length (R23, R24). -/
def markTime (s : State) : State :=
  let s := if s.tb.first then s.setTb { s.tb with first := false }
    else ((s.elapse s.twNs).incWrap SYS.WBCOUNT).setTb { (s.elapse s.twNs).tb with cycles := s.tb.cycles + s.twCyc }
  let s := s.newSecond (s.tb.cycles - s.twCyc)
  let s := { s with fixedPt := false }.setTb { s.tb with off := 0, half := false }
  let s := if s.tb.divDue then s.setTb { s.tb with divDue := false, div0 := s.tb.cycles } else s
  match s.tb.newTw with
  | none => s
  | some t => s.takeWingbeat t

/-- The output of axis `x` for the last mark came late: its substitute stands, or is due now (R50). -/
def axisLate (s : State) (x : Nat) : Bool :=
  let o := s.outSt (72 + 6 * x)
  let q := 2 * (s.wb - 1)
  s.b AXIS.ENABLE x && (o.due.any (fun d => d.seq == q) || (o.subst && o.seq == q))

/-- A follower reads the profile of its master as committed for the last mark (R263), or its substitute (R271), which
extrapolates as the output does; and no evaluation of that mark waits any more. -/
def profilesOf (s : State) : State :=
  (List.range 16).foldl (fun s x =>
    let g := s.gen x
    let late := s.axisLate x
    let (p, v) := if !late then (g.p, g.v)
      else if s.b AXIS.EXTRAP x && !g.pmLate then (g.pm + (g.pm - g.pb), g.vm.add (g.vm.sub g.vb)) else (g.pm, g.vm)
    s.setGen x { g with pm := p, vm := v, pb := g.pm, vb := g.vm, pmLate := late }) { s with evWait := [] }

/-- The marks run: the reference is there and its blocks are released, and the rung has marks (R23, R660). -/
def marksRun (s : State) : Bool := (s.tb.refok || s.tb.ovrd) && s.up.pins && s.n POWER.PSTATE ≤ 3

/-- What FLIGHT adds at a mark: acknowledges resume, the Exchange, the stops, the evaluations and MOD. -/
def markFlight (s : State) (q : MarkIn) : State :=
  if !s.flight then s
  else
    let s := if s.pow.gaDue then { s.gaResume with pow := { s.gaResume.pow with gaDue := false } } else s
    let s := (s.markExchange q).markStops
    let s := s.convs.foldl State.convTrack ((List.range 32).foldl State.ascTrack s)
    let s := s.markEvals.modMark
    if s.cycleNow then s.stageWatch false else s

/-- WINGBEAT_MARK (R23, R25). -/
def wingbeatMark (s : State) (q : MarkIn) : State :=
  if !s.marksRun then s
  else
    let s := ((s.traceClose (if s.tb.first then 2 * s.wb else 2 * s.wb + 2) q.tagBad).telemClose.markTime).profilesOf
    let s := if s.ex.fullDue then s.releaseDuplicates else s
    let s := q.cells.foldl State.cellMark (s.markInputs q).markRings
    let s := (List.range 64).foldl State.ffFade s.markEnables
    let s := if 3 ≤ s.n POWER.PSTATE then s else s.canMark
    ((((s.markFlight q).markEmulation).traceOpen false).telemOpen).settleStops

/-- Input `k` latches at the half mark: a machine with double update names it (R157). -/
def sdHalf (s : State) (k : Nat) : Bool :=
  (List.range 32).any fun m => s.b MACH.DUPD m &&
    (s.g MACH.SDU m = k || s.g MACH.SDV m = k || s.g MACH.SDW m = k || s.g MACH.SDDC m = k)

/-- HALF_MARK (R25, R26): the ΣΔ latches `sd`. -/
def halfMark (s : State) (sd : List SdBits) (tagBad : Nat) : State :=
  if !s.marksRun || s.tb.half || s.tb.first then s
  else
    let s := s.traceClose (2 * s.wb + 1) tagBad
    let s := { s with tb := { s.tb with half := true, off := max s.tb.off (s.twCyc * 4) } }
    let s := (sd.foldl State.sdTake s).dioTick
    let s := (List.range 48).foldl (fun s k => if s.sdHalf k then s.sdLatch k (s.markCycle + s.twCyc / 2) true else s) s
    let s := if s.flight then s.halfEvals else s
    let s := if s.flight && s.cycleNow then s.stageWatch true else s
    (s.traceOpen true).settleStops

end State
end Sys2Proof.Machine
end

