-- ==== Sys2Proof/Machine/Reset.lean ====
section
/-! DEFINITION. Resets and what they keep, the start-up phases, Mothball, and the loss and return of the
reference (R614, R620–R626, R635–R658). -/
namespace Sys2Proof.Machine
namespace State

/-! ### OTP, life-cycle and firmware slots (R614, R620, R621, R623) -/

/-- OPTw as P3 applies it: 0, the unprogrammed value, once the safe options are loaded (R645). -/
def optWord (s : State) (w : Nat) : BitVec 32 := if s.up.optfail then 0 else s.otp.opt.find 0 w

/-- The public key of KEYSEL `k` (R633), 0 while unprogrammed. -/
def otpKey (s : State) (k : Nat) : Nat :=
  if s.otp.keysBad then 2 ^ 512 - 1
  else if k = 1 then s.otp.fwpk0 else if k = 2 then s.otp.fwpk1 else if k = 3 then s.otp.pspk
  else if k = 4 then s.otp.aupk else 0

/-- The life-cycle state that the fuses spell (R623). -/
def lifeOf (o : Otp) : Nat :=
  if o.void then 5 else if o.ret then 4 else if o.field && o.svc % 2 = 1 then 3 else if o.field then 2
  else if o.mint then 1 else 0

def life (s : State) : Nat := s.n LIFE.STATE

/-- SEC[0].KEYSTAT (R633). -/
def keyStat (s : State) : Nat :=
  b2n (s.otp.ds != 0) + 2 * b2n (s.otpKey 1 != 0) + 4 * b2n (s.otpKey 2 != 0) + 8 * b2n (s.otpKey 3 != 0)
    + 16 * b2n (s.otpKey 4 != 0) + 32 * b2n s.otp.fwrev

/-- The members of SEC and LIFE that show the OTP. -/
def otpShow (s : State) : State :=
  let s := (s.put SEC.UID 0 (Config.uid.toNat : Nat)).put SEC.KEYSTAT 0 (s.keyStat : Nat)
  (s.put SEC.ARB 0 (s.otp.arb : Nat)).put LIFE.SVCUSED 0 ((s.otp.svc + 1) / 2 : Nat)

def slot (s : State) (i : Nat) : Slot := s.mram.slots.find {} i

/-- The members that show the slots (R633). -/
def slotShow (s : State) : State :=
  (List.range 2).foldl (fun s i =>
    (s.put SEC.SLOTSTAT 0 ((s.slot i).stat : Nat) i).put SEC.SLOTVER 0 ((s.slot i).version : Nat) i) s

def setSlot (s : State) (i : Nat) (q : Slot) : State :=
  { s with mram := { s.mram with slots := s.mram.slots.put {} i q } }.slotShow

/-- The key that verifies an image (R620). -/
def fwKey (s : State) : Nat := if s.life = 0 then Config.nepk else if s.otp.fwrev then s.otpKey 2 else s.otpKey 1

/-- The fields of an image (R620): bytes `a` to `a + n - 1`. -/
def imgField (l : List Byte) (a n : Nat) : Nat := unle (slice a n l)

/-- What keeps a slot from being a candidate: 0 nothing, else the reason of R621. -/
def slotReason (s : State) (q : Slot) : Nat :=
  let l := q.bytes
  if imgField l 0 4 != 0x2140A5E7 || imgField l 10 2 != 0x2140 || imgField l 16 4 != 3 then 1
  else if imgField l 20 32 != (Config.sha256 (l.drop 128)).toNat then 2
  else if !Config.ecdsaVerify s.fwKey (Config.sha256 l) q.sig then 3
  else if imgField l 8 1 < s.otp.arb then 4
  else 0

/-! ### Wipes (R625, R626) -/

/-- The MRAM blocks of 4 KiB that a life-cycle wipe writes: slots, Vault and parameter sets, device
records where they go too, and the Ledger's secure part and the spare pool. -/
def wipeBlocks (all : Bool) : List Nat :=
  List.range 592 ++ (if all then (List.range 128).map (592 + ·) else []) ++ (List.range 48).map (720 + ·)

/-- The wipe of a life-cycle change to state `t` (R625). -/
def lifeWipe (s : State) (t : Nat) : State :=
  let all := t = 4 || t = 5
  let s := (wipeBlocks all).foldl State.mramWrite s
  let m := { s.mram with slots := [], psets := [], chain := 0 }
  let s := { s with ledg := { s.ledg with unsealed := 0 } }
  if all then
    { s with mram := { m with retired := 0, retiredLost := true, rings := [], cellRetired := [], sdOffs := [], tempOff := 0,
                              flight := 0, boots := 0, resume := none, writes := [], spare := 32, wornAt := [] } }
  else { s with mram := m }

/-- The target state of a change whose wipe has not been confirmed, if any (R626). -/
def wipeDue (o : Otp) : Option Nat :=
  if o.void && !o.wVoid then some 5 else if o.ret && !o.wRet then some 4
  else if o.wSvc < o.svc then some (if o.svc % 2 = 1 then 3 else 2)
  else if o.field && !o.wField then some 2 else if o.mint && !o.wMint then some 1 else none

/-- Every companion fuse is burnt. -/
def burnWiped (o : Otp) : Otp := { o with wMint := o.mint, wField := o.field, wRet := o.ret, wVoid := o.void, wSvc := o.svc }

/-! ### Reset (R635–R643) -/

def isPower (cause : Nat) : Bool := cause < 0x20

/-- The backup domain after a wipe: zeros, its counters resumed from the last commit (R592). -/
def backupWiped (s : State) : Backup :=
  { regs := Tbl.put 0 (Tbl.put 0 [] 28 (BitVec.ofNat 32 s.mram.flight)) 29 (BitVec.ofNat 32 s.mram.boots) }

/-- A window counter of R642: its count in [3:0] and the stamp of its first event in [31:4]. -/
def windowCount (r now limit : Nat) : Nat :=
  let stamp := r / 16
  let age := (now + 2 ^ 28 - stamp) % 2 ^ 28
  if r % 16 = 0 || age > limit then 1 + 16 * (now % 2 ^ 28) else min 15 (r % 16 + 1) + 16 * stamp

/-- A reset of cause `c` (R635): the state that it leaves, at P0 or, for a non-power reset in P3, at the
restart of P3 (R643). -/
def doReset (s : State) (c : Nat) : State :=
  let p3 := !isPower c && s.up.phase = 3
  let cause := if s.up.phase = 0 && s.up.stretch && 0x11 ≤ c && s.up.cause < c then s.up.cause else c
  let bk := if c = 2 || c = 0x26 || c = 0x27 then s.backupWiped else s.bk
  let bk := if 0x21 ≤ c && c ≤ 0x23 then
      { bk with regs := bk.regs.put 0 30 (BitVec.ofNat 32 (windowCount (bk.regs.find 0 30).toNat (bk.secs.toNat % 2 ^ 28) 600)) }
    else bk
  let bk := if p3 then
      { bk with regs := bk.regs.put 0 31 (BitVec.ofNat 32 (windowCount (bk.regs.find 0 31).toNat (bk.ms.toNat % 2 ^ 28) 1000)) }
    else bk
  let src := if isPower c then (s.otp.opt.find 0 0).getLsbD 0 else s.tb.src
  let early := !isPower c && c != 0x26 && c != 0x27 && s.tb.early
  let tb : TimeBase := if p3 then
      { src := src, srcact := s.tb.srcact, lock := s.tb.lock, refok := s.tb.refok, seen := s.tb.seen, ovrd := s.tb.ovrd,
        early := early }
    else { src := src, srcact := src, lock := !isPower c && s.tb.lock, early := early }
  let up : StartUp := { phase := if p3 then 3 else 0, cause := cause, p3Restart := p3,
                        p3Notes := s.up.p3Notes + b2n p3, tamperNote := s.up.tamperNote || c = 0x27 }
  { State.reset with mram := s.mram, otp := { s.otp with keysBad := false }, bk := bk, tb := tb, up := up,
                     sec := { drawn := s.sec.drawn }, ledg := { unsealed := s.ledg.unsealed }, free := s.free,
                     pending := s.pending }

/-- POWER_ON_RESET: with the backup domain held or lost. -/
def powerOnReset (s : State) (held : Bool) : State := s.doReset (if held then 1 else 2)

/-- BROWNOUT of rail 0 to 5; VDDENG is not monitored in COCOON and DIAPAUSE (R705). -/
def brownout (s : State) (rail : Nat) : State :=
  if rail = 0 && 4 ≤ s.n POWER.PSTATE then s else s.doReset (0x11 + rail)

/-- NRST_RESET (R638): ignored while the device drives the pin or holds it; in P3 it restarts P3 (R655). -/
def nrstReset (s : State) : State := if s.up.phase = 3 || 5 ≤ s.up.phase then s.doReset 0x20 else s

/-- The watchdog runs from P5 on (R639), and not in ROOST and below (R660). -/
def watchdogRuns (s : State) : Bool := 5 ≤ s.up.phase && s.n POWER.PSTATE ≤ 2 && !s.sec.dbgHalt
def watchdogPrewarning (s : State) : State := if s.watchdogRuns then s.raise 63 else s
def watchdogReset (s : State) : State := if s.watchdogRuns then s.doReset 0x21 else s

/-- LOCKSTEP_MISMATCH (R21, R586): the Teller cores run from P5. -/
def lockstepMismatch (s : State) : State := if 5 ≤ s.up.phase then s.doReset 0x22 else s

/-- ENGINE_SUPERVISOR_RESET (R640). -/
def engineSupervisorReset (s : State) : State := if s.ready then s.doReset 0x23 else s

/-- TAMPER (R630): disabled by OPT0.TAMPDIS in BLANK. -/
def tamperOff (s : State) : Bool := (s.optWord 0).getLsbD 3 && s.life = 0 && 4 ≤ s.up.phase
def tamper (s : State) : State := if s.tamperOff then s else s.doReset 0x27

/-! ### Start-up phases (R643–R650) -/

/-- RESET_STRETCH_END (R637): the 200 µs are over; `railsUp` says that every rail has passed its release
threshold. A P3 restart goes on in P3. -/
def stretchEnd (s : State) (railsUp : Bool) : State :=
  if !s.up.stretch || !railsUp then s
  else if s.up.p3Restart then { s with up := { s.up with stretch := false, p3Restart := false } }
  else if s.up.phase = 0 then { s with up := { s.up with stretch := false, phase := 1 } }
  else s

/-- MULTIPLIER_LOCK (R39). -/
def multiplierLock (s : State) : State := if s.up.phase = 0 || s.tb.lock then s else { s with tb := { s.tb with lock := true } }

/-- REFOK comes back after a loss in operation (R653): `us` is the duration of the loss. -/
def refRestored (s : State) (us : Nat) : State :=
  let s := { s with tb := { s.tb with refok := true, tapcal := false, sinceOk := 0, divDue := true } }
  let s := (List.range 4).foldl (fun s r => s.setLink r { s.link r with blkLeft := 0, txOff := false, lockA := false, lockB := false }) s
  let s := (List.range 4).foldl (fun s p => if s.b CAN.EN p then (s.setCan p { s.canP p with first := true }).canTo p 1 else s) s
  let s := (List.range 16).foldl (fun s x =>
    if s.n AXIS.FBPOS x < 16 && 2 ≤ s.n FB.MODE (s.n AXIS.FBPOS x) then s.put PROF.HOMED x 0 else s) s
  s.alarm 0xB302 noInst [61] us

/-- REF_QUALIFIED (R39, R653): the multiplier has held lock for 1 ms. -/
def refQualified (s : State) (us : Nat) : State :=
  if !s.tb.lock || s.tb.refok then s
  else if s.up.phase = 1 then
    { s with tb := { s.tb with refok := true, seen := true, sinceOk := 0 }, up := { s.up with phase := 2 } }
  else if s.up.phase = 7 && s.tb.loss && !s.tb.ovrd then s.refRestored us
  else if 2 ≤ s.up.phase then { s with tb := { s.tb with refok := true, seen := true, sinceOk := 0 } }
  else s

/-- EARLY_RELEASE (R649): 100 µs after P1 began with the test override. -/
def earlyRelease (s : State) : State :=
  if s.up.phase = 1 && s.tb.early then
    { s with tb := { s.tb with ovrd := true }, up := { s.up with phase := 2, override := true } }
  else s

/-- WIPE_COMPLETE: P2 has ended, with the repeat of R626 where a companion fuse is missing. -/
def wipeComplete (s : State) : State :=
  if s.up.phase != 2 then s
  else
    let s := match wipeDue s.otp with
      | none => s
      | some t => { s.lifeWipe t with otp := burnWiped s.otp }
    { s with up := { s.up with phase := 3 } }

/-- OPTIONS_LOADED: P3 has ended. The straps as sampled, and whether the options, the life-cycle words and
the key words could be read (R614, R643, R645, R693). -/
def optionsLoaded (s : State) (strapA strapB optsOk lifeOk keysOk : Bool) : State :=
  if s.up.phase != 3 || s.up.stretch then s
  else
    let eighth := 8 ≤ (s.bk.regs.find 0 31).toNat % 16
    let fail := eighth || !optsOk || !lifeOk || !keysOk
    let s := { s with up := { s.up with phase := 4, optfail := fail },
                      otp := { s.otp with keysBad := !keysOk },
                      bk := { s.bk with regs := s.bk.regs.put 0 31 0 } }
    let s := s.put LIFE.STATE 0 ((if lifeOk then lifeOf s.otp else 5) : Nat)
    let opt := s.optWord
    let s := { s with sec := { s.sec with
      blkmap := 0xF1000000 ||| opt 2,
      rgnmap0 := 0xFF000002 ||| (opt 3 &&& 0x00FFFFFC),
      rgnmap1 := 0xFFFF85FF ||| (opt 4 &&& 0x00007800) } }
    let s := s.setPort 0 { s.port 0 with seccap := strapA || (opt 0).getLsbD 1 }
    let s := s.setPort 1 { s.port 1 with seccap := strapB || (opt 0).getLsbD 2 }
    s.otpShow

/-- TRIM_DONE: P4 releases the reference-timed blocks and nRST. -/
def trimDone (s : State) : State :=
  if s.up.phase != 4 || s.up.pins then s else { s with up := { s.up with pins := true, nrstHeld := false } }

/-- NRST_RELEASED (R638): the pin has read high for 10 µs; P5 begins and the boot counter rises. -/
def nrstReleased (s : State) : State :=
  if s.up.phase != 4 || !s.up.pins then s
  else { s with up := { s.up with phase := 5 },
                bk := { s.bk with regs := s.bk.regs.put 0 29 (s.bk.regs.find 0 29 + 1) } }

/-- AUTHENTICATE_DONE (R621, R627): Chrysalis has checked the slots; `romOk` is the check of boot ROM (R22). -/
def authenticateDone (s : State) (romOk : Bool) : State :=
  if s.up.phase != 5 then s
  else
    let s := s.slotShow
    let slots := if s.up.optfail || s.life = 1 || 4 ≤ s.life then [] else
      (List.range 2).filter fun i => (s.slot i).stat = 2
    let bad := slots.filter fun i => s.slotReason (s.slot i) != 0
    let s := bad.foldl (fun s i => s.alarm 0xA301 noInst [61] (i + 256 * s.slotReason (s.slot i)) 0x20) s
    let good := slots.filter fun i => s.slotReason (s.slot i) = 0
    let use := match good with
      | [] => 2
      | [i] => i
      | _ => if (s.slot 0).version < (s.slot 1).version then 1 else 0
    let s := s.put SEC.FWSLOT 0 (use : Nat)
    let mb := if s.up.optfail then 1 else if use = 2 && !romOk then 2 else 0
    { s with up := { s.up with phase := 6, base := use = 2, mothball := mb } }

/-- The device enters Mothball with cause `k` (R479, R480). -/
def enterMothball (s : State) (k : Nat) : State :=
  let s := { s with up := { s.up with mothball := k } }
  let s := (List.range 8).foldl (fun s e => if (s.eng e).st = .admitted then s.setEng e { s.eng e with st := .isolated } else s) s
  let s := (List.range 4).foldl (fun s p => s.put CAN.RESTR p 1) s
  ((s.put SYS.MBCAUSE 0 (k : Nat)).alarm 0xB201 noInst [61] k).exRefresh

/-- The RESET record of R594, staged ahead of the records of P5 and P6: it is the first of a chain that begins (R624). -/
def resetRecord (s : State) : State :=
  let t := s.ledger 0xF001 0xFFFF s.up.cause
  if t.ledg.staged.length = s.ledg.staged.length + 1 then
    { t with ledg := { t.ledg with staged := t.ledg.staged.drop s.ledg.staged.length ++ s.ledg.staged } }
  else t

/-- P7 begins (R448, R479, R501, R594, R643–R650). -/
def enterReady (s : State) : State :=
  let opt1 := (s.optWord 1).toNat
  let s := { s with up := { s.up with phase := 7, testFirst := false } }
  let s := (List.range 16).foldl (fun s n => s.setRing n { s.ring n with en := true, world := bit opt1 n, head := 0, tail := 0 }) s
  let s := s.alarms.foldl (fun s _ => s.alarmFlush) s
  let s := (s.put SYS.RSTCAUSE 0 (s.up.cause : Nat)).put SYS.BOOTCNT 0 ((s.bk.regs.find 0 29).toNat : Nat)
  let s : State := s.resetRecord
  let s := if s.n SEC.FWSLOT ≤ 1 then s.ledger 0xF005 0xFFFF (s.n SEC.FWSLOT) else s
  let s := if s.up.optfail then s.alarm 0xB101 noInst [61] else s
  let s := (List.range s.up.p3Notes).foldl (fun s _ => s.alarm 0xB102 noInst [61]) s
  let s := if s.up.tamperNote then s.alarm 0xA401 noInst [61] 0 0x20 else s
  let s := if s.up.override then s.ledger 0xF009 0xFFFF 0 else s
  let s := { s with up := { s.up with p3Notes := 0, tamperNote := false, override := false } }
  let s := if s.up.mothball != 0 then s.enterMothball s.up.mothball else s
  let s := if s.sto.act then s.alarm 0xC103 16 [44] 0 21 else s
  (s.vengNear 800).raise 49

/-- The records of the device are read in P6 (R432, R589, R590, R592). -/
def readRecords (s : State) : State :=
  let s := (List.range 8).foldl (fun s e => if bit s.mram.retired e && !s.mram.retiredLost then s.setEng e { s.eng e with st := .retired } else s) s
  let s := s.mram.sdOffs.foldl (fun s e => s.put SD.OFFS e.1 e.2) s
  let s := s.put ASSAY.TEMPOFF 0 s.mram.tempOff
  let s := (s.put LEDGER.FIRST 0 (s.mram.first : Nat)).put LEDGER.NEXT 0 (s.mram.next : Nat)
  let s := (s.put RESERVE.WEARMAX 0 (s.mram.writes.foldl (fun k e => max k e.2) 0 : Nat)).put RESERVE.SPARE 0 (s.mram.spare : Nat)
  let s := s.mram.cellRetired.foldl (fun s e => (s.put CELL.RETIRE e.1 1).put CELL.STATE e.1 5) s
  (List.range 4).foldl (fun s r => s.put RING.CGEN r ((s.mram.rings.find {} r).cgen : Nat)) s

/-- The Vault's Ledger key, published (R617). -/
def vault (s : State) : State :=
  if !s.hasSealKey then s else
    let k := (Config.ledgerPublicKey s.otp.ds).toNat
    (List.range 16).foldl (fun s j => s.put SEC.LEDGERPK 0 (k / 2 ^ (32 * j) % 2 ^ 32 : Nat) j) s

/-- The supervisor resets of R650, counted and reported in P6. -/
def supervisorReset (s : State) : State :=
  if s.up.cause < 0x21 || 0x23 < s.up.cause then s
  else
    let n := (s.bk.regs.find 0 30).toNat % 16
    let s := s.alarm 0xB103 noInst [61] s.up.cause 0 (le 4 n)
    if 3 ≤ n then
      { s with up := { s.up with mothball := if s.up.mothball = 0 then 3 else s.up.mothball },
               bk := { s.bk with regs := s.bk.regs.put 0 30 0 } }
    else s

/-- FIRMWARE_LOADED (R646): P6 has ended; every engine that may be admitted is. After a lost RETIRED mask
the engines are tested first. -/
def firmwareLoaded (s : State) : State :=
  if s.up.phase != 6 || s.up.testFirst then s
  else
    let s := (s.readRecords.vault).supervisorReset
    let s := if s.mram.retiredLost then s.alarm 0x7302 noInst [38] 0 0x1E |>.inc RESERVE.RECLOST else s
    if s.up.mothball != 0 then s.exRefresh.enterReady
    else if s.mram.retiredLost then { s with up := { s.up with testFirst := true } }.exRefresh
    else
      let s := ((List.range 8).foldl (fun s e => if (s.eng e).st = .isolated then s.setEng e { s.eng e with st := .admitted } else s) s).exRefresh
      if s.admittedList.isEmpty then { s with up := { s.up with mothball := 4 } }.enterReady else s.enterReady

/-- ENGINE_TEST_DONE in P6 and after it (R588, R646): P7 begins when the first engine is admitted, or when
none can be. -/
def testDone (s : State) (pass : Bool) (ms : F32) : State :=
  let s := s.engineTestDone pass ms
  let left := (List.range 8).any fun e => (s.eng e).st = .isolated || (s.eng e).st = .testing
  let mask := (List.range 8).foldl (fun k e => if (s.eng e).st = .retired then k + 2 ^ e else k) 0
  let s : State := if left || !s.mram.retiredLost then s else { s with mram := { s.mram with retiredLost := false, retired := mask } }
  if !s.up.testFirst then s
  else if !s.admittedList.isEmpty then s.enterReady
  else if (List.range 8).all fun e => (s.eng e).st = .retired then { s with up := { s.up with mothball := 4 } }.enterReady
  else s

/-! ### Loss of the reference (R404, R651, R652) -/

/-- The loss at or after READY: the device stays up and stops. -/
def refLossStop (s : State) : State :=
  let s := (s.setSto fun q => { q with refLoss := true }).alarm 0xB301 noInst [61]
  let s := s.stopDevice 0 0x82
  let s := (List.range 16).foldl State.driveStage s
  let s := (List.range 4).foldl (fun s r =>
    if s.rState r = 0 then s
    else (s.ringTo r 1).setLink r { s.link r with blkLeft := 8, enumOk := false, degr := false, lockA := false, lockB := false }) s
  (List.range 16).foldl (fun s n =>
    if s.g FB.MODE n = 0 then s
    else (((s.put FB.STATE n 1).put FB.SPEED n 0).put FB.SPEEDF n 0).setFbX n
      { s.fbX n with bad := 0, good := 0, still := 0, got := none, wait := false, todo := 0, lost := none }) s

/-- REF_LOSS: a loss in P2 to P6 resets the device, and one at or after READY stops it. -/
def refLoss (s : State) : State :=
  if !s.tb.refok || s.up.phase < 2 || 4 ≤ s.n POWER.PSTATE then s
  else if s.up.phase < 7 then s.doReset 0x29
  else
    let s := s.inc SYS.REFLOSSCNT
    { s with tb := { s.tb with refok := false, loss := true, lock := false } }.refLossStop

/-- WBCOUNT_INTERNAL_ADVANCE (R652): T_w has gone by on the internal oscillator. -/
def wbcountAdvance (s : State) : State :=
  if s.tb.refok || s.up.phase != 7 || s.tb.ovrd then s else (s.elapse s.twNs).incWrap SYS.WBCOUNT

/-- A write of STOP[64].RCLEAR = 1 (R653). -/
def rclear (s : State) : Status × State :=
  if s.tb.refok && 10000000 ≤ s.tb.sinceOk then (.ok, s.setSto fun q => { q with refLoss := false }) else (.faultActive, s)

end State
end Sys2Proof.Machine
end

