-- ==== Sys2Proof/Machine/Power.lean ====
section
/-! DEFINITION. The wingbeat length, the duty profile, the supply setpoints, the power ladder and the
thermal unit (R24, R58–R63, R478, R659–R681, R701–R704). -/
namespace Sys2Proof.Machine
namespace State

/-! ### The wingbeat length (R24) and the duty profile (R58) -/

/-- Nominal T_c of stage `i` in ns at a wingbeat of `tw` ns lies between 20 µs and 1 ms (R318). -/
def carrierOk (carn tw : Nat) : Bool := 40000 ≤ carn * tw && carn * tw ≤ 2000000

/-- The conversions of the enabled SAR inputs fit the slots of one wingbeat (R166). -/
def sarFits (s : State) (tw : Nat) : Bool :=
  (List.range 8).foldl (fun k n => if s.n AIN.PERIOD n = 0 then k else k + s.n AIN.AVG n) 0 ≤ tw / 500

/-- A new wingbeat breaks the configuration of another block (R24 point 3, R106, R166, R318). -/
def wingbeatBreaks (s : State) (tw : Nat) : Bool :=
  (List.range 16).any (fun n => s.n FB.MODE n != 0 &&
    ((s.n FB.MODE n = 1 && !s.ssiOk n tw) || tw * 2 / 5 ≤ s.n FB.ADV n)) ||
  (List.range 16).any (fun i => s.n STAGE.MACH i != 255 && !carrierOk (s.n STAGE.CARN i) tw) || !s.sarFits tw

/-- A cell ring that must fit no longer does (R24). Its N is the cells that it has, or before an enumeration those that
it expects. -/
def ringTight (s : State) (r tw : Nat) : Bool :=
  let used := s.rState r != 0 || !(s.convsOn r).isEmpty
  let x := s.link r
  let n := if s.n RING.NCELL r = 0 then s.n RING.EXPN r else s.n RING.NCELL r
  used && (tw * 5 - 10000 < tFrame n + n * 100 || tw * 5 - 10000 < x.rtt || tw * 5 - 2500 < x.tapply)

/-- A write of SYS[0].WINGBEAT (R24). -/
def wingbeatWrite (s : State) (v : Nat) : Status × State :=
  let s' := s.put SYS.WINGBEAT 0 v
  if v % 2500 != 0 || v < 10000 || 100000 < v then (.badValue, s)
  else if (List.range 16).any (fun i => [1, 2, 3, 6].contains (s.stState i)) ||
      (List.range 4).any (fun r => s.rState r = 2 || s.rState r = 4) ||
      (List.range 16).any (fun x => s.b AXIS.ENABLE x) then (.busy, s)
  else if s.wingbeatBreaks v then (.badValue, s)
  else if s'.admCap < s.taskIds.foldl (fun k t => k + s'.chargeOf t) 0 || (List.range 4).any (fun r => s.ringTight r v) then
    (.capacity, s)
  else (.ok, { s with tb := { s.tb with newTw := some v } })

/-- A write of PROFILE[0].DUTY (R58): 1 FULL, 0 PAIRED. DESIGN CHOICE (log entry 42): PAIRED written while an accepted
FULL still waits for its mark takes that FULL back, with OK. -/
def dutyWrite (s : State) (v : Nat) : Status × State :=
  if v = 1 then
    if s.g PROFILE.DUTY = 1 then (.ok, s)
    else (.ok, { (s.put PROFILE.DUTY 0 1) with ex := { s.ex with fullDue := true } })
  else if s.g PROFILE.DUTY = 0 then (.ok, s)
  else if s.ex.fullDue then (.ok, { (s.put PROFILE.DUTY 0 0) with ex := { s.ex with fullDue := false } })
  else if s.capWith s.throughputNow s.admittedList.length true < s.charge then (.capacity, s)
  else
    let s := (s.put PROFILE.DUTY 0 0).put PROFILE.STATE 0 2
    let s := s.taskIds.foldl (fun s t => if (s.task t).st = 2 then s.setTaskSt t (s.runSt (s.task t)) else s) s
    (.pending, s.exRefresh)

/-! ### Supply setpoints (R59–R63, R701–R704) -/

def setpointMv (v : Nat) : Nat := if v = 1 then 720 else if v = 2 then 880 else if v = 3 then 600 else 800

/-- A write of POWER[0].SETPOINT (R61–R63, R704). -/
def setpointWrite (s : State) (v : Nat) : Status × State :=
  if v = s.n POWER.SETPOINT then (.ok, s)
  else if v != 0 && s.n POWER.VIDDIO = 255 then (.badValue, s)
  else if v = 1 && s.capWith (throughput 1) s.admittedList.length s.paired < s.charge then (.capacity, s)
  else if v = 2 && (F32.ofInt 95).lt (s.f THERM.TJ) then (.busy, s)
  else if s.flight then (.ok, (s.setpointMove v).exRefresh)
  else (.ok, s.put POWER.SETPOINT 0 v)

/-- SETPOINT_MOVE_DONE (R703). -/
def setpointMoveDone (s : State) : State :=
  match s.pow.spTarget with
  | none => s
  | some t => (({ s with pow := { s.pow with spTarget := none, spFrom := t } }.put POWER.SPSTATE 0 t).vengNear (setpointMv t)).exRefresh

/-- VENG_MISS (R703). -/
def vengMiss (s : State) : State :=
  if s.pow.spTarget.isNone then s
  else
    let s := { s with pow := { s.pow with spTarget := none, spFrom := 0 } }
    let s := (((s.put POWER.SETPOINT 0 0).put POWER.SPSTATE 0 0).vidDrive 0).vengAny
    (s.alarm 0x9103 0 [48]).exRefresh

/-- A write of POWER[0].VIDDIO (R701). -/
def viddioWrite (s : State) (v : Nat) : Status × State :=
  let ok := v = 255 || (v ≤ 29 && (List.range 3).all fun k => s.n DIO.FUNC (v + k) = 1 && s.n DIO.POL (v + k) = 0)
  if !ok then (.badValue, s)
  else if !s.flight || s.n POWER.SETPOINT != 0 then (.busy, s)
  else if v = s.n POWER.VIDDIO then (.ok, s)
  else (.ok, (s.put POWER.VIDDIO 0 v).vidDrive 0)

/-! ### The power ladder (R659–R668) -/

/-- The number of the first point of R661 that keeps the device from state `t`. -/
def powerBar (s : State) (t : Nat) : Option Nat :=
  let eng := t ≥ 2 && (List.range 8).any fun e => (s.eng e).st = .testing
  let parked := fun x => s.g AXIS.CFG x = 0 ||
    (!s.b AXIS.ENABLE x && s.g PROF.BRKREQ x = 0 && (s.n PROF.BRKIN x = 0xFFFF || s.brakeOn x))
  if !((List.range 16).all fun i => s.stState i = 0) || !((List.range 8).all fun c => s.cvState c = 0) then some 1
  else if !((List.range 32).all fun m => !s.b MACH.ENABLE m) || s.partx.any (fun e => e.2.cen) then some 2
  else if !((List.range 16).all parked) then some 3
  else if !((List.range 4).all fun r => s.rState r != 4 && (t < 3 || [0, 3, 5].contains (s.rState r))) then some 4
  else if !s.stops.isEmpty then some 5
  else if s.pset.isSome || !s.defers.isEmpty || !s.ex.migs.isEmpty || eng then some 6
  else if t ≥ 4 && !((List.range 4).all fun u => [0, 1, 4].contains (s.trState u)) then some 7
  else none

/-- The size of the resume record in bytes: 12 for each member, as an item of R539, and 1 for each task (log
entry 13; R664 gives no layout). -/
def resumeSize (s : State) : Nat := 12 * s.objs.length + s.taskIds.length

/-- An exit to FLIGHT begins, with wake cause `c` (R666). -/
def beginExit (s : State) (c : Nat) : State :=
  { s.put POWER.WAKECAUSE 0 c with pow := { s.pow with exiting := true, moving := false, target := 0 } }

/-- An entry is requested. -/
def requestState (s : State) (t : Nat) : State := { s with pow := { s.pow with target := t, moving := true } }

/-- A write of PSREQ (R662). -/
def psreq (s : State) (v : Nat) : Status × State :=
  let here := s.n POWER.PSTATE
  if v = 0 && (here = 1 || here = 2) then (.ok, if s.pow.exiting then s else s.beginExit 13)
  else if v = here then (.ok, s)
  else if !s.stops.isEmpty then (.busyShutdown, s)
  else if (s.powerBar v).isSome then (.busy, s)
  else if v = 4 && 196608 < s.resumeSize then (.badValue, s)
  else (.pending, s.requestState v)

/-- An entry is abandoned (R677). -/
def abortEntry (s : State) (c : Nat) : State :=
  let s := { s with pow := { s.pow with moving := false, target := 0 } }.alarm 0x9203 0 [48] s.pow.target
  if s.flight then s else s.beginExit c

/-- POWER_ENTRY (R660, R663, R664): at the mark, or 1 ms after the response. -/
def powerEntry (s : State) : State :=
  if !s.pow.moving then s
  else if (s.powerBar s.pow.target).isSome then s.abortEntry 0
  else
    let t := s.pow.target
    let s := if 3 ≤ t then ((s.alarm 0x9201 0 [48] t).ledgerFlush 1032) else s
    let s := s.commitCounters
    let s := if t = 4 then { s with mram := { s.mram with resume := some (s.objs, s.taskIds) } }.mramWrite 705 else s
    let s := { s with pow := { s.pow with moving := false, spTarget := none, spFrom := 0, perchDue := false } }
    let s := (s.put POWER.PSTATE 0 t).put POWER.SPSTATE 0 0
    let s := if t = 5 then s else (s.vidDrive (if t = 1 then 0 else 3)).vengNear (if t = 1 || s.n POWER.VIDDIO = 255 then 800 else 600)
    (s.raise 48).exRefresh

/-- The bit of WAKEEN of a wake source; its cause is one more (R665, R678). -/
def wakeBit (w : WakeSrc) : Nat :=
  match w with
  | .spi p => p
  | .pin k => 2 + k
  | .dio => 6
  | .can p => 7 + p
  | .alarm => 11

/-- The source exists on the rung `t`, and its own condition holds (R665). -/
def wakeOk (s : State) (w : WakeSrc) (t : Nat) : Bool :=
  match w with
  | .spi _ => t ≤ 4
  | .pin _ => true
  | .dio => t ≤ 3 && (List.range 32).any fun n => s.b DIO.WAKE n && s.dioActive n
  | .can p => t ≤ 4 && s.b CAN.EN p
  | .alarm => s.n POWER.ALARM != 0

/-- WAKE (R665, R667, R677). -/
def wake (s : State) (w : WakeSrc) : State :=
  let k := wakeBit w
  let t := s.n POWER.PSTATE
  if !bit (s.n POWER.WAKEEN) k || !s.ready || !s.wakeOk w t then s
  else if s.pow.exiting then s.put POWER.WAKEPEND 0 (s.n POWER.WAKEPEND ||| 2 ^ k : Nat)
  else if s.pow.moving then s.abortEntry (k + 1)
  else if t = 0 then { s with pow := { s.pow with perchDue := false } }
  else if t = 5 then s.doReset 0x28
  else s.beginExit (k + 1)

/-- The setpoint on the return to FLIGHT (R666). -/
def setpointBack (s : State) : State :=
  let v := s.n POWER.SETPOINT
  let s := s.vidDrive 0
  if v = 1 && s.capWith (throughput 1) s.admittedList.length s.paired < s.charge then
    ((s.put POWER.SETPOINT 0 0).vengNear 800).alarm 0x9102 0 [48]
  else if v = 2 && (F32.ofInt 95).lt (s.f THERM.TJ) then ((s.put POWER.SETPOINT 0 0).vengNear 800).alarm 0x9101 0 [48]
  else if v = 0 then s.vengNear 800
  else s.setpointMove v

/-- What an exit from COCOON restores and wipes (R664, R666): `ms` have gone by on COCOON.MS. The members
have stood since the entry, as the resume record holds them. -/
def cocoonExit (s : State) (ms : Nat) : State :=
  let s := s.elapse (ms * 1000000)
  let s := s.put SYS.WBCOUNT 0 ((s.wb + ms * 1000000 / s.twNs) % 2 ^ 64 : Nat)
  let s := { s with tile := [], badTags := [], stores := [], sram := [], dups := [], alarms := [], axisx := [], machx := [], loopx := [], armx := [], convx := [],
                    cellx := [], ffx := [], tracex := [], tunes := [], ex := { s.ex with outs := [] } }
  let s := (List.range 16).foldl (fun s n => s.setRing n { s.ring n with head := 0, tail := 0 }) s
  let s := (List.range 4).foldl (fun s u => if s.trState u = 4 then s.put TRACE.STATE u 1 else s) s
  let s := (List.range 4).foldl (fun s p => if s.b CAN.EN p then (s.setCan p { s.canP p with first := true }).canTo p 1 else s) s
  let s := (List.range 16).foldl (fun s n => if 2 ≤ s.n FB.MODE n then ((s.fbMode n 0).2.fbMode n (s.n FB.MODE n)).2 else s) s
  let s := (List.range 16).foldl (fun s x =>
    if s.n AXIS.FBPOS x < 16 && 2 ≤ s.n FB.MODE (s.n AXIS.FBPOS x) then s.put PROF.HOMED x 0 else s) s
  let s := s.taskIds.foldl (fun s t =>
    let (m, _, i) := s.taskOwner t
    (s.setTask t { s.task t with st := 0, placing := true }).put m i 1) s
  s.exRefresh

/-- Channel `n`, ΣΔ input `k` and ring `r` start again: SSI in INIT, an input that ran in its first state, a ring that
was BLOCKING at LINK (R666). -/
def fbBack (s : State) (n : Nat) : State :=
  if s.n FB.MODE n = 1 then (((s.put FB.STATE n 1).put FB.SPEED n 0).put FB.SPEEDF n 0).setFbX n
    { s.fbX n with bad := 0, good := 0, still := 0, got := none, wait := false, todo := 0, lost := none } else s
def sdBack (s : State) (k : Nat) : State :=
  if s.g SD.STATE k = 2 then (s.put SD.STATE k 1).setSdX k { s.sdX k with bits := [], cnt := 0, run := 0 } else s
def ringBack (s : State) (r : Nat) : State :=
  if s.rState r = 3 then (s.ringTo r 1).setLink r { s.link r with lockA := false, lockB := false, enumOk := false, degr := false }
  else s

/-- The return to FLIGHT of the blocks that stood or were off (R349, R666). -/
def flightBack (s : State) (frm : Nat) : State :=
  let s := { s with pow := { s.pow with gaDue := true } }
  if frm < 2 then s
  else
    let s := (List.range 48).foldl sdBack ((List.range 16).foldl fbBack s)
    if frm < 3 then s
    else
      let s := (List.range 4).foldl ringBack s
      { s with tb := { s.tb with tapcal := false } }

/-- WAKE_EXIT_DONE (R666): the device is back in FLIGHT. After COCOON, `crcOk` tells of the resume record and
`ms` of COCOON.MS. -/
def wakeExitDone (s : State) (crcOk : Bool) (ms : Nat) : State :=
  let frm := s.n POWER.PSTATE
  if !s.pow.exiting then s
  else if frm = 4 && !crcOk then s.doReset 0x28
  else
    let s := if frm = 4 then s.cocoonExit ms else s
    let s := { s.put POWER.PSTATE 0 0 with pow := { s.pow with exiting := false } }
    let s := (s.raise 49).alarm 0x9201 0 [48] (256 * s.n POWER.WAKECAUSE)
    let s := (s.setpointBack.flightBack frm).exRefresh
    let s := if s.pow.lateTrip then s.alarm 0x8202 0 [39] else s
    let s := if s.pow.lateStop then s.alarm 0x8201 0 [39] else s
    { s with pow := { s.pow with lateTrip := false, lateStop := false } }

/-- PERCH_RETRY (R676): the request of the device itself, at the completion of the stop and each second. -/
def perchRetry (s : State) : State :=
  if !s.pow.perchDue || !s.flight || s.pow.moving then s
  else match s.powerBar 2 with
    | some k => s.alarm 0x9202 0 [48] k
    | none => s.requestState 2

/-- STOP_COMPLETE, and the PERCH request that follows a thermal stop (R470, R676). -/
def stopCompletePerch (s : State) : State :=
  let t := s.stopComplete
  if t.pow.perchDue && !s.pow.perchDue then t.perchRetry else t

/-! ### Temperature (R478, R669–R673) -/

/-- The throttle step becomes `k` (R670, R672). -/
def throttleTo (s : State) (k : Nat) : State :=
  let s := (s.put THERM.STEP 0 k).alarm 0x8302 0 [39, 50] k
  if k < 2 then s
  else (List.range 8).foldl (fun s j =>
    if s.n LEDGER.TDEC 0 j < s.n THERM.THRTDEC then s.put LEDGER.TDEC 0 (s.n THERM.THRTDEC) j else s) s

/-- The threshold of step `k`. -/
def thr (s : State) (k : Nat) : F32 := if k = 1 then s.f THERM.THR1 else if k = 2 then s.f THERM.THR2 else s.f THERM.THR3

/-- The thermal stops of R478 at a sample; in ROOST only their latches. -/
def thermalStops (s : State) (tj : F32) : State :=
  let roost := s.n POWER.PSTATE = 3
  let s := if (F32.ofInt (s.g THERM.STOPTJ)).le tj && !s.sto.thStop then
      let s := s.setSto fun q => { q with thStop := true }
      if roost then { s with pow := { s.pow with lateStop := true } } else (s.alarm 0x8201 0 [39]).stopDevice 1 0x80
    else s
  if (F32.ofInt 145).le tj && !s.sto.thTrip then
    let s := s.setSto fun q => { q with thTrip := true }
    if roost then { s with pow := { s.pow with lateTrip := true } } else (s.alarm 0x8202 0 [39]).stopDevice 0 0x81
  else s

/-- The samples in a row that lie THRHYS below each of the three thresholds, with one of `tj` (R670). -/
def coolSamples (s : State) (tj : F32) : List Nat :=
  [1, 2, 3].map fun k =>
    if tj.lt ((s.thr k).sub (s.f THERM.THRHYS)) then min 10000 (s.pow.cool.getD (k - 1) 0 + 1) else 0

/-- THERMAL_SAMPLE (R62, R478, R669, R670): one reading of the diode, in °C, before its correction. -/
def thermalSample (s : State) (reading : F32) : State :=
  if s.up.phase < 6 || 4 ≤ s.n POWER.PSTATE then s
  else
    let tj := reading.add (s.f ASSAY.TEMPOFF)
    let s := s.putF THERM.TJ 0 tj
    let s := if (s.f THERM.TJMAX).lt tj then s.putF THERM.TJMAX 0 tj else s
    let tw := s.f THERM.TWARN
    let s := if tw.le tj && !s.pow.warned then
        { s with pow := { s.pow with warned := true } }.alarm 0x8301 0 [39, 51]
      else if tj.le (tw.sub (F32.ofInt 5)) then { s with pow := { s.pow with warned := false } }
      else s
    let k := if (s.thr 3).le tj then 3 else if (s.thr 2).le tj then 2 else if (s.thr 1).le tj then 1 else 0
    let s := if s.n THERM.STEP < k then s.throttleTo k else s
    let s := if s.n POWER.SETPOINT = 2 && s.flight && (F32.ofInt 100).lt tj then (s.setpointMove 0).alarm 0x9101 0 [48] else s
    let cool := tj.lt (F32.ofInt (s.g THERM.STOPTJ - 10))
    let s := { s with pow := { s.pow with below10 := if cool then min 10000 (s.pow.below10 + 1) else 0, cool := s.coolSamples tj } }
    s.thermalStops tj

/-- THROTTLE_DOWN (R670): TJ has stayed THRHYS below the threshold of the step for 1 s. -/
def throttleDown (s : State) : State :=
  let k := s.n THERM.STEP
  if k = 0 || s.pow.cool.getD (k - 1) 0 < 10000 then s else s.throttleTo (k - 1)

/-- A write of STOP[64].TCLEAR = 1 (R478). -/
def tclear (s : State) : Status × State :=
  if !s.sto.thStop && !s.sto.thTrip then (.ok, s)
  else if s.pow.below10 < 10000 then (.faultActive, s)
  else (.ok, s.setSto fun q => { q with thStop := false, thTrip := false })

/-- PWR.STATUS and THERM.STATUS (R680). -/
def pwrStatus (s : State) : Nat :=
  s.n POWER.PSTATE + 8 * s.pow.target + 64 * b2n (s.pow.moving || s.pow.exiting) + 256 * s.n POWER.WAKECAUSE
def thermStatus (s : State) : Nat :=
  let tj := s.f THERM.TJ
  let code := ((tj.add (F32.ofInt 64)).nearest).toNat
  s.n THERM.STEP + 4 * b2n ((s.f THERM.TWARN).le tj) + 8 * b2n s.sto.thStop + 16 * b2n s.sto.thTrip + 32 * b2n s.pow.diodeCal
    + 65536 * min 255 code

end State
end Sys2Proof.Machine
end

