-- ==== Sys2Proof/Machine/Security.lean ====
section
/-! DEFINITION. Nonces, signatures, remote resets, firmware update, life-cycle changes and OTP (R614–R629,
R648), the stop matchers, and what Audit finds (R585, R586). A nonce is the number that its 16 bytes spell
least significant first, a signature the number that its 64 bytes spell most significant first, and a key
and a digest the numbers that their bytes spell least significant first. -/
namespace Sys2Proof.Machine
namespace State

/-! ### Nonces and signatures (R618, R619) -/

/-- A fresh nonce for holder `h`: 0, 1 the ports, 2–5 the CAN ports, 6 the debug port. -/
def drawNonce (s : State) (h : Nat) : Nat × State :=
  let k := s.sec.drawn
  ((Config.nonce k).toNat,
   { s with sec := { s.sec with drawn := k + 1, nonces := s.sec.nonces.put none h (some (k, s.tb.cycles)) } })

/-- The nonce that holder `h` has in force, while it is valid: 10 s of reference time. -/
def nonceOf (s : State) (h : Nat) : Option Nat :=
  match s.sec.nonces.find none h with
  | some (k, c) => if s.tb.cycles ≤ c + 4000000000 then some (Config.nonce k).toNat else none
  | none => none

/-- The nonce of holder `h` has been used. -/
def spend (s : State) (h : Nat) : State := { s with sec := { s.sec with nonces := s.sec.nonces.put none h none } }

/-- A request uses nonce `v` of holder `h` and signs `msg` under `key`; `must` tells whether the signature is
checked. Answers whether it passes. -/
def authorise (s : State) (h v : Nat) (msg : List Byte) (key sig : Nat) (must : Bool) : Bool × State :=
  if s.nonceOf h != some v then (false, s.alarm 0xA202 noInst [61] 0 0x20)
  else
    let s := s.spend h
    if must && !Config.ecdsaVerify key (Config.sha256 msg) sig then (false, s.alarm 0xA201 noInst [61] 0 0x20)
    else (true, s)

/-- UID and nonce, with which every authorisation begins. -/
def authHead (v : Nat) : List Byte := le 8 Config.uid.toNat ++ le 16 v

/-- AUPK is unprogrammed in BLANK or MINT: signatures under it are not checked. -/
def aupkFree (s : State) : Bool := s.life ≤ 1 && s.otpKey 4 = 0

/-- The authorisation of RESET (R618), for holder `h`. -/
def authReset (s : State) (h v sig : Nat) : Bool × State :=
  s.authorise h v (authHead v ++ [0, 6]) (s.otpKey 4) sig !s.aupkFree

/-! ### RESET and its execution (R535) -/

/-- The reset follows in 1 ms. -/
def resetRequest (s : State) (h v sig : Nat) : Status × State :=
  let (ok, s) := s.authReset h v sig
  if ok then (.ok, { s with up := { s.up with due := some 0x24 } }) else (.badValue, s)

/-- RESET_EXECUTE. -/
def resetExecute (s : State) : State := if s.up.due = some 0x24 then s.doReset 0x24 else s

/-! ### CAN remote reset (R648) -/

/-- The frame is a frame of the exchange of port `p`: RSTEN, RSTID, FD, `n` bytes at least, byte 0 `b`. -/
def rstFrame (s : State) (p : Nat) (f : CanRx) (n b : Nat) : Bool :=
  s.b CAN.RSTEN p && s.ready && bit f.flags 1 && bit f.flags 0 == bit (s.n CAN.RSTID p) 31 &&
    decide (f.id % 2 ^ 29 = s.n CAN.RSTID p % 2 ^ 29) && decide (n ≤ f.data.length) && (f.data.headD 0).toNat == b

/-- A frame of the device in the exchange. -/
def rstSend (s : State) (p : Nat) (data : List Byte) : State :=
  let id := s.n CAN.RSTID p
  (s.canSend { port := p, flags := 2 + 8 + b2n (bit id 31), id := (id % 2 ^ 29 + 1) % 2 ^ 29, data := data }).1

/-- CAN_RESET_REQUEST: step 1; the device answers with a nonce. -/
def canResetRequest (s : State) (p : Nat) (f : CanRx) : State :=
  if !s.rstFrame p f 1 1 || s.b CAN.RESTR p then s
  else
    let (v, s) := s.drawNonce (2 + p)
    (s.setCan p { s.canP p with rstep := 2, rsig := [] }).rstSend p ([2] ++ zeros 7 ++ le 16 v)

/-- CAN_RESET_SIGNATURE: steps 3 and 4, in this order; then the check and frame 5. -/
def canResetSignature (s : State) (p : Nat) (f : CanRx) : State :=
  let x := s.canP p
  if x.rstep = 2 && s.rstFrame p f 48 3 then s.setCan p { x with rstep := 3, rsig := slice 16 32 f.data }
  else if x.rstep = 3 && s.rstFrame p f 48 4 then
    let sig := unle (x.rsig ++ slice 16 32 f.data).reverse
    let s := s.setCan p { x with rstep := 0, rsig := [] }
    let (ok, s) := s.authReset (2 + p) ((s.nonceOf (2 + p)).getD (2 ^ 128)) sig
    let s := if ok then s.setCan p { s.canP p with rstep := 5 } else s
    s.rstSend p ([5, if ok then 0 else 7] ++ zeros 6)
  else s

/-- CAN_REMOTE_RESET: 1 ms after frame 5, or 10 ms after the check. -/
def canRemoteReset (s : State) (p : Nat) : State := if (s.canP p).rstep = 5 then s.doReset 0x25 else s

/-! ### Firmware update (R622) -/

/-- FW_BEGIN. A previous incomplete image is discarded (R546). -/
def fwBegin (s : State) (i len ver : Nat) : Status × State :=
  if 1 < i then (.badValue, s)
  else if s.n SEC.FWSLOT = i then (.busy, s)
  else if 1048512 < len || len < 128 then (.badValue, s)
  else
    let s := (List.range 2).foldl (fun s j => if (s.slot j).stat = 1 then s.setSlot j {} else s) s
    let s := s.setSlot i { stat := 1, length := len, version := ver }
    (.ok, { s with sec := { s.sec with fw := some (i, len, ver) } }.mramWrite (256 * i))

/-- FW_DATA at the next expected offset. -/
def fwData (s : State) (off : Nat) (data : List Byte) : Status × State :=
  match s.sec.fw with
  | none => (.badValue, s)
  | some (i, _, _) =>
    let q := s.slot i
    if off != q.bytes.length || 1048512 < off + data.length then (.badValue, s)
    else (.ok, (s.setSlot i { q with bytes := q.bytes ++ data }).mramWrite (256 * i + off / 4096))

/-- FW_END as it completes: VALID, or REJECTED with BAD_VALUE. -/
def fwFinish (s : State) (digest sig : Nat) : Status × State × List Byte :=
  match s.sec.fw with
  | none => (.badValue, s, [])
  | some (i, len, ver) =>
    let q := s.slot i
    let l := q.bytes
    let ok := l.length = len && imgField l 4 4 = ver && imgField l 12 4 = len && (Config.sha256 l).toNat = digest &&
      Config.ecdsaVerify s.fwKey (Config.sha256 l) sig && s.otp.arb ≤ imgField l 8 1
    let s := { s with sec := { s.sec with fw := none } }
    if ok then
      let s := (s.setSlot i { q with stat := 2, sig := sig }).ledger 0xF005 0xFFFF i
      (.ok, s.mramWrite (256 * i + 255), le 1 i ++ zeros 3 ++ le 4 ver)
    else (.badValue, s.setSlot i { q with stat := 3 }, [])

/-! ### Life-cycle (R623–R626) -/

/-- The transition to `t` is one that R623 allows from the present state. -/
def lifeAllowed (s : State) (t : Nat) : Bool :=
  match s.life, t with
  | 0, 1 => true
  | 1, 2 => true
  | 2, 3 => s.otp.svc ≤ 126
  | 3, 2 => true
  | 2, 4 => true
  | 3, 4 => true
  | 4, 5 => true
  | 0, 5 => true
  | 1, 5 => true
  | 2, 5 => true
  | 3, 5 => true
  | _, _ => false

/-- The signature of LIFE_REQ is checked, and under which key. -/
def lifeKey (s : State) (t : Nat) : Bool × Nat :=
  if s.life = 0 && t = 1 then (false, 0)
  else if s.life = 4 then (true, Config.nrpk)
  else (!s.aupkFree, s.otpKey 4)

/-- What R624 finds busy. -/
def lifeBusy (s : State) : Bool :=
  (List.range 16).any (fun i => s.b STAGE.ENABLE i) || (List.range 8).any (fun c => s.b CONV.ENABLE c) ||
    (List.range 16).any (fun x => s.b AXIS.ENABLE x) || (List.range 32).any (fun m => s.b MACH.ENABLE m) ||
    (List.range 4).any (fun r => s.rState r = 4) || s.partx.any (fun e => e.2.cen) || !s.stops.isEmpty

/-- LIFE_REQ as the request is checked; the change follows its deferred response. -/
def lifeRequest (s : State) (h t v sig : Nat) : Status × State :=
  if !s.lifeAllowed t then (.deniedLifecycle, s)
  else if s.lifeBusy then (.busy, s)
  else if s.life = 1 && t = 2 && (s.otp.ds = 0 || s.otpKey 1 = 0 || s.otpKey 3 = 0 || s.otpKey 4 = 0) then (.badValue, s)
  else
    let (must, key) := s.lifeKey t
    let (ok, s) := s.authorise h v (authHead v ++ le 1 t ++ le 1 s.life) key sig must
    (if ok then .pending else .badValue, s)

/-- The fuse of a change to state `t`. -/
def burnLife (o : Otp) (t : Nat) : Otp :=
  match t with
  | 1 => { o with mint := true }
  | 2 => if o.field then { o with svc := o.svc + 1 } else { o with field := true }
  | 3 => { o with svc := o.svc + 1 }
  | 4 => { o with ret := true }
  | _ => { o with void := true }

/-- LIFE_CHANGE: the LIFE record and a SEAL pair, the fuse, the wipe, the companion fuse and the reset. -/
def lifeChange (s : State) : State :=
  match s.sec.lifeTo with
  | none => s
  | some t =>
    let s := (((s.ledger 0xF004 0xFFFF t).ledgerFlush 1032).sealPair)
    let s := { s with otp := burnLife s.otp t }.lifeWipe t
    { s with otp := burnWiped s.otp }.doReset 0x26

/-! ### OTP (R615, R616, R622) -/

/-- The value in KEYBUF. -/
def keybuf (s : State) (words : Nat) : Nat :=
  (List.range words).foldl (fun k j => k + s.n SEC.KEYBUF 0 j * 2 ^ (32 * j)) 0

/-- The value that BURN would burn into the field of KEYSEL, none where it is refused. -/
def burnValue (s : State) : Option Nat :=
  let k := s.n SEC.KEYSEL
  if 1 ≤ k && k ≤ 4 then
    let v := s.keybuf 16
    if s.life = 1 && s.otpKey k = 0 && crc32c (le 64 v) = s.n SEC.KEYCRC && Config.onCurve v then some v else none
  else if 16 ≤ k && k ≤ 20 then
    let v := s.keybuf 1
    if [0, 1, 3].contains s.life && crc32c (le 4 v) = s.n SEC.KEYCRC then some v else none
  else none

/-- A write of BURN = 1. -/
def keyBurn (s : State) : Status × State :=
  if s.sec.burning.isSome then (.busy, s)
  else match s.burnValue with
    | none => (.badValue, s)
    | some v => (.pending, { s with sec := { s.sec with burning := some (s.n SEC.KEYSEL, v) } })

/-- Field `k` of the OTP takes the bits of `v`. -/
def burnField (o : Otp) (k v : Nat) : Otp :=
  match k with
  | 1 => { o with fwpk0 := o.fwpk0 ||| v }
  | 2 => { o with fwpk1 := o.fwpk1 ||| v }
  | 3 => { o with pspk := o.pspk ||| v }
  | 4 => { o with aupk := o.aupk ||| v }
  | _ => { o with opt := o.opt.put 0 (k - 16) (o.opt.find 0 (k - 16) ||| BitVec.ofNat 32 v) }

/-- OTP_BURN_VERIFIED: the field shows, or the burn has failed; which of its bits have then been burnt is
left open. -/
def otpBurnVerified (s : State) (ok : Bool) : State :=
  match s.sec.burning with
  | none => s
  | some (k, v) =>
    let s := { s with sec := { s.sec with burning := none } }
    if ok then { s with otp := burnField s.otp k v }.otpShow
    else
      let (free, s) := s.takeInt
      { s with otp := burnField s.otp k (v &&& free.toNat) }.alarm 0xA303 noInst [61] 0 0x20

/-- A write of DSGEN = 1. -/
def dsgen (s : State) : Status × State :=
  if s.life != 1 then (.deniedLifecycle, s)
  else if s.otp.ds != 0 then (.badValue, s)
  else
    let k := s.sec.drawn
    (.ok, { s with sec := { s.sec with drawn := k + 1 }, otp := { s.otp with ds := (Config.entropy k).toNat } }.otpShow)

/-- A write of ARBCOMMIT = 1. ARB is burnt in FIELD and SERVICE (R614). -/
def arbcommit (s : State) : Status × State :=
  let i := s.n SEC.FWSLOT
  if 1 < i then (.badValue, s)
  else
    let a := min 64 (imgField (s.slot i).bytes 8 1)
    if a ≤ s.otp.arb then (.ok, s)
    else if s.life != 2 && s.life != 3 then (.deniedLifecycle, s)
    else (.ok, { s with otp := { s.otp with arb := a } }.otpShow)

/-- A write of FWREVOKE = 1. -/
def fwrevoke (s : State) : Status × State :=
  if s.life != 3 then (.deniedLifecycle, s)
  else if s.otpKey 2 = 0 then (.badValue, s)
  else (.ok, { s with otp := { s.otp with fwrev := true } }.otpShow)

/-- DEBUG_UNLOCK (R629): in SERVICE, a signature over the debug nonce. -/
def debugUnlock (s : State) (sig : Nat) : State :=
  if s.life != 3 || !s.ready then s
  else
    let v := (s.nonceOf 6).getD (2 ^ 128)
    let (ok, s) := s.authorise 6 v (authHead v ++ [0x44, 0x42, 0x47]) (s.otpKey 4) sig true
    if ok then { s with sec := { s.sec with debug := true } }.alarm 0xA601 noInst [61] 0 0x20
    else { s with sec := { s.sec with dbgFail := s.sec.dbgFail + 1 } }

/-! ### The stop matchers (R458, R571, R572) -/

/-- STOP_MATCH. -/
def stopMatch (s : State) (p : Nat) (f : CanRx) : State :=
  if !s.smMatches p f then s
  else (s.setCan p { s.canP p with hits := ((s.canP p).hits + 1) % 65536 }).srcRequest (18 + p)

/-! ### Engine supervision and Audit (R91, R97, R585, R586) -/

/-- TASK_OVERRUN (R91): the task has not completed 2 T_w after its dispatch. -/
def taskOverrun (s : State) (t : Nat) : State :=
  let x := s.task t
  if x.st < 2 || 5 < x.st || 8 ≤ x.engA then s else s.engineFault x.engA 3

/-- The cell ring of a cell. -/
def ringOfCell (s : State) (j : Nat) : Option Nat := (s.convOfArm (j / 64)).map fun c => s.n CONV.RING c

/-- An MRAM record for which no good copy remains (R590): 0 RETIRED mask, 1 the record of ring `r`, 2 its cell
retirements, 3 the ΣΔ offsets, 4 the diode correction, 5 the FLIGHT-time and boot counters. -/
def mramRecordLost (s : State) (which r : Nat) : State :=
  let s := (s.alarm 0x7302 which [38] r 0x1E).inc RESERVE.RECLOST
  let m := s.mram
  match which with
  | 0 => { s with mram := { m with retiredLost := true } }
  | 1 => { s with mram := { m with rings := m.rings.del r } }
  | 2 => { s with mram := { m with cellRetired := m.cellRetired.filter fun e => s.ringOfCell e.1 != some r } }
  | 3 => { s with mram := { m with sdOffs := [] } }
  | 4 => { s with mram := { m with tempOff := 0 } }
  | _ => { s with mram := { m with flight := 0, boots := 0 } }

/-- Free tile `k` fails its tag: it is rewritten as zeros (R586). A tile of a ring is none. -/
def freeTileBad (s : State) (k : Nat) : State :=
  if (s.ringOf (256 * k)).isSome then s else (s.setBytes (256 * k) (zeros 256)).inc AUDIT.FREEFIX

/-- AUDIT_SCRUB: paused while throttling acts (R671), and on the rungs of R668. -/
def auditScrub (s : State) (f : AuditFind) : State :=
  let here := s.n POWER.PSTATE
  let rung := (match f with
    | .cocoonByte _ => 5
    | .localTile _ => 1
    | _ => 2)
  if s.n THERM.STEP ≥ 1 || !s.ready || rung < here then s
  else match f with
    | .clean pass => if pass then s.incWrap AUDIT.PASSES else s
    | .freeTile k => s.freeTileBad k.val
    | .placedTile b t m c => s.placedTileBad b t m c
    | .codeTile b k m => s.codeTileBad b k m
    | .codeRewritten k => s.codeRewritten k
    | .localTile e => s.localTileBad e
    | .sramWord ok => if ok then s.inc AUDIT.SRAMCOR else s.lockstepMismatch
    | .mramWord k ok => if ok then (s.inc AUDIT.MRAMCOR).mramWrite k else s
    | .mramRecord w r => s.mramRecordLost w r
    | .cocoonByte a => s.alarm 0x7401 noInst [38] a 0x1C

end State
end Sys2Proof.Machine
end

