-- ==== Sys2Proof/Machine/Members.lean ====
section
/-! DEFINITION. The members of the object dictionary as a host reaches them (R522 points 5 to 8, R524–R529,
R532, R742): which of them apply, their blocks and classes, what they read as, and the ranges and state rules
that a write meets. -/
namespace Sys2Proof.Machine


/-- The block of R18 that a member of instance `i` of its row belongs to (R727, R742). -/
def blockOf (m : Mem) (i : Nat) : Nat :=
  if m.is SYS.REFLOSSCNT then 8
  else if m.is POWER.VENG then 5
  else if m.is POWER.ALARM || m.is POWER.WKPOL then 25
  else if m.is AUDIT.SRAMCOR then 4
  else if m.is AUDIT.MRAMCOR then 23
  else match m.cls with
    | 2 => 29
    | 3 => 26
    | 4 => 6
    | 5 | 6 | 16 | 17 | 18 | 19 | 20 => 5
    | 7 => if m.lo = 0 then (if m.num ≤ 20 && m.num ≥ 3 then 14 else if 28 ≤ m.num && m.num ≤ 36 then 17 else 15) else 14
    | 8 => 15
    | 9 | 10 | 11 => 18
    | 12 => if m.lo = 20 then 10 else 9
    | 13 => 11
    | 14 => 12
    | 15 => 13
    | 21 => 21
    | 22 | 23 => 20
    | 24 => if m.lo + i < 16 then 2 else 19
    | 25 | 30 => 23
    | 26 => 22
    | 27 => 6
    | 28 => 7
    | 31 => 27
    | 32 => if m.among [SEC.KEYSEL, SEC.KEYBUF, SEC.KEYCRC, SEC.BURN, SEC.DSGEN, SEC.KEYSTAT, SEC.ARB, SEC.ARBCOMMIT,
        SEC.FWREVOKE] then 24 else 0
    | _ => 0

/-- The members of an enabled feedback channel, and of an enabled ΣΔ input, that take a write, in force from the next
mark (R144, R170). -/
def atMark : List Mem :=
  [FB.FILT, FB.MINSP, FB.MAXACT, FB.EDGEMAX, FB.LOSSN, FB.FRZN, FB.FRZSPD, FB.FRZTRQ, FB.TWIN, FB.TSS, FB.VTAU, FB.IDXMODE,
   FB.IDXGATE, FB.IDXPOS, FB.IDXTOL, FB.IDXESC, SD.RUNMAX, SD.CLIPD, SD.CLIPN, SD.GCOR, SD.MT, SD.TRIPHI, SD.TRIPLO,
   SD.TRIPCNT, SD.TRIPIN, SD.LOSSTRIP]

namespace State

/-! ### Addresses (R213, R237, R342, R446, R524–R526) -/

/-- The class has the instance. -/
def hasInst (cls i : Nat) : Bool :=
  (classRows cls).any (fun m => decide (m.lo ≤ i) && decide (i < m.lo + m.n)) &&
    !(decide (cls = 21) && decide (22 ≤ i) && decide (i < 32))

/-- The member applies to the instance: the loop is of its kind (R213, R237), the entry is below N (R216) or K
(R342), and the cell below NCELL (R446). -/
def applies (s : State) (m : Mem) (i x : Nat) : Bool :=
  if m.cls = 16 then
    if m.num ≤ 3 then true
    else if 20 ≤ m.num then s.tunable i
    else if 32 ≤ i && i % 4 = 3 then decide (16 ≤ m.num)
    else if 16 ≤ m.num then false
    else i < 32 || (m.num != 6 && m.num != 7)
  else if m.is FF.ENTRY then decide (x < s.n FF.N i)
  else if m.is PAT.ENTRY then decide (x % 8 < s.n PAT.K i)
  else if m.cls = 11 then decide (i % 64 < s.n ARM.NCELL (i / 64))
  else true

/-- The member at an object address, where it exists and applies. -/
def resolve (s : State) (addr : Nat) : Option (Mem × Nat × Nat) :=
  match lookup addr with
  | some (m, i, x) => if s.applies m i x then some (m, i, x) else none
  | none => none

/-- Member 0x000 of an instance that exists (R526). -/
def isWhole (addr : Nat) : Bool := addr % 4096 = 0 && hasInst (addr / 16777216) (addr / 4096 % 4096)

/-- The block of an instance as a whole: that of the first row that holds it. -/
def wholeBlock (addr : Nat) : Nat :=
  let i := addr / 4096 % 4096
  match (classRows (addr / 16777216)).find? fun m => decide (m.lo ≤ i) && decide (i < m.lo + m.n) with
  | some m => blockOf { m with num := 0, name := "" } (i - m.lo)
  | none => 0

/-- The instance is in a fault policy or a fault state (R526). -/
def inFault (s : State) (cls i : Nat) : Bool :=
  match cls with
  | 6 => (s.machX i).policy
  | 7 => i < 16 && (s.stState i = 5 || s.stState i = 6)
  | 8 => (s.leg i).faulted
  | 9 => s.cvState i = 7 || s.cvState i = 8
  | 11 => s.g CELL.STATE i = 4
  | 12 => i < 16 && (s.g FB.STATE i = 4 || s.g FB.STATE i = 5)
  | 13 => i < 48 && s.g SD.STATE i = 3
  | 14 => s.g AIN.STATE i = 4
  | 15 => s.g DIO.VALID i = 0
  | 22 => s.cState i = 4
  | 24 => 16 ≤ i && i < 20 && s.rState (i - 16) = 5
  | _ => false

/-- The axis of an instance; 255 for none. -/
def axisOf (s : State) (cls i : Nat) : Nat :=
  match cls with
  | 5 | 18 | 19 | 20 => i
  | 6 => s.axisOfMach i
  | 7 => if i < 16 then s.axisOfStage i else 255
  | 8 => s.axisOfStage (i / 3)
  | 9 => s.axisOfConv i
  | 10 => match s.convOfArm i with | some c => s.axisOfConv c | none => 255
  | 16 => s.axisOfLoop i
  | 21 => if i < 16 then i else 255
  | _ => 255

/-- A stop acts on the instance (R526). -/
def stopActs (s : State) (cls i : Nat) : Bool :=
  let x := s.axisOf cls i
  (x < 16 && s.stopOver x) || (cls = 7 && i < 16 && s.stopOverStage i)

/-- The 8 bytes of member 0x000 (R526). -/
def whole (s : State) (cls i : Nat) : List Byte :=
  let rows := (classRows cls).filter fun m => decide (m.lo ≤ i) && decide (i < m.lo + m.n)
  let cfg := match rows.find? fun m => m.num == 2 with | some m => s.n m (i - m.lo) | none => 255
  let en := match rows.find? fun m => m.num == 1 with | some m => b2n (s.b m (i - m.lo)) | none => 255
  le 1 cfg ++ le 1 en ++ le 1 (b2n (s.inFault cls i)) ++ le 1 (b2n (s.stopActs cls i)) ++ le 2 (s.newestOf cls i) ++ [0, 0]

/-! ### Reading -/

/-- What element `x` of a member reads as. -/
def readMem (s : State) (m : Mem) (i x : Nat) : Int :=
  if m.acc = .wo || m.acc = .wos then 0
  else if m.is LEG.STAT then (legStat (s.leg i) (s.shownRequest i false) (s.shownRequest i true) : Nat)
  else if m.is PAT.ROWAMP then (s.rowAmp i (s.b PAT.SRC i) x).toBits
  else if m.is STAGE.TC then (tcOf (s.n STAGE.CARN i) s.twNs).toBits
  else if m.is CAN.NBR then
    (F32.ofFrac 80000000 (s.n CAN.NBRP i * (1 + s.n CAN.NTSEG1 i + s.n CAN.NTSEG2 i))).toBits
  else if m.is CAN.DBR then
    (F32.ofFrac 80000000 (s.n CAN.DBRP i * (1 + s.n CAN.DTSEG1 i + s.n CAN.DTSEG2 i))).toBits
  else if m.is EXCH.PLACE then (unle (s.placeBytes x) : Nat)
  else if m.is AUDIT.PASSMS then (F32.ofFrac 32768 (s.n AUDIT.PACE)).toBits
  else if m.is SRC.ACTION && i < 2 then 1
  else if m.is SEC.KEYBUF then
    let k := s.n SEC.KEYSEL
    if 1 ≤ k && k ≤ 4 && s.otpKey k != 0 then (s.otpKey k / 2 ^ (32 * x) % 2 ^ 32 : Nat) else s.g m i x
  else s.shown m i x

/-- The bytes of a value of a type. -/
def valBytes (t : Ty) (v : Int) : List Byte := leInt t.bytes v

/-! ### Ranges -/

/-- The binary32 value is `k ÷ d` for a whole `k`, a multiple of `st`, between `lo` and `hi` times `st`. -/
def stepF (v : F32) (d st : Nat) (lo hi : Int) : Bool :=
  let w := v.floorMul d
  decide (w % (st : Int) = 0) && v.eqv (F32.ofFrac w d) && decide (lo * st ≤ w) && decide (w ≤ hi * st)

/-- The source number is one that srcT or srcB lists, `k` being its last plain number. -/
def srcOk (k : Int) (v : Int) : Bool := decide (v ≤ k) || (decide (0x100 ≤ v) && decide (v ≤ 0x1FF)) || decide (v = 0xFFFF)

/-- The value lies in the member's own range (R522 point 7). -/
def rangeOk (s : State) (m : Mem) (i : Nat) (v : Int) : Bool :=
  let f := F32.ofBits v
  let b := fun (l h : Int) => decide (l ≤ v) && decide (v ≤ h)
  let fb := fun (l h : Int) => (F32.ofBits l).le f && f.le (F32.ofBits h)
  match m.rng with
  | .any => true
  | .int lo hi => b lo hi
  | .intOr lo hi x => b lo hi || decide (v = x)
  | .step lo hi st => b lo hi && decide ((v - lo) % st = 0)
  | .oneOf l => l.contains v
  | .nz => decide (v ≠ 0)
  | .zeroOr lo hi => decide (v = 0) || b lo hi
  | .twTo hi => decide ((s.twNs : Int) ≤ v * 1000) && decide (v ≤ hi)
  | .zeroOrTwTo hi => decide (v = 0) || (decide ((s.twNs : Int) ≤ v * 1000) && decide (v ≤ hi))
  | .belowTw => decide (v < (s.twCyc : Int))
  | .belowCpr => decide (v < s.g FB.CPR i)
  | .srcT => srcOk 7 v
  | .srcB => srcOk 31 v
  | .canId => bits v.toNat 29 2 = 0
  | .clr => if m.ty = .f32 then f.eqv F32.zero else decide (v = 0)
  | .flt lo hi => fb lo hi
  | .fltGe0 => F32.zero.le f
  | .fltGt0 => F32.zero.lt f
  | .fltNz => !f.nan? && !f.eqv F32.zero
  | .fltOr0 lo hi => f.eqv F32.zero || fb lo hi
  | .fltMul25 lo hi => stepF f 2 5 lo hi
  | .fltQ lo hi => stepF f 4 1 lo hi

/-- Two members of one object in their order, one of them taking the value `v`; `eq` allows them equal. -/
def pairOk (s : State) (m : Mem) (i : Nat) (v : Int) (lo hi : Mem) (eq : Bool) : Bool :=
  let val := fun (q : Mem) => if m.is q then F32.ofBits v else F32.ofBits (s.shown q i 0)
  if eq then (val lo).le (val hi) else (val lo).lt (val hi)

/-- The ranges that bind a member to its neighbours (log entry 40). -/
def crossOk (s : State) (m : Mem) (i x : Nat) (v : Int) : Bool :=
  let p := fun (lo hi : Mem) (eq : Bool) => if m.is lo || m.is hi then s.pairOk m i v lo hi eq else true
  let f := F32.ofBits v
  match m.cls with
  | 5 =>
    if m.is AXIS.SPIDX then
      match s.n AXIS.SPSRC i with
      | 2 => decide (v < 8)
      | 3 => decide (v < 16)
      | 4 => decide (v < 256)
      | _ => true
    else p AXIS.SPMIN AXIS.SPMAX false
  | 6 => p MACH.IDMIN MACH.IDREF true && p MACH.THAMB MACH.THMAX false && !(m.is MACH.ANGSRC && v = 1 && s.b MACH.KIND i)
  | 7 =>
    if m.lo != 0 then true
    else if m.is STAGE.CARN then carnOk v.toNat s.twNs && carnOk v.toNat s.twFit
    else if m.is STAGE.LADEN then s.ladOk i v.toNat
    else p STAGE.PSWLO STAGE.PSWHI false
  | 9 =>
    if m.is CONV.VDCMAX then (s.f CONV.VDCNOM i).le f
    else if m.is CONV.VCLIMP then (s.f CONV.VCNOM i).le f
    else true
  | 12 => if m.is FB.FBKCH then decide (v ≠ i) else true
  | 13 => p SD.TRIPLO SD.TRIPHI false
  | 14 =>
    let sum := (List.range 8).foldl (fun k n =>
      let per := if m.is AIN.PERIOD && n = i then v.toNat else s.n AIN.PERIOD n
      let avg := if m.is AIN.AVG && n = i then v.toNat else s.n AIN.AVG n
      if per = 0 then k else k + avg) 0
    p AIN.LOLIM AIN.HILIM false && (!(m.is AIN.PERIOD || m.is AIN.AVG) || sum ≤ s.twFit / 500)
  | 18 =>
    if m.is PROF.PMIN then decide (v < s.g PROF.PMAX i)
    else if m.is PROF.PMAX then decide (s.g PROF.PMIN i < v) else true
  | 20 => p GIVE.GLREL GIVE.GLTRIG false && (!m.is GIVE.GTPAY || f.le (s.f GIVE.GTMAX i))
  | 21 =>
    if m.lo = 16 then !(i < 2 && m.num ≤ 6) && !(i = 0 && m.is SRC.COUNT)
    else if m.is STOP.MONDEC then f.le (s.f STOP.STOPDEC i)
    else p STOP.RTVON STOP.RTVREF false && p STOP.RTVREF STOP.RTVOFF true && (!m.is STOP.RTVOFF || f.le F32.one)
  | 22 => !(m.is CAN.RSTEN && v = 1 && s.g CAN.FDEN i = 0)
  | 23 =>
    if m.is PART.PHASE then decide (v = 0) || decide (v < s.g PART.PERIOD i)
    else if m.is PART.TXLEN then (canLens ++ fdLens).contains v.toNat
    else if m.is PART.TXFLAGS then !(bit v.toNat 2 && s.g PART.KIND i != 0)
    else if m.is PART.TXSRC then v = 0 || (match s.resolve v.toNat with | some (q, _, _) => q.ty != .o16 | none => false)
    else true
  | 24 => if m.is RING.SOFF then decide (-(s.twNs : Int) ≤ 2 * v) && decide (v ≤ (262 + 4 * s.g RING.EXPN i) * 2 - 500)
      else true
  | 25 =>
    if m.is LEDGER.TPER then
      let ts := ((List.range 8).map fun k => if k = x then v.toNat else s.n LEDGER.TPER 0 k).filter (· != 0)
      let all := ts.foldl (· * ·) 1
      decide (ts.foldl (fun k t => k + all / t) 0 ≤ all)
    else true
  | 26 =>
    if m.is TRACE.PRE then decide (v < s.g TRACE.DEPTH i)
    else if m.is TRACE.TRIGCH then decide (v < s.g TRACE.NCH i)
    else p TRACE.TRIGLO TRACE.TRIGHI false
  | 31 =>
    p THERM.THR1 THERM.THR2 false && p THERM.THR2 THERM.THR3 false &&
      (if m.is THERM.THR3 then f.lt (F32.ofInt (s.g THERM.STOPTJ))
       else if m.is THERM.STOPTJ then (s.f THERM.THR3).lt (F32.ofInt v) else true)
  | _ => true

/-! ### Placement of an owner's tasks (R67–R69, R528) -/

/-- Machine `m` is driven by a converter or by a CAN remote drive: it has no task of its own any more (R67). -/
def ownTask (s : State) (m : Nat) : State :=
  if m < 32 && ((s.convOfMach m).isSome || s.remote? m) && !s.b MACH.ENABLE m && ((s.task m).st != 0 || (s.task m).placing)
  then (s.removeTask m).toBalance.exRefresh else s

/-- The CFG member of class `cls`. -/
def cfgMem (cls : Nat) : Mem := if cls = 5 then AXIS.CFG else if cls = 6 then MACH.CFG else CONV.CFG

/-- The groups of tasks that a commit of the object would place: those without an entry. -/
def cfgGroups (s : State) (cls i : Nat) : List (List Nat) :=
  ((s.ownerGroups cls i).map fun q => q.filter fun t => (s.task t).st = 0 && !(s.task t).placing).filter fun q => !q.isEmpty

/-- A converter takes the tasks of its configuration: tasks of arms that an earlier commit placed and this one no longer
names go, and so does the task of the machine that it drives (R67, R68). -/
def cfgOwned (s : State) (cls i : Nat) : State :=
  if cls != 9 then s else
    let now := (s.ownerGroups 9 i).flatten
    let s := ((s.ownerTasks 9 i).filter fun t => !now.contains t).foldl State.removeTask s
    let s := now.foldl (fun s t => s.setTask t { s.task t with conv := i }) s
    s.ownTask (s.n CONV.MACH i)

/-- CFG after a commit: 1 while a task of the object is being placed, else 2. -/
def cfgDone (s : State) (cls i : Nat) : State :=
  s.put (cfgMem cls) i (if (s.ownerTasks cls i).any fun t => (s.task t).placing then 1 else 2)

/-- A commit of the objects `os`, as a whole (R69): their tasks are placed together. -/
def cfgCommitAll (s : State) (os : List (Nat × Nat)) : Option State :=
  let s' := os.foldl (fun s o => s.put (cfgMem o.1) o.2 1) s
  match s'.placeGroups (os.flatMap fun o => s'.cfgGroups o.1 o.2) with
  | none => none
  | some t =>
    let t := os.foldl (fun s o => s.cfgOwned o.1 o.2) t
    some ((os.foldl (fun s o => s.cfgDone o.1 o.2) t).rewriteMaps.exRefresh)

/-- A write that calls for another outer task of the configured axis `x` has it placed with its group (R175); `t` is the
state after the write, and the answer is none where the task is not admitted (R75). -/
def retask (s : State) (x : Nat) (t : State) : Option State :=
  if 16 ≤ x || s.g AXIS.CFG x = 0 || (t.cfgGroups 5 x).isEmpty then some t else t.cfgCommitAll [(5, x)]

/-- OBSBW of loop `i` has been written (R175). -/
def obsWrite (s : State) (i : Nat) (v : Int) : State :=
  let a := (i - 32) / 4
  { s.put LOOP.OBSBW i v with ex := { s.ex with obsw := if s.ex.obsw.contains a then s.ex.obsw else s.ex.obsw ++ [a] } }

/-- The tables that `t` binds to axis `x` are more than the tiles of R75 can take: those of an engine that holds the
lookup task, or those of the placement area. -/
def ffBeyond (s t : State) (x : Nat) : Bool :=
  let k := 76 + 6 * x
  let q := s.task k
  let more := t.stateTiles k - s.stateTiles k
  x < 16 && (q.st != 0 || q.placing) &&
    (27136 < t.homeTiles [] || [q.engA, q.engB, q.engD].any fun e => e < 8 && 480 < s.tilesOn e + more)

/-! ### State rules (R522 point 8) -/

/-- Enables that the test override of R649 refuses: stages, cell rings, CAN ports, ΣΔ clocks, feedback
channels and emulation outputs. -/
def overrideEnable (m : Mem) (v : Int) : Bool :=
  decide (v ≠ 0) && m.among [STAGE.ENABLE, STAGE.DIAG, RING.EN, RING.RUN, CAN.EN, SDCLK.ENABLE, FB.MODE, EO.ENABLE]

/-- Enables that HOVER and PERCH refuse (R677). -/
def flightEnable (m : Mem) (v : Int) : Bool :=
  decide (v ≠ 0) && m.among [AXIS.ENABLE, MACH.ENABLE, STAGE.ENABLE, STAGE.DIAG, CONV.ENABLE, RING.EN, RING.RUN]

/-- Input `k` serves an enabled machine or a converter that is not OFF (R162). -/
def sdInUse (s : State) (k : Nat) : Bool :=
  (List.range 32).any (fun m => s.b MACH.ENABLE m &&
    (s.g MACH.SDU m == k || s.g MACH.SDV m == k || s.g MACH.SDW m == k || s.g MACH.SDDC m == k)) ||
  s.convs.any fun c => s.cvState c != 0 && (s.g CONV.SDDC c == k || (s.convArms c).any fun a => s.g ARM.SDI a == k)

/-- A Model member of an enabled owner moves by more than 25 % (R201). -/
def modelJump (s : State) (m : Mem) (i : Nat) (v : Int) : Bool :=
  let on := if m.cls = 6 then s.b MACH.ENABLE i else s.b AXIS.ENABLE ((i - 32) / 4)
  on && !((F32.ofBits v).sub (F32.ofBits (s.shown m i 0))).abs.le ((F32.ofFrac 1 4).mul (F32.ofBits (s.shown m i 0)).abs)

/-- The ring of a converter would not fit the wingbeat (R28). -/
def convTight (s : State) (c : Nat) : Bool := s.tripTight (s.n RING.EXPN (s.n CONV.RING c))

/-- What keeps a plainly stored member from taking a write: the state rules of the chapters. -/
def stateBar (s : State) (m : Mem) (i : Nat) (v : Int) : Option Status :=
  let busy := fun (c : Bool) => if c then some Status.busy else none
  if m.rng = .clr then (if m.cls = 20 then busy (s.g GIVE.STATE i = 2 || s.g GIVE.STATE i = 3) else none)
  else match m.cls with
  | 5 => busy (m.among structural && (s.g AXIS.CFG i != 0 || s.b AXIS.ENABLE i))
  | 6 =>
    if m.among structural then busy (s.g MACH.CFG i != 0 || s.b MACH.ENABLE i)
    else if m.among modelMems && s.modelJump m i v then some .badValue
    else none
  | 7 =>
    if m.lo != 0 then none
    else if m.is STAGE.CARN || m.is STAGE.MINPOL then busy (s.b STAGE.ENABLE i)
    else if m.is STAGE.MACH || (23 ≤ m.num && m.num ≤ 26) || (30 ≤ m.num && m.num ≤ 35) then busy (s.stState i != 0)
    else none
  | 8 => busy (s.stState (i / 3) != 0)
  | 9 => busy (!m.among [CONV.KPC, CONV.KIC, CONV.KSUM, CONV.KDIF, CONV.LIMP, CONV.CRIT, CONV.PIN] && s.cvState i != 0)
  | 12 =>
    if m.lo = 0 then
      busy (s.g FB.MODE i != 0 && !m.among atMark)
    else none
  | 13 =>
    if m.lo = 0 then
      busy (s.b SD.ENABLE i && !m.among atMark)
    else busy ((List.range 48).any fun k => s.b SD.ENABLE k && s.g SD.CLK k == i)
  | 15 =>
    let n := s.n POWER.VIDDIO
    busy ((m.is DIO.FUNC || m.is DIO.POL) && n ≤ 29 && n ≤ i && i < n + 3)
  | 16 =>
    if m.is LOOP.JOBS && s.modelJump m i v then some .badValue
    else if m.is LOOP.OBSBW && (s.retask ((i - 32) / 4) (s.obsWrite i v)).isNone then some .capacity
    else none
  | 17 =>
    if m.among [FF.N, FF.START, FF.SPAN, FF.PERIODIC, FF.KIND, FF.AXIS, FF.MACH] &&
      (s.b FF.ACTIVE i || !(s.ffX i).w.zero?) then some .busy
    else if m.is FF.N && s.ffBeyond (s.put FF.N i v) (s.n FF.AXIS i) then some .capacity
    else if m.is FF.AXIS && v < 16 && (s.ffBeyond (s.put FF.AXIS i v) v.toNat || (s.retask v.toNat (s.put FF.AXIS i v)).isNone)
    then some .capacity
    else none
  | 18 => busy (38 ≤ m.num && m.num ≤ 175 && s.geared i)
  | 19 => busy (m.is POOL.POLICY && s.b AXIS.ENABLE i)
  | 20 => busy (s.g GIVE.STATE i = 2 || s.g GIVE.STATE i = 3)
  | 21 => busy (m.lo = 0 && ((6 ≤ m.num && m.num ≤ 13) || (15 ≤ m.num && m.num ≤ 19)) && (s.stopOver i || s.stopState i = 6 || s.stopState i = 7))
  | 22 => busy (3 ≤ m.num && m.num ≤ 15 && s.b CAN.EN i)
  | 23 => busy (s.b PART.EN i)
  | 24 =>
    if m.lo = 16 && m.num ≤ 12 && s.rState i != 0 && s.rState i != 5 then some .busy
    else if m.is RING.EXPN && s.tripTight v.toNat then some .capacity else none
  | 26 => busy (m.lo = 0 && !s.traceFree i (m.is TRACE.MODE))
  | _ => none

/-- A plain write with what follows from it at once. -/
def putNow (s : State) (m : Mem) (i x : Nat) (v : Int) : State :=
  if m.rng = .clr then s.put m i (m.dfltAt i x) x
  else if m.among atMark then
    if (if m.cls = 12 then s.g FB.MODE i != 0 else s.b SD.ENABLE i) then { s with late := s.late.set (m.key i x) (some v) }
    else { s.put m i v with late := s.late.del (m.key i x) }
  else if m.is STAGE.LADEN then s.put m i (v.toNat ||| 1 : Nat)
  else if m.is DIO.FUNC then
    let t := s.dioStopEdge { s.put m i v with dioOut := s.dioOut.put false i false } i
    (List.range 16).foldl (fun t x => if s.n POOL.BRKOUT x = i then s.brkMoved t x else t) t
  else if m.is POOL.BRKOUT then s.brkMoved (s.put m i v) i
  else if m.is DIO.POL then s.dioStopEdge (s.put m i v) i
  else if m.is SD.ENABLE then
    let t := (s.put m i v).put SD.STATE i v
    s.tripMoved { t.setSdX i {} with sdTrip := t.sdTrip.filter (· != i) }
  else if m.is AIN.PERIOD then
    let t := s.put m i v
    if v = 0 then { t.put AIN.STATE i 0 with ainx := t.ainx.put {} i {} } else t
  else if m.is FF.ENTRY then (s.put m i v x).ffCrc i
  else if m.is FF.N then (s.put m i v).ffTiles (s.n FF.AXIS i)
  else if m.is FF.AXIS then
    let t := ((s.put m i v).ffTiles (s.n FF.AXIS i)).ffTiles v.toNat
    (t.retask v.toNat t).getD t
  else if m.is PART.KIND || m.is PART.MACH then (s.put m i v).ownTask ((s.put m i v).n PART.MACH i)
  else if m.is LOOP.OBSBW then
    let t := s.obsWrite i v
    (t.retask ((i - 32) / 4) t).getD t
  else if m.is CMPU.CMPPOS || m.is CMPU.CMPSTEP || m.is CMPU.SRC then
    let t := s.put m i v
    if m.is CMPU.SRC then t.compareFrom i else t.setCmpX i { t.cmpX i with off := false }
  else if m.is AXIS.CRIT || m.is AXIS.PIN then (s.put m i v).hintChanged (s.ownerTasks 5 i)
  else if m.is MACH.CRIT || m.is MACH.PIN then (s.put m i v).hintChanged [i]
  else if m.is EXCH.MIRRORALL then (s.put m i v).mirrorAll
  else if m.is CONV.CRIT || m.is CONV.PIN then (s.put m i v).hintChanged [32 + i]
  else if m.is ARM.CRIT || m.is ARM.PIN then (s.put m i v).hintChanged [40 + i]
  else if m.among [PROF.VLIM, PROF.ALIM, PROF.DLIM, PROF.JLIM, PROF.HAULV, PROF.HAULA, PROF.PAYV, PROF.PAYA] then
    (s.put m i v).motionReplan i
  else if m.is PROF.BRKAUTO then
    -- BRKREQ is 1 while the axis is enabled without BRKAUTO, but for the stops (R273)
    if v = 0 && s.b AXIS.ENABLE i && s.stopState i = 0 && !(s.axisX i).fbHold then (s.put m i v).brkReq i true else s.put m i v
  else if m.is TRACE.MODE then s.traceMode i v.toNat
  else if m.is TRACE.NCH then s.traceNch i v.toNat
  else s.put m i v x

/-- A plain write: a coefficient of an object that runs in a stop waits (R212), and a later write takes the place of one
that waits. -/
def putMem (s : State) (m : Mem) (i x : Nat) (v : Int) : State :=
  if s.coefHeld m i then { s with late := s.late.set (m.key i x) (some v) }
  else if m.cls = 26 then s.traceNote.putNow m i x v
  else if r200 m = 0 then s.putNow m i x v
  else { s with late := s.late.del (m.key i x) }.putNow m i x v

/-! ### Configuration (R68, R415, R416, R528) -/

/-- A converter that R416 refuses to commit. -/
def convBad (s : State) (c : Nat) : Bool :=
  let r := s.n CONV.RING c
  let mine := s.convArms c
  let span := fun a => (s.n ARM.SLOT0 a, s.n ARM.SLOT0 a + s.n ARM.NCELL a)
  let others := (s.convs.filter fun d => d != c && s.n CONV.RING d == r).flatMap s.convArms
  let meet := fun a b => a != b && decide ((span a).1 < (span b).2) && decide ((span b).1 < (span a).2)
  32 < s.n CONV.ARM0 c + s.n CONV.ARMS c || mine.any (fun a => (s.convs.filter (· != c)).any fun d => (s.convArms d).contains a) ||
    mine.any (fun a => s.n RING.EXPN r < (span a).2) || mine.any (fun a => (mine ++ others).any (meet a)) ||
    2 ≤ (s.convs.filter fun d => d != c && s.n CONV.RING d == r).length


/-- The object is enabled, as R68 and R444 mean it. -/
def cfgBusy (s : State) (cls i : Nat) : Bool :=
  if cls = 5 then s.b AXIS.ENABLE i else if cls = 6 then s.b MACH.ENABLE i else s.cvState i != 0

/-- The power paths that name machine `m` (R29): local stages, configured converters and CAN remote drives. -/
def powerPaths (s : State) (m : Nat) : Nat :=
  ((List.range 16).filter fun i => s.g STAGE.MACH i = m).length + (s.convs.filter fun c => s.g CONV.MACH c = m).length +
    ((List.range 256).filter fun p => s.g PART.MACH p = m && s.g PART.KIND p = 1).length

/-- The object breaks the hierarchy of R29: an axis has 1 to 8 machines, a machine one power path, which may be
named after it. R29 gives no status; BAD_VALUE is the model's (DESIGN CHOICE, log entry 42). -/
def cfgBroken (s : State) (cls i : Nat) : Bool :=
  let many := fun x => 8 < (s.machsOf x).length
  match cls with
  | 5 => (s.machsOf i).isEmpty || many i
  | 6 => (s.n MACH.AXIS i < 16 && many (s.n MACH.AXIS i)) || 1 < s.powerPaths i
  | 9 => s.n CONV.MACH i < 32 && 1 < (s.put CONV.CFG i 1).powerPaths (s.n CONV.MACH i)
  | _ => false

/-- What refuses a commit before its placement is admitted. -/
def cfgBar (s : State) (cls i : Nat) : Option Status :=
  if cls = 9 && s.cvState i != 0 then some .busy
  else if s.cfgBroken cls i || (cls = 9 && s.convBad i) then some .badValue
  else if cls = 9 && s.convTight i then some .capacity
  else none

/-- A write of CFG = 1. -/
def cfgCommit (s : State) (cls i : Nat) : Status × State :=
  match s.cfgBar cls i with
  | some st => (st, s)
  | none => match s.cfgCommitAll [(cls, i)] with
    | none => (.capacity, s)
    | some t => (.pending, t)

/-- A write of CFG = 0. -/
def cfgRemove (s : State) (cls i : Nat) : Status × State :=
  if s.cfgBusy cls i then (.busy, s)
  else (.ok, ((s.removeTasks cls i).put (cfgMem cls) i 0).rewriteMaps)

/-! ### Trace and telemetry nodes (R218, R600) -/

/-- The block of the member that a node names; internal members belong to the block of their class. -/
def nodeBlock (s : State) (addr : Nat) : Nat :=
  match s.resolve addr with
  | some (m, i, _) => blockOf m i
  | none => if addr / 16777216 = 10 then 18 else 5

/-- What refuses a node (R218). -/
def nodeBar (s : State) (secure : Bool) (addr : Nat) : Option Status :=
  let c := addr / 16777216
  if (s.node addr).isNone || ((s.internalNode c (addr / 4096 % 4096) (addr % 4096)).isNone && (s.resolve addr).isNone) then
    some .badObject
  else if !secure && s.blockSecure (s.nodeBlock addr) then some .deniedWorld
  else none

/-! ### Writing -/

/-- A write of EXCH[0].RETIRED (R94). -/
def retiredWrite (s : State) (v : Nat) : Status × State :=
  if v &&& s.n EXCH.RETIRED != v then (.badValue, s)
  else if s.life != 3 then (.deniedLifecycle, s)
  else (.ok, s.clearRetired v)

/-- A write of EO ENABLE (R142). -/
def eoWrite (s : State) (e v : Nat) : Status × State :=
  let src := s.n EO.SRC e
  (.ok, s.eoEnable e v (if src < 16 then s.g FB.POS src else (s.axisX (src - 16)).gen.p))

/-- A write of SD ENABLE (R162, R170). -/
def sdEnable (s : State) (k v : Nat) : Status × State :=
  if s.n SD.ENABLE k = v then (.ok, s)
  else if v = 0 && s.sdInUse k then (.busy, s)
  else (.ok, s.putMem SD.ENABLE k 0 v)

/-- A write of RESERVE[0].COMMIT = 1 (R592). -/
def reserveCommit (s : State) : Status × State := (.pending, { s with commitDue := true })

/-- Members whose write a chapter decides: the status and the state, none for a plainly stored member. -/
def memberOp (s : State) (m : Mem) (i x : Nat) (v : Int) : Option (Status × State) :=
  let k := v.toNat
  let f := F32.ofBits v
  if m.acc = .w1c then some (.ok, s.put m i (s.n m i x - (s.n m i x &&& k) : Nat) x)
  else match m.cls with
  | 1 => if m.is SYS.WINGBEAT then some (s.wingbeatWrite k) else none
  | 3 =>
    if m.is POWER.SETPOINT then some (s.setpointWrite k)
    else if m.is POWER.PSREQ then some (s.psreq k)
    else if m.is POWER.VIDDIO then some (s.viddioWrite k) else none
  | 4 => some (s.dutyWrite k)
  | 5 =>
    if m.is AXIS.CFG then some (if k = 1 then s.cfgCommit 5 i else s.cfgRemove 5 i)
    else if m.is AXIS.ENABLE then some (if k = 1 then s.axisEnable i (s.latchedOver i) else s.axisDisable i)
    else if m.is AXIS.SPACK then some (s.spack i) else none
  | 6 =>
    if m.is MACH.CFG then some (if k = 1 then s.cfgCommit 6 i else s.cfgRemove 6 i)
    else if m.is MACH.ENABLE then some (if k = 1 then s.machEnable i (s.latchedOver (s.n MACH.AXIS i)) else s.machDisable i)
    else if m.is MACH.CLEAR then some (s.machClear i)
    else if m.is MACH.STYLE then some (s.styleWrite i k) else none
  | 7 =>
    if m.is STAGE.ENABLE then some (if k = 1 then s.stageEnable i else s.stageDisable i)
    else if m.is STAGE.DIAG then some (s.stageDiag i)
    else if m.is STAGE.CLEAR then some (s.stageClear i)
    else if m.is PAT.SRC then some (s.patternSrc i k)
    else if m.is PAT.ENTRY then some (s.patEntryWrite i x k) else none
  | 8 => if m.is LEG.SWCMD then some (s.swcmdWrite i k) else none
  | 9 =>
    if m.is CONV.CFG then some (if k = 1 then s.cfgCommit 9 i else s.cfgRemove 9 i)
    else if m.is CONV.ENABLE then some (s.convEnable i k)
    else if m.is CONV.CLEAR then some (s.convClear i) else none
  | 11 =>
    if m.is CELL.EXCL then some (s.cellExcl i k)
    else if m.is CELL.RETIRE then some (s.cellRetire i k)
    else if m.is CELL.CLEAR then some (s.cellClear i) else none
  | 12 =>
    if m.is FB.MODE then some (s.fbMode i k)
    else if m.is FB.SEL then some (s.fbSel i k)
    else if m.is FB.POSSET then some (s.possetWrite i v)
    else if m.is FB.IDXARM then some (s.idxarm i k)
    else if m.is FB.CLEAR then some (s.fbClear i)
    else if m.is EO.ENABLE then some (s.eoWrite i k) else none
  | 13 =>
    if m.is SD.ENABLE then some (s.sdEnable i k)
    else if m.is SD.GAINREF then some (s.gainref i f)
    else if m.is SD.CLEAR then some (s.sdClear i) else none
  | 15 => if m.is DIO.CLEAR then some (let (st, t) := s.dioClear i; (st, s.dioStopEdge t i)) else none
  | 16 =>
    if m.is LOOP.FREEZE then some (s.freezeWrite i k)
    else if m.is LOOP.IPRESET then some (s.ipresetWrite i f)
    else if m.is LOOP.ATSTART then some (s.atstart i k) else none
  | 17 => if m.is FF.ACTIVE then some (s.ffActive i k) else none
  | 18 =>
    if m.is PROF.PUSH then some (s.push i k)
    else if m.is PROF.FLUSH then some (s.flushWrite i) else none
  | 21 =>
    if m.is STOP.REQ then some (s.stopRequest i k)
    else if m.is STOP.EREQ then some (s.stopEreq i k)
    else if m.is STOP.ACK then some (s.stopAck i)
    else if m.is SRC.CLEAR then some (if i = 0 then s.stoClear else s.sourceClear (16 + i))
    else if m.is STOPDEV.RCLEAR then some s.rclear
    else if m.is STOPDEV.TCLEAR then some s.tclear else none
  | 22 =>
    if m.is CAN.EN then some (if k = 1 then s.canEnable i else s.canDisable i)
    else if m.is CAN.RECOVER then some (s.canRecover i)
    else if m.is CAN.RESTR then some (s.restrWrite i k) else none
  | 23 => if m.is PART.EN then some (s.partEnable i k) else none
  | 24 =>
    if m.is RING.EN then some (s.ringEnable i k)
    else if m.is RING.RUN then some (s.ringRun i k) else none
  | 26 =>
    if m.is TRACE.ARM then some (s.traceArm i)
    else if m.is TRACE.TRIGNOW then some (s.trignow i)
    else if m.is TRACE.READ then some (s.traceRead i) else none
  | 27 => if m.is EXCH.RETIRED then some (s.retiredWrite k) else none
  | 30 => if m.is RESERVE.COMMIT then some s.reserveCommit else none
  | 32 =>
    if m.is SEC.BURN then some s.keyBurn
    else if m.is SEC.DSGEN then some s.dsgen
    else if m.is SEC.ARBCOMMIT then some s.arbcommit
    else if m.is SEC.FWREVOKE then some s.fwrevoke else none
  | _ => none

/-- R522 point 8: the state rules, then the write. -/
def applyWrite (s : State) (secure : Bool) (m : Mem) (i x : Nat) (v : Int) : Status × State :=
  if (s.tb.ovrd && overrideEnable m v) || (s.g POWER.PSTATE != 0 && flightEnable m v) then (.stopped, s)
  else match s.memberOp m i x v with
  | some r => r
  | none =>
    match (if m.is TRACE.NODE || (m.is LEDGER.TNODE && v != m.dfltAt i x) then s.nodeBar secure v.toNat else none) with
    | some st => (st, s)
    | none => match s.stateBar m i v with
      | some st => (st, s)
      | none => (.ok, s.putMem m i x v)

/-- The checks of points 5 to 7 on a write. -/
def writeBar (s : State) (secure : Bool) (addr ty : Nat) (v : Int) : Except Status (Mem × Nat × Nat) :=
  match s.resolve addr with
  | none =>
    if !isWhole addr then .error .badObject
    else if !secure && s.blockSecure (wholeBlock addr) then .error .deniedWorld
    else .error .badValue
  | some (m, i, x) =>
    if !secure && (s.blockSecure (blockOf m i) || m.acc = .rws || m.acc = .wos) then .error .deniedWorld
    else if m.acc = .ro || m.ty.code != ty || !m.ty.holds v || !s.rangeOk m i v || !s.crossOk m i x v then .error .badValue
    else .ok (m, i, x)

/-- One write of a member by a host (R522 points 5 to 8). -/
def writeMember (s : State) (secure : Bool) (addr ty : Nat) (v : Int) : Status × State :=
  match s.writeBar secure addr ty v with
  | .error st => (st, s)
  | .ok (m, i, x) => s.applyWrite secure m i x v

/-- One read of a member by a host: its type and value (R522 points 5 and 6). -/
def readMember (s : State) (secure : Bool) (addr : Nat) : Except Status (Ty × Int) :=
  match s.resolve addr with
  | none =>
    if !isWhole addr then .error .badObject
    else if !secure && s.blockSecure (wholeBlock addr) then .error .deniedWorld
    else .ok (.u64, (unle (s.whole (addr / 16777216) (addr / 4096 % 4096)) : Nat))
  | some (m, i, x) =>
    if !secure && s.blockSecure (blockOf m i) then .error .deniedWorld
    else .ok (m.ty, s.readMem m i x)

end State
end Sys2Proof.Machine
end

