-- ==== Sys2Proof/Machine/Registers.lean ====
section
/-! DEFINITION. The hardware registers (R726–R740): their fields, how a field mirrors an object member, and
the reads and masked writes that reach them. -/
namespace Sys2Proof.Machine

/-- How the bits of a register field spell the value of the member that it mirrors: as they stand, less one,
in units, in quarters of a mA less one (R739), in timebase cycles of 2.5 ns (R373, R374), and the wingbeat
length in timebase cycles (R739). -/
inductive Codec where
  | plain | less1 | units (k : Nat) | quarters | cycles | tw
deriving DecidableEq, Repr

/-- The member's value that the field value `v` stands for, and the field value of a member's value. -/
def Codec.dec (c : Codec) (v : Nat) : Int :=
  match c with
  | .plain => v
  | .less1 => v + 1
  | .units k => v * k
  | .quarters => (F32.ofFrac (v + 1) 4).toBits
  | .cycles => (F32.ofFrac (5 * v) 2).toBits
  | .tw => (v * 5 / 2 : Nat)
def Codec.enc (c : Codec) (v : Int) : Int :=
  match c with
  | .plain => v
  | .less1 => v - 1
  | .units k => v / k
  | .quarters => (F32.ofBits v).floorMul 4 - 1
  | .cycles => (F32.ofBits v).floorMul 2 / 5
  | .tw => v * 2 / 5

/-- What a field holds: a view of the state that no write reaches, a value that the spec leaves open, a member
of the dictionary, or a value of its own with its writable bits, those of them that are RW-S, and whether its
unmasked bits are written as 0 (W1C, WO). -/
inductive Hold where
  | view (get : State → Nat)
  | free
  | mem (m : Mem) (i x : Nat) (c : Codec)
  | own (wm sec : Nat) (w1 : Bool) (get : State → Nat) (set : State → Nat → Status × State)

/-- A field of a register: its lowest bit, its width, and what it holds. -/
structure Field where
  lo : Nat
  w  : Nat
  h  : Hold

/-- The field holds a value that the spec leaves open. -/
def Field.isFree (f : Field) : Bool := match f.h with | .free => true | _ => false

/-- The bits of a field that take a write, those that need the secure world, and whether it is W1C or WO. -/
def Field.wmask (f : Field) : Nat :=
  match f.h with
  | .view _ | .free => 0
  | .mem m _ _ _ => if m.acc = .ro then 0 else 2 ^ f.w - 1
  | .own wm _ _ _ _ => wm
def Field.secMask (f : Field) : Nat :=
  match f.h with
  | .mem m _ _ _ => if m.acc = .rws || m.acc = .wos then 2 ^ f.w - 1 else 0
  | .own _ sec _ _ _ => sec
  | _ => 0
def Field.w1 (f : Field) : Bool :=
  match f.h with
  | .mem m _ _ _ => m.acc = .w1c || m.acc = .wo || m.acc = .wos
  | .own _ _ w _ _ => w
  | _ => false

/-- The part of a mask that falls on a field. -/
def Field.part (f : Field) (mask : Nat) : Nat := bits mask f.lo f.w

namespace State

/-! ### Views -/

/-- A bit mask of the `n` indices of which `p` holds. -/
def mask (n : Nat) (p : Nat → Bool) : Nat := (List.range n).foldl (fun k j => if p j then k + 2 ^ j else k) 0

/-- SYS.RSTSTAT (R656). -/
def rstStat (s : State) : Nat :=
  s.up.cause + 256 * s.up.phase + 4096 * ((s.bk.regs.find 0 31).toNat % 16) + 65536 * ((s.bk.regs.find 0 30).toNat % 16)
    + 2 ^ 20 * b2n s.up.optfail

/-- The tag failures of engine `e` in the present second. -/
def tagsNow (s : State) (e : Nat) : Nat := min 15 ((s.eng e).tagFails.filter fun c => decide (s.tb.cycles < c + 400000000)).length

/-- Engine `e` has a task in progress: a result that is not yet handed over. -/
def engBusy (s : State) (e : Nat) : Bool :=
  s.taskIds.any fun t => ((s.task t).engA = e || (s.task t).engB = e) &&
    (match s.outKey t with | some k => !(s.outSt k).due.isEmpty | none => false)

/-- EXCH.ENGSTATE and EXCH.STATUS (R100). -/
def engStateReg (s : State) : Nat :=
  (List.range 8).foldl (fun k e => k + 16 ^ e * (match (s.eng e).st with
    | .admitted => 0 | .isolated => 1 | .testing => 2 | .retired => 3)) 0
def exchStatus (s : State) : Nat :=
  b2n s.ex.overload + 2 * b2n (!s.ex.migs.isEmpty) + 4 * b2n s.ex.nlostf + 16 * s.admittedList.length
    + 65536 * s.n PROFILE.UNPAIRED

/-- TBASE.STATUS (R41). -/
def tbaseStatus (s : State) : Nat :=
  b2n s.tb.refok + 2 * b2n s.tb.lock + 4 * b2n s.tb.loss + 8 * b2n s.tb.ovrd + 16 * b2n s.tb.tapcal + 32 * b2n s.tb.srcact

/-- A trip density as SD.TDENSnn codes it (R736). -/
def densCode (d : F32) : Nat :=
  let v := if d.special? then (if d.neg? then -32768 else 32767) else (d.mul (F32.ofInt 16384)).nearest
  ((max (-32768) (min 32767 v)) % 65536).toNat

/-- A PSNS threshold in mV (R361, R739). -/
def psThr (s : State) (i : Nat) (m : Mem) : Nat :=
  let v := ((s.f STAGE.PSK i).mul (s.f m i)).mul (s.vdcOf (s.n STAGE.MACH i))
  min 4095 ((v.mul (F32.ofInt 1000)).nearest).toNat

/-- The output pin `n` is driven high. -/
def dioHigh (s : State) (n : Nat) : Bool :=
  (s.g DIO.FUNC n = 1 || s.g DIO.FUNC n = 3) && (s.dioOut.find false n == (s.g DIO.POL n == 0))

/-- GATE.STGSTATnn (R734). -/
def stgStat (s : State) (i : Nat) : Nat :=
  let o := s.n STAGE.DISCHDIO i
  s.stState i + 8 * b2n ((s.stg i).act = 0) + 16 * b2n (o < 32 && s.dioOut.find false o) + 256 * s.n STAGE.RUNG i

/-- TRIP.STATUS (R376). -/
def tripStatusAct (s : State) : Nat := mask 16 s.tripLevel
def tripStatusHit (s : State) : Nat := mask 16 fun n => (s.trip n).hit

/-- LIFE.STATUS (R632). -/
def lifeStatus (s : State) : Nat :=
  s.life + 8 * s.otp.svc + 2048 * b2n (wipeDue s.otp).isNone + 4096 * b2n s.sec.debug + 8192 * b2n ((s.optWord 0).getLsbD 3 && s.life = 0)

/-- OTP.LCS (R739). -/
def lcsReg (s : State) : Nat :=
  let o := s.otp
  b2n o.mint + 2 * b2n o.field + 4 * b2n o.ret + 8 * b2n o.void + 16 * b2n o.wMint + 32 * b2n o.wField + 64 * b2n o.wRet
    + 128 * b2n o.wVoid

/-! ### Fields -/

def ro (lo w : Nat) (get : State → Nat) : Field := ⟨lo, w, .view get⟩
def mir (lo w : Nat) (m : Mem) (i : Nat := 0) (x : Nat := 0) (c : Codec := .plain) : Field := ⟨lo, w, .mem m i x c⟩
def reg (wm sec : Nat) (w1 : Bool) (get : State → Nat) (set : State → Nat → State) : List Field :=
  [⟨0, 32, .own wm sec w1 get fun s v => (.ok, set s v)⟩]

/-- A word of the direct page at offset `off`, as port `p` has it. -/
def pageField (p off wm sec : Nat) (w1 : Bool) : List Field :=
  reg wm sec w1 (fun s => s.pageRead p off) (fun s v => s.pageWrite p off v true)

/-- STO.CFG (R485): DISCT 1–1,023. -/
def stoCfgWrite (s : State) (v : Nat) : Status × State :=
  if bits v 2 10 = 0 then (.badValue, s) else (.ok, s.setSto fun q => { q with cfg := v })

def sysRegs (off : Nat) : List Field :=
  match off with
  | 0x00 => [ro 0 32 rstStat]
  | 0x04 => [ro 0 32 fun s => s.wb % 2 ^ 32]
  | 0x08 => [ro 0 32 fun s => s.regs.wbHi]
  | 0x0C => [mir 0 16 SYS.WINGBEAT 0 0 .tw]
  | 0x10 => [mir 0 4 SYS.MBCAUSE]
  | 0x14 => [ro 0 32 fun _ => Config.uid.toNat % 2 ^ 32]
  | 0x18 => [ro 0 32 fun _ => Config.uid.toNat / 2 ^ 32]
  | 0x1C => [ro 0 32 fun s => (s.bk.regs.find 0 29).toNat]
  | 0x20 => [mir 0 32 SYS.BADFRM]
  | _ => []

/-- HOST.ERRA and HOST.ERRB (R498). -/
def errRegs (p : Nat) : List Field :=
  [⟨0, 8, .own 255 0 false (fun s => (s.port p).errCrc) fun s v => (.ok, s.setPort p { s.port p with errCrc := v })⟩,
   ⟨8, 8, .own 255 0 false (fun s => (s.port p).errBusy) fun s v => (.ok, s.setPort p { s.port p with errBusy := v })⟩,
   ⟨16, 8, .own 255 0 false (fun s => (s.port p).errWorld) fun s v => (.ok, s.setPort p { s.port p with errWorld := v })⟩,
   ⟨24, 8, .own 255 0 false (fun s => (s.port p).errAddr) fun s v => (.ok, s.setPort p { s.port p with errAddr := v })⟩]

def hostRegs (off : Nat) : List Field :=
  match off with
  | 0x00 | 0x04 | 0x0C => [ro 0 32 fun s => s.pageRead 0 off]
  | 0x08 => pageField 0 8 0xFF 0 false
  | 0x10 => pageField 1 8 0xFF 0 false
  | 0x14 => errRegs 0
  | 0x18 => errRegs 1
  | _ => []

/-- The ring registers: offset `off` of the window is offset `off + 0x40` of the direct page (R732). A doorbell
takes no REG_WRITE (R733). -/
def ringRegs (off : Nat) : List Field :=
  if off < 0x40 then pageField 0 (off + 0x40) 0x37000FFF 0x01000000 false
  else if off < 0x80 then pageField 0 (off + 0x40) 0xFFFF0FFF 0 false
  else if off < 0xC0 then [ro 0 32 fun s => s.pageRead 0 (off + 0x40)]
  else if off < 0x100 then
    [⟨0, 32, .own 0x1C0000 0 true (fun s => s.pageRead 0 (off + 0x40)) fun s v => (.ok, s.pageWrite 0 (off + 0x40) v true)⟩]
  else if off < 0x140 then [ro 0 32 fun _ => 0]
  else if off = 0x140 then [ro 0 9 fun s => s.alarms.length]
  else []

def evtRegs (off : Nat) : List Field :=
  if off < 8 then pageField 0 (off + 0x10) 0xFFFFFFFF 0 true
  else if off < 0x28 then pageField 0 (off + 0x10) 0x77777777 0 false
  else if off = 0x28 then pageField 0 0x38 0x7777 0 false
  else if off = 0x2C then [ro 0 32 hstat]
  else []

/-- TELLER.STAT: the age of the watchdog's last service and its pre-warning are Aethino's timing. -/
def tellerRegs (off : Nat) : List Field :=
  match off with
  | 0 => [⟨0, 17, .free⟩, ro 17 1 fun s => b2n s.tb.refok]
  | 4 => [mir 0 32 AUDIT.SRAMCOR]
  | _ => []

def engRegs (off : Nat) : List Field :=
  if off < 0x20 then [ro 0 4 fun s => (s.eng (off / 4)).lastFlt, ro 8 4 fun s => s.tagsNow (off / 4)]
  else if off = 0x20 then [ro 0 8 fun s => mask 8 s.engBusy]
  else if off = 0x24 then [mir 0 16 POWER.VENG]
  else []

def exchRegs (off : Nat) : List Field :=
  if 0x20 ≤ off && off < 0x40 then [mir 0 32 EXCH.OCC 0 ((off - 0x20) / 4)]
  else match off with
    | 0x00 => [ro 0 32 engStateReg]
    | 0x04 => [⟨0, 32, .own 4 0 true exchStatus fun s v =>
        (.ok, if bit v 2 then { s with ex := { s.ex with nlostf := false } } else s)⟩]
    | 0x08 => [mir 0 32 EXCH.PGEN]
    | 0x0C => [mir 0 32 EXCH.CHARGE]
    | 0x10 => [mir 0 32 EXCH.ADMCAP]
    | 0x40 => [mir 0 8 EXCH.RETIRED]
    | 0x44 => [mir 0 8 EXCH.BALTHR, mir 8 1 EXCH.MIRRORALL]
    | _ => []

def tstoreRegs (off : Nat) : List Field :=
  match off with
  | 0x00 => [mir 0 11 AUDIT.PACE]
  | 0x04 => [mir 0 16 AUDIT.BANKAVOID]
  | 0x08 => [mir 0 32 AUDIT.FREEFIX]
  | 0x0C => [mir 0 32 AUDIT.PASSES]
  | _ => []

def tbaseRegs (off : Nat) : List Field :=
  match off with
  | 0x00 => reg 7 0 false (fun s => b2n s.tb.src + 2 * s.tb.xdrive)
      (fun s v => { s with tb := { s.tb with src := bit v 0, xdrive := bits v 1 2 } })
  | 0x04 => reg 4 0 true tbaseStatus (fun s v => if bit v 2 then { s with tb := { s.tb with loss := false } } else s)
  | 0x08 => [ro 0 1 fun s => b2n s.tb.early]
  | 0x0C => [mir 0 32 SYS.REFLOSSCNT]
  | _ => []

/-- FB.CMPPOSLc and FB.CMPPOSHc (R729). -/
def cmpRegs (c off : Nat) : List Field :=
  match off with
  | 0x0 => [mir 0 8 CMPU.SRC c, mir 8 2 CMPU.CMPDIR c, mir 16 8 CMPU.OUTDIO c]
  | 0x4 => reg 0xFFFFFFFF 0 false (fun s => (s.g CMPU.CMPPOS c % 4294967296).toNat)
      (fun s v => { s with regs := { s.regs with cmpLo := s.regs.cmpLo.put none c (some v) } })
  | 0x8 => reg 0xFFFFFFFF 0 false (fun s => (s.g CMPU.CMPPOS c / 4294967296 % 4294967296).toNat)
      (fun s v =>
        let lo := match s.regs.cmpLo.find none c with
          | some l => l
          | none => (s.g CMPU.CMPPOS c % 4294967296).toNat
        let p : Int := (v * 4294967296 + lo : Nat)
        let p := if v < 2147483648 then p else p - 2 ^ 64
        { s with regs := { s.regs with cmpLo := s.regs.cmpLo.put none c none,
                                       due := s.regs.due.filter (fun e => e.1 != c) ++ [(c, p)] } })
  | 0xC => [mir 0 32 CMPU.HITS c]
  | _ => []

def fbRegs (off : Nat) : List Field :=
  let n := off / 64
  if off < 0x400 then match off % 64 with
    | 0x00 => [mir 3 1 FB.INV n, mir 4 1 FB.GRAY n, mir 5 1 FB.MTSIGN n, mir 6 1 FB.AGECOMP n, mir 8 2 FB.IDXMODE n,
        mir 10 1 FB.IDXGATE n, mir 0 3 FB.MODE n]
    | 0x04 => [mir 0 4 FB.LEAD n, mir 4 6 FB.MT n, mir 10 6 FB.ST n, mir 16 4 FB.STAT n, mir 20 5 FB.CRCLEN n]
    | 0x08 => [mir 0 16 FB.CRCPOLY n, mir 16 16 FB.CRCINIT n]
    | 0x0C => [mir 0 16 FB.CRCXOR n, mir 16 8 FB.LEADVAL n, mir 24 8 FB.STATERR n]
    | 0x10 => [mir 0 12 FB.SSIDIV n, mir 12 8 FB.SAMPDLY n, mir 20 8 FB.STATLOW n]
    | 0x14 => [mir 0 32 FB.ADV n]
    | 0x18 => [mir 0 8 FB.FILT n, mir 8 16 FB.MINSP n]
    | 0x1C => [mir 0 3 FB.STATE n, ro 3 1 fun s => s.n FB.SEL n, ro 4 2 fun s => (s.fbX n).outc]
    | _ => []
  else if off < 0x440 then cmpRegs ((off - 0x400) / 16) (off % 16)
  else []

def eoRegs (off : Nat) : List Field :=
  let e := off / 16
  if 4 ≤ e then [] else match off % 16 with
    | 0x0 => [mir 1 1 EO.INV e, mir 8 5 EO.SRC e, mir 0 1 EO.ENABLE e]
    | 0x4 => [mir 0 17 EO.LINES e]
    | 0x8 => [mir 0 32 EO.INDEXF e]
    | _ => [mir 0 32 EO.SLIP e]

def sdRegs (off : Nat) : List Field :=
  let n := off / 16
  if off < 0x300 then match off % 16 with
    | 0x0 => [mir 1 3 SD.CLK n, mir 4 5 SD.SAMPDLY n, mir 9 9 SD.MC n, mir 18 1 SD.ZEROCAP n, mir 19 13 SD.RUNMAX n,
        mir 0 1 SD.ENABLE n]
    | 0x4 => [mir 0 7 SD.MT n, mir 8 8 SD.TRIPCNT n, mir 16 8 SD.TRIPIN n, mir 24 1 SD.LOSSTRIP n]
    | 0x8 => [ro 0 16 fun s => densCode (s.sdX n).hi, ro 16 16 fun s => densCode (s.sdX n).lo]
    | _ => []
  else if off < 0x318 then [mir 1 7 SDCLK.DIV ((off - 0x300) / 4), mir 0 1 SDCLK.ENABLE ((off - 0x300) / 4)]
  else if off = 0x320 then [ro 0 32 fun s => mask 32 fun k => s.g SD.STATE k = 3]
  else if off = 0x324 then [ro 0 16 fun s => mask 16 fun k => s.g SD.STATE (32 + k) = 3]
  else []

def sarRegs (off : Nat) : List Field :=
  let n := off / 4 % 8
  if off < 0x20 then [mir 10 4 AIN.AVG n 0 .less1, mir 0 10 AIN.PERIOD n]
  else if off < 0x40 then [ro 0 14 fun s => (s.ainx.find {} n).code, mir 16 3 AIN.STATE n]
  else if off = 0x40 then [ro 0 16 fun s => (s.sarOff % 65536).toNat, ro 16 16 fun s => (s.sarGain % 65536).toNat]
  else []

def dioRegs (off : Nat) : List Field :=
  let n := off / 4 % 32
  if off < 0x80 then [mir 0 2 DIO.FUNC n, mir 2 1 DIO.POL n, mir 3 1 DIO.WAKE n, mir 4 2 DIO.LATCHEDGE n, mir 8 8 DIO.LATCHCH n,
    mir 16 16 DIO.MAXACT n]
  else if off < 0x100 then [mir 0 17 DIO.FILT n 0 (.units 100)]
  else if off < 0x180 then [mir 0 20 DIO.MINSP n 0 (.units 100)]
  else match off with
    | 0x180 => [ro 0 32 fun s => mask 32 (s.b DIO.STATE ·)]
    | 0x184 => [ro 0 32 fun s => mask 32 (s.b DIO.VALID ·)]
    | 0x188 => [ro 0 32 fun s => mask 32 s.dioHigh]
    | _ => []

def modRegs (off : Nat) : List Field :=
  let i := off / 16
  if off < 0x100 then match off % 16 with
    | 0x0 => [mir 0 8 STAGE.CARN i, mir 8 1 STAGE.MINPOL i]
    | 0x4 => [mir 0 7 STAGE.LADEN i, ro 8 3 fun s => s.n STAGE.RUNG i]
    | 0x8 => [mir 0 15 STAGE.MINPW i]
    | _ => []
  else if off = 0x100 then (List.range 5).map fun p => mir p 1 PAT.SRC p
  else []

def gateRegs (off : Nat) : List Field :=
  let l := off / 4 % 64
  if off < 0xC0 then [mir 0 12 LEG.DEADT l 0 .cycles, mir 12 8 LEG.ACKON l 0 (.units 100), mir 20 8 LEG.ACKOFF l 0 (.units 100),
    mir 28 1 LEG.BOOTEN l, mir 29 1 LEG.MODE l]
  else if 0x100 ≤ off && off < 0x140 then
    [mir 0 8 STAGE.GAFILT l 0 .cycles, mir 8 6 STAGE.BSN l 0 .less1, mir 14 8 STAGE.BSPW l 0 (.units 50), mir 22 1 STAGE.BSREF l]
  else if 0x200 ≤ off && off < 0x2C0 then [ro 0 32 fun s => legStat (s.leg l) (s.shownRequest l false) (s.shownRequest l true)]
  else if 0x300 ≤ off && off < 0x340 then [ro 0 32 fun s => s.stgStat l]
  else []

def tripRegs (off : Nat) : List Field :=
  let n := off / 4
  if off < 0x40 then reg 0xFFFFFF3F 0xFFFFFF3F false (fun s => (s.trip n).cfg) (fun s v => s.tripCfgWrite n v)
  else if off = 0x40 then
    [ro 0 16 tripStatusAct, ⟨16, 16, .own 0xFFFF 0 true tripStatusHit fun s v =>
      (.ok, (List.range 16).foldl (fun s n => if bit v n then s.setTrip n { s.trip n with hit := false } else s) s)⟩]
  else []

def psnsRegs (off : Nat) : List Field :=
  let i := off / 4 % 16
  if off < 0x10 then [⟨0, if off % 8 = 0 then 32 else 16, .free⟩]
  else if 0x40 ≤ off && off < 0x80 then
    [ro 0 2 fun s => if s.stState i = 1 && (s.stg i).step = 2 then 2 else 0, mir 2 3 STAGE.PSCUR i 0 .quarters]
  else if 0x80 ≤ off && off < 0xC0 then [ro 0 12 fun s => s.psThr i STAGE.PSWLO, ro 16 12 fun s => s.psThr i STAGE.PSWHI]
  else []

def sortRegs (off : Nat) : List Field :=
  let a := off / 4
  if 32 ≤ a then []
  else [mir 0 7 ARM.LEVEL a, mir 8 7 ARM.AVAIL a, ro 15 1 fun s => b2n (decide (s.g ARM.SIGN a < 0)), mir 16 1 ARM.SAT a]

def xlnkRegs (off : Nat) : List Field :=
  let r := off / 4 % 4
  match off / 16 with
  | 0 => [mir 2 1 RING.DEGRADE r, mir 3 1 RING.UIDCHK r, mir 0 1 RING.EN r, mir 1 1 RING.RUN r]
  | 1 => [ro 0 32 fun s => s.rstat r]
  | 2 => [ro 0 32 fun s => (s.link r).loop]
  | 3 => [ro 0 32 fun s => (s.link r).tapply]
  | 4 => [mir 0 16 RING.BRKA r, mir 16 16 RING.BRKB r]
  | _ => []

/-- A stop matcher register of CAN port `p` (R583). -/
def smReg (p wm : Nat) (get : CanPort → Nat) (set : CanPort → Nat → CanPort) : List Field :=
  reg wm wm false (fun s => get (s.canP p)) (fun s v => s.setCan p (set (s.canP p) v))

def canRegs (off : Nat) : List Field :=
  let p := off / 64
  let all := 0xFFFFFFFF
  if 4 ≤ p then [] else match off % 64 with
    | 0x00 => [mir 0 8 CAN.NBRP p 0 .less1, mir 8 8 CAN.NTSEG1 p 0 .less1, mir 16 7 CAN.NTSEG2 p 0 .less1,
        mir 23 7 CAN.NSJW p 0 .less1, mir 30 1 CAN.NTRIP p]
    | 0x04 => [mir 0 5 CAN.DBRP p 0 .less1, mir 5 5 CAN.DTSEG1 p 0 .less1, mir 10 4 CAN.DTSEG2 p 0 .less1,
        mir 14 4 CAN.DSJW p 0 .less1, mir 18 1 CAN.TDCEN p, mir 19 6 CAN.TDCO p, mir 25 1 CAN.FDEN p, mir 26 1 CAN.PEXC p]
    | 0x08 => [mir 1 1 CAN.RESTR p, mir 2 1 CAN.AUTOREC p, mir 3 1 CAN.TXORD p, mir 8 8 CAN.BOFFMAX p, mir 16 8 CAN.RETRYMAX p,
        mir 24 8 CAN.URETRYMAX p, mir 4 1 CAN.RECOVER p, mir 0 1 CAN.EN p]
    | 0x0C => [mir 0 3 CAN.STATE p, mir 4 6 CAN.TXBST p, mir 10 6 CAN.TDCV p, mir 16 8 CAN.RECSEQ p]
    | 0x10 => [mir 0 9 CAN.TEC p, mir 16 9 CAN.REC p]
    | 0x14 => [⟨0, 7, .own 0x7F 0x7F false (fun s => (s.canP p).smcfg) fun s v => (.ok, s.setCan p { s.canP p with smcfg := v })⟩,
        ro 16 16 fun s => (s.canP p).hits]
    | 0x18 => smReg p all (·.smid) fun x v => { x with smid := v }
    | 0x1C => smReg p all (·.smidm) fun x v => { x with smidm := v }
    | 0x20 => smReg p all (·.smd0) fun x v => { x with smd0 := v }
    | 0x24 => smReg p all (·.smd1) fun x v => { x with smd1 := v }
    | 0x28 => smReg p all (·.smdm0) fun x v => { x with smdm0 := v }
    | 0x2C => smReg p all (·.smdm1) fun x v => { x with smdm1 := v }
    | 0x30 => [mir 0 1 CAN.RSTEN p]
    | 0x34 => [mir 0 32 CAN.RSTID p]
    | _ => []

/-- The fields of a stop source entry (R735). -/
def srcRegs (j : Nat) : List Field := [mir 0 3 SRC.ACTION j, mir 3 2 SRC.CAT j, mir 5 1 SRC.SCOPE j, mir 16 16 SRC.AXMASK j]

def stoRegs (off : Nat) : List Field :=
  let x := off / 4 % 16
  if off = 0 then [⟨0, 32, .own 0x1FFF 0x1FFF false (fun s => s.sto.cfg) stoCfgWrite⟩]
  else if off = 4 then [ro 0 32 stoStatus]
  else if off = 8 then [ro 0 32 srcLatchReg]
  else if off = 12 then [ro 0 32 dioLatchReg]
  else if 0x40 ≤ off && off < 0x80 then
    reg 0x3FFFFFFF 0x3FFFFFFF false (fun s => s.stoMap x) (fun s v => s.setStoMap x v)
  else if off = 0x84 then [ro 0 32 fun _ => 1]
  else if 0x88 ≤ off && off < 0x98 then srcRegs ((off - 0x80) / 4)
  else if 0x100 ≤ off && off < 0x180 then srcRegs (16 + (off - 0x100) / 4)
  else []

def traceRegs (off : Nat) : List Field :=
  let u := off / 64
  if off = 0x100 then [mir 0 1 TRPORT.PORTEN]
  else if off = 0x104 then [mir 0 32 TRPORT.PORTBLK]
  else if 4 ≤ u then []
  else
    let k := off % 64
    if 4 ≤ k && k < 0x20 then [mir 0 32 TRACE.NODE u (k / 4 - 1)]
    else match k with
      | 0x00 => [mir 2 3 TRACE.NCH u, mir 5 1 TRACE.SBASE u, mir 6 1 TRACE.DEST u, mir 7 1 TRACE.OVERWRITE u,
          mir 16 16 TRACE.DEC u, mir 0 2 TRACE.MODE u]
      | 0x20 => [mir 0 3 TRACE.TRIGSRC u, mir 4 2 TRACE.TRIGEDGE u, mir 8 3 TRACE.TRIGCH u, mir 16 6 TRACE.TRIGEVT u]
      | 0x24 => [mir 0 14 TRACE.PRE u]
      | 0x28 => [mir 0 3 TRACE.STATE u, mir 16 14 TRACE.PREGOT u]
      | _ => []

def mramRegs (off : Nat) : List Field :=
  match off with
  | 0x00 => [ro 0 1 fun s => b2n s.commitDue]
  | 0x04 => [mir 0 32 RESERVE.WEARMAX]
  | 0x08 => [mir 0 32 RESERVE.SPARE]
  | 0x0C => [mir 0 32 AUDIT.MRAMCOR]
  | _ => []

def otpRegs (off : Nat) : List Field :=
  if off < 0x14 then [ro 0 32 fun s => (s.otp.opt.find 0 (off / 4)).toNat]
  else match off with
    | 0x14 => [mir 0 16 SEC.KEYSTAT]
    | 0x18 => [ro 0 7 fun s => s.otp.arb]
    | 0x1C => [ro 0 8 lcsReg]
    | 0x20 => [ro 0 8 fun s => s.otp.svc, ro 8 8 fun s => s.otp.wSvc]
    | _ => []

def cocoonRegs (off : Nat) : List Field :=
  let n := off / 4
  if off < 0x70 then reg 0xFFFFFFFF 0 false (fun s => (s.bk.regs.find 0 n).toNat)
      (fun s v => { s with bk := { s.bk with regs := s.bk.regs.put 0 n (BitVec.ofNat 32 v) } })
  else if off < 0x80 then [ro 0 32 fun s => (s.bk.regs.find 0 n).toNat]
  else match off with
    | 0x80 => [ro 0 32 fun s => s.bk.secs.toNat]
    | 0x84 => [ro 0 32 fun s => s.bk.ms.toNat]
    | 0x88 => [mir 0 4 POWER.WKPOL]
    | 0x8C => [mir 0 32 POWER.ALARM]
    | _ => []

def pwrRegs (off : Nat) : List Field :=
  match off with
  | 0x0 => [ro 0 32 pwrStatus]
  | 0x4 => [mir 8 8 POWER.VIDDIO, mir 0 2 POWER.SETPOINT]
  | 0x8 => [mir 0 12 POWER.WAKEEN]
  | 0xC => [⟨0, 3, .own 7 0 false (fun _ => 0) fun s v => if 5 < v then (.badValue, s) else s.psreq v⟩]
  | _ => []

def thermRegs (off : Nat) : List Field :=
  match off with
  | 0x0 => [ro 0 32 thermStatus]
  | 0x4 => [mir 0 8 THERM.STOPTJ]
  | 0x8 => [ro 0 8 fun s => min 255 (((s.f THERM.TJMAX).add (F32.ofInt 64)).nearest).toNat]
  | _ => []

def wmapRegs (off : Nat) : List Field :=
  match off with
  | 0x0 => reg 0x0EFFFFFF 0xFFFFFFFF false (·.sec.blkmap.toNat) (fun s v => { s with sec := { s.sec with blkmap := BitVec.ofNat 32 v } })
  | 0x4 => reg 0x00FFFFFC 0xFFFFFFFF false (·.sec.rgnmap0.toNat) (fun s v => { s with sec := { s.sec with rgnmap0 := BitVec.ofNat 32 v } })
  | 0x8 => reg 0x00007800 0xFFFFFFFF false (·.sec.rgnmap1.toNat) (fun s v => { s with sec := { s.sec with rgnmap1 := BitVec.ofNat 32 v } })
  | 0xC => [ro 0 32 (·.sec.vaddr)]
  | 0x10 => [ro 0 32 (·.sec.vsrc)]
  | _ => []

/-- LIFE.WIPE reads idle: a wipe lies inside one command, in which no request is served. -/
def lifeRegs (off : Nat) : List Field :=
  match off with
  | 0 => [ro 0 32 lifeStatus]
  | 4 => [ro 0 32 fun _ => 0]
  | _ => []

/-- CRYPT.STATUS.BUSY reads 0: CRYPT ends each operation within the command that needs it. The spec does not say what
CRYPT.OPS counts as an operation: it is a free value (log entry 47). -/
def cryptRegs (off : Nat) : List Field :=
  match off with
  | 0 => [ro 1 1 fun s => b2n (s.otp.ds != 0 && s.life ≤ 3)]
  | 4 => [⟨0, 32, .free⟩]
  | _ => []

def dbgRegs (off : Nat) : List Field :=
  match off with
  | 0x00 => [ro 0 32 fun _ => 0x12140001]
  | 0x10 | 0x14 | 0x18 | 0x1C => [ro 0 32 fun s => (s.nonceOf 6).getD 0 / 2 ^ (32 * (off / 4 - 4)) % 2 ^ 32]
  | 0x20 => [ro 0 32 fun s => b2n s.sec.debug + 256 * min 255 s.sec.dbgFail]
  | _ => []

/-- The fields of the register at offset `off` of block `b`; none for a reserved word. -/
def blockRegs (b off : Nat) : List Field :=
  match b with
  | 0 => sysRegs off
  | 1 => hostRegs off
  | 2 => ringRegs off
  | 3 => evtRegs off
  | 4 => tellerRegs off
  | 5 => engRegs off
  | 6 => exchRegs off
  | 7 => tstoreRegs off
  | 8 => tbaseRegs off
  | 9 => fbRegs off
  | 10 => eoRegs off
  | 11 => sdRegs off
  | 12 => sarRegs off
  | 13 => dioRegs off
  | 14 => modRegs off
  | 15 => gateRegs off
  | 16 => tripRegs off
  | 17 => psnsRegs off
  | 18 => sortRegs off
  | 19 => xlnkRegs off
  | 20 => canRegs off
  | 21 => stoRegs off
  | 22 => traceRegs off
  | 23 => mramRegs off
  | 24 => otpRegs off
  | 25 => cocoonRegs off
  | 26 => pwrRegs off
  | 27 => thermRegs off
  | 28 => wmapRegs off
  | 29 => lifeRegs off
  | 30 => cryptRegs off
  | 31 => dbgRegs off
  | _ => []

/-- The window of an address (R726), and its fields. -/
def windowOf (a : Nat) : Option Nat := if 0x40000000 ≤ a && a < 0x40020000 then some ((a - 0x40000000) / 4096) else none
def fieldsAt (a : Nat) : List Field :=
  match windowOf a with
  | some b => blockRegs b (a % 4096)
  | none => []

/-- The register at `a` is secure for a request (R610, R733): its block, the WORLD of its ring, or the region of
its backup register. -/
def regSecure (s : State) (a : Nat) : Bool :=
  let b := (windowOf a).getD 0
  let off := a % 4096
  s.blockSecure b || (b = 2 && off < 0x140 && (s.ring (off / 4 % 16)).world) ||
    (b = 25 && off < 0x40 && s.sec.rgnmap1.getLsbD 13) || (b = 25 && 0x40 ≤ off && off < 0x80 && s.sec.rgnmap1.getLsbD 14)

/-! ### Reading -/

/-- What the field holds; a value that the spec leaves open is taken as free. -/
def fieldVal (s : State) (f : Field) : Nat :=
  match f.h with
  | .view get => get s % 2 ^ f.w
  | .free => (Config.freeWord s.free).toNat % 2 ^ f.w
  | .mem m i x c => (c.enc (s.readMem m i x) % (2 ^ f.w : Nat)).toNat
  | .own _ _ _ get _ => get s % 2 ^ f.w

/-- The register as it stands. -/
def regVal (s : State) (a : Nat) : Nat := (fieldsAt a).foldl (fun k f => k + s.fieldVal f * 2 ^ f.lo) 0

/-- A compare register, and which half: the low one latches the high one (R729). -/
def cmpHalf (a : Nat) : Option (Nat × Bool) :=
  if a % 16 = 4 && 0x40009404 ≤ a && a < 0x40009440 then some ((a - 0x40009400) / 16, false)
  else if a % 16 = 8 && 0x40009404 ≤ a && a < 0x40009440 then some ((a - 0x40009400) / 16, true)
  else none

/-- A read of the register at `a`. -/
def regReadOne (s : State) (a : Nat) : Nat × State :=
  let v := s.regVal a
  if (fieldsAt a).any Field.isFree then (v, { s with free := s.free + 1 })
  else if a = 0x40000004 then (v, { s with regs := { s.regs with wbHi := s.wb / 2 ^ 32 } })
  else match cmpHalf a with
    | some (c, false) => (v, { s with regs := { s.regs with cmpHi := s.regs.cmpHi.put 0 c (s.regVal (a + 4)) } })
    | some (c, true) => (s.regs.cmpHi.find 0 c, s)
    | none => (v, s)

/-- Reads of `n` registers from `a` on. -/
def regReads (s : State) (a : Nat) : Nat → List Nat × State
  | 0 => ([], s)
  | n + 1 =>
    let (v, s) := s.regReadOne a
    let (l, s) := s.regReads (a + 4) n
    (v :: l, s)

/-- REG_READ (R533, R728). -/
def regRead (s : State) (secure : Bool) (a n : Nat) : Status × List Nat × State :=
  if a % 4 != 0 || windowOf a = none || windowOf (a + 4 * n - 4) != windowOf a then (.badObject, [], s)
  else if !secure && (List.range n).any (fun k => s.regSecure (a + 4 * k)) then (.deniedWorld, [], s)
  else
    let (l, t) := s.regReads a n
    (.ok, l, t)

/-! ### Writing -/

/-- The value that a masked write gives a field (R533): unmasked bits keep theirs, or are 0 in a W1C or WO field. -/
def merged (s : State) (f : Field) (mask value : Nat) : Nat :=
  let mk := f.part mask &&& f.wmask
  let new := f.part value &&& mk
  if f.w1 then new else
    let cur := s.fieldVal f
    cur - (cur &&& mk) + new

/-- The fields that a write reaches, with the values it gives them: those the mask covers, but for W1C and WO
fields that it gives 0. -/
def reached (s : State) (a mask value : Nat) : List (Field × Nat) :=
  ((fieldsAt a).filter fun f => f.part mask &&& f.wmask != 0).filterMap fun f =>
    let v := s.merged f mask value
    if f.w1 && v = 0 then none else some (f, v)

/-- The value that a field's bits stand for in its member: in two's complement where the member is signed. -/
def fieldMem (m : Mem) (w : Nat) (c : Codec) (v : Nat) : Int :=
  match m.ty with
  | .i8 | .i16 | .i32 => if v < 2 ^ (w - 1) then c.dec v else c.dec v - (2 ^ w : Nat)
  | _ => c.dec v

/-- The write's members with their new values put in place. -/
def putAll (s : State) (l : List (Field × Nat)) : State :=
  l.foldl (fun s e => match e.1.h with
    | .mem m i x c => s.put m i (fieldMem m e.1.w c e.2) x
    | _ => s) s

/-- The ranges of the mirrored members (R527, R533): each alone, and with its neighbours as the whole write
leaves them. -/
def rangesBad (s : State) (l : List (Field × Nat)) : Bool :=
  let t := s.putAll l
  l.any fun e => match e.1.h with
    | .mem m i x c =>
      let v := fieldMem m e.1.w c e.2
      !m.ty.holds v || !s.rangeOk m i v || !t.crossOk m i x v
    | _ => false

/-- The fields take their values, in the order in which the register lists them, an enable last; the first
status that is not accepted ends the write. -/
def setFields (s : State) (secure : Bool) : List (Field × Nat) → Status → Status × State
  | [], st => (st, s)
  | (f, v) :: t, st =>
    let (r, s') := (match f.h with
      | .mem m i x c => s.applyWrite secure m i x (fieldMem m f.w c v)
      | .own _ _ _ _ set => set s v
      | _ => (.ok, s))
    if r.accepted then s'.setFields secure t (if r = .pending then r else st) else (r, s)

/-- One register write, its world already checked (R528, R533): as a whole, or not at all. -/
def regApply (s : State) (secure : Bool) (a mask value : Nat) : Status × State :=
  let l := s.reached a mask value
  if s.rangesBad l then (.badValue, s)
  else
    let (st, t) := s.setFields secure l .ok
    if st.accepted then (st, t) else (st, s)

/-- REG_WRITE (R533, R728, R733): status, the register after the write, and the state. -/
def regWrite (s : State) (secure : Bool) (a mask value : Nat) : Status × Nat × State :=
  let fs := fieldsAt a
  if a % 4 != 0 || fs.isEmpty then (.badObject, 0, s)
  else if !secure && (s.regSecure a || fs.any fun f => f.part mask &&& f.secMask != 0) then (.deniedWorld, 0, s)
  else if fs.all fun f => f.part mask &&& f.wmask = 0 then (.badValue, 0, s)
  else
    let (st, t) := s.regApply secure a mask value
    (st, if st.accepted then t.regVal a else 0, t)

end State
end Sys2Proof.Machine
end

