-- ==== Sys2Proof/Machine/Debug.lean ====
section
/-! DEFINITION. The debug port: its instructions and its access to registers and memory (R610, R619, R628,
R629, R649). -/
namespace Sys2Proof.Machine
namespace State

/-- Both STO pins are accepted low (R628). -/
def stoLow (s : State) : Bool := !s.sto.a && !s.sto.b

/-- The instruction that the port has in force after `i` is loaded: a withheld one decodes as BYPASS (R628). -/
def jtagDecode (s : State) (i : JtagInstr) : JtagInstr :=
  match i with
  | .idcode | .bypass => i
  | .sample => if s.life = 5 then .bypass else i
  | .extest | .intest =>
    if s.stoLow && (s.life = 0 || s.life = 4 || (s.life = 3 && s.sec.debug)) then i else .bypass

/-- The port's access to registers and memory: none, the open world, or both worlds. -/
def dbgWorld (s : State) : Option Bool :=
  if s.up.phase < 4 then none
  else if s.life = 0 || s.life = 4 then some true
  else if s.life = 3 && s.sec.debug then some false
  else none

def dbgData (s : State) (v : Nat) : State := { s with sec := { s.sec with dbgData := v } }

/-- A register read: a secure register reads zero in the open world, and counts (R610). -/
def dbgRead (s : State) (secure : Bool) (a : Nat) : State :=
  if !secure && s.regSecure a then (s.violation ((windowOf a).getD 0) false a 3).dbgData 0
  else
    let (v, s) := s.regReadOne a
    s.dbgData v

/-- A register write (R610). TBASE.TESTCFG.EARLY takes a write here alone, in BLANK and RETURN (R649). -/
def dbgWrite (s : State) (secure : Bool) (a v : Nat) : State :=
  if secure && a = 0x40008008 then { s with tb := { s.tb with early := bit v 0 } }
  else if !secure && s.regSecure a then s.violation ((windowOf a).getD 0) false a 3
  else
    let sec := (fieldsAt a).foldl (fun k f => k ||| f.secMask * 2 ^ f.lo) 0
    let all := 2 ^ 32 - 1
    let t := (s.regApply secure a (if secure then all else all - (all &&& sec)) v).2
    if !secure && sec != 0 then t.violation ((windowOf a).getD 0) false a 3 else t

/-- The size of a memory (R22), and the region of R609 of its byte `a`. -/
def ramSize (m : DebugMem) : Nat :=
  match m with | .tile => 8388608 | .engine _ => 131072 | .teller => 1048576 | .cocoon => 16384
def ramRegion (m : DebugMem) (a : Nat) : Nat :=
  match m with
  | .tile => a / 524288
  | .engine e => 16 + e.val
  | .teller => 24 + a / 131072
  | .cocoon => 43 + a / 8192

/-- The region of a memory byte is secure (R609); in the ring area the ring whose span holds the byte decides. -/
def ramSecure (s : State) (m : DebugMem) (a : Nat) : Bool :=
  let g := ramRegion m a
  if g = 0 then (match s.ringOf a with | some r => (s.ring r).world | none => false)
  else if g < 32 then s.sec.rgnmap0.getLsbD g else s.sec.rgnmap1.getLsbD (g - 32)

def ramByte (s : State) (m : DebugMem) (a : Nat) : Byte :=
  match m with
  | .tile => s.byteAt a
  | .engine e => s.stores.find 0 (131072 * e.val + a)
  | .teller => s.sram.find 0 a
  | .cocoon => s.bk.ram.find 0 a
def ramPut (s : State) (m : DebugMem) (a : Nat) (v : Byte) : State :=
  match m with
  | .tile => s.setByte a v
  | .engine e => { s with stores := s.stores.put 0 (131072 * e.val + a) v }
  | .teller => { s with sram := s.sram.put 0 a v }
  | .cocoon => { s with bk := { s.bk with ram := s.bk.ram.put 0 a v } }

/-- DEBUG_ACCESS. -/
def debugAccess (s : State) (op : DebugOp) : State :=
  match op with
  | .load i => { s with sec := { s.sec with dbgIr := s.jtagDecode i } }
  | .readNonce =>
    if s.life = 3 && 4 ≤ s.up.phase then
      let (v, s) := s.drawNonce 6
      s.dbgData v
    else s
  | .readReg a => match s.dbgWorld with
    | some w => s.dbgRead w a
    | none => s
  | .writeReg a v => match s.dbgWorld with
    | some w => s.dbgWrite w a v
    | none => s
  | .readRam c a =>
    let a := a % ramSize c
    match s.dbgWorld with
    | some w =>
      if !w && s.ramSecure c a then (s.violation (ramRegion c a) true a 3).dbgData 0
      else s.dbgData (s.ramByte c a).toNat
    | none => s
  | .writeRam c a v =>
    let a := a % ramSize c
    match s.dbgWorld with
    | some w =>
      if !w && s.ramSecure c a then s.violation (ramRegion c a) true a 3 else s.ramPut c a (BitVec.ofNat 8 v)
    | none => s
  | .halt on => if s.dbgWorld = some true then { s with sec := { s.sec with dbgHalt := on } } else s

end State
end Sys2Proof.Machine
end

