-- ==== Sys2Proof/Machine/Requests.lean ====
section
/-! DEFINITION. The mailbox (R514–R546): how a request is taken, checked, answered and remembered, and what
each opcode does. -/
namespace Sys2Proof.Machine

/-- What R519, R535, R544 and R545 say of an opcode: its code, whether ring 0 and the windows take it, whether it
is secure-only, the life-cycle states that let it proceed, and whether Mothball accepts it. -/
structure OpRule where
  code   : Nat
  ring0  : Bool := false
  window : Bool := true
  secure : Bool := false
  life   : List Nat
  moth   : Bool := false
deriving DecidableEq, Repr

/-- What a handler answers: status, ADDR where it is not copied, payload, the fault code that FAULT_ACTIVE
carries, and what a deferred request waits for. -/
structure Reply where
  st    : Status
  addr  : Option Nat := none
  data  : List Byte := []
  fcode : Nat := 0
  defer : Option DeferKind := none
deriving DecidableEq, Repr

/-- The rows of R544 by life-cycle state. -/
def anyLife : List Nat := [0, 1, 2, 3, 4, 5]
def readLife : List Nat := [0, 1, 2, 3, 4]
def writeLife : List Nat := [0, 2, 3]

/-- A response frame (R514). -/
def frameBytes (flags seq opcode st addr : Nat) (data : List Byte) : List Byte :=
  let b := [0xA5] ++ le 1 flags ++ le 2 seq ++ le 2 opcode ++ le 2 st ++ le 4 addr ++ le 2 data.length ++ zeros 2 ++ data
  b ++ le 4 (crc32c b)

/-- The remembered frame with DUP set (R518). -/
def dupFrame (l : List Byte) : List Byte :=
  let b := l.take 1 ++ [l.getD 1 0 ||| 8] ++ (l.drop 2).take (l.length - 6)
  b ++ le 4 (crc32c b)

namespace State

/-! ### Taking, checking and answering (R512–R522) -/

/-- The port of a request: that of its window, or the owner of ring 0 (R519, R520). -/
def portOf (s : State) (rq : Rq) : Nat := if rq.ring.val = 0 then (s.ring 0).owner else (rq.ring.val - 1) / 2

/-- The window that Aethino serves next (R512): 1, 3, 2 and 4 in rotation, without the empty rings and those of a port
whose response ring is full. -/
def nextWindow (s : State) : Option Nat :=
  let turn := match s.served with | 1 => [3, 2, 4, 1] | 3 => [2, 4, 1, 3] | 2 => [4, 1, 3, 2] | _ => [1, 3, 2, 4]
  turn.find? fun n => !(s.ring n).empty && s.hasRoom (if n ≤ 2 then 5 else 6)

/-- Aethino takes the request's entry: its ring holds one, ring 0 is served before any window and the windows in turn
(R512, R519), in READY (R643), and no window while the device enters ROOST or a state below (R660). -/
def takes (s : State) (rq : Rq) : Bool :=
  s.ready && s.n POWER.PSTATE ≤ 2 &&
    (if rq.ring.val = 0 then !(s.ring 0).empty
     else (s.ring 0).empty && s.nextWindow = some rq.ring.val && !(s.pow.moving && 3 ≤ s.pow.target))

/-- The state once the entry of a request is taken. -/
def takeEntry (s : State) (rq : Rq) : State :=
  let t := s.consume rq.ring.val
  if rq.ring.val = 0 then t else { t with served := rq.ring.val }

/-- The request is handled in the secure world (R517). -/
def reqSecure (s : State) (rq : Rq) : Bool := rq.sec && (s.ring rq.ring.val).world

/-- A response enters its ring; one of ring 0 that finds it full is dropped and counted (R520). -/
def respond (s : State) (rq : Rq) (frame : List Byte) : State :=
  let r := 5 + s.portOf rq
  if s.hasRoom r then s.produce r frame else (s.inc HRING.LOST r).markLoss r

/-- The memory of R518 takes a completed request of a window. -/
def remember (s : State) (rq : Rq) (opcode : Nat) (frame : List Byte) : State :=
  let k := rq.ring.val
  if k = 0 then s
  else
    let l := (s.dups.find [] k).filter (fun d => d.seq != rq.seq) ++
      [{ seq := rq.seq, opcode := opcode, crc := rq.crc, resp := frame }]
    { s with dups := s.dups.put [] k (l.drop (l.length - 16)) }

/-- The FLAGS byte of a response (R516). -/
def respFlags (rq : Rq) (secure deferred : Bool) : Nat := b2n secure + 2 * b2n rq.prio + 16 * b2n deferred + 128

/-- A request ends: its response, withheld under QUIET where it was accepted, and the memory of R518. -/
def finish (s : State) (rq : Rq) (opcode addr : Nat) (secure deferred : Bool) (st : Status) (data : List Byte) : State :=
  let f := frameBytes (respFlags rq secure deferred) rq.seq opcode st.code addr data
  let s := if rq.quiet && st.accepted then s else s.respond rq f
  s.remember rq opcode f

/-- BAD_FRAME (R515). -/
def refuseFrame (s : State) (rq : Rq) (opcode : Nat) : State :=
  (s.inc SYS.BADFRM).respond rq (frameBytes (respFlags rq (s.reqSecure rq) false) rq.seq opcode Status.badFrame.code 0 [])

/-- The checks of R517 and of R522 points 2 to 4. -/
def opBar (s : State) (rq : Rq) (o : OpRule) : Option Reply :=
  if (rq.sec && !(s.ring rq.ring.val).world) || (o.secure && !s.reqSecure rq) then some { st := .deniedWorld }
  else if !o.life.contains s.life then some { st := .deniedLifecycle }
  else if s.inMothball && !o.moth then some { st := .faultActive, fcode := 0xB201 }
  else none

/-- Deferred requests that a port has open. -/
def openDefers (s : State) (p : Nat) : Nat := (s.defers.filter fun d => s.portOf d.rq == p).length

/-- A checked request runs: it is answered at once, or deferred where it may be (R519). -/
def runOp (s : State) (rq : Rq) (o : OpRule) (addr : Nat) (run : Bool → State → Reply × State) : State :=
  let secure := s.reqSecure rq
  let (r, t) := (match s.opBar rq o with
    | some r => (r, s)
    | none => run secure s)
  let data := if r.st = .faultActive && r.data.isEmpty then le 2 r.fcode else r.data
  match r.defer with
  | none => t.finish rq o.code (r.addr.getD addr) secure false r.st data
  | some k =>
    if 4 ≤ s.openDefers (s.portOf rq) then s.finish rq o.code addr secure false .busy []
    else
      let done := match k with
        | .cellSvc _ => none
        | _ => some (r.st.code, r.addr.getD addr, data)
      { t with defers := t.defers ++ [{ rq := rq, opcode := o.code, addr := addr, secure := secure, kind := k, done := done }] }

/-- A request of a host, as Aethino takes it from its ring (R512–R522). `lenOk` says that the opcode permits its
LEN. -/
def handle (s : State) (rq : Rq) (o : OpRule) (addr : Nat) (lenOk : Bool) (run : Bool → State → Reply × State) : State :=
  if !s.takes rq then s
  else
    let s := s.takeEntry rq
    if !lenOk || (if rq.ring.val = 0 then !o.ring0 else !o.window) then s.refuseFrame rq o.code
    else if rq.ring.val = 0 then s.runOp rq o addr run
    else if s.defers.any fun d => d.rq.ring == rq.ring && d.rq.seq == rq.seq && d.opcode == o.code && d.rq.crc == rq.crc then s
    else match (s.dups.find [] rq.ring.val).find? fun d => d.seq == rq.seq && d.opcode == o.code && d.crc == rq.crc with
      | some d => s.respond rq (dupFrame d.resp)
      | none => s.runOp rq o addr run

/-- BAD_FRAME command: a frame that fails R515. -/
def badFrame (s : State) (rq : Rq) (opcode : Nat) : State :=
  if !s.takes rq then s else (s.takeEntry rq).refuseFrame rq opcode

/-- DEFERRED_COMPLETION (R519, R624): the response of an open request whose work has ended enters its ring, when
that has room. -/
def deferredCompletion (s : State) (k : Nat) : State :=
  match s.defers[k]? with
  | none => s
  | some d =>
    match d.done with
    | none => s
    | some (st, addr, data) =>
      if !s.ready || 2 < s.n POWER.PSTATE || !s.hasRoom (5 + s.portOf d.rq) then s
      else
        let f := frameBytes (respFlags d.rq d.secure true) d.rq.seq d.opcode st addr data
        let s := { s with defers := s.defers.eraseIdx k }
        let s := if d.rq.quiet && st ≤ 1 then s else s.respond d.rq f
        let s := s.remember d.rq d.opcode f
        match d.kind with
        | .lifeReq t => { s with sec := { s.sec with lifeTo := some t } }
        | _ => s

/-! ### System opcodes (R530) -/

def nop (s : State) (rq : Rq) (payload : List Byte) : State :=
  s.handle rq { code := 1, ring0 := true, life := anyLife, moth := true } 0
    (payload.length ≤ (if rq.ring.val = 0 then 44 else 1024)) fun _ s => ({ st := .ok, data := payload }, s)

/-- The payload of IDENT. -/
def identPayload (s : State) : List Byte :=
  le 2 0x2140 ++ le 1 Config.siliconRevision.toNat ++ le 1 3 ++ le 2 Config.aethinoBuild.toNat ++ le 1 (s.n SEC.FWSLOT) ++
    le 1 s.life ++ le 8 Config.uid.toNat ++ le 4 (s.otp.opt.find 0 0).toNat ++ le 4 (s.bk.regs.find 0 29).toNat ++ zeros 8

def ident (s : State) (rq : Rq) : State :=
  s.handle rq { code := 2, life := anyLife, moth := true } 0 true fun _ s => ({ st := .ok, data := s.identPayload }, s)

def status (s : State) (rq : Rq) : State :=
  s.handle rq { code := 3, life := anyLife, moth := true } 0 true fun _ s => ({ st := .ok, data := s.statusPayload }, s)

def challenge (s : State) (rq : Rq) : State :=
  s.handle rq { code := 4, life := anyLife, moth := true } 0 true fun _ s =>
    let (v, t) := s.drawNonce (s.portOf rq)
    ({ st := .ok, data := le 16 v }, t)

/-! ### Object opcodes (R531, R532) -/

/-- The newest active fault code of the object at an address. -/
def faultAt (s : State) (addr : Nat) : Nat := s.newestOf (addr / 16777216) (addr / 4096 % 4096)

/-- The type that a code of R529 names. -/
def tyOf (ty : Nat) : Option Ty := [Ty.u8, .i8, .u16, .i16, .u32, .i32, .u64, .i64, .f32, .o16].find? fun t => t.code == ty

/-- The life-cycle states in which a write of the addresses `l` proceeds (R544): in MINT, only members of SEC and
LIFE from the secure world. -/
def objLife (s : State) (rq : Rq) (l : List Nat) : List Nat :=
  if s.reqSecure rq && l.all (fun a => a / 16777216 = 32 || a / 16777216 = 2) then 1 :: writeLife else writeLife

def objRead (s : State) (rq : Rq) (addr : Nat) : State :=
  s.handle rq { code := 0x100, life := readLife } addr true fun sec s =>
    match s.readMember sec addr with
    | .ok (t, v) => ({ st := .ok, data := [BitVec.ofNat 8 t.code, 0] ++ valBytes t v }, s)
    | .error st => ({ st := st }, s)

/-- One item of a request: a single write (R199). -/
def writeItem (s : State) (sec : Bool) (q : PsetItem) : Status × State :=
  s.writeMember sec q.addr q.ty q.v

/-- OBJ_WRITE, and the rows of the table that are writes of one member. -/
def objWrite (s : State) (rq : Rq) (q : PsetItem) : State :=
  s.handle rq { code := 0x101, life := s.objLife rq [q.addr] } q.addr (tyOf q.ty).isSome fun sec s =>
    let (st, t) := s.writeItem sec q
    ({ st := st, fcode := s.faultAt q.addr }, t)

/-- The object address of instance `i` of a row's member; one that does not exist where the row ends before. -/
def rowAddr (m : Mem) (i : Nat) : Nat := if i < m.n then m.key i 0 else m.cls * 16777216 + 0xFFF000 + m.num

/-- A write of a member that has a row of its own. -/
def rowWrite (s : State) (w : Wq) (m : Mem) (v : Int) : State :=
  s.objWrite w.rq { addr := rowAddr m w.inst, ty := w.ty, v := v }

/-- A record of OBJ_READ_MULTI; a member of type octets16 does not exist for it. -/
def readRecord (s : State) (sec : Bool) (addr : Nat) : List Byte :=
  match s.readMember sec addr with
  | .ok (.o16, _) => le 1 Status.badObject.code ++ zeros 11
  | .ok (t, v) => [0, BitVec.ofNat 8 t.code, 0, 0] ++ padTo 8 (valBytes t v)
  | .error st => le 1 st.code ++ zeros 11

def objReadMulti (s : State) (rq : Rq) (l : List Nat) : State :=
  s.handle rq { code := 0x102, life := readLife } 0 (1 ≤ l.length && l.length ≤ 85) fun sec s =>
    ({ st := .ok, data := le 2 l.length ++ zeros 2 ++ (l.map fun a => s.readRecord sec a).flatten }, s)

/-- Applies items in order until one is refused: how many were applied, the status, the refused item's address. -/
def writeItems (s : State) (sec : Bool) : List PsetItem → Nat → Status → Nat × Status × Option Nat × State
  | [], k, st => (k, st, none, s)
  | q :: l, k, st =>
    if q.ty = Ty.o16.code then (k, .badObject, some q.addr, s)
    else
      let (r, t) := s.writeItem sec q
      if r.accepted then t.writeItems sec l (k + 1) (if r = .pending then r else st) else (k, r, some q.addr, s)

def objWriteMulti (s : State) (rq : Rq) (l : List PsetItem) : State :=
  s.handle rq { code := 0x103, life := s.objLife rq (l.map (·.addr)) } 0 (1 ≤ l.length && l.length ≤ 85) fun sec s =>
    let (k, st, a, t) := s.writeItems sec l 0 .ok
    ({ st := st, addr := a, data := le 2 k ++ zeros 2, fcode := t.faultAt (a.getD 0) }, t)

/-- The elements of the member at `addr` from there to its last one. -/
def elemsFrom (s : State) (addr : Nat) : Nat :=
  match s.resolve addr with
  | some (m, _, x) => m.cnt - x
  | none => 0

/-- The values of `n` elements, as far as they exist and may be read. -/
def readElems (s : State) (sec : Bool) (addr : Nat) : Nat → List Byte × Nat × Status
  | 0 => ([], 0, .ok)
  | n + 1 =>
    match s.readMember sec addr with
    | .ok (t, v) =>
      let (l, k, st) := s.readElems sec (addr + 1) n
      (valBytes t v ++ l, k + 1, st)
    | .error st => ([], 0, st)

def blockRead (s : State) (rq : Rq) (addr n : Nat) : State :=
  s.handle rq { code := 0x104, life := readLife } addr true fun sec s =>
    match s.readMember sec addr with
    | .error st => ({ st := st }, s)
    | .ok (.o16, _) => ({ st := .badObject }, s)
    | .ok (t, _) =>
      if 1020 < n * t.bytes then ({ st := .badValue }, s)
      else
        let have' := s.elemsFrom addr
        let (l, k, st) := s.readElems sec addr (min n have')
        let head := [BitVec.ofNat 8 t.code, 0] ++ le 2 k
        let st := if st = .ok && have' < n then Status.badObject else st
        ({ st := st, addr := if st = .ok then none else some (addr + k), data := head ++ l }, s)

def blockWrite (s : State) (rq : Rq) (addr ty : Nat) (vals : List Int) : State :=
  let size := match tyOf ty with | some t => t.bytes | none => 1
  s.handle rq { code := 0x105, life := s.objLife rq [addr] } addr (vals.length * size ≤ 1020) fun sec s =>
    let have' := s.elemsFrom addr
    let items := (List.range (min vals.length have')).map fun k => ({ addr := addr + k, ty := ty, v := vals.getD k 0 } : PsetItem)
    match (if have' = 0 || ty = Ty.o16.code then some Status.badObject else none) with
    | some st => ({ st := st }, s)
    | none =>
      let (k, st, a, t) := s.writeItems sec items 0 .ok
      let beyond := a.isNone && have' < vals.length
      let st := if beyond then Status.badObject else st
      let a := if beyond then some (addr + k) else a
      ({ st := st, addr := a, data := le 2 k ++ zeros 2, fcode := t.faultAt addr }, t)

/-- The descriptor of a member (R532). -/
def descriptor (m : Mem) (i : Nat) : List Byte :=
  le 2 m.num ++ le 1 m.ty.code ++ le 1 m.acc.code ++ le 1 (r200 m) ++ le 1 (blockOf m i) ++ le 2 m.cnt ++
    padTo 24 (m.name.toList.map fun c => BitVec.ofNat 8 c.toNat)

/-- A row goes into a list in the order of member numbers. -/
def insertRow (m : Mem) : List Mem → List Mem
  | [] => [m]
  | q :: t => if m.num < q.num then m :: q :: t else q :: insertRow m t

def dictRead (s : State) (rq : Rq) (addr n : Nat) : State :=
  s.handle rq { code := 0x106, life := readLife } addr true fun sec s =>
    let cls := addr / 16777216
    let i := addr / 4096 % 4096
    let rows := (classRows cls).filter fun m =>
      decide (m.lo ≤ i) && decide (i < m.lo + m.n) && decide (addr % 4096 < m.num + m.cnt)
    let rows := (rows.foldl (fun l m => insertRow m l) []).take n
    if !hasInst cls i then ({ st := .badObject }, s)
    else if !sec && rows.any (fun m => s.blockSecure (blockOf m (i - m.lo))) then ({ st := .deniedWorld }, s)
    else if n = 0 || 31 < n then ({ st := .badValue }, s)
    else ({ st := .ok, data := le 2 rows.length ++ zeros 2 ++ (rows.map fun m => descriptor m (i - m.lo)).flatten }, s)

/-! ### Register opcodes (R533) -/

def reqRegRead (s : State) (rq : Rq) (addr n : Nat) : State :=
  s.handle rq { code := 0x300, life := readLife, moth := true } addr true fun sec s =>
    if n = 0 || 255 < n then ({ st := .badValue }, s)
    else
      let (st, l, t) := s.regRead sec addr n
      ({ st := st, data := (l.map (le 4)).flatten }, t)

/-- The object that a register's first mirrored field belongs to: its newest fault code. -/
def regFault (s : State) (addr : Nat) : Nat :=
  match (fieldsAt addr).findSome? fun f => match f.h with | .mem m i _ _ => some (m.cls, m.lo + i) | _ => none with
  | some (c, i) => s.newestOf c i
  | none => 0

def reqRegWrite (s : State) (rq : Rq) (addr mask value : Nat) : State :=
  let secOnly := [24, 28, 29, 30, 31].contains ((windowOf addr).getD 0)
  let o : OpRule := { code := 0x301, secure := secOnly, life := if secOnly then [0, 3] else writeLife }
  s.handle rq o addr true fun sec s =>
    let (st, v, t) := s.regWrite sec addr (mask % 2 ^ 32) (value % 2 ^ 32)
    ({ st := st, data := if st.accepted then le 4 v else [], fcode := s.regFault addr }, t)

/-! ### Data opcodes (R534) -/

def reqLedgerRead (s : State) (rq : Rq) (recno n : Nat) : State :=
  s.handle rq { code := 0x400, life := anyLife, moth := true } 0 true fun sec s =>
    ({ st := .ok, data := s.ledgerRead recno n sec }, s)

def cellSvc (s : State) (rq : Rq) (r op slot addr : Nat) (data : List Byte) : State :=
  s.handle rq { code := 0x401, life := writeLife } 0 (data.length ≤ 116) fun sec s =>
    if !sec && (s.blockSecure 19 || (s.life = 2 && (op = 2 || op = 3))) then ({ st := .deniedWorld }, s)
    else if 4 ≤ r || s.n RING.NCELL r ≤ slot then ({ st := .badValue }, s)
    else if (s.link r).svc.isSome then ({ st := .busy }, s)
    else if s.rState r != 3 && s.rState r != 4 then ({ st := .stopped }, s)
    else
      let x := s.link r
      let q : Svc := { slot := slot, tid := x.tid, op := op, addr := addr, data := data }
      ({ st := .ok, defer := some (.cellSvc r) }, s.setLink r { x with svc := some q, tid := (x.tid + 1) % 256 })

/-- CAN_TX permits the length, the identifier and the formats of a frame (R562). -/
def canTxOk (s : State) (p flags id len : Nat) : Bool :=
  let fd := bit flags 1
  p < 4 && flags < 64 && (if fd then (canLens ++ fdLens).contains len else canLens.contains len) &&
    id ≤ (if bit flags 0 then 0x1FFFFFFF else 0x7FF) && !((fd || bit flags 2) && s.g CAN.FDEN p = 0)

def canTx (s : State) (rq : Rq) (p flags id : Nat) (data : List Byte) : State :=
  s.handle rq { code := 0x402, life := writeLife } 0 (data.length ≤ 64) fun sec s =>
    if !sec && (s.blockSecure 20 || bit flags 3) then ({ st := .deniedWorld }, s)
    else if !s.canTxOk p flags id data.length then ({ st := .badValue }, s)
    else if s.g CAN.STATE p = 0 then ({ st := .stopped }, s)
    else
      let (t, ok) := s.canSend { port := p, flags := flags, id := id, data := data }
      if ok then ({ st := .ok }, t) else ({ st := .ringFull }, s)

/-! ### Security opcodes (R535) -/

def reqReset (s : State) (rq : Rq) (nonce sig : Nat) : State :=
  s.handle rq { code := 0x600, life := anyLife, moth := true } 0 true fun _ s =>
    let (st, t) := s.resetRequest (s.portOf rq) nonce sig
    ({ st := st }, t)

def reqFwBegin (s : State) (rq : Rq) (slot len ver : Nat) : State :=
  s.handle rq { code := 0x601, secure := true, life := writeLife, moth := true } 0 true fun _ s =>
    let (st, t) := s.fwBegin slot len ver
    ({ st := st }, t)

def reqFwData (s : State) (rq : Rq) (off : Nat) (data : List Byte) : State :=
  s.handle rq { code := 0x602, secure := true, life := writeLife, moth := true } 0
    (1 ≤ data.length && data.length ≤ 1016) fun _ s =>
    let (st, t) := s.fwData off data
    ({ st := st }, t)

def reqFwEnd (s : State) (rq : Rq) (digest sig : Nat) : State :=
  s.handle rq { code := 0x603, secure := true, life := writeLife, moth := true } 0 true fun _ s =>
    if s.sec.fw.isNone then ({ st := .badValue }, s)
    else
      let (st, t, pay) := s.fwFinish digest sig
      ({ st := st, data := pay, defer := some .work }, t)

def reqLife (s : State) (rq : Rq) (target nonce sig : Nat) : State :=
  s.handle rq { code := 0x604, secure := true, life := anyLife } 0 true fun _ s =>
    let (st, t) := s.lifeRequest (s.portOf rq) target nonce sig
    if st.accepted then ({ st := .ok, defer := some (.lifeReq target) }, t) else ({ st := st }, t)

/-! ### Ring 0 (R536) -/

def reqStop (s : State) (rq : Rq) (axes cat scope : Nat) : State :=
  s.handle rq { code := 0x700, ring0 := true, window := false, life := anyLife, moth := true } 0 true fun _ s =>
    if 2 < cat || 1 < scope then ({ st := .badValue }, s)
    else ({ st := .ok }, s.ringStop (if scope = 0 then 0xFFFF else axes % 65536) cat)

def reqEmode (s : State) (rq : Rq) (axes mode : Nat) : State :=
  s.handle rq { code := 0x701, ring0 := true, window := false, secure := true, life := writeLife } 0 true fun _ s =>
    if mode < 2 || 4 < mode then ({ st := .badValue }, s) else ({ st := .ok }, s.ringEmode (axes % 65536) mode)

/-! ### Parameter sets (R537–R542) -/

/-- The bytes of an item, and of a set (log entry 14). -/
def itemBytes (q : PsetItem) : List Byte :=
  le 4 q.addr ++ le 1 q.ty ++ zeros 3 ++ padTo 8 (leInt (match tyOf q.ty with | some t => t.bytes | none => 8) q.v)
def setBytes' (l : List PsetItem) : List Byte := (l.map itemBytes).flatten
def setDigest (l : List PsetItem) : Nat := (Config.sha256 (setBytes' l)).toNat

/-- The item names a CFG member (R528), and one whose member is RW-S. -/
def isCfg (a : Nat) : Bool := (a / 16777216 = 5 || a / 16777216 = 6 || a / 16777216 = 9) && a % 4096 = 2
def isRws (a : Nat) : Bool := match lookup a with | some (m, _, _) => m.acc = .rws | none => false

/-- A signature is required (R540). -/
def psetNeeds (s : State) (l : List PsetItem) : Bool := s.life = 2 && l.any fun q => isRws q.addr

/-- The flags of PSET_VERIFY. -/
def psetFlags (l : List PsetItem) (needed valid : Bool) : Nat :=
  b2n needed + 2 * b2n valid + 4 * b2n (l.any fun q => isRws q.addr) + 8 * b2n (l.any fun q => isCfg q.addr)

/-- What keeps a request from the open set (R538). -/
def psetBar (s : State) (rq : Rq) (sec : Bool) (handle : Nat) : Except Status Pset :=
  match s.pset with
  | none => .error .badValue
  | some p =>
    if p.secure != sec then .error .deniedWorld
    else if p.handle != handle then .error .badValue
    else if p.port != s.portOf rq then .error .busy
    else .ok p

/-- What refuses an item at staging (R539). -/
def itemBar (s : State) (sec : Bool) (q : PsetItem) : Option Status :=
  match s.resolve q.addr with
  | some (m, _, _) =>
    if m.ty = .o16 then some .badObject
    else match s.writeBar sec q.addr q.ty q.v with
      | .error st => some st
      | .ok (m, _, _) => if m.num = 1 || m.acc = .wo || m.acc = .wos || m.acc = .ro then some .badValue else none
  | none => if isWhole q.addr then some .badValue else some .badObject

/-- Stages items until one is refused. -/
def stageItems (s : State) (sec : Bool) : List PsetItem → List PsetItem → List PsetItem × Option (Status × Nat)
  | acc, [] => (acc, none)
  | acc, q :: l => match s.itemBar sec q with
    | some st => (acc, some (st, q.addr))
    | none => s.stageItems sec (acc ++ [q]) l

def nextHandle (s : State) : Nat := if (s.psetNo + 1) % 65536 = 0 then 1 else (s.psetNo + 1) % 65536

def psetOpen (s : State) (rq : Rq) : State :=
  s.handle rq { code := 0x200, life := writeLife } 0 true fun sec s =>
    if s.pset.isSome then ({ st := .busy }, s)
    else
      let h := s.nextHandle
      ({ st := .ok, data := le 2 h ++ zeros 2 },
       { s with psetNo := h, pset := some { handle := h, port := s.portOf rq, secure := sec } })

def psetStage (s : State) (rq : Rq) (handle first : Nat) (l : List PsetItem) : State :=
  s.handle rq { code := 0x201, life := writeLife } 0 (1 ≤ l.length && l.length ≤ 85) fun sec s =>
    match s.psetBar rq sec handle with
    | .error st => ({ st := st }, s)
    | .ok p =>
      if first != p.items.length || 4096 < first + l.length then ({ st := .badValue }, s)
      else
        let (items, bad) := s.stageItems sec p.items l
        let t := { s with pset := some { p with items := items, verified := false, sigValid := false } }
        let pay := le 2 items.length ++ zeros 2
        match bad with
        | none => ({ st := .ok, data := pay }, t)
        | some (st, a) => ({ st := st, addr := some a, data := pay }, t)

/-- The state in which the placement of a set is judged: its values in place, its objects that leave the
configuration removed. -/
def psetTrial (s : State) (l : List PsetItem) : State :=
  let s := l.foldl (fun s q => match s.resolve q.addr with
    | some (m, i, x) => if isCfg q.addr then s else s.put m i q.v x
    | none => s) s
  l.foldl (fun s q => if isCfg q.addr && q.v = 0 then s.removeTasks (q.addr / 16777216) (q.addr / 4096 % 4096) else s) s

/-- The objects that a set commits: those whose last CFG item is 1. -/
def psetObjs (l : List PsetItem) : List (Nat × Nat) :=
  let last := fun (a : Nat) => (l.filter fun q => q.addr == a).getLast?.any fun q => q.v == 1
  ((l.filter fun q => isCfg q.addr && last q.addr).map fun q => (q.addr / 16777216, q.addr / 4096 % 4096)).eraseDups

/-- The set's placement is admitted as a whole (R69): none, BAD_VALUE or CAPACITY. -/
def psetAdmit (s : State) (l : List PsetItem) : Option Status :=
  let t := s.psetTrial l
  let os := psetObjs l
  match os.findSome? fun o => t.cfgBar o.1 o.2 with
  | some st => some (if st = .capacity then st else .badValue)
  | none => if (t.cfgCommitAll os).isNone then some .capacity else none

/-- A signature of the set verifies under the parameter-set key (R618): for this device, or for every device. -/
def psetSigOk (s : State) (l : List PsetItem) (sig : Nat) : Bool :=
  let d := le 32 (setDigest l)
  Config.ecdsaVerify (s.otpKey 3) (Config.sha256 (d ++ le 8 Config.uid.toNat)) sig ||
    Config.ecdsaVerify (s.otpKey 3) (Config.sha256 (d ++ zeros 8)) sig

def psetVerify (s : State) (rq : Rq) (handle : Nat) (sig : Option Nat) : State :=
  s.handle rq { code := 0x202, life := writeLife } 0 true fun sec s =>
    match s.psetBar rq sec handle with
    | .error st => ({ st := st }, s)
    | .ok p =>
      let l := p.items
      let needed := s.psetNeeds l
      let valid := match sig with | some v => s.psetSigOk l v | none => false
      let s := if needed && sig.isSome && !valid then s.alarm 0xA201 noInst [61] 0 0x20 else s
      let bad := l.any fun q => (s.itemBar sec q).isSome
      let st := if needed && !valid then Status.deniedWorld else if bad then .badValue else (s.psetAdmit l).getD .ok
      let t := { s with pset := some { p with verified := st = .ok, sigNeeded := needed, sigValid := valid } }
      let pay := le 2 l.length ++ zeros 2 ++ le 32 (setDigest l) ++ le 4 (crc32c (setBytes' l)) ++
        le 1 (psetFlags l needed valid) ++ zeros 3
      ({ st := st, data := pay, defer := some .work }, t)

/-- The CFG items of a set take effect (R541 step 4). -/
def psetPlace (s : State) (l : List PsetItem) : Status × State :=
  let off := l.filter fun q => isCfg q.addr && !(psetObjs l).contains (q.addr / 16777216, q.addr / 4096 % 4096)
  let (st, s) := off.foldl (fun (st, s) q =>
    let (r, t) := s.cfgRemove (q.addr / 16777216) (q.addr / 4096 % 4096)
    (if r.accepted then st else r, t)) (Status.ok, s)
  if !st.accepted then (st, s)
  else match (psetObjs l).findSome? fun o => s.cfgBar o.1 o.2 with
    | some r => (r, s)
    | none => match s.cfgCommitAll (psetObjs l) with
      | none => (.capacity, s)
      | some t => (.pending, t)

/-- PSET_COMMIT past its first check (R541): the reply's status, its ADDR, the items applied, and the state. -/
def psetApply (s : State) (sec : Bool) (l : List PsetItem) : Status × Option Nat × Nat × State :=
  match s.psetAdmit l with
  | some .capacity => (.capacity, none, 0, s)
  | _ =>
    let (k, st, a, t) := s.writeItems sec (l.filter fun q => !isCfg q.addr) 0 .ok
    if !st.accepted then (st, a, k, t)
    else
      let (st, t) := if l.any fun q => isCfg q.addr then t.psetPlace l else (.ok, t)
      (st, none, if st.accepted then l.length else k, if st.accepted then t.ledger 0xF006 0xFFFF 1 else t)

def psetCommit (s : State) (rq : Rq) (handle digest : Nat) : State :=
  s.handle rq { code := 0x203, life := writeLife } 0 true fun sec s =>
    match s.psetBar rq sec handle with
    | .error st => ({ st := st }, s)
    | .ok p =>
      if s.psetNeeds p.items && !p.sigValid then ({ st := .deniedWorld }, s)
      else if !p.verified || setDigest p.items != digest then ({ st := .badValue }, s)
      else
        let (st, a, k, t) := s.psetApply sec p.items
        ({ st := st, addr := a, data := le 2 k ++ zeros 2, defer := some .work }, t)

def psetAbort (s : State) (rq : Rq) (handle : Nat) : State :=
  s.handle rq { code := 0x204, life := writeLife } 0 true fun sec s =>
    match s.psetBar rq sec handle with
    | .error st => ({ st := st }, s)
    | .ok _ => ({ st := .ok }, { s with pset := none })

/-- The stored set of slot `k`. -/
def psetSlot (s : State) (k : Nat) : Option PsetSlot := (s.mram.psets.find? fun e => e.1 == k).map (·.2)

def psetStore (s : State) (rq : Rq) (handle slot : Nat) : State :=
  s.handle rq { code := 0x205, life := writeLife } 0 true fun sec s =>
    match s.psetBar rq sec handle with
    | .error st => ({ st := st }, s)
    | .ok p =>
      if 3 < slot || !p.verified then ({ st := .badValue }, s)
      else
        let q : PsetSlot := { items := p.items, secure := p.secure, sigNeeded := p.sigNeeded, sigValid := p.sigValid }
        let m := s.mram.psets.filter fun e => e.1 != slot
        ({ st := .ok, defer := some .work },
         ({ s with mram := { s.mram with psets := Tbl.ins m slot q } } : State).mramWrite (528 + 16 * slot))

def psetLoad (s : State) (rq : Rq) (slot : Nat) : State :=
  s.handle rq { code := 0x206, life := writeLife } 0 true fun sec s =>
    match s.psetSlot slot with
    | none => ({ st := .badValue }, s)
    | some q =>
      if q.secure != sec then ({ st := .deniedWorld }, s)
      else if s.pset.isSome then ({ st := .busy }, s)
      else
        let h := s.nextHandle
        let p : Pset := { handle := h, port := s.portOf rq, secure := q.secure, items := q.items }
        ({ st := .ok, data := le 2 h ++ le 2 q.items.length }, { s with psetNo := h, pset := some p })

def psetInfo (s : State) (rq : Rq) (slot : Nat) : State :=
  s.handle rq { code := 0x207, life := readLife } 0 true fun _ s =>
    match s.psetSlot slot with
    | none => ({ st := .badValue }, s)
    | some q =>
      let pay := le 2 q.items.length ++ le 1 (psetFlags q.items q.sigNeeded q.sigValid) ++ le 1 (b2n q.secure) ++
        le 32 (setDigest q.items)
      ({ st := .ok, data := pay }, s)

/-- PSET_TIMEOUT (R538): 60 s without a PSET request of the set. -/
def psetTimeout (s : State) : State := if s.pset.isNone then s else { s with pset := none }.ledger 0xF006 0xFFFF 2

/-! ### VRA-1120 compatibility (R543) -/

/-- `v` held to the limits of int16. -/
def sat16 (v : Int) : Int := max (-32768) (min 32767 v)

/-- A quantity per its base in units of 1 ÷ `k`; where the base is 0 the spec states no result. -/
def perUnit (s : State) (v base : F32) (k : Nat) : Int × State :=
  if base.zero? then s.takeInt else
    let q := (v.div base).mul (F32.ofInt k)
    (if q.special? then (if q.neg? then -32768 else 32767) else sat16 q.nearest, s)

/-- The state word of V1_STATUS. -/
def v1State (s : State) (x : Nat) : Nat :=
  b2n (s.b AXIS.ENABLE x) + 2 * b2n ([1, 3, 4, 5, 7].contains (s.n PROF.STATE x)) + 4 * b2n (s.atRest x)
    + 8 * b2n ((s.machsOf x).any fun m => (s.machX m).policy) + 16 * b2n (s.stopOver x) + 32 * b2n (s.b PROF.HOMED x)
    + 64 * b2n (s.g GIVE.STATE x = 2 || s.g GIVE.STATE x = 3)

/-- The address names member 0 of an instance of class `c` below `n`. -/
def v1Addr (addr c n : Nat) : Option Nat :=
  if addr / 16777216 = c && addr % 4096 = 0 && addr / 4096 % 4096 < n then some (addr / 4096 % 4096) else none

def v1Status (s : State) (rq : Rq) (addr : Nat) : State :=
  s.handle rq { code := 0x800, life := readLife } addr true fun sec s =>
    match v1Addr addr 5 16 with
    | none => ({ st := .badObject }, s)
    | some x =>
      if !sec && s.blockSecure 5 then ({ st := .deniedWorld }, s)
      else
        let (v, t) := s.perUnit (s.f AXIS.SPD x) (s.f AXIS.VMAX x) 16384
        let (q, t) := t.perUnit (s.f AXIS.TDEM x) (s.f MACH.TRATED (s.refm x)) 4096
        ({ st := .ok, data := le 2 (s.v1State x) ++ le 2 (s.newestOf 5 x) ++ leInt 4 (s.g AXIS.POS x / 65536) ++
            leInt 2 v ++ leInt 2 q ++ zeros 4 }, t)

def v1Move (s : State) (rq : Rq) (addr ty flags : Nat) (speed target : Int) : State :=
  s.handle rq { code := 0x801, life := writeLife } addr true fun sec s =>
    match v1Addr addr 5 16 with
    | none => ({ st := .badObject }, s)
    | some x =>
      let vmax := s.f AXIS.VMAX x
      if !sec && s.blockSecure 5 then ({ st := .deniedWorld }, s)
      else if vmax.zero? || ty < 1 || 3 < ty then ({ st := .badValue }, s)
      else
        let vel := ((F32.ofInt speed).mul vmax).mul (F32.ofFrac 1 16384)
        let s := (s.put PROF.TYPE x ty).put PROF.TARGET x (target * 65536)
        let s := (((s.putF PROF.VEL x vel).putF PROF.ACC x F32.zero).putF PROF.DEC x F32.zero).putF PROF.JERK x F32.zero
        let fl := s.n PROF.FLAGS x
        let s := (s.put PROF.FLAGS x (fl - fl % 2 + b2n (bit flags 1) : Nat)).put PROF.TAG x (rq.seq % 65536 : Nat)
        let (st, t) := s.applyWrite sec PROF.PUSH x 0 (if bit flags 0 then 2 else 1)
        ({ st := st, fcode := s.newestOf 18 x }, t)

def v1Tune (s : State) (rq : Rq) (addr subop : Nat) (atd : Int) : State :=
  s.handle rq { code := 0x802, life := writeLife } addr true fun sec s =>
    match v1Addr addr 16 96 with
    | none => ({ st := .badObject }, s)
    | some n =>
      if !s.tunable n then ({ st := .badObject }, s)
      else if !sec && s.blockSecure 5 then ({ st := .deniedWorld }, s)
      else if subop = 0 then
        let (st, t) := s.applyWrite sec LOOP.ATSTART n 0 0
        ({ st := st, fcode := s.newestOf 16 n }, t)
      else if subop = 2 then
        ({ st := .ok, data := le 1 (s.n LOOP.ATSTATE n) ++ zeros 3 ++ le 4 (s.n LOOP.ATKPPU n) ++ le 4 (s.n LOOP.ATTI n) }, s)
      else if subop = 1 then
        let base := if n < 32 then (s.f MACH.VDCNOM n).div (F32.sqrt (F32.ofInt 3)) else s.f MACH.TRATED (s.refm ((n - 32) / 4))
        let d := (base.mul (F32.ofInt atd)).mul (F32.ofFrac 1 4096)
        if !s.rangeOk LOOP.ATD n d.toBits then ({ st := .badValue }, s)
        else
          let s := (s.put LOOP.ATRULE n 0).putF LOOP.ATD n d
          let (st, t) := s.applyWrite sec LOOP.ATSTART n 0 1
          ({ st := st, fcode := s.newestOf 16 n }, t)
      else ({ st := .badValue }, s)

end State
end Sys2Proof.Machine
end

