-- ==== Sys2Proof/Machine/Analogue.lean ====
section
/-! DEFINITION. The commands of the ΣΔ and SAR inputs: one meaning for each row of the opcode table. -/
namespace Sys2Proof.Machine

/-- SD_TRIP (R154): The trip filter's density stays beyond a trip density for TRIPCNT periods, `off` units of 50 ps
after the mark. -/
def execSdTrip (q : SdBits) (off : Nat) (s : State) : Host.Outcome State Fault Refusal :=
  .next ((s.atOff off).sdTripOn q).settleStops

/-- SD_LOST (R159): A ΣΔ data line delivers RUNMAX identical bits and the input is lost. -/
def execSdLost (q : SdBits) (s : State) : Host.Outcome State Fault Refusal :=
  .next (s.sdRunOut q).settleStops

/-- OFFSET_CAPTURE (R163): Assay completes an offset capture over 4,096 latches. -/
def execOffsetCapture (k : Fin 48) (off : Nat) (s : State) : Host.Outcome State Fault Refusal :=
  .next ((s.atOff off).offsetCapture k.val)

/-- SD_CLEAR (R161): A write of SD CLEAR restores a lost input. -/
def execSdClear (w : Wq) (s : State) : Host.Outcome State Fault Refusal :=
  .next (s.rowWrite w SD.CLEAR 1).settleStops

/-- GAINREF (R164): A write of GAINREF starts a gain calibration, over the latches up to its answer. -/
def execGainref (w : Wq) (v : Int) (more : List Nat) (s : State) : Host.Outcome State Fault Refusal :=
  .next ((s.sdMore w.inst more).rowWrite w SD.GAINREF v)

/-- AIN_CONVERSION (R166): A SAR conversion completes and the input value is updated. -/
def execAinConversion (n : Fin 8) (codes : List Nat) (skips : Nat) (s : State) : Host.Outcome State Fault Refusal :=
  .next (s.ainConversion n.val codes skips).settleStops

end Sys2Proof.Machine
end

