-- ==== Sys2Proof/Machine/Background.lean ====
section
/-! DEFINITION. The commands of the background services, and the rest of the table: one meaning for each row of the opcode table. -/
namespace Sys2Proof.Machine

/-- AUDIT_SCRUB (R585): Audit reads and checks the next unit of a memory. -/
def execAuditScrub (find : AuditFind) (s : State) : Host.Outcome State Fault Refusal :=
  .next (s.auditScrub find).settleStops

/-- LEDGER_WRITE (R595): A staged record's COALT window ends and it is written to MRAM. -/
def execLedgerWrite (s : State) : Host.Outcome State Fault Refusal :=
  .next (s.ledgerWrite)

/-- SEAL (R596): After SEALN records or SEALT the Ledger writes a SEAL pair. -/
def execSeal (s : State) : Host.Outcome State Fault Refusal :=
  .next (s.sealPair)

/-- TDEC_HALVING (R601): A second without a discard halves a stream's TDEC. -/
def execTdecHalving (stream : Fin 8) (s : State) : Host.Outcome State Fault Refusal :=
  .next (s.tdecHalving stream.val)

/-- BAD_FRAME (R515): A window or ring 0 entry that fails the frame checks, including an unknown opcode, is answered
with BAD_FRAME and counted. -/
def execBadFrame (rq : Rq) (opcode : Nat) (s : State) : Host.Outcome State Fault Refusal :=
  .next (s.badFrame rq opcode)

/-- BUS_INTEGRATION (R557): A CAN port in INTEGRATING sees 11 consecutive recessive bits and enters ACTIVE. -/
def execBusIntegration (port : Fin 4) (s : State) : Host.Outcome State Fault Refusal :=
  .next (s.busIntegration port.val)

/-- ARBITRATION_LOST (R565): A transmit attempt is lost in arbitration, which counts an attempt and ARBLOST. -/
def execArbitrationLost (port : Fin 4) (s : State) : Host.Outcome State Fault Refusal :=
  .next (s.arbitrationLost port.val)

/-- COMPARE_PULSE_END (R138): A compare output that went active for PULSEW ns returns to its inactive level. -/
def execComparePulseEnd (c : Fin 4) (s : State) : Host.Outcome State Fault Refusal :=
  .next (s.comparePulseEnd c.val)

/-- CAL_STALE (R587): The age of a calibration exceeds CALMAX and CAL_STALE is written once per excursion. -/
def execCalStale (which : Fin 3) (s : State) : Host.Outcome State Fault Refusal :=
  .next (s.calStale which.val)

/-- DIODE_CALIBRATION (R587): Assay calibrates the temperature diode against the band-gap point every 60 s and
corrects its reading. -/
def execDiodeCalibration (corr : F32) (s : State) : Host.Outcome State Fault Refusal :=
  .next (s.diodeCalibration corr)

/-- OTP_BURN_VERIFIED (R615): The burnt OTP bits are read back and verified, and KEYSTAT shows the field or OTP_BURN
is written. -/
def execOtpBurnVerified (ok : Bool) (s : State) : Host.Outcome State Fault Refusal :=
  .next (s.otpBurnVerified ok)

/-- RESERVE_COMMIT_DONE (R592): The counter commit requested by COMMIT reaches MRAM and event source 48 is raised. -/
def execReserveCommitDone (s : State) : Host.Outcome State Fault Refusal :=
  .next (s.reserveCommitDone)

/-- TABCRC_CHECK (R328): Once per second MOD checks TABCRC of every host pattern table in use and falls back to the
factory table on a mismatch. -/
def execTabcrcCheck (bad : Nat) (s : State) : Host.Outcome State Fault Refusal :=
  .next (s.tabcrcCheck bad)

/-- FALLBACK_BLOCK_FRAME (R404): After a reference loss, XLNK sends each of its 8 BLOCK frames at 20 µs of the
fallback oscillator and then switches its transmitters off. -/
def execFallbackBlockFrame (s : State) : Host.Outcome State Fault Refusal :=
  .next (s.fallbackBlockFrame)

/-- WBCOUNT_INTERNAL_ADVANCE (R652): While the reference is lost, SYS[0].WBCOUNT advances by one every T_w on the
internal oscillator. -/
def execWbcountInternalAdvance (s : State) : Host.Outcome State Fault Refusal :=
  .next (s.wbcountAdvance)

/-- DEBUG_ACCESS (R628): A JTAG instruction or debug-port access to registers or memory, including TBASE.TESTCFG.EARLY
and the NONCE register, is executed as its life-cycle gating permits. -/
def execDebugAccess (op : DebugOp) (s : State) : Host.Outcome State Fault Refusal :=
  .next (s.debugAccess op)

/-- RECEIVER_WORD_LOCK (R410): A device cell-link receiver that lost word lock regains it, and its LOCKA or LOCKB bit
is set again. -/
def execReceiverWordLock (ring : Fin 4) (dirB : Bool) (s : State) : Host.Outcome State Fault Refusal :=
  .next (s.wordLock ring.val dirB)

end Sys2Proof.Machine
end

