-- ==== Sys2Proof/Machine/CanBus.lean ====
section
/-! DEFINITION. The commands of the CAN ports and partners: one meaning for each row of the opcode table. -/
namespace Sys2Proof.Machine

/-- CAN_FRAME_RECEIVED (R569): A frame received without error is written to the port's receive ring. -/
def execCanFrameReceived (port : Fin 4) (f : CanRx) (s : State) : Host.Outcome State Fault Refusal :=
  .next (s.canFrameReceived port.val f).settleStops

/-- STOP_MATCH (R572): A frame matches the port's stop matcher and raises its stop request. -/
def execStopMatch (port : Fin 4) (f : CanRx) (s : State) : Host.Outcome State Fault Refusal :=
  .next (s.stopMatch port.val f).settleStops

/-- CAN_TX_DONE (R564): A transmit buffer's frame is sent and the buffer is emptied. -/
def execCanTxDone (port : Fin 4) (s : State) : Host.Outcome State Fault Refusal :=
  .next (s.canTxDone port.val)

/-- CAN_ERROR (R558): A bus error changes TEC or REC and may change the port state. -/
def execCanError (port : Fin 4) (tx tdc : Bool) (dtec drec : Nat) (s : State) : Host.Outcome State Fault Refusal :=
  .next (s.canError port.val tx tdc dtec drec).settleStops

/-- BUS_OFF_RECOVERY (R559): 128 occurrences of 11 recessive bits return the port to ACTIVE. -/
def execBusOffRecovery (port : Fin 4) (s : State) : Host.Outcome State Fault Refusal :=
  .next (s.busOffRecovery port.val)

/-- PROTOCOL_EXCEPTION (R561): An FD frame on a classical port raises the protocol exception event. -/
def execProtocolException (port : Fin 4) (s : State) : Host.Outcome State Fault Refusal :=
  .next (s.protocolException port.val)

/-- PARTNER_SILENT (R575): No matching frame for SILTMO makes a partner silent. -/
def execPartnerSilent (p : Fin 256) (s : State) : Host.Outcome State Fault Refusal :=
  .next (s.partSilent p.val).settleStops

/-- PARTNER_ENABLE_TIMEOUT (R577): ENTMO elapses before the remote drive reports ready. -/
def execPartnerEnableTimeout (p : Fin 256) (s : State) : Host.Outcome State Fault Refusal :=
  .next (s.partEnableTimeout p.val).settleStops

/-- CAN_ENABLE (R552): A write of CAN EN checks the timing and starts integration. -/
def execCanEnable (w : Wq) (s : State) : Host.Outcome State Fault Refusal :=
  .next (s.rowWrite w CAN.EN 1)

/-- CAN_DISABLE (R579): A write of CAN EN = 0 flushes queues and buffers. -/
def execCanDisable (w : Wq) (s : State) : Host.Outcome State Fault Refusal :=
  .next (s.rowWrite w CAN.EN 0).settleStops

/-- CAN_RECOVER (R559): A write of RECOVER starts bus-off recovery counting. -/
def execCanRecover (w : Wq) (s : State) : Host.Outcome State Fault Refusal :=
  .next (s.rowWrite w CAN.RECOVER 1)

/-- RESTR_WRITE (R560): A write of RESTR enters or leaves restricted operation mode. -/
def execRestrWrite (w : Wq) (v : Int) (s : State) : Host.Outcome State Fault Refusal :=
  .next (s.rowWrite w CAN.RESTR v)

/-- PART_ENABLE (R573): A write of PART EN enables or disables a partner. -/
def execPartEnable (w : Wq) (v : Int) (s : State) : Host.Outcome State Fault Refusal :=
  .next (s.rowWrite w PART.EN v).settleStops

/-- CAN_RESET_REQUEST (R648): A step 1 frame starts a CAN remote reset exchange and the device sends a nonce. -/
def execCanResetRequest (port : Fin 4) (f : CanRx) (s : State) : Host.Outcome State Fault Refusal :=
  .next (s.canResetRequest port.val f)

/-- CAN_RESET_SIGNATURE (R648): Step 3 and step 4 frames deliver the signature, which is checked. -/
def execCanResetSignature (port : Fin 4) (f : CanRx) (s : State) : Host.Outcome State Fault Refusal :=
  .next (s.canResetSignature port.val f)

/-- CAN_REMOTE_RESET (R648): 1 ms after frame 5 is valid the device resets. -/
def execCanRemoteReset (port : Fin 4) (s : State) : Host.Outcome State Fault Refusal :=
  .next (s.canRemoteReset port.val)

end Sys2Proof.Machine
end

