-- ==== Sys2Proof/Machine/CellRing.lean ====
section
/-! DEFINITION. The commands of the cell rings and cells: one meaning for each row of the opcode table. -/
namespace Sys2Proof.Machine

/-- LINK_LOCK (R406): Both receivers are word-locked for 1 ms and the ring enters ENUMERATE. -/
def execLinkLock (ring : Fin 4) (s : State) : Host.Outcome State Fault Refusal :=
  .next (s.linkLock ring.val)

/-- LINKTMO (R409): LINKTMO elapses: degraded start or FAILED. -/
def execLinktmo (ring : Fin 4) (s : State) : Host.Outcome State Fault Refusal :=
  .next (s.linkTimeout ring.val)

/-- ENUMERATION_DONE (R407): 16 consecutive frame pairs agree and enumeration succeeds. -/
def execEnumerationDone (ring : Fin 4) (a b : List (Nat × Nat)) (la lb : Nat) (da : List Nat) (s : State) : Host.Outcome State Fault Refusal :=
  .next (s.enumerationDone ring.val a b la lb da)

/-- ENUMTMO (R406): ENUMTMO elapses and the ring enters FAILED. -/
def execEnumtmo (ring : Fin 4) (s : State) : Host.Outcome State Fault Refusal :=
  .next (s.enumTimeout ring.val)

/-- BLOCKING_READY (R407): Every slot returns 64 accepted responses and the ring enters BLOCKING. -/
def execBlockingReady (ring : Fin 4) (uids : List Nat) (s : State) : Host.Outcome State Fault Refusal :=
  .next (s.blockingReady ring.val uids)

/-- RESPONSE_RECEIVED (R398): A returning frame's response slots are checked and accepted. -/
def execResponseReceived (ring : Fin 4) (f : FrameIn) (s : State) : Host.Outcome State Fault Refusal :=
  .next (s.responseReceived ring.val f).settleStops

/-- PORT_LOSS (R410): A device receiver loses word lock. -/
def execPortLoss (ring : Fin 4) (dirB : Bool) (s : State) : Host.Outcome State Fault Refusal :=
  .next (s.portLoss ring.val dirB).settleStops

/-- RING_ENABLE (R406): A write of RING EN = 1 starts LINKUP; EN = 0 takes the ring OFF. -/
def execRingEnable (w : Wq) (v : Int) (s : State) : Host.Outcome State Fault Refusal :=
  .next (s.rowWrite w RING.EN v).settleStops

/-- RING_RUN (R408): A write of RUN = 1 is decided; RUN = 0 returns the ring to BLOCKING. -/
def execRingRun (w : Wq) (v : Int) (s : State) : Host.Outcome State Fault Refusal :=
  .next (s.rowWrite w RING.RUN v).settleStops

/-- CELL_APPLY (R405): A cell executes its command at the apply instant. -/
def execCellApply (ring : Fin 4) (pos : Fin 384) (a b : Option Nat) (dead : Bool) (s : State) : Host.Outcome State Fault Refusal :=
  .next (s.cellApply ring.val pos.val a b dead)

/-- CELL_DIRECTION_LOSS (R400): A cell loses a receive direction and sources frames. -/
def execCellDirectionLoss (ring : Fin 4) (pos : Fin 384) (dirB : Bool) (s : State) : Host.Outcome State Fault Refusal :=
  .next (s.cellDirectionLoss ring.val pos.val dirB)

/-- CELL_BLOCK (R402): A cell receives a blocking header and blocks within 100 ns. -/
def execCellBlock (ring : Fin 4) (pos : Fin 384) (s : State) : Host.Outcome State Fault Refusal :=
  .next (s.cellBlock ring.val pos.val)

end Sys2Proof.Machine
end

