-- ==== Sys2Proof/Machine/Converter.lean ====
section
/-! DEFINITION. The commands of the converters and their cells: one meaning for each row of the opcode table. -/
namespace Sys2Proof.Machine

/-- CONV_ENABLE (R439): A write of CONV ENABLE is decided. -/
def execConvEnable (w : Wq) (v : Int) (s : State) : Host.Outcome State Fault Refusal :=
  .next (s.rowWrite w CONV.ENABLE v).settleStops

/-- CONV_CHARGE_DONE (R437): V_dc held for 100 ms with the ring running: the converter enters BALANCE. -/
def execConvChargeDone (c : Fin 8) (s : State) : Host.Outcome State Fault Refusal :=
  .next (s.convChargeDone c.val).settleStops

/-- BALANCE_DONE (R438): Every available cell reaches its pre-charge target. -/
def execBalanceDone (c : Fin 8) (s : State) : Host.Outcome State Fault Refusal :=
  .next (s.balanceDone c.val).settleStops

/-- MAIN_CONTACT_DONE (R438): MAINT after MAINDIO, PCHDIO is released and the converter is READY. -/
def execMainContactDone (c : Fin 8) (s : State) : Host.Outcome State Fault Refusal :=
  .next (s.mainContactDone c.val).settleStops

/-- PRECHARGE_FAIL (R437): PCHTMO elapses in CHARGE or BALANCE. -/
def execPrechargeFail (c : Fin 8) (s : State) : Host.Outcome State Fault Refusal :=
  .next (s.prechargeFail c.val).settleStops

/-- CONV_SHUTDOWN_DONE (R437): MAINT elapses in SHUTDOWN. -/
def execConvShutdownDone (c : Fin 8) (s : State) : Host.Outcome State Fault Refusal :=
  .next (s.convShutdownDone c.val).settleStops

/-- CONV_DISCHARGE_DONE (R437): Cells fall below DISCHV, or DISCHT elapses. -/
def execConvDischargeDone (c : Fin 8) (elapsed : Bool) (s : State) : Host.Outcome State Fault Refusal :=
  .next (s.convDischargeDone c.val elapsed).settleStops

/-- CONV_CLEAR (R441): A write of CONV CLEAR returns the converter to OFF. -/
def execConvClear (w : Wq) (s : State) : Host.Outcome State Fault Refusal :=
  .next (s.rowWrite w CONV.CLEAR 1).settleStops

/-- CELL_CLEAR (R430): A write of CELL CLEAR returns a FAILED cell to OK. -/
def execCellClear (w : Wq) (s : State) : Host.Outcome State Fault Refusal :=
  .next (s.rowWrite w CELL.CLEAR 1).settleStops

/-- CELL_EXCL (R436): A write of EXCL excludes a cell. -/
def execCellExcl (w : Wq) (v : Int) (s : State) : Host.Outcome State Fault Refusal :=
  .next (s.rowWrite w CELL.EXCL v).settleStops

/-- CELL_RETIRE (R432): A secure write of RETIRE retires or restores a cell. -/
def execCellRetire (w : Wq) (v : Int) (s : State) : Host.Outcome State Fault Refusal :=
  .next (s.rowWrite w CELL.RETIRE v).settleStops

end Sys2Proof.Machine
end

