-- ==== Sys2Proof/Machine/Drive.lean ====
section
/-! DEFINITION. The commands of machines, axes, loops, motion and Give: one meaning for each row of the opcode table. -/
namespace Sys2Proof.Machine

/-- MACH_ENABLE (R190): A machine enable or disable request. -/
def execMachEnable (w : Wq) (v : Int) (s : State) : Host.Outcome State Fault Refusal :=
  .next (s.rowWrite w MACH.ENABLE v).settleStops

/-- MACH_CLEAR (R209): A write of MACH CLEAR leaves the fault policy. -/
def execMachClear (w : Wq) (s : State) : Host.Outcome State Fault Refusal :=
  .next (s.rowWrite w MACH.CLEAR 1).settleStops

/-- AXIS_ENABLE (R190): An axis enable or disable request. -/
def execAxisEnable (w : Wq) (v : Int) (s : State) : Host.Outcome State Fault Refusal :=
  .next (s.rowWrite w AXIS.ENABLE v).settleStops

/-- PUSH (R246): A write of PUSH appends a move or makes it immediate. -/
def execPush (w : Wq) (v : Int) (s : State) : Host.Outcome State Fault Refusal :=
  .next (s.rowWrite w PROF.PUSH v)

/-- FLUSH (R250): A write of FLUSH removes every pending move. -/
def execFlush (w : Wq) (s : State) : Host.Outcome State Fault Refusal :=
  .next (s.rowWrite w PROF.FLUSH 1)

/-- FREEZE (R203): A write of LOOP FREEZE starts or ends a coefficient freeze. -/
def execFreeze (w : Wq) (v : Int) (s : State) : Host.Outcome State Fault Refusal :=
  .next (s.rowWrite w LOOP.FREEZE v)

/-- IPRESET (R203): A write of IPRESET presets a loop integrator. -/
def execIpreset (w : Wq) (v : Int) (s : State) : Host.Outcome State Fault Refusal :=
  .next (s.rowWrite w LOOP.IPRESET v)

/-- FREEZE_TIMEOUT (R203): FRZMAX elapses and the freeze ends. -/
def execFreezeTimeout (loop : Fin 96) (s : State) : Host.Outcome State Fault Refusal :=
  .next (s.freezeTimeout loop.val)

/-- ATSTART (R230): A write of ATSTART starts or cancels a relay auto-tune. -/
def execAtstart (w : Wq) (v : Int) (s : State) : Host.Outcome State Fault Refusal :=
  .next (s.rowWrite w LOOP.ATSTART v)

/-- AUTOTUNE_TIMEOUT (R233): ATMAX elapses before the tune completes. -/
def execAutotuneTimeout (loop : Fin 96) (s : State) : Host.Outcome State Fault Refusal :=
  .next (s.autotuneTimeout loop.val)

/-- TRACE_ARM (R224): A write of ARM moves a trace unit to PRE. -/
def execTraceArm (w : Wq) (s : State) : Host.Outcome State Fault Refusal :=
  .next (s.rowWrite w TRACE.ARM 1)

/-- TRIGNOW (R223): A host write of TRIGNOW triggers a trace unit. -/
def execTrignow (w : Wq) (s : State) : Host.Outcome State Fault Refusal :=
  .next (s.rowWrite w TRACE.TRIGNOW 1)

/-- TRACE_READ (R227): A write of READ starts readout of a capture. -/
def execTraceRead (w : Wq) (s : State) : Host.Outcome State Fault Refusal :=
  .next (s.rowWrite w TRACE.READ 1)

/-- FF_ACTIVE (R198): A write of FF ACTIVE checks the table CRC and starts the fade. -/
def execFfActive (w : Wq) (v : Int) (s : State) : Host.Outcome State Fault Refusal :=
  .next (s.rowWrite w FF.ACTIVE v)

/-- SPACK (R194): A write of SPACK makes the setpoint follow its valid source again. -/
def execSpack (w : Wq) (s : State) : Host.Outcome State Fault Refusal :=
  .next (s.rowWrite w AXIS.SPACK 1)

/-- STYLE_WRITE (R334): A write of STYLE selects HUSH or CRISP. -/
def execStyleWrite (w : Wq) (v : Int) (s : State) : Host.Outcome State Fault Refusal :=
  .next (s.rowWrite w MACH.STYLE v)

/-- PATTERN_SRC (R327): A write of SRC selects a host pattern table after its checks. -/
def execPatternSrc (w : Wq) (v : Int) (s : State) : Host.Outcome State Fault Refusal :=
  .next (s.rowWrite w PAT.SRC v)

/-- BRAKE_APPLY_DELAY (R273): BRKAPT at rest elapses and BRKREQ becomes 0. -/
def execBrakeApplyDelay (axis : Fin 16) (s : State) : Host.Outcome State Fault Refusal :=
  .next (s.brakeApplyDelay axis.val)

/-- HOLD_REDUCTION (R274): HOLDT at rest elapses and the standstill current is reduced. -/
def execHoldReduction (axis : Fin 16) (s : State) : Host.Outcome State Fault Refusal :=
  .next (s.holdReduction axis.val)

/-- BRAKE_TIMEOUT (R276): BRKTMO elapses before the brake reports released. -/
def execBrakeTimeout (axis : Fin 16) (s : State) : Host.Outcome State Fault Refusal :=
  .next (s.brakeTimeout axis.val).settleStops

/-- GIVE_RECOVER (R306): L stays below GLREL for GRELT and Give enters RECOVER. -/
def execGiveRecover (axis : Fin 16) (s : State) : Host.Outcome State Fault Refusal :=
  .next (s.giveRecover axis.val)

/-- GIVE_RECOVERED (R306): The limit ramp of GRECT ends and Give returns to ARMED. -/
def execGiveRecovered (axis : Fin 16) (s : State) : Host.Outcome State Fault Refusal :=
  .next (s.giveRecovered axis.val)

/-- GIVE_TIMEOUT (R307): Give stays ACTIVE for GMAXT and the axis enters its fault stop. -/
def execGiveTimeout (axis : Fin 16) (s : State) : Host.Outcome State Fault Refusal :=
  .next (s.giveTimeout axis.val)

/-- MEMBER_DISABLE (R296): A leaving member's weight reaches 0 after PJOIN and the machine is disabled. -/
def execMemberDisable (mach : Fin 32) (s : State) : Host.Outcome State Fault Refusal :=
  .next (s.memberDisable mach.val).settleStops

/-- POOL_TORQUE_DEV (R297): A remote drive's torque deviates for PTDEVT. -/
def execPoolTorqueDev (mach : Fin 32) (s : State) : Host.Outcome State Fault Refusal :=
  .next (s.poolTorqueDev mach.val).settleStops

/-- FEEDBACK_HOLD_END (R211): HOLDT of the feedback-fault hold elapses and category 0 follows. -/
def execFeedbackHoldEnd (axis : Fin 16) (s : State) : Host.Outcome State Fault Refusal :=
  .next (s.feedbackHoldEnd axis.val).settleStops

end Sys2Proof.Machine
end

