-- ==== Sys2Proof/Machine/Engines.lean ====
section
/-! DEFINITION. The commands of the engines: one meaning for each row of the opcode table. -/
namespace Sys2Proof.Machine

/-- ENGINE_FAULT (R92): The engine supervisor declares an engine faulted and its tasks are handled. -/
def execEngineFault (e : Fin 8) (why : EngineWhy) (s : State) : Host.Outcome State Fault Refusal :=
  .next (s.engineFault e.val why.cause.val (why.bad.map (·.val))).settleStops

/-- TASK_OVERRUN (R91): A task not completed 2 T_w after dispatch faults its engine. -/
def execTaskOverrun (task : Fin 168) (s : State) : Host.Outcome State Fault Refusal :=
  .next (s.taskOverrun task.val).settleStops

/-- ENGINE_TEST_START (R94): Assay is free and an ISOLATED engine enters TESTING. -/
def execEngineTestStart (s : State) : Host.Outcome State Fault Refusal :=
  .next (s.engineTestStart)

/-- ENGINE_TEST_DONE (R588): The engine test ends and the engine is readmitted or retired. -/
def execEngineTestDone (pass : Bool) (ms : F32) (s : State) : Host.Outcome State Fault Refusal :=
  .next (s.engineTestDone pass ms)

/-- RETIRED_CLEAR (R94): A secure write in SERVICE clears an engine's RETIRED bit. -/
def execRetiredClear (w : Wq) (v : Int) (s : State) : Host.Outcome State Fault Refusal :=
  .next (s.rowWrite w EXCH.RETIRED v)

end Sys2Proof.Machine
end

