-- ==== Sys2Proof/Machine/Feedback.lean ====
section
/-! DEFINITION. The commands of digital inputs and feedback channels: one meaning for each row of the opcode table. -/
namespace Sys2Proof.Machine

/-- DIO_EDGE (R116): A DIO input's new level is accepted after its filter. -/
def execDioEdge (n : Fin 32) (level : Bool) (t glitches : Nat) (s : State) : Host.Outcome State Fault Refusal :=
  .next (s.dioStopEdge (s.dioEdge n.val level t glitches) n.val).settleStops

/-- DIO_WINDOW_END (R118): A 1 s DIO counting window ends. -/
def execDioWindowEnd (s : State) : Host.Outcome State Fault Refusal :=
  .next (s.dioWindowsEnd).settleStops

/-- DIO_STUCK (R120): A DIO input stays active longer than MAXACT. -/
def execDioStuck (n : Fin 32) (s : State) : Host.Outcome State Fault Refusal :=
  .next (s.dioStopEdge (s.dioStuck n.val) n.val).settleStops

/-- DIO_CLEAR (R119): A write of DIO CLEAR clears an input fault. -/
def execDioClear (w : Wq) (s : State) : Host.Outcome State Fault Refusal :=
  .next (s.rowWrite w DIO.CLEAR 1).settleStops

/-- FB_EDGE (R113): An edge on a pulse channel is accepted and changes the count. -/
def execFbEdge (n : Fin 16) (pin : Fin 3) (level both : Bool) (t glitches : Nat) (s : State) : Host.Outcome State Fault Refusal :=
  .next (s.fbEdge n.val pin.val level both t glitches).settleStops

/-- FB_STUCK (R120): A step or index pin stays active longer than MAXACT. -/
def execFbStuck (n : Fin 16) (index : Bool) (s : State) : Host.Outcome State Fault Refusal :=
  .next (s.fbStuck n.val index).settleStops

/-- SSI_TRANSFER_DONE (R109): An SSI word completes and is classified into one outcome. -/
def execSsiTransferDone (n : Fin 16) (low : Bool) (word : Nat) (s : State) : Host.Outcome State Fault Refusal :=
  .next ((s.ssiDone n.val low word).ssiRelease).settleStops

/-- FB_ENABLE (R130): A write of MODE from 0 enables a feedback channel into INIT. -/
def execFbEnable (w : Wq) (v : Int) (s : State) : Host.Outcome State Fault Refusal :=
  .next (s.rowWrite w FB.MODE v).settleStops

/-- FB_SEL (R130): A host write of SEL switches to or from the fallback. -/
def execFbSel (w : Wq) (v : Int) (s : State) : Host.Outcome State Fault Refusal :=
  .next (s.rowWrite w FB.SEL v).settleStops

/-- FB_CLEAR (R144): A write of FB CLEAR returns a lost channel to INIT. -/
def execFbClear (w : Wq) (s : State) : Host.Outcome State Fault Refusal :=
  .next (s.rowWrite w FB.CLEAR 1).settleStops

/-- POSSET (R144): A write of POSSET sets the served position at the next mark. -/
def execPosset (w : Wq) (v : Int) (s : State) : Host.Outcome State Fault Refusal :=
  .next (s.rowWrite w FB.POSSET v)

/-- IDXARM (R133): A write of IDXARM arms an index correction. -/
def execIdxarm (w : Wq) (s : State) : Host.Outcome State Fault Refusal :=
  .next (s.rowWrite w FB.IDXARM 1)

end Sys2Proof.Machine
end

