-- ==== Sys2Proof/Machine/Keys.lean ====
section
/-! DEFINITION. The commands of security, counters and power: one meaning for each row of the opcode table. -/
namespace Sys2Proof.Machine

/-- KEY_BURN (R615): A write of BURN burns the selected OTP field. -/
def execKeyBurn (w : Wq) (s : State) : Host.Outcome State Fault Refusal :=
  .next (s.rowWrite w SEC.BURN 1)

/-- DSGEN (R616): A write of DSGEN generates and burns the device secret. -/
def execDsgen (w : Wq) (s : State) : Host.Outcome State Fault Refusal :=
  .next (s.rowWrite w SEC.DSGEN 1)

/-- ARBCOMMIT (R622): A write of ARBCOMMIT raises the anti-rollback counter. -/
def execArbcommit (w : Wq) (s : State) : Host.Outcome State Fault Refusal :=
  .next (s.rowWrite w SEC.ARBCOMMIT 1)

/-- FWREVOKE (R622): A write of FWREVOKE revokes FWPK0. -/
def execFwrevoke (w : Wq) (s : State) : Host.Outcome State Fault Refusal :=
  .next (s.rowWrite w SEC.FWREVOKE 1)

/-- DEBUG_UNLOCK (R629): A debug unlock signature shifted into DBGAUTH is checked. -/
def execDebugUnlock (sig : Nat) (s : State) : Host.Outcome State Fault Refusal :=
  .next (s.debugUnlock sig)

/-- RESERVE_COMMIT (R592): A write of COMMIT commits the counters to MRAM. -/
def execReserveCommit (w : Wq) (s : State) : Host.Outcome State Fault Refusal :=
  .next (s.rowWrite w RESERVE.COMMIT 1)

/-- COUNTER_COMMIT (R592): Every 60 s of FLIGHT the counters are committed to MRAM. -/
def execCounterCommit (s : State) : Host.Outcome State Fault Refusal :=
  .next (s.counterCommit)

/-- PSREQ (R662): A write of PSREQ requests a power state. -/
def execPsreq (w : Wq) (v : Int) (s : State) : Host.Outcome State Fault Refusal :=
  .next (s.rowWrite w POWER.PSREQ v)

/-- POWER_ENTRY (R663): The device enters the requested power state. -/
def execPowerEntry (s : State) : Host.Outcome State Fault Refusal :=
  .next (s.powerEntry)

/-- WAKE (R665): An enabled wake source acts below FLIGHT. -/
def execWake (src : WakeSrc) (s : State) : Host.Outcome State Fault Refusal :=
  .next (s.wake src)

/-- WAKE_EXIT_DONE (R666): The device is back in FLIGHT and reports the wake cause. -/
def execWakeExitDone (crcOk : Bool) (ms : Nat) (s : State) : Host.Outcome State Fault Refusal :=
  .next (s.wakeExitDone crcOk ms)

end Sys2Proof.Machine
end

