-- ==== Sys2Proof/Machine/Mailbox.lean ====
section
/-! DEFINITION. The requests of the mailbox: one meaning for each row of the opcode table. -/
namespace Sys2Proof.Machine

/-- NOP (R530): Returns the request payload. -/
def execNop (rq : Rq) (payload : List Byte) (s : State) : Host.Outcome State Fault Refusal :=
  .next (s.nop rq payload)

/-- IDENT (R530): Returns the identity of the device. -/
def execIdent (rq : Rq) (s : State) : Host.Outcome State Fault Refusal :=
  .next (s.ident rq)

/-- STATUS (R530): Returns the summary status of the device. -/
def execStatus (rq : Rq) (s : State) : Host.Outcome State Fault Refusal :=
  .next (s.status rq)

/-- CHALLENGE (R619): Returns a fresh nonce for the port, replacing the previous one. -/
def execChallenge (rq : Rq) (s : State) : Host.Outcome State Fault Refusal :=
  .next (s.challenge rq)

/-- OBJ_READ (R531): Reads one object member. -/
def execObjRead (rq : Rq) (addr : Nat) (s : State) : Host.Outcome State Fault Refusal :=
  .next (s.objRead rq addr)

/-- OBJ_WRITE (R531): Writes one object member that has no row of its own. -/
def execObjWrite (rq : Rq) (item : PsetItem) (s : State) : Host.Outcome State Fault Refusal :=
  .next (s.objWrite rq item).settleStops

/-- OBJ_READ_MULTI (R531): Reads up to 85 object members. -/
def execObjReadMulti (rq : Rq) (addrs : List Nat) (s : State) : Host.Outcome State Fault Refusal :=
  .next (s.objReadMulti rq addrs)

/-- OBJ_WRITE_MULTI (R531): Writes up to 85 items in order, stopping at the first refused. -/
def execObjWriteMulti (rq : Rq) (items : List PsetItem) (s : State) : Host.Outcome State Fault Refusal :=
  .next (s.objWriteMulti rq items).settleStops

/-- BLOCK_READ (R531): Reads consecutive elements of an indexed or table member. -/
def execBlockRead (rq : Rq) (addr n : Nat) (s : State) : Host.Outcome State Fault Refusal :=
  .next (s.blockRead rq addr n)

/-- BLOCK_WRITE (R531): Writes consecutive elements of an indexed or table member. -/
def execBlockWrite (rq : Rq) (addr ty : Nat) (vals : List Int) (s : State) : Host.Outcome State Fault Refusal :=
  .next (s.blockWrite rq addr ty vals).settleStops

/-- DICT_READ (R532): Returns descriptors of existing members. -/
def execDictRead (rq : Rq) (addr n : Nat) (s : State) : Host.Outcome State Fault Refusal :=
  .next (s.dictRead rq addr n)

/-- REG_READ (R533): Reads up to 255 registers within one block window. -/
def execRegRead (rq : Rq) (addr n : Nat) (s : State) : Host.Outcome State Fault Refusal :=
  .next (s.reqRegRead rq addr n)

/-- REG_WRITE (R533): Performs one masked register write to a register with no row of its own. -/
def execRegWrite (rq : Rq) (addr mask value : Nat) (s : State) : Host.Outcome State Fault Refusal :=
  .next (s.reqRegWrite rq addr mask value).settleStops

/-- LEDGER_READ (R597): Returns Ledger records from a given record number. -/
def execLedgerRead (rq : Rq) (recno n : Nat) (s : State) : Host.Outcome State Fault Refusal :=
  .next (s.reqLedgerRead rq recno n)

/-- CELL_SVC (R534): Opens a service transaction with a cell on a ring. -/
def execCellSvc (rq : Rq) (ring op slot addr : Nat) (data : List Byte) (s : State) : Host.Outcome State Fault Refusal :=
  .next (s.cellSvc rq ring op slot addr data)

/-- CELL_SVC_DONE (R388): A cell service transaction ends with the reply or after 1,000 frames. -/
def execCellSvcDone (ring : Fin 4) (rsts : Nat) (data : List Byte) (s : State) : Host.Outcome State Fault Refusal :=
  .next (s.cellSvcDone ring.val rsts data)

/-- CAN_TX (R562): Stages one CAN frame on ring 14. -/
def execCanTx (rq : Rq) (port flags id : Nat) (data : List Byte) (s : State) : Host.Outcome State Fault Refusal :=
  .next (s.canTx rq port flags id data)

/-- RESET (R535): An authenticated remote reset request over a window. -/
def execReset (rq : Rq) (nonce sig : Nat) (s : State) : Host.Outcome State Fault Refusal :=
  .next (s.reqReset rq nonce sig)

/-- RESET_EXECUTE (R535): 1 ms after the RESET response the device resets. -/
def execResetExecute (s : State) : Host.Outcome State Fault Refusal :=
  .next (s.resetExecute)

/-- FW_BEGIN (R622): Starts a firmware image in a slot and marks it INCOMPLETE. -/
def execFwBegin (rq : Rq) (slot length version : Nat) (s : State) : Host.Outcome State Fault Refusal :=
  .next (s.reqFwBegin rq slot length version)

/-- FW_DATA (R622): Writes firmware image data at the next expected offset. -/
def execFwData (rq : Rq) (offset : Nat) (data : List Byte) (s : State) : Host.Outcome State Fault Refusal :=
  .next (s.reqFwData rq offset data)

/-- FW_END (R622): Verifies the image and marks the slot VALID or REJECTED. -/
def execFwEnd (rq : Rq) (digest sig : Nat) (s : State) : Host.Outcome State Fault Refusal :=
  .next (s.reqFwEnd rq digest sig)

/-- LIFE_REQ (R624): Requests an authorised life-cycle transition. -/
def execLifeReq (rq : Rq) (target nonce sig : Nat) (s : State) : Host.Outcome State Fault Refusal :=
  .next (s.reqLife rq target nonce sig)

/-- LIFE_CHANGE (R624): 1 ms after the response, the state fuse is burnt, the wipe runs and the device resets. -/
def execLifeChange (s : State) : Host.Outcome State Fault Refusal :=
  .next (s.lifeChange)

/-- STOP (R536): A ring 0 entry requests a stop of a category on an axis mask. -/
def execStop (rq : Rq) (mask cat scope : Nat) (s : State) : Host.Outcome State Fault Refusal :=
  .next (s.reqStop rq mask cat scope).settleStops

/-- EMODE (R536): A ring 0 entry requests a winch emergency mode. -/
def execEmode (rq : Rq) (mask mode : Nat) (s : State) : Host.Outcome State Fault Refusal :=
  .next (s.reqEmode rq mask mode).settleStops

/-- PSET_OPEN (R538): Opens the parameter-set staging area for the port and world. -/
def execPsetOpen (rq : Rq) (s : State) : Host.Outcome State Fault Refusal :=
  .next (s.psetOpen rq)

/-- PSET_STAGE (R539): Appends items to the open parameter set. -/
def execPsetStage (rq : Rq) (handle first : Nat) (items : List PsetItem) (s : State) : Host.Outcome State Fault Refusal :=
  .next (s.psetStage rq handle first items)

/-- PSET_VERIFY (R540): Checks the set, computes its digest and admits its placement. -/
def execPsetVerify (rq : Rq) (handle : Nat) (sig : Option Nat) (s : State) : Host.Outcome State Fault Refusal :=
  .next (s.psetVerify rq handle sig)

/-- PSET_COMMIT (R541): Applies a verified set item by item and places its tasks. -/
def execPsetCommit (rq : Rq) (handle digest : Nat) (s : State) : Host.Outcome State Fault Refusal :=
  .next (s.psetCommit rq handle digest).settleStops

/-- PSET_ABORT (R537): Discards the open parameter set. -/
def execPsetAbort (rq : Rq) (handle : Nat) (s : State) : Host.Outcome State Fault Refusal :=
  .next (s.psetAbort rq handle)

/-- PSET_STORE (R542): Writes a verified set to an MRAM slot. -/
def execPsetStore (rq : Rq) (handle slot : Nat) (s : State) : Host.Outcome State Fault Refusal :=
  .next (s.psetStore rq handle slot)

/-- PSET_LOAD (R542): Fills the staging area from an MRAM slot. -/
def execPsetLoad (rq : Rq) (slot : Nat) (s : State) : Host.Outcome State Fault Refusal :=
  .next (s.psetLoad rq slot)

/-- PSET_INFO (R537): Returns the description of a stored set. -/
def execPsetInfo (rq : Rq) (slot : Nat) (s : State) : Host.Outcome State Fault Refusal :=
  .next (s.psetInfo rq slot)

/-- PSET_TIMEOUT (R538): A set with no request for 60 s is discarded. -/
def execPsetTimeout (s : State) : Host.Outcome State Fault Refusal :=
  .next (s.psetTimeout)

/-- DEFERRED_COMPLETION (R519): A deferred request completes and its response is produced with DEFER. -/
def execDeferredCompletion (k : Nat) (s : State) : Host.Outcome State Fault Refusal :=
  .next (s.deferredCompletion k)

/-- V1_STATUS (R543): Returns VRA-1120 style axis status. -/
def execV1Status (rq : Rq) (addr : Nat) (s : State) : Host.Outcome State Fault Refusal :=
  .next (s.v1Status rq addr)

/-- V1_MOVE (R543): Stages and pushes a VRA-1120 style move. -/
def execV1Move (rq : Rq) (addr ty flags : Nat) (speed target : Int) (s : State) : Host.Outcome State Fault Refusal :=
  .next (s.v1Move rq addr ty flags speed target)

/-- V1_TUNE (R543): Starts, cancels or reads a VRA-1120 style auto-tune. -/
def execV1Tune (rq : Rq) (addr subop : Nat) (atd : Int) (s : State) : Host.Outcome State Fault Refusal :=
  .next (s.v1Tune rq addr subop atd)

end Sys2Proof.Machine
end

