-- ==== Sys2Proof/Machine/Ports.lean ====
section
/-! DEFINITION. The commands of the host ports: one meaning for each row of the opcode table. -/
namespace Sys2Proof.Machine

/-- The write reaches RING.DB00 with the ESTOP bit set (R511). -/
def State.spiStops (s : State) (space a : Nat) (data : List Byte) (cut : Bool) : Bool :=
  s.portsAnswer && !cut && space = 0 && pageAddrOk a data.length && decide (a ≤ 0x140) &&
    bit ((beWords (data.length / 4) data).getD ((0x140 - a) / 4) 0) 31

/-- SPI_WRITE (R492): A host SPI write transaction to the direct page or ring area. -/
def execSpiWrite (port : Fin 2) (sec : Bool) (space addr : Nat) (data : List Byte) (crcOk cut : Bool) (s : State) : Host.Outcome State Fault Refusal :=
  .next (State.settleStops ((if s.spiStops space addr data cut then s.estop else s).spiWrite port.val sec space addr data crcOk cut))

/-- SPI_READ (R492): A host SPI read transaction from the direct page or ring area. -/
def execSpiRead (port : Fin 2) (sec : Bool) (space addr n : Nat) (crcOk : Bool) (fetched : Fetch) (tagBad : Bool) (s : State) :
    Host.Outcome State Fault Refusal :=
  .next (s.spiRead port.val sec space addr n crcOk fetched tagBad)

/-- QUAD_EXIT (R497): A transaction of 8 SCK cycles with SIOx0 high takes the port out of quad mode. -/
def execQuadExit (port : Fin 2) (s : State) : Host.Outcome State Fault Refusal :=
  .next (s.quadExit port.val)

/-- WRITE_BUFFER_COMMIT (R494): The port's write buffer commits its data to the tile store. -/
def execWriteBufferCommit (port : Fin 2) (s : State) : Host.Outcome State Fault Refusal :=
  .next (s.commitBuffer port.val)

/-- DOORBELL (R503): A RING.DBnn write hands entries across by moving HEAD or TAIL. -/
def execDoorbell (port : Fin 2) (ring : Fin 16) (index : Nat) (s : State) : Host.Outcome State Fault Refusal :=
  .next (if s.portsAnswer then s.doorbell port.val ring.val index else s)

/-- ESTOP (R511): The ESTOP bit of a ring 0 doorbell acts as a device-scope category 0 stop request. -/
def execEstop (port : Fin 2) (index : Nat) (take : Bool) (s : State) : Host.Outcome State Fault Refusal :=
  .next (State.settleStops (if take then s.estop.doorbell port.val 0 index else s.estop))

/-- RING_AGE_TIMEOUT (R506): AGEMAX elapses on a non-empty ring and its event source is raised. -/
def execRingAgeTimeout (ring : Fin 16) (s : State) : Host.Outcome State Fault Refusal :=
  .next (s.ringAge ring.val)

/-- ALARM_FLUSH (R598): Coalesced alarms are written into ring 7 as the host frees entries. -/
def execAlarmFlush (s : State) : Host.Outcome State Fault Refusal :=
  .next (s.alarmFlush)

end Sys2Proof.Machine
end

