-- ==== Sys2Proof/Machine/Settings.lean ====
section
/-! DEFINITION. The device-wide settings and the placement of tasks: one meaning for each row of the opcode table. -/
namespace Sys2Proof.Machine

/-- The CFG member of a class (R528). -/
def cfgRow (c : CfgClass) : Mem :=
  match c with
  | .axis => AXIS.CFG
  | .mach => MACH.CFG
  | .conv => CONV.CFG

/-- WINGBEAT_WRITE (R24): A write of SYS[0].WINGBEAT is checked and takes effect at the next mark. -/
def execWingbeatWrite (w : Wq) (v : Int) (s : State) : Host.Outcome State Fault Refusal :=
  .next (s.rowWrite w SYS.WINGBEAT v)

/-- DUTY_WRITE (R58): A write of PROFILE[0].DUTY changes the duty profile. -/
def execDutyWrite (w : Wq) (v : Int) (s : State) : Host.Outcome State Fault Refusal :=
  .next (s.rowWrite w PROFILE.DUTY v)

/-- SETPOINT_WRITE (R59): A write of POWER[0].SETPOINT starts a supply move. -/
def execSetpointWrite (w : Wq) (v : Int) (s : State) : Host.Outcome State Fault Refusal :=
  .next (s.rowWrite w POWER.SETPOINT v)

/-- SETPOINT_MOVE_DONE (R703): VENG reaches the target and the setpoint is in force. -/
def execSetpointMoveDone (s : State) : Host.Outcome State Fault Refusal :=
  .next (s.setpointMoveDone)

/-- VENG_MISS (R703): VENG misses its target 120 µs after the code change and NOMINAL is forced. -/
def execVengMiss (s : State) : Host.Outcome State Fault Refusal :=
  .next (s.vengMiss)

/-- VIDDIO_WRITE (R701): A write of POWER[0].VIDDIO names the VID pins. -/
def execViddioWrite (w : Wq) (v : Int) (s : State) : Host.Outcome State Fault Refusal :=
  .next (s.rowWrite w POWER.VIDDIO v)

/-- CFG_COMMIT (R528): A write of CFG = 1 commits an object and starts placement of its tasks. -/
def execCfgCommit (w : Wq) (c : CfgClass) (s : State) : Host.Outcome State Fault Refusal :=
  .next (s.rowWrite w (cfgRow c) 1).settleStops

/-- CFG_DECONFIGURE (R528): A write of CFG = 0 deconfigures an object and removes its tasks. -/
def execCfgDeconfigure (w : Wq) (c : CfgClass) (s : State) : Host.Outcome State Fault Refusal :=
  .next (s.rowWrite w (cfgRow c) 0).settleStops

/-- PLACED (R68): A task's tiles are in place and a PLACED notice is posted. -/
def execPlaced (task : Fin 168) (s : State) : Host.Outcome State Fault Refusal :=
  .next (s.placed task.val)

end Sys2Proof.Machine
end

