-- ==== Sys2Proof/Machine/Stage.lean ====
section
/-! DEFINITION. The commands of stages, legs and trip inputs: one meaning for each row of the opcode table. -/
namespace Sys2Proof.Machine

/-- STAGE_ENABLE (R365): A write of STAGE ENABLE = 1 is decided. -/
def execStageEnable (w : Wq) (s : State) : Host.Outcome State Fault Refusal :=
  .next (s.rowWrite w STAGE.ENABLE 1).settleStops

/-- STAGE_DISABLE (R369): A write of STAGE ENABLE = 0 sends the stage to SHUTDOWN. -/
def execStageDisable (w : Wq) (s : State) : Host.Outcome State Fault Refusal :=
  .next (s.rowWrite w STAGE.ENABLE 0).settleStops

/-- STAGE_CLEAR (R368): A write of STAGE CLEAR clears faults or ends an active short circuit. -/
def execStageClear (w : Wq) (s : State) : Host.Outcome State Fault Refusal :=
  .next (s.rowWrite w STAGE.CLEAR 1).settleStops

/-- DIAG_START (R363): A write of STAGE DIAG = 1 starts a diagnostic run. -/
def execDiagStart (w : Wq) (s : State) : Host.Outcome State Fault Refusal :=
  .next (s.rowWrite w STAGE.DIAG 1).settleStops

/-- DIAG_STEP_END (R362): A diagnostic step's PSSET elapses and its comparators are read. -/
def execDiagStepEnd (stage : Fin 16) (pins : List Nat) (s : State) : Host.Outcome State Fault Refusal :=
  .next (s.diagStepEnd stage.val (fun k => pins.getD k 0)).settleStops

/-- PRECHARGE_END (R366): BSPRET elapses and the stage enters RUN. -/
def execPrechargeEnd (stage : Fin 16) (s : State) : Host.Outcome State Fault Refusal :=
  .next (s.prechargeEnd stage.val).settleStops

/-- SHUTDOWN_ACK (R367): Every GA of a shutting-down stage is low. -/
def execShutdownAck (stage : Fin 16) (s : State) : Host.Outcome State Fault Refusal :=
  .next (s.shutdownAck stage.val).settleStops

/-- DISCHARGE_END (R367): V_dc falls below DISCHV or DISCHT elapses and the discharge output is released. -/
def execDischargeEnd (stage : Fin 16) (elapsed : Bool) (s : State) : Host.Outcome State Fault Refusal :=
  .next (s.dischargeEnd stage.val elapsed).settleStops

/-- GA_CHANGE (R345): A new GA level is accepted after GAFILT and checked against the command. -/
def execGaChange (leg : Fin 48) (low level : Bool) (s : State) : Host.Outcome State Fault Refusal :=
  .next (s.gaChange leg.val low level).settleStops

/-- ACK_ON_TIMEOUT (R349): A switch commanded on is not acknowledged within ACKON. -/
def execAckOnTimeout (leg : Fin 48) (low : Bool) (s : State) : Host.Outcome State Fault Refusal :=
  .next (s.ackOnTimeout leg.val low).settleStops

/-- ACK_OFF_TIMEOUT (R349): A switch commanded off is not acknowledged within ACKOFF. -/
def execAckOffTimeout (leg : Fin 48) (low : Bool) (s : State) : Host.Outcome State Fault Refusal :=
  .next (s.ackOffTimeout leg.val low).settleStops

/-- TRIP_ASSERT (R357): An enabled trip input becomes active and the gates of its stages go off. -/
def execTripAssert (n : Fin 16) (s : State) : Host.Outcome State Fault Refusal :=
  .next (s.tripPin n.val).settleStops

/-- TRIP_RELEASE (R359): A non-latching trip input releases and legs resume at their next edge. -/
def execTripRelease (n : Fin 16) (s : State) : Host.Outcome State Fault Refusal :=
  .next (s.tripRelease n.val).settleStops

/-- TRIP_WINDOW_END (R359): The 1 s trip counting window ends and a new one starts. -/
def execTripWindowEnd (s : State) : Host.Outcome State Fault Refusal :=
  .next (s.tripWindowEnd)

end Sys2Proof.Machine
end

