-- ==== Sys2Proof/Machine/Start.lean ====
section
/-! DEFINITION. The commands of the reference, of resets and of start-up: one meaning for each row of the opcode table. -/
namespace Sys2Proof.Machine

/-- MULTIPLIER_LOCK (R39): The ×16 multiplier acquires lock and the 1 ms qualification count starts. -/
def execMultiplierLock (s : State) : Host.Outcome State Fault Refusal :=
  .next (s.multiplierLock)

/-- REF_QUALIFIED (R39): The multiplier has held lock for 1 ms and REFOK is set. -/
def execRefQualified (lossUs : Nat) (s : State) : Host.Outcome State Fault Refusal :=
  .next (s.refQualified lossUs)

/-- REF_LOSS (R652): The reference is declared lost and a device-scope category 0 stop acts. -/
def execRefLoss (s : State) : Host.Outcome State Fault Refusal :=
  .next (s.refLoss)

/-- VERNIER_CALIBRATION (R587): Assay calibrates the vernier taps on its schedule. -/
def execVernierCalibration (good : Bool) (s : State) : Host.Outcome State Fault Refusal :=
  .next (s.vernierCalibration good)

/-- POWER_ON_RESET (R635): VDDCORE rises through its release threshold and the device resets. -/
def execPowerOnReset (held : Bool) (s : State) : Host.Outcome State Fault Refusal :=
  .next (s.powerOnReset held)

/-- BROWNOUT (R635): A rail stays below its brownout threshold for 1 µs and the device resets. -/
def execBrownout (rail : Fin 6) (s : State) : Host.Outcome State Fault Refusal :=
  .next (s.brownout rail.val)

/-- NRST_RESET (R638): nRST is held low externally for 1 µs from P5 on. -/
def execNrstReset (s : State) : Host.Outcome State Fault Refusal :=
  .next (s.nrstReset)

/-- WATCHDOG_PREWARNING (R639): 40 ms without service raises event 63. -/
def execWatchdogPrewarning (s : State) : Host.Outcome State Fault Refusal :=
  .next (s.watchdogPrewarning)

/-- WATCHDOG_RESET (R639): 50 ms without service resets the device. -/
def execWatchdogReset (s : State) : Host.Outcome State Fault Refusal :=
  .next (s.watchdogReset)

/-- LOCKSTEP_MISMATCH (R635): The Teller cores differ in a bus cycle and the device resets. -/
def execLockstepMismatch (s : State) : Host.Outcome State Fault Refusal :=
  .next (s.lockstepMismatch)

/-- ENGINE_SUPERVISOR_RESET (R640): A fabric parity error or no completion for 4 T_w resets the device. -/
def execEngineSupervisorReset (s : State) : Host.Outcome State Fault Refusal :=
  .next (s.engineSupervisorReset)

/-- TAMPER (R630): A tamper source acts and causes a tamper reset with its wipe. -/
def execTamper (s : State) : Host.Outcome State Fault Refusal :=
  .next (s.tamper)

/-- RESET_STRETCH_END (R637): 200 µs after the last reset condition the device leaves P0. -/
def execResetStretchEnd (railsUp : Bool) (s : State) : Host.Outcome State Fault Refusal :=
  .next (s.stretchEnd railsUp)

/-- WIPE_COMPLETE (R643): Phase P2 finishes its wipe and P3 begins. -/
def execWipeComplete (s : State) : Host.Outcome State Fault Refusal :=
  .next (s.wipeComplete)

/-- OPTIONS_LOADED (R643): P3 finishes reading the OTP and releases the host ports. -/
def execOptionsLoaded (strapA strapB optsOk lifeOk keysOk : Bool) (s : State) : Host.Outcome State Fault Refusal :=
  .next (s.optionsLoaded strapA strapB optsOk lifeOk keysOk)

/-- TRIM_DONE (R643): P4 applies the trims and releases nRST. -/
def execTrimDone (s : State) : Host.Outcome State Fault Refusal :=
  .next (s.trimDone)

/-- NRST_RELEASED (R638): nRST has read high for 10 µs and the device enters P5. -/
def execNrstReleased (s : State) : Host.Outcome State Fault Refusal :=
  .next (s.nrstReleased)

/-- AUTHENTICATE_DONE (R621): Chrysalis completes the slot checks and boots an image. -/
def execAuthenticateDone (romOk : Bool) (s : State) : Host.Outcome State Fault Refusal :=
  .next (s.authenticateDone romOk)

/-- FIRMWARE_LOADED (R646): P6 completes and Aethino admits the engines. -/
def execFirmwareLoaded (s : State) : Host.Outcome State Fault Refusal :=
  .next (s.firmwareLoaded)

/-- EARLY_RELEASE (R649): With the test override, P1 ends 100 µs after it begins. -/
def execEarlyRelease (s : State) : Host.Outcome State Fault Refusal :=
  .next (s.earlyRelease)

end Sys2Proof.Machine
end

