-- ==== Sys2Proof/Machine/StoPins.lean ====
section
/-! DEFINITION. The commands of STO: one meaning for each row of the opcode table. -/
namespace Sys2Proof.Machine

/-- STO_ACTIVE (R448): STOA or STOB is accepted low and STO acts on gates, rings and brakes. -/
def execStoActive (a b : Bool) (s : State) : Host.Outcome State Fault Refusal :=
  .next (s.stoActive a b).settleStops

/-- STO_RELEASE (R452): STO becomes inactive and nothing restarts. -/
def execStoRelease (s : State) : Host.Outcome State Fault Refusal :=
  .next (s.stoRelease).settleStops

/-- STO_DISCREPANCY (R450): The STO pins differ for longer than DISCT and the discrepancy latches. -/
def execStoDiscrepancy (s : State) : Host.Outcome State Fault Refusal :=
  .next (s.stoDiscrepancy).settleStops

/-- STO_READBACK (R451): A GX pin reads high while commanded low for 100 ns. -/
def execStoReadback (pin : Fin 96) (s : State) : Host.Outcome State Fault Refusal :=
  .next (s.stoReadback pin.val).settleStops

/-- STOFB_RISE (R451): STOFB rises once all its conditions hold. -/
def execStofbRise (s : State) : Host.Outcome State Fault Refusal :=
  .next (s.stofbRise)

/-- STO_CLEAR (R450): A write of STOP[16].CLEAR clears the discrepancy and readback latches. -/
def execStoClear (w : Wq) (s : State) : Host.Outcome State Fault Refusal :=
  .next (s.rowWrite w SRC.CLEAR 1).settleStops

end Sys2Proof.Machine
end

