-- ==== Sys2Proof/Machine/Stopping.lean ====
section
/-! DEFINITION. The commands of stops and of temperature: one meaning for each row of the opcode table. -/
namespace Sys2Proof.Machine

/-- STOP_REQUEST (R460): A write of STOP[x].REQ requests a stop on an axis. -/
def execStopRequest (w : Wq) (v : Int) (s : State) : Host.Outcome State Fault Refusal :=
  .next (s.rowWrite w STOP.REQ v).settleStops

/-- STOP_EREQ (R471): A secure write of EREQ requests an emergency mode. -/
def execStopEreq (w : Wq) (v : Int) (s : State) : Host.Outcome State Fault Refusal :=
  .next (s.rowWrite w STOP.EREQ v).settleStops

/-- STOP_ACK (R468): A write of STOP ACK ends a hold or an emergency mode. -/
def execStopAck (w : Wq) (s : State) : Host.Outcome State Fault Refusal :=
  .next (s.rowWrite w STOP.ACK 1).settleStops

/-- SOURCE_CLEAR (R456): A write of a source CLEAR clears its latch. -/
def execSourceClear (w : Wq) (s : State) : Host.Outcome State Fault Refusal :=
  .next (s.rowWrite w SRC.CLEAR 1).settleStops

/-- STOP_REST (R467): The axis has stayed at rest for STOPREST and the brake is requested. -/
def execStopRest (axis : Fin 16) (s : State) : Host.Outcome State Fault Refusal :=
  .next (s.stopRest axis.val).settleStops

/-- BRAKE_SET (R467): BRKIN reports the brake applied, or BRKSETT elapses, and power is removed. -/
def execBrakeSet (axis : Fin 16) (elapsed : Bool) (s : State) : Host.Outcome State Fault Refusal :=
  .next (s.brakeSet axis.val elapsed).settleStops

/-- STOP_TIMEOUT (R466): STOPT elapses before power removal. -/
def execStopTimeout (axis : Fin 16) (s : State) : Host.Outcome State Fault Refusal :=
  .next (s.stopTimeout axis.val).settleStops

/-- STOP_COMPLETE (R470): Every part of a stop's scope is done and event source 45 is raised. -/
def execStopComplete (s : State) : Host.Outcome State Fault Refusal :=
  .next (s.stopCompletePerch)

/-- SUPHOLD_END (R482): SUPHOLD after stop-complete elapses and telemetry suppression ends. -/
def execSupholdEnd (s : State) : Host.Outcome State Fault Refusal :=
  .next (s.supholdEnd)

/-- RIDETHRU_END (R477): V_dc holds for RTRET and ride-through ends. -/
def execRidethruEnd (axis : Fin 16) (s : State) : Host.Outcome State Fault Refusal :=
  .next (s.rideEnd axis.val).settleStops

/-- RIDETHRU_FAIL (R477): RTMAXT elapses in ride-through. -/
def execRidethruFail (axis : Fin 16) (s : State) : Host.Outcome State Fault Refusal :=
  .next (s.rideFail axis.val).settleStops

/-- THERMAL_SAMPLE (R478): THERM samples the diode and compares the thresholds. -/
def execThermalSample (reading : F32) (s : State) : Host.Outcome State Fault Refusal :=
  .next (s.thermalSample reading).settleStops

/-- THROTTLE_DOWN (R670): Tj below the threshold less THRHYS for 1 s lowers the step. -/
def execThrottleDown (s : State) : Host.Outcome State Fault Refusal :=
  .next (s.throttleDown)

/-- TCLEAR (R478): A write of TCLEAR clears the thermal latches. -/
def execTclear (w : Wq) (s : State) : Host.Outcome State Fault Refusal :=
  .next (s.rowWrite w STOPDEV.TCLEAR 1).settleStops

/-- RCLEAR (R653): A write of RCLEAR clears the reference-loss latch. -/
def execRclear (w : Wq) (s : State) : Host.Outcome State Fault Refusal :=
  .next (s.rowWrite w STOPDEV.RCLEAR 1).settleStops

/-- PERCH_RETRY (R676): The device repeats its PERCH request each second after a thermal stop. -/
def execPerchRetry (s : State) : Host.Outcome State Fault Refusal :=
  .next (s.perchRetry)

end Sys2Proof.Machine
end

