-- ==== Sys2Proof/Machine/Time.lean ====
section
/-! DEFINITION. The commands of time: marks, handovers, deadlines, edges: one meaning for each row of the opcode table. -/
namespace Sys2Proof.Machine

/-- WINGBEAT_MARK (R25): TBASE emits the wingbeat mark every T_w in reference time and starts the wingbeat's latches,
frames and dispatch. -/
def execWingbeatMark (q : MarkIn) (s : State) : Host.Outcome State Fault Refusal :=
  .next (s.wingbeatMark q)

/-- HALF_MARK (R25): The half mark at T_w/2 latches the double-update ΣΔ inputs and dispatches the half evaluations.
-/
def execHalfMark (sd : List SdBits) (tagBad : Nat) (s : State) : Host.Outcome State Fault Refusal :=
  .next (s.halfMark sd tagBad)

/-- RESULT_HANDOVER (R46): A task evaluation completes and its result is handed to its output stage for commit. -/
def execResultHandover (task : Fin 168) (half : Bool) (off : Nat) (copies : Copies) (s : State) :
    Host.Outcome State Fault Refusal :=
  .next (s.resultHandover task.val half off copies.pass copies.tiles).settleStops

/-- DEADLINE (R50): The deadline of a late result expires and the output stage substitutes a value. -/
def execDeadline (task : Fin 168) (half : Bool) (s : State) : Host.Outcome State Fault Refusal :=
  .next (s.deadline task.val half).settleStops

/-- TRACE_READOUT_BLOCK (R227): A readout block of a capture is sent once ring 9 has room. -/
def execTraceReadoutBlock (u : Fin 4) (tagBad : Bool) (s : State) : Host.Outcome State Fault Refusal :=
  .next (s.readoutBlock u.val tagBad)

/-- EDGE_PLACEMENT (R321): MOD begins placing a leg edge into the vernier 40 cycles before its instant. -/
def execEdgePlacement (leg : Fin 48) (s : State) : Host.Outcome State Fault Refusal :=
  .next (s.edgePlacement leg.val)

/-- GATE_EDGE (R347): The incoming switch is commanded on once dead time and the acknowledge permit it. -/
def execGateEdge (leg : Fin 48) (low : Bool) (off : Nat) (s : State) : Host.Outcome State Fault Refusal :=
  .next (s.gateEdge leg.val low off)

/-- RUNG_CHANGE (R332): A pending ladder change takes effect as the pattern angle crosses a 60° boundary. -/
def execRungChange (stage : Fin 16) (off : Nat) (s : State) : Host.Outcome State Fault Refusal :=
  .next (s.rungChange stage.val off)

/-- SORT_FIXED_POINT (R424): At T_w − 2.0 µs SORT freezes the upstream set of every arm. -/
def execSortFixedPoint (s : State) : Host.Outcome State Fault Refusal :=
  .next (s.sortFixedPoint).settleStops

end Sys2Proof.Machine
end

