-- ==== Sys2Proof/Machine/Dispatch.lean ====
section
/-! DEFINITION. The dispatch: each command's arm calls its meaning. -/
namespace Sys2Proof.Machine

def exec (i : Instr) (s : State) : Host.Outcome State Fault Refusal :=
  match i with
  | .wingbeatMark q => Sys2Proof.Machine.execWingbeatMark q s
  | .halfMark sd tagBad => Sys2Proof.Machine.execHalfMark sd tagBad s
  | .resultHandover task half off copies => Sys2Proof.Machine.execResultHandover task half off copies s
  | .deadline task half => Sys2Proof.Machine.execDeadline task half s
  | .traceReadoutBlock u tagBad => Sys2Proof.Machine.execTraceReadoutBlock u tagBad s
  | .edgePlacement leg => Sys2Proof.Machine.execEdgePlacement leg s
  | .gateEdge leg low off => Sys2Proof.Machine.execGateEdge leg low off s
  | .rungChange stage off => Sys2Proof.Machine.execRungChange stage off s
  | .sortFixedPoint => Sys2Proof.Machine.execSortFixedPoint s
  | .multiplierLock => Sys2Proof.Machine.execMultiplierLock s
  | .refQualified lossUs => Sys2Proof.Machine.execRefQualified lossUs s
  | .refLoss => Sys2Proof.Machine.execRefLoss s
  | .vernierCalibration good => Sys2Proof.Machine.execVernierCalibration good s
  | .powerOnReset held => Sys2Proof.Machine.execPowerOnReset held s
  | .brownout rail => Sys2Proof.Machine.execBrownout rail s
  | .nrstReset => Sys2Proof.Machine.execNrstReset s
  | .watchdogPrewarning => Sys2Proof.Machine.execWatchdogPrewarning s
  | .watchdogReset => Sys2Proof.Machine.execWatchdogReset s
  | .lockstepMismatch => Sys2Proof.Machine.execLockstepMismatch s
  | .engineSupervisorReset => Sys2Proof.Machine.execEngineSupervisorReset s
  | .tamper => Sys2Proof.Machine.execTamper s
  | .resetStretchEnd railsUp => Sys2Proof.Machine.execResetStretchEnd railsUp s
  | .wipeComplete => Sys2Proof.Machine.execWipeComplete s
  | .optionsLoaded strapA strapB optsOk lifeOk keysOk => Sys2Proof.Machine.execOptionsLoaded strapA strapB optsOk lifeOk keysOk s
  | .trimDone => Sys2Proof.Machine.execTrimDone s
  | .nrstReleased => Sys2Proof.Machine.execNrstReleased s
  | .authenticateDone romOk => Sys2Proof.Machine.execAuthenticateDone romOk s
  | .firmwareLoaded => Sys2Proof.Machine.execFirmwareLoaded s
  | .earlyRelease => Sys2Proof.Machine.execEarlyRelease s
  | .spiWrite port sec space addr data crcOk cut => Sys2Proof.Machine.execSpiWrite port sec space addr data crcOk cut s
  | .spiRead port sec space addr n crcOk fetched tagBad => Sys2Proof.Machine.execSpiRead port sec space addr n crcOk fetched tagBad s
  | .quadExit port => Sys2Proof.Machine.execQuadExit port s
  | .writeBufferCommit port => Sys2Proof.Machine.execWriteBufferCommit port s
  | .doorbell port ring index => Sys2Proof.Machine.execDoorbell port ring index s
  | .estop port index take => Sys2Proof.Machine.execEstop port index take s
  | .ringAgeTimeout ring => Sys2Proof.Machine.execRingAgeTimeout ring s
  | .alarmFlush => Sys2Proof.Machine.execAlarmFlush s
  | .nop rq payload => Sys2Proof.Machine.execNop rq payload s
  | .ident rq => Sys2Proof.Machine.execIdent rq s
  | .status rq => Sys2Proof.Machine.execStatus rq s
  | .challenge rq => Sys2Proof.Machine.execChallenge rq s
  | .objRead rq addr => Sys2Proof.Machine.execObjRead rq addr s
  | .objWrite rq item => Sys2Proof.Machine.execObjWrite rq item s
  | .objReadMulti rq addrs => Sys2Proof.Machine.execObjReadMulti rq addrs s
  | .objWriteMulti rq items => Sys2Proof.Machine.execObjWriteMulti rq items s
  | .blockRead rq addr n => Sys2Proof.Machine.execBlockRead rq addr n s
  | .blockWrite rq addr ty vals => Sys2Proof.Machine.execBlockWrite rq addr ty vals s
  | .dictRead rq addr n => Sys2Proof.Machine.execDictRead rq addr n s
  | .regRead rq addr n => Sys2Proof.Machine.execRegRead rq addr n s
  | .regWrite rq addr mask value => Sys2Proof.Machine.execRegWrite rq addr mask value s
  | .ledgerRead rq recno n => Sys2Proof.Machine.execLedgerRead rq recno n s
  | .cellSvc rq ring op slot addr data => Sys2Proof.Machine.execCellSvc rq ring op slot addr data s
  | .cellSvcDone ring rsts data => Sys2Proof.Machine.execCellSvcDone ring rsts data s
  | .canTx rq port flags id data => Sys2Proof.Machine.execCanTx rq port flags id data s
  | .reset rq nonce sig => Sys2Proof.Machine.execReset rq nonce sig s
  | .resetExecute => Sys2Proof.Machine.execResetExecute s
  | .fwBegin rq slot length version => Sys2Proof.Machine.execFwBegin rq slot length version s
  | .fwData rq offset data => Sys2Proof.Machine.execFwData rq offset data s
  | .fwEnd rq digest sig => Sys2Proof.Machine.execFwEnd rq digest sig s
  | .lifeReq rq target nonce sig => Sys2Proof.Machine.execLifeReq rq target nonce sig s
  | .lifeChange => Sys2Proof.Machine.execLifeChange s
  | .stop rq mask cat scope => Sys2Proof.Machine.execStop rq mask cat scope s
  | .emode rq mask mode => Sys2Proof.Machine.execEmode rq mask mode s
  | .psetOpen rq => Sys2Proof.Machine.execPsetOpen rq s
  | .psetStage rq handle first items => Sys2Proof.Machine.execPsetStage rq handle first items s
  | .psetVerify rq handle sig => Sys2Proof.Machine.execPsetVerify rq handle sig s
  | .psetCommit rq handle digest => Sys2Proof.Machine.execPsetCommit rq handle digest s
  | .psetAbort rq handle => Sys2Proof.Machine.execPsetAbort rq handle s
  | .psetStore rq handle slot => Sys2Proof.Machine.execPsetStore rq handle slot s
  | .psetLoad rq slot => Sys2Proof.Machine.execPsetLoad rq slot s
  | .psetInfo rq slot => Sys2Proof.Machine.execPsetInfo rq slot s
  | .psetTimeout => Sys2Proof.Machine.execPsetTimeout s
  | .deferredCompletion k => Sys2Proof.Machine.execDeferredCompletion k s
  | .v1Status rq addr => Sys2Proof.Machine.execV1Status rq addr s
  | .v1Move rq addr ty flags speed target => Sys2Proof.Machine.execV1Move rq addr ty flags speed target s
  | .v1Tune rq addr subop atd => Sys2Proof.Machine.execV1Tune rq addr subop atd s
  | .wingbeatWrite w v => Sys2Proof.Machine.execWingbeatWrite w v s
  | .dutyWrite w v => Sys2Proof.Machine.execDutyWrite w v s
  | .setpointWrite w v => Sys2Proof.Machine.execSetpointWrite w v s
  | .setpointMoveDone => Sys2Proof.Machine.execSetpointMoveDone s
  | .vengMiss => Sys2Proof.Machine.execVengMiss s
  | .viddioWrite w v => Sys2Proof.Machine.execViddioWrite w v s
  | .cfgCommit w c => Sys2Proof.Machine.execCfgCommit w c s
  | .cfgDeconfigure w c => Sys2Proof.Machine.execCfgDeconfigure w c s
  | .placed task => Sys2Proof.Machine.execPlaced task s
  | .stageEnable w => Sys2Proof.Machine.execStageEnable w s
  | .stageDisable w => Sys2Proof.Machine.execStageDisable w s
  | .stageClear w => Sys2Proof.Machine.execStageClear w s
  | .diagStart w => Sys2Proof.Machine.execDiagStart w s
  | .diagStepEnd stage pins => Sys2Proof.Machine.execDiagStepEnd stage pins s
  | .prechargeEnd stage => Sys2Proof.Machine.execPrechargeEnd stage s
  | .shutdownAck stage => Sys2Proof.Machine.execShutdownAck stage s
  | .dischargeEnd stage elapsed => Sys2Proof.Machine.execDischargeEnd stage elapsed s
  | .gaChange leg low level => Sys2Proof.Machine.execGaChange leg low level s
  | .ackOnTimeout leg low => Sys2Proof.Machine.execAckOnTimeout leg low s
  | .ackOffTimeout leg low => Sys2Proof.Machine.execAckOffTimeout leg low s
  | .tripAssert n => Sys2Proof.Machine.execTripAssert n s
  | .tripRelease n => Sys2Proof.Machine.execTripRelease n s
  | .tripWindowEnd => Sys2Proof.Machine.execTripWindowEnd s
  | .sdTrip q off => Sys2Proof.Machine.execSdTrip q off s
  | .sdLost q => Sys2Proof.Machine.execSdLost q s
  | .offsetCapture k off => Sys2Proof.Machine.execOffsetCapture k off s
  | .sdClear w => Sys2Proof.Machine.execSdClear w s
  | .gainref w v more => Sys2Proof.Machine.execGainref w v more s
  | .ainConversion n codes skips => Sys2Proof.Machine.execAinConversion n codes skips s
  | .stoActive a b => Sys2Proof.Machine.execStoActive a b s
  | .stoRelease => Sys2Proof.Machine.execStoRelease s
  | .stoDiscrepancy => Sys2Proof.Machine.execStoDiscrepancy s
  | .stoReadback pin => Sys2Proof.Machine.execStoReadback pin s
  | .stofbRise => Sys2Proof.Machine.execStofbRise s
  | .stoClear w => Sys2Proof.Machine.execStoClear w s
  | .dioEdge n level t glitches => Sys2Proof.Machine.execDioEdge n level t glitches s
  | .dioWindowEnd => Sys2Proof.Machine.execDioWindowEnd s
  | .dioStuck n => Sys2Proof.Machine.execDioStuck n s
  | .dioClear w => Sys2Proof.Machine.execDioClear w s
  | .fbEdge n pin level both t glitches => Sys2Proof.Machine.execFbEdge n pin level both t glitches s
  | .fbStuck n index => Sys2Proof.Machine.execFbStuck n index s
  | .ssiTransferDone n low word => Sys2Proof.Machine.execSsiTransferDone n low word s
  | .fbEnable w v => Sys2Proof.Machine.execFbEnable w v s
  | .fbSel w v => Sys2Proof.Machine.execFbSel w v s
  | .fbClear w => Sys2Proof.Machine.execFbClear w s
  | .posset w v => Sys2Proof.Machine.execPosset w v s
  | .idxarm w => Sys2Proof.Machine.execIdxarm w s
  | .canFrameReceived port f => Sys2Proof.Machine.execCanFrameReceived port f s
  | .stopMatch port f => Sys2Proof.Machine.execStopMatch port f s
  | .canTxDone port => Sys2Proof.Machine.execCanTxDone port s
  | .canError port tx tdc dtec drec => Sys2Proof.Machine.execCanError port tx tdc dtec drec s
  | .busOffRecovery port => Sys2Proof.Machine.execBusOffRecovery port s
  | .protocolException port => Sys2Proof.Machine.execProtocolException port s
  | .partnerSilent p => Sys2Proof.Machine.execPartnerSilent p s
  | .partnerEnableTimeout p => Sys2Proof.Machine.execPartnerEnableTimeout p s
  | .canEnable w => Sys2Proof.Machine.execCanEnable w s
  | .canDisable w => Sys2Proof.Machine.execCanDisable w s
  | .canRecover w => Sys2Proof.Machine.execCanRecover w s
  | .restrWrite w v => Sys2Proof.Machine.execRestrWrite w v s
  | .partEnable w v => Sys2Proof.Machine.execPartEnable w v s
  | .canResetRequest port f => Sys2Proof.Machine.execCanResetRequest port f s
  | .canResetSignature port f => Sys2Proof.Machine.execCanResetSignature port f s
  | .canRemoteReset port => Sys2Proof.Machine.execCanRemoteReset port s
  | .linkLock ring => Sys2Proof.Machine.execLinkLock ring s
  | .linktmo ring => Sys2Proof.Machine.execLinktmo ring s
  | .enumerationDone ring a b la lb da => Sys2Proof.Machine.execEnumerationDone ring a b la lb da s
  | .enumtmo ring => Sys2Proof.Machine.execEnumtmo ring s
  | .blockingReady ring uids => Sys2Proof.Machine.execBlockingReady ring uids s
  | .responseReceived ring f => Sys2Proof.Machine.execResponseReceived ring f s
  | .portLoss ring dirB => Sys2Proof.Machine.execPortLoss ring dirB s
  | .ringEnable w v => Sys2Proof.Machine.execRingEnable w v s
  | .ringRun w v => Sys2Proof.Machine.execRingRun w v s
  | .cellApply ring pos a b dead => Sys2Proof.Machine.execCellApply ring pos a b dead s
  | .cellDirectionLoss ring pos dirB => Sys2Proof.Machine.execCellDirectionLoss ring pos dirB s
  | .cellBlock ring pos => Sys2Proof.Machine.execCellBlock ring pos s
  | .convEnable w v => Sys2Proof.Machine.execConvEnable w v s
  | .convChargeDone c => Sys2Proof.Machine.execConvChargeDone c s
  | .balanceDone c => Sys2Proof.Machine.execBalanceDone c s
  | .mainContactDone c => Sys2Proof.Machine.execMainContactDone c s
  | .prechargeFail c => Sys2Proof.Machine.execPrechargeFail c s
  | .convShutdownDone c => Sys2Proof.Machine.execConvShutdownDone c s
  | .convDischargeDone c elapsed => Sys2Proof.Machine.execConvDischargeDone c elapsed s
  | .convClear w => Sys2Proof.Machine.execConvClear w s
  | .cellClear w => Sys2Proof.Machine.execCellClear w s
  | .cellExcl w v => Sys2Proof.Machine.execCellExcl w v s
  | .cellRetire w v => Sys2Proof.Machine.execCellRetire w v s
  | .machEnable w v => Sys2Proof.Machine.execMachEnable w v s
  | .machClear w => Sys2Proof.Machine.execMachClear w s
  | .axisEnable w v => Sys2Proof.Machine.execAxisEnable w v s
  | .push w v => Sys2Proof.Machine.execPush w v s
  | .flush w => Sys2Proof.Machine.execFlush w s
  | .freeze w v => Sys2Proof.Machine.execFreeze w v s
  | .ipreset w v => Sys2Proof.Machine.execIpreset w v s
  | .freezeTimeout loop => Sys2Proof.Machine.execFreezeTimeout loop s
  | .atstart w v => Sys2Proof.Machine.execAtstart w v s
  | .autotuneTimeout loop => Sys2Proof.Machine.execAutotuneTimeout loop s
  | .traceArm w => Sys2Proof.Machine.execTraceArm w s
  | .trignow w => Sys2Proof.Machine.execTrignow w s
  | .traceRead w => Sys2Proof.Machine.execTraceRead w s
  | .ffActive w v => Sys2Proof.Machine.execFfActive w v s
  | .spack w => Sys2Proof.Machine.execSpack w s
  | .styleWrite w v => Sys2Proof.Machine.execStyleWrite w v s
  | .patternSrc w v => Sys2Proof.Machine.execPatternSrc w v s
  | .brakeApplyDelay axis => Sys2Proof.Machine.execBrakeApplyDelay axis s
  | .holdReduction axis => Sys2Proof.Machine.execHoldReduction axis s
  | .brakeTimeout axis => Sys2Proof.Machine.execBrakeTimeout axis s
  | .giveRecover axis => Sys2Proof.Machine.execGiveRecover axis s
  | .giveRecovered axis => Sys2Proof.Machine.execGiveRecovered axis s
  | .giveTimeout axis => Sys2Proof.Machine.execGiveTimeout axis s
  | .memberDisable mach => Sys2Proof.Machine.execMemberDisable mach s
  | .poolTorqueDev mach => Sys2Proof.Machine.execPoolTorqueDev mach s
  | .feedbackHoldEnd axis => Sys2Proof.Machine.execFeedbackHoldEnd axis s
  | .stopRequest w v => Sys2Proof.Machine.execStopRequest w v s
  | .stopEreq w v => Sys2Proof.Machine.execStopEreq w v s
  | .stopAck w => Sys2Proof.Machine.execStopAck w s
  | .sourceClear w => Sys2Proof.Machine.execSourceClear w s
  | .stopRest axis => Sys2Proof.Machine.execStopRest axis s
  | .brakeSet axis elapsed => Sys2Proof.Machine.execBrakeSet axis elapsed s
  | .stopTimeout axis => Sys2Proof.Machine.execStopTimeout axis s
  | .stopComplete => Sys2Proof.Machine.execStopComplete s
  | .supholdEnd => Sys2Proof.Machine.execSupholdEnd s
  | .ridethruEnd axis => Sys2Proof.Machine.execRidethruEnd axis s
  | .ridethruFail axis => Sys2Proof.Machine.execRidethruFail axis s
  | .thermalSample reading => Sys2Proof.Machine.execThermalSample reading s
  | .throttleDown => Sys2Proof.Machine.execThrottleDown s
  | .tclear w => Sys2Proof.Machine.execTclear w s
  | .rclear w => Sys2Proof.Machine.execRclear w s
  | .perchRetry => Sys2Proof.Machine.execPerchRetry s
  | .engineFault e why => Sys2Proof.Machine.execEngineFault e why s
  | .taskOverrun task => Sys2Proof.Machine.execTaskOverrun task s
  | .engineTestStart => Sys2Proof.Machine.execEngineTestStart s
  | .engineTestDone pass ms => Sys2Proof.Machine.execEngineTestDone pass ms s
  | .retiredClear w v => Sys2Proof.Machine.execRetiredClear w v s
  | .keyBurn w => Sys2Proof.Machine.execKeyBurn w s
  | .dsgen w => Sys2Proof.Machine.execDsgen w s
  | .arbcommit w => Sys2Proof.Machine.execArbcommit w s
  | .fwrevoke w => Sys2Proof.Machine.execFwrevoke w s
  | .debugUnlock sig => Sys2Proof.Machine.execDebugUnlock sig s
  | .reserveCommit w => Sys2Proof.Machine.execReserveCommit w s
  | .counterCommit => Sys2Proof.Machine.execCounterCommit s
  | .psreq w v => Sys2Proof.Machine.execPsreq w v s
  | .powerEntry => Sys2Proof.Machine.execPowerEntry s
  | .wake src => Sys2Proof.Machine.execWake src s
  | .wakeExitDone crcOk ms => Sys2Proof.Machine.execWakeExitDone crcOk ms s
  | .auditScrub find => Sys2Proof.Machine.execAuditScrub find s
  | .ledgerWrite => Sys2Proof.Machine.execLedgerWrite s
  | .seal => Sys2Proof.Machine.execSeal s
  | .tdecHalving stream => Sys2Proof.Machine.execTdecHalving stream s
  | .badFrame rq opcode => Sys2Proof.Machine.execBadFrame rq opcode s
  | .busIntegration port => Sys2Proof.Machine.execBusIntegration port s
  | .arbitrationLost port => Sys2Proof.Machine.execArbitrationLost port s
  | .comparePulseEnd c => Sys2Proof.Machine.execComparePulseEnd c s
  | .calStale which => Sys2Proof.Machine.execCalStale which s
  | .diodeCalibration corr => Sys2Proof.Machine.execDiodeCalibration corr s
  | .otpBurnVerified ok => Sys2Proof.Machine.execOtpBurnVerified ok s
  | .reserveCommitDone => Sys2Proof.Machine.execReserveCommitDone s
  | .tabcrcCheck bad => Sys2Proof.Machine.execTabcrcCheck bad s
  | .fallbackBlockFrame => Sys2Proof.Machine.execFallbackBlockFrame s
  | .wbcountInternalAdvance => Sys2Proof.Machine.execWbcountInternalAdvance s
  | .debugAccess op => Sys2Proof.Machine.execDebugAccess op s
  | .receiverWordLock ring dirB => Sys2Proof.Machine.execReceiverWordLock ring dirB s

end Sys2Proof.Machine
end

