-- ==== Sys2Proof/WellFormed.lean ====
section
/-! DEFINITION. Well-formed commands: every field of a frame or of a transaction fits the bits that its layout
gives it (R491, R514, R530–R543, R567, R569), and every value fits 64 bits (R531). A command outside this form
is not one that the outside can send; `exec` has a meaning for it all the same. -/
namespace Sys2Proof
open Machine

/-- A field of `w` bits holds `v`. -/
def fits (w v : Nat) : Bool := decide (v < 2 ^ w)

/-- The eight bytes of a value hold it, signed or unsigned (R529, R531). -/
def valueFits (v : Int) : Bool := decide (-(2 ^ 63) ≤ v) && decide (v < 2 ^ 64)

/-- The header of a request (R514): SEQ in two bytes, the CRC in four. -/
def Rq.wf (r : Rq) : Bool := fits 16 r.seq && fits 32 r.crc

/-- An OBJ_WRITE to a member with a row of its own: an instance number of 12 bits (R12), a type code of one byte. -/
def Wq.wf (w : Wq) : Bool := w.rq.wf && fits 12 w.inst && fits 8 w.ty

/-- An item of R539. -/
def Machine.PsetItem.wf (p : PsetItem) : Bool := fits 32 p.addr && fits 8 p.ty && valueFits p.v

/-- The bits of a ΣΔ modulator: the number of its input. -/
def Machine.SdBits.wf (d : SdBits) : Bool := decide (d.k < 48)

/-- A frame as a cell receives it: its header and, in a command frame, its command block (R383, R386). -/
def Machine.CellRx.wf (f : CellRx) : Bool := decide (f.hdr.length ≤ 64)

/-- A cell at a mark: a UID of 64 bits, and the widths of its sample and its STATUS (R387, R397). -/
def Machine.CellIn.wf (c : CellIn) : Bool :=
  c.a.all CellRx.wf && c.b.all CellRx.wf && fits 64 c.uid && fits 8 c.ctype && fits 16 c.vcap && fits 8 c.temp && fits 16 c.status

/-- What a mark shows: cells, ΣΔ inputs, and task numbers below 168 (R75). -/
def Machine.MarkIn.wf (q : MarkIn) : Bool :=
  q.cells.all CellIn.wf && q.sd.all SdBits.wf && q.failed.all (fun t => decide (t < 168)) && q.differ.all (fun t => decide (t < 168)) &&
    decide (q.tagBad < 16)

/-- A cell frame: a 32-bit frame number, slots of a ring of at most 384 positions, words of 64 bits (R383). -/
def Machine.FrameIn.wf (f : FrameIn) : Bool :=
  fits 32 f.fnum && f.src.all (fun p => decide (p < 384)) && f.slots.all fun e => decide (e.1 < 384) && fits 64 e.2

/-- A CAN frame: FLAGS of one byte, an identifier of 29 bits, at most 64 data bytes (R567, R569). -/
def Machine.CanRx.wf (f : CanRx) : Bool := fits 8 f.flags && fits 29 f.id && decide (f.data.length ≤ 64)

/-- An access of the debug port: 32-bit addresses and words (R629). -/
def DebugOp.wf : DebugOp → Bool
  | .load _ => true
  | .readNonce => true
  | .readReg a => fits 32 a
  | .writeReg a v => fits 32 a && fits 32 v
  | .readRam _ a => fits 32 a
  | .writeRam _ a v => fits 32 a && fits 32 v
  | .halt _ => true

/-- Every field of the command fits its layout. -/
def Instr.wf : Instr → Bool
  | .wingbeatMark q => q.wf
  | .halfMark sd tagBad => sd.all SdBits.wf && fits 3 tagBad
  | .resultHandover _ _ off _ => fits 32 off
  | .deadline _ _ => true
  | .traceReadoutBlock _ _ => true
  | .edgePlacement _ => true
  | .gateEdge _ _ off => fits 32 off
  | .rungChange _ off => fits 32 off
  | .sortFixedPoint => true
  | .multiplierLock => true
  | .refQualified lossUs => fits 32 lossUs
  | .refLoss => true
  | .vernierCalibration _ => true
  | .powerOnReset _ => true
  | .brownout _ => true
  | .nrstReset => true
  | .watchdogPrewarning => true
  | .watchdogReset => true
  | .lockstepMismatch => true
  | .engineSupervisorReset => true
  | .tamper => true
  | .resetStretchEnd _ => true
  | .wipeComplete => true
  | .optionsLoaded _ _ _ _ _ => true
  | .trimDone => true
  | .nrstReleased => true
  | .authenticateDone _ => true
  | .firmwareLoaded => true
  | .earlyRelease => true
  | .spiWrite _ _ space addr data _ _ =>
      fits 2 space && fits 24 addr && decide (1 ≤ data.length) && decide (data.length ≤ 256)
  | .spiRead _ _ space addr n _ _ _ => fits 2 space && fits 24 addr && decide (1 ≤ n) && decide (n ≤ 256)
  | .quadExit _ => true
  | .writeBufferCommit _ => true
  | .doorbell _ _ index => fits 31 index
  | .estop _ index _ => fits 31 index
  | .ringAgeTimeout _ => true
  | .alarmFlush => true
  | .nop rq payload => rq.wf && decide (payload.length ≤ 1024)
  | .ident rq => rq.wf
  | .status rq => rq.wf
  | .challenge rq => rq.wf
  | .objRead rq addr => rq.wf && fits 32 addr
  | .objWrite rq item => rq.wf && item.wf
  | .objReadMulti rq addrs => rq.wf && addrs.all (fits 32)
  | .objWriteMulti rq items => rq.wf && items.all PsetItem.wf
  | .blockRead rq addr n => rq.wf && fits 32 addr && fits 16 n
  | .blockWrite rq addr ty vals => rq.wf && fits 32 addr && fits 8 ty && vals.all valueFits
  | .dictRead rq addr n => rq.wf && fits 32 addr && fits 16 n
  | .regRead rq addr n => rq.wf && fits 32 addr && fits 16 n
  | .regWrite rq addr mask value => rq.wf && fits 32 addr && fits 32 mask && fits 32 value
  | .ledgerRead rq recno n => rq.wf && fits 64 recno && fits 16 n
  | .cellSvc rq ring op slot addr data =>
      rq.wf && fits 8 ring && fits 8 op && fits 16 slot && fits 16 addr && decide (data.length ≤ 116)
  | .cellSvcDone _ rsts data => fits 8 rsts && decide (data.length ≤ 116)
  | .canTx rq port flags id data =>
      rq.wf && fits 8 port && fits 8 flags && fits 32 id && decide (data.length ≤ 64)
  | .reset rq nonce sig => rq.wf && fits 128 nonce && fits 512 sig
  | .resetExecute => true
  | .fwBegin rq slot length version => rq.wf && fits 8 slot && fits 32 length && fits 32 version
  | .fwData rq offset data => rq.wf && fits 32 offset && decide (data.length ≤ 1016)
  | .fwEnd rq digest sig => rq.wf && fits 256 digest && fits 512 sig
  | .lifeReq rq target nonce sig => rq.wf && fits 8 target && fits 128 nonce && fits 512 sig
  | .lifeChange => true
  | .stop rq mask cat scope => rq.wf && fits 16 mask && fits 8 cat && fits 8 scope
  | .emode rq mask mode => rq.wf && fits 16 mask && fits 8 mode
  | .psetOpen rq => rq.wf
  | .psetStage rq handle first items => rq.wf && fits 16 handle && fits 16 first && items.all PsetItem.wf
  | .psetVerify rq handle sig => rq.wf && fits 16 handle && sig.all (fits 512)
  | .psetCommit rq handle digest => rq.wf && fits 16 handle && fits 256 digest
  | .psetAbort rq handle => rq.wf && fits 16 handle
  | .psetStore rq handle slot => rq.wf && fits 16 handle && fits 8 slot
  | .psetLoad rq slot => rq.wf && fits 8 slot
  | .psetInfo rq slot => rq.wf && fits 8 slot
  | .psetTimeout => true
  | .deferredCompletion k => fits 8 k
  | .v1Status rq addr => rq.wf && fits 32 addr
  | .v1Move rq addr ty flags speed target =>
      rq.wf && fits 32 addr && fits 8 ty && fits 8 flags && valueFits speed && valueFits target
  | .v1Tune rq addr subop atd => rq.wf && fits 32 addr && fits 8 subop && valueFits atd
  | .wingbeatWrite w v => w.wf && valueFits v
  | .dutyWrite w v => w.wf && valueFits v
  | .setpointWrite w v => w.wf && valueFits v
  | .setpointMoveDone => true
  | .vengMiss => true
  | .viddioWrite w v => w.wf && valueFits v
  | .cfgCommit w _ => w.wf
  | .cfgDeconfigure w _ => w.wf
  | .placed _ => true
  | .stageEnable w => w.wf
  | .stageDisable w => w.wf
  | .stageClear w => w.wf
  | .diagStart w => w.wf
  | .diagStepEnd _ pins => pins.all (fits 8)
  | .prechargeEnd _ => true
  | .shutdownAck _ => true
  | .dischargeEnd _ _ => true
  | .gaChange _ _ _ => true
  | .ackOnTimeout _ _ => true
  | .ackOffTimeout _ _ => true
  | .tripAssert _ => true
  | .tripRelease _ => true
  | .tripWindowEnd => true
  | .sdTrip q off => q.wf && fits 32 off
  | .sdLost q => q.wf
  | .offsetCapture _ off => fits 32 off
  | .sdClear w => w.wf
  | .gainref w v more => w.wf && valueFits v && more.all (fits 32)
  | .ainConversion _ codes skips => codes.all (fits 16) && fits 32 skips
  | .stoActive _ _ => true
  | .stoRelease => true
  | .stoDiscrepancy => true
  | .stoReadback _ => true
  | .stofbRise => true
  | .stoClear w => w.wf
  | .dioEdge _ _ t glitches => fits 48 t && fits 32 glitches
  | .dioWindowEnd => true
  | .dioStuck _ => true
  | .dioClear w => w.wf
  | .fbEdge _ _ _ _ t glitches => fits 48 t && fits 32 glitches
  | .fbStuck _ _ => true
  | .ssiTransferDone _ _ word => fits 64 word
  | .fbEnable w v => w.wf && valueFits v
  | .fbSel w v => w.wf && valueFits v
  | .fbClear w => w.wf
  | .posset w v => w.wf && valueFits v
  | .idxarm w => w.wf
  | .canFrameReceived _ f => f.wf
  | .stopMatch _ f => f.wf
  | .canTxDone _ => true
  | .canError _ _ _ dtec drec => fits 16 dtec && fits 16 drec
  | .busOffRecovery _ => true
  | .protocolException _ => true
  | .partnerSilent _ => true
  | .partnerEnableTimeout _ => true
  | .canEnable w => w.wf
  | .canDisable w => w.wf
  | .canRecover w => w.wf
  | .restrWrite w v => w.wf && valueFits v
  | .partEnable w v => w.wf && valueFits v
  | .canResetRequest _ f => f.wf
  | .canResetSignature _ f => f.wf
  | .canRemoteReset _ => true
  | .linkLock _ => true
  | .linktmo _ => true
  | .enumerationDone _ a b la lb da =>
      (a.all fun e => fits 48 e.1 && fits 8 e.2) && (b.all fun e => fits 48 e.1 && fits 8 e.2) && fits 32 la
      && fits 32 lb && da.all (fits 32)
  | .enumtmo _ => true
  | .blockingReady _ uids => uids.all (fits 64)
  | .responseReceived _ f => f.wf
  | .portLoss _ _ => true
  | .ringEnable w v => w.wf && valueFits v
  | .ringRun w v => w.wf && valueFits v
  | .cellApply _ _ a b _ => a.all (fits 32) && b.all (fits 32)
  | .cellDirectionLoss _ _ _ => true
  | .cellBlock _ _ => true
  | .convEnable w v => w.wf && valueFits v
  | .convChargeDone _ => true
  | .balanceDone _ => true
  | .mainContactDone _ => true
  | .prechargeFail _ => true
  | .convShutdownDone _ => true
  | .convDischargeDone _ _ => true
  | .convClear w => w.wf
  | .cellClear w => w.wf
  | .cellExcl w v => w.wf && valueFits v
  | .cellRetire w v => w.wf && valueFits v
  | .machEnable w v => w.wf && valueFits v
  | .machClear w => w.wf
  | .axisEnable w v => w.wf && valueFits v
  | .push w v => w.wf && valueFits v
  | .flush w => w.wf
  | .freeze w v => w.wf && valueFits v
  | .ipreset w v => w.wf && valueFits v
  | .freezeTimeout _ => true
  | .atstart w v => w.wf && valueFits v
  | .autotuneTimeout _ => true
  | .traceArm w => w.wf
  | .trignow w => w.wf
  | .traceRead w => w.wf
  | .ffActive w v => w.wf && valueFits v
  | .spack w => w.wf
  | .styleWrite w v => w.wf && valueFits v
  | .patternSrc w v => w.wf && valueFits v
  | .brakeApplyDelay _ => true
  | .holdReduction _ => true
  | .brakeTimeout _ => true
  | .giveRecover _ => true
  | .giveRecovered _ => true
  | .giveTimeout _ => true
  | .memberDisable _ => true
  | .poolTorqueDev _ => true
  | .feedbackHoldEnd _ => true
  | .stopRequest w v => w.wf && valueFits v
  | .stopEreq w v => w.wf && valueFits v
  | .stopAck w => w.wf
  | .sourceClear w => w.wf
  | .stopRest _ => true
  | .brakeSet _ _ => true
  | .stopTimeout _ => true
  | .stopComplete => true
  | .supholdEnd => true
  | .ridethruEnd _ => true
  | .ridethruFail _ => true
  | .thermalSample _ => true
  | .throttleDown => true
  | .tclear w => w.wf
  | .rclear w => w.wf
  | .perchRetry => true
  | .engineFault _ _ => true
  | .taskOverrun _ => true
  | .engineTestStart => true
  | .engineTestDone _ _ => true
  | .retiredClear w v => w.wf && valueFits v
  | .keyBurn w => w.wf
  | .dsgen w => w.wf
  | .arbcommit w => w.wf
  | .fwrevoke w => w.wf
  | .debugUnlock sig => fits 512 sig
  | .reserveCommit w => w.wf
  | .counterCommit => true
  | .psreq w v => w.wf && valueFits v
  | .powerEntry => true
  | .wake _ => true
  | .wakeExitDone _ ms => fits 32 ms
  | .auditScrub _ => true
  | .ledgerWrite => true
  | .seal => true
  | .tdecHalving _ => true
  | .badFrame rq opcode => rq.wf && fits 16 opcode
  | .busIntegration _ => true
  | .arbitrationLost _ => true
  | .comparePulseEnd _ => true
  | .calStale _ => true
  | .diodeCalibration _ => true
  | .otpBurnVerified _ => true
  | .reserveCommitDone => true
  | .tabcrcCheck bad => fits 5 bad
  | .fallbackBlockFrame => true
  | .wbcountInternalAdvance => true
  | .debugAccess op => op.wf
  | .receiverWordLock _ _ => true

end Sys2Proof
end

