-- ==== Sys2Proof/Safety.lean ====
section
/-! DEFINITION. What a sound state of the block is, in the terms that the statements use: the canonical form of its
memories, the ring discipline, no leg with both switches commanded on, STO that follows its pins, and the bounds
of the block's own buffers; and what no command undoes. -/
namespace Sys2Proof.Safety
open Machine

/-- The ring area is in its canonical form: addresses rising, and no byte listed that reads as an unlisted one
does. -/
def memoryOk (t : Tbl Byte) : Prop := Tbl.wf (fun _ => 0) t = true

/-- The keys of a table rise strictly. -/
def rising {α : Type} : Tbl α → Prop
  | [] => True
  | e :: t => Tbl.above e.1 t = true ∧ rising t

/-- A ring has entries; while it is enabled its indexes lie within twice their number, and it holds at most that
number (R502, R503). -/
def ringOk (r : Ring) : Prop := 0 < r.size ∧ (r.en = true → r.head < 2 * r.size ∧ r.tail < 2 * r.size ∧ r.count ≤ r.size)
def ringsOk (t : Tbl Ring) : Prop := ∀ n, ringOk (t.find (Ring.dflt n) n)

/-- Not both switches of a leg are commanded on (R347). -/
def legOk (x : Leg) : Prop := ¬ (x.hi.cmd = true ∧ x.lo.cmd = true)
def legsOk (t : Tbl Leg) : Prop := ∀ l, legOk (t.find {} l)

/-- A window remembers at most 16 requests (R518). -/
def rememberedOk (t : Tbl (List Remembered)) : Prop := ∀ k, (t.find [] k).length ≤ 16

/-- The Ledger's staging buffer holds at most 1,024 records (R595). -/
def stagedOk (l : List LRec) : Prop := l.length ≤ 1024

/-- STO is active exactly while STOA or STOB is low or the discrepancy is latched (R448, R450). -/
def stoOk (a b act disc : Bool) : Prop := act = (!a || !b || disc)

/-- Every fuse burnt in `p` is burnt in `q`: a field holds the bits that it held, and the counts have not
fallen (R614). -/
def fusesKept (p q : Otp) : Prop :=
  p.ds &&& q.ds = p.ds ∧ p.fwpk0 &&& q.fwpk0 = p.fwpk0 ∧ p.fwpk1 &&& q.fwpk1 = p.fwpk1 ∧ p.pspk &&& q.pspk = p.pspk ∧
  p.aupk &&& q.aupk = p.aupk ∧ (p.fwrev = true → q.fwrev = true) ∧ p.arb ≤ q.arb ∧ (p.mint = true → q.mint = true) ∧
  (p.field = true → q.field = true) ∧ (p.ret = true → q.ret = true) ∧ (p.void = true → q.void = true) ∧
  (p.wMint = true → q.wMint = true) ∧ (p.wField = true → q.wField = true) ∧ (p.wRet = true → q.wRet = true) ∧
  (p.wVoid = true → q.wVoid = true) ∧ p.svc ≤ q.svc ∧ p.wSvc ≤ q.wSvc ∧ ∀ k, p.opt.find 0 k &&& q.opt.find 0 k = p.opt.find 0 k

/-- A companion fuse is burnt only where its state fuse is (R614, R624). -/
def companionsOk (o : Otp) : Prop :=
  (o.wMint = true → o.mint = true) ∧ (o.wField = true → o.field = true) ∧ (o.wRet = true → o.ret = true) ∧
  (o.wVoid = true → o.void = true) ∧ o.wSvc ≤ o.svc

/-- The fixed bits of the block map, 24 and 28 to 31, are 1 (R608). -/
def mapOk (m : BitVec 32) : Prop := m &&& 0xF1000000 = 0xF1000000

/-- A state of the block that the invariant statements speak of: the ring area in its canonical form and the members'
addresses rising; no leg with both switches commanded on (R347); the ring indexes within their bounds (R502); at most 16
requests remembered per window (R518); at most 1,024 staged Ledger records (R595); STO as its pins and its latch say
(R448, R450); a companion fuse only beside its state fuse (R614, R624); the fixed bits of the world map (R608). -/
def Sound (s : State) : Prop :=
  memoryOk s.tile ∧ rising s.objs ∧ legsOk s.legs ∧ ringsOk s.rings ∧ rememberedOk s.dups ∧ stagedOk s.ledg.staged ∧
    stoOk s.sto.a s.sto.b s.sto.act s.sto.disc ∧ companionsOk s.otp ∧ mapOk s.sec.blkmap

end Sys2Proof.Safety

/-! The vocabulary in which the statements speak of a request that a host has sent. -/
namespace Sys2Proof.Claim
open Machine Machine.State

/-- The answer of `exec` is the state `t`. -/
def Gives (c : Instr) (s t : State) : Prop := exec c s = .next t

/-- The state in which the entry of a request has been taken from its ring (R506). -/
def taken (s : State) (rq : Rq) : State := s.takeEntry rq

/-- A request that the device takes from its ring and runs (R512 to R522): the port is served, the ring takes the
opcode, the window neither remembers the request nor works on it, and no check of R517 or R522 bars it. -/
def runs (s : State) (rq : Rq) (o : OpRule) : Bool :=
  let z := taken s rq
  s.takes rq && (if rq.ring.val = 0 then o.ring0 else o.window) && (z.opBar rq o).isNone &&
    (rq.ring.val = 0 ||
      (!(z.defers.any fun d => d.rq.ring == rq.ring && d.rq.seq == rq.seq && d.opcode == o.code && d.rq.crc == rq.crc) &&
        ((z.dups.find [] rq.ring.val).find? fun d => d.seq == rq.seq && d.opcode == o.code && d.crc == rq.crc).isNone))

/-- The end of a request whose work has led to `t`: its response, and the memory of R518. -/
def answered (s t : State) (rq : Rq) (opcode addr : Nat) (st : Status) (data : List Byte) : State :=
  t.finish rq opcode addr ((taken s rq).reqSecure rq) false st data

/-- A request that the device goes on with after it has been taken: it waits for its work with the response
`done`, where that is known (R519). -/
def deferred (s t : State) (rq : Rq) (opcode addr : Nat) (kind : DeferKind) (done : Option (Nat × Nat × List Byte)) : State :=
  { t with defers := t.defers ++
      [{ rq := rq, opcode := opcode, addr := addr, secure := (taken s rq).reqSecure rq, kind := kind, done := done }] }

/-- The port of a request has room for one more deferred request (R519). -/
def defersRoom (s : State) (rq : Rq) : Bool := (taken s rq).openDefers ((taken s rq).portOf rq) < 4

/-- The request is handled in the secure world. -/
def secured (s : State) (rq : Rq) : Bool := (taken s rq).reqSecure rq

/-- A write of a member that has a row of its own runs, and the member takes the value: the request is one that
`runs`, the checks of R522 points 5 to 7 pass, and neither the test override (R649) nor a rung below FLIGHT (R677)
refuses it. -/
def writes (s : State) (w : Wq) (m : Mem) (v : Int) : Bool :=
  let z := taken s w.rq
  runs s w.rq { code := 0x101, life := s.objLife w.rq [rowAddr m w.inst] } && (tyOf w.ty).isSome &&
    (match z.writeBar (z.reqSecure w.rq) (rowAddr m w.inst) w.ty v with | .ok r => decide (r = (m, w.inst, 0)) | .error _ => false) &&
    !(z.tb.ovrd && overrideEnable m v) && !(z.g POWER.PSTATE != 0 && flightEnable m v)

/-- The end of such a write, answered with `st` and no payload. -/
def written (s t : State) (w : Wq) (m : Mem) (st : Status) : State := answered s t w.rq 0x101 (rowAddr m w.inst) st []

end Sys2Proof.Claim
end

