-- ==== Sys2Proof/Certificates/Slice0/Obligations.lean ====
section
/-! DEFINITION. The statements for the provers: one `def Obligations.<Name> : Prop` each. -/
open Sys2Proof Sys2Proof.Machine Sys2Proof.Machine.State Sys2Proof.Claim Sys2Proof.Safety

/-- The commands of time run to their end. WINGBEAT_MARK: the blocks of the mark follow one another as R25 lists
them, in FLIGHT with the Exchange, the stops, the evaluations and MOD. HALF_MARK: once a wingbeat, after the first
mark. RESULT_HANDOVER (R46, R47): the copies agree, the result is not late, finite, and no older than what stands: it
becomes the output and is committed. DEADLINE (R50): a further late result is dropped, and the output stage stands
still and counts. SORT_FIXED_POINT (R424) acts once a wingbeat, on every slot of the running rings and on every
converter. -/
def Obligations.TimeCommandsComplete : Prop :=
  (∀ q s, s.marksRun = true →
    let u := ((s.traceClose (if s.tb.first then 2 * s.wb else 2 * s.wb + 2) q.tagBad).telemClose.markTime).profilesOf
    let w := (List.range 64).foldl State.ffFade (q.cells.foldl State.cellMark (u.markInputs q).markRings).markEnables
    let v := w.canMark
    u.ex.fullDue = false → w.n POWER.PSTATE < 3 → v.flight = true → v.pow.gaDue = false →
    let a := (v.markExchange q).markStops
    let y := ((a.convs.foldl State.convTrack ((List.range 32).foldl State.ascTrack a)).markEvals).modMark
    Gives (.wingbeatMark q) s
      ((((if y.cycleNow then y.stageWatch false else y).markEmulation).traceOpen false).telemOpen).settleStops) ∧
  (∀ sd tagBad s, s.marksRun = true → s.tb.half = false → s.tb.first = false →
    let u := s.traceClose (2 * s.wb + 1) tagBad
    let t : State := { u with tb := { u.tb with half := true, off := max u.tb.off (u.twCyc * 4) } }
    let v := (List.range 48).foldl (fun s k => if s.sdHalf k then s.sdLatch k (s.markCycle + s.twCyc / 2) true else s)
      (sd.foldl State.sdTake t).dioTick
    let x := if v.flight then v.halfEvals else v
    Gives (.halfMark sd tagBad) s ((if x.flight && x.cycleNow then x.stageWatch true else x).traceOpen true).settleStops) ∧
  (∀ task half off s k d, s.outKey (Fin.val task) = some k → (s.outSt k).due.find? (·.half = half) = some d →
    let z := s.rewriteHome task.val
    d.out.isEmpty = false → s.dueLate d = false → d.out.all F32.finite? = true → z.outBlocked k = false →
    (z.outSt k).seq ≤ d.seq →
    let u := (((z.atOff off).dropDue k d.seq).outCount k).outSet k d false
    Gives (.resultHandover task half off {}) s
      (((u.setOut k { u.outSt k with runBad := false }).put (lateMems k).run (outOwner k).2 0).outCommit k d
        true).settleStops) ∧
  (∀ task half s k d, s.outKey (Fin.val task) = some k → (s.outSt k).due.find? (·.half = half) = some d →
    let u := s.dropDue k d.seq
    u.outBlocked k = false → (u.outSt k).seq ≤ d.seq → u.n (lateMems k).run (outOwner k).2 ≠ 0 →
    let sub : Due := { d with out := u.prevOut k, ang := (u.outSt k).ang }
    Gives (.deadline task half) s (((u.outSet k sub true).outCommit k sub false).lateCount k true).settleStops) ∧
  (∀ s, s.tb.refok = true → s.fixedPt = false →
    let u := (List.range 4).foldl (fun t r => if t.operates r then t.slotAges r else t)
      { s with fixedPt := true }
    Gives .sortFixedPoint s (u.convs.foldl (fun t c =>
      let r := (t.convArms c).foldl (fun (p : State × Bool) a =>
        let q := (List.range (p.1.n ARM.NCELL a)).foldl (fun (q : State × Bool) i =>
          ((q.1.cellFix c a i).1, q.2 || (q.1.cellFix c a i).2)) (p.1, false)
        (q.1.armFix c a, p.2 || q.2)) (t, false)
      (if r.2 && (1 ≤ r.1.cvState c && r.1.cvState c ≤ 4 || r.1.cvState c = 8) then
        (r.1.convFaultRec 0x2303 c).convFault c true else r.1).redundancy c) u).settleStops)

/-- The commands that place and drive edges run to their end. EDGE_PLACEMENT (R321): 40 cycles, 320 vernier units,
before the instant, in this wingbeat. GATE_EDGE (R347): where the switch is off, its request is on, the other switch is
neither commanded on nor acknowledged on, the dead time has passed and nothing holds the leg off, the switch is
commanded on, and with no edge in progress nothing else changes. RUNG_CHANGE (R332): what is pending takes effect,
and on a rung without a pattern that is all. TRACE_READOUT_BLOCK (R227): a further block of a capture goes out
on ring 9. -/
def Obligations.EdgeCommandsComplete : Prop :=
  (∀ leg s t, s.modulates (Fin.val leg / 3) = true → s.nextEdge (Fin.val leg) = some t → s.tb.cycles * 8 + 320 ≤ t →
    t - 320 < s.tb.cycles * 8 + s.twCyc * 8 →
    Gives (.edgePlacement leg) s
      (((s.atOff (t - 320 - s.tb.cycles * 8)).carTo (leg.val / 3) (t - 320) 64).minPulse leg.val t)) ∧
  (∀ leg low off s, (s.leg (Fin.val leg)).te = none →
    let u := s.atOff off
    let x := u.leg leg.val
    (x.sw low).cmd = false → (x.sw low).wait = false → u.request leg.val low = true → (x.sw (!low)).cmd = false →
    (x.sw (!low)).ga = false → (x.sw (!low)).offAt + u.deadT leg.val ≤ u.vnow → u.heldOff leg.val = false →
    Gives (.gateEdge leg low off) s
      (u.setLeg leg.val (x.setSw low { x.sw low with cmd := true, acked := (x.sw low).ga }))) ∧
  (∀ stage off s, s.modulates (Fin.val stage) = true → s.tripHolds stage.val = false → s.rungPending stage.val = true →
    (s.stg stage.val).hand = true → s.spreads stage.val = false →
    let u := s.atOff off
    let v := u.carTo stage.val u.vnow 64
    let t := v.rungTo stage.val (v.stg stage.val).bT (v.stg stage.val).sixT u.vnow
    t.rungOf stage.val = 0 →
    Gives (.rungChange stage off) s t) ∧
  (∀ u tagBad s, s.trState (Fin.val u) = 5 → s.g TRACE.DEST u.val ≠ 1 → s.hasRoom 9 = true →
    let x := s.traceX u.val
    let k := perTile ((x.buf.head?.map fun r => r.ch.length).getD (s.n TRACE.NCH u.val))
    (x.tidx + 1) * k < x.buf.length →
    Gives (.traceReadoutBlock u tagBad) s
      ((s.produce 9 (traceBlock u.val false tagBad false x.tidx (s.n TRACE.CAPNO u.val)
        ((x.buf.reverse.drop (x.tidx * k)).take k))).setTrace u.val { x with tidx := x.tidx + 1 }))
/-- The commands of start-up run to their end, each in its phase (R637, R638, R643, R646, R649): the phase that follows,
and what the rule lists with it. AUTHENTICATE_DONE is stated for slots that are both empty: the base image boots
(R621). FIRMWARE_LOADED is stated for a Mothball start: no engine is admitted and READY is entered. -/
def Obligations.StartUpCommandsComplete : Prop :=
  (∀ s, s.up.stretch = true → s.up.p3Restart = false → s.up.phase = 0 →
    Gives (.resetStretchEnd true) s { s with up := { s.up with stretch := false, phase := 1 } }) ∧
  (∀ s, s.up.stretch = true → s.up.p3Restart = true →
    Gives (.resetStretchEnd true) s { s with up := { s.up with stretch := false, p3Restart := false } }) ∧
  (∀ s, s.up.phase = 1 → s.tb.early = true →
    Gives .earlyRelease s { s with tb := { s.tb with ovrd := true }, up := { s.up with phase := 2, override := true } }) ∧
  (∀ s, s.up.phase = 2 → wipeDue s.otp = none → Gives .wipeComplete s { s with up := { s.up with phase := 3 } }) ∧
  (∀ s t, s.up.phase = 2 → wipeDue s.otp = some t →
    Gives .wipeComplete s { s.lifeWipe t with otp := burnWiped s.otp, up := { (s.lifeWipe t).up with phase := 3 } }) ∧
  (∀ a b o l k s, s.up.phase = 3 → s.up.stretch = false →
    ∃ t, Gives (.optionsLoaded a b o l k) s t ∧ t.up.phase = 4 ∧
      t.up.optfail = (decide (8 ≤ (s.bk.regs.find 0 31).toNat % 16) || !o || !l || !k) ∧
      t.otp = { s.otp with keysBad := !k } ∧ t.bk.regs = s.bk.regs.put 0 31 0 ∧ t.rings = s.rings ∧ t.tile = s.tile ∧
      t.tb = s.tb ∧ t.mram = s.mram) ∧
  (∀ s, s.up.phase = 4 → s.up.pins = false →
    Gives .trimDone s { s with up := { s.up with pins := true, nrstHeld := false } }) ∧
  (∀ s, s.up.phase = 4 → s.up.pins = true →
    Gives .nrstReleased s { s with
      up := { s.up with phase := 5 }, bk := { s.bk with regs := s.bk.regs.put 0 29 (s.bk.regs.find 0 29 + 1) } }) ∧
  (∀ romOk s, s.up.phase = 5 → s.up.optfail = false → (s.slot 0).stat ≠ 2 → (s.slot 1).stat ≠ 2 → 
    Gives (.authenticateDone romOk) s
      { s.slotShow.put SEC.FWSLOT 0 2 with
          up := { s.up with phase := 6, base := true, mothball := if romOk then 0 else 2 } }) ∧
  (∀ s, s.up.phase = 6 → s.up.testFirst = false → s.up.mothball ≠ 0 →
    let u := s.readRecords.vault.supervisorReset
    u.mram.retiredLost = false → u.up.mothball ≠ 0 →
    Gives .firmwareLoaded s (u.exRefresh).enterReady)

/-- Every reset condition resets the device where its rule lets it act (R635 to R640, R535, R624, R648): the state is the
one that a reset of that cause leaves. -/
def Obligations.ResetCommandsComplete : Prop :=
  (∀ held s, Gives (.powerOnReset held) s (s.doReset (if held then 1 else 2))) ∧
  (∀ rail s, ¬ (Fin.val rail = 0 ∧ 4 ≤ s.n POWER.PSTATE) → Gives (.brownout rail) s (s.doReset (0x11 + rail.val))) ∧
  (∀ s, s.up.phase = 3 ∨ 5 ≤ s.up.phase → Gives .nrstReset s (s.doReset 0x20)) ∧
  (∀ s, s.watchdogRuns = true → Gives .watchdogReset s (s.doReset 0x21)) ∧
  (∀ s, 5 ≤ s.up.phase → Gives .lockstepMismatch s (s.doReset 0x22)) ∧
  (∀ s, s.ready = true → Gives .engineSupervisorReset s (s.doReset 0x23)) ∧
  (∀ s, s.tamperOff = false → Gives .tamper s (s.doReset 0x27)) ∧
  (∀ s, 2 ≤ s.up.phase → s.up.phase < 7 → s.tb.refok = true → s.n POWER.PSTATE < 4 → Gives .refLoss s (s.doReset 0x29))

/-- What a reset leaves (R635, R637, R641, R643), whatever it found: the device stands at P0 with the stretch running, or, for a
non-power reset in P3, at the restart of P3. MRAM is kept, and of OTP every fuse. Every object is at its
reset value, every switch is off, every ring empty, the ring area reads 0, no window remembers a request, nothing
is staged or waits on ring 7. -/
def Obligations.ResetLeavesTheResetState : Prop :=
  ∀ (s : State) (c : Nat),
    let t := s.doReset c
    t.up.phase = (if (!isPower c && decide (s.up.phase = 3)) then 3 else 0) ∧ t.up.stretch = true ∧
    t.mram = s.mram ∧ t.otp = { s.otp with keysBad := false } ∧ t.objs = State.reset.objs ∧ t.legs = State.reset.legs ∧
    t.rings = State.reset.rings ∧ (∀ a, t.byteAt a = 0) ∧ t.dups = [] ∧ t.defers = [] ∧ t.ledg.staged = [] ∧
    t.alarms = [] ∧ t.sto = State.reset.sto ∧ t.pending = s.pending ∧
    (c = 2 ∨ c = 0x26 ∨ c = 0x27 → ∀ a, t.bk.ram.find 0 a = 0)

/-- The commands of the reference run to their end (R39, R404, R587, R639, R652, R653). -/
def Obligations.ReferenceCommandsComplete : Prop :=
  (∀ s, s.up.phase ≠ 0 → s.tb.lock = false → Gives .multiplierLock s { s with tb := { s.tb with lock := true } }) ∧
  (∀ us s, s.tb.lock = true → s.tb.refok = false → s.up.phase = 1 →
    Gives (.refQualified us) s
      { s with tb := { s.tb with refok := true, seen := true, sinceOk := 0 }, up := { s.up with phase := 2 } }) ∧
  (∀ us s, s.tb.lock = true → s.tb.refok = false → s.up.phase = 7 → s.tb.loss = true → s.tb.ovrd = false →
    Gives (.refQualified us) s (s.refRestored us)) ∧
  (∀ s, s.tb.refok = true → s.up.phase = 7 → s.n POWER.PSTATE < 4 →
    let u := s.inc SYS.REFLOSSCNT
    Gives .refLoss s { u with tb := { u.tb with refok := false, loss := true, lock := false } }.refLossStop) ∧
  (∀ s, s.tb.refok = true → s.g THERM.STEP < 1 → s.g POWER.PSTATE < 2 →
    Gives (.vernierCalibration true) s { s.putF ASSAY.TAPAGE 0 F32.zero with
      tb := { s.tb with tapcal := true, tapAge := 0 }, stale := s.stale.filter (· != 0) }) ∧
  (∀ s, s.tb.refok = true → s.g THERM.STEP < 1 → s.g POWER.PSTATE < 2 →
    Gives (.vernierCalibration false) s (s.alarm 0x7502 0 [38] 0 0x1D)) ∧
  (∀ s, s.watchdogRuns = true → Gives .watchdogPrewarning s (s.raise 63))
/-- The commands of the SPI ports run to their end (R492 to R497). SPI_WRITE to the ring area: the bytes wait in the write
buffer, and the status says that the write was taken. SPI_READ of the ring area: the bytes are driven. QUAD_EXIT and
WRITE_BUFFER_COMMIT: the port leaves quad mode; the buffered bytes reach the tile store. -/
def Obligations.PortCommandsComplete : Prop :=
  (∀ port sec a data crcOk s, s.portsAnswer = true → ((s.port (Fin.val port)).crcen = false ∨ crcOk = true) →
    data ≠ [] → a / 256 = (a + data.length - 1) / 256 → (List.range data.length).all (fun k => s.mayWrite port.val (a + k)) = true →
    ((sec && (s.port port.val).seccap) = true ∨ (s.ring ((s.ringOf a).getD 0)).world = false) → s.g POWER.PSTATE ≠ 3 →
    (s.port port.val).wbuf = none →
    Gives (.spiWrite port sec 1 a data crcOk false) s
      (((s.setPort port.val { s.port port.val with wbuf := some (a, data) }).answer port.val true false false false false
        false []).settleStops)) ∧
  (∀ port sec a n crcOk s, s.portsAnswer = true → ((s.port (Fin.val port)).crcen = false ∨ crcOk = true) →
    n ≠ 0 → a / 256 = (a + n - 1) / 256 → a / 256 < 2048 →
    ((sec && (s.port port.val).seccap) = true ∨ (match s.ringOf a with | some r => (s.ring r).world | none => false) = false) →
    s.g POWER.PSTATE ≠ 3 →
    s.badTags.contains (a / 256) = false →
    Gives (.spiRead port sec 1 a n crcOk .inTime false) s
      (s.answer port.val true false false false false false ((List.range n).map fun k => s.portByte port.val (a + k)))) ∧
  (∀ port s, s.portsAnswer = true →
    Gives (.quadExit port) s (s.setPort (Fin.val port) { s.port port.val with quad := false })) ∧
  (∀ port s a l, (s.port (Fin.val port)).wbuf = some (a, l) →
    Gives (.writeBufferCommit port) s ((s.setPort port.val { s.port port.val with wbuf := none }).setBytes a l))

/-- The commands of the rings run to their end. DOORBELL (R503): the owner of an enabled ring moves the index that
its host writes, HEAD of a ring that the device consumes and TAIL of one that it produces, while the ring then holds no
more than its entries and neither index moves back. ESTOP (R511) requests the stop of source 17 where STO.CFG
enables it, and is accepted whatever the rings hold (R457). RING_AGE_TIMEOUT (R506) raises the ring's event source.
ALARM_FLUSH (R598): the oldest coalesced alarm enters ring 7, and ring 7's LOST counts what it stood for. -/
def Obligations.RingCommandsComplete : Prop :=
  (∀ port ring v s, s.portsAnswer = true →
    let u := s.commitBuffer (Fin.val port)
    let r := u.ring (Fin.val ring)
    let m := 2 * r.size
    r.owner = port.val → r.en = true → v < m → ring.val ≠ 14 → hostConsumes ring.val r = true →
    (r.head + m - v) % m ≤ (r.head + m - r.tail) % m →
    Gives (.doorbell port ring v) s (u.setRing ring.val { r with tail := v })) ∧
  (∀ port ring v s, s.portsAnswer = true →
    let u := s.commitBuffer (Fin.val port)
    let r := u.ring (Fin.val ring)
    let m := 2 * r.size
    r.owner = port.val → r.en = true → v < m → ring.val ≠ 14 → hostConsumes ring.val r = false →
    (10 ≤ ring.val → ring.val ≤ 13 → r.hostc = true) →
    (v + m - r.tail) % m ≤ r.size → (v + m - r.head) % m ≤ (v + m - r.tail) % m →
    Gives (.doorbell port ring v) s (u.setRing ring.val { r with head := v })) ∧
  (∀ port index s, bit s.sto.cfg 12 = true → Gives (.estop port index false) s (s.srcRequest 17).settleStops) ∧
  (∀ ring s, s.g HRING.AGEMAX (Fin.val ring) ≠ 0 → (s.ring ring.val).empty = false → (s.ring ring.val).en = true →
    hostConsumes ring.val (s.ring ring.val) = true → Gives (.ringAgeTimeout ring) s (s.raise ring.val)) ∧
  (∀ s a l, s.alarms = a :: l → s.hasRoom 7 = true →
    let u := (s.produce 7 (Alarm.bytes a true s.aseq)).inc HRING.LOST 7 0 (min a.count 65535 - 1)
    Gives .alarmFlush s { u with aseq := (s.aseq + 1) % 4294967296, alarms := l })
/-- The system requests run and answer OK (R530, R597, R619): NOP with its payload, IDENT and STATUS with theirs, CHALLENGE
with a fresh nonce that replaces the port's, LEDGER_READ with the records. -/
def Obligations.SystemRequestsComplete : Prop :=
  (∀ rq l s, runs s rq { code := 1, ring0 := true, life := anyLife, moth := true } = true →
    l.length ≤ (if rq.ring.val = 0 then 44 else 1024) →
    Gives (.nop rq l) s (answered s (taken s rq) rq 1 0 .ok l)) ∧
  (∀ rq s, runs s rq { code := 2, life := anyLife, moth := true } = true →
    Gives (.ident rq) s (answered s (taken s rq) rq 2 0 .ok (taken s rq).identPayload)) ∧
  (∀ rq s, runs s rq { code := 3, life := anyLife, moth := true } = true →
    Gives (.status rq) s (answered s (taken s rq) rq 3 0 .ok (taken s rq).statusPayload)) ∧
  (∀ rq s, runs s rq { code := 4, life := anyLife, moth := true } = true →
    let d := (taken s rq).drawNonce ((taken s rq).portOf rq)
    Gives (.challenge rq) s (answered s d.2 rq 4 0 .ok (le 16 d.1))) ∧
  (∀ rq recno n s, runs s rq { code := 0x400, life := anyLife, moth := true } = true →
    Gives (.ledgerRead rq recno n) s
      (answered s (taken s rq) rq 0x400 0 .ok ((taken s rq).ledgerRead recno n (secured s rq))))

/-- The read requests run and answer OK, and leave every member as it was (R531, R532, R533): one member, a list of
members, consecutive elements, descriptors, registers. -/
def Obligations.ReadRequestsComplete : Prop :=
  (∀ rq addr s t v, runs s rq { code := 0x100, life := readLife } = true →
    (taken s rq).readMember (secured s rq) addr = .ok (t, v) →
    Gives (.objRead rq addr) s (answered s (taken s rq) rq 0x100 addr .ok ([BitVec.ofNat 8 t.code, 0] ++ valBytes t v))) ∧
  (∀ rq addrs s, runs s rq { code := 0x102, life := readLife } = true → 1 ≤ addrs.length → addrs.length ≤ 85 →
    Gives (.objReadMulti rq addrs) s (answered s (taken s rq) rq 0x102 0 .ok
      (le 2 addrs.length ++ zeros 2 ++ (addrs.map fun a => (taken s rq).readRecord (secured s rq) a).flatten))) ∧
  (∀ rq addr n s t v l k, runs s rq { code := 0x104, life := readLife } = true →
    (taken s rq).readMember (secured s rq) addr = .ok (t, v) → t ≠ .o16 → n * t.bytes ≤ 1020 →
    n ≤ (taken s rq).elemsFrom addr → (taken s rq).readElems (secured s rq) addr n = (l, k, .ok) →
    Gives (.blockRead rq addr n) s
      (answered s (taken s rq) rq 0x104 addr .ok ([BitVec.ofNat 8 t.code, 0] ++ le 2 k ++ l))) ∧
  (∀ rq addr n s, runs s rq { code := 0x106, life := readLife } = true → 1 ≤ n → n ≤ 31 →
    let i := addr / 4096 % 4096
    let rows := ((((classRows (addr / 16777216)).filter fun m =>
      decide (m.lo ≤ i) && decide (i < m.lo + m.n) && decide (addr % 4096 < m.num + m.cnt)).foldl
        (fun l m => insertRow m l) []).take n)
    hasInst (addr / 16777216) i = true →
    (secured s rq = true ∨ rows.all (fun m => !(taken s rq).blockSecure (blockOf m (i - m.lo))) = true) →
    Gives (.dictRead rq addr n) s (answered s (taken s rq) rq 0x106 addr .ok
      (le 2 rows.length ++ zeros 2 ++ (rows.map fun m => descriptor m (i - m.lo)).flatten))) ∧
  (∀ rq addr n s, runs s rq { code := 0x300, life := readLife, moth := true } = true → 1 ≤ n → n ≤ 255 →
    let r := (taken s rq).regRead (secured s rq) addr n
    r.1 = .ok →
    Gives (.regRead rq addr n) s (answered s r.2.2 rq 0x300 addr .ok ((r.2.1.map (le 4)).flatten)))

/-- The write requests run and answer OK (R531, R533): one item, a list of items in order, consecutive elements, one
masked register. The state is the one that the writes lead to, item after item. -/
def Obligations.WriteRequestsComplete : Prop :=
  (∀ rq item s t, runs s rq { code := 0x101, life := s.objLife rq [item.addr] } = true → (tyOf item.ty).isSome = true →
    (taken s rq).writeItem (secured s rq) item = (.ok, t) →
    Gives (.objWrite rq item) s (answered s t rq 0x101 item.addr .ok []).settleStops) ∧
  (∀ rq items s t, runs s rq { code := 0x103, life := s.objLife rq (items.map (·.addr)) } = true →
    1 ≤ items.length → items.length ≤ 85 →
    (taken s rq).writeItems (secured s rq) items 0 .ok = (items.length, .ok, none, t) →
    Gives (.objWriteMulti rq items) s
      (answered s t rq 0x103 0 .ok (le 2 items.length ++ zeros 2)).settleStops) ∧
  (∀ rq addr ty vals s t size, runs s rq { code := 0x105, life := s.objLife rq [addr] } = true →
    (tyOf ty).map Ty.bytes = some size → vals.length * size ≤ 1020 → ty ≠ Ty.o16.code →
    vals.length ≤ (taken s rq).elemsFrom addr → vals ≠ [] →
    (taken s rq).writeItems (secured s rq)
      ((List.range vals.length).map fun k => { addr := addr + k, ty := ty, v := vals.getD k 0 }) 0 .ok =
        (vals.length, .ok, none, t) →
    Gives (.blockWrite rq addr ty vals) s
      (answered s t rq 0x105 addr .ok (le 2 vals.length ++ zeros 2)).settleStops) ∧
  (∀ rq addr mask value s t v,
    let sec := [24, 28, 29, 30, 31].contains ((windowOf addr).getD 0)
    runs s rq { code := 0x301, secure := sec, life := if sec then [0, 3] else writeLife } = true →
    (taken s rq).regWrite (secured s rq) addr (mask % 2 ^ 32) (value % 2 ^ 32) = (.ok, v, t) →
    Gives (.regWrite rq addr mask value) s (answered s t rq 0x301 addr .ok (le 4 v)).settleStops)

/-- The requests of cells, CAN and ring 0 run (R534, R536, R562). CELL_SVC opens the ring's transaction and is deferred;
CELL_SVC_DONE ends it with the cell's reply; CAN_TX stages the frame; STOP stops the axes of its scope; EMODE
requests a winch emergency mode. -/
def Obligations.DirectRequestsComplete : Prop :=
  (∀ rq r op slot addr data s, runs s rq { code := 0x401, life := writeLife } = true → data.length ≤ 116 →
    let z := taken s rq
    (secured s rq = true ∨ (z.blockSecure 19 = false ∧ z.life ≠ 2)) → r < 4 → slot < z.n RING.NCELL r →
    (z.link r).svc = none → (z.rState r = 3 ∨ z.rState r = 4) → defersRoom s rq = true →
    let q : Svc := { slot := slot, tid := (z.link r).tid, op := op, addr := addr, data := data }
    Gives (.cellSvc rq r op slot addr data) s
      (deferred s (z.setLink r { z.link r with svc := some q, tid := ((z.link r).tid + 1) % 256 }) rq 0x401 0 (.cellSvc r)
        none)) ∧
  (∀ ring rsts data s, (s.link (Fin.val ring)).svc.isSome = true →
    let v := match (s.link ring.val).svc with
      | some q =>
        let i := 384 * ring.val + q.slot
        let x := s.cellCtl i
        let f := (Config.cellDelayA x.uid).toNat + (Config.cellDelayB x.uid).toNat
        if rsts ≠ 0 then s
        else if q.op = 2 && q.addr = 0x100 then
          let d : Int := 4 * unle (q.data.take 4)
          s.setCellCtl i { x with dA := some d, dB := some (4 * unle (slice 16 4 x.hdr) - 2 * f - d) }
        else if q.op = 3 then s.setCellCtl i (cellRestart x true)
        else s
      | none => s
    let u := v.setLink ring.val { v.link ring.val with svc := none }
    let pay := le 1 rsts ++ le 1 data.length ++ zeros 2 ++ data.take 116
    Gives (.cellSvcDone ring rsts data) s { u with
      defers := u.defers.map fun d =>
        if d.kind = .cellSvc ring.val then { d with done := some (Status.ok.code, d.addr, pay) } else d }) ∧
  (∀ rq port flags id data s t, runs s rq { code := 0x402, life := writeLife } = true → data.length ≤ 64 →
    let z := taken s rq
    (secured s rq = true ∨ (z.blockSecure 20 = false ∧ bit flags 3 = false)) → z.canTxOk port flags id data.length = true → z.g CAN.STATE port ≠ 0 →
    z.canSend { port := port, flags := flags, id := id, data := data } = (t, true) →
    Gives (.canTx rq port flags id data) s (answered s t rq 0x402 0 .ok [])) ∧
  (∀ rq axes cat scope s, runs s rq { code := 0x700, ring0 := true, window := false, life := anyLife, moth := true } = true →
    cat ≤ 2 → scope ≤ 1 →
    Gives (.stop rq axes cat scope) s
      (answered s ((taken s rq).ringStop (if scope = 0 then 0xFFFF else axes % 65536) cat) rq 0x700 0 .ok []).settleStops) ∧
  (∀ rq axes mode s, runs s rq { code := 0x701, ring0 := true, window := false, secure := true, life := writeLife } = true →
    2 ≤ mode → mode ≤ 4 →
    Gives (.emode rq axes mode) s
      (answered s ((taken s rq).ringEmode (axes % 65536) mode) rq 0x701 0 .ok []).settleStops)

/-- The parameter-set requests run (R537 to R542). PSET_OPEN opens an empty set under the next handle; PSET_STAGE appends
its items; PSET_VERIFY checks a set that needs no signature, and PSET_COMMIT applies it, both deferred; PSET_ABORT
discards it; PSET_STORE writes it to its slot and PSET_LOAD fills the staging area from one; PSET_INFO describes
one; PSET_TIMEOUT discards the set with its Ledger record. -/
def Obligations.ParameterSetRequestsComplete : Prop :=
  (∀ rq s, runs s rq { code := 0x200, life := writeLife } = true →
    let z := taken s rq
    z.pset = none →
    Gives (.psetOpen rq) s (answered s
      { z with psetNo := z.nextHandle, pset := some { handle := z.nextHandle, port := z.portOf rq, secure := secured s rq } }
      rq 0x200 0 .ok (le 2 z.nextHandle ++ zeros 2))) ∧
  (∀ rq h first l s p items, runs s rq { code := 0x201, life := writeLife } = true → 1 ≤ l.length → l.length ≤ 85 →
    let z := taken s rq
    z.psetBar rq (secured s rq) h = .ok p → first = p.items.length → first + l.length ≤ 4096 →
    z.stageItems (secured s rq) p.items l = (items, none) →
    Gives (.psetStage rq h first l) s (answered s
      { z with pset := some { p with items := items, verified := false, sigValid := false } }
      rq 0x201 0 .ok (le 2 items.length ++ zeros 2))) ∧
  (∀ rq h s p, runs s rq { code := 0x202, life := writeLife } = true →
    let z := taken s rq
    z.psetBar rq (secured s rq) h = .ok p → z.psetNeeds p.items = false →
    p.items.all (fun q => (z.itemBar (secured s rq) q).isNone) = true → z.psetAdmit p.items = none → defersRoom s rq = true →
    Gives (.psetVerify rq h none) s (deferred s
      { z with pset := some { p with verified := true, sigNeeded := false, sigValid := false } }
      rq 0x202 0 .work (some (0, 0, le 2 p.items.length ++ zeros 2 ++ le 32 (setDigest p.items) ++
        le 4 (crc32c (setBytes' p.items)) ++ le 1 (psetFlags p.items false false) ++ zeros 3)))) ∧
  (∀ rq h digest s p st a k t, runs s rq { code := 0x203, life := writeLife } = true →
    let z := taken s rq
    z.psetBar rq (secured s rq) h = .ok p → (z.psetNeeds p.items = false ∨ p.sigValid = true) → p.verified = true →
    setDigest p.items = digest → z.psetApply (secured s rq) p.items = (st, a, k, t) → st.accepted = true →
    defersRoom s rq = true →
    Gives (.psetCommit rq h digest) s
      (deferred s t rq 0x203 0 .work (some (st.code, a.getD 0, le 2 k ++ zeros 2))).settleStops) ∧
  (∀ rq h s p, runs s rq { code := 0x204, life := writeLife } = true →
    let z := taken s rq
    z.psetBar rq (secured s rq) h = .ok p →
    Gives (.psetAbort rq h) s (answered s { z with pset := none } rq 0x204 0 .ok [])) ∧
  (∀ rq h slot s p, runs s rq { code := 0x205, life := writeLife } = true →
    let z := taken s rq
    z.psetBar rq (secured s rq) h = .ok p → slot ≤ 3 → p.verified = true → defersRoom s rq = true →
    let q : PsetSlot := { items := p.items, secure := p.secure, sigNeeded := p.sigNeeded, sigValid := p.sigValid }
    let u : State := { z with mram := { z.mram with psets := Tbl.ins (z.mram.psets.filter fun e => e.1 != slot) slot q } }
    Gives (.psetStore rq h slot) s
      (deferred s (u.mramWrite (528 + 16 * slot)) rq 0x205 0 .work (some (0, 0, [])))) ∧
  (∀ rq slot s q, runs s rq { code := 0x206, life := writeLife } = true →
    let z := taken s rq
    z.psetSlot slot = some q → q.secure = secured s rq → z.pset = none →
    let p : Pset := { handle := z.nextHandle, port := z.portOf rq, secure := q.secure, items := q.items }
    Gives (.psetLoad rq slot) s (answered s { z with psetNo := z.nextHandle, pset := some p } rq 0x206 0 .ok
      (le 2 z.nextHandle ++ le 2 q.items.length))) ∧
  (∀ rq slot s q, runs s rq { code := 0x207, life := readLife } = true → (taken s rq).psetSlot slot = some q →
    Gives (.psetInfo rq slot) s (answered s (taken s rq) rq 0x207 0 .ok
      (le 2 q.items.length ++ le 1 (psetFlags q.items q.sigNeeded q.sigValid) ++ le 1 (b2n q.secure) ++
        le 32 (setDigest q.items)))) ∧
  (∀ s, s.pset.isSome = true → Gives .psetTimeout s ({ s with pset := none }.ledger 0xF006 0xFFFF 2))

/-- DEFERRED_COMPLETION (R519): the response of a deferred request whose work has ended enters its ring with DEFER set,
the request is no longer open, and for a life-cycle request the change follows. BAD_FRAME (R515): the entry is
taken, counted in BADFRM and answered. -/
def Obligations.DeferredAndBadFramesComplete : Prop :=
  (∀ k s d st addr data, s.defers[k]? = some d → d.done = some (st, addr, data) → s.ready = true →
    s.n POWER.PSTATE ≤ 2 → s.hasRoom (5 + s.portOf d.rq) = true → d.kind = .work →
    (d.rq.quiet = false ∨ 1 < st) →
    let f := frameBytes (respFlags d.rq d.secure true) d.rq.seq d.opcode st addr data
    Gives (.deferredCompletion k) s
      (({ s with defers := s.defers.eraseIdx k }.respond d.rq f).remember d.rq d.opcode f)) ∧
  (∀ rq op s, s.takes rq = true →
    Gives (.badFrame rq op) s (((taken s rq).inc SYS.BADFRM).respond rq
      (frameBytes (respFlags rq (secured s rq) false) rq.seq op Status.badFrame.code 0 [])))

/-- The VRA-1120 style requests run and answer OK (R543): status of an axis, a move staged and pushed, and a tune read, cancelled or started. -/
def Obligations.CompatibilityRequestsComplete : Prop :=
  (∀ rq addr s x, runs s rq { code := 0x800, life := readLife } = true →
    let z := taken s rq
    v1Addr addr 5 16 = some x → (secured s rq = true ∨ z.blockSecure 5 = false) →
    let v := z.perUnit (z.f AXIS.SPD x) (z.f AXIS.VMAX x) 16384
    let q := v.2.perUnit (z.f AXIS.TDEM x) (z.f MACH.TRATED (z.refm x)) 4096
    Gives (.v1Status rq addr) s (answered s q.2 rq 0x800 addr .ok
      (le 2 (z.v1State x) ++ le 2 (z.newestOf 5 x) ++ leInt 4 (z.g AXIS.POS x / 65536) ++ leInt 2 v.1 ++ leInt 2 q.1 ++
        zeros 4))) ∧
  (∀ rq addr (ty : Nat) flags speed target s x t, runs s rq { code := 0x801, life := writeLife } = true →
    let z := taken s rq
    v1Addr addr 5 16 = some x → (secured s rq = true ∨ z.blockSecure 5 = false) → (z.f AXIS.VMAX x).zero? = false →
    1 ≤ ty → ty ≤ 3 →
    let a := (z.put PROF.TYPE x ty).put PROF.TARGET x (target * 65536)
    let b := (((a.putF PROF.VEL x (((F32.ofInt speed).mul (z.f AXIS.VMAX x)).mul (F32.ofFrac 1 16384))).putF PROF.ACC x
      F32.zero).putF PROF.DEC x F32.zero).putF PROF.JERK x F32.zero
    let c := (b.put PROF.FLAGS x (b.n PROF.FLAGS x - b.n PROF.FLAGS x % 2 + b2n (bit flags 1) : Nat)).put PROF.TAG x
      (rq.seq % 65536 : Nat)
    c.applyWrite (secured s rq) PROF.PUSH x 0 (if bit flags 0 then 2 else 1) = (.ok, t) →
    Gives (.v1Move rq addr ty flags speed target) s (answered s t rq 0x801 addr .ok [])) ∧
  (∀ rq addr atd s n, runs s rq { code := 0x802, life := writeLife } = true →
    let z := taken s rq
    v1Addr addr 16 96 = some n → z.tunable n = true → (secured s rq = true ∨ z.blockSecure 5 = false) →
    Gives (.v1Tune rq addr 2 atd) s (answered s z rq 0x802 addr .ok
      (le 1 (z.n LOOP.ATSTATE n) ++ zeros 3 ++ le 4 (z.n LOOP.ATKPPU n) ++ le 4 (z.n LOOP.ATTI n))))
/-- The authenticated requests and the firmware requests run (R535, R619, R622, R624). RESET is granted on a valid signature over the port's
nonce, and the device resets 1 ms later. FW_BEGIN opens a slot that does not run; FW_DATA appends at the next offset; FW_END makes
the slot VALID or REJECTED as its checks go, and its response is deferred. LIFE_REQ is authorised likewise; LIFE_CHANGE records, burns, wipes and
resets. -/
def Obligations.AuthorisedRequestsComplete : Prop :=
  (∀ rq nonce sig s, runs s rq { code := 0x600, life := anyLife, moth := true } = true →
    let a := (taken s rq).authReset ((taken s rq).portOf rq) nonce sig
    Gives (.reset rq nonce sig) s
      (if a.1 then answered s { a.2 with up := { a.2.up with due := some 0x24 } } rq 0x600 0 .ok []
        else answered s a.2 rq 0x600 0 .badValue [])) ∧
  (∀ s, s.up.due = some 0x24 → Gives .resetExecute s (s.doReset 0x24)) ∧
  (∀ rq slot len ver s, runs s rq { code := 0x601, secure := true, life := writeLife, moth := true } = true →
    let z := taken s rq
    slot ≤ 1 → 128 ≤ len → len ≤ 1048512 → z.n SEC.FWSLOT ≠ slot →
    let a := (List.range 2).foldl (fun t j => if (t.slot j).stat = 1 then t.setSlot j {} else t) z
    let b := a.setSlot slot { stat := 1, length := len, version := ver }
    let c : State := { b with sec := { b.sec with fw := some (slot, len, ver) } }
    Gives (.fwBegin rq slot len ver) s (answered s (c.mramWrite (256 * slot)) rq 0x601 0 .ok [])) ∧
  (∀ rq off data s i len ver, runs s rq { code := 0x602, secure := true, life := writeLife, moth := true } = true →
    1 ≤ data.length → data.length ≤ 1016 →
    let z := taken s rq
    z.sec.fw = some (i, len, ver) → off = (z.slot i).bytes.length → off + data.length ≤ 1048512 →
    Gives (.fwData rq off data) s
      (answered s ((z.setSlot i { z.slot i with bytes := (z.slot i).bytes ++ data }).mramWrite (256 * i + off / 4096)) rq 0x602 0
        .ok [])) ∧
  (∀ rq digest sig s i len ver, runs s rq { code := 0x603, secure := true, life := writeLife, moth := true } = true →
    let z := taken s rq
    z.sec.fw = some (i, len, ver) → defersRoom s rq = true →
    let l := (z.slot i).bytes
    let u : State := { z with sec := { z.sec with fw := none } }
    let v := ((u.setSlot i { z.slot i with stat := 2, sig := sig }).ledger 0xF005 0xFFFF i).mramWrite (256 * i + 255)
    Gives (.fwEnd rq digest sig) s
      (if l.length = len && imgField l 4 4 = ver && imgField l 12 4 = len && (Config.sha256 l).toNat = digest &&
          Config.ecdsaVerify z.fwKey (Config.sha256 l) sig && z.otp.arb ≤ imgField l 8 1 then
        deferred s v rq 0x603 0 .work (some (Status.ok.code, 0, le 1 i ++ zeros 3 ++ le 4 ver))
      else deferred s (u.setSlot i { z.slot i with stat := 3 }) rq 0x603 0 .work (some (Status.badValue.code, 0, [])))) ∧
  (∀ rq target nonce sig s, runs s rq { code := 0x604, secure := true, life := anyLife } = true →
    let z := taken s rq
    z.lifeAllowed target = true → z.lifeBusy = false → z.life ≠ 1 → defersRoom s rq = true →
    let a := z.authorise (z.portOf rq) nonce (authHead nonce ++ le 1 target ++ le 1 z.life) (z.lifeKey target).2 sig
      (z.lifeKey target).1
    Gives (.lifeReq rq target nonce sig) s
      (if a.1 then deferred s a.2 rq 0x604 0 (.lifeReq target) (some (Status.ok.code, 0, []))
        else answered s a.2 rq 0x604 0 .badValue [])) ∧
  (∀ s t, s.sec.lifeTo = some t →
    let a := ((s.ledger 0xF004 0xFFFF t).ledgerFlush 1032).sealPair
    let b := { a with otp := burnLife a.otp t }.lifeWipe t
    Gives .lifeChange s ({ b with otp := burnWiped b.otp }.doReset 0x26))
/-- The writes that set up the device run, each where its rule lets it (R24, R58, R59, R61, R68, R528, R701): the wingbeat length takes
effect at the next mark, FULL at the next mark, the supply moves to its setpoint, the VID pins are named and driven
to code 0, an object is committed with PENDING, and a free object is deconfigured. -/
def Obligations.SettingWritesComplete : Prop :=
  (∀ w v s, writes s w SYS.WINGBEAT v = true →
    let z := taken s w.rq
    v.toNat % 2500 = 0 → 10000 ≤ v.toNat → v.toNat ≤ 100000 →
    (∀ i, i < 16 → z.stState i ∉ [1, 2, 3, 6]) → (∀ r, r < 4 → z.rState r ≠ 2 ∧ z.rState r ≠ 4) →
    (∀ x, x < 16 → z.b AXIS.ENABLE x = false) → z.wingbeatBreaks v.toNat = false →
    z.taskIds.foldl (fun k t => k + (z.put SYS.WINGBEAT 0 v.toNat).chargeOf t) 0 ≤ (z.put SYS.WINGBEAT 0 v.toNat).admCap →
    (∀ r, r < 4 → z.ringTight r v.toNat = false) →
    Gives (.wingbeatWrite w v) s (written s { z with tb := { z.tb with newTw := some v.toNat } } w SYS.WINGBEAT .ok)) ∧
  (∀ w s, writes s w PROFILE.DUTY 1 = true →
    let z := taken s w.rq
    z.g PROFILE.DUTY ≠ 1 →
    Gives (.dutyWrite w 1) s
      (written s { z.put PROFILE.DUTY 0 1 with ex := { z.ex with fullDue := true } } w PROFILE.DUTY .ok)) ∧
  (∀ w v s, writes s w POWER.SETPOINT v = true →
    let z := taken s w.rq
    v.toNat ≠ z.n POWER.SETPOINT → (v.toNat = 0 ∨ z.n POWER.VIDDIO ≠ 255) →
    (v.toNat ≠ 1 ∨ z.charge ≤ z.capWith (throughput 1) z.admittedList.length z.paired) →
    (v.toNat ≠ 2 ∨ (F32.ofInt 95).lt (z.f THERM.TJ) = false) → z.flight = true →
    Gives (.setpointWrite w v) s (written s (z.setpointMove v.toNat).exRefresh w POWER.SETPOINT .ok)) ∧
  (∀ w v s, writes s w POWER.VIDDIO v = true →
    let z := taken s w.rq
    (v.toNat = 255 ∨ (v.toNat ≤ 29 ∧ ∀ k, k < 3 → z.n DIO.FUNC (v.toNat + k) = 1 ∧ z.n DIO.POL (v.toNat + k) = 0)) →
    z.flight = true → z.n POWER.SETPOINT = 0 → v.toNat ≠ z.n POWER.VIDDIO →
    Gives (.viddioWrite w v) s (written s ((z.put POWER.VIDDIO 0 v.toNat).vidDrive 0) w POWER.VIDDIO .ok)) ∧
  (∀ w c s t, writes s w (cfgRow c) 1 = true →
    let z := taken s w.rq
    let cls := (cfgRow c).cls
    z.cfgBar cls w.inst = none → z.cfgCommitAll [(cls, w.inst)] = some t →
    Gives (.cfgCommit w c) s (written s t w (cfgRow c) .pending).settleStops) ∧
  (∀ w c s, writes s w (cfgRow c) 0 = true →
    let z := taken s w.rq
    let cls := (cfgRow c).cls
    z.cfgBusy cls w.inst = false →
    Gives (.cfgDeconfigure w c) s
      (written s (((z.removeTasks cls w.inst).put (cfgRow c) w.inst 0).rewriteMaps) w (cfgRow c) .ok).settleStops)

/-- The writes of a stage run (R363, R365, R367, R368, R369): an accepted enable waits for its mark with ENABLE set; a
disable of a stage in operation waits for its mark; CLEAR of a stage in FAULT whose causes are gone clears it; DIAG
of a stage that is OFF starts a run. -/
def Obligations.StageWritesComplete : Prop :=
  (∀ w s, writes s w STAGE.ENABLE 1 = true →
    let z := taken s w.rq
    let x := z.axisOfStage w.inst
    z.n STAGE.MACH w.inst ≠ 255 → z.stState w.inst = 0 → z.stageActs w.inst = false → z.stopOver x = false →
    z.stopOverStage w.inst = false → z.stageLatched w.inst = false → z.sto.act = false → z.latchedOver x = false →
    z.heldAxis x = false →
    Gives (.stageEnable w) s
      (written s ((z.setStg w.inst { z.stg w.inst with enPend := true }).put STAGE.ENABLE w.inst 1) w STAGE.ENABLE
        .pending).settleStops) ∧
  (∀ w s, writes s w STAGE.ENABLE 0 = true →
    let z := taken s w.rq
    (z.n STAGE.MACH w.inst ≥ 32 ∨ z.b MACH.ENABLE (z.n STAGE.MACH w.inst) = false) →
    1 ≤ z.stState w.inst → z.stState w.inst ≤ 3 →
    Gives (.stageDisable w) s
      (written s (z.setStg w.inst { z.stg w.inst with disPend := true }) w STAGE.ENABLE .pending).settleStops) ∧
  (∀ w s, writes s w STAGE.CLEAR 1 = true →
    let z := taken s w.rq
    z.stState w.inst = 5 → z.stageActs w.inst = false → z.stageCause w.inst = false →
    Gives (.stageClear w) s (written s (z.stageCleared w.inst) w STAGE.CLEAR .ok).settleStops) ∧
  (∀ w s, writes s w STAGE.DIAG 1 = true →
    let z := taken s w.rq
    z.stState w.inst = 0 → (z.stg w.inst).enPend = false →
    Gives (.diagStart w) s (written s (z.diagStart w.inst false) w STAGE.DIAG .ok).settleStops)

/-- The writes of inputs and feedback channels run (R119, R130, R133, R144, R161, R164): each clears, enables, selects, arms
or sets what its rule names, and nothing else. -/
def Obligations.InputWritesComplete : Prop :=
  (∀ w s, writes s w SD.CLEAR 1 = true →
    let z := taken s w.rq
    z.g SD.STATE w.inst = 3 → 1024 ≤ (z.sdX w.inst).clean →
    Gives (.sdClear w) s
      (written s ((z.setSdX w.inst { z.sdX w.inst with clrPend := true }).clearFault 13 w.inst) w SD.CLEAR .ok).settleStops) ∧
  (∀ w v more s,
    let y := s.sdMore w.inst more
    writes y w SD.GAINREF v = true →
    let z := taken y w.rq
    let l := (z.sdX w.inst).sums
    let gc := (F32.ofBits v).div ((z.f SD.SCALE w.inst).mul ((z.sdMean w.inst l).sub (z.f SD.OFFS w.inst)))
    l ≠ [] → (F32.ofFrac 9 10).le gc = true → gc.le (F32.ofFrac 11 10) = true →
    Gives (.gainref w v more) s (written y (z.putF SD.GCOR w.inst gc) w SD.GAINREF .ok)) ∧
  (∀ w s, writes s w DIO.CLEAR 1 = true →
    let z := taken s w.rq
    z.g DIO.VALID w.inst = 0 →
    Gives (.dioClear w) s
      (written s (((z.put DIO.VALID w.inst 1).putB DIO.STATE w.inst (z.dioX w.inst).pin).clearFault 15 w.inst) w DIO.CLEAR
        .ok).settleStops) ∧
  (∀ w v s, writes s w FB.MODE v = true →
    let z := taken s w.rq
    let n := w.inst
    z.g FB.MODE n = 0 → 2 ≤ v → z.n FB.ADV n * 5 < z.twFit * 2 →
    let c := z.g FB.POSINIT n
    let x := z.fbX n
    let t := ((((((z.put FB.MODE n v.toNat).put FB.STATE n 1).put FB.SEL n 0).put FB.OFFP n 0).put FB.POS n
      (posOf c (z.n FB.CPR n))).put FB.SPEED n 0).put FB.SPEEDF n 0
    Gives (.fbEnable w v) s (written s ((t.fbUnhomed n).setFbX n { count := c, c0 := c, lat := c, seen := c, a := x.a, b := x.b, z := x.z }) w FB.MODE .ok).settleStops) ∧
  (∀ w s, writes s w FB.SEL 1 = true →
    let z := taken s w.rq
    let n := w.inst
    z.g FB.SEL n ≠ 1 → z.n FB.FBKCH n < 16 → z.g FB.STATE (z.n FB.FBKCH n) = 2 → (z.fbX n).fbo.isSome = true →
    z.fbIsFallback n = false →
    Gives (.fbSel w 1) s (written s (z.setFbX n { z.fbX n with selPend := some 1 }) w FB.SEL .ok).settleStops) ∧
  (∀ w s, writes s w FB.CLEAR 1 = true →
    let z := taken s w.rq
    let n := w.inst
    (z.axesOfFb n).any (fun x => z.b AXIS.ENABLE x) = false → (z.g FB.STATE n = 4 ∨ z.g FB.STATE n = 5) →
    Gives (.fbClear w) s (written s (((z.put FB.STATE n 1).setFbX n
      { z.fbX n with bad := 0, good := 0, still := 0, miss := 0, esc := false }).clearFault 12 n) w FB.CLEAR .ok).settleStops) ∧
  (∀ w v s, writes s w FB.POSSET v = true →
    let z := taken s w.rq
    Gives (.posset w v) s (written s (z.setFbX w.inst { z.fbX w.inst with posset := some v }) w FB.POSSET .ok)) ∧
  (∀ w s, writes s w FB.IDXARM 1 = true →
    let z := taken s w.rq
    Gives (.idxarm w) s (written s (z.setFbX w.inst { z.fbX w.inst with armed := true }) w FB.IDXARM .ok))

/-- The writes of the CAN ports and partners run (R552, R559, R560, R573, R579): a disabled port with a valid timing starts
integrating with its error counters at 0; a port whose partners drive no machine flushes and goes OFF; a port
in bus-off counts its recovery; RESTR moves a communicating port to restricted operation; a partner is disabled and
loses its state. -/
def Obligations.CanWritesComplete : Prop :=
  (∀ w s, writes s w CAN.EN 1 = true →
    let z := taken s w.rq
    let p := w.inst
    z.b CAN.EN p = false → z.canTimingOk p = true →
    Gives (.canEnable w) s
      (written s ((((z.put CAN.EN p 1).put CAN.TEC p 0).put CAN.REC p 0).canTo p 1) w CAN.EN .ok)) ∧
  (∀ w s, writes s w CAN.EN 0 = true →
    let z := taken s w.rq
    let p := w.inst
    (∀ i, i < 256 → z.b PART.EN i = false ∨ z.g PART.KIND i ≠ 1) →
    let x := z.canP p
    let u := z.inc CAN.TXDROP p 0 (x.urg.length + x.norm.length + b2n x.buf0.isSome + b2n x.buf1.isSome + b2n x.buf2.isSome)
    let v := u.setCan p { x with urg := [], norm := [], buf0 := none, buf1 := none, buf2 := none, count := false, susp := false }
    Gives (.canDisable w) s
      (written s (canPump 256 (((v.put CAN.TXBST p 0).put CAN.EN p 0).canTo p 0)) w CAN.EN .ok).settleStops) ∧
  (∀ w s, writes s w CAN.RECOVER 1 = true →
    let z := taken s w.rq
    z.cState w.inst = 4 →
    Gives (.canRecover w) s (written s (z.setCan w.inst { z.canP w.inst with count := true }) w CAN.RECOVER .ok)) ∧
  (∀ w s, writes s w CAN.RESTR 1 = true →
    let z := (taken s w.rq).put CAN.RESTR w.inst 1
    (z.cState w.inst = 2 ∨ z.cState w.inst = 3) →
    Gives (.restrWrite w 1) s (written s (z.canTo w.inst 5) w CAN.RESTR .ok)) ∧
  (∀ w s, writes s w PART.EN 0 = true →
    let z := taken s w.rq
    z.n PART.KIND w.inst ≠ 1 →
    Gives (.partEnable w 0) s
      (written s (((z.put PART.EN w.inst 0).put PART.VALID w.inst 0).setPart w.inst {}) w PART.EN .ok).settleStops)

/-- The writes of cell rings, converters and cells run (R406, R408, R430, R432, R436, R439, R440): LINKUP of a ring that expects cells;
RUN of a blocking ring that nothing holds; CHARGE of a converter that is set up, placed and free; OFF after FAULT; a
failed cell back to OK; an excluded cell; a retired cell. -/
def Obligations.RingAndConverterWritesComplete : Prop :=
  (∀ w s, writes s w RING.EN 1 = true →
    let z := taken s w.rq
    let r := w.inst
    z.rState r = 0 → z.g RING.EXPN r ≠ 0 → z.tripTight (z.n RING.EXPN r) = false →
    Gives (.ringEnable w 1) s (written s ((z.put RING.EN r 1).put RING.STATE r 1) w RING.EN .ok).settleStops) ∧
  (∀ w s, writes s w RING.RUN 1 = true →
    let z := taken s w.rq
    let r := w.inst
    z.rState r = 3 → z.stopOver 255 = false → z.sto.act = false → z.latchedOver 255 = false → z.rttOk r = true →
    (∀ c ∈ z.convsOn r, z.stopOver (z.axisOfConv c) = false ∧ z.latchedOver (z.axisOfConv c) = false) →
    (∀ k, k < z.n RING.NCELL r → z.g SLOT.STATE (384 * r + k) ≠ 2) →
    Gives (.ringRun w 1) s (written s ((z.put RING.STATE r 4).put RING.RUN r 1) w RING.RUN .ok).settleStops) ∧
  (∀ w s, writes s w CONV.ENABLE 1 = true →
    let z := taken s w.rq
    let c := w.inst
    let x := z.axisOfConv c
    z.n CONV.MACH c ≠ 255 → z.n CONV.SDDC c ≠ 255 → (z.f CONV.VDCNOM c).zero? = false → (z.f CONV.VCNOM c).zero? = false →
    (∀ a ∈ z.convArms c, z.nReq c ≤ z.n ARM.NCELL a) → z.g CONV.CFG c = 2 → z.ownerStranded 9 c = false →
    (∀ a ∈ z.convArms c, (z.task (40 + a)).st ≠ 0) →
    z.convActs c = false → z.stopOver x = false → z.cvState c = 0 → z.sto.act = false → z.latchedOver x = false →
    z.heldAxis x = false →
    let u := (z.put CONV.NREQ c (z.nReq c)).putF CONV.VCTGT c (z.f CONV.VCNOM c)
    let t := (u.convArms c).foldl (fun t a => (t.resetOut (40 + a)).setArmX a
      { t.armX a with resid := F32.zero, ins := [], ic := F32.zero, icref := F32.zero }) u
    Gives (.convEnable w 1) s (written s (t.convTo c 1) w CONV.ENABLE .pending).settleStops) ∧
  (∀ w s, writes s w CONV.CLEAR 1 = true →
    let z := taken s w.rq
    z.cvState w.inst = 7 → z.convActs w.inst = false → z.convCause w.inst = false →
    Gives (.convClear w) s (written s ((z.convTo w.inst 0).clearFault 9 w.inst) w CONV.CLEAR .ok).settleStops) ∧
  (∀ w s c, writes s w CELL.CLEAR 1 = true →
    let z := taken s w.rq
    let j := w.inst
    z.convOfArm (j / 64) = some c → z.g CELL.STATE j = 4 → z.cvState c ≠ 4 →
    z.g SLOT.STATE (384 * z.n CONV.RING c + z.n ARM.SLOT0 (j / 64) + j % 64) = 1 → z.failCause c j (384 * z.n CONV.RING c + z.n ARM.SLOT0 (j / 64) + j % 64) (z.cellX j) (z.n CELL.STATUS j) = 0 →
    Gives (.cellClear w) s
      (written s (((((z.put CELL.STATE j 0).put CELL.FCAUSE j 0).setCellX j { clrf := 2, hist := (z.cellX j).hist })).clearFault 11 j) w CELL.CLEAR
        .ok).settleStops) ∧
  (∀ w s c, writes s w CELL.EXCL 1 = true →
    let z := taken s w.rq
    let j := w.inst
    z.convOfArm (j / 64) = some c → z.g CELL.STATE j ≤ 1 →
    (z.n CONV.NREQ c < (z.availCells (j / 64)).length ∨ z.b CONV.LIMP c = true) →
    (z.put CELL.EXCL j 1).g CELL.STATE j ≤ 1 →
    Gives (.cellExcl w 1) s (written s ((z.put CELL.EXCL j 1).put CELL.STATE j 2) w CELL.EXCL .ok).settleStops) ∧
  (∀ w s c, writes s w CELL.RETIRE 1 = true →
    let z := taken s w.rq
    let j := w.inst
    z.convOfArm (j / 64) = some c → z.g CELL.STATE j ≠ 5 →
    Gives (.cellRetire w 1) s
      (written s (z.cellRetired c j (z.n SLOT.UID (384 * z.n CONV.RING c + z.n ARM.SLOT0 (j / 64) + j % 64))) w CELL.RETIRE
        .ok).settleStops)

/-- The writes of machines and axes run (R190, R194, R198, R209, R296, R327, R334): a machine that is placed, set up and free to turn
on a running stage is enabled; a machine of no enabled axis is disabled; CLEAR leaves the fault policy once its causes are gone; a disable
of an axis waits for its mark; SPACK, STYLE, the pattern source and a feed-forward table take their values. -/
def Obligations.DriveWritesComplete : Prop :=
  (∀ w s i, writes s w MACH.ENABLE 1 = true →
    let z := taken s w.rq
    let m := w.inst
    z.b MACH.ENABLE m = false → z.machPlaced m = true → z.pathOf m = 1 → (z.f MACH.IMAX m).zero? = false →
    ((z.f LOOP.KP m).zero? && (z.f LOOP.KPD m).zero?) = false → z.g MACH.ANGSRC m ≠ 1 → z.dcMach m = false →
    (z.machX m).policy = false → (z.fbAvail (z.n MACH.FBANG m) = false ∨ z.g FB.STATE (z.n MACH.FBANG m) ≠ 1) →
    z.stopStatusOf (z.n MACH.AXIS m) (z.latchedOver (z.n MACH.AXIS m)) = none → z.stageOfMach m = some i → z.stState i = 3 →
    Gives (.machEnable w 1) s (written s (z.machOn m) w MACH.ENABLE .ok).settleStops) ∧
  (∀ w s, writes s w MACH.ENABLE 0 = true →
    let z := taken s w.rq
    let m := w.inst
    z.b MACH.ENABLE m = true →
    (16 ≤ z.n MACH.AXIS m ∨ z.b AXIS.ENABLE (z.n MACH.AXIS m) = false ∨ (z.machX m).policy = true) →
    Gives (.machEnable w 0) s (written s ((z.machOff m).partDisable m) w MACH.ENABLE .ok).settleStops) ∧
  (∀ w s, writes s w MACH.CLEAR 1 = true →
    let z := taken s w.rq
    let m := w.inst
    z.machCause m = false → z.stageOfMach m = none → (z.machX m).policy = true → z.machStranded m = false →
    Gives (.machClear w) s
      (written s (((z.setMachX m { z.machX m with policy := false, bad := 0, ierr := 0 }).leavePolicy [m]).clearFault 6 m) w
        MACH.CLEAR .ok).settleStops) ∧
  (∀ w s, writes s w AXIS.ENABLE 0 = true →
    let z := taken s w.rq
    z.b AXIS.ENABLE w.inst = true →
    Gives (.axisEnable w 0) s
      (written s (z.setAxisX w.inst { z.axisX w.inst with disPend := true }) w AXIS.ENABLE .ok).settleStops) ∧
  (∀ w s, writes s w AXIS.ENABLE 1 = true →
    let z := taken s w.rq
    let x := w.inst
    z.b AXIS.ENABLE x = false → z.g AXIS.CFG x = 2 → z.ownerStranded 5 x = false → z.axisBad x = false →
    (z.fbAvail (z.n AXIS.FBPOS x) = false ∨ z.g FB.STATE (z.n AXIS.FBPOS x) ≠ 1) →
    (z.fbAvail (z.n AXIS.FBSPD x) = false ∨ z.g FB.STATE (z.n AXIS.FBSPD x) ≠ 1) →
    (∀ m ∈ z.machsOf x, z.g MACH.ANGSRC m ≠ 0 ∨ z.fbAvail (z.n MACH.FBANG m) = false ∨ z.g FB.STATE (z.n MACH.FBANG m) ≠ 1) →
    z.stopStatusOf x (z.latchedOver x) = none →
    Gives (.axisEnable w 1) s (written s (z.axisEnable x (z.latchedOver x)).2 w AXIS.ENABLE .ok).settleStops) ∧
  (∀ w s, writes s w AXIS.SPACK 1 = true →
    let z := taken s w.rq
    z.spInvalid w.inst = false →
    Gives (.spack w) s (written s ((z.setAxisX w.inst { z.axisX w.inst with spBad := false, spRamp0 := false }).clearFault 5
      w.inst) w AXIS.SPACK .ok)) ∧
  (∀ w s, writes s w MACH.STYLE 0 = true →
    Gives (.styleWrite w 0) s (written s ((taken s w.rq).put MACH.STYLE w.inst 0) w MACH.STYLE .ok)) ∧
  (∀ w s, writes s w PAT.SRC 1 = true →
    let z := taken s w.rq
    z.g PAT.EXPCRC w.inst = z.g PAT.TABCRC w.inst → z.rowsOk w.inst = true → z.patternBusy w.inst = false →
    Gives (.patternSrc w 1) s (written s (z.put PAT.SRC w.inst 1) w PAT.SRC .ok)) ∧
  (∀ w s, writes s w PAT.SRC 0 = true →
    let z := taken s w.rq
    z.patternBusy w.inst = false →
    Gives (.patternSrc w 0) s (written s (z.put PAT.SRC w.inst 0) w PAT.SRC .ok)) ∧
  (∀ w s, writes s w FF.ACTIVE 1 = true →
    let z := taken s w.rq
    (z.b FF.CRCCHK w.inst = false ∨ z.g FF.EXPCRC w.inst = z.g FF.TABCRC w.inst) →
    Gives (.ffActive w 1) s (written s (z.put FF.ACTIVE w.inst 1) w FF.ACTIVE .ok))

/-- The writes of motion, loops and traces run (R203, R223, R224, R227, R230, R246, R250): a push of a free axis joins the queue; FLUSH empties
it; a freeze, a preset of a loop that stands, and the end of a tune; a trace unit is armed, triggered and read. -/
def Obligations.MotionAndTraceWritesComplete : Prop :=
  (∀ w s mv, writes s w PROF.PUSH 1 = true →
    let z := taken s w.rq
    let x := w.inst
    (z.task (72 + 6 * x)).st ≠ 0 → z.ownerStranded 5 x = false → z.b AXIS.ENABLE x = true → z.stopRuns x = false →
    z.n STOP.STATE x ≠ 4 → (z.gen x).queue.length < 16 → z.pushBad x false = false → z.staged x = (mv, false) →
    (z.gen x).act = none →
    Gives (.push w 1) s
      (written s ((z.setGen x { z.gen x with queue :=
        (z.gen x).queue ++ [{ mv with pred := (z.gen x).queue.any fun m => m.ty = 1 || m.ty = 2 }] }).queueLen x) w PROF.PUSH
        .ok)) ∧
  (∀ w s, writes s w PROF.FLUSH 1 = true →
    Gives (.flush w) s (written s ((taken s w.rq).flushQueue w.inst fun _ => false) w PROF.FLUSH .ok)) ∧
  (∀ w s, writes s w LOOP.FREEZE 1 = true →
    let z := (taken s w.rq).put LOOP.FREEZE w.inst 1
    Gives (.freeze w 1) s
      (written s (z.put LOOP.FRZACK w.inst ((taken s w.rq).g LOOP.FRZACK w.inst)) w LOOP.FREEZE .ok)) ∧
  (∀ w v s, writes s w LOOP.IPRESET v = true →
    let z := taken s w.rq
    (z.loopEnabled w.inst = false ∨ z.g LOOP.FREEZE w.inst ≠ 0) →
    Gives (.ipreset w v) s
      (written s (z.setLoopX w.inst { z.loopX w.inst with preset := some (F32.ofBits v) }) w LOOP.IPRESET .ok)) ∧
  (∀ w s, writes s w LOOP.ATSTART 0 = true →
    let z := taken s w.rq
    z.tunable w.inst = true →
    Gives (.atstart w 0) s (written s (z.tuneAbort w.inst 0x17) w LOOP.ATSTART .ok)) ∧
  (∀ w s, writes s w TRACE.ARM 1 = true →
    let z := taken s w.rq
    (z.traceNote.trState w.inst = 1 ∨ z.traceNote.trState w.inst = 4) →
    Gives (.traceArm w) s (written s (z.traceNote.traceRearm w.inst) w TRACE.ARM .ok)) ∧
  (∀ w s, writes s w TRACE.TRIGNOW 1 = true →
    let z := taken s w.rq
    z.traceNote.trState w.inst = 2 → z.g TRACE.TRIGSRC w.inst = 4 →
    Gives (.trignow w) s (written s (z.traceNote.traceEvent w.inst) w TRACE.TRIGNOW .ok)) ∧
  (∀ w s, writes s w TRACE.READ 1 = true →
    let z := taken s w.rq
    let t := z.traceNote
    t.trState w.inst = 4 → (z.g TRACE.DEST w.inst ≠ 1 ∨ z.g TRPORT.PORTEN ≠ 0) →
    Gives (.traceRead w) s
      (written s ((t.put TRACE.STATE w.inst 5).setTrace w.inst { t.traceX w.inst with tidx := 0, opn := [] }) w TRACE.READ
        .ok))

/-- The writes of the stop system run (R450, R453, R456, R460, R468, R471, R478, R653): a stop and an emergency mode of one axis, the end of a hold, and
the clears of a source, of STO, of the thermal latches and of the reference-loss latch once their causes are gone. -/
def Obligations.StopWritesComplete : Prop :=
  (∀ w v s, writes s w STOP.REQ v = true →
    Gives (.stopRequest w v) s
      (written s (((taken s w.rq).stopSource w.inst v.toNat false (2 ^ w.inst)).stopAxes (2 ^ w.inst) v.toNat 0x84) w STOP.REQ
        .ok).settleStops) ∧
  (∀ w v s, writes s w STOP.EREQ v = true →
    Gives (.stopEreq w v) s
      (written s (((taken s w.rq).stopSource w.inst v.toNat false (2 ^ w.inst)).emodeAxis w.inst v.toNat) w STOP.EREQ
        .ok).settleStops) ∧
  (∀ w s, writes s w STOP.ACK 1 = true →
    let z := taken s w.rq
    let x := w.inst
    z.stopState x = 4 → z.latchedOver x = false → z.sto.act = false →
    let t := ((z.put STOP.STATE x 0).put STOP.CAT x 255).put STOP.CAUSE x 255
    Gives (.stopAck w) s
      (written s ((t.setAxisX x { t.axisX x with pHold := none }).motionIdle x) w STOP.ACK .ok).settleStops) ∧
  (∀ w s, writes s w SRC.CLEAR 1 = true →
    let z := taken s w.rq
    w.inst ≠ 0 → (w.inst < 16 ∨ z.dioSource (w.inst - 16) = false) →
    Gives (.sourceClear w) s
      (written s ((z.put SRC.LATCHED w.inst 0).clearFault 21 (16 + w.inst)) w SRC.CLEAR .ok).settleStops) ∧
  (∀ w s, writes s w SRC.CLEAR 1 = true →
    let z := taken s w.rq
    w.inst = 0 → z.sto.a = true → z.sto.b = true →
    Gives (.stoClear w) s
      (written s (((z.setSto fun q => { q with disc := false, rdbk := false }).stoLevels true true).clearFault 21 16) w SRC.CLEAR
        .ok).settleStops) ∧
  (∀ w s, writes s w STOPDEV.TCLEAR 1 = true →
    let z := taken s w.rq
    (z.sto.thStop = true ∨ z.sto.thTrip = true) → 10000 ≤ z.pow.below10 →
    Gives (.tclear w) s
      (written s (z.setSto fun q => { q with thStop := false, thTrip := false }) w STOPDEV.TCLEAR .ok).settleStops) ∧
  (∀ w s, writes s w STOPDEV.RCLEAR 1 = true →
    let z := taken s w.rq
    z.tb.refok = true → 10000000 ≤ z.tb.sinceOk →
    Gives (.rclear w) s
      (written s (z.setSto fun q => { q with refLoss := false }) w STOPDEV.RCLEAR .ok).settleStops)

/-- The writes of keys, counters, engines and power run (R94, R592, R615, R616, R622, R662): a burn starts and is verified later; the device
secret is generated in MINT; the anti-rollback counter rises to the running image's; FWPK0 is revoked in SERVICE; a
counter commit is due; RETIRED bits are cleared in SERVICE; a lower power state is requested. -/
def Obligations.SecurityAndPowerWritesComplete : Prop :=
  (∀ w s k, writes s w SEC.BURN 1 = true →
    let z := taken s w.rq
    z.sec.burning = none → z.burnValue = some k →
    Gives (.keyBurn w) s
      (written s { z with sec := { z.sec with burning := some (z.n SEC.KEYSEL, k) } } w SEC.BURN .pending)) ∧
  (∀ w s, writes s w SEC.DSGEN 1 = true →
    let z := taken s w.rq
    z.life = 1 → z.otp.ds = 0 →
    let u : State := { z with sec := { z.sec with drawn := z.sec.drawn + 1 },
                              otp := { z.otp with ds := (Config.entropy z.sec.drawn).toNat } }
    Gives (.dsgen w) s (written s u.otpShow w SEC.DSGEN .ok)) ∧
  (∀ w s, writes s w SEC.ARBCOMMIT 1 = true →
    let z := taken s w.rq
    let a := min 64 (imgField (z.slot (z.n SEC.FWSLOT)).bytes 8 1)
    z.n SEC.FWSLOT ≤ 1 → z.otp.arb < a → (z.life = 2 ∨ z.life = 3) →
    let u : State := { z with otp := { z.otp with arb := a } }
    Gives (.arbcommit w) s (written s u.otpShow w SEC.ARBCOMMIT .ok)) ∧
  (∀ w s, writes s w SEC.FWREVOKE 1 = true →
    let z := taken s w.rq
    z.life = 3 → z.otpKey 2 ≠ 0 →
    let u : State := { z with otp := { z.otp with fwrev := true } }
    Gives (.fwrevoke w) s (written s u.otpShow w SEC.FWREVOKE .ok)) ∧
  (∀ w s, writes s w RESERVE.COMMIT 1 = true →
    let z := taken s w.rq
    Gives (.reserveCommit w) s (written s { z with commitDue := true } w RESERVE.COMMIT .pending)) ∧
  (∀ w v s, writes s w EXCH.RETIRED v = true →
    let z := taken s w.rq
    v.toNat &&& z.n EXCH.RETIRED = v.toNat → z.life = 3 →
    Gives (.retiredClear w v) s (written s (z.clearRetired v.toNat) w EXCH.RETIRED .ok)) ∧
  (∀ w v s, writes s w POWER.PSREQ v = true →
    let z := taken s w.rq
    v.toNat ≠ z.n POWER.PSTATE → ¬ (v.toNat = 0 ∧ (z.n POWER.PSTATE = 1 ∨ z.n POWER.PSTATE = 2)) → z.stops = [] →
    z.powerBar v.toNat = none → (v.toNat ≠ 4 ∨ z.resumeSize ≤ 196608) →
    Gives (.psreq w v) s (written s (z.requestState v.toNat) w POWER.PSREQ .pending))
/-- The commands of stages and legs run to their end. DIAG_STEP_END (R362): in step 1 with no pin outside the window the
run goes on to step 2. PRECHARGE_END (R366): the stage enters RUN and is driven. SHUTDOWN_ACK and DISCHARGE_END (R367): with
every acknowledge low the discharge output is driven, or the actions are done where there is none, and the output is
released in the end. GA_CHANGE (R345): the level is accepted; one that confirms the command finds no fault, and
lets the other switch on. ACK_ON_TIMEOUT and ACK_OFF_TIMEOUT (R349): the fault, and that of its stage. -/
def Obligations.StageEventsComplete : Prop :=
  (∀ stage pins s, s.stState (Fin.val stage) = 1 → (s.stg stage.val).step = 1 → (∀ k, k < 3 → pins.getD k 0 = 1) →
    Gives (.diagStepEnd stage pins) s (s.setStg stage.val { s.stg stage.val with step := 2 }).settleStops) ∧
  (∀ stage s, s.stState (Fin.val stage) = 2 →
    Gives (.prechargeEnd stage) s ((s.stageTo stage.val 3).driveStage stage.val).settleStops) ∧
  (∀ stage s, (s.stState (Fin.val stage) = 4 ∨ s.stState stage.val = 5) → (s.stg stage.val).act = 1 →
    (legsOf stage.val).any (fun l => (s.leg l).hi.ga || (s.leg l).lo.ga) = false →
    let d := s.n STAGE.DISCHDIO stage.val
    Gives (.shutdownAck stage) s
      (if d < 32 ∧ s.g DIO.FUNC d = 1 then (s.dioDrive d true).setStg stage.val { (s.dioDrive d true).stg stage.val with act := 2 }
        else s.stageDone stage.val).settleStops) ∧
  (∀ stage s, (s.stg (Fin.val stage)).act = 2 → (s.n STAGE.MACH stage.val ≥ 32 ∨ s.n MACH.SDDC (s.n STAGE.MACH stage.val) = 255) →
    Gives (.dischargeEnd stage true) s
      ((s.dioDrive (s.n STAGE.DISCHDIO stage.val) false).stageDone stage.val).settleStops) ∧
  (∀ leg low s, s.gaSampled = true → s.pow.gaDue = false →
    let x := s.leg (Fin.val leg)
    (x.sw low).ga = true → (x.sw low).cmd = false →
    let u := s.setLeg leg.val (x.setSw low { x.sw low with ga := false, acked := true })
    Gives (.gaChange leg low false) s (u.swOn leg.val (!low) u.vnow).settleStops) ∧
  (∀ leg low s, s.gaSampled = true → ((s.leg (Fin.val leg)).sw low).cmd = true → ((s.leg leg.val).sw low).ga = false →
    Gives (.ackOnTimeout leg low) s
      ((s.ackFault leg.val low (1 + b2n low) 0x1102).stageFault (leg.val / 3)).settleStops) ∧
  (∀ leg low s, s.gaSampled = true → ((s.leg (Fin.val leg)).sw low).cmd = false → ((s.leg leg.val).sw low).ga = true →
    Gives (.ackOffTimeout leg low) s
      ((s.legFault leg.val (3 + b2n low) 0x1103).stageFault (leg.val / 3)).settleStops)

/-- The commands of the trip inputs and of the analogue inputs run to their end. TRIP_ASSERT (R357): a pin that is the first
active source asserts its input. TRIP_RELEASE (R359): the pin and the ΣΔ trips of the input are inactive, and the
stages of its mask are free. TRIP_WINDOW_END: every input counts from 0 again. SD_TRIP (R154): each bit passes the filters
and the comparator; the one with which the density has stood above both limits for TRIPCNT clock periods makes the input join
the tripped ones, with its fault. SD_LOST (R159): the bit that completes RUNMAX identical ones makes the input LOST at the
value of the run's begin, with its fault, and converters that measure with it fault. OFFSET_CAPTURE (R163): the offset is the
mean density of 4,096 latches, also in MRAM. AIN_CONVERSION (R166): volts in range
give VOLTS and, with no smoothing, VALUE. -/
def Obligations.TripAndAnalogueEventsComplete : Prop :=
  (∀ n s, s.tripLevel (Fin.val n) = false →
    Gives (.tripAssert n) s ((s.setTrip n.val { s.trip n.val with pin := true }).tripAssert n.val).settleStops) ∧
  (∀ n s, (s.trip (Fin.val n)).pin = true →
    let u := s.setTrip n.val { s.trip n.val with pin := false }
    u.tripLevel n.val = false →
    Gives (.tripRelease n) s (u.tripFree (u.tripMask n.val)).settleStops) ∧
  (∀ s,
    let zeroed := fun (e : Nat × TripIn) => ({ e.2 with cnt := 0, esc := false } : TripIn)
    let l := s.trips.filterMap fun e => if zeroed e = {} then none else some (e.1, zeroed e)
    Gives .tripWindowEnd s { s with trips := l }) ∧
  (∀ q off s, q.k < 48 → s.sdRuns q.k = true →
    let u := q.bits.foldl (fun t b => t.sdBit q.k b) (s.atOff off)
    Gives (.sdTrip q off) s (u.setSdX q.k { u.sdX q.k with edge := q.t - u.n SD.SAMPDLY q.k }).settleStops) ∧
  (∀ k t b off z, k < 48 → State.sdRuns z k = true → (z.sdX k).bits.head? = some b → (z.sdX k).run + 1 < z.n SD.RUNMAX k →
    let s := z.atOff off
    let x := s.sdX k
    let u := s.setSdX k { x with bits := (b :: x.bits).take 776, cnt := min 776 (x.cnt + 1), run := x.run + 1,
                                 clean := min 1024 (x.clean + 1) }
    let y := u.sdX k
    let mt := u.n SD.MT k
    let d := density 2 mt (sincSum 2 mt y.bits)
    2 * mt ≤ y.bits.length → (y.hi.max y.lo).lt d = true → u.sdTrip.contains k = false → u.n SD.TRIPCNT k ≤ y.above + 1 →
    let v := u.setSdX k { y with td := d, above := y.above + 1, inside := 0,
                                 below := if d.lt (y.hi.min y.lo) then y.below + 1 else 0 }
    let w := v.tripMoved ({ v with sdTrip := v.sdTrip ++ [k] }.inputFault 0x3503 k 13 [])
    Gives (.sdTrip { k := k, t := t, bits := [b] } off) z
      (w.setSdX k { w.sdX k with edge := t - w.n SD.SAMPDLY k }).settleStops) ∧
  (∀ k t b s, k < 48 → s.sdRuns k = true → s.g SD.STATE k ≠ 3 → (s.sdX k).bits.head? = some b →
    s.n SD.RUNMAX k ≤ (s.sdX k).run + 1 →
    let x := s.sdX k
    let u := (s.setSdX k { x with bits := (b :: x.bits).take 776, cnt := min 776 (x.cnt + 1), run := x.run + 1,
                                  clean := 0 }).sdCompare k
    u.b SD.ENABLE k = true → u.g SD.STATE k ≠ 3 →
    let v := ((u.put SD.STATE k 3).put SD.VALUE k (u.sdX k).held).setSdX k { u.sdX k with clean := 0 }
    let w := u.tripMoved (v.inputFault 0x3501 k 13 (v.axesOfSd k))
    let y := w.convs.foldl (fun t c =>
      if t.n CONV.SDDC c = k || (t.convArms c).any fun a => t.g ARM.SDI a == k then t.convFault c true else t) w
    Gives (.sdLost { k := k, t := t, bits := [b] }) s
      (y.setSdX k { y.sdX k with edge := t - y.n SD.SAMPDLY k }).settleStops) ∧
  (∀ k off z,
    let s := State.atOff z off
    s.b SD.ENABLE (Fin.val k) = true → s.b SD.ZEROCAP k.val = true → 4096 ≤ (s.sdX k.val).capN →
    s.sdGatesOff k.val = true → s.g SD.STATE k.val = 2 → s.g THERM.STEP < 1 →
    (∀ c, (s.sdX k.val).capAt = some c → s.n ASSAY.ZEROPER * 400000000 ≤ s.tb.cycles - c ∧ c ≤ s.tb.cycles) →
    let mean := s.sdMean k.val (s.sdX k.val).sums
    mean.abs.le (F32.ofFrac 5 100) = true →
    let u := (s.setSdX k.val { s.sdX k.val with capN := 0, capAt := some s.tb.cycles }).putF SD.OFFS k.val mean
    Gives (.offsetCapture k off) z { u with mram := { u.mram with sdOffs := u.mram.sdOffs.put 0 k.val mean.toBits } }) ∧
  (∀ n codes skips s l, s.sarDue = Fin.val n :: l → s.g AIN.PERIOD n.val ≠ 0 → codes.length = s.n AIN.AVG n.val → codes ≠ [] →
    s.n POWER.PSTATE < 2 →
    let total : Nat := codes.foldl (fun k c => k + c % 16384) 0
    let t : State := { s with sarDue := l }
    let y := t.inc AIN.SKIP n.val 0 skips
    let volts := F32.ofFrac (((total : Int) - y.sarOff * codes.length) * (65536 + y.sarGain) * 18)
      (163840 * 65536 * codes.length)
    let a := y.putF AIN.VOLTS n.val volts
    let x : AinX := { out := 0, ins := (a.ainx.find {} n.val).ins + 1, code := total / codes.length }
    let b : State := { a with ainx := a.ainx.put {} n.val x }
    let c := b.put AIN.STATE n.val 2
    volts.lt (a.f AIN.LOLIM n.val) = false → (a.f AIN.HILIM n.val).lt volts = false → b.g AIN.STATE n.val ≠ 4 →
    0 < b.n AIN.RANGEN n.val → c.g AIN.STATE n.val ≠ 4 → c.n AIN.TAU n.val = 0 →
    let v := (c.f AIN.GAIN n.val).mul (volts.sub (c.f AIN.ZERO n.val))
    v.abs.le (c.f AIN.DBAND n.val) = false →
    Gives (.ainConversion n codes skips) s (c.putF AIN.VALUE n.val v).settleStops)

/-- The commands of STO run to their end (R448, R450, R451, R452): the accepted levels act; a release lets the pins read high;
a discrepancy latches with its fault; a readback error latches, with STOFB low; STOFB rises once every condition
holds. -/
def Obligations.StoEventsComplete : Prop :=
  (∀ a b s, (a = false ∨ b = false) → Gives (.stoActive a b) s (s.stoLevels a b).settleStops) ∧
  (∀ s, Gives .stoRelease s (s.stoLevels true true).settleStops) ∧
  (∀ s, s.sto.a ≠ s.sto.b → s.sto.disc = false →
    Gives .stoDiscrepancy s
      (((s.setSto fun q => { q with disc := true }).alarm 0xC101 16 ((List.range 16).map (16 + ·)) 0 21).stoLevels s.sto.a s.sto.b).settleStops) ∧
  (∀ pin s, ((s.leg (Fin.val pin / 2)).sw (pin.val % 2 = 1)).cmd = false → s.sto.rdbk = false →
    Gives (.stoReadback pin) s
      ((s.setSto fun q => { q with rdbk := true, fb := false }).alarm 0xC102 16
        (if s.axisOfStage (pin.val / 6) < 16 then [16 + s.axisOfStage (pin.val / 6)] else []) pin.val 21).settleStops) ∧
  (∀ s, s.sto.a = false → s.sto.b = false → s.sto.rdbk = false → s.ready = true →
    (∀ l, l < 48 → (s.leg l).hi.cmd = false ∧ (s.leg l).lo.cmd = false) →
    (∀ r, r < 4 → s.rState r = 0 ∨ (s.link r).blkSent = true) →
    Gives .stofbRise s (s.setSto fun q => { q with fb := true }))

/-- The commands of digital inputs and feedback channels run to their end. DIO_EDGE (R116): a valid input with its last
edge far enough takes the level, its latch and its stop request. DIO_STUCK (R120) and FB_STUCK: the fault.
DIO_WINDOW_END (R118): an input whose count has reached its limit faults, and every one counts from 0. FB_EDGE (R113): a rising step edge counts up by one. SSI_TRANSFER_DONE
(R109, R110): a line that stays low counts NORESP and is outcome 1. -/
def Obligations.FeedbackEventsComplete : Prop :=
  (∀ n level t glitches s, s.g DIO.FUNC (Fin.val n) ≠ 1 → s.g DIO.FUNC n.val ≠ 3 →
    let u := s.dioGlitches n.val glitches
    (u.dioX n.val).wait = none → (u.dioX n.val).lastT = none → u.g DIO.VALID n.val ≠ 0 → u.b DIO.STATE n.val ≠ level →
    let x := u.setDioX n.val { u.dioX n.val with pin := level, wait := none }
    let v := ((x.putB DIO.STATE n.val level).setDioX n.val
      { x.dioX n.val with lastT := some (t + u.n DIO.FILT n.val * 2 / 5), wait := none }).dioLatch n.val level t
    Gives (.dioEdge n level t glitches) s (s.dioStopEdge v n.val).settleStops) ∧
  (∀ s, Gives .dioWindowEnd s
    ((List.range 32).foldl (fun t n => s.dioStopEdge t n) ((s.diox.map (·.1)).foldl (fun t n =>
      let x := t.dioX n
      let y := if t.n DIO.GLITCHMAX n ≤ x.glitch then t.dioFaulted n 0x3301
        else if t.n DIO.SPACEMAX n ≤ x.space then t.dioFaulted n 0x3302 else t
      y.setDioX n { y.dioX n with glitch := 0, space := 0 }) s)).settleStops) ∧
  (∀ n s, s.g DIO.MAXACT (Fin.val n) ≠ 0 → s.dioActive n.val = true → s.g DIO.FUNC n.val ≠ 1 →
    Gives (.dioStuck n) s (s.dioStopEdge (s.dioFaulted n.val 0x3303) n.val).settleStops) ∧
  (∀ n t glitches s, s.n FB.MODE (Fin.val n) = 4 → s.tb.refok = true →
    let u := s.inc FB.GLITCH n.val 0 glitches
    let v := u.setFbX n.val { u.fbX n.val with a := true, lastA := some t }
    (u.fbX n.val).lastA = none → u.b FB.INV n.val = false →
    let z := v.setFbX n.val (v.pushEdge n.val (v.fbX n.val)
      { t := t * 5, c := wrap48 ((v.fbX n.val).count + 1), acc := t + v.n FB.FILT n.val })
    let p := posOf (z.fbX n.val).count (z.n FB.CPR n.val)
    Gives (.fbEdge n 0 true false t glitches) s (z.compareAll n.val p (p + (z.fbX n.val).off)).settleStops) ∧
  (∀ n s, 2 ≤ s.n FB.MODE (Fin.val n) → s.g FB.MAXACT n.val ≠ 0 →
    let u := (s.setFbX n.val { s.fbX n.val with stuckZ := true }).inputFault 0x3106 n.val 12 (s.axesOfFb n.val)
    Gives (.fbStuck n true) s (u.indexMiss n.val).settleStops) ∧
  (∀ n word s, s.g FB.MODE (Fin.val n) = 1 → s.tb.refok = true → s.n POWER.PSTATE < 2 → (s.fbX n.val).wait = false →
    let u := s.setFbX n.val { s.fbX n.val with got := some false }
    Gives (.ssiTransferDone n true word) s
      ((((u.inc FB.NORESP n.val).ssiOutcome n.val 1).fbBad n.val).ssiRelease).settleStops) ∧
  (∀ n word s, s.g FB.MODE (Fin.val n) = 1 → s.tb.refok = true → s.n POWER.PSTATE < 2 → (s.fbX n.val).wait = false →
    let mt := s.n FB.MT n.val
    let st := s.n FB.ST n.val
    let w := word % 2 ^ (mt + st)
    let u := s.setFbX n.val { s.fbX n.val with got := some true }
    s.n FB.LEAD n.val = 0 → s.n FB.STAT n.val = 0 → s.n FB.CRCLEN n.val = 0 → s.b FB.GRAY n.val = false →
    s.b FB.INV n.val = false → s.b FB.MTSIGN n.val = false → (s.fbX n.val).word = none → w ≠ 2 ^ (mt + st) - 1 →
    ∃ t, Gives (.ssiTransferDone n false word) s t ∧
      t = (let c := wrap48 ((w / 2 ^ st * 2 ^ st + w % 2 ^ st : Nat) : Int)
        let age : Int := (u.n FB.ADV n.val : Int) * 5 - (u.n FB.ENCDLY n.val : Int) * 2
        let ts : Int := u.nextMark * 5 - age
        let a := (u.setFbX n.val { u.fbX n.val with
          count := c, c0 := c, hist := [], word := some w, lat := c, outc := 0,
          samp := (ts, posOf c (u.cprOf n.val)) :: (u.fbX n.val).samp.filter fun e => ts ≤ e.1 + 22000000 }).putF
          FB.AGE n.val (F32.ofFrac age 2000)
        let b := a.fbGood n.val
        let corr := ((b.f FB.SPEED n.val).mul (F32.ofFrac age 2000000000)).div (F32.ofInt (b.cprOf n.val))
        let p := b.rawPos n.val + (b.fbX n.val).off
        let d := if b.g FB.SEL n.val = 0 && b.g FB.STATE n.val = 2 then
            b.put FB.POS n.val (if b.b FB.AGECOMP n.val then p + corr.floorMul (2 ^ 32) else p)
          else b
        (((d.ssiLatches n.val).compareAll n.val (d.rawPos n.val) (d.g FB.POS n.val)).ssiRelease).settleStops))
/-- The commands of the CAN ports and partners run to their end. CAN_FRAME_RECEIVED (R558, R569): the frame is counted, REC falls by
one, and the entry enters the port's receive ring, whose host consumes it. STOP_MATCH (R572) counts the hit and requests the
port's stop source. CAN_TX_DONE (R564) empties the chosen buffer, counts the frame and lowers TEC. CAN_ERROR (R558) counts
and raises the counters. BUS_OFF_RECOVERY (R559), BUS_INTEGRATION (R557), PROTOCOL_EXCEPTION (R561) and ARBITRATION_LOST
(R565) move the port or count the attempt. -/
def Obligations.CanEventsComplete : Prop :=
  (∀ port f s, (s.cState (Fin.val port) = 2 ∨ s.cState port.val = 3) → s.tb.refok = true →
    let u := s.inc CAN.RXFR port.val
    u.n CAN.REC port.val ≤ 127 →
    let v := u.setErr port.val (u.n CAN.TEC port.val) (u.n CAN.REC port.val - 1)
    v.hasRoom (10 + port.val) = true →
    let g : CanRx := { f with flags := setBits f.flags 5 1 (b2n (v.smMatches port.val f)) }
    let a := v.produce (10 + port.val) (g.bytes port.val)
    let b := (List.range 256).foldl (fun t i => if t.partMatches i port.val g then t.partIn i g else t) a
    (b.ring (10 + port.val)).hostc = true →
    Gives (.canFrameReceived port f) s b.settleStops) ∧
  (∀ port f s, s.smMatches (Fin.val port) f = true →
    Gives (.stopMatch port f) s
      ((s.setCan port.val { s.canP port.val with hits := ((s.canP port.val).hits + 1) % 65536 }).srcRequest
        (18 + port.val)).settleStops) ∧
  (∀ port s k b, s.canMaySend (Fin.val port) = true → s.canChoice port.val = some k → (s.canP port.val).buf k = some b →
    let a := s.canTdc port.val b.f
    let u := (a.setCan port.val { (a.canP port.val).setBuf k none with first := false }).inc CAN.TXFR port.val
    let v := u.setErr port.val (u.n CAN.TEC port.val - 1) (u.n CAN.REC port.val)
    Gives (.canTxDone port) s (canPump 256 (v.canLoad port.val))) ∧
  (∀ port dt dr s, (s.cState (Fin.val port) = 2 ∨ s.cState port.val = 3) → s.tb.refok = true →
    let u := s.inc CAN.ERRCNT port.val
    Gives (.canError port false false dt dr) s
      (u.setErr port.val (u.n CAN.TEC port.val + dt) (u.n CAN.REC port.val + dr)).settleStops) ∧
  (∀ port s, s.cState (Fin.val port) = 4 → (s.canP port.val).count = true →
    let u := ((s.put CAN.TEC port.val 0).put CAN.REC port.val 0).put CAN.RECSEQ port.val 128
    let v := u.setCan port.val { s.canP port.val with count := false, susp := false, first := true }
    Gives (.busOffRecovery port) s (v.canTo port.val (if v.b CAN.RESTR port.val then 5 else 2))) ∧
  (∀ port s, (s.cState (Fin.val port) = 2 ∨ s.cState port.val = 3 ∨ s.cState port.val = 5) → s.b CAN.FDEN port.val = false →
    s.b CAN.PEXC port.val = true →
    let u := (s.inc CAN.PEXCCNT port.val).canTo port.val 1
    (∀ t, (u.canP port.val).pexAt = some t → t + cyclesPerS ≤ u.tb.cycles) →
    Gives (.protocolException port) s
      ((u.setCan port.val { u.canP port.val with pexAt := some u.tb.cycles }).portFault 0x6104 port.val 0)) ∧
  (∀ port s, s.cState (Fin.val port) = 1 → s.tb.refok = true →
    let u := s.setCan port.val { s.canP port.val with first := true }
    Gives (.busIntegration port) s (u.canTo port.val (if u.b CAN.RESTR port.val then 5 else u.errState port.val))) ∧
  (∀ port s k, s.canMaySend (Fin.val port) = true → s.canChoice port.val = some k →
    Gives (.arbitrationLost port) s
      (((s.setCan port.val { s.canP port.val with first := false }).inc CAN.ARBLOST port.val).canAttempt port.val k))

/-- The commands of partners and of the CAN remote reset run to their end. PARTNER_SILENT (R575): an enabled partner loses its validity, with its
fault and its policy. PARTNER_ENABLE_TIMEOUT (R577): the wait ends with its fault. CAN_RESET_REQUEST (R648): the port sends a
fresh nonce. CAN_RESET_SIGNATURE: frame 3 is kept; frame 4 completes the signature, which is checked and answered.
CAN_REMOTE_RESET resets the device. -/
def Obligations.PartnerAndRemoteResetEventsComplete : Prop :=
  (∀ p s, s.b PART.EN (Fin.val p) = true → (s.partX p.val).silent = false →
    Gives (.partnerSilent p) s
      ((((s.put PART.VALID p.val 0).setPart p.val { s.partX p.val with silent := true }).partFault 0x6301 p.val).partPolicy p.val).settleStops) ∧
  (∀ p s, (s.partX (Fin.val p)).wait = true →
    Gives (.partnerEnableTimeout p) s
      ((s.setPart p.val { s.partX p.val with cen := false, wait := false }).partFault 0x6303 p.val).settleStops) ∧
  (∀ port f s, s.rstFrame (Fin.val port) f 1 1 = true → s.b CAN.RESTR port.val = false →
    let d := s.drawNonce (2 + port.val)
    Gives (.canResetRequest port f) s
      ((d.2.setCan port.val { d.2.canP port.val with rstep := 2, rsig := [] }).rstSend port.val ([2] ++ zeros 7 ++ le 16 d.1))) ∧
  (∀ port f s, (s.canP (Fin.val port)).rstep = 2 → s.rstFrame port.val f 48 3 = true →
    Gives (.canResetSignature port f) s
      (s.setCan port.val { s.canP port.val with rstep := 3, rsig := slice 16 32 f.data })) ∧
  (∀ port f s, (s.canP (Fin.val port)).rstep = 3 → s.rstFrame port.val f 48 4 = true →
    let sig := unle ((s.canP port.val).rsig ++ slice 16 32 f.data).reverse
    let u := s.setCan port.val { s.canP port.val with rstep := 0, rsig := [] }
    let a := u.authReset (2 + port.val) ((u.nonceOf (2 + port.val)).getD (2 ^ 128)) sig
    Gives (.canResetSignature port f) s
      (if a.1 then (a.2.setCan port.val { a.2.canP port.val with rstep := 5 }).rstSend port.val ([5, 0] ++ zeros 6)
        else a.2.rstSend port.val ([5, 7] ++ zeros 6))) ∧
  (∀ port s, (s.canP (Fin.val port)).rstep = 5 → Gives (.canRemoteReset port) s (s.doReset 0x25))

/-- The commands of the cell rings run to their end. LINK_LOCK (R406) leads to ENUMERATE; LINKTMO (R409) to FAILED with no
degraded start allowed; ENUMERATION_DONE (R407) takes the identities, loops and the apply time into the ring's record;
ENUMTMO to FAILED; BLOCKING_READY to BLOCKING; RESPONSE_RECEIVED (R398) counts the frame and hands its slots on;
PORT_LOSS and RECEIVER_WORD_LOCK (R410) clear and set the receiver's lock; FALLBACK_BLOCK_FRAME (R404) sends one more
of the BLOCK frames of a lost reference. -/
def Obligations.CellRingEventsComplete : Prop :=
  (∀ r s, s.rState (Fin.val r) = 1 → (s.link r.val).lockA = true → (s.link r.val).lockB = true → (s.link r.val).degr = false →
    Gives (.linkLock r) s (s.put RING.STATE r.val 2)) ∧
  (∀ r s, s.rState (Fin.val r) = 1 → (s.link r.val).degr = false → s.b RING.DEGRADE r.val = false →
    Gives (.linktmo r) s (s.ringTo r.val 5)) ∧
  (∀ r a la lb da s, s.rState (Fin.val r) = 2 → (s.link r.val).enumOk = false → a.length = s.n RING.EXPN r.val →
    (a.map (·.1)).all (fun u => u != 0 && u != 2 ^ 48 - 1) = true → s.b RING.UIDCHK r.val = false →
    let tap := (134 + 4 * a.length) * 10 + max la lb + 1000 + s.n RING.TAPPX r.val * 5
    tap ≤ s.twNs * 5 - 2500 →
    let cg := (s.n RING.CGEN r.val + 1) % 2 ^ 32
    let rtt := tFrame a.length + max la lb + 100
    let u := s.slotIdentities r.val a
    let v := u.setLink r.val
      { u.link r.val with enumOk := true, loop := (la + lb) / 2, tapply := tap, rtt := rtt }
    let w := ((v.putF RING.LOOP r.val (ns5 ((la + lb) / 2))).putF RING.TAPPLY r.val (ns5 tap)).putF RING.RTT r.val (ns5 rtt)
    let q : RingRecord := { uids := a.map (·.1), cgen := cg, loop := (la + lb) / 2, tapply := tap, da := da }
    let x : State := { w with mram := { w.mram with rings := w.mram.rings.put {} r.val q } }
    Gives (.enumerationDone r a a.reverse la lb da) s (x.put RING.CGEN r.val cg)) ∧
  (∀ r s, s.rState (Fin.val r) = 2 → Gives (.enumtmo r) s (s.ringTo r.val 5)) ∧
  (∀ r uids s, s.rState (Fin.val r) = 2 → (s.link r.val).enumOk = true → s.allAnswer r.val = true →
    Gives (.blockingReady r uids) s
      ((s.put RING.STATE r.val 3).setLink r.val { s.link r.val with enumOk := false })) ∧
  (∀ r f s, s.sends (Fin.val r) = true → s.launchWb f.fnum ≤ s.wb → f.symErr = 0 →
    f.eof = true → f.hdrOk = true → f.ccrcOk = true → f.src = none →
    let g : FrameIn := { f with fnum := s.launchWb f.fnum }
    let u := (s.inc RING.FRRX r.val (b2n f.dirB)).loopIn r.val g
    u.operates r.val = true →
    Gives (.responseReceived r f) s (f.slots.foldl (fun t e => t.slotIn r.val g e.1 e.2) u).settleStops) ∧
  (∀ r s, s.rState (Fin.val r) ≠ 0 → (s.link r.val).lockA = true →
    let u := s.setLink r.val { s.link r.val with lockA := false }
    Gives (.portLoss r false) s ((u.inc RING.LOS r.val 0).linkFault 0x2101 r.val (2 * r.val)).settleStops) ∧
  (∀ r s, s.rState (Fin.val r) ≠ 0 →
    Gives (.receiverWordLock r true) s (s.setLink r.val { s.link r.val with lockB := true })) ∧
  (∀ s, Gives .fallbackBlockFrame s ((s.links.map (·.1)).foldl (fun t r =>
    if (t.link r).blkLeft = 0 then t else
      t.setLink r { t.link r with blkLeft := (t.link r).blkLeft - 1, blkSent := true,
                                  txOff := (t.link r).txOff || (t.link r).blkLeft = 1 }) s))

/-- The commands of the cells run to their end (R400, R402, R405). CELL_APPLY: a valid command of one frame, good for the second time in a row and
without an error, is executed; no valid command for two frames blocks the cell with WDBLK. CELL_DIRECTION_LOSS marks the
lost direction. CELL_BLOCK blocks a cell that is not bypassed for good. -/
def Obligations.CellEventsComplete : Prop :=
  (∀ ring pos w s,
    let i := 384 * (Fin.val ring) + (Fin.val pos)
    let x := s.cellCtl i
    cmdValid x w = true → bit w 2 = false → (bit w 3 && bits w 8 8 = 0xB5) = false → (w % 4 = 1 ∨ w % 4 = 2) → x.sw ≠ 3 →
    x.wdblk = false → x.restart = false → x.ablk = false →
    Gives (.cellApply ring pos (some w) none false) s
      (s.setCellCtl i { x with cmddif := false, cmderr := false, cmda := true, cmdb := false, missed := 0, good := x.good + 1,
                               disch := bit w 4, pbyp := 0, sw := w % 4 })) ∧
  (∀ ring pos s,
    let i := 384 * (Fin.val ring) + (Fin.val pos)
    let x := s.cellCtl i
    1 ≤ x.missed → x.sw ≠ 3 →
    Gives (.cellApply ring pos none none false) s
      (s.setCellCtl i
        { x with cmddif := false, cmderr := false, cmda := false, cmdb := false, missed := x.missed + 1, good := 0, pbyp := 0,
                 sw := 0, wdblk := true })) ∧
  (∀ ring pos s,
    let i := 384 * (Fin.val ring) + (Fin.val pos)
    Gives (.cellDirectionLoss ring pos true) s (s.setCellCtl i { s.cellCtl i with lostB := true })) ∧
  (∀ ring pos s,
    let i := 384 * (Fin.val ring) + (Fin.val pos)
    (s.cellCtl i).sw ≠ 3 → Gives (.cellBlock ring pos) s (s.setCellCtl i { s.cellCtl i with sw := 0, ablk := true }))
/-- The commands of the converters run to their end (R437, R438), each in its state: CHARGE to BALANCE, the main contactor, READY, FAULT on a
failed pre-charge, and from SHUTDOWN over DISCHARGE to OFF. -/
def Obligations.ConverterEventsComplete : Prop :=
  (∀ c s, s.cvState (Fin.val c) = 1 → (s.convVdc c.val).lt ((s.f CONV.PCHV c.val).mul (s.f CONV.VDCNOM c.val)) = false →
    s.rState (s.n CONV.RING c.val) = 4 → (s.n CONV.NREQ c.val ≤ s.nMin c.val ∨ s.b CONV.LIMP c.val = true) →
    Gives (.convChargeDone c) s (s.convTo c.val 2).settleStops) ∧
  (∀ c s, s.cvState (Fin.val c) = 2 → s.nPc c.val ≠ 0 → (s.convX c.val).mainWait = false →
    (∀ a ∈ s.convArms c.val, ∀ i ∈ s.availCells a, (s.f CELL.VCAP (64 * a + i)).lt
      ((s.f CONV.PCDONE c.val).mul ((s.convVdc c.val).div (F32.ofInt (2 * s.nPc c.val : Nat)))) = false) →
    Gives (.balanceDone c) s
      ((s.dioDrive (s.n CONV.MAINDIO c.val) true).setConvX c.val { s.convX c.val with mainWait := true }).settleStops) ∧
  (∀ c s, s.cvState (Fin.val c) = 2 → (s.convX c.val).mainWait = true →
    Gives (.mainContactDone c) s
      (((s.dioDrive (s.n CONV.PCHDIO c.val) false).setConvX c.val { s.convX c.val with mainWait := false }).convTo c.val
        3).settleStops) ∧
  (∀ c s, (s.cvState (Fin.val c) = 1 ∨ s.cvState c.val = 2) →
    Gives (.prechargeFail c) s ((s.convFaultRec 0x2307 c.val).convTo c.val 7).settleStops) ∧
  (∀ c s, s.cvState (Fin.val c) = 5 →
    Gives (.convShutdownDone c) s (s.convTo c.val (if s.b CONV.DISCHEN c.val then 6 else 0)).settleStops) ∧
  (∀ c s, s.cvState (Fin.val c) = 6 → s.discharged c.val = true →
    Gives (.convDischargeDone c false) s (s.convTo c.val 0).settleStops)

/-- The timers of loops, brakes, Give and pools run to their end (R203, R211, R233, R273, R274, R276, R296, R297, R306, R307): the freeze ends with its
fault, the tune with its cause, the brake is requested, the standstill current is reduced, a brake that stays applied
faults the axis, Give recovers, is armed again or faults, the member that has left is disabled, a torque that deviates faults its machine, and a feedback
hold ends in a category 0 stop. -/
def Obligations.DriveEventsComplete : Prop :=
  (∀ loop s, s.g LOOP.FREEZE (Fin.val loop) ≠ 0 →
    Gives (.freezeTimeout loop) s
      (((s.put LOOP.FREEZE loop.val 0).put LOOP.FRZACK loop.val 0).loopFault 0x4105 loop.val
        (s.axisOfLoop loop.val) 16)) ∧
  (∀ loop s, Gives (.autotuneTimeout loop) s (s.tuneAbort (Fin.val loop) 0x11)) ∧
  (∀ x s, s.b PROF.BRKAUTO (Fin.val x) = true → s.b AXIS.ENABLE x.val = true → s.atRest x.val = true → s.n GIVE.STATE x.val < 2 →
    Gives (.brakeApplyDelay x) s (s.brkReq x.val false)) ∧
  (∀ x s, s.holdOk (Fin.val x) = true → s.b PROF.HOLDACT x.val = false →
    Gives (.holdReduction x) s
      (((s.setAxisX x.val { s.axisX x.val with pH := s.g AXIS.POS x.val }).put PROF.HOLDACT x.val 1).profEvt x.val 10)) ∧
  (∀ x s, (s.gen (Fin.val x)).held = true →
    Gives (.brakeTimeout x) s
      ((((s.dropActive x.val).genFault 0x4408 x.val).flushQueue x.val fun _ => false).setState x.val 0).settleStops) ∧
  (∀ x s, s.n GIVE.STATE (Fin.val x) = 2 → s.giveTrigger x.val = false → (s.giveLoad x.val).lt (s.f GIVE.GLREL x.val) = true →
    let u := s.put GIVE.STATE x.val 3
    u.n AXIS.MODE x.val ≠ 3 →
    let v := u.setAxisX x.val { u.axisX x.val with recT := 0 }
    let w : State := { v with axstop := v.axstop.put {} x.val { v.axstop.find {} x.val with first := true } }
    Gives (.giveRecover x) s (w.motionReplan x.val)) ∧
  (∀ x s, s.n GIVE.STATE (Fin.val x) = 3 →
    Gives (.giveRecovered x) s ((s.put GIVE.STATE x.val 1).poolFault 0x5202 x.val x.val 20)) ∧
  (∀ x s, s.n GIVE.STATE (Fin.val x) = 2 → Gives (.giveTimeout x) s ((s.poolFault 0x5204 x.val x.val 20).axisFault x.val)) ∧
  (∀ m s, (s.machX (Fin.val m)).leave = true → (s.machX m.val).w.zero? = true → s.b MACH.ENABLE m.val = true →
    Gives (.memberDisable m) s ((s.machOff m.val).partDisable m.val).settleStops) ∧
  (∀ m s i, s.partOfMach (Fin.val m) = some i → (s.f MACH.PTDEV m.val).zero? = false → s.b MACH.ENABLE m.val = true →
    s.partDown i = false → (s.f MACH.PTDEV m.val).lt ((s.f PART.VALUE i).sub (s.partDemand i)).abs = true →
    s.n MACH.AXIS m.val < 16 →
    Gives (.poolTorqueDev m) s
      ((((s.poolFault 0x5103 m.val (s.n MACH.AXIS m.val) 6).machFault m.val 4).partDisable m.val).axisAllFaulted
        (s.n MACH.AXIS m.val)).settleStops) ∧
  (∀ x s, (s.axisX (Fin.val x)).fbHold = true →
    Gives (.feedbackHoldEnd x) s
      ((s.setAxisX x.val { s.axisX x.val with fbHold := false }).stopAxes (2 ^ x.val) 0 0x85).settleStops)

/-- The events of the stop system run to their end (R466, R467, R468, R470, R477, R478, R482): an axis at rest goes on to its brake, or holds under
category 2; the brake is set and power is removed; STOPT forces that; STOP_COMPLETE runs in every state: the stops that are done end, and
with a thermal one PERCH is requested; ride-through ends or fails; telemetry suppression ends. -/
def Obligations.StopEventsComplete : Prop :=
  (∀ x s, s.stopState (Fin.val x) = 1 → (s.axStop x.val).ref.zero? = true →
    (s.f PROF.STILLV x.val).lt (s.f AXIS.SPD x.val).abs = false → s.n STOP.CAT x.val = 2 →
    let v := if s.g AXIS.MODE x.val = 3 then s.putF LOOP.INTEG (loopOf x.val 0) F32.zero else s
    Gives (.stopRest x) s
      ((v.put STOP.STATE x.val 4).setAxisX x.val { v.axisX x.val with pHold := some (v.g AXIS.POS x.val), onVest := false
        }).settleStops) ∧
  (∀ x s, s.stopState (Fin.val x) = 1 → (s.axStop x.val).ref.zero? = true →
    (s.f PROF.STILLV x.val).lt (s.f AXIS.SPD x.val).abs = false → s.n STOP.CAT x.val ≠ 2 →
    Gives (.stopRest x) s ((s.brkReq x.val false).put STOP.STATE x.val 2).settleStops) ∧
  (∀ x s, s.stopState (Fin.val x) = 2 → s.n PROF.BRKIN x.val = 0xFFFF →
    Gives (.brakeSet x true) s (((s.dioDrive (s.n STOP.STOREQ x.val) true).powerOff x.val).stopRefresh).settleStops) ∧
  (∀ x s, (s.stopState (Fin.val x) = 1 ∨ s.stopState x.val = 2) → s.n STOP.CAT x.val = 1 →
    Gives (.stopTimeout x) s
      ((((s.alarm 0xC202 x.val [16 + x.val] 0 21).stopCause x.val 0 0x85).powerOff x.val).stopRefresh).settleStops) ∧
  (∀ s, Gives .stopComplete s
    (if s.stopComplete.pow.perchDue && !s.pow.perchDue then s.stopComplete.perchRetry else s.stopComplete)) ∧
  (∀ s, s.stopComplete.pow.perchDue = false → Gives .stopComplete s s.stopComplete) ∧
  (∀ s, s.stops = [] → Gives .supholdEnd s { s with supp := {} }) ∧
  (∀ x s, s.stopState (Fin.val x) = 8 →
    (s.axisVdc x.val).1.lt ((s.f STOP.RTVOFF x.val).mul (s.axisVdc x.val).2) = false →
    let u := (s.put STOP.STATE x.val 0).setAxStop x.val { (s.put STOP.STATE x.val 0).axStop x.val with first := true }
    let v := u.f AXIS.SPD x.val
    let p := u.g AXIS.POS x.val
    Gives (.ridethruEnd x) s
      ((if u.g AXIS.SPSRC x.val = 0 && !u.geared x.val then
          (u.setGen x.val { u.gen x.val with p := p, v := v, a := F32.zero, plan := none }).motionReplan x.val
        else u.setAxisX x.val { u.axisX x.val with setp := v, pset := p }).raise 47).settleStops) ∧
  (∀ x s, s.stopState (Fin.val x) = 8 →
    let u := (s.alarm 0xC402 x.val [47, 16 + x.val] 0 21).put STOP.STATE x.val 0
    Gives (.ridethruFail x) s (u.stopAxes (2 ^ x.val) (s.n STOP.RTSTOP x.val) 0x85).settleStops)

/-- The commands of temperature run to their end (R62, R478, R669, R670, R676): a sample below every threshold only shows; a step down
follows a cool second; the PERCH request of a thermal stop is repeated. -/
def Obligations.ThermalEventsComplete : Prop :=
  (∀ reading s, 6 ≤ s.up.phase → s.n POWER.PSTATE < 4 →
    let tj := reading.add (s.f ASSAY.TEMPOFF)
    let u := s.putF THERM.TJ 0 tj
    let v := if (u.f THERM.TJMAX).lt tj then u.putF THERM.TJMAX 0 tj else u
    (v.f THERM.TWARN).le tj = false → tj.le ((v.f THERM.TWARN).sub (F32.ofInt 5)) = true →
    let w : State := { v with pow := { v.pow with warned := false } }
    (w.thr 1).le tj = false → (w.thr 2).le tj = false → (w.thr 3).le tj = false → w.n POWER.SETPOINT ≠ 2 →
    tj.lt (F32.ofInt (w.g THERM.STOPTJ - 10)) = true →
    let x : State := { w with pow := { w.pow with below10 := min 10000 (w.pow.below10 + 1), cool := w.coolSamples tj } }
    Gives (.thermalSample reading) s (x.thermalStops tj).settleStops) ∧
  (∀ s, s.n THERM.STEP ≠ 0 → 10000 ≤ s.pow.cool.getD (s.n THERM.STEP - 1) 0 →
    Gives .throttleDown s (s.throttleTo (s.n THERM.STEP - 1))) ∧
  (∀ s, s.pow.perchDue = true → s.flight = true → s.pow.moving = false → s.powerBar 2 = none →
    Gives .perchRetry s (s.requestState 2))

/-- The commands of the engines run to their end (R91, R92, R94, R588). ENGINE_FAULT and TASK_OVERRUN: the cause, the alarm and the
notice, and the engine is isolated. ENGINE_TEST_START: the lowest isolated engine enters TESTING. ENGINE_TEST_DONE: it is
admitted again. -/
def Obligations.EngineEventsComplete : Prop :=
  (∀ e (why : EngineWhy) s, s.admitted (Fin.val e) = true → why.cause.val ≠ 0 →
    Gives (.engineFault e why) s
      (((((s.setEng e.val { s.eng e.val with lastFlt := why.cause.val }).alarm 0x4301 e.val [35] 0 0x1B).notice 0x08 0xFF e.val 0xF
        0x4301).isolate e.val (why.bad.map (·.val)))).settleStops) ∧
  (∀ task s, 2 ≤ (s.task (Fin.val task)).st → (s.task task.val).st ≤ 5 → (s.task task.val).engA < 8 →
    Gives (.taskOverrun task) s (s.engineFault (s.task task.val).engA 3).settleStops) ∧
  (∀ s e, s.g ASSAY.TESTING = 255 → s.g THERM.STEP < 1 → s.g POWER.PSTATE < 2 → s.inMothball = false →
    (s.ready = true ∨ s.up.testFirst = true) → (List.range 8).find? (fun e => (s.eng e).st = .isolated) = some e →
    Gives .engineTestStart s ((s.setEng e { s.eng e with st := .testing }).put ASSAY.TESTING 0 e).exRefresh) ∧
  (∀ ms s,
    let e := s.n ASSAY.TESTING
    e ≤ 7 → (s.eng e).st = .testing → s.ex.second.find? (fun p => p.1 = e) = none →
    let u := (s.put ASSAY.TESTING 0 255).putF ASSAY.TESTMS 0 ms
    let u : State := { u with stores := u.stores.filter fun q => q.1 / 131072 != e }
    let v := (u.setEng e { u.eng e with st := .admitted, tagFails := [] }).notice 0x0A 0xFF 0xF e
    let w : State := { v with ex := { v.ex with second := v.ex.second.filter (fun p => p.1 != e) } }
    Gives (.engineTestDone true ms) s w.toBalance.exRefresh)
/-- The commands of placement, supply and power run to their end (R59, R68, R592, R660, R663, R665, R666, R703). PLACED: the task is placed and
told. SETPOINT_MOVE_DONE and VENG_MISS end a supply move in its target or in NOMINAL. POWER_ENTRY: a requested HOVER is entered. WAKE
leads back from a rung below FLIGHT. WAKE_EXIT_DONE from HOVER or PERCH: FLIGHT, with its event and alarm. The counters are committed on their
schedule and on request. -/
def Obligations.PowerEventsComplete : Prop :=
  (∀ task s, (s.task (Fin.val task)).placing = true → s.ex.codeBad.contains (taskKind task.val) = false →
    let x := s.task task.val
    let o := s.taskOwner task.val
    let y : Task := { x with placing := false, run := o.2.1 = 5 && s.b AXIS.ENABLE o.2.2 }
    let u := (s.setTask task.val { y with st := s.runSt y }).notice 0x01 task.val 0xF x.engA
    Gives (.placed task) s (if u.ownerPlaced o.2.1 o.2.2 then u.put o.1 o.2.2 2 else u).toBalance.exRefresh) ∧
  (∀ s (t : Nat), s.pow.spTarget = some t →
    let u : State := { s with pow := { s.pow with spTarget := none, spFrom := t } }
    Gives .setpointMoveDone s ((u.put POWER.SPSTATE 0 t).vengNear (setpointMv t)).exRefresh) ∧
  (∀ s, s.pow.spTarget.isSome = true →
    let u : State := { s with pow := { s.pow with spTarget := none, spFrom := 0 } }
    Gives .vengMiss s (((((u.put POWER.SETPOINT 0 0).put POWER.SPSTATE 0 0).vidDrive 0).vengAny).alarm 0x9103 0 [48]).exRefresh) ∧
  (∀ s, s.pow.moving = true → s.pow.target = 1 → s.powerBar 1 = none →
    let a := s.commitCounters
    let b : State := { a with pow := { a.pow with moving := false, spTarget := none, spFrom := 0, perchDue := false } }
    let c := (b.put POWER.PSTATE 0 1).put POWER.SPSTATE 0 0
    Gives .powerEntry s (((c.vidDrive 0).vengNear 800).raise 48).exRefresh) ∧
  (∀ src s, bit (s.n POWER.WAKEEN) (wakeBit src) = true → s.ready = true → s.wakeOk src (s.n POWER.PSTATE) = true →
    s.pow.exiting = false → s.pow.moving = false → 1 ≤ s.n POWER.PSTATE → s.n POWER.PSTATE ≤ 4 →
    Gives (.wake src) s (s.beginExit (wakeBit src + 1))) ∧
  (∀ crcOk ms s, s.pow.exiting = true → s.n POWER.PSTATE ≤ 3 → s.pow.lateTrip = false → s.pow.lateStop = false →
    let a : State := { s.put POWER.PSTATE 0 0 with pow := { s.pow with exiting := false } }
    let b := ((a.raise 49).alarm 0x9201 0 [48] (256 * a.n POWER.WAKECAUSE)).setpointBack.flightBack (s.n POWER.PSTATE)
    Gives (.wakeExitDone crcOk ms) s { b.exRefresh with pow := { b.exRefresh.pow with lateTrip := false, lateStop := false } }) ∧
  (∀ s, s.ready = true → s.flight = true → Gives .counterCommit s s.commitCounters) ∧
  (∀ s, s.commitDue = true → Gives .reserveCommitDone s ({ s with commitDue := false }.commitCounters.raise 48)) ∧
  (∀ s, s.tb.refok = false → s.up.phase = 7 → s.tb.ovrd = false →
    Gives .wbcountInternalAdvance s ((s.elapse s.twNs).incWrap SYS.WBCOUNT))

/-- The commands of keys and of the debug port run to their end (R615, R628, R629). OTP_BURN_VERIFIED: the verified field is burnt and
shows. DEBUG_UNLOCK: a valid signature over the debug nonce unlocks, and a bad one counts. DEBUG_ACCESS: an instruction
is loaded where the life cycle has it; in SERVICE the nonce is drawn and read; a halt holds the Teller cores where
the port is open to the secure world. -/
def Obligations.KeyAndDebugEventsComplete : Prop :=
  (∀ s k w, s.sec.burning = some (k, w) →
    let u : State := { s with sec := { s.sec with burning := none } }
    let v : State := { u with otp := burnField u.otp k w }
    Gives (.otpBurnVerified true) s v.otpShow) ∧
  (∀ sig s, s.life = 3 → s.ready = true →
    let n := (s.nonceOf 6).getD (2 ^ 128)
    let a := s.authorise 6 n (authHead n ++ [0x44, 0x42, 0x47]) (s.otpKey 4) sig true
    let u : State := { a.2 with sec := { a.2.sec with debug := true } }
    Gives (.debugUnlock sig) s
      (if a.1 then u.alarm 0xA601 noInst [61] 0 0x20
        else { a.2 with sec := { a.2.sec with dbgFail := a.2.sec.dbgFail + 1 } })) ∧
  (∀ i s, Gives (.debugAccess (.load i)) s { s with sec := { s.sec with dbgIr := s.jtagDecode i } }) ∧
  (∀ s, s.life = 3 → 4 ≤ s.up.phase →
    let d := s.drawNonce 6
    Gives (.debugAccess .readNonce) s (d.2.dbgData d.1)) ∧
  (∀ on s, s.dbgWorld = some true → Gives (.debugAccess (.halt on)) s { s with sec := { s.sec with dbgHalt := on } }) ∧
  (∀ c a v s w, s.dbgWorld = some w → (w = true ∨ s.ramSecure c (a % ramSize c) = false) →
    Gives (.debugAccess (.writeRam c a v)) s (s.ramPut c (a % ramSize c) (BitVec.ofNat 8 v))) ∧
  (∀ c a s w, s.dbgWorld = some w → (w = true ∨ s.ramSecure c (a % ramSize c) = false) →
    Gives (.debugAccess (.readRam c a)) s (s.dbgData (s.ramByte c (a % ramSize c)).toNat)) ∧
  (∀ a s w, s.dbgWorld = some w → Gives (.debugAccess (.readReg a)) s (s.dbgRead w a)) ∧
  (∀ a v s w, s.dbgWorld = some w → Gives (.debugAccess (.writeReg a v)) s (s.dbgWrite w a v))

/-- The commands of the background services run to their end (R138, R328, R585, R587, R595, R596, R601). AUDIT_SCRUB counts a pass
or a corrected tile or word. LEDGER_WRITE writes the oldest staged record, SEAL the two SEAL records over the chain. TDEC_HALVING halves
a stream's TDEC, COMPARE_PULSE_END ends the pulse, CAL_STALE warns once, DIODE_CALIBRATION corrects, TABCRC_CHECK checks every host table in use. -/
def Obligations.ServiceEventsComplete : Prop :=
  (∀ s, s.n THERM.STEP = 0 → s.ready = true → s.n POWER.PSTATE ≤ 2 →
    Gives (.auditScrub (.clean true)) s (s.incWrap AUDIT.PASSES).settleStops ∧
    (∀ k, s.ringOf (256 * Fin.val k) = none →
      Gives (.auditScrub (.freeTile k)) s ((s.setBytes (256 * k.val) (zeros 256)).inc AUDIT.FREEFIX).settleStops) ∧
    Gives (.auditScrub (.sramWord true)) s (s.inc AUDIT.SRAMCOR).settleStops ∧
    ∀ k, Gives (.auditScrub (.mramWord k true)) s ((s.inc AUDIT.MRAMCOR).mramWrite (Fin.val k)).settleStops) ∧
  (∀ s r l, s.ledg.staged = r :: l → s.ledg.lostNow = 0 →
    let u : State := { s with ledg := { s.ledg with staged := l, unsealed := s.ledg.unsealed + 1 } }
    (u.ledgerPut r).ledg.lostNow = 0 →
    Gives .ledgerWrite s (u.ledgerPut r)) ∧
  (∀ s, s.ledg.unsealed ≠ 0 → s.hasSealKey = true →
    let bytes := (le 64 (Config.ecdsaSign s.otp.ds
      (Config.sha256 (le 8 Config.uid.toNat ++ le 8 s.mram.next ++ le 32 s.mram.chain.toNat)))).reverse
    let boot := (s.bk.regs.find 0 29).toNat % 65536
    let p : LRec := { boot := boot, code := 0xF0F1, inst := 0xFFFF, wb := s.wb, wblast := s.wb, detail := 0, data := slice 0 36 bytes }
    let u := s.ledgerPut p
    let q : LRec := { boot := boot, code := 0xF0F2, inst := 0xFFFF, wb := s.wb, wblast := s.wb, detail := 0, data := slice 36 28 bytes }
    let v := u.ledgerPut q
    Gives .seal s { v with ledg := { v.ledg with unsealed := 0 } }) ∧
  (∀ k s,
    (s.telem.last.find 0 (Fin.val k) = 0 ∨ s.telem.last.find 0 k.val + 400000000 ≤ s.cycleOf + 1) →
    let low := if s.g THERM.STEP ≥ 2 then s.n THERM.THRTDEC else 1
    let u := s.put LEDGER.TDEC 0 (max low (s.n LEDGER.TDEC 0 (Fin.val k) / 2)) k.val
    Gives (.tdecHalving k) s { u with telem := { u.telem with last := u.telem.last.put 0 k.val (u.cycleOf + 1) } }) ∧
  (∀ c s, (s.cmpX (Fin.val c)).pulse = true →
    let u : State := { s with dioOut := s.dioOut.put false (s.n CMPU.OUTDIO c.val) false }
    Gives (.comparePulseEnd c) s (u.setCmpX c.val { u.cmpX c.val with pulse := false })) ∧
  (∀ which s, s.stale.contains (Fin.val which) = false → s.ready = true →
    s.n ASSAY.CALMAX * 1000000000 <
      (if which.val = 0 then s.tb.tapAge else if which.val = 1 then s.tb.sarAge else s.tb.tempAge) →
    let u : State := { s with stale := s.stale ++ [which.val] }
    Gives (.calStale which) s
      (if which.val = 2 then u.alarm 0x8101 0 [39] 0 0x1D else u.alarm 0x7501 which.val [38] 0 0x1D)) ∧
  (∀ corr s, 6 ≤ s.up.phase → s.g THERM.STEP < 1 → s.g POWER.PSTATE < 3 → (corr.abs).le (F32.ofInt 5) = true →
    let u := (s.putF ASSAY.TEMPOFF 0 corr).putF ASSAY.TEMPAGE 0 F32.zero
    let v : State := { u with
      pow := { u.pow with diodeCal := true }, tb := { u.tb with tempAge := 0 }, stale := u.stale.filter (· != 2),
      mram := { u.mram with tempOff := corr.toBits } }
    Gives (.diodeCalibration corr) s (v.mramWrite 704)) ∧
  (∀ bad s, Gives (.tabcrcCheck bad) s ((List.range 5).foldl (fun t p =>
    if (t.usingPattern p).isEmpty then t else t.checkTable p (bit bad p)) s))

/-- A step takes the command that has waited longest and is `exec` of it on the state with the rest of the queue; with nothing
waiting the block idles, which is the model's choice (log 1). -/
def Obligations.StepTakesTheFrontCommand : Prop :=
  (∀ c rest (s : State), step { s with pending := c :: rest } = exec c { s with pending := rest }) ∧
  (∀ (s : State), s.pending = [] → step s = .next s)

/-- No command changes the queue of waiting commands: what waits behind it waits after it, in the same order. -/
def Obligations.CommandsLeaveTheQueue : Prop :=
  ∀ c s t, Sound s → Gives c s t → t.pending = s.pending

/-- What the state after reset holds: start-up in P0 after a power-on reset, STO active, every switch off, every ring disabled, no event
pending, no routed event, the world map as R608 has it for an unprogrammed option, the setpoint NOMINAL and duty PAIRED (R3, R59, R448, R507,
R508, R608, R641). -/
def Obligations.ResetStateHolds : Prop :=
  State.reset.up.phase = 0 ∧ State.reset.sto.act = true ∧ State.reset.evPend = 0 ∧ (∀ k, State.reset.routes.find 0 k = 0) ∧ State.reset.sec.blkmap = 0xF1000000 ∧
  State.reset.g POWER.SETPOINT = 0 ∧ State.reset.g POWER.PSTATE = 0 ∧ State.reset.n PROFILE.DUTY = 0 ∧
  (∀ l, (State.reset.leg l).hi.cmd = false ∧ (State.reset.leg l).lo.cmd = false) ∧
  (∀ n, (State.reset.ring n).en = false) ∧ (∀ i, State.reset.stState i = 0) ∧ State.reset.tb.refok = false ∧
  (∀ a, State.reset.tile.find 0 a = 0) ∧ (∀ x, State.reset.g AXIS.ENABLE x = 0) ∧ State.reset.pending = []

/-- The state after reset is sound. -/
def Obligations.ResetStateIsSound : Prop := Sound State.reset

/-- Every step of a sound state that answers a next state answers a sound one: the interlock of R347 among its parts. -/
def Obligations.EveryStepKeepsSoundness : Prop :=
  ∀ s t, Sound s → step s = .next t → Sound t

/-- What no step undoes: no burnt fuse is lost (R614), the number of the next Ledger record does not fall (R593), and neither does the count of the draws
from the entropy source. -/
def Obligations.NoStepUndoesFuses : Prop :=
  ∀ s t, Sound s → step s = .next t → fusesKept s.otp t.otp ∧ s.mram.next ≤ t.mram.next ∧ s.sec.drawn ≤ t.sec.drawn

/-- An object address names at most one member (R12, R524, R525): what `lookup` finds is a row of the address's class, its instance and
element lie in the row, and the address is theirs; and every element of every row is found at its address, but for the instances 22 to 31
of class 21, which R524 does not give. -/
def Obligations.AddressesNameOneMember : Prop :=
  (∀ a m i x, a < 2 ^ 32 → State.lookup a = some (m, i, x) →
    m ∈ classRows (a / 16777216) ∧ i < m.n ∧ x < m.cnt ∧ a = m.key i x) ∧
  (∀ c m i x, m ∈ classRows c → i < m.n → x < m.cnt → ¬ (m.cls = 21 ∧ 22 ≤ m.lo + i ∧ m.lo + i < 32) →
    State.lookup (m.key i x) = some (m, i, x))

/-- R517, for the reads and writes of members: a request is handled in the secure world exactly when its SEC bit is 1 and its ring has
WORLD = 1, and with SEC = 0 in the open world whatever the WORLD; one with SEC = 1 in a ring with WORLD = 0 is answered DENIED_WORLD. -/
def Obligations.WorldOfARequest : Prop :=
  (∀ rq s, secured s rq = true ↔ rq.sec = true ∧ ((taken s rq).ring (Fin.val rq.ring)).world = true) ∧
  (∀ rq addr s m i x, runs s rq { code := 0x100, life := readLife } = true → (taken s rq).resolve addr = some (m, i, x) →
    (taken s rq).blockSecure (blockOf m i) = true →
    Gives (.objRead rq addr) s
      (if secured s rq = true then
        answered s (taken s rq) rq 0x100 addr .ok
          ([BitVec.ofNat 8 m.ty.code, 0] ++ valBytes m.ty ((taken s rq).readMem m i x))
      else answered s (taken s rq) rq 0x100 addr .deniedWorld [])) ∧
  (∀ rq s, s.takes rq = true → rq.ring.val ≠ 0 →
    let z := taken s rq
    rq.sec = true → (z.ring rq.ring.val).world = false →
    (∀ d ∈ z.defers, ¬ (d.rq.ring = rq.ring ∧ d.rq.seq = rq.seq ∧ d.rq.crc = rq.crc)) →
    (∀ d ∈ z.dups.find [] rq.ring.val, ¬ (d.seq = rq.seq ∧ d.crc = rq.crc)) →
    (∀ addr, Gives (.objRead rq addr) s (answered s z rq 0x100 addr .deniedWorld [])) ∧
    (∀ q, (tyOf (PsetItem.ty q)).isSome = true →
      Gives (.objWrite rq q) s (answered s z rq 0x101 q.addr .deniedWorld []).settleStops))

/-- A repeated request is not run again (R518): where its SEQ, OPCODE and CRC equal those of a remembered one, the remembered response
enters the response ring with DUP set and nothing else follows; a repeat of a deferred request is dropped. -/
def Obligations.RepeatedWriteIsNotRun : Prop :=
  (∀ rq q s d, s.takes rq = true → Fin.val rq.ring ≠ 0 → (tyOf (PsetItem.ty q)).isSome = true →
    let z := taken s rq
    (z.defers.any fun e => e.rq.ring == rq.ring && e.rq.seq == rq.seq && e.opcode == 0x101 && e.rq.crc == rq.crc) = false →
    ((z.dups.find [] rq.ring.val).find? fun e => e.seq == rq.seq && e.opcode == 0x101 && e.crc == rq.crc) = some d →
    Gives (.objWrite rq q) s (z.respond rq (dupFrame d.resp)).settleStops) ∧
  (∀ rq q s, s.takes rq = true → Fin.val rq.ring ≠ 0 → (tyOf (PsetItem.ty q)).isSome = true →
    let z := taken s rq
    (z.defers.any fun e => e.rq.ring == rq.ring && e.rq.seq == rq.seq && e.opcode == 0x101 && e.rq.crc == rq.crc) = true →
    Gives (.objWrite rq q) s z.settleStops)

/-- R616: a secure-world write of DSGEN = 1 in MINT draws 32 bytes from the entropy source and burns them into DS; it returns BAD_VALUE when DS is
already programmed, and DENIED_LIFECYCLE in any other state. -/
def Obligations.DeviceSecretGeneration : Prop :=
  (∀ w s, writes s w SEC.DSGEN 1 = true →
    let z := taken s w.rq
    z.life = 1 → z.otp.ds = 0 →
    let u : State := { z with
      sec := { z.sec with drawn := z.sec.drawn + 1 }, otp := { z.otp with ds := (Config.entropy z.sec.drawn).toNat } }
    Gives (.dsgen w) s (written s u.otpShow w SEC.DSGEN .ok)) ∧
  (∀ w s, writes s w SEC.DSGEN 1 = true → (taken s w.rq).life = 1 → (taken s w.rq).otp.ds ≠ 0 →
    Gives (.dsgen w) s (written s (taken s w.rq) w SEC.DSGEN .badValue)) ∧
  (∀ w s, writes s w SEC.DSGEN 1 = true → (taken s w.rq).life ≠ 1 →
    Gives (.dsgen w) s (written s (taken s w.rq) w SEC.DSGEN .deniedLifecycle)) ∧
  (∀ w s, writes s w SEC.DSGEN 1 = true → secured s w.rq = true) ∧
  (∀ w s, s.takes w.rq = true → (tyOf w.ty).isSome = true → Fin.val w.rq.ring ≠ 0 → secured s w.rq = true →
    let z := taken s w.rq
    z.life = 4 ∨ z.life = 5 →
    (∀ d ∈ z.defers, ¬ (d.rq.ring = w.rq.ring ∧ d.rq.seq = w.rq.seq ∧ d.rq.crc = w.rq.crc)) →
    (∀ d ∈ z.dups.find [] w.rq.ring.val, ¬ (d.seq = w.rq.seq ∧ d.crc = w.rq.crc)) →
    Gives (.dsgen w) s (written s z w SEC.DSGEN .deniedLifecycle))

/-- R156: TRIPHI, TRIPLO, TRIPIN, TRIPCNT, LOSSTRIP and MT take a write only from the secure world: an open-world write returns DENIED_WORLD, and the value
is left unchanged. -/
def Obligations.SigmaDeltaTripMembersAreSecure : Prop :=
  ∀ rq q s m i, m ∈ [SD.TRIPHI, SD.TRIPLO, SD.TRIPIN, SD.TRIPCNT, SD.LOSSTRIP, SD.MT] → i < 48 → PsetItem.addr q = m.key i →
    (tyOf q.ty).isSome = true → runs s rq { code := 0x101, life := s.objLife rq [q.addr] } = true → secured s rq = false →
    let t := answered s (taken s rq) rq 0x101 q.addr .deniedWorld []
    Gives (.objWrite rq q) s t.settleStops ∧ t.g m i = s.g m i

/-- R309: GDIR, GTMAX, GTPAY, GPAYV, GPMAX and GMAXT take a write only from the secure world, and an open-world write returns DENIED_WORLD; a write to a GIVE
member while STATE is ACTIVE or RECOVER returns BUSY. -/
def Obligations.GiveMembersAreProtected : Prop :=
  (∀ rq q s m i, m ∈ [GIVE.GDIR, GIVE.GTMAX, GIVE.GTPAY, GIVE.GPAYV, GIVE.GPMAX, GIVE.GMAXT] → i < 16 →
    PsetItem.addr q = m.key i → (tyOf q.ty).isSome = true →
    runs s rq { code := 0x101, life := s.objLife rq [q.addr] } = true → secured s rq = false →
    Gives (.objWrite rq q) s (answered s (taken s rq) rq 0x101 q.addr .deniedWorld []).settleStops) ∧
  (∀ rq q s m i, m ∈ GIVE.rows → (tyOf (PsetItem.ty q)).isSome = true →
    runs s rq { code := 0x101, life := s.objLife rq [q.addr] } = true →
    let z := taken s rq
    (match z.writeBar (secured s rq) q.addr q.ty q.v with | .ok r => r = (m, i, 0) | .error _ => False) →
    (z.g GIVE.STATE i = 1 ∨ z.g GIVE.STATE i = 2) → z.tb.ovrd = false → z.g POWER.PSTATE = 0 →
    Gives (.objWrite rq q) s (answered s z rq 0x101 q.addr .busy []).settleStops)

/-- What GATE_EDGE may do (R347): a switch that it leaves commanded on was so before, or its request is on, the other switch has been
commanded off for at least DEADT and neither is commanded nor acknowledged on, and nothing holds the leg off; the other switch of the leg,
every other leg, the ring area, the rings and the events are as before. -/
def Obligations.GateEdgeObeysTheInterlock : Prop :=
  ∀ leg low off s t, Gives (.gateEdge leg low off) s t →
    let l := Fin.val leg
    let u := s.atOff off
    let o := (s.leg l).sw (!low)
    (((t.leg l).sw low).cmd = true → ((s.leg l).sw low).cmd = true ∨
      (u.request l low = true ∧ o.cmd = false ∧ o.offAt + u.deadT l ≤ u.vnow ∧ o.ga = false ∧ u.heldOff l = false)) ∧
    (t.leg l).sw (!low) = o ∧ (∀ k, k ≠ l → t.leg k = s.leg k) ∧ t.tile = s.tile ∧ t.rings = s.rings ∧
    t.evPend = s.evPend ∧ t.stages = s.stages ∧ t.otp = s.otp ∧ t.sto = s.sto

/-- A result older than the value that stands at its output is discarded and does not overwrite it (R47), at its handover as at its deadline: the
output keeps its value and its sample instant, and only the result goes; at its deadline it also counts as late. -/
def Obligations.OlderResultIsDiscarded : Prop :=
  (∀ task half off s k d, s.outKey (Fin.val task) = some k → (s.outSt k).due.find? (·.half = half) = some d →
    let z := s.rewriteHome task.val
    d.out.isEmpty = false → s.dueLate d = false → d.out.all F32.finite? = true → z.outBlocked k = false →
    d.seq < (z.outSt k).seq → Gives (.resultHandover task half off {}) s (z.dropDue k d.seq).settleStops) ∧
  (∀ task half s k d, s.outKey (Fin.val task) = some k → (s.outSt k).due.find? (·.half = half) = some d →
    (s.dropDue k d.seq).outBlocked k = false → d.seq < (s.outSt k).seq →
    Gives (.deadline task half) s ((s.dropDue k d.seq).lateCount k false).settleStops) ∧
  (∀ (s : State) k q, ((s.dropDue k q).outSt k) = { s.outSt k with due := (s.outSt k).due.filter (·.seq != q) })

/-- LEDGER_WRITE numbers and chains its record (R593, R596): the oldest staged record takes the next record number, the chain becomes the
digest of the chain before it and the record's 64 bytes, and the record is found under its number. -/
def Obligations.LedgerWriteNumbersAndChains : Prop :=
  ∀ s t r l, s.ledg.staged = r :: l → s.mram.first ≤ s.mram.next → Gives .ledgerWrite s t →
    t.mram.next = s.mram.next + 1 ∧
    t.mram.chain = Config.sha256 (le 32 s.mram.chain.toNat ++ r.bytes s.mram.next) ∧
    t.mram.ledger.find (0, { code := 0, inst := 0, wb := 0, detail := 0, wblast := 0 }) s.mram.next = (s.mram.next, { r with since := 0 })

/-- What a read leaves unchanged: NOP, IDENT, STATUS, OBJ_READ, OBJ_READ_MULTI, BLOCK_READ and DICT_READ change nothing but the counters of bad frames and
of lost responses, the rings and the memory of requests of their window, the window served last, the pending events, and the bytes of the entry at the HEAD of the
response ring. -/
def Obligations.ReadsChangeNoMember : Prop :=
  ∀ c rq s t, Gives c s t →
    ((∃ p, c = .nop rq p) ∨ c = .ident rq ∨ c = .status rq ∨ (∃ a, c = .objRead rq a) ∨ (∃ l, c = .objReadMulti rq l) ∨
      (∃ a n, c = .blockRead rq a n) ∨ (∃ a n, c = .dictRead rq a n)) →
    let z := taken s rq
    let e := z.ring (5 + z.portOf rq)
    let a := e.entry e.head
    { t with objs := s.objs, tile := s.tile, rings := s.rings, dups := s.dups, evPend := s.evPend, evSeen := s.evSeen, served := s.served } = s ∧
    (∀ m i x, Mem.key m i x ≠ SYS.BADFRM.key 0 → m.key i x ≠ HRING.LOST.key (5 + z.portOf rq) → t.g m i x = s.g m i x) ∧
    (∀ b, b < a ∨ a + e.esz * 16 ≤ b → t.tile.find 0 b = s.tile.find 0 b)

/-- R608: bit b of the block map assigns block b to the secure world, so that an open-world read of a member of the block is refused; the bits 24 and
28 to 31 are 1 after every step that starts from a sound state; every other bit resets from the OTP option, and with the option unprogrammed
the register resets to 0xF1000000. -/
def Obligations.BlockMapAssignsWorlds : Prop :=
  (∀ (s : State) addr m i x, s.resolve addr = some (m, i, x) →
    (s.sec.blkmap.getLsbD (blockOf m i) = true → (match s.readMember false addr with | .error e => e = .deniedWorld | .ok _ => False)) ∧
    (s.sec.blkmap.getLsbD (blockOf m i) = false → s.readMember false addr = .ok (m.ty, s.readMem m i x))) ∧
  (∀ s t b, Sound s → step s = .next t → b ∈ [24, 28, 29, 30, 31] → t.sec.blkmap.getLsbD b = true) ∧
  (∀ a b o l k s t, s.up.phase = 3 → s.up.stretch = false → Gives (.optionsLoaded a b o l k) s t → t.up.optfail = false →
    ∀ j, j < 32 → t.sec.blkmap.getLsbD j = (decide (j ∈ [24, 28, 29, 30, 31]) || (s.otp.opt.find 0 2).getLsbD j)) ∧
  (∀ a b o l k s t, s.up.phase = 3 → s.up.stretch = false → Gives (.optionsLoaded a b o l k) s t → s.otp.opt.find 0 2 = 0 →
    t.sec.blkmap = 0xF1000000)

/-- R488: the members of STOP[64]. -/
def Obligations.DeviceStopMembers : Prop :=
  (STOPDEV.SUPHOLD.ty = .u32 ∧ STOPDEV.SUPHOLD.acc = .rw ∧ STOPDEV.SUPHOLD.dfltAt 0 0 = 1000 ∧
    ∀ s v, State.rangeOk s STOPDEV.SUPHOLD 0 v = true ↔ 0 ≤ v ∧ v ≤ 60000) ∧
  (STOPDEV.SUPCNT.ty = .u32 ∧ STOPDEV.SUPCNT.acc = .rw ∧ (∀ s v, State.rangeOk s STOPDEV.SUPCNT 0 v = true ↔ v = 0) ∧
    ∀ s, (State.inc s STOPDEV.SUPCNT).g STOPDEV.SUPCNT = min (s.g STOPDEV.SUPCNT + 1) (2 ^ 32 - 1)) ∧
  (STOPDEV.DONEGEN.ty = .u32 ∧ STOPDEV.DONEGEN.acc = .ro ∧
    ∀ s, (State.incWrap s STOPDEV.DONEGEN).g STOPDEV.DONEGEN = (s.g STOPDEV.DONEGEN + 1) % 2 ^ 32) ∧
  (STOPDEV.ACTIVE.ty = .u16 ∧ STOPDEV.ACTIVE.acc = .ro) ∧
  (STOPDEV.TCLEAR.ty = .u8 ∧ STOPDEV.TCLEAR.acc = .wo)
end

