-- ==== Sys2Proof/Laws/Answer.lean ====
section
/-! SUPPORT. How a request that runs is answered: once for every opcode, and once for every write of a member that has
a row of its own. -/
namespace Sys2Proof.Laws
open Machine Machine.State Claim

/-- A request that runs is handed to its opcode's work. -/
theorem handle_runs {s : State} {rq : Rq} {o : OpRule} {addr : Nat} {lenOk : Bool} {run : Bool → State → Reply × State}
    (h : runs s rq o = true) (hl : lenOk = true) :
    s.handle rq o addr lenOk run = (taken s rq).runOp rq o addr run ∧ (taken s rq).opBar rq o = none := by
  unfold runs at h
  simp only [Bool.and_eq_true, Bool.or_eq_true, Option.isNone_iff_eq_none] at h
  obtain ⟨⟨⟨ht, hw⟩, hb⟩, hd⟩ := h
  refine ⟨?_, hb⟩
  unfold handle
  simp only [ht, Bool.not_true, Bool.false_eq_true, if_false, hl, Bool.false_or]
  by_cases e : rq.ring.val = 0
  · simp only [e, if_true] at hw ⊢
    simp only [hw, Bool.not_true, Bool.false_eq_true, if_false, taken, e]
  · simp only [e, if_false] at hw ⊢
    simp only [hw, Bool.not_true, Bool.false_eq_true, if_false]
    rcases hd with hd | ⟨h1, h2⟩
    · simp [e] at hd
    · unfold taken at h1 h2 ⊢
      simp only [Bool.not_eq_true'] at h1
      rw [h1, h2]
      rfl

/-- A request that runs and is not deferred is answered with what its work replies. -/
theorem handle_answers {s t : State} {rq : Rq} {o : OpRule} {addr : Nat} {lenOk : Bool} {run : Bool → State → Reply × State}
    {r : Reply} (h : runs s rq o = true) (hl : lenOk = true) (hr : run (secured s rq) (taken s rq) = (r, t))
    (hd : r.defer = none) (hf : r.st ≠ .faultActive) :
    s.handle rq o addr lenOk run = answered s t rq o.code (r.addr.getD addr) r.st r.data := by
  obtain ⟨e, hb⟩ := handle_runs (addr := addr) (run := run) h hl
  rw [e]
  unfold runOp answered
  unfold secured at hr
  simp only [hb, hr, hd, hf, decide_false, Bool.false_and, Bool.false_eq_true, if_false]

/-- A request that runs and is deferred waits, with its reply known unless a cell's answers it. -/
theorem handle_defers {s t : State} {rq : Rq} {o : OpRule} {addr : Nat} {lenOk : Bool} {run : Bool → State → Reply × State}
    {r : Reply} {k : DeferKind} (h : runs s rq o = true) (hl : lenOk = true)
    (hr : run (secured s rq) (taken s rq) = (r, t)) (hd : r.defer = some k) (hf : r.st ≠ .faultActive)
    (hp : defersRoom s rq = true) :
    s.handle rq o addr lenOk run = deferred s t rq o.code addr k
      (match k with | .cellSvc _ => none | _ => some (r.st.code, r.addr.getD addr, r.data)) := by
  obtain ⟨e, hb⟩ := handle_runs (addr := addr) (run := run) h hl
  rw [e]
  unfold runOp deferred
  unfold secured at hr
  have hn : ¬ 4 ≤ (taken s rq).openDefers ((taken s rq).portOf rq) := by
    have := of_decide_eq_true hp; omega
  simp only [hb, hr, hd, hf, decide_false, Bool.false_and, Bool.false_eq_true, if_false, if_neg hn]
  cases k <;> rfl

/-- A write of a member that has a row of its own does what the member's chapter says, and is answered with its
status. -/
theorem row_writes {s t : State} {w : Wq} {m : Mem} {v : Int} {st : Status} (h : writes s w m v = true)
    (hr : (taken s w.rq).memberOp m w.inst 0 v = some (st, t)) (hf : st ≠ .faultActive) :
    s.rowWrite w m v = written s t w m st := by
  unfold writes at h
  simp only [Bool.and_eq_true, Bool.not_eq_true'] at h
  obtain ⟨⟨⟨⟨h1, h2⟩, h3⟩, h4⟩, h5⟩ := h
  unfold rowWrite objWrite written
  have hw : (taken s w.rq).writeBar (secured s w.rq) (rowAddr m w.inst) w.ty v = .ok (m, w.inst, 0) := by
    unfold secured
    split at h3
    · rename_i e; rw [e, of_decide_eq_true h3]
    · cases h3
  have ha : (taken s w.rq).writeItem (secured s w.rq) { addr := rowAddr m w.inst, ty := w.ty, v := v } = (st, t) := by
    unfold writeItem writeMember
    rw [hw]
    show (taken s w.rq).applyWrite _ m w.inst 0 v = _
    unfold applyWrite
    rw [h4, h5, hr]
    rfl
  have := handle_answers (addr := rowAddr m w.inst) (lenOk := (tyOf w.ty).isSome) (o := { code := 0x101, life := s.objLife w.rq [rowAddr m w.inst] })
    (run := fun sec s => let (st, t) := s.writeItem sec { addr := rowAddr m w.inst, ty := w.ty, v := v }
      ({ st := st, fcode := s.faultAt (rowAddr m w.inst) }, t)) (t := t)
    (r := { st := st, fcode := (taken s w.rq).faultAt (rowAddr m w.inst) }) h1 h2 (by simp only [ha]) rfl hf
  exact this

end Sys2Proof.Laws
end

