-- ==== Sys2Proof/Laws/Table.lean ====
section
/-! SUPPORT. Laws of the sparse tables: reading after a write, and the canonical form that writes keep. -/
namespace Sys2Proof.Laws
open Machine
variable {α : Type}

theorem find_del_self (d : α) (t : Tbl α) (k : Nat) : (t.del k).find d k = d := by
  induction t with
  | nil => rfl
  | cons e t ih =>
    obtain ⟨j, a⟩ := e
    unfold Tbl.del
    split
    · exact ih
    · simp_all [Tbl.find]

theorem find_del_ne (d : α) (t : Tbl α) {j k : Nat} (h : j ≠ k) : (t.del k).find d j = t.find d j := by
  induction t with
  | nil => rfl
  | cons e t ih =>
    obtain ⟨i, a⟩ := e
    unfold Tbl.del
    split
    · rename_i hi
      subst hi
      rw [ih, Tbl.find, if_neg (Ne.symm h)]
    · simp only [Tbl.find, ih]

theorem find_ins_ne (d : α) (t : Tbl α) {j k : Nat} (a : α) (h : j ≠ k) : (t.ins k a).find d j = t.find d j := by
  induction t with
  | nil => simp [Tbl.ins, Tbl.find, Ne.symm h]
  | cons e t ih =>
    obtain ⟨i, b⟩ := e
    unfold Tbl.ins
    split
    · simp [Tbl.find, Ne.symm h]
    · simp only [Tbl.find, ih]

theorem find_ins_self (d : α) (t : Tbl α) (k : Nat) (a : α) (h : ∀ e ∈ t, e.1 ≠ k) : (t.ins k a).find d k = a := by
  induction t with
  | nil => simp [Tbl.ins, Tbl.find]
  | cons e t ih =>
    obtain ⟨i, b⟩ := e
    have hi : i ≠ k := h (i, b) (by simp)
    have ht : ∀ e ∈ t, e.1 ≠ k := fun e he => h e (by simp [he])
    unfold Tbl.ins
    split
    · simp [Tbl.find]
    · simp only [Tbl.find, if_neg hi, ih ht]

theorem mem_del (t : Tbl α) (k : Nat) (e : Nat × α) (h : e ∈ t.del k) : e ∈ t ∧ e.1 ≠ k := by
  induction t with
  | nil => simp [Tbl.del] at h
  | cons f t ih =>
    obtain ⟨i, b⟩ := f
    unfold Tbl.del at h
    split at h
    · exact ⟨by simp [(ih h).1], (ih h).2⟩
    · rename_i hi
      rcases List.mem_cons.mp h with rfl | h
      · exact ⟨by simp, hi⟩
      · exact ⟨by simp [(ih h).1], (ih h).2⟩

/-- What a key reads as after a write. -/
theorem find_put [DecidableEq α] (d : α) (t : Tbl α) (k j : Nat) (a : α) :
    (t.put d k a).find d j = if j = k then a else t.find d j := by
  unfold Tbl.put
  by_cases h : j = k
  · subst h
    split
    · rename_i ha
      simp [find_del_self, ha]
    · simp only [if_true]
      exact find_ins_self d _ _ _ fun e he => (mem_del _ _ _ he).2
  · split
    · simp [h, find_del_ne]
    · simp [h, find_ins_ne, find_del_ne]

theorem above_del (t : Tbl α) (i k : Nat) (h : t.above i = true) : (t.del k).above i = true := by
  unfold Tbl.above at *
  rw [List.all_eq_true] at *
  exact fun e he => h e (mem_del _ _ _ he).1

theorem wf_del [DecidableEq α] (d : Nat → α) (t : Tbl α) (k : Nat) (h : Tbl.wf d t = true) : Tbl.wf d (t.del k) = true := by
  induction t with
  | nil => exact h
  | cons e t ih =>
    obtain ⟨i, b⟩ := e
    simp only [Tbl.wf, Bool.and_eq_true] at h
    unfold Tbl.del
    split
    · exact ih h.2
    · simp only [Tbl.wf, Bool.and_eq_true]
      exact ⟨⟨h.1.1, above_del _ _ _ h.1.2⟩, ih h.2⟩

theorem above_ins (t : Tbl α) (i k : Nat) (a : α) (h : t.above i = true) (hk : i < k) : (t.ins k a).above i = true := by
  induction t with
  | nil => simpa [Tbl.ins, Tbl.above] using hk
  | cons e t ih =>
    obtain ⟨j, b⟩ := e
    simp only [Tbl.above, List.all_cons, Bool.and_eq_true] at h ⊢
    unfold Tbl.ins
    split
    · simp only [List.all_cons, Bool.and_eq_true, decide_eq_true_eq]
      exact ⟨hk, by simpa using h.1, h.2⟩
    · simp only [List.all_cons, Bool.and_eq_true]
      exact ⟨h.1, ih h.2⟩

theorem above_trans (t : Tbl α) {i k : Nat} (h : t.above k = true) (hk : i < k) : t.above i = true := by
  unfold Tbl.above at *
  rw [List.all_eq_true] at *
  intro e he
  have := h e he
  simp only [decide_eq_true_eq] at *
  omega

theorem wf_ins [DecidableEq α] (d : Nat → α) (t : Tbl α) (k : Nat) (a : α) (h : Tbl.wf d t = true) (ha : a ≠ d k)
    (hk : ∀ e ∈ t, e.1 ≠ k) : Tbl.wf d (t.ins k a) = true := by
  induction t with
  | nil => simp [Tbl.ins, Tbl.wf, Tbl.above, ha]
  | cons e t ih =>
    obtain ⟨j, b⟩ := e
    have hj : j ≠ k := hk (j, b) (by simp)
    have ht : ∀ e ∈ t, e.1 ≠ k := fun e he => hk e (by simp [he])
    simp only [Tbl.wf, Bool.and_eq_true] at h
    unfold Tbl.ins
    split
    · rename_i hkj
      simp only [Tbl.wf, Bool.and_eq_true]
      refine ⟨⟨by simpa using ha, ?_⟩, h⟩
      simp only [Tbl.above, List.all_cons, Bool.and_eq_true, decide_eq_true_eq]
      exact ⟨hkj, above_trans t h.1.2 hkj⟩
    · rename_i hkj
      simp only [Tbl.wf, Bool.and_eq_true]
      exact ⟨⟨h.1.1, above_ins _ _ _ _ h.1.2 (by omega)⟩, ih h.2 ht⟩

/-- A write keeps the canonical form. -/
theorem wf_put [DecidableEq α] (d : Nat → α) (t : Tbl α) (k : Nat) (a : α) (h : Tbl.wf d t = true) :
    Tbl.wf d (t.put (d k) k a) = true := by
  unfold Tbl.put
  split
  · exact wf_del d t k h
  · rename_i ha
    exact wf_ins d _ k a (wf_del d t k h) ha fun e he => (mem_del _ _ _ he).2

/-- Another key reads as before, whatever an unlisted key reads as. -/
theorem find_put_ne [DecidableEq α] (d e : α) (t : Tbl α) {k j : Nat} (a : α) (h : j ≠ k) :
    (t.put d k a).find e j = t.find e j := by
  unfold Tbl.put
  split
  · exact find_del_ne e t h
  · rw [find_ins_ne e _ a h, find_del_ne e t h]

theorem find_nil (d : α) (k : Nat) : Tbl.find d ([] : Tbl α) k = d := rfl

end Sys2Proof.Laws
end

