-- ==== Sys2Proof/Laws/Keeps.lean ====
section
/-! SUPPORT. What every operation keeps: `Keeps s0 s` says that `s`, reached from `s0`, is sound, that its queue is
`s0`'s, and that nothing has been undone that no command undoes. Each shared operation has one lemma of this form. -/
namespace Sys2Proof.Laws
open Machine Safety

/-- `Keeps` over the parts of the later state that it speaks of. -/
structure KeepsF (s0 : State) (pending : List Instr) (tile : Tbl Byte) (objs : Tbl Int) (legs : Tbl Leg) (rings : Tbl Ring)
    (dups : Tbl (List Remembered)) (staged : List LRec) (a b act disc : Bool) (otp : Otp)
    (free drawn next : Nat) (map : BitVec 32) : Prop where
  queue : pending = s0.pending
  mem   : memoryOk tile
  keys  : rising objs
  leg   : legsOk legs
  ring  : ringsOk rings
  dup   : rememberedOk dups
  stag  : stagedOk staged
  sto   : stoOk a b act disc
  comp  : companionsOk otp
  fuse  : fusesKept s0.otp otp
  map   : mapOk map
  free  : s0.free ≤ free
  drawn : s0.sec.drawn ≤ drawn
  recno : s0.mram.next ≤ next

/-- The later state `s` keeps what the earlier state `s0` had. -/
def Keeps (s0 s : State) : Prop :=
  KeepsF s0 s.pending s.tile s.objs s.legs s.rings s.dups s.ledg.staged s.sto.a s.sto.b s.sto.act s.sto.disc s.otp s.free
    s.sec.drawn s.mram.next s.sec.blkmap

/-! ### How a lemma is put together -/

theorem keeps_in {s0 s : State} (h : KeepsF s0 s.pending s.tile s.objs s.legs s.rings s.dups s.ledg.staged s.sto.a s.sto.b
    s.sto.act s.sto.disc s.otp s.free s.sec.drawn s.mram.next s.sec.blkmap) : Keeps s0 s := h

theorem keeps_out {s0 s : State} (h : Keeps s0 s) : KeepsF s0 s.pending s.tile s.objs s.legs s.rings s.dups s.ledg.staged
    s.sto.a s.sto.b s.sto.act s.sto.disc s.otp s.free s.sec.drawn s.mram.next s.sec.blkmap := h

theorem keeps_cut {s0 : State} (s : State) {P : Prop} (h : Keeps s0 s) (k : Keeps s0 s → P) : P := k h

theorem keeps_ite {s0 s t : State} {c : Prop} [Decidable c] (h : Keeps s0 s) (k : Keeps s0 t) :
    Keeps s0 (if c then s else t) := by split <;> assumption

theorem keeps_snd {s0 t : State} {β : Type} {b : β} {p : β × State} (e : p = (b, t)) (h : Keeps s0 p.2) : Keeps s0 t := by
  subst e; exact h

theorem keeps_fst {s0 t : State} {β : Type} {b : β} {p : State × β} (e : p = (t, b)) (h : Keeps s0 p.1) : Keeps s0 t := by
  subst e; exact h

theorem keeps_third {s0 t : State} {β γ : Type} {b : β} {c : γ} {p : β × γ × State} (e : p = (b, c, t)) (h : Keeps s0 p.2.2) :
    Keeps s0 t := by subst e; exact h

theorem keeps_mid {s0 t : State} {β γ : Type} {b : β} {c : γ} {p : β × State × γ} (e : p = (b, t, c)) (h : Keeps s0 p.2.1) :
    Keeps s0 t := by subst e; exact h

theorem keeps_fourth {s0 t : State} {β γ δ : Type} {b : β} {c : γ} {d : δ} {p : β × γ × δ × State} (e : p = (b, c, d, t))
    (h : Keeps s0 p.2.2.2) : Keeps s0 t := by subst e; exact h

theorem keeps_foldl {s0 s : State} {β : Type} {l : List β} {g : State → β → State} (h : Keeps s0 s)
    (k : ∀ t b, Keeps s0 t → Keeps s0 (g t b)) : Keeps s0 (l.foldl g s) := by
  induction l generalizing s with
  | nil => exact h
  | cons b l ih => exact ih (k _ _ h)

theorem keeps_foldl_fst {s0 : State} {β γ : Type} {l : List β} {g : State × γ → β → State × γ} {p : State × γ} (h : Keeps s0 p.1)
    (k : ∀ t b, Keeps s0 t.1 → Keeps s0 (g t b).1) : Keeps s0 (l.foldl g p).1 := by
  induction l generalizing p with
  | nil => exact h
  | cons b l ih => exact ih (k _ _ h)

theorem keeps_foldl_snd {s0 : State} {β γ : Type} {l : List β} {g : γ × State → β → γ × State} {p : γ × State} (h : Keeps s0 p.2)
    (k : ∀ t b, Keeps s0 t.2 → Keeps s0 (g t b).2) : Keeps s0 (l.foldl g p).2 := by
  induction l generalizing p with
  | nil => exact h
  | cons b l ih => exact ih (k _ _ h)

/-! ### One part at a time -/

theorem keeps_mram {s0 s : State} (h : Keeps s0 s) {m : Mram} (e : s.mram.next ≤ m.next) : Keeps s0 { s with mram := m } :=
  keeps_in { keeps_out h with recno := Nat.le_trans (keeps_out h).recno e }

theorem keeps_sec {s0 s : State} (h : Keeps s0 s) {c : Sec} (e : s.sec.drawn ≤ c.drawn) (b : mapOk c.blkmap) :
    Keeps s0 { s with sec := c } :=
  keeps_in { keeps_out h with drawn := Nat.le_trans (keeps_out h).drawn e, map := b }

theorem keeps_sto {s0 s : State} (h : Keeps s0 s) {q : Sto} (e : stoOk q.a q.b q.act q.disc) : Keeps s0 { s with sto := q } :=
  keeps_in { keeps_out h with sto := e }

theorem fusesKept_trans {p q r : Otp} (h : fusesKept p q) (k : fusesKept q r) : fusesKept p r := by
  have nat : ∀ {a b c : Nat}, a &&& b = a → b &&& c = b → a &&& c = a := fun {a b c} x y => by
    rw [← x, Nat.and_assoc, y]
  have bv : ∀ {a b c : BitVec 32}, a &&& b = a → b &&& c = b → a &&& c = a := fun {a b c} x y => by
    rw [← x, BitVec.and_assoc, y]
  obtain ⟨a1, a2, a3, a4, a5, a6, a7, a8, a9, a10, a11, a12, a13, a14, a15, a16, a17, a18⟩ := h
  obtain ⟨b1, b2, b3, b4, b5, b6, b7, b8, b9, b10, b11, b12, b13, b14, b15, b16, b17, b18⟩ := k
  exact ⟨nat a1 b1, nat a2 b2, nat a3 b3, nat a4 b4, nat a5 b5, b6 ∘ a6, Nat.le_trans a7 b7, b8 ∘ a8, b9 ∘ a9, b10 ∘ a10,
    b11 ∘ a11, b12 ∘ a12, b13 ∘ a13, b14 ∘ a14, b15 ∘ a15, Nat.le_trans a16 b16, Nat.le_trans a17 b17,
    fun k => bv (a18 k) (b18 k)⟩

theorem keeps_otp {s0 s : State} (h : Keeps s0 s) {o : Otp} (f : fusesKept s.otp o) (c : companionsOk o) :
    Keeps s0 { s with otp := o } :=
  keeps_in { keeps_out h with fuse := fusesKept_trans (keeps_out h).fuse f, comp := c }

theorem keeps_staged {s0 s : State} (h : Keeps s0 s) {l : Ledger} (e : stagedOk l.staged) : Keeps s0 { s with ledg := l } :=
  keeps_in { keeps_out h with stag := e }

theorem keeps_regs {s0 s : State} (h : Keeps s0 s) {t : Tbl Leg} (e : legsOk t) : Keeps s0 { s with legs := t } :=
  keeps_in { keeps_out h with leg := e }

end Sys2Proof.Laws
end

