-- ==== Sys2Proof/Laws/Ops.lean ====
section
/-! SUPPORT. What the operations of `Machine/Ops.lean` keep. -/
namespace Sys2Proof.Laws
open Machine Safety

/-! ### Tables with rising keys -/

theorem rising_del {α : Type} (t : Tbl α) (k : Nat) (h : rising t) : rising (t.del k) := by
  induction t with
  | nil => exact h
  | cons e t ih =>
    obtain ⟨i, b⟩ := e
    unfold Tbl.del
    split
    · exact ih h.2
    · exact ⟨above_del _ _ _ h.1, ih h.2⟩

theorem rising_ins {α : Type} (t : Tbl α) (k : Nat) (a : α) (h : rising t) (hk : ∀ e ∈ t, e.1 ≠ k) : rising (t.ins k a) := by
  induction t with
  | nil => exact ⟨rfl, trivial⟩
  | cons e t ih =>
    obtain ⟨j, b⟩ := e
    have hj : j ≠ k := hk (j, b) (by simp)
    unfold Tbl.ins
    split
    · rename_i hkj
      refine ⟨?_, h⟩
      simp only [Tbl.above, List.all_cons, Bool.and_eq_true, decide_eq_true_eq]
      exact ⟨hkj, above_trans t h.1 hkj⟩
    · exact ⟨above_ins _ _ _ _ h.1 (by omega), ih h.2 fun e he => hk e (by simp [he])⟩

theorem rising_put {α : Type} [DecidableEq α] (d : α) (t : Tbl α) (k : Nat) (a : α) (h : rising t) : rising (t.put d k a) := by
  unfold Tbl.put
  split
  · exact rising_del t k h
  · exact rising_ins _ k a (rising_del t k h) fun e he => (mem_del _ _ _ he).2

theorem rising_set {α : Type} (t : Tbl α) (k : Nat) (o : Option α) (h : rising t) : rising (t.set k o) := by
  unfold Tbl.set
  split
  · exact rising_del t k h
  · exact rising_ins _ k _ (rising_del t k h) fun e he => (mem_del _ _ _ he).2

/-! ### Members -/

/-- An element of a member as it reads after a write. -/
theorem put_g (s : State) (m q : Mem) (i j x y : Nat) (v : Int) (hd : q.key j y = m.key i x → q.dfltAt j y = m.dfltAt i x) :
    (s.put m i v x).g q j y = if q.key j y = m.key i x then v else s.g q j y := by
  unfold State.put State.g
  by_cases h : q.key j y = m.key i x
  · simp only [h, hd h, find_put, if_true]
  · simp only [if_neg h]
    exact find_put_ne _ _ _ _ h

/-- The same element, and another one. -/
theorem put_g_self (s : State) (m : Mem) (i x : Nat) (v : Int) : (s.put m i v x).g m i x = v := by
  rw [put_g _ _ _ _ _ _ _ _ fun _ => rfl, if_pos rfl]
theorem put_g_ne (s : State) (m q : Mem) (i j x y : Nat) (v : Int) (h : q.key j y ≠ m.key i x) :
    (s.put m i v x).g q j y = s.g q j y := find_put_ne _ _ _ _ h

/-! ### Rings -/

/-- A ring as it reads after a write of a ring. -/
theorem setRing_ring (s : State) (n k : Nat) (r : Ring) : (s.setRing n r).ring k = if k = n then r else s.ring k := by
  unfold State.setRing State.ring
  by_cases h : k = n
  · subst h; simp only [find_put, if_true]
  · rw [if_neg h]; exact find_put_ne _ _ _ _ h

theorem ringsOk_put (t : Tbl Ring) (n : Nat) (r : Ring) (h : ringsOk t) (hr : ringOk r) :
    ringsOk (t.put (Ring.dflt n) n r) := by
  intro k
  by_cases e : k = n
  · subst e; rw [find_put, if_pos rfl]; exact hr
  · rw [find_put_ne _ _ _ _ e]; exact h k

/-- The entries of a ring by its indexes, which lie below twice its size. -/
theorem count_eq (r : Ring) (h : r.head < 2 * r.size) (k : r.tail < 2 * r.size) :
    r.count = if r.tail ≤ r.head then r.head - r.tail else r.head + 2 * r.size - r.tail := by
  have hp : r.size ≠ 0 := by omega
  unfold Ring.count
  rw [if_neg hp]
  split
  · have e : r.head + 2 * r.size - r.tail = (r.head - r.tail) + 2 * r.size := by omega
    rw [e, Nat.add_mod_right, Nat.mod_eq_of_lt (by omega)]
  · exact Nat.mod_eq_of_lt (by omega)

theorem succ_eq (r : Ring) (i : Nat) (h : i < 2 * r.size) : r.succ i = if i + 1 = 2 * r.size then 0 else i + 1 := by
  have hp : r.size ≠ 0 := by omega
  unfold Ring.succ
  rw [if_neg hp]
  split
  · rename_i e; rw [e, Nat.mod_self]
  · exact Nat.mod_eq_of_lt (by omega)

theorem ringOk_head (r : Ring) (h : ringOk r) (he : r.en = true) (hf : r.full = false) :
    ringOk { r with head := r.succ r.head } := by
  obtain ⟨hs, hr⟩ := h
  obtain ⟨h1, h2, h3⟩ := hr he
  have hf' : r.count ≠ r.size := by simpa [Ring.full] using hf
  rw [count_eq r h1 h2] at h3 hf'
  have g1 : r.succ r.head < 2 * r.size := by rw [succ_eq r _ h1]; split <;> omega
  have hc : ({ r with head := r.succ r.head } : Ring).count =
      if r.tail ≤ r.succ r.head then r.succ r.head - r.tail else r.succ r.head + 2 * r.size - r.tail := count_eq _ g1 h2
  refine ⟨hs, fun _ => ⟨g1, h2, Nat.le_trans (Nat.le_of_eq hc) ?_⟩⟩
  clear hc g1
  show _ ≤ r.size
  rw [succ_eq r _ h1]
  generalize r.size = n at *
  generalize r.head = x at *
  generalize r.tail = y at *
  by_cases e : x + 1 = 2 * n
  · by_cases f : y ≤ x <;> simp only [f, if_true, if_false, if_pos e] at h3 hf' ⊢ <;> split <;> omega
  · by_cases f : y ≤ x <;> simp only [f, if_true, if_false, if_neg e] at h3 hf' ⊢ <;> split <;> omega

theorem ringOk_tail (r : Ring) (h : ringOk r) (he : r.empty = false) : ringOk { r with tail := r.succ r.tail } := by
  obtain ⟨hs, hr⟩ := h
  refine ⟨hs, fun e => ?_⟩
  obtain ⟨h1, h2, h3⟩ := hr e
  have hne : r.head ≠ r.tail := by simpa [Ring.empty] using he
  rw [count_eq r h1 h2] at h3
  have g1 : r.succ r.tail < 2 * r.size := by rw [succ_eq r _ h2]; split <;> omega
  have hc : ({ r with tail := r.succ r.tail } : Ring).count =
      if r.succ r.tail ≤ r.head then r.head - r.succ r.tail else r.head + 2 * r.size - r.succ r.tail := count_eq _ h1 g1
  refine ⟨h1, g1, Nat.le_trans (Nat.le_of_eq hc) ?_⟩
  show _ ≤ r.size
  rw [succ_eq r _ h2]
  generalize r.size = n at *
  generalize r.head = x at *
  generalize r.tail = y at *
  by_cases e : y + 1 = 2 * n
  · simp only [if_pos e]; split <;> split at h3 <;> omega
  · simp only [if_neg e]; split <;> split at h3 <;> omega

/-! ### What the operations keep -/

theorem joinStaged_length (w : Nat) (q : LRec) (l r : List LRec) (h : State.joinStaged w q l = some r) : r.length = l.length := by
  induction l generalizing r with
  | nil => simp [State.joinStaged] at h
  | cons a l ih =>
    unfold State.joinStaged at h
    split at h
    · cases h; rfl
    · cases e : State.joinStaged w q l with
      | none => rw [e] at h; cases h
      | some r' => rw [e] at h; cases h; simp [ih r' e]

theorem put_keeps {z s : State} (h : Keeps z s) (m : Mem) (i : Nat) (v : Int) (x : Nat) : Keeps z (s.put m i v x) :=
  keeps_in { keeps_out h with keys := rising_put _ _ _ _ (keeps_out h).keys }

theorem putF_keeps {z : State} {s : State} (hs : Keeps z s) (m : Mem) (i : Nat) (v : F32) (x : Nat) : Keeps z (State.putF s m i v x) := by
  unfold State.putF
  repeat' first
    | with_reducible assumption
    | (unfold x; clear x)
    | (extract_lets -merge -useContext +onlyGivenNames x; first | (refine keeps_cut (s0 := z) x ?_ (fun hx => ?_); rotate_left; clear_value x) | clear_value x)
    | with_reducible apply put_keeps
    | split
    | exact keeps_in (keeps_out hx)
    | exact keeps_in (keeps_out hs)
    | dsimp only

theorem putB_keeps {z : State} {s : State} (hs : Keeps z s) (m : Mem) (i : Nat) (v : Bool) (x : Nat) : Keeps z (State.putB s m i v x) := by
  unfold State.putB
  repeat' first
    | with_reducible assumption
    | (unfold x; clear x)
    | (extract_lets -merge -useContext +onlyGivenNames x; first | (refine keeps_cut (s0 := z) x ?_ (fun hx => ?_); rotate_left; clear_value x) | clear_value x)
    | with_reducible apply put_keeps
    | split
    | exact keeps_in (keeps_out hx)
    | exact keeps_in (keeps_out hs)
    | dsimp only

theorem inc_keeps {z : State} {s : State} (hs : Keeps z s) (m : Mem) (i : Nat) (x : Nat) (k : Nat) : Keeps z (State.inc s m i x k) := by
  unfold State.inc
  repeat' first
    | with_reducible assumption
    | (unfold x; clear x)
    | (extract_lets -merge -useContext +onlyGivenNames x; first | (refine keeps_cut (s0 := z) x ?_ (fun hx => ?_); rotate_left; clear_value x) | clear_value x)
    | with_reducible apply put_keeps
    | split
    | exact keeps_in (keeps_out hx)
    | exact keeps_in (keeps_out hs)
    | dsimp only

theorem incWrap_keeps {z : State} {s : State} (hs : Keeps z s) (m : Mem) (i : Nat) (x : Nat) : Keeps z (State.incWrap s m i x) := by
  unfold State.incWrap
  repeat' first
    | with_reducible assumption
    | (unfold x; clear x)
    | (extract_lets -merge -useContext +onlyGivenNames x; first | (refine keeps_cut (s0 := z) x ?_ (fun hx => ?_); rotate_left; clear_value x) | clear_value x)
    | with_reducible apply put_keeps
    | split
    | exact keeps_in (keeps_out hx)
    | exact keeps_in (keeps_out hs)
    | dsimp only

theorem dioDrive_keeps {z : State} {s : State} (hs : Keeps z s) (n : Nat) (on : Bool) : Keeps z (State.dioDrive s n on) := by
  unfold State.dioDrive
  repeat' first
    | with_reducible assumption
    | (unfold x; clear x)
    | (extract_lets -merge -useContext +onlyGivenNames x; first | (refine keeps_cut (s0 := z) x ?_ (fun hx => ?_); rotate_left; clear_value x) | clear_value x)
    | split
    | exact keeps_in (keeps_out hx)
    | exact keeps_in (keeps_out hs)
    | dsimp only

theorem takeWord_keeps {z s : State} (h : Keeps z s) : Keeps z s.takeWord.2 := keeps_in { keeps_out h with free := Nat.le_succ_of_le (keeps_out h).free }

theorem takeInt_keeps {z s : State} (h : Keeps z s) : Keeps z s.takeInt.2 := keeps_in { keeps_out h with free := Nat.le_succ_of_le (keeps_out h).free }

theorem takeBit_keeps {z s : State} (h : Keeps z s) : Keeps z s.takeBit.2 := keeps_in { keeps_out h with free := Nat.le_succ_of_le (keeps_out h).free }

theorem raise_keeps {z : State} {s : State} (hs : Keeps z s) (k : Nat) : Keeps z (State.raise s k) := by
  unfold State.raise
  repeat' first
    | with_reducible assumption
    | (unfold x; clear x)
    | (extract_lets -merge -useContext +onlyGivenNames x; first | (refine keeps_cut (s0 := z) x ?_ (fun hx => ?_); rotate_left; clear_value x) | clear_value x)
    | with_reducible refine keeps_foldl ?_ (fun t b ht => ?_)
    | with_reducible refine keeps_foldl_fst ?_ (fun t b ht => ?_)
    | with_reducible refine keeps_foldl_snd ?_ (fun t b ht => ?_)
    | split
    | exact keeps_in (keeps_out hx)
    | exact keeps_in (keeps_out hs)
    | exact keeps_in (keeps_out ht)
    | dsimp only

theorem raiseAll_keeps {z : State} {s : State} (hs : Keeps z s) (l : List Nat) : Keeps z (State.raiseAll s l) := by
  unfold State.raiseAll
  repeat' first
    | with_reducible assumption
    | (unfold x; clear x)
    | (extract_lets -merge -useContext +onlyGivenNames x; first | (refine keeps_cut (s0 := z) x ?_ (fun hx => ?_); rotate_left; clear_value x) | clear_value x)
    | with_reducible apply raise_keeps
    | with_reducible refine keeps_foldl ?_ (fun t b ht => ?_)
    | split
    | exact keeps_in (keeps_out hx)
    | exact keeps_in (keeps_out hs)
    | exact keeps_in (keeps_out ht)
    | dsimp only

theorem raiseAxis_keeps {z : State} {s : State} (hs : Keeps z s) (x : Nat) : Keeps z (State.raiseAxis s x) := by
  unfold State.raiseAxis
  repeat' first
    | with_reducible assumption
    | (unfold x; clear x)
    | (extract_lets -merge -useContext +onlyGivenNames x; first | (refine keeps_cut (s0 := z) x ?_ (fun hx => ?_); rotate_left; clear_value x) | clear_value x)
    | with_reducible apply raise_keeps
    | split
    | exact keeps_in (keeps_out hx)
    | exact keeps_in (keeps_out hs)
    | dsimp only

theorem traceEvent_keeps {z : State} {s : State} (hs : Keeps z s) (u : Nat) : Keeps z (State.traceEvent s u) := by
  unfold State.traceEvent
  repeat' first
    | with_reducible assumption
    | (unfold x; clear x)
    | with_reducible refine keeps_snd (by with_reducible assumption) ?_
    | with_reducible refine keeps_fst (by with_reducible assumption) ?_
    | with_reducible refine keeps_third (by with_reducible assumption) ?_
    | with_reducible refine keeps_mid (by with_reducible assumption) ?_
    | (extract_lets -merge -useContext +onlyGivenNames x; first | (refine keeps_cut (s0 := z) x ?_ (fun hx => ?_); rotate_left; clear_value x) | (refine keeps_cut (s0 := z) x.1 ?_ (fun hx => ?_); rotate_left; clear_value x) | (refine keeps_cut (s0 := z) x.2 ?_ (fun hx => ?_); rotate_left; clear_value x) | (refine keeps_cut (s0 := z) x.2.2 ?_ (fun hx => ?_); rotate_left; clear_value x) | clear_value x)
    | with_reducible apply inc_keeps
    | with_reducible apply setTrace_keeps
    | with_reducible apply put_keeps
    | split
    | exact keeps_in (keeps_out hx)
    | exact keeps_in (keeps_out hs)
    | (refine keeps_in ?_; dsimp only; exact keeps_out (by with_reducible assumption))
    | dsimp only

theorem setRing_keeps {z s : State} (h : Keeps z s) (n : Nat) {r : Ring} (hr : ringOk r) : Keeps z (s.setRing n r) :=
  keeps_in { keeps_out h with ring := ringsOk_put _ _ _ (keeps_out h).ring hr }
theorem ring_ok {z s : State} (h : Keeps z s) (n : Nat) : ringOk (s.ring n) := (keeps_out h).ring n

theorem setByte_keeps {z s : State} (h : Keeps z s) (a : Nat) (v : Byte) : Keeps z (s.setByte a v) :=
  keeps_in { keeps_out h with mem := wf_put _ _ _ _ (keeps_out h).mem }

theorem setBytes_keeps {z s : State} (h : Keeps z s) (a : Nat) (l : List Byte) : Keeps z (s.setBytes a l) := by
  induction l generalizing s a with
  | nil => exact h
  | cons v l ih => exact ih (setByte_keeps h a v) (a + 1)
theorem setBytes_rings (s : State) (a : Nat) (l : List Byte) : (s.setBytes a l).rings = s.rings := by
  induction l generalizing s a with
  | nil => rfl
  | cons v l ih => exact ih (s.setByte a v) (a + 1)

theorem produce_keeps {z s : State} (h : Keeps z s) (n : Nat) (hr : s.hasRoom n = true) (bytes : List Byte) :
    Keeps z (s.produce n bytes) := by
  have hr' : (s.ring n).en = true ∧ (s.ring n).full = false := by simpa [State.hasRoom] using hr
  have k := setRing_keeps (setBytes_keeps h ((s.ring n).entry (s.ring n).head) (padTo ((s.ring n).esz * 16) bytes)) n
    (ringOk_head _ (ring_ok h n) hr'.1 hr'.2)
  unfold State.produce
  repeat' first | with_reducible assumption | with_reducible apply raise_keeps | split | dsimp only

theorem consume_keeps {z s : State} (h : Keeps z s) (n : Nat) : Keeps z (s.consume n) := by
  unfold State.consume
  dsimp only
  split
  · exact h
  · rename_i he
    have k := setRing_keeps h n (ringOk_tail _ (ring_ok h n) (by simpa using he))
    repeat' first | with_reducible assumption | with_reducible apply raise_keeps | split | dsimp only

theorem markLoss_keeps {z s : State} (h : Keeps z s) (n : Nat) : Keeps z (s.markLoss n) := by
  unfold State.markLoss
  split
  · exact h
  · exact raise_keeps (setRing_keeps h n (r := { s.ring n with loss := true }) (ring_ok h n)) n

theorem ledger_keeps {z s : State} (h : Keeps z s) (code inst detail : Nat) (data : List Byte) (secure : Bool) :
    Keeps z (s.ledger code inst detail data secure) := by
  unfold State.ledger
  dsimp only
  split
  · rename_i l e
    have hl : stagedOk l := by
      have := joinStaged_length _ _ _ _ e
      unfold stagedOk; rw [this]; exact (keeps_out h).stag
    split
    · exact keeps_in { keeps_out h with stag := hl }
    · exact keeps_in { keeps_out (raise_keeps h 62) with stag := hl }
  · have hroom : (if State.ledgerReserved code = true then 1024 else 960) ≤ 1024 := by split <;> omega
    generalize (if State.ledgerReserved code = true then 1024 else 960) = room at *
    split
    · refine keeps_in { keeps_out h with stag := ?_ }
      unfold stagedOk
      simp only [List.length_append, List.length_singleton]
      omega
    · split
      · exact inc_keeps h _ _ _ _
      · exact inc_keeps (raise_keeps h 62) _ _ _ _

theorem ring7_keeps {z s : State} (h : Keeps z s) (code inst detail : Nat) : Keeps z (s.ring7 code inst detail) := by
  unfold State.ring7
  dsimp only
  split
  · rename_i e
    exact produce_keeps h 7 (by simp at e; exact e.1) _
  · have k : Keeps z (if (s.alarms.isEmpty && s.ready) = true then (s.markLoss 7).raise 62 else s) :=
      keeps_ite (raise_keeps (markLoss_keeps h 7) 62) h
    generalize (if (s.alarms.isEmpty && s.ready) = true then (s.markLoss 7).raise 62 else s) = t at *
    repeat' first
      | with_reducible assumption | split | exact keeps_in (keeps_out k) | dsimp only

theorem noteFault_keeps {z : State} {s : State} (hs : Keeps z s) (cls : Nat) (inst : Nat) (code : Nat) : Keeps z (State.noteFault s cls inst code) := by
  unfold State.noteFault
  repeat' first
    | with_reducible assumption
    | (unfold x; clear x)
    | (extract_lets -merge -useContext +onlyGivenNames x; first | (refine keeps_cut (s0 := z) x ?_ (fun hx => ?_); rotate_left; clear_value x) | clear_value x)
    | split
    | exact keeps_in (keeps_out hx)
    | exact keeps_in (keeps_out hs)
    | dsimp only

theorem alarm_keeps {z : State} {s : State} (hs : Keeps z s) (code : Nat) (inst : Nat) (evs : List Nat) (detail : Nat) (cls : Nat) (data : List Byte) : Keeps z (State.alarm s code inst evs detail cls data) := by
  unfold State.alarm
  repeat' first
    | with_reducible assumption
    | (unfold x; clear x)
    | (extract_lets -merge -useContext +onlyGivenNames x; first | (refine keeps_cut (s0 := z) x ?_ (fun hx => ?_); rotate_left; clear_value x) | clear_value x)
    | with_reducible apply ledger_keeps
    | with_reducible apply ring7_keeps
    | with_reducible apply noteFault_keeps
    | with_reducible apply raiseAll_keeps
    | split
    | exact keeps_in (keeps_out hx)
    | exact keeps_in (keeps_out hs)
    | dsimp only

theorem clearFault_keeps {z : State} {s : State} (hs : Keeps z s) (cls : Nat) (inst : Nat) : Keeps z (State.clearFault s cls inst) := by
  unfold State.clearFault
  repeat' first
    | with_reducible assumption
    | (unfold x; clear x)
    | (extract_lets -merge -useContext +onlyGivenNames x; first | (refine keeps_cut (s0 := z) x ?_ (fun hx => ?_); rotate_left; clear_value x) | clear_value x)
    | split
    | exact keeps_in (keeps_out hx)
    | exact keeps_in (keeps_out hs)
    | dsimp only

end Sys2Proof.Laws
end

