-- ==== Sys2Proof/Laws/Exchange.lean ====
section
/-! SUPPORT. What the operations of `Machine/Exchange.lean` keep. -/
namespace Sys2Proof.Laws
open Machine Safety

theorem setEng_keeps {z : State} {s : State} (hs : Keeps z s) (e : Nat) (x : Engine) : Keeps z (State.setEng s e x) := by
  unfold State.setEng
  repeat' first
    | with_reducible assumption
    | (unfold x; clear x)
    | (extract_lets -merge -useContext +onlyGivenNames x; first | (refine keeps_cut (s0 := z) x ?_ (fun hx => ?_); rotate_left; clear_value x) | clear_value x)
    | split
    | exact keeps_in (keeps_out hx)
    | exact keeps_in (keeps_out hs)
    | (refine keeps_in ?_; dsimp only; exact keeps_out (by with_reducible assumption))
    | dsimp only

theorem notice_keeps {z : State} {s : State} (hs : Keeps z s) (ty : Nat) (tk : Nat) (frm : Nat) (dst : Nat) (code : Nat) : Keeps z (State.notice s ty tk frm dst code) := by
  unfold State.notice
  repeat' first
    | with_reducible assumption
    | (unfold x; clear x)
    | (extract_lets -merge -useContext +onlyGivenNames x; first | (refine keeps_cut (s0 := z) x ?_ (fun hx => ?_); rotate_left; clear_value x) | clear_value x)
    | with_reducible apply raise_keeps
    | with_reducible apply ledger_keeps
    | with_reducible apply produce_keeps
    | with_reducible apply inc_keeps
    | split
    | exact keeps_in (keeps_out hx)
    | exact keeps_in (keeps_out hs)
    | (refine keeps_in ?_; dsimp only; exact keeps_out (by with_reducible assumption))
    | dsimp only

theorem setTask_keeps {z : State} {s : State} (hs : Keeps z s) (t : Nat) (x : Task) : Keeps z (State.setTask s t x) := by
  unfold State.setTask
  repeat' first
    | with_reducible assumption
    | (unfold x; clear x)
    | (extract_lets -merge -useContext +onlyGivenNames x; first | (refine keeps_cut (s0 := z) x ?_ (fun hx => ?_); rotate_left; clear_value x) | clear_value x)
    | with_reducible apply incWrap_keeps
    | split
    | exact keeps_in (keeps_out hx)
    | exact keeps_in (keeps_out hs)
    | (refine keeps_in ?_; dsimp only; exact keeps_out (by with_reducible assumption))
    | dsimp only

theorem toBalance_keeps {z : State} {s : State} (hs : Keeps z s) : Keeps z (State.toBalance s) := by
  unfold State.toBalance
  repeat' first
    | with_reducible assumption
    | (unfold x; clear x)
    | (extract_lets -merge -useContext +onlyGivenNames x; first | (refine keeps_cut (s0 := z) x ?_ (fun hx => ?_); rotate_left; clear_value x) | clear_value x)
    | split
    | exact keeps_in (keeps_out hx)
    | exact keeps_in (keeps_out hs)
    | (refine keeps_in ?_; dsimp only; exact keeps_out (by with_reducible assumption))
    | dsimp only

theorem setTaskSt_keeps {z : State} {s : State} (hs : Keeps z s) (t : Nat) (st : Nat) : Keeps z (State.setTaskSt s t st) := by
  unfold State.setTaskSt
  repeat' first
    | with_reducible assumption
    | (unfold x; clear x)
    | (extract_lets -merge -useContext +onlyGivenNames x; first | (refine keeps_cut (s0 := z) x ?_ (fun hx => ?_); rotate_left; clear_value x) | clear_value x)
    | with_reducible apply setTask_keeps
    | split
    | exact keeps_in (keeps_out hx)
    | exact keeps_in (keeps_out hs)
    | (refine keeps_in ?_; dsimp only; exact keeps_out (by with_reducible assumption))
    | dsimp only

theorem leavePolicy_keeps {z : State} {s : State} (hs : Keeps z s) (ts : List Nat) : Keeps z (State.leavePolicy s ts) := by
  unfold State.leavePolicy
  repeat' first
    | with_reducible assumption
    | (unfold x; clear x)
    | (extract_lets -merge -useContext +onlyGivenNames x; first | (refine keeps_cut (s0 := z) x ?_ (fun hx => ?_); rotate_left; clear_value x) | (refine keeps_cut (s0 := z) x.1 ?_ (fun hx => ?_); rotate_left; clear_value x) | (refine keeps_cut (s0 := z) x.2 ?_ (fun hx => ?_); rotate_left; clear_value x) | (refine keeps_cut (s0 := z) x.2.2 ?_ (fun hx => ?_); rotate_left; clear_value x) | clear_value x)
    | with_reducible apply setTask_keeps
    | with_reducible refine keeps_foldl ?_ (fun t b ht => ?_)
    | with_reducible refine keeps_foldl_fst ?_ (fun t b ht => ?_)
    | with_reducible refine keeps_foldl_snd ?_ (fun t b ht => ?_)
    | split
    | exact keeps_in (keeps_out hx)
    | exact keeps_in (keeps_out hs)
    | exact keeps_in (keeps_out ht)
    | (refine keeps_in ?_; dsimp only; exact keeps_out (by with_reducible assumption))
    | dsimp only

theorem vengAny_keeps {z : State} {s : State} (hs : Keeps z s) : Keeps z (State.vengAny s) := by
  unfold State.vengAny
  repeat' first
    | with_reducible assumption
    | (unfold x; clear x)
    | with_reducible refine keeps_snd (by with_reducible assumption) ?_
    | with_reducible refine keeps_fst (by with_reducible assumption) ?_
    | with_reducible refine keeps_third (by with_reducible assumption) ?_
    | with_reducible refine keeps_mid (by with_reducible assumption) ?_
    | (extract_lets -merge -useContext +onlyGivenNames x; first | (refine keeps_cut (s0 := z) x ?_ (fun hx => ?_); rotate_left; clear_value x) | (refine keeps_cut (s0 := z) x.1 ?_ (fun hx => ?_); rotate_left; clear_value x) | (refine keeps_cut (s0 := z) x.2 ?_ (fun hx => ?_); rotate_left; clear_value x) | (refine keeps_cut (s0 := z) x.2.2 ?_ (fun hx => ?_); rotate_left; clear_value x) | clear_value x)
    | with_reducible apply takeInt_keeps
    | with_reducible apply put_keeps
    | split
    | exact keeps_in (keeps_out hx)
    | exact keeps_in (keeps_out hs)
    | (refine keeps_in ?_; dsimp only; exact keeps_out (by with_reducible assumption))
    | dsimp only

theorem vidDrive_keeps {z : State} {s : State} (hs : Keeps z s) (code : Nat) : Keeps z (State.vidDrive s code) := by
  unfold State.vidDrive
  repeat' first
    | with_reducible assumption
    | (unfold x; clear x)
    | (extract_lets -merge -useContext +onlyGivenNames x; first | (refine keeps_cut (s0 := z) x ?_ (fun hx => ?_); rotate_left; clear_value x) | clear_value x)
    | with_reducible apply dioDrive_keeps
    | with_reducible refine keeps_foldl ?_ (fun t b ht => ?_)
    | split
    | exact keeps_in (keeps_out hx)
    | exact keeps_in (keeps_out hs)
    | exact keeps_in (keeps_out ht)
    | (refine keeps_in ?_; dsimp only; exact keeps_out (by with_reducible assumption))
    | dsimp only

theorem setpointMove_keeps {z : State} {s : State} (hs : Keeps z s) (v : Nat) : Keeps z (State.setpointMove s v) := by
  unfold State.setpointMove
  repeat' first
    | with_reducible assumption
    | (unfold x; clear x)
    | with_reducible refine keeps_snd (by with_reducible assumption) ?_
    | with_reducible refine keeps_fst (by with_reducible assumption) ?_
    | with_reducible refine keeps_third (by with_reducible assumption) ?_
    | with_reducible refine keeps_mid (by with_reducible assumption) ?_
    | (extract_lets -merge -useContext +onlyGivenNames x; first | (refine keeps_cut (s0 := z) x ?_ (fun hx => ?_); rotate_left; clear_value x) | (refine keeps_cut (s0 := z) x.1 ?_ (fun hx => ?_); rotate_left; clear_value x) | (refine keeps_cut (s0 := z) x.2 ?_ (fun hx => ?_); rotate_left; clear_value x) | clear_value x)
    | with_reducible apply vidDrive_keeps
    | with_reducible apply put_keeps
    | with_reducible apply vengAny_keeps
    | split
    | exact keeps_in (keeps_out hx)
    | exact keeps_in (keeps_out hs)
    | (refine keeps_in ?_; dsimp only; exact keeps_out (by with_reducible assumption))
    | dsimp only

theorem leanExit_keeps {z : State} {s : State} (hs : Keeps z s) : Keeps z (State.leanExit s) := by
  unfold State.leanExit
  repeat' first
    | with_reducible assumption
    | (unfold x; clear x)
    | (extract_lets -merge -useContext +onlyGivenNames x; first | (refine keeps_cut (s0 := z) x ?_ (fun hx => ?_); rotate_left; clear_value x) | clear_value x)
    | with_reducible apply setpointMove_keeps
    | with_reducible apply put_keeps
    | with_reducible apply alarm_keeps
    | split
    | exact keeps_in (keeps_out hx)
    | exact keeps_in (keeps_out hs)
    | (refine keeps_in ?_; dsimp only; exact keeps_out (by with_reducible assumption))
    | dsimp only

theorem exRefresh_keeps {z : State} {s : State} (hs : Keeps z s) : Keeps z (State.exRefresh s) := by
  unfold State.exRefresh
  repeat' first
    | with_reducible assumption
    | (unfold x; clear x)
    | (extract_lets -merge -useContext +onlyGivenNames x; first | (refine keeps_cut (s0 := z) x ?_ (fun hx => ?_); rotate_left; clear_value x) | clear_value x)
    | with_reducible apply put_keeps
    | with_reducible apply notice_keeps
    | with_reducible apply alarm_keeps
    | with_reducible apply leanExit_keeps
    | with_reducible refine keeps_foldl ?_ (fun t b ht => ?_)
    | with_reducible refine keeps_foldl_fst ?_ (fun t b ht => ?_)
    | with_reducible refine keeps_foldl_snd ?_ (fun t b ht => ?_)
    | split
    | exact keeps_in (keeps_out hx)
    | exact keeps_in (keeps_out hs)
    | exact keeps_in (keeps_out ht)
    | (refine keeps_in ?_; dsimp only; exact keeps_out (by with_reducible assumption))
    | dsimp only

theorem enterGroup_keeps {z : State} {s : State} (hs : Keeps z s) (q : List Nat) (a : Nat) (b : Nat) (ign : Bool) : Keeps z (State.enterGroup s q a b ign) := by
  unfold State.enterGroup
  repeat' first
    | with_reducible assumption
    | (unfold x; clear x)
    | (extract_lets -merge -useContext +onlyGivenNames x; first | (refine keeps_cut (s0 := z) x ?_ (fun hx => ?_); rotate_left; clear_value x) | clear_value x)
    | with_reducible apply setTask_keeps
    | with_reducible refine keeps_foldl ?_ (fun t b ht => ?_)
    | with_reducible refine keeps_foldl_fst ?_ (fun t b ht => ?_)
    | with_reducible refine keeps_foldl_snd ?_ (fun t b ht => ?_)
    | split
    | exact keeps_in (keeps_out hx)
    | exact keeps_in (keeps_out hs)
    | exact keeps_in (keeps_out ht)
    | (refine keeps_in ?_; dsimp only; exact keeps_out (by with_reducible assumption))
    | dsimp only

theorem placeGroup_keeps {z s : State} (h : Keeps z s) (q : List Nat) : ∀ t, State.placeGroup s q = some t → Keeps z t := by
  intro t e
  unfold State.placeGroup at e
  dsimp only at e
  split at e
  · split at e
    · cases e; exact enterGroup_keeps h _ _ _ _
    · cases e
  · split at e
    · cases e
    · cases e
      exact keeps_ite (notice_keeps (enterGroup_keeps h _ _ _ _) _ _ _ _ _) (enterGroup_keeps h _ _ _ _)

theorem placeGroups_keeps {z s : State} (h : Keeps z s) (l : List (List Nat)) : ∀ t, State.placeGroups s l = some t → Keeps z t := by
  have k : ∀ (l : List (List Nat)) (o : Option State), (∀ t, o = some t → Keeps z t) → ∀ t,
      l.foldl (fun o q => match o with | none => none | some s => State.placeGroup s q) o = some t → Keeps z t := by
    intro l
    induction l with
    | nil => exact fun o ho => ho
    | cons q l ih =>
      refine fun o ho => ih _ ?_
      cases o with
      | none => intro t e; cases e
      | some s => exact placeGroup_keeps (ho s rfl) q
  intro t e
  unfold State.placeGroups at e
  dsimp only at e
  split at e
  · cases e
  · exact k _ _ (fun t e => by cases e; exact h) t e

theorem goHome_keeps {z : State} {s : State} (hs : Keeps z s) (u : Undo) : Keeps z (State.goHome s u) := by
  have k : ∀ (l : Changes Int) (t : Tbl Int), rising t → rising (State.objsBack l t) := by
    unfold State.objsBack
    intro l
    induction l with
    | nil => exact fun t h => h
    | cons e l ih =>
      intro t h
      rw [List.foldl_cons]
      refine ih _ ?_
      split
      · exact rising_set _ _ _ h
      · exact h
  exact keeps_in { keeps_out hs with keys := k _ _ (keeps_out hs).keys }

theorem loseDue_keeps {z : State} {s : State} (hs : Keeps z s) (k : Nat) (p : Due → Bool) : Keeps z (State.loseDue s k p) := by
  unfold State.loseDue
  repeat' first
    | with_reducible assumption
    | (unfold x; clear x)
    | (extract_lets -merge -useContext +onlyGivenNames x; first | (refine keeps_cut (s0 := z) x ?_ (fun hx => ?_); rotate_left; clear_value x) | (refine keeps_cut (s0 := z) x.1 ?_ (fun hx => ?_); rotate_left; clear_value x) | (refine keeps_cut (s0 := z) x.2 ?_ (fun hx => ?_); rotate_left; clear_value x) | (refine keeps_cut (s0 := z) x.2.2 ?_ (fun hx => ?_); rotate_left; clear_value x) | clear_value x)
    | with_reducible apply goHome_keeps
    | with_reducible apply put_keeps
    | with_reducible refine keeps_foldl ?_ (fun t b ht => ?_)
    | with_reducible refine keeps_foldl_fst ?_ (fun t b ht => ?_)
    | with_reducible refine keeps_foldl_snd ?_ (fun t b ht => ?_)
    | split
    | exact keeps_in (keeps_out hx)
    | exact keeps_in (keeps_out hs)
    | exact keeps_in (keeps_out ht)
    | (refine keeps_in ?_; dsimp only; exact keeps_out (by with_reducible assumption))
    | dsimp only

theorem zeroState_keeps {z : State} {s : State} (hs : Keeps z s) (t : Nat) : Keeps z (State.zeroState s t) := by
  have h : ∀ {s : State} (m : Mem) (i : Nat) (l : Tbl LoopX), Keeps z s → Keeps z { s.putF m i F32.zero with loopx := l } :=
    fun m i l hs => keeps_in (keeps_out (putF_keeps hs m i F32.zero 0))
  unfold State.zeroState
  dsimp only
  repeat' first
    | with_reducible assumption
    | with_reducible apply put_keeps
    | with_reducible apply putF_keeps
    | split
    | exact keeps_in (keeps_out hs)
    | refine h _ _ _ ?_

theorem dispatch_keeps {z : State} {s : State} (hs : Keeps z s) (cls : Nat) (i : Nat) (on : Bool) : Keeps z (State.dispatch s cls i on) := by
  unfold State.dispatch
  repeat' first
    | with_reducible assumption
    | (unfold x; clear x)
    | (extract_lets -merge -useContext +onlyGivenNames x; first | (refine keeps_cut (s0 := z) x ?_ (fun hx => ?_); rotate_left; clear_value x) | clear_value x)
    | with_reducible apply setTaskSt_keeps
    | with_reducible refine keeps_foldl ?_ (fun t b ht => ?_)
    | with_reducible apply zeroState_keeps
    | with_reducible apply setTask_keeps
    | with_reducible refine keeps_foldl_fst ?_ (fun t b ht => ?_)
    | with_reducible refine keeps_foldl_snd ?_ (fun t b ht => ?_)
    | split
    | exact keeps_in (keeps_out hx)
    | exact keeps_in (keeps_out hs)
    | exact keeps_in (keeps_out ht)
    | (refine keeps_in ?_; dsimp only; exact keeps_out (by with_reducible assumption))
    | dsimp only

theorem removeTask_keeps {z : State} {s : State} (hs : Keeps z s) (t : Nat) : Keeps z (State.removeTask s t) := by
  unfold State.removeTask
  repeat' first
    | with_reducible assumption
    | (unfold x; clear x)
    | (extract_lets -merge -useContext +onlyGivenNames x; first | (refine keeps_cut (s0 := z) x ?_ (fun hx => ?_); rotate_left; clear_value x) | (refine keeps_cut (s0 := z) x.1 ?_ (fun hx => ?_); rotate_left; clear_value x) | (refine keeps_cut (s0 := z) x.2 ?_ (fun hx => ?_); rotate_left; clear_value x) | (refine keeps_cut (s0 := z) x.2.2 ?_ (fun hx => ?_); rotate_left; clear_value x) | clear_value x)
    | with_reducible apply incWrap_keeps
    | with_reducible apply put_keeps
    | with_reducible apply notice_keeps
    | split
    | exact keeps_in (keeps_out hx)
    | exact keeps_in (keeps_out hs)
    | (refine keeps_in ?_; dsimp only; exact keeps_out (by with_reducible assumption))
    | dsimp only

theorem removeTasks_keeps {z : State} {s : State} (hs : Keeps z s) (cls : Nat) (i : Nat) : Keeps z (State.removeTasks s cls i) := by
  unfold State.removeTasks
  repeat' first
    | with_reducible assumption
    | (unfold x; clear x)
    | (extract_lets -merge -useContext +onlyGivenNames x; first | (refine keeps_cut (s0 := z) x ?_ (fun hx => ?_); rotate_left; clear_value x) | clear_value x)
    | with_reducible apply incWrap_keeps
    | with_reducible apply notice_keeps
    | with_reducible apply exRefresh_keeps
    | with_reducible apply toBalance_keeps
    | with_reducible refine keeps_foldl ?_ (fun t b ht => ?_)
    | with_reducible apply removeTask_keeps
    | with_reducible refine keeps_foldl_fst ?_ (fun t b ht => ?_)
    | with_reducible refine keeps_foldl_snd ?_ (fun t b ht => ?_)
    | split
    | exact keeps_in (keeps_out hx)
    | exact keeps_in (keeps_out hs)
    | exact keeps_in (keeps_out ht)
    | (refine keeps_in ?_; dsimp only; exact keeps_out (by with_reducible assumption))
    | dsimp only

theorem abandon_keeps {z : State} {s : State} (hs : Keeps z s) (m : Mig) (code : Nat) : Keeps z (State.abandon s m code) := by
  unfold State.abandon
  repeat' first
    | with_reducible assumption
    | (unfold x; clear x)
    | (extract_lets -merge -useContext +onlyGivenNames x; first | (refine keeps_cut (s0 := z) x ?_ (fun hx => ?_); rotate_left; clear_value x) | clear_value x)
    | with_reducible apply setTask_keeps
    | with_reducible apply notice_keeps
    | split
    | exact keeps_in (keeps_out hx)
    | exact keeps_in (keeps_out hs)
    | (refine keeps_in ?_; dsimp only; exact keeps_out (by with_reducible assumption))
    | dsimp only

theorem switchIn_keeps {z : State} {s : State} (hs : Keeps z s) (m : Mig) : Keeps z (State.switchIn s m) := by
  unfold State.switchIn
  repeat' first
    | with_reducible assumption
    | (unfold x; clear x)
    | (extract_lets -merge -useContext +onlyGivenNames x; first | (refine keeps_cut (s0 := z) x ?_ (fun hx => ?_); rotate_left; clear_value x) | clear_value x)
    | with_reducible apply setTask_keeps
    | with_reducible apply exRefresh_keeps
    | with_reducible apply notice_keeps
    | split
    | exact keeps_in (keeps_out hx)
    | exact keeps_in (keeps_out hs)
    | (refine keeps_in ?_; dsimp only; exact keeps_out (by with_reducible assumption))
    | dsimp only

theorem endCopy_keeps {z : State} {s : State} (hs : Keeps z s) (e : Nat) (t : Nat) : Keeps z (State.endCopy s e t) := by
  unfold State.endCopy
  repeat' first
    | with_reducible assumption
    | (unfold x; clear x)
    | with_reducible refine keeps_snd (by with_reducible assumption) ?_
    | with_reducible refine keeps_fst (by with_reducible assumption) ?_
    | (extract_lets -merge -useContext +onlyGivenNames x; first | (refine keeps_cut (s0 := z) x ?_ (fun hx => ?_); rotate_left; clear_value x) | (refine keeps_cut (s0 := z) x.1 ?_ (fun hx => ?_); rotate_left; clear_value x) | (refine keeps_cut (s0 := z) x.2 ?_ (fun hx => ?_); rotate_left; clear_value x) | clear_value x)
    | with_reducible apply setTask_keeps
    | with_reducible apply loseDue_keeps
    | split
    | exact keeps_in (keeps_out hx)
    | exact keeps_in (keeps_out hs)
    | (refine keeps_in ?_; dsimp only; exact keeps_out (by with_reducible assumption))
    | dsimp only

theorem endMigs_keeps {z : State} {s : State} (hs : Keeps z s) (e : Nat) (bad : List Nat) : Keeps z (State.endMigs s e bad) := by
  unfold State.endMigs
  repeat' first
    | with_reducible assumption
    | (unfold x; clear x)
    | (extract_lets -merge -useContext +onlyGivenNames x; first | (refine keeps_cut (s0 := z) x ?_ (fun hx => ?_); rotate_left; clear_value x) | clear_value x)
    | with_reducible apply abandon_keeps
    | with_reducible apply switchIn_keeps
    | with_reducible refine keeps_foldl ?_ (fun t b ht => ?_)
    | with_reducible refine keeps_foldl_fst ?_ (fun t b ht => ?_)
    | with_reducible refine keeps_foldl_snd ?_ (fun t b ht => ?_)
    | split
    | exact keeps_in (keeps_out hx)
    | exact keeps_in (keeps_out hs)
    | exact keeps_in (keeps_out ht)
    | (refine keeps_in ?_; dsimp only; exact keeps_out (by with_reducible assumption))
    | dsimp only

theorem isolate_keeps {z : State} {s : State} (hs : Keeps z s) (e : Nat) (bad : List Nat) : Keeps z (State.isolate s e bad) := by
  unfold State.isolate
  repeat' first
    | with_reducible assumption
    | (unfold x; clear x)
    | (extract_lets -merge -useContext +onlyGivenNames x; first | (refine keeps_cut (s0 := z) x ?_ (fun hx => ?_); rotate_left; clear_value x) | have _ : Mram := x | clear_value x)
    | with_reducible apply setEng_keeps
    | with_reducible apply notice_keeps
    | with_reducible apply endMigs_keeps
    | with_reducible apply endCopy_keeps
    | with_reducible apply alarm_keeps
    | with_reducible apply exRefresh_keeps
    | with_reducible apply toBalance_keeps
    | with_reducible refine keeps_foldl ?_ (fun t b ht => ?_)
    | with_reducible refine keeps_foldl_fst ?_ (fun t b ht => ?_)
    | with_reducible refine keeps_foldl_snd ?_ (fun t b ht => ?_)
    | split
    | exact keeps_in (keeps_out hx)
    | exact keeps_in (keeps_out hs)
    | exact keeps_in (keeps_out ht)
    | (refine keeps_in ?_; dsimp only; exact keeps_out (by with_reducible assumption))
    | dsimp only

theorem replaceTasks_keeps {z : State} {s : State} (hs : Keeps z s) : Keeps z (State.replaceTasks s).1 := by
  unfold State.replaceTasks
  repeat' first
    | with_reducible assumption
    | (unfold x; clear x)
    | with_reducible refine keeps_snd (by with_reducible assumption) ?_
    | with_reducible refine keeps_fst (by with_reducible assumption) ?_
    | with_reducible refine keeps_third (by with_reducible assumption) ?_
    | with_reducible refine keeps_mid (by with_reducible assumption) ?_
    | (extract_lets -merge -useContext +onlyGivenNames x; first | (refine keeps_cut (s0 := z) x ?_ (fun hx => ?_); rotate_left; clear_value x) | (refine keeps_cut (s0 := z) x.1 ?_ (fun hx => ?_); rotate_left; clear_value x) | (refine keeps_cut (s0 := z) x.2 ?_ (fun hx => ?_); rotate_left; clear_value x) | clear_value x)
    | with_reducible apply setTask_keeps
    | with_reducible apply exRefresh_keeps
    | with_reducible apply notice_keeps
    | with_reducible refine keeps_foldl ?_ (fun t b ht => ?_)
    | (with_reducible refine keeps_foldl_fst ?_ (fun t b ht => ?_); rotate_left; rcases t with ⟨t, r⟩; dsimp -zeta only at ht ⊢)
    | (with_reducible refine keeps_foldl_snd ?_ (fun t b ht => ?_); rotate_left; rcases t with ⟨r, t⟩; dsimp -zeta only at ht ⊢)
    | with_reducible apply setTaskSt_keeps
    | with_reducible refine keeps_foldl_fst ?_ (fun t b ht => ?_)
    | with_reducible refine keeps_foldl_snd ?_ (fun t b ht => ?_)
    | split
    | exact keeps_in (keeps_out hx)
    | exact keeps_in (keeps_out hs)
    | exact keeps_in (keeps_out ht)
    | (refine keeps_in ?_; dsimp only; exact keeps_out (by with_reducible assumption))
    | dsimp only

theorem reduplicate_keeps {z : State} {s : State} (hs : Keeps z s) : Keeps z (State.reduplicate s) := by
  unfold State.reduplicate
  repeat' first
    | with_reducible assumption
    | (unfold x; clear x)
    | with_reducible refine keeps_snd (by with_reducible assumption) ?_
    | with_reducible refine keeps_fst (by with_reducible assumption) ?_
    | with_reducible refine keeps_third (by with_reducible assumption) ?_
    | with_reducible refine keeps_mid (by with_reducible assumption) ?_
    | (extract_lets -merge -useContext +onlyGivenNames x; first | (refine keeps_cut (s0 := z) x ?_ (fun hx => ?_); rotate_left; clear_value x) | (refine keeps_cut (s0 := z) x.1 ?_ (fun hx => ?_); rotate_left; clear_value x) | (refine keeps_cut (s0 := z) x.2 ?_ (fun hx => ?_); rotate_left; clear_value x) | clear_value x)
    | with_reducible apply setTask_keeps
    | with_reducible apply notice_keeps
    | with_reducible apply isolate_keeps
    | with_reducible refine keeps_foldl ?_ (fun t b ht => ?_)
    | (with_reducible refine keeps_foldl_fst ?_ (fun t b ht => ?_); rotate_left; rcases t with ⟨t, r⟩; dsimp -zeta only at ht ⊢)
    | (with_reducible refine keeps_foldl_snd ?_ (fun t b ht => ?_); rotate_left; rcases t with ⟨r, t⟩; dsimp -zeta only at ht ⊢)
    | with_reducible refine keeps_foldl_fst ?_ (fun t b ht => ?_)
    | with_reducible refine keeps_foldl_snd ?_ (fun t b ht => ?_)
    | split
    | exact keeps_in (keeps_out hx)
    | exact keeps_in (keeps_out hs)
    | exact keeps_in (keeps_out ht)
    | (refine keeps_in ?_; dsimp only; exact keeps_out (by with_reducible assumption))
    | dsimp only

theorem unresolved_keeps {z : State} {s : State} (hs : Keeps z s) (t : Nat) (p : Nat) (q : Nat) : Keeps z (State.unresolved s t p q) := by
  unfold State.unresolved
  repeat' first
    | with_reducible assumption
    | (unfold x; clear x)
    | with_reducible refine keeps_snd (by with_reducible assumption) ?_
    | with_reducible refine keeps_fst (by with_reducible assumption) ?_
    | (extract_lets -merge -useContext +onlyGivenNames x; first | (refine keeps_cut (s0 := z) x ?_ (fun hx => ?_); rotate_left; clear_value x) | (refine keeps_cut (s0 := z) x.1 ?_ (fun hx => ?_); rotate_left; clear_value x) | (refine keeps_cut (s0 := z) x.2 ?_ (fun hx => ?_); rotate_left; clear_value x) | clear_value x)
    | with_reducible apply notice_keeps
    | with_reducible apply alarm_keeps
    | split
    | exact keeps_in (keeps_out hx)
    | exact keeps_in (keeps_out hs)
    | (refine keeps_in ?_; dsimp only; exact keeps_out (by with_reducible assumption))
    | dsimp only

theorem disagree_keeps {z : State} {s : State} (hs : Keeps z s) (t : Nat) (pa : Bool) (pb : Bool) : Keeps z (State.disagree s t pa pb).1 := by
  unfold State.disagree
  repeat' first
    | with_reducible assumption
    | (unfold x; clear x)
    | with_reducible refine keeps_snd (by with_reducible assumption) ?_
    | with_reducible refine keeps_fst (by with_reducible assumption) ?_
    | (extract_lets -merge -useContext +onlyGivenNames x; first | (refine keeps_cut (s0 := z) x ?_ (fun hx => ?_); rotate_left; clear_value x) | (refine keeps_cut (s0 := z) x.1 ?_ (fun hx => ?_); rotate_left; clear_value x) | (refine keeps_cut (s0 := z) x.2 ?_ (fun hx => ?_); rotate_left; clear_value x) | clear_value x)
    | with_reducible apply notice_keeps
    | with_reducible apply unresolved_keeps
    | with_reducible apply isolate_keeps
    | split
    | exact keeps_in (keeps_out hx)
    | exact keeps_in (keeps_out hs)
    | (refine keeps_in ?_; dsimp only; exact keeps_out (by with_reducible assumption))
    | dsimp only

theorem engineFault_keeps {z : State} {s : State} (hs : Keeps z s) (e : Nat) (why : Nat) (bad : List Nat) : Keeps z (State.engineFault s e why bad) := by
  unfold State.engineFault
  repeat' first
    | with_reducible assumption
    | (unfold x; clear x)
    | (extract_lets -merge -useContext +onlyGivenNames x; first | (refine keeps_cut (s0 := z) x ?_ (fun hx => ?_); rotate_left; clear_value x) | clear_value x)
    | with_reducible apply setEng_keeps
    | with_reducible apply alarm_keeps
    | with_reducible apply notice_keeps
    | with_reducible apply isolate_keeps
    | split
    | exact keeps_in (keeps_out hx)
    | exact keeps_in (keeps_out hs)
    | (refine keeps_in ?_; dsimp only; exact keeps_out (by with_reducible assumption))
    | dsimp only

theorem engineTestStart_keeps {z : State} {s : State} (hs : Keeps z s) : Keeps z (State.engineTestStart s) := by
  unfold State.engineTestStart
  repeat' first
    | with_reducible assumption
    | (unfold x; clear x)
    | (extract_lets -merge -useContext +onlyGivenNames x; first | (refine keeps_cut (s0 := z) x ?_ (fun hx => ?_); rotate_left; clear_value x) | clear_value x)
    | with_reducible apply exRefresh_keeps
    | with_reducible apply put_keeps
    | with_reducible apply setEng_keeps
    | split
    | exact keeps_in (keeps_out hx)
    | exact keeps_in (keeps_out hs)
    | (refine keeps_in ?_; dsimp only; exact keeps_out (by with_reducible assumption))
    | dsimp only

theorem engineTestDone_keeps {z : State} {s : State} (hs : Keeps z s) (pass : Bool) (ms : F32) : Keeps z (State.engineTestDone s pass ms) := by
  unfold State.engineTestDone
  repeat' first
    | with_reducible assumption
    | (unfold x; clear x)
    | with_reducible refine keeps_snd (by with_reducible assumption) ?_
    | with_reducible refine keeps_fst (by with_reducible assumption) ?_
    | with_reducible refine keeps_third (by with_reducible assumption) ?_
    | with_reducible refine keeps_mid (by with_reducible assumption) ?_
    | (extract_lets -merge -useContext +onlyGivenNames x; first | (refine keeps_cut (s0 := z) x ?_ (fun hx => ?_); rotate_left; clear_value x) | (refine keeps_cut (s0 := z) x.1 ?_ (fun hx => ?_); rotate_left; clear_value x) | (refine keeps_cut (s0 := z) x.2 ?_ (fun hx => ?_); rotate_left; clear_value x) | have _ : Mram := x | clear_value x)
    | with_reducible apply putF_keeps
    | with_reducible apply put_keeps
    | with_reducible apply notice_keeps
    | with_reducible apply setEng_keeps
    | with_reducible apply alarm_keeps
    | with_reducible apply exRefresh_keeps
    | with_reducible apply toBalance_keeps
    | with_reducible apply isolate_keeps
    | split
    | exact keeps_in (keeps_out hx)
    | exact keeps_in (keeps_out hs)
    | (refine keeps_in ?_; dsimp only; exact keeps_out (by with_reducible assumption))
    | dsimp only

theorem clearRetired_keeps {z : State} {s : State} (hs : Keeps z s) (keep : Nat) : Keeps z (State.clearRetired s keep) := by
  unfold State.clearRetired
  repeat' first
    | with_reducible assumption
    | (unfold x; clear x)
    | (extract_lets -merge -useContext +onlyGivenNames x; first | (refine keeps_cut (s0 := z) x ?_ (fun hx => ?_); rotate_left; clear_value x) | have _ : Mram := x | clear_value x)
    | with_reducible apply setEng_keeps
    | with_reducible apply exRefresh_keeps
    | with_reducible refine keeps_foldl ?_ (fun t b ht => ?_)
    | split
    | exact keeps_in (keeps_out hx)
    | exact keeps_in (keeps_out hs)
    | exact keeps_in (keeps_out ht)
    | (refine keeps_in ?_; dsimp only; exact keeps_out (by with_reducible assumption))
    | dsimp only

theorem prepare_keeps {z : State} {s : State} (hs : Keeps z s) (m : Mig) : Keeps z (State.prepare s m) := by
  unfold State.prepare
  repeat' first
    | with_reducible assumption
    | (unfold x; clear x)
    | (extract_lets -merge -useContext +onlyGivenNames x; first | (refine keeps_cut (s0 := z) x ?_ (fun hx => ?_); rotate_left; clear_value x) | clear_value x)
    | with_reducible apply setTask_keeps
    | with_reducible apply notice_keeps
    | split
    | exact keeps_in (keeps_out hx)
    | exact keeps_in (keeps_out hs)
    | (refine keeps_in ?_; dsimp only; exact keeps_out (by with_reducible assumption))
    | dsimp only

theorem migrationStep_keeps {z : State} {s : State} (hs : Keeps z s) (failed : List Nat) (differ : List Nat) : Keeps z (State.migrationStep s failed differ) := by
  unfold State.migrationStep
  repeat' first
    | with_reducible assumption
    | (unfold x; clear x)
    | with_reducible refine keeps_snd (by with_reducible assumption) ?_
    | with_reducible refine keeps_fst (by with_reducible assumption) ?_
    | (extract_lets -merge -useContext +onlyGivenNames x; first | (refine keeps_cut (s0 := z) x ?_ (fun hx => ?_); rotate_left; clear_value x) | (refine keeps_cut (s0 := z) x.1 ?_ (fun hx => ?_); rotate_left; clear_value x) | (refine keeps_cut (s0 := z) x.2 ?_ (fun hx => ?_); rotate_left; clear_value x) | clear_value x)
    | with_reducible apply abandon_keeps
    | with_reducible apply isolate_keeps
    | with_reducible apply switchIn_keeps
    | with_reducible apply prepare_keeps
    | with_reducible refine keeps_foldl ?_ (fun t b ht => ?_)
    | (with_reducible refine keeps_foldl_fst ?_ (fun t b ht => ?_); rotate_left; rcases t with ⟨t, r⟩; dsimp -zeta only at ht ⊢)
    | (with_reducible refine keeps_foldl_snd ?_ (fun t b ht => ?_); rotate_left; rcases t with ⟨r, t⟩; dsimp -zeta only at ht ⊢)
    | split
    | exact keeps_in (keeps_out hx)
    | exact keeps_in (keeps_out hs)
    | exact keeps_in (keeps_out ht)
    | (refine keeps_in ?_; dsimp only; exact keeps_out (by with_reducible assumption))
    | dsimp only

theorem dropDuplicate_keeps {z : State} {s : State} (hs : Keeps z s) (t : Nat) : Keeps z (State.dropDuplicate s t) := by
  unfold State.dropDuplicate
  repeat' first
    | with_reducible assumption
    | (unfold x; clear x)
    | (extract_lets -merge -useContext +onlyGivenNames x; first | (refine keeps_cut (s0 := z) x ?_ (fun hx => ?_); rotate_left; clear_value x) | (refine keeps_cut (s0 := z) x.1 ?_ (fun hx => ?_); rotate_left; clear_value x) | (refine keeps_cut (s0 := z) x.2 ?_ (fun hx => ?_); rotate_left; clear_value x) | (refine keeps_cut (s0 := z) x.2.2 ?_ (fun hx => ?_); rotate_left; clear_value x) | clear_value x)
    | with_reducible apply abandon_keeps
    | with_reducible apply setTask_keeps
    | with_reducible apply notice_keeps
    | with_reducible refine keeps_foldl ?_ (fun t b ht => ?_)
    | with_reducible refine keeps_foldl_fst ?_ (fun t b ht => ?_)
    | with_reducible refine keeps_foldl_snd ?_ (fun t b ht => ?_)
    | split
    | exact keeps_in (keeps_out hx)
    | exact keeps_in (keeps_out hs)
    | exact keeps_in (keeps_out ht)
    | (refine keeps_in ?_; dsimp only; exact keeps_out (by with_reducible assumption))
    | dsimp only

theorem releaseDuplicates_keeps {z : State} {s : State} (hs : Keeps z s) : Keeps z (State.releaseDuplicates s) := by
  unfold State.releaseDuplicates
  repeat' first
    | with_reducible assumption
    | (unfold x; clear x)
    | (extract_lets -merge -useContext +onlyGivenNames x; first | (refine keeps_cut (s0 := z) x ?_ (fun hx => ?_); rotate_left; clear_value x) | clear_value x)
    | with_reducible apply abandon_keeps
    | with_reducible apply setTaskSt_keeps
    | with_reducible apply notice_keeps
    | with_reducible apply setTask_keeps
    | with_reducible apply exRefresh_keeps
    | with_reducible apply put_keeps
    | with_reducible refine keeps_foldl ?_ (fun t b ht => ?_)
    | with_reducible apply dropDuplicate_keeps
    | with_reducible refine keeps_foldl_fst ?_ (fun t b ht => ?_)
    | with_reducible refine keeps_foldl_snd ?_ (fun t b ht => ?_)
    | split
    | exact keeps_in (keeps_out hx)
    | exact keeps_in (keeps_out hs)
    | exact keeps_in (keeps_out ht)
    | (refine keeps_in ?_; dsimp only; exact keeps_out (by with_reducible assumption))
    | dsimp only

theorem hintChanged_keeps {z : State} {s : State} (hs : Keeps z s) (ts : List Nat) : Keeps z (State.hintChanged s ts) := by
  unfold State.hintChanged
  repeat' first
    | with_reducible assumption
    | (unfold x; clear x)
    | (extract_lets -merge -useContext +onlyGivenNames x; first | (refine keeps_cut (s0 := z) x ?_ (fun hx => ?_); rotate_left; clear_value x) | clear_value x)
    | with_reducible apply exRefresh_keeps
    | with_reducible apply toBalance_keeps
    | with_reducible apply setTask_keeps
    | with_reducible apply notice_keeps
    | with_reducible refine keeps_foldl ?_ (fun t b ht => ?_)
    | with_reducible apply dropDuplicate_keeps
    | with_reducible refine keeps_foldl_fst ?_ (fun t b ht => ?_)
    | with_reducible refine keeps_foldl_snd ?_ (fun t b ht => ?_)
    | split
    | exact keeps_in (keeps_out hx)
    | exact keeps_in (keeps_out hs)
    | exact keeps_in (keeps_out ht)
    | (refine keeps_in ?_; dsimp only; exact keeps_out (by with_reducible assumption))
    | dsimp only

theorem ffTiles_keeps {z : State} {s : State} (hs : Keeps z s) (x : Nat) : Keeps z (State.ffTiles s x) := by
  unfold State.ffTiles
  repeat' first
    | with_reducible assumption
    | (unfold x; clear x)
    | (extract_lets -merge -useContext +onlyGivenNames x; first | (refine keeps_cut (s0 := z) x ?_ (fun hx => ?_); rotate_left; clear_value x) | (refine keeps_cut (s0 := z) x.1 ?_ (fun hx => ?_); rotate_left; clear_value x) | (refine keeps_cut (s0 := z) x.2 ?_ (fun hx => ?_); rotate_left; clear_value x) | (refine keeps_cut (s0 := z) x.2.2 ?_ (fun hx => ?_); rotate_left; clear_value x) | clear_value x)
    | with_reducible apply setTask_keeps
    | split
    | exact keeps_in (keeps_out hx)
    | exact keeps_in (keeps_out hs)
    | (refine keeps_in ?_; dsimp only; exact keeps_out (by with_reducible assumption))
    | dsimp only

theorem mirrorAll_keeps {z : State} {s : State} (hs : Keeps z s) : Keeps z (State.mirrorAll s) := by
  unfold State.mirrorAll
  repeat' first
    | with_reducible assumption
    | (unfold x; clear x)
    | (extract_lets -merge -useContext +onlyGivenNames x; first | (refine keeps_cut (s0 := z) x ?_ (fun hx => ?_); rotate_left; clear_value x) | clear_value x)
    | with_reducible apply setTask_keeps
    | with_reducible refine keeps_foldl ?_ (fun t b ht => ?_)
    | split
    | exact keeps_in (keeps_out hx)
    | exact keeps_in (keeps_out hs)
    | exact keeps_in (keeps_out ht)
    | (refine keeps_in ?_; dsimp only; exact keeps_out (by with_reducible assumption))
    | dsimp only

theorem placed_keeps {z : State} {s : State} (hs : Keeps z s) (t : Nat) : Keeps z (State.placed s t) := by
  unfold State.placed
  repeat' first
    | with_reducible assumption
    | (unfold x; clear x)
    | with_reducible refine keeps_snd (by with_reducible assumption) ?_
    | with_reducible refine keeps_fst (by with_reducible assumption) ?_
    | with_reducible refine keeps_third (by with_reducible assumption) ?_
    | with_reducible refine keeps_mid (by with_reducible assumption) ?_
    | (extract_lets -merge -useContext +onlyGivenNames x; first | (refine keeps_cut (s0 := z) x ?_ (fun hx => ?_); rotate_left; clear_value x) | (refine keeps_cut (s0 := z) x.1 ?_ (fun hx => ?_); rotate_left; clear_value x) | (refine keeps_cut (s0 := z) x.2 ?_ (fun hx => ?_); rotate_left; clear_value x) | clear_value x)
    | with_reducible apply setTask_keeps
    | with_reducible apply notice_keeps
    | with_reducible apply put_keeps
    | with_reducible apply exRefresh_keeps
    | with_reducible apply toBalance_keeps
    | split
    | exact keeps_in (keeps_out hx)
    | exact keeps_in (keeps_out hs)
    | (refine keeps_in ?_; dsimp only; exact keeps_out (by with_reducible assumption))
    | dsimp only

theorem vengNear_keeps {z : State} {s : State} (hs : Keeps z s) (mv : Nat) : Keeps z (State.vengNear s mv) := by
  unfold State.vengNear
  repeat' first
    | with_reducible assumption
    | (unfold x; clear x)
    | with_reducible refine keeps_snd (by with_reducible assumption) ?_
    | with_reducible refine keeps_fst (by with_reducible assumption) ?_
    | (extract_lets -merge -useContext +onlyGivenNames x; first | (refine keeps_cut (s0 := z) x ?_ (fun hx => ?_); rotate_left; clear_value x) | (refine keeps_cut (s0 := z) x.1 ?_ (fun hx => ?_); rotate_left; clear_value x) | (refine keeps_cut (s0 := z) x.2 ?_ (fun hx => ?_); rotate_left; clear_value x) | clear_value x)
    | with_reducible apply takeInt_keeps
    | with_reducible apply put_keeps
    | split
    | exact keeps_in (keeps_out hx)
    | exact keeps_in (keeps_out hs)
    | (refine keeps_in ?_; dsimp only; exact keeps_out (by with_reducible assumption))
    | dsimp only

end Sys2Proof.Laws
end

