-- ==== Sys2Proof/Laws/Gate.lean ====
section
/-! SUPPORT. What the operations of `Machine/Gate.lean` keep. -/
namespace Sys2Proof.Laws
open Machine Safety

theorem legsOk_put (t : Tbl Leg) (l : Nat) (x : Leg) (h : legsOk t) (hx : legOk x) : legsOk (t.put {} l x) := by
  intro k
  by_cases e : k = l
  · subst e; rw [find_put, if_pos rfl]; exact hx
  · rw [find_put_ne _ _ _ _ e]; exact h k

theorem setLeg_keeps {z s : State} (hs : Keeps z s) (l : Nat) {x : Leg} (hx : legOk x) : Keeps z (s.setLeg l x) :=
  keeps_in { keeps_out hs with leg := legsOk_put _ _ _ (keeps_out hs).leg hx }

theorem leg_ok {z s : State} (hs : Keeps z s) (l : Nat) : legOk (s.leg l) := (keeps_out hs).leg l

theorem leg_cut (x : Leg) {P : Prop} (h : legOk x) (k : legOk x → P) : P := k h

/-- A leg with the same commands. -/
theorem leg_keep {x y : Leg} (hx : legOk x) (h : y.hi.cmd = x.hi.cmd) (l : y.lo.cmd = x.lo.cmd) : legOk y := by
  unfold legOk at *; rw [h, l]; exact hx

/-- A switch of the leg is replaced by one that is not commanded on, or by one with the same command. -/
theorem leg_setSw_off {x : Leg} (low : Bool) {w : Switch} (h : w.cmd = false) : legOk (x.setSw low w) := by
  unfold legOk Leg.setSw; cases low <;> simp [h]
theorem leg_setSw_same {x : Leg} (hx : legOk x) (low : Bool) {w : Switch} (h : w.cmd = (x.sw low).cmd) :
    legOk (x.setSw low w) := by
  unfold legOk Leg.setSw Leg.sw at *; cases low <;> simp_all
/-- A switch goes on while the other is not commanded on. -/
theorem leg_setSw_on {x : Leg} (low : Bool) {w : Switch} (h : (x.sw (!low)).cmd = false) : legOk (x.setSw low w) := by
  unfold legOk Leg.setSw Leg.sw at *; cases low <;> simp_all
/-- A leg whose switches are commanded on only where those of `x` are. -/
theorem leg_le {x y : Leg} (hx : legOk x) (h : y.hi.cmd = true → x.hi.cmd = true) (l : y.lo.cmd = true → x.lo.cmd = true) :
    legOk y := fun e => hx ⟨h e.1, l e.2⟩

theorem setStg_keeps {z : State} {s : State} (hs : Keeps z s) (i : Nat) (x : StageX) : Keeps z (State.setStg s i x) := by
  unfold State.setStg
  repeat' first
    | with_reducible assumption
    | (unfold x; clear x)
    | (extract_lets -merge -useContext +onlyGivenNames x; first | (refine keeps_cut (s0 := z) x ?_ (fun hx => ?_); rotate_left; clear_value x) | clear_value x)
    | split
    | exact keeps_in (keeps_out hx)
    | exact keeps_in (keeps_out hs)
    | (refine keeps_in ?_; dsimp only; exact keeps_out (by with_reducible assumption))
    | dsimp only

theorem atOff_keeps {z : State} {s : State} (hs : Keeps z s) (o : Nat) : Keeps z (State.atOff s o) := by
  unfold State.atOff
  repeat' first
    | with_reducible assumption
    | (unfold x; clear x)
    | (extract_lets -merge -useContext +onlyGivenNames x; first | (refine keeps_cut (s0 := z) x ?_ (fun hx => ?_); rotate_left; clear_value x) | clear_value x)
    | split
    | exact keeps_in (keeps_out hx)
    | exact keeps_in (keeps_out hs)
    | (refine keeps_in ?_; dsimp only; exact keeps_out (by with_reducible assumption))
    | dsimp only

theorem setTrip_keeps {z : State} {s : State} (hs : Keeps z s) (n : Nat) (x : TripIn) : Keeps z (State.setTrip s n x) := by
  unfold State.setTrip
  repeat' first
    | with_reducible assumption
    | (unfold x; clear x)
    | (extract_lets -merge -useContext +onlyGivenNames x; first | (refine keeps_cut (s0 := z) x ?_ (fun hx => ?_); rotate_left; clear_value x) | clear_value x)
    | split
    | exact keeps_in (keeps_out hx)
    | exact keeps_in (keeps_out hs)
    | (refine keeps_in ?_; dsimp only; exact keeps_out (by with_reducible assumption))
    | dsimp only

theorem swOff_keeps {z s : State} (hs : Keeps z s) (l : Nat) (low : Bool) (t : Nat) : Keeps z (s.swOff l low t) := by
  unfold State.swOff
  dsimp only
  split
  · exact setLeg_keeps hs l (leg_setSw_off low rfl)
  · exact hs

theorem swOn_keeps {z s : State} (hs : Keeps z s) (l : Nat) (low : Bool) (t : Nat) : Keeps z (s.swOn l low t) := by
  unfold State.swOn
  dsimp only
  split
  · exact hs
  · rename_i c
    have ho : ((s.leg l).sw (!low)).cmd = false := by
      simp only [Bool.or_eq_true, not_or, Bool.not_eq_true] at c
      exact c.1.1.1.2
    have hx : legOk ((s.leg l).setSw low { (s.leg l).sw low with cmd := true, acked := ((s.leg l).sw low).ga }) :=
      leg_setSw_on low ho
    split
    · exact setLeg_keeps hs l hx
    · have k := fun (r : List Nat) => setLeg_keeps hs l (x := { (s.leg l).setSw low { (s.leg l).sw low with
        cmd := true, acked := ((s.leg l).sw low).ga } with te := none, dts := r }) (leg_keep hx rfl rfl)
      split
      · exact putF_keeps (putF_keeps (k _) _ _ _ _) _ _ _ _
      · exact putF_keeps (k _) _ _ _ _

theorem allOff_keeps {z : State} {s : State} (hs : Keeps z s) (i : Nat) : Keeps z (State.allOff s i) := by
  unfold State.allOff
  repeat' first
    | with_reducible assumption
    | (unfold x; clear x)
    | (extract_lets -merge -useContext +onlyGivenNames x; first | (refine keeps_cut (s0 := z) x ?_ (fun hx => ?_); rotate_left; clear_value x) | clear_value x)
    | with_reducible apply swOff_keeps
    | with_reducible refine keeps_foldl ?_ (fun t b ht => ?_)
    | split
    | exact keeps_in (keeps_out hx)
    | exact keeps_in (keeps_out hs)
    | exact keeps_in (keeps_out ht)
    | (refine keeps_in ?_; dsimp only; exact keeps_out (by with_reducible assumption))
    | dsimp only

theorem driveStage_keeps {z : State} {s : State} (hs : Keeps z s) (i : Nat) : Keeps z (State.driveStage s i) := by
  unfold State.driveStage
  repeat' first
    | with_reducible assumption
    | (unfold x; clear x)
    | (extract_lets -merge -useContext +onlyGivenNames x; first | (refine keeps_cut (s0 := z) x ?_ (fun hx => ?_); rotate_left; clear_value x) | clear_value x)
    | with_reducible apply swOn_keeps
    | with_reducible refine keeps_foldl ?_ (fun t b ht => ?_)
    | split
    | exact keeps_in (keeps_out hx)
    | exact keeps_in (keeps_out hs)
    | exact keeps_in (keeps_out ht)
    | (refine keeps_in ?_; dsimp only; exact keeps_out (by with_reducible assumption))
    | dsimp only

theorem setLevel_keeps {z s : State} (hs : Keeps z s) (l : Nat) (lvl : Bool) (t : Nat) : Keeps z (s.setLevel l lvl t) := by
  unfold State.setLevel
  have hw : legOk (if lvl = true then ({ s.leg l with lvl := lvl } : Leg).setSw true { (s.leg l).lo with wait := false }
      else ({ s.leg l with lvl := lvl } : Leg).setSw false { (s.leg l).hi with wait := false }) := by
    split <;> exact leg_keep (leg_ok hs l) rfl rfl
  dsimp only
  generalize (if lvl = true then ({ s.leg l with lvl := lvl } : Leg).setSw true { (s.leg l).lo with wait := false }
      else ({ s.leg l with lvl := lvl } : Leg).setSw false { (s.leg l).hi with wait := false }) = w at *
  have h1 : Keeps z (s.setLeg l { w with te := if (w.sw lvl).cmd = true then some t else none }) :=
    setLeg_keeps hs l (leg_keep hw rfl rfl)
  generalize s.setLeg l { w with te := if (w.sw lvl).cmd = true then some t else none } = s1 at *
  split
  · exact hs
  · split
    · exact h1
    · split
      · exact swOn_keeps (swOff_keeps h1 _ _ _) _ _ _
      · exact swOff_keeps h1 _ _ _

theorem gateEdge_keeps {z : State} {s : State} (hs : Keeps z s) (l : Nat) (low : Bool) (o : Nat) : Keeps z (State.gateEdge s l low o) := by
  unfold State.gateEdge
  repeat' first
    | with_reducible assumption
    | (unfold x; clear x)
    | (extract_lets -merge -useContext +onlyGivenNames x; first | (refine keeps_cut (s0 := z) x ?_ (fun hx => ?_); rotate_left; clear_value x) | clear_value x)
    | with_reducible apply atOff_keeps
    | with_reducible apply swOn_keeps
    | split
    | exact keeps_in (keeps_out hx)
    | exact keeps_in (keeps_out hs)
    | (refine keeps_in ?_; dsimp only; exact keeps_out (by with_reducible assumption))
    | dsimp only

theorem runBegin_keeps {z : State} {s : State} (hs : Keeps z s) (i : Nat) : Keeps z (State.runBegin s i) := by
  unfold State.runBegin
  repeat' first
    | with_reducible assumption
    | (unfold x; clear x)
    | with_reducible refine keeps_snd (by with_reducible assumption) ?_
    | with_reducible refine keeps_fst (by with_reducible assumption) ?_
    | with_reducible refine keeps_third (by with_reducible assumption) ?_
    | with_reducible refine keeps_mid (by with_reducible assumption) ?_
    | (extract_lets -merge -useContext +onlyGivenNames x; first | (refine keeps_cut (s0 := z) x ?_ (fun hx => ?_); rotate_left; clear_value x) | (refine keeps_cut (s0 := z) x.1 ?_ (fun hx => ?_); rotate_left; clear_value x) | (refine keeps_cut (s0 := z) x.2 ?_ (fun hx => ?_); rotate_left; clear_value x) | (refine leg_cut x ?_ (fun hx => ?_); rotate_left; clear_value x) | clear_value x)
    | with_reducible apply leg_ok
    | with_reducible apply leg_keep
    | assumption
    | with_reducible apply setStg_keeps
    | with_reducible apply put_keeps
    | with_reducible apply setLeg_keeps
    | with_reducible refine keeps_foldl ?_ (fun t b ht => ?_)
    | with_reducible refine keeps_foldl_fst ?_ (fun t b ht => ?_)
    | with_reducible refine keeps_foldl_snd ?_ (fun t b ht => ?_)
    | split
    | exact keeps_in (keeps_out hx)
    | exact keeps_in (keeps_out hs)
    | exact keeps_in (keeps_out ht)
    | (refine keeps_in ?_; dsimp only; exact keeps_out (by with_reducible assumption))
    | dsimp only

theorem stageTo_keeps {z : State} {s : State} (hs : Keeps z s) (i : Nat) (st : Nat) : Keeps z (State.stageTo s i st) := by
  unfold State.stageTo
  repeat' first
    | with_reducible assumption
    | (unfold x; clear x)
    | (extract_lets -merge -useContext +onlyGivenNames x; first | (refine keeps_cut (s0 := z) x ?_ (fun hx => ?_); rotate_left; clear_value x) | clear_value x)
    | with_reducible apply put_keeps
    | with_reducible apply setStg_keeps
    | with_reducible apply raiseAxis_keeps
    | with_reducible apply runBegin_keeps
    | with_reducible apply allOff_keeps
    | split
    | exact keeps_in (keeps_out hx)
    | exact keeps_in (keeps_out hs)
    | (refine keeps_in ?_; dsimp only; exact keeps_out (by with_reducible assumption))
    | dsimp only

theorem diagUntested_keeps {z : State} {s : State} (hs : Keeps z s) (i : Nat) : Keeps z (State.diagUntested s i) := by
  unfold State.diagUntested
  repeat' first
    | with_reducible assumption
    | (unfold x; clear x)
    | (extract_lets -merge -useContext +onlyGivenNames x; first | (refine keeps_cut (s0 := z) x ?_ (fun hx => ?_); rotate_left; clear_value x) | clear_value x)
    | with_reducible apply alarm_keeps
    | with_reducible apply put_keeps
    | split
    | exact keeps_in (keeps_out hx)
    | exact keeps_in (keeps_out hs)
    | (refine keeps_in ?_; dsimp only; exact keeps_out (by with_reducible assumption))
    | dsimp only

theorem toPrecharge_keeps {z : State} {s : State} (hs : Keeps z s) (i : Nat) : Keeps z (State.toPrecharge s i) := by
  unfold State.toPrecharge
  repeat' first
    | with_reducible assumption
    | (unfold x; clear x)
    | (extract_lets -merge -useContext +onlyGivenNames x; first | (refine keeps_cut (s0 := z) x ?_ (fun hx => ?_); rotate_left; clear_value x) | clear_value x)
    | with_reducible apply driveStage_keeps
    | with_reducible apply stageTo_keeps
    | split
    | exact keeps_in (keeps_out hx)
    | exact keeps_in (keeps_out hs)
    | (refine keeps_in ?_; dsimp only; exact keeps_out (by with_reducible assumption))
    | dsimp only

theorem diagStart_keeps {z : State} {s : State} (hs : Keeps z s) (i : Nat) (byEn : Bool) : Keeps z (State.diagStart s i byEn) := by
  unfold State.diagStart
  repeat' first
    | with_reducible assumption
    | (unfold x; clear x)
    | (extract_lets -merge -useContext +onlyGivenNames x; first | (refine keeps_cut (s0 := z) x ?_ (fun hx => ?_); rotate_left; clear_value x) | clear_value x)
    | with_reducible apply diagUntested_keeps
    | with_reducible apply stageTo_keeps
    | with_reducible apply toPrecharge_keeps
    | with_reducible apply setStg_keeps
    | with_reducible apply put_keeps
    | split
    | exact keeps_in (keeps_out hx)
    | exact keeps_in (keeps_out hs)
    | (refine keeps_in ?_; dsimp only; exact keeps_out (by with_reducible assumption))
    | dsimp only

theorem stageEnableEffect_keeps {z : State} {s : State} (hs : Keeps z s) (i : Nat) : Keeps z (State.stageEnableEffect s i) := by
  unfold State.stageEnableEffect
  repeat' first
    | with_reducible assumption
    | (unfold x; clear x)
    | (extract_lets -merge -useContext +onlyGivenNames x; first | (refine keeps_cut (s0 := z) x ?_ (fun hx => ?_); rotate_left; clear_value x) | clear_value x)
    | with_reducible apply setStg_keeps
    | with_reducible apply toPrecharge_keeps
    | with_reducible apply diagStart_keeps
    | split
    | exact keeps_in (keeps_out hx)
    | exact keeps_in (keeps_out hs)
    | (refine keeps_in ?_; dsimp only; exact keeps_out (by with_reducible assumption))
    | dsimp only

theorem stageDisableEffect_keeps {z : State} {s : State} (hs : Keeps z s) (i : Nat) : Keeps z (State.stageDisableEffect s i) := by
  unfold State.stageDisableEffect
  repeat' first
    | with_reducible assumption
    | (unfold x; clear x)
    | (extract_lets -merge -useContext +onlyGivenNames x; first | (refine keeps_cut (s0 := z) x ?_ (fun hx => ?_); rotate_left; clear_value x) | clear_value x)
    | with_reducible apply setStg_keeps
    | with_reducible apply diagUntested_keeps
    | with_reducible apply stageTo_keeps
    | split
    | exact keeps_in (keeps_out hx)
    | exact keeps_in (keeps_out hs)
    | (refine keeps_in ?_; dsimp only; exact keeps_out (by with_reducible assumption))
    | dsimp only

theorem stageStop_keeps {z : State} {s : State} (hs : Keeps z s) (i : Nat) : Keeps z (State.stageStop s i) := by
  unfold State.stageStop
  repeat' first
    | with_reducible assumption
    | (unfold x; clear x)
    | with_reducible refine keeps_snd (by with_reducible assumption) ?_
    | with_reducible refine keeps_fst (by with_reducible assumption) ?_
    | with_reducible refine keeps_third (by with_reducible assumption) ?_
    | with_reducible refine keeps_mid (by with_reducible assumption) ?_
    | (extract_lets -merge -useContext +onlyGivenNames x; first | (refine keeps_cut (s0 := z) x ?_ (fun hx => ?_); rotate_left; clear_value x) | (refine keeps_cut (s0 := z) x.1 ?_ (fun hx => ?_); rotate_left; clear_value x) | (refine keeps_cut (s0 := z) x.2 ?_ (fun hx => ?_); rotate_left; clear_value x) | clear_value x)
    | with_reducible apply setStg_keeps
    | with_reducible apply stageTo_keeps
    | with_reducible apply diagUntested_keeps
    | with_reducible apply put_keeps
    | split
    | exact keeps_in (keeps_out hx)
    | exact keeps_in (keeps_out hs)
    | (refine keeps_in ?_; dsimp only; exact keeps_out (by with_reducible assumption))
    | dsimp only

theorem stageFault_keeps {z : State} {s : State} (hs : Keeps z s) (i : Nat) : Keeps z (State.stageFault s i) := by
  unfold State.stageFault
  repeat' first
    | with_reducible assumption
    | (unfold x; clear x)
    | (extract_lets -merge -useContext +onlyGivenNames x; first | (refine keeps_cut (s0 := z) x ?_ (fun hx => ?_); rotate_left; clear_value x) | clear_value x)
    | with_reducible apply swOff_keeps
    | with_reducible apply allOff_keeps
    | with_reducible apply stageTo_keeps
    | with_reducible refine keeps_foldl ?_ (fun t b ht => ?_)
    | with_reducible refine keeps_foldl_fst ?_ (fun t b ht => ?_)
    | with_reducible refine keeps_foldl_snd ?_ (fun t b ht => ?_)
    | split
    | exact keeps_in (keeps_out hx)
    | exact keeps_in (keeps_out hs)
    | exact keeps_in (keeps_out ht)
    | (refine keeps_in ?_; dsimp only; exact keeps_out (by with_reducible assumption))
    | dsimp only

theorem legFault_keeps {z : State} {s : State} (hs : Keeps z s) (l : Nat) (k : Nat) (code : Nat) : Keeps z (State.legFault s l k code) := by
  unfold State.legFault
  repeat' first
    | with_reducible assumption
    | (unfold x; clear x)
    | (extract_lets -merge -useContext +onlyGivenNames x; first | (refine keeps_cut (s0 := z) x ?_ (fun hx => ?_); rotate_left; clear_value x) | (refine leg_cut x ?_ (fun hx => ?_); rotate_left; clear_value x) | clear_value x)
    | with_reducible apply leg_ok
    | with_reducible apply leg_keep
    | assumption
    | with_reducible apply noteFault_keeps
    | with_reducible apply alarm_keeps
    | with_reducible apply setLeg_keeps
    | split
    | exact keeps_in (keeps_out hx)
    | exact keeps_in (keeps_out hs)
    | (refine keeps_in ?_; dsimp only; exact keeps_out (by with_reducible assumption))
    | dsimp only

theorem ackFault_keeps {z : State} {s : State} (hs : Keeps z s) (l : Nat) (low : Bool) (k : Nat) (code : Nat) : Keeps z (State.ackFault s l low k code) := by
  unfold State.ackFault
  repeat' first
    | with_reducible assumption
    | (unfold x; clear x)
    | (extract_lets -merge -useContext +onlyGivenNames x; first | (refine keeps_cut (s0 := z) x ?_ (fun hx => ?_); rotate_left; clear_value x) | (refine leg_cut x ?_ (fun hx => ?_); rotate_left; clear_value x) | clear_value x)
    | with_reducible apply leg_ok
    | with_reducible apply leg_keep
    | assumption
    | with_reducible apply setLeg_keeps
    | with_reducible apply legFault_keeps
    | split
    | exact keeps_in (keeps_out hx)
    | exact keeps_in (keeps_out hs)
    | (refine keeps_in ?_; dsimp only; exact keeps_out (by with_reducible assumption))
    | dsimp only

theorem legConflict_keeps {z : State} {s : State} (hs : Keeps z s) (l : Nat) : Keeps z (State.legConflict s l) := by
  unfold State.legConflict
  repeat' first
    | with_reducible assumption
    | (unfold x; clear x)
    | (extract_lets -merge -useContext +onlyGivenNames x; first | (refine keeps_cut (s0 := z) x ?_ (fun hx => ?_); rotate_left; clear_value x) | clear_value x)
    | with_reducible apply swOff_keeps
    | with_reducible apply stageFault_keeps
    | with_reducible apply legFault_keeps
    | split
    | exact keeps_in (keeps_out hx)
    | exact keeps_in (keeps_out hs)
    | (refine keeps_in ?_; dsimp only; exact keeps_out (by with_reducible assumption))
    | dsimp only

theorem gaChange_keeps {z s : State} (hs : Keeps z s) (l : Nat) (low level : Bool) : Keeps z (s.gaChange l low level) := by
  unfold State.gaChange
  dsimp only
  have h1 : Keeps z (s.setLeg l ((s.leg l).setSw low { (s.leg l).sw low with
      ga := level, acked := ((s.leg l).sw low).acked || decide (level = ((s.leg l).sw low).cmd) })) :=
    setLeg_keeps hs l (leg_setSw_same (leg_ok hs l) low rfl)
  generalize s.setLeg l ((s.leg l).setSw low { (s.leg l).sw low with
      ga := level, acked := ((s.leg l).sw low).acked || decide (level = ((s.leg l).sw low).cmd) }) = s1 at *
  have h0 : Keeps z (s.setLeg l ((s.leg l).setSw low { (s.leg l).sw low with
      ga := level, acked := decide (level = ((s.leg l).sw low).cmd) })) :=
    setLeg_keeps hs l (leg_setSw_same (leg_ok hs l) low rfl)
  generalize (s.leg l).sw low = w at *
  split
  · exact hs
  · split
    · exact hs
    split
    · exact h0
    · have h2 : Keeps z (if (w.cmd && !level && w.acked) = true then s1.ackFault l low (5 + b2n low) 0x1105 else s1) :=
        keeps_ite (ackFault_keeps h1 _ _ _ _) h1
      generalize (if (w.cmd && !level && w.acked) = true then s1.ackFault l low (5 + b2n low) 0x1105 else s1) = s2 at *
      have h3 : Keeps z (if (!w.cmd && level && w.acked) = true then s2.legFault l (8 + b2n low) 0x1106 else s2) :=
        keeps_ite (legFault_keeps h2 _ _ _) h2
      generalize (if (!w.cmd && level && w.acked) = true then s2.legFault l (8 + b2n low) 0x1106 else s2) = s3 at *
      generalize (level && ((s.leg l).sw !low).ga) = c at *
      have h4 : Keeps z (if c = true then s3.legFault l 10 0x1107 else s3) := keeps_ite (legFault_keeps h3 _ _ _) h3
      generalize (if c = true then s3.legFault l 10 0x1107 else s3) = s4 at *
      have h5 : Keeps z (if (s4.leg l).flt != (s1.leg l).flt then s4.stageFault (l / 3) else s4) :=
        keeps_ite (stageFault_keeps h4 _) h4
      split
      · exact h5
      · exact swOn_keeps h5 _ _ _

theorem gaResume_keeps {z : State} {s : State} (hs : Keeps z s) : Keeps z (State.gaResume s) := by
  unfold State.gaResume
  repeat' first
    | with_reducible assumption
    | (unfold x; clear x)
    | with_reducible refine keeps_snd (by with_reducible assumption) ?_
    | with_reducible refine keeps_fst (by with_reducible assumption) ?_
    | (extract_lets -merge -useContext +onlyGivenNames x; first | (refine keeps_cut (s0 := z) x ?_ (fun hx => ?_); rotate_left; clear_value x) | (refine keeps_cut (s0 := z) x.1 ?_ (fun hx => ?_); rotate_left; clear_value x) | (refine keeps_cut (s0 := z) x.2 ?_ (fun hx => ?_); rotate_left; clear_value x) | clear_value x)
    | with_reducible apply stageFault_keeps
    | with_reducible apply legFault_keeps
    | with_reducible refine keeps_foldl ?_ (fun t b ht => ?_)
    | split
    | exact keeps_in (keeps_out hx)
    | exact keeps_in (keeps_out hs)
    | exact keeps_in (keeps_out ht)
    | (refine keeps_in ?_; dsimp only; exact keeps_out (by with_reducible assumption))
    | dsimp only

theorem ackOnTimeout_keeps {z : State} {s : State} (hs : Keeps z s) (l : Nat) (low : Bool) : Keeps z (State.ackOnTimeout s l low) := by
  unfold State.ackOnTimeout
  repeat' first
    | with_reducible assumption
    | (unfold x; clear x)
    | (extract_lets -merge -useContext +onlyGivenNames x; first | (refine keeps_cut (s0 := z) x ?_ (fun hx => ?_); rotate_left; clear_value x) | clear_value x)
    | with_reducible apply stageFault_keeps
    | with_reducible apply ackFault_keeps
    | split
    | exact keeps_in (keeps_out hx)
    | exact keeps_in (keeps_out hs)
    | (refine keeps_in ?_; dsimp only; exact keeps_out (by with_reducible assumption))
    | dsimp only

theorem ackOffTimeout_keeps {z : State} {s : State} (hs : Keeps z s) (l : Nat) (low : Bool) : Keeps z (State.ackOffTimeout s l low) := by
  unfold State.ackOffTimeout
  repeat' first
    | with_reducible assumption
    | (unfold x; clear x)
    | (extract_lets -merge -useContext +onlyGivenNames x; first | (refine keeps_cut (s0 := z) x ?_ (fun hx => ?_); rotate_left; clear_value x) | clear_value x)
    | with_reducible apply stageFault_keeps
    | with_reducible apply legFault_keeps
    | split
    | exact keeps_in (keeps_out hx)
    | exact keeps_in (keeps_out hs)
    | (refine keeps_in ?_; dsimp only; exact keeps_out (by with_reducible assumption))
    | dsimp only

theorem ascEngage_keeps {z : State} {s : State} (hs : Keeps z s) (i : Nat) : Keeps z (State.ascEngage s i) := by
  unfold State.ascEngage
  repeat' first
    | with_reducible assumption
    | (unfold x; clear x)
    | (extract_lets -merge -useContext +onlyGivenNames x; first | (refine keeps_cut (s0 := z) x ?_ (fun hx => ?_); rotate_left; clear_value x) | clear_value x)
    | with_reducible apply driveStage_keeps
    | with_reducible apply put_keeps
    | split
    | exact keeps_in (keeps_out hx)
    | exact keeps_in (keeps_out hs)
    | (refine keeps_in ?_; dsimp only; exact keeps_out (by with_reducible assumption))
    | dsimp only

theorem ascEnd_keeps {z : State} {s : State} (hs : Keeps z s) (i : Nat) : Keeps z (State.ascEnd s i) := by
  unfold State.ascEnd
  repeat' first
    | with_reducible assumption
    | (unfold x; clear x)
    | (extract_lets -merge -useContext +onlyGivenNames x; first | (refine keeps_cut (s0 := z) x ?_ (fun hx => ?_); rotate_left; clear_value x) | clear_value x)
    | with_reducible apply stageTo_keeps
    | split
    | exact keeps_in (keeps_out hx)
    | exact keeps_in (keeps_out hs)
    | (refine keeps_in ?_; dsimp only; exact keeps_out (by with_reducible assumption))
    | dsimp only

theorem stopJoin_keeps {z : State} {s : State} (hs : Keeps z s) (q : StopRec) : Keeps z (State.stopJoin s q) := by
  unfold State.stopJoin
  repeat' first
    | with_reducible assumption
    | (unfold x; clear x)
    | (extract_lets -merge -useContext +onlyGivenNames x; first | (refine keeps_cut (s0 := z) x ?_ (fun hx => ?_); rotate_left; clear_value x) | clear_value x)
    | with_reducible refine keeps_foldl ?_ (fun t b ht => ?_)
    | split
    | exact keeps_in (keeps_out hx)
    | exact keeps_in (keeps_out hs)
    | exact keeps_in (keeps_out ht)
    | (refine keeps_in ?_; dsimp only; exact keeps_out (by with_reducible assumption))
    | dsimp only

theorem axisStopReq_keeps {z : State} {s : State} (hs : Keeps z s) (x : Nat) (cat : Nat) (src : Nat) : Keeps z (State.axisStopReq s x cat src) := by
  unfold State.axisStopReq
  repeat' first
    | with_reducible assumption
    | (unfold x; clear x)
    | with_reducible refine keeps_snd (by with_reducible assumption) ?_
    | with_reducible refine keeps_fst (by with_reducible assumption) ?_
    | (extract_lets -merge -useContext +onlyGivenNames x; first | (refine keeps_cut (s0 := z) x ?_ (fun hx => ?_); rotate_left; clear_value x) | (refine keeps_cut (s0 := z) x.1 ?_ (fun hx => ?_); rotate_left; clear_value x) | (refine keeps_cut (s0 := z) x.2 ?_ (fun hx => ?_); rotate_left; clear_value x) | clear_value x)
    | split
    | exact keeps_in (keeps_out hx)
    | exact keeps_in (keeps_out hs)
    | (refine keeps_in ?_; dsimp only; exact keeps_out (by with_reducible assumption))
    | dsimp only

theorem tripLatchOn_keeps {z : State} {s : State} (hs : Keeps z s) (n : Nat) (escalated : Bool) (p : Nat → Bool) : Keeps z (State.tripLatchOn s n escalated p) := by
  unfold State.tripLatchOn
  repeat' first
    | with_reducible assumption
    | (unfold x; clear x)
    | (extract_lets -merge -useContext +onlyGivenNames x; first | (refine keeps_cut (s0 := z) x ?_ (fun hx => ?_); rotate_left; clear_value x) | (refine leg_cut x ?_ (fun hx => ?_); rotate_left; clear_value x) | clear_value x)
    | with_reducible apply leg_ok
    | with_reducible apply leg_keep
    | assumption
    | with_reducible apply setLeg_keeps
    | with_reducible apply noteFault_keeps
    | with_reducible apply raiseAll_keeps
    | with_reducible apply stageFault_keeps
    | with_reducible apply alarm_keeps
    | with_reducible apply stopJoin_keeps
    | with_reducible refine keeps_foldl ?_ (fun t b ht => ?_)
    | with_reducible refine keeps_foldl_fst ?_ (fun t b ht => ?_)
    | with_reducible refine keeps_foldl_snd ?_ (fun t b ht => ?_)
    | split
    | exact keeps_in (keeps_out hx)
    | exact keeps_in (keeps_out hs)
    | exact keeps_in (keeps_out ht)
    | (refine keeps_in ?_; dsimp only; exact keeps_out (by with_reducible assumption))
    | dsimp only

theorem tripOff_keeps {z : State} {s : State} (hs : Keeps z s) (n : Nat) (p : Nat → Bool) : Keeps z (State.tripOff s n p) := by
  unfold State.tripOff
  repeat' first
    | with_reducible assumption
    | (unfold x; clear x)
    | (extract_lets -merge -useContext +onlyGivenNames x; first | (refine keeps_cut (s0 := z) x ?_ (fun hx => ?_); rotate_left; clear_value x) | clear_value x)
    | with_reducible apply stageTo_keeps
    | with_reducible apply diagUntested_keeps
    | with_reducible apply allOff_keeps
    | with_reducible refine keeps_foldl ?_ (fun t b ht => ?_)
    | with_reducible apply toPrecharge_keeps
    | with_reducible refine keeps_foldl_fst ?_ (fun t b ht => ?_)
    | with_reducible refine keeps_foldl_snd ?_ (fun t b ht => ?_)
    | split
    | exact keeps_in (keeps_out hx)
    | exact keeps_in (keeps_out hs)
    | exact keeps_in (keeps_out ht)
    | (refine keeps_in ?_; dsimp only; exact keeps_out (by with_reducible assumption))
    | dsimp only

theorem tripAssert_keeps {z : State} {s : State} (hs : Keeps z s) (n : Nat) : Keeps z (State.tripAssert s n) := by
  unfold State.tripAssert
  repeat' first
    | with_reducible assumption
    | (unfold x; clear x)
    | (extract_lets -merge -useContext +onlyGivenNames x; first | (refine keeps_cut (s0 := z) x ?_ (fun hx => ?_); rotate_left; clear_value x) | clear_value x)
    | with_reducible apply setTrip_keeps
    | with_reducible apply inc_keeps
    | with_reducible apply tripOff_keeps
    | with_reducible apply tripLatchOn_keeps
    | with_reducible refine keeps_foldl ?_ (fun t b ht => ?_)
    | with_reducible refine keeps_foldl_fst ?_ (fun t b ht => ?_)
    | with_reducible refine keeps_foldl_snd ?_ (fun t b ht => ?_)
    | split
    | exact keeps_in (keeps_out hx)
    | exact keeps_in (keeps_out hs)
    | exact keeps_in (keeps_out ht)
    | (refine keeps_in ?_; dsimp only; exact keeps_out (by with_reducible assumption))
    | dsimp only

theorem tripPin_keeps {z : State} {s : State} (hs : Keeps z s) (n : Nat) : Keeps z (State.tripPin s n) := by
  unfold State.tripPin
  repeat' first
    | with_reducible assumption
    | (unfold x; clear x)
    | (extract_lets -merge -useContext +onlyGivenNames x; first | (refine keeps_cut (s0 := z) x ?_ (fun hx => ?_); rotate_left; clear_value x) | clear_value x)
    | with_reducible apply setTrip_keeps
    | with_reducible apply tripAssert_keeps
    | split
    | exact keeps_in (keeps_out hx)
    | exact keeps_in (keeps_out hs)
    | (refine keeps_in ?_; dsimp only; exact keeps_out (by with_reducible assumption))
    | dsimp only

theorem tripFree_keeps {z s : State} (hs : Keeps z s) (p : Nat → Bool) : Keeps z (s.tripFree p) := by
  unfold State.tripFree
  refine keeps_foldl hs fun t i ht => ?_
  split
  · exact ht
  · refine keeps_ite (driveStage_keeps ht _) (keeps_ite ?_ ht)
    exact keeps_foldl ht fun u l hu => setLeg_keeps hu l (leg_keep (leg_ok hu l) rfl rfl)

theorem tripRelease_keeps {z : State} {s : State} (hs : Keeps z s) (n : Nat) : Keeps z (State.tripRelease s n) := by
  unfold State.tripRelease
  repeat' first
    | with_reducible assumption
    | (unfold x; clear x)
    | (extract_lets -merge -useContext +onlyGivenNames x; first | (refine keeps_cut (s0 := z) x ?_ (fun hx => ?_); rotate_left; clear_value x) | clear_value x)
    | with_reducible apply setTrip_keeps
    | with_reducible apply tripFree_keeps
    | split
    | exact keeps_in (keeps_out hx)
    | exact keeps_in (keeps_out hs)
    | (refine keeps_in ?_; dsimp only; exact keeps_out (by with_reducible assumption))
    | dsimp only

theorem tripWindowEnd_keeps {z : State} {s : State} (hs : Keeps z s) : Keeps z (State.tripWindowEnd s) := by
  unfold State.tripWindowEnd
  repeat' first
    | with_reducible assumption
    | (unfold x; clear x)
    | with_reducible refine keeps_snd (by with_reducible assumption) ?_
    | with_reducible refine keeps_fst (by with_reducible assumption) ?_
    | (extract_lets -merge -useContext +onlyGivenNames x; first | (refine keeps_cut (s0 := z) x ?_ (fun hx => ?_); rotate_left; clear_value x) | (refine keeps_cut (s0 := z) x.1 ?_ (fun hx => ?_); rotate_left; clear_value x) | (refine keeps_cut (s0 := z) x.2 ?_ (fun hx => ?_); rotate_left; clear_value x) | clear_value x)
    | split
    | exact keeps_in (keeps_out hx)
    | exact keeps_in (keeps_out hs)
    | (refine keeps_in ?_; dsimp only; exact keeps_out (by with_reducible assumption))
    | dsimp only

theorem tripCfgWrite_keeps {z : State} {s : State} (hs : Keeps z s) (n : Nat) (v : Nat) : Keeps z (State.tripCfgWrite s n v) := by
  unfold State.tripCfgWrite
  repeat' first
    | with_reducible assumption
    | (unfold x; clear x)
    | (extract_lets -merge -useContext +onlyGivenNames x; first | (refine keeps_cut (s0 := z) x ?_ (fun hx => ?_); rotate_left; clear_value x) | clear_value x)
    | with_reducible apply setTrip_keeps
    | with_reducible apply tripOff_keeps
    | with_reducible apply tripLatchOn_keeps
    | with_reducible apply tripFree_keeps
    | split
    | exact keeps_in (keeps_out hx)
    | exact keeps_in (keeps_out hs)
    | (refine keeps_in ?_; dsimp only; exact keeps_out (by with_reducible assumption))
    | dsimp only

theorem diagFinding_keeps {z : State} {s : State} (hs : Keeps z s) (l : Nat) (k : Nat) (code : Nat) : Keeps z (State.diagFinding s l k code) := by
  unfold State.diagFinding
  repeat' first
    | with_reducible assumption
    | (unfold x; clear x)
    | (extract_lets -merge -useContext +onlyGivenNames x; first | (refine keeps_cut (s0 := z) x ?_ (fun hx => ?_); rotate_left; clear_value x) | clear_value x)
    | with_reducible apply put_keeps
    | with_reducible apply alarm_keeps
    | with_reducible apply setStg_keeps
    | split
    | exact keeps_in (keeps_out hx)
    | exact keeps_in (keeps_out hs)
    | (refine keeps_in ?_; dsimp only; exact keeps_out (by with_reducible assumption))
    | dsimp only

theorem diagFinish_keeps {z : State} {s : State} (hs : Keeps z s) (i : Nat) : Keeps z (State.diagFinish s i) := by
  unfold State.diagFinish
  repeat' first
    | with_reducible assumption
    | (unfold x; clear x)
    | (extract_lets -merge -useContext +onlyGivenNames x; first | (refine keeps_cut (s0 := z) x ?_ (fun hx => ?_); rotate_left; clear_value x) | clear_value x)
    | with_reducible apply put_keeps
    | with_reducible apply stageTo_keeps
    | with_reducible apply toPrecharge_keeps
    | split
    | exact keeps_in (keeps_out hx)
    | exact keeps_in (keeps_out hs)
    | (refine keeps_in ?_; dsimp only; exact keeps_out (by with_reducible assumption))
    | dsimp only

theorem diagStepEnd_keeps {z s0 : State} (hs : Keeps z s0) (i : Nat) (pin : Nat → Nat) : Keeps z (s0.diagStepEnd i pin) := by
  unfold State.diagStepEnd
  dsimp only
  split
  · exact hs
  · split
    · refine setStg_keeps (keeps_foldl hs fun t b ht => ?_) _ _
      split
      · exact diagFinding_keeps ht _ _ _
      · split
        · exact diagFinding_keeps ht _ _ _
        · exact ht
    · have h1 : Keeps z ((State.legsOf i).foldl (fun s l => if pin (l % 3) != 0 then s.diagFinding l 2 0x1303 else s) s0) :=
        keeps_foldl hs fun t b ht => keeps_ite (diagFinding_keeps ht _ _ _) ht
      split
      · exact diagFinish_keeps h1 _
      · exact swOn_keeps (setStg_keeps h1 _ _) _ _ _
    · have h1 := swOff_keeps hs (3 * i + ((s0.stg i).step - 3)) true s0.vnow
      generalize s0.swOff (3 * i + ((s0.stg i).step - 3)) true s0.vnow = t at *
      have h2 : Keeps z (if pin ((s0.stg i).step - 3) != 0 then t.diagFinding (3 * i + ((s0.stg i).step - 3)) 4 0x1305 else t) :=
        keeps_ite (diagFinding_keeps h1 _ _ _) h1
      generalize (if pin ((s0.stg i).step - 3) != 0 then t.diagFinding (3 * i + ((s0.stg i).step - 3)) 4 0x1305 else t) = u at *
      have h3 : Keeps z ((State.legsOf i).foldl (fun s j =>
          if (decide (j = 3 * i + ((s0.stg i).step - 3)) || pin (j % 3) != 1) = true then s
          else if (s.stg i).open1.contains j = true then s.diagFinding j 3 0x1304
          else s.setStg i { s.stg i with open1 := (s.stg i).open1 ++ [j] }) u) :=
        keeps_foldl h2 fun t b ht => keeps_ite ht (keeps_ite (diagFinding_keeps ht _ _ _) (setStg_keeps ht _ _))
      generalize (State.legsOf i).foldl (fun s j =>
          if (decide (j = 3 * i + ((s0.stg i).step - 3)) || pin (j % 3) != 1) = true then s
          else if (s.stg i).open1.contains j = true then s.diagFinding j 3 0x1304
          else s.setStg i { s.stg i with open1 := (s.stg i).open1 ++ [j] }) u = v at *
      split
      · exact diagFinish_keeps h3 _
      · exact swOn_keeps (setStg_keeps h3 _ _) _ _ _

theorem prechargeEnd_keeps {z : State} {s : State} (hs : Keeps z s) (i : Nat) : Keeps z (State.prechargeEnd s i) := by
  unfold State.prechargeEnd
  repeat' first
    | with_reducible assumption
    | (unfold x; clear x)
    | (extract_lets -merge -useContext +onlyGivenNames x; first | (refine keeps_cut (s0 := z) x ?_ (fun hx => ?_); rotate_left; clear_value x) | clear_value x)
    | with_reducible apply driveStage_keeps
    | with_reducible apply stageTo_keeps
    | split
    | exact keeps_in (keeps_out hx)
    | exact keeps_in (keeps_out hs)
    | (refine keeps_in ?_; dsimp only; exact keeps_out (by with_reducible assumption))
    | dsimp only

theorem stageDone_keeps {z : State} {s : State} (hs : Keeps z s) (i : Nat) : Keeps z (State.stageDone s i) := by
  unfold State.stageDone
  repeat' first
    | with_reducible assumption
    | (unfold x; clear x)
    | (extract_lets -merge -useContext +onlyGivenNames x; first | (refine keeps_cut (s0 := z) x ?_ (fun hx => ?_); rotate_left; clear_value x) | clear_value x)
    | with_reducible apply setStg_keeps
    | with_reducible apply stageTo_keeps
    | split
    | exact keeps_in (keeps_out hx)
    | exact keeps_in (keeps_out hs)
    | (refine keeps_in ?_; dsimp only; exact keeps_out (by with_reducible assumption))
    | dsimp only

theorem shutdownAck_keeps {z : State} {s : State} (hs : Keeps z s) (i : Nat) : Keeps z (State.shutdownAck s i) := by
  unfold State.shutdownAck
  repeat' first
    | with_reducible assumption
    | (unfold x; clear x)
    | (extract_lets -merge -useContext +onlyGivenNames x; first | (refine keeps_cut (s0 := z) x ?_ (fun hx => ?_); rotate_left; clear_value x) | clear_value x)
    | with_reducible apply setStg_keeps
    | with_reducible apply dioDrive_keeps
    | with_reducible apply stageDone_keeps
    | split
    | exact keeps_in (keeps_out hx)
    | exact keeps_in (keeps_out hs)
    | (refine keeps_in ?_; dsimp only; exact keeps_out (by with_reducible assumption))
    | dsimp only

theorem dischargeEnd_keeps {z : State} {s : State} (hs : Keeps z s) (i : Nat) (elapsed : Bool) : Keeps z (State.dischargeEnd s i elapsed) := by
  unfold State.dischargeEnd
  repeat' first
    | with_reducible assumption
    | (unfold x; clear x)
    | (extract_lets -merge -useContext +onlyGivenNames x; first | (refine keeps_cut (s0 := z) x ?_ (fun hx => ?_); rotate_left; clear_value x) | clear_value x)
    | with_reducible apply dioDrive_keeps
    | with_reducible apply alarm_keeps
    | with_reducible apply stageDone_keeps
    | split
    | exact keeps_in (keeps_out hx)
    | exact keeps_in (keeps_out hs)
    | (refine keeps_in ?_; dsimp only; exact keeps_out (by with_reducible assumption))
    | dsimp only

theorem stageCleared_keeps {z s : State} (hs : Keeps z s) (i : Nat) : Keeps z (s.stageCleared i) := by
  unfold State.stageCleared
  refine stageTo_keeps (put_keeps ?_ _ _ _ _) _ _
  refine keeps_foldl (clearFault_keeps ?_ _ _) fun t l ht => clearFault_keeps ht _ _
  exact keeps_foldl hs fun t l ht => setLeg_keeps ht l (leg_keep (leg_ok ht l) rfl rfl)

theorem stageClear_keeps {z : State} {s : State} (hs : Keeps z s) (i : Nat) : Keeps z (State.stageClear s i).2 := by
  unfold State.stageClear
  repeat' first
    | with_reducible assumption
    | (unfold x; clear x)
    | with_reducible refine keeps_snd (by with_reducible assumption) ?_
    | with_reducible refine keeps_fst (by with_reducible assumption) ?_
    | (extract_lets -merge -useContext +onlyGivenNames x; first | (refine keeps_cut (s0 := z) x ?_ (fun hx => ?_); rotate_left; clear_value x) | (refine keeps_cut (s0 := z) x.1 ?_ (fun hx => ?_); rotate_left; clear_value x) | (refine keeps_cut (s0 := z) x.2 ?_ (fun hx => ?_); rotate_left; clear_value x) | clear_value x)
    | with_reducible apply ascEnd_keeps
    | with_reducible apply stageCleared_keeps
    | split
    | exact keeps_in (keeps_out hx)
    | exact keeps_in (keeps_out hs)
    | (refine keeps_in ?_; dsimp only; exact keeps_out (by with_reducible assumption))
    | dsimp only

theorem stageDiag_keeps {z : State} {s : State} (hs : Keeps z s) (i : Nat) : Keeps z (State.stageDiag s i).2 := by
  unfold State.stageDiag
  repeat' first
    | with_reducible assumption
    | (unfold x; clear x)
    | with_reducible refine keeps_snd (by with_reducible assumption) ?_
    | with_reducible refine keeps_fst (by with_reducible assumption) ?_
    | (extract_lets -merge -useContext +onlyGivenNames x; first | (refine keeps_cut (s0 := z) x ?_ (fun hx => ?_); rotate_left; clear_value x) | (refine keeps_cut (s0 := z) x.1 ?_ (fun hx => ?_); rotate_left; clear_value x) | (refine keeps_cut (s0 := z) x.2 ?_ (fun hx => ?_); rotate_left; clear_value x) | clear_value x)
    | with_reducible apply diagStart_keeps
    | split
    | exact keeps_in (keeps_out hx)
    | exact keeps_in (keeps_out hs)
    | (refine keeps_in ?_; dsimp only; exact keeps_out (by with_reducible assumption))
    | dsimp only

theorem swcmdWrite_keeps {z s : State} (hs : Keeps z s) (l v : Nat) : Keeps z (s.swcmdWrite l v).2 := by
  unfold State.swcmdWrite
  dsimp only
  have h0 := put_keeps hs LEG.SWCMD l ((v % 4 : Nat) : Int) 0
  split
  · exact hs
  · generalize s.put LEG.SWCMD l ((v % 4 : Nat) : Int) 0 = t at *
    split
    · exact legConflict_keeps h0 l
    · have hx : legOk (if bit v 0 = true then t.leg l else { t.leg l with hi := { (t.leg l).hi with wait := false } }) := by
        split <;> exact leg_keep (leg_ok h0 l) rfl rfl
      generalize (if bit v 0 = true then t.leg l else { t.leg l with hi := { (t.leg l).hi with wait := false } }) = x at *
      have hy : legOk (if bit v 1 = true then x else { x with lo := { x.lo with wait := false } }) := by
        split <;> exact leg_keep hx rfl rfl
      generalize (if bit v 1 = true then x else { x with lo := { x.lo with wait := false } }) = y at *
      have h1 := setLeg_keeps h0 l hy
      generalize t.setLeg l y = u at *
      have h2 : Keeps z (if bit v 0 = true then u else u.swOff l false u.vnow) := keeps_ite h1 (swOff_keeps h1 _ _ _)
      generalize (if bit v 0 = true then u else u.swOff l false u.vnow) = u2 at *
      have h3 : Keeps z (if bit v 1 = true then u2 else u2.swOff l true u2.vnow) := keeps_ite h2 (swOff_keeps h2 _ _ _)
      exact swOn_keeps (swOn_keeps h3 _ _ _) _ _ _

end Sys2Proof.Laws
end

