-- ==== Sys2Proof/Laws/Link.lean ====
section
/-! SUPPORT. What the operations of `Machine/Link.lean` keep. -/
namespace Sys2Proof.Laws
open Machine Safety

theorem setLink_keeps {z : State} {s : State} (hs : Keeps z s) (r : Nat) (x : RingX) : Keeps z (State.setLink s r x) := by
  unfold State.setLink
  repeat' first
    | with_reducible assumption
    | (unfold x; clear x)
    | with_reducible refine keeps_snd (by with_reducible assumption) ?_
    | with_reducible refine keeps_fst (by with_reducible assumption) ?_
    | (extract_lets -merge -useContext +onlyGivenNames x; first | (refine keeps_cut (s0 := z) x ?_ (fun hx => ?_); rotate_left; clear_value x) | (refine keeps_cut (s0 := z) x.1 ?_ (fun hx => ?_); rotate_left; clear_value x) | (refine keeps_cut (s0 := z) x.2 ?_ (fun hx => ?_); rotate_left; clear_value x) | clear_value x)
    | split
    | exact keeps_in (keeps_out hx)
    | exact keeps_in (keeps_out hs)
    | (refine keeps_in ?_; dsimp only; exact keeps_out (by with_reducible assumption))
    | dsimp only

theorem setSlotX_keeps {z : State} {s : State} (hs : Keeps z s) (i : Nat) (x : SlotX) : Keeps z (State.setSlotX s i x) := by
  unfold State.setSlotX
  repeat' first
    | with_reducible assumption
    | (unfold x; clear x)
    | (extract_lets -merge -useContext +onlyGivenNames x; first | (refine keeps_cut (s0 := z) x ?_ (fun hx => ?_); rotate_left; clear_value x) | clear_value x)
    | split
    | exact keeps_in (keeps_out hx)
    | exact keeps_in (keeps_out hs)
    | (refine keeps_in ?_; dsimp only; exact keeps_out (by with_reducible assumption))
    | dsimp only

theorem setCellCtl_keeps {z : State} {s : State} (hs : Keeps z s) (i : Nat) (x : CellCtl) : Keeps z (State.setCellCtl s i x) := by
  unfold State.setCellCtl
  repeat' first
    | with_reducible assumption
    | (unfold x; clear x)
    | (extract_lets -merge -useContext +onlyGivenNames x; first | (refine keeps_cut (s0 := z) x ?_ (fun hx => ?_); rotate_left; clear_value x) | clear_value x)
    | split
    | exact keeps_in (keeps_out hx)
    | exact keeps_in (keeps_out hs)
    | (refine keeps_in ?_; dsimp only; exact keeps_out (by with_reducible assumption))
    | dsimp only

theorem linkFault_keeps {z : State} {s : State} (hs : Keeps z s) (code : Nat) (r : Nat) (detail : Nat) : Keeps z (State.linkFault s code r detail) := by
  unfold State.linkFault
  repeat' first
    | with_reducible assumption
    | (unfold x; clear x)
    | (extract_lets -merge -useContext +onlyGivenNames x; first | (refine keeps_cut (s0 := z) x ?_ (fun hx => ?_); rotate_left; clear_value x) | clear_value x)
    | with_reducible apply alarm_keeps
    | split
    | exact keeps_in (keeps_out hx)
    | exact keeps_in (keeps_out hs)
    | (refine keeps_in ?_; dsimp only; exact keeps_out (by with_reducible assumption))
    | dsimp only

theorem cellSvcDone_keeps {z s : State} (hs : Keeps z s) (r rsts : Nat) (data : List Byte) :
    Keeps z (s.cellSvcDone r rsts data) := by
  unfold State.cellSvcDone
  split
  · exact hs
  · extract_lets i x f d s1 q s2
    have h1 : Keeps z s1 :=
      keeps_ite hs (keeps_ite (setCellCtl_keeps hs _ _) (keeps_ite (setCellCtl_keeps hs _ _) hs))
    have h2 : Keeps z s2 := setLink_keeps h1 _ _
    exact keeps_in (keeps_out h2)

theorem frameLaunch_keeps {z : State} {s : State} (hs : Keeps z s) (r : Nat) : Keeps z (State.frameLaunch s r) := by
  unfold State.frameLaunch
  repeat' first
    | with_reducible assumption
    | (unfold x; clear x)
    | (extract_lets -merge -useContext +onlyGivenNames x; first | (refine keeps_cut (s0 := z) x ?_ (fun hx => ?_); rotate_left; clear_value x) | clear_value x)
    | with_reducible apply inc_keeps
    | with_reducible apply setLink_keeps
    | with_reducible apply put_keeps
    | with_reducible apply cellSvcDone_keeps
    | split
    | exact keeps_in (keeps_out hx)
    | exact keeps_in (keeps_out hs)
    | (refine keeps_in ?_; dsimp only; exact keeps_out (by with_reducible assumption))
    | dsimp only

theorem acceptResponse_keeps {z : State} {s : State} (hs : Keeps z s) (r : Nat) (k : Nat) (w : Nat) : Keeps z (State.acceptResponse s r k w) := by
  unfold State.acceptResponse
  repeat' first
    | with_reducible assumption
    | (unfold x; clear x)
    | with_reducible refine keeps_snd (by with_reducible assumption) ?_
    | with_reducible refine keeps_fst (by with_reducible assumption) ?_
    | (extract_lets -merge -useContext +onlyGivenNames x; first | (refine keeps_cut (s0 := z) x ?_ (fun hx => ?_); rotate_left; clear_value x) | (refine keeps_cut (s0 := z) x.1 ?_ (fun hx => ?_); rotate_left; clear_value x) | (refine keeps_cut (s0 := z) x.2 ?_ (fun hx => ?_); rotate_left; clear_value x) | clear_value x)
    | with_reducible apply put_keeps
    | with_reducible apply putF_keeps
    | with_reducible apply linkFault_keeps
    | split
    | exact keeps_in (keeps_out hx)
    | exact keeps_in (keeps_out hs)
    | (refine keeps_in ?_; dsimp only; exact keeps_out (by with_reducible assumption))
    | dsimp only

theorem slotIn_keeps {z s : State} (hs : Keeps z s) (r : Nat) (f : FrameIn) (k w : Nat) : Keeps z (s.slotIn r f k w) := by
  unfold State.slotIn
  extract_lets i d x run s1 run2 s2 s3 s4
  have h1 : Keeps z s1 := setSlotX_keeps (inc_keeps hs _ _ _ _) _ _
  have h2 : Keeps z s2 := setSlotX_keeps hs _ _
  have h3 : Keeps z s3 := keeps_ite (inc_keeps h2 _ _ _ _) h2
  have h4 : Keeps z s4 := acceptResponse_keeps h3 _ _ _
  clear_value s1 s2 s3 s4 run run2
  refine keeps_ite (inc_keeps hs _ _ _ _) (keeps_ite hs (keeps_ite (keeps_ite (setSlotX_keeps hs _ _) ?_)
    (keeps_ite (keeps_ite (inc_keeps hs _ _ _ _) hs) ?_)))
  · exact keeps_ite (linkFault_keeps h1 _ _ _) h1
  · exact keeps_ite (put_keeps h4 _ _ _ _) (keeps_ite (put_keeps h4 _ _ _ _) h4)

theorem loopIn_keeps {z : State} {s : State} (hs : Keeps z s) (r : Nat) (f : FrameIn) : Keeps z (State.loopIn s r f) := by
  unfold State.loopIn
  repeat' first
    | with_reducible assumption
    | (unfold x; clear x)
    | with_reducible refine keeps_snd (by with_reducible assumption) ?_
    | with_reducible refine keeps_fst (by with_reducible assumption) ?_
    | with_reducible refine keeps_third (by with_reducible assumption) ?_
    | with_reducible refine keeps_mid (by with_reducible assumption) ?_
    | (extract_lets -merge -useContext +onlyGivenNames x; first | (refine keeps_cut (s0 := z) x ?_ (fun hx => ?_); rotate_left; clear_value x) | (refine keeps_cut (s0 := z) x.1 ?_ (fun hx => ?_); rotate_left; clear_value x) | (refine keeps_cut (s0 := z) x.2 ?_ (fun hx => ?_); rotate_left; clear_value x) | clear_value x)
    | with_reducible apply setLink_keeps
    | with_reducible apply putF_keeps
    | with_reducible apply inc_keeps
    | with_reducible apply linkFault_keeps
    | split
    | exact keeps_in (keeps_out hx)
    | exact keeps_in (keeps_out hs)
    | (refine keeps_in ?_; dsimp only; exact keeps_out (by with_reducible assumption))
    | dsimp only

theorem sourcedIn_keeps {z : State} {s : State} (hs : Keeps z s) (r : Nat) (f : FrameIn) (p : Nat) : Keeps z (State.sourcedIn s r f p) := by
  unfold State.sourcedIn
  repeat' first
    | with_reducible assumption
    | (unfold x; clear x)
    | (extract_lets -merge -useContext +onlyGivenNames x; first | (refine keeps_cut (s0 := z) x ?_ (fun hx => ?_); rotate_left; clear_value x) | clear_value x)
    | with_reducible apply inc_keeps
    | with_reducible apply setLink_keeps
    | with_reducible apply linkFault_keeps
    | with_reducible apply put_keeps
    | split
    | exact keeps_in (keeps_out hx)
    | exact keeps_in (keeps_out hs)
    | (refine keeps_in ?_; dsimp only; exact keeps_out (by with_reducible assumption))
    | dsimp only

theorem responseReceived_keeps {z s : State} (hs : Keeps z s) (r : Nat) (f : FrameIn) : Keeps z (s.responseReceived r f) := by
  unfold State.responseReceived
  extract_lets f' d s1 s2 s3 s4 s5 s6
  have h1 : Keeps z s1 := inc_keeps hs _ _ _ _
  have h2 : Keeps z s2 := keeps_ite h1 (inc_keeps h1 _ _ _ _)
  have h3 : Keeps z s3 := keeps_ite h2 (inc_keeps h2 _ _ _ _)
  have h4 : Keeps z s4 := keeps_ite h3 (inc_keeps h3 _ _ _ _)
  have h5 : Keeps z s5 := keeps_ite h4 (inc_keeps h4 _ _ _ _)
  have h6 : Keeps z s6 := by
    unfold s6
    split
    · exact h5
    · split
      · exact sourcedIn_keeps h5 _ _ _
      · exact loopIn_keeps h5 _ _
  exact keeps_ite hs (keeps_ite (keeps_foldl h6 fun t e ht => slotIn_keeps ht _ _ _ _) h6)

theorem slotAges_keeps {z : State} {s : State} (hs : Keeps z s) (r : Nat) : Keeps z (State.slotAges s r) := by
  unfold State.slotAges
  repeat' first
    | with_reducible assumption
    | (unfold x; clear x)
    | (extract_lets -merge -useContext +onlyGivenNames x; first | (refine keeps_cut (s0 := z) x ?_ (fun hx => ?_); rotate_left; clear_value x) | clear_value x)
    | with_reducible apply inc_keeps
    | with_reducible apply put_keeps
    | with_reducible apply linkFault_keeps
    | with_reducible apply setSlotX_keeps
    | with_reducible apply setLink_keeps
    | with_reducible refine keeps_foldl ?_ (fun t b ht => ?_)
    | split
    | exact keeps_in (keeps_out hx)
    | exact keeps_in (keeps_out hs)
    | exact keeps_in (keeps_out ht)
    | (refine keeps_in ?_; dsimp only; exact keeps_out (by with_reducible assumption))
    | dsimp only

theorem ringTo_keeps {z : State} {s : State} (hs : Keeps z s) (r : Nat) (st : Nat) : Keeps z (State.ringTo s r st) := by
  unfold State.ringTo
  repeat' first
    | with_reducible assumption
    | (unfold x; clear x)
    | (extract_lets -merge -useContext +onlyGivenNames x; first | (refine keeps_cut (s0 := z) x ?_ (fun hx => ?_); rotate_left; clear_value x) | clear_value x)
    | with_reducible apply put_keeps
    | with_reducible apply linkFault_keeps
    | with_reducible apply setLink_keeps
    | split
    | exact keeps_in (keeps_out hx)
    | exact keeps_in (keeps_out hs)
    | (refine keeps_in ?_; dsimp only; exact keeps_out (by with_reducible assumption))
    | dsimp only

theorem ringOff_keeps {z : State} {s : State} (hs : Keeps z s) (r : Nat) : Keeps z (State.ringOff s r) := by
  unfold State.ringOff
  repeat' first
    | with_reducible assumption
    | (unfold x; clear x)
    | with_reducible refine keeps_snd (by with_reducible assumption) ?_
    | with_reducible refine keeps_fst (by with_reducible assumption) ?_
    | (extract_lets -merge -useContext +onlyGivenNames x; first | (refine keeps_cut (s0 := z) x ?_ (fun hx => ?_); rotate_left; clear_value x) | (refine keeps_cut (s0 := z) x.1 ?_ (fun hx => ?_); rotate_left; clear_value x) | (refine keeps_cut (s0 := z) x.2 ?_ (fun hx => ?_); rotate_left; clear_value x) | clear_value x)
    | with_reducible apply put_keeps
    | with_reducible apply setLink_keeps
    | split
    | exact keeps_in (keeps_out hx)
    | exact keeps_in (keeps_out hs)
    | (refine keeps_in ?_; dsimp only; exact keeps_out (by with_reducible assumption))
    | dsimp only

theorem ringEnable_keeps {z : State} {s : State} (hs : Keeps z s) (r : Nat) (v : Nat) : Keeps z (State.ringEnable s r v).2 := by
  unfold State.ringEnable
  repeat' first
    | with_reducible assumption
    | (unfold x; clear x)
    | with_reducible refine keeps_snd (by with_reducible assumption) ?_
    | with_reducible refine keeps_fst (by with_reducible assumption) ?_
    | (extract_lets -merge -useContext +onlyGivenNames x; first | (refine keeps_cut (s0 := z) x ?_ (fun hx => ?_); rotate_left; clear_value x) | (refine keeps_cut (s0 := z) x.1 ?_ (fun hx => ?_); rotate_left; clear_value x) | (refine keeps_cut (s0 := z) x.2 ?_ (fun hx => ?_); rotate_left; clear_value x) | clear_value x)
    | with_reducible apply put_keeps
    | with_reducible apply setLink_keeps
    | split
    | exact keeps_in (keeps_out hx)
    | exact keeps_in (keeps_out hs)
    | (refine keeps_in ?_; dsimp only; exact keeps_out (by with_reducible assumption))
    | dsimp only

theorem linkLock_keeps {z : State} {s : State} (hs : Keeps z s) (r : Nat) : Keeps z (State.linkLock s r) := by
  unfold State.linkLock
  repeat' first
    | with_reducible assumption
    | (unfold x; clear x)
    | (extract_lets -merge -useContext +onlyGivenNames x; first | (refine keeps_cut (s0 := z) x ?_ (fun hx => ?_); rotate_left; clear_value x) | clear_value x)
    | with_reducible apply put_keeps
    | split
    | exact keeps_in (keeps_out hx)
    | exact keeps_in (keeps_out hs)
    | (refine keeps_in ?_; dsimp only; exact keeps_out (by with_reducible assumption))
    | dsimp only

theorem linkTimeout_keeps {z : State} {s : State} (hs : Keeps z s) (r : Nat) : Keeps z (State.linkTimeout s r) := by
  unfold State.linkTimeout
  repeat' first
    | with_reducible assumption
    | (unfold x; clear x)
    | (extract_lets -merge -useContext +onlyGivenNames x; first | (refine keeps_cut (s0 := z) x ?_ (fun hx => ?_); rotate_left; clear_value x) | clear_value x)
    | with_reducible apply setLink_keeps
    | with_reducible apply put_keeps
    | with_reducible apply putF_keeps
    | with_reducible apply ringTo_keeps
    | split
    | exact keeps_in (keeps_out hx)
    | exact keeps_in (keeps_out hs)
    | (refine keeps_in ?_; dsimp only; exact keeps_out (by with_reducible assumption))
    | dsimp only

theorem slotIdentities_keeps {z s : State} (hs : Keeps z s) (r : Nat) (ids : List (Nat × Nat)) :
    Keeps z (s.slotIdentities r ids) := by
  unfold State.slotIdentities
  extract_lets s1 s2
  have h1 : Keeps z s1 := keeps_foldl hs fun t k ht => keeps_ite ht (put_keeps ht _ _ _ _)
  refine put_keeps (keeps_foldl h1 fun t k ht => ?_) _ _ _ _
  extract_lets i e u
  have hu : Keeps z u := setSlotX_keeps (put_keeps (put_keeps (put_keeps (put_keeps ht _ _ _ _) _ _ _ _) _ _ _ _) _ _ _ _) _ _
  clear_value u
  split
  · exact hu
  · extract_lets j
    split
    · split
      · exact put_keeps (put_keeps hu _ _ _ _) _ _ _ _
      · exact keeps_mram (put_keeps (put_keeps hu _ _ _ _) _ _ _ _) (Nat.le_refl _)
    · exact hu

theorem enumerationDone_keeps {z s : State} (hs : Keeps z s) (r : Nat) (a b : List (Nat × Nat)) (la lb : Nat) (da : List Nat) :
    Keeps z (s.enumerationDone r a b la lb da) := by
  unfold State.enumerationDone
  extract_lets uids same known loop tap cg s1 rtt l1 s2 s3 q m1
  have h1 : Keeps z s1 := slotIdentities_keeps hs _ _
  have h2 : Keeps z s2 := setLink_keeps h1 _ _
  have h3 : Keeps z s3 := putF_keeps (putF_keeps (putF_keeps h2 _ _ _ _) _ _ _ _) _ _ _ _
  clear_value uids same known loop tap cg s1 rtt l1 s2 q
  refine keeps_ite hs (keeps_ite hs (keeps_ite (ringTo_keeps (linkFault_keeps hs _ _ _) _ _) ?_))
  refine put_keeps (keeps_mram h3 ?_) _ _ _ _
  exact Nat.le_refl _

theorem enumTimeout_keeps {z : State} {s : State} (hs : Keeps z s) (r : Nat) : Keeps z (State.enumTimeout s r) := by
  unfold State.enumTimeout
  repeat' first
    | with_reducible assumption
    | (unfold x; clear x)
    | (extract_lets -merge -useContext +onlyGivenNames x; first | (refine keeps_cut (s0 := z) x ?_ (fun hx => ?_); rotate_left; clear_value x) | clear_value x)
    | with_reducible apply ringTo_keeps
    | split
    | exact keeps_in (keeps_out hx)
    | exact keeps_in (keeps_out hs)
    | (refine keeps_in ?_; dsimp only; exact keeps_out (by with_reducible assumption))
    | dsimp only

theorem blockingReady_keeps {z : State} {s : State} (hs : Keeps z s) (r : Nat) (uids : List Nat) : Keeps z (State.blockingReady s r uids) := by
  unfold State.blockingReady
  repeat' first
    | with_reducible assumption
    | (unfold x; clear x)
    | (extract_lets -merge -useContext +onlyGivenNames x; first | (refine keeps_cut (s0 := z) x ?_ (fun hx => ?_); rotate_left; clear_value x) | clear_value x)
    | with_reducible apply setLink_keeps
    | with_reducible apply put_keeps
    | with_reducible apply ringTo_keeps
    | with_reducible apply slotIdentities_keeps
    | split
    | exact keeps_in (keeps_out hx)
    | exact keeps_in (keeps_out hs)
    | (refine keeps_in ?_; dsimp only; exact keeps_out (by with_reducible assumption))
    | dsimp only

theorem portLoss_keeps {z : State} {s : State} (hs : Keeps z s) (r : Nat) (dirB : Bool) : Keeps z (State.portLoss s r dirB) := by
  unfold State.portLoss
  repeat' first
    | with_reducible assumption
    | (unfold x; clear x)
    | (extract_lets -merge -useContext +onlyGivenNames x; first | (refine keeps_cut (s0 := z) x ?_ (fun hx => ?_); rotate_left; clear_value x) | clear_value x)
    | with_reducible apply setLink_keeps
    | with_reducible apply linkFault_keeps
    | with_reducible apply inc_keeps
    | split
    | exact keeps_in (keeps_out hx)
    | exact keeps_in (keeps_out hs)
    | (refine keeps_in ?_; dsimp only; exact keeps_out (by with_reducible assumption))
    | dsimp only

theorem wordLock_keeps {z : State} {s : State} (hs : Keeps z s) (r : Nat) (dirB : Bool) : Keeps z (State.wordLock s r dirB) := by
  unfold State.wordLock
  repeat' first
    | with_reducible assumption
    | (unfold x; clear x)
    | (extract_lets -merge -useContext +onlyGivenNames x; first | (refine keeps_cut (s0 := z) x ?_ (fun hx => ?_); rotate_left; clear_value x) | clear_value x)
    | with_reducible apply setLink_keeps
    | split
    | exact keeps_in (keeps_out hx)
    | exact keeps_in (keeps_out hs)
    | (refine keeps_in ?_; dsimp only; exact keeps_out (by with_reducible assumption))
    | dsimp only

theorem ringBlock_keeps {z : State} {s : State} (hs : Keeps z s) (r : Nat) : Keeps z (State.ringBlock s r) := by
  unfold State.ringBlock
  repeat' first
    | with_reducible assumption
    | (unfold x; clear x)
    | (extract_lets -merge -useContext +onlyGivenNames x; first | (refine keeps_cut (s0 := z) x ?_ (fun hx => ?_); rotate_left; clear_value x) | clear_value x)
    | with_reducible apply setLink_keeps
    | with_reducible apply put_keeps
    | with_reducible apply inc_keeps
    | split
    | exact keeps_in (keeps_out hx)
    | exact keeps_in (keeps_out hs)
    | (refine keeps_in ?_; dsimp only; exact keeps_out (by with_reducible assumption))
    | dsimp only

theorem fallbackBlockFrame_keeps {z : State} {s : State} (hs : Keeps z s) : Keeps z (State.fallbackBlockFrame s) := by
  unfold State.fallbackBlockFrame
  repeat' first
    | with_reducible assumption
    | (unfold x; clear x)
    | with_reducible refine keeps_snd (by with_reducible assumption) ?_
    | with_reducible refine keeps_fst (by with_reducible assumption) ?_
    | (extract_lets -merge -useContext +onlyGivenNames x; first | (refine keeps_cut (s0 := z) x ?_ (fun hx => ?_); rotate_left; clear_value x) | (refine keeps_cut (s0 := z) x.1 ?_ (fun hx => ?_); rotate_left; clear_value x) | (refine keeps_cut (s0 := z) x.2 ?_ (fun hx => ?_); rotate_left; clear_value x) | clear_value x)
    | with_reducible apply setLink_keeps
    | with_reducible refine keeps_foldl ?_ (fun t b ht => ?_)
    | split
    | exact keeps_in (keeps_out hx)
    | exact keeps_in (keeps_out hs)
    | exact keeps_in (keeps_out ht)
    | (refine keeps_in ?_; dsimp only; exact keeps_out (by with_reducible assumption))
    | dsimp only

theorem cellMark_keeps {z : State} {s : State} (hs : Keeps z s) (q : CellIn) : Keeps z (State.cellMark s q) := by
  unfold State.cellMark
  repeat' first
    | with_reducible assumption
    | (unfold x; clear x)
    | (extract_lets -merge -useContext +onlyGivenNames x; first | (refine keeps_cut (s0 := z) x ?_ (fun hx => ?_); rotate_left; clear_value x) | (refine keeps_cut (s0 := z) x.1 ?_ (fun hx => ?_); rotate_left; clear_value x) | (refine keeps_cut (s0 := z) x.2 ?_ (fun hx => ?_); rotate_left; clear_value x) | (refine keeps_cut (s0 := z) x.2.2 ?_ (fun hx => ?_); rotate_left; clear_value x) | clear_value x)
    | with_reducible apply setCellCtl_keeps
    | split
    | exact keeps_in (keeps_out hx)
    | exact keeps_in (keeps_out hs)
    | (refine keeps_in ?_; dsimp only; exact keeps_out (by with_reducible assumption))
    | dsimp only

theorem cellApply_keeps {z : State} {s : State} (hs : Keeps z s) (r : Nat) (k : Nat) (a : Option Nat) (b : Option Nat) (dead : Bool) : Keeps z (State.cellApply s r k a b dead) := by
  unfold State.cellApply
  repeat' first
    | with_reducible assumption
    | (unfold x; clear x)
    | with_reducible refine keeps_snd (by with_reducible assumption) ?_
    | with_reducible refine keeps_fst (by with_reducible assumption) ?_
    | with_reducible refine keeps_third (by with_reducible assumption) ?_
    | with_reducible refine keeps_mid (by with_reducible assumption) ?_
    | (extract_lets -merge -useContext +onlyGivenNames x; first | (refine keeps_cut (s0 := z) x ?_ (fun hx => ?_); rotate_left; clear_value x) | (refine keeps_cut (s0 := z) x.1 ?_ (fun hx => ?_); rotate_left; clear_value x) | (refine keeps_cut (s0 := z) x.2 ?_ (fun hx => ?_); rotate_left; clear_value x) | clear_value x)
    | with_reducible apply setCellCtl_keeps
    | split
    | exact keeps_in (keeps_out hx)
    | exact keeps_in (keeps_out hs)
    | (refine keeps_in ?_; dsimp only; exact keeps_out (by with_reducible assumption))
    | dsimp only

theorem cellDirectionLoss_keeps {z : State} {s : State} (hs : Keeps z s) (r : Nat) (k : Nat) (dirB : Bool) : Keeps z (State.cellDirectionLoss s r k dirB) := by
  unfold State.cellDirectionLoss
  repeat' first
    | with_reducible assumption
    | (unfold x; clear x)
    | (extract_lets -merge -useContext +onlyGivenNames x; first | (refine keeps_cut (s0 := z) x ?_ (fun hx => ?_); rotate_left; clear_value x) | clear_value x)
    | with_reducible apply setCellCtl_keeps
    | split
    | exact keeps_in (keeps_out hx)
    | exact keeps_in (keeps_out hs)
    | (refine keeps_in ?_; dsimp only; exact keeps_out (by with_reducible assumption))
    | dsimp only

theorem cellBlock_keeps {z : State} {s : State} (hs : Keeps z s) (r : Nat) (k : Nat) : Keeps z (State.cellBlock s r k) := by
  unfold State.cellBlock
  repeat' first
    | with_reducible assumption
    | (unfold x; clear x)
    | (extract_lets -merge -useContext +onlyGivenNames x; first | (refine keeps_cut (s0 := z) x ?_ (fun hx => ?_); rotate_left; clear_value x) | clear_value x)
    | with_reducible apply setCellCtl_keeps
    | split
    | exact keeps_in (keeps_out hx)
    | exact keeps_in (keeps_out hs)
    | (refine keeps_in ?_; dsimp only; exact keeps_out (by with_reducible assumption))
    | dsimp only

end Sys2Proof.Laws
end

