-- ==== Sys2Proof/Laws/Conv.lean ====
section
/-! SUPPORT. What the operations of `Machine/Conv.lean` keep. -/
namespace Sys2Proof.Laws
open Machine Safety

theorem setConvX_keeps {z : State} {s : State} (hs : Keeps z s) (c : Nat) (x : ConvX) : Keeps z (State.setConvX s c x) := by
  unfold State.setConvX
  repeat' first
    | with_reducible assumption
    | (unfold x; clear x)
    | (extract_lets -merge -useContext +onlyGivenNames x; first | (refine keeps_cut (s0 := z) x ?_ (fun hx => ?_); rotate_left; clear_value x) | clear_value x)
    | split
    | exact keeps_in (keeps_out hx)
    | exact keeps_in (keeps_out hs)
    | (refine keeps_in ?_; dsimp only; exact keeps_out (by with_reducible assumption))
    | dsimp only

theorem setArmX_keeps {z : State} {s : State} (hs : Keeps z s) (a : Nat) (x : ArmX) : Keeps z (State.setArmX s a x) := by
  unfold State.setArmX
  repeat' first
    | with_reducible assumption
    | (unfold x; clear x)
    | (extract_lets -merge -useContext +onlyGivenNames x; first | (refine keeps_cut (s0 := z) x ?_ (fun hx => ?_); rotate_left; clear_value x) | clear_value x)
    | split
    | exact keeps_in (keeps_out hx)
    | exact keeps_in (keeps_out hs)
    | (refine keeps_in ?_; dsimp only; exact keeps_out (by with_reducible assumption))
    | dsimp only

theorem setCellX_keeps {z : State} {s : State} (hs : Keeps z s) (j : Nat) (x : CellX) : Keeps z (State.setCellX s j x) := by
  unfold State.setCellX
  repeat' first
    | with_reducible assumption
    | (unfold x; clear x)
    | (extract_lets -merge -useContext +onlyGivenNames x; first | (refine keeps_cut (s0 := z) x ?_ (fun hx => ?_); rotate_left; clear_value x) | clear_value x)
    | split
    | exact keeps_in (keeps_out hx)
    | exact keeps_in (keeps_out hs)
    | (refine keeps_in ?_; dsimp only; exact keeps_out (by with_reducible assumption))
    | dsimp only

theorem setMachX_keeps {z : State} {s : State} (hs : Keeps z s) (m : Nat) (x : MachX) : Keeps z (State.setMachX s m x) := by
  unfold State.setMachX
  repeat' first
    | with_reducible assumption
    | (unfold x; clear x)
    | (extract_lets -merge -useContext +onlyGivenNames x; first | (refine keeps_cut (s0 := z) x ?_ (fun hx => ?_); rotate_left; clear_value x) | clear_value x)
    | split
    | exact keeps_in (keeps_out hx)
    | exact keeps_in (keeps_out hs)
    | (refine keeps_in ?_; dsimp only; exact keeps_out (by with_reducible assumption))
    | dsimp only

theorem convFaultRec_keeps {z : State} {s : State} (hs : Keeps z s) (code : Nat) (c : Nat) (detail : Nat) : Keeps z (State.convFaultRec s code c detail) := by
  unfold State.convFaultRec
  repeat' first
    | with_reducible assumption
    | (unfold x; clear x)
    | (extract_lets -merge -useContext +onlyGivenNames x; first | (refine keeps_cut (s0 := z) x ?_ (fun hx => ?_); rotate_left; clear_value x) | clear_value x)
    | with_reducible apply alarm_keeps
    | split
    | exact keeps_in (keeps_out hx)
    | exact keeps_in (keeps_out hs)
    | (refine keeps_in ?_; dsimp only; exact keeps_out (by with_reducible assumption))
    | dsimp only

theorem armFaultRec_keeps {z : State} {s : State} (hs : Keeps z s) (code : Nat) (c : Nat) (a : Nat) (detail : Nat) : Keeps z (State.armFaultRec s code c a detail) := by
  unfold State.armFaultRec
  repeat' first
    | with_reducible assumption
    | (unfold x; clear x)
    | (extract_lets -merge -useContext +onlyGivenNames x; first | (refine keeps_cut (s0 := z) x ?_ (fun hx => ?_); rotate_left; clear_value x) | clear_value x)
    | with_reducible apply alarm_keeps
    | split
    | exact keeps_in (keeps_out hx)
    | exact keeps_in (keeps_out hs)
    | (refine keeps_in ?_; dsimp only; exact keeps_out (by with_reducible assumption))
    | dsimp only

theorem cellFaultRec_keeps {z : State} {s : State} (hs : Keeps z s) (code : Nat) (c : Nat) (j : Nat) (detail : Nat) : Keeps z (State.cellFaultRec s code c j detail) := by
  unfold State.cellFaultRec
  repeat' first
    | with_reducible assumption
    | (unfold x; clear x)
    | (extract_lets -merge -useContext +onlyGivenNames x; first | (refine keeps_cut (s0 := z) x ?_ (fun hx => ?_); rotate_left; clear_value x) | clear_value x)
    | with_reducible apply alarm_keeps
    | split
    | exact keeps_in (keeps_out hx)
    | exact keeps_in (keeps_out hs)
    | (refine keeps_in ?_; dsimp only; exact keeps_out (by with_reducible assumption))
    | dsimp only

theorem convTo_keeps {z : State} {s : State} (hs : Keeps z s) (c : Nat) (st : Nat) : Keeps z (State.convTo s c st) := by
  unfold State.convTo
  repeat' first
    | with_reducible assumption
    | (unfold x; clear x)
    | (extract_lets -merge -useContext +onlyGivenNames x; first | (refine keeps_cut (s0 := z) x ?_ (fun hx => ?_); rotate_left; clear_value x) | clear_value x)
    | with_reducible apply put_keeps
    | with_reducible apply dispatch_keeps
    | with_reducible apply setConvX_keeps
    | with_reducible apply dioDrive_keeps
    | with_reducible apply setTaskSt_keeps
    | with_reducible apply leavePolicy_keeps
    | with_reducible refine keeps_foldl ?_ (fun t b ht => ?_)
    | with_reducible refine keeps_foldl_fst ?_ (fun t b ht => ?_)
    | with_reducible refine keeps_foldl_snd ?_ (fun t b ht => ?_)
    | split
    | exact keeps_in (keeps_out hx)
    | exact keeps_in (keeps_out hs)
    | exact keeps_in (keeps_out ht)
    | (refine keeps_in ?_; dsimp only; exact keeps_out (by with_reducible assumption))
    | dsimp only

theorem convFault_keeps {z : State} {s : State} (hs : Keeps z s) (c : Nat) (hard : Bool) : Keeps z (State.convFault s c hard) := by
  unfold State.convFault
  repeat' first
    | with_reducible assumption
    | (unfold x; clear x)
    | (extract_lets -merge -useContext +onlyGivenNames x; first | (refine keeps_cut (s0 := z) x ?_ (fun hx => ?_); rotate_left; clear_value x) | clear_value x)
    | with_reducible apply convTo_keeps
    | split
    | exact keeps_in (keeps_out hx)
    | exact keeps_in (keeps_out hs)
    | (refine keeps_in ?_; dsimp only; exact keeps_out (by with_reducible assumption))
    | dsimp only

theorem convStop_keeps {z : State} {s : State} (hs : Keeps z s) (c : Nat) : Keeps z (State.convStop s c) := by
  unfold State.convStop
  repeat' first
    | with_reducible assumption
    | (unfold x; clear x)
    | (extract_lets -merge -useContext +onlyGivenNames x; first | (refine keeps_cut (s0 := z) x ?_ (fun hx => ?_); rotate_left; clear_value x) | clear_value x)
    | with_reducible apply convTo_keeps
    | split
    | exact keeps_in (keeps_out hx)
    | exact keeps_in (keeps_out hs)
    | (refine keeps_in ?_; dsimp only; exact keeps_out (by with_reducible assumption))
    | dsimp only

theorem convShortEnd_keeps {z : State} {s : State} (hs : Keeps z s) (c : Nat) : Keeps z (State.convShortEnd s c) := by
  unfold State.convShortEnd
  repeat' first
    | with_reducible assumption
    | (unfold x; clear x)
    | (extract_lets -merge -useContext +onlyGivenNames x; first | (refine keeps_cut (s0 := z) x ?_ (fun hx => ?_); rotate_left; clear_value x) | clear_value x)
    | with_reducible apply convTo_keeps
    | split
    | exact keeps_in (keeps_out hx)
    | exact keeps_in (keeps_out hs)
    | (refine keeps_in ?_; dsimp only; exact keeps_out (by with_reducible assumption))
    | dsimp only

theorem convChargeDone_keeps {z : State} {s : State} (hs : Keeps z s) (c : Nat) : Keeps z (State.convChargeDone s c) := by
  unfold State.convChargeDone
  repeat' first
    | with_reducible assumption
    | (unfold x; clear x)
    | (extract_lets -merge -useContext +onlyGivenNames x; first | (refine keeps_cut (s0 := z) x ?_ (fun hx => ?_); rotate_left; clear_value x) | clear_value x)
    | with_reducible apply convTo_keeps
    | split
    | exact keeps_in (keeps_out hx)
    | exact keeps_in (keeps_out hs)
    | (refine keeps_in ?_; dsimp only; exact keeps_out (by with_reducible assumption))
    | dsimp only

theorem balanceDone_keeps {z : State} {s : State} (hs : Keeps z s) (c : Nat) : Keeps z (State.balanceDone s c) := by
  unfold State.balanceDone
  repeat' first
    | with_reducible assumption
    | (unfold x; clear x)
    | (extract_lets -merge -useContext +onlyGivenNames x; first | (refine keeps_cut (s0 := z) x ?_ (fun hx => ?_); rotate_left; clear_value x) | clear_value x)
    | with_reducible apply setConvX_keeps
    | with_reducible apply dioDrive_keeps
    | split
    | exact keeps_in (keeps_out hx)
    | exact keeps_in (keeps_out hs)
    | (refine keeps_in ?_; dsimp only; exact keeps_out (by with_reducible assumption))
    | dsimp only

theorem mainContactDone_keeps {z : State} {s : State} (hs : Keeps z s) (c : Nat) : Keeps z (State.mainContactDone s c) := by
  unfold State.mainContactDone
  repeat' first
    | with_reducible assumption
    | (unfold x; clear x)
    | (extract_lets -merge -useContext +onlyGivenNames x; first | (refine keeps_cut (s0 := z) x ?_ (fun hx => ?_); rotate_left; clear_value x) | clear_value x)
    | with_reducible apply convTo_keeps
    | with_reducible apply setConvX_keeps
    | with_reducible apply dioDrive_keeps
    | split
    | exact keeps_in (keeps_out hx)
    | exact keeps_in (keeps_out hs)
    | (refine keeps_in ?_; dsimp only; exact keeps_out (by with_reducible assumption))
    | dsimp only

theorem prechargeFail_keeps {z : State} {s : State} (hs : Keeps z s) (c : Nat) : Keeps z (State.prechargeFail s c) := by
  unfold State.prechargeFail
  repeat' first
    | with_reducible assumption
    | (unfold x; clear x)
    | (extract_lets -merge -useContext +onlyGivenNames x; first | (refine keeps_cut (s0 := z) x ?_ (fun hx => ?_); rotate_left; clear_value x) | clear_value x)
    | with_reducible apply convTo_keeps
    | with_reducible apply convFaultRec_keeps
    | split
    | exact keeps_in (keeps_out hx)
    | exact keeps_in (keeps_out hs)
    | (refine keeps_in ?_; dsimp only; exact keeps_out (by with_reducible assumption))
    | dsimp only

theorem convShutdownDone_keeps {z : State} {s : State} (hs : Keeps z s) (c : Nat) : Keeps z (State.convShutdownDone s c) := by
  unfold State.convShutdownDone
  repeat' first
    | with_reducible assumption
    | (unfold x; clear x)
    | (extract_lets -merge -useContext +onlyGivenNames x; first | (refine keeps_cut (s0 := z) x ?_ (fun hx => ?_); rotate_left; clear_value x) | clear_value x)
    | with_reducible apply convTo_keeps
    | with_reducible apply setConvX_keeps
    | split
    | exact keeps_in (keeps_out hx)
    | exact keeps_in (keeps_out hs)
    | (refine keeps_in ?_; dsimp only; exact keeps_out (by with_reducible assumption))
    | dsimp only

theorem convDischargeDone_keeps {z : State} {s : State} (hs : Keeps z s) (c : Nat) (elapsed : Bool) : Keeps z (State.convDischargeDone s c elapsed) := by
  unfold State.convDischargeDone
  repeat' first
    | with_reducible assumption
    | (unfold x; clear x)
    | (extract_lets -merge -useContext +onlyGivenNames x; first | (refine keeps_cut (s0 := z) x ?_ (fun hx => ?_); rotate_left; clear_value x) | clear_value x)
    | with_reducible apply convFaultRec_keeps
    | with_reducible apply convTo_keeps
    | with_reducible apply setConvX_keeps
    | split
    | exact keeps_in (keeps_out hx)
    | exact keeps_in (keeps_out hs)
    | (refine keeps_in ?_; dsimp only; exact keeps_out (by with_reducible assumption))
    | dsimp only

theorem cellFail_keeps {z : State} {s : State} (hs : Keeps z s) (c : Nat) (j : Nat) (cause : Nat) : Keeps z (State.cellFail s c j cause) := by
  unfold State.cellFail
  repeat' first
    | with_reducible assumption
    | (unfold x; clear x)
    | (extract_lets -merge -useContext +onlyGivenNames x; first | (refine keeps_cut (s0 := z) x ?_ (fun hx => ?_); rotate_left; clear_value x) | clear_value x)
    | with_reducible apply put_keeps
    | with_reducible apply cellFaultRec_keeps
    | with_reducible apply setCellX_keeps
    | split
    | exact keeps_in (keeps_out hx)
    | exact keeps_in (keeps_out hs)
    | (refine keeps_in ?_; dsimp only; exact keeps_out (by with_reducible assumption))
    | dsimp only

theorem cellRetired_keeps {z : State} {s : State} (hs : Keeps z s) (c : Nat) (j : Nat) (uid : Nat) : Keeps z (State.cellRetired s c j uid) := by
  unfold State.cellRetired
  repeat' first
    | with_reducible assumption
    | (unfold x; clear x)
    | with_reducible refine keeps_snd (by with_reducible assumption) ?_
    | with_reducible refine keeps_fst (by with_reducible assumption) ?_
    | (extract_lets -merge -useContext +onlyGivenNames x; first | (refine keeps_cut (s0 := z) x ?_ (fun hx => ?_); rotate_left; clear_value x) | (refine keeps_cut (s0 := z) x.1 ?_ (fun hx => ?_); rotate_left; clear_value x) | (refine keeps_cut (s0 := z) x.2 ?_ (fun hx => ?_); rotate_left; clear_value x) | have _ : Mram := x | clear_value x)
    | with_reducible apply put_keeps
    | with_reducible apply cellFaultRec_keeps
    | split
    | exact keeps_in (keeps_out hx)
    | exact keeps_in (keeps_out hs)
    | (refine keeps_in ?_; dsimp only; exact keeps_out (by with_reducible assumption))
    | dsimp only

theorem cellFix_keeps {z : State} {s : State} (hs : Keeps z s) (c : Nat) (a : Nat) (i : Nat) : Keeps z (State.cellFix s c a i).1 := by
  unfold State.cellFix
  repeat' first
    | with_reducible assumption
    | (unfold x; clear x)
    | with_reducible refine keeps_snd (by with_reducible assumption) ?_
    | with_reducible refine keeps_fst (by with_reducible assumption) ?_
    | with_reducible refine keeps_third (by with_reducible assumption) ?_
    | with_reducible refine keeps_mid (by with_reducible assumption) ?_
    | (extract_lets -merge -useContext +onlyGivenNames x; first | (refine keeps_cut (s0 := z) x ?_ (fun hx => ?_); rotate_left; clear_value x) | (refine keeps_cut (s0 := z) x.1 ?_ (fun hx => ?_); rotate_left; clear_value x) | (refine keeps_cut (s0 := z) x.2 ?_ (fun hx => ?_); rotate_left; clear_value x) | clear_value x | skip)
    | with_reducible apply setCellX_keeps
    | with_reducible apply cellRetired_keeps
    | with_reducible apply cellFail_keeps
    | with_reducible apply put_keeps
    | with_reducible apply inc_keeps
    | split
    | exact keeps_in (keeps_out hx)
    | exact keeps_in (keeps_out hs)
    | (refine keeps_in ?_; dsimp only; exact keeps_out (by with_reducible assumption))
    | dsimp -zeta only
    | dsimp only

theorem armFix_keeps {z : State} {s : State} (hs : Keeps z s) (c : Nat) (a : Nat) : Keeps z (State.armFix s c a) := by
  unfold State.armFix
  repeat' first
    | with_reducible assumption
    | (unfold x; clear x)
    | with_reducible refine keeps_snd (by with_reducible assumption) ?_
    | with_reducible refine keeps_fst (by with_reducible assumption) ?_
    | with_reducible refine keeps_third (by with_reducible assumption) ?_
    | with_reducible refine keeps_mid (by with_reducible assumption) ?_
    | (extract_lets -merge -useContext +onlyGivenNames x; first | (refine keeps_cut (s0 := z) x ?_ (fun hx => ?_); rotate_left; clear_value x) | (refine keeps_cut (s0 := z) x.1 ?_ (fun hx => ?_); rotate_left; clear_value x) | (refine keeps_cut (s0 := z) x.2 ?_ (fun hx => ?_); rotate_left; clear_value x) | clear_value x)
    | with_reducible apply put_keeps
    | with_reducible apply putF_keeps
    | with_reducible apply setArmX_keeps
    | with_reducible apply armFaultRec_keeps
    | with_reducible refine keeps_foldl ?_ (fun t b ht => ?_)
    | with_reducible refine keeps_foldl_fst ?_ (fun t b ht => ?_)
    | with_reducible refine keeps_foldl_snd ?_ (fun t b ht => ?_)
    | split
    | exact keeps_in (keeps_out hx)
    | exact keeps_in (keeps_out hs)
    | exact keeps_in (keeps_out ht)
    | (refine keeps_in ?_; dsimp only; exact keeps_out (by with_reducible assumption))
    | dsimp only

theorem redundancy_keeps {z : State} {s : State} (hs : Keeps z s) (c : Nat) : Keeps z (State.redundancy s c) := by
  unfold State.redundancy
  repeat' first
    | with_reducible assumption
    | (unfold x; clear x)
    | (extract_lets -merge -useContext +onlyGivenNames x; first | (refine keeps_cut (s0 := z) x ?_ (fun hx => ?_); rotate_left; clear_value x) | clear_value x)
    | with_reducible apply convFaultRec_keeps
    | with_reducible apply setConvX_keeps
    | with_reducible apply put_keeps
    | with_reducible apply convFault_keeps
    | split
    | exact keeps_in (keeps_out hx)
    | exact keeps_in (keeps_out hs)
    | (refine keeps_in ?_; dsimp only; exact keeps_out (by with_reducible assumption))
    | dsimp only

theorem convMark_keeps {z : State} {s : State} (hs : Keeps z s) (c : Nat) : Keeps z (State.convMark s c) := by
  unfold State.convMark
  repeat' first
    | with_reducible assumption
    | (unfold x; clear x)
    | (extract_lets -merge -useContext +onlyGivenNames x; first | (refine keeps_cut (s0 := z) x ?_ (fun hx => ?_); rotate_left; clear_value x) | clear_value x)
    | with_reducible apply putF_keeps
    | with_reducible apply convFault_keeps
    | with_reducible apply convFaultRec_keeps
    | with_reducible apply setConvX_keeps
    | split
    | exact keeps_in (keeps_out hx)
    | exact keeps_in (keeps_out hs)
    | (refine keeps_in ?_; dsimp only; exact keeps_out (by with_reducible assumption))
    | dsimp only

theorem sortFixedPoint_keeps {z : State} {s : State} (hs : Keeps z s) : Keeps z (State.sortFixedPoint s) := by
  unfold State.sortFixedPoint
  repeat' first
    | with_reducible assumption
    | (unfold x; clear x)
    | with_reducible refine keeps_snd (by with_reducible assumption) ?_
    | with_reducible refine keeps_fst (by with_reducible assumption) ?_
    | with_reducible refine keeps_third (by with_reducible assumption) ?_
    | with_reducible refine keeps_mid (by with_reducible assumption) ?_
    | (extract_lets -merge -useContext +onlyGivenNames x; first | (refine keeps_cut (s0 := z) x ?_ (fun hx => ?_); rotate_left; clear_value x) | (refine keeps_cut (s0 := z) x.1 ?_ (fun hx => ?_); rotate_left; clear_value x) | (refine keeps_cut (s0 := z) x.2 ?_ (fun hx => ?_); rotate_left; clear_value x) | clear_value x)
    | with_reducible apply slotAges_keeps
    | with_reducible apply cellFix_keeps
    | with_reducible apply armFix_keeps
    | with_reducible apply convFault_keeps
    | with_reducible apply convFaultRec_keeps
    | with_reducible apply redundancy_keeps
    | with_reducible refine keeps_foldl ?_ (fun t b ht => ?_)
    | (with_reducible refine keeps_foldl_fst ?_ (fun t b ht => ?_); rotate_left; rcases t with ⟨t, r⟩; dsimp -zeta only at ht ⊢)
    | (with_reducible refine keeps_foldl_snd ?_ (fun t b ht => ?_); rotate_left; rcases t with ⟨r, t⟩; dsimp -zeta only at ht ⊢)
    | with_reducible refine keeps_foldl_fst ?_ (fun t b ht => ?_)
    | with_reducible refine keeps_foldl_snd ?_ (fun t b ht => ?_)
    | split
    | exact keeps_in (keeps_out hx)
    | exact keeps_in (keeps_out hs)
    | exact keeps_in (keeps_out ht)
    | (refine keeps_in ?_; dsimp only; exact keeps_out (by with_reducible assumption))
    | dsimp only

theorem armOvercurrent_keeps {z : State} {s : State} (hs : Keeps z s) (c : Nat) : Keeps z (State.armOvercurrent s c) := by
  unfold State.armOvercurrent
  repeat' first
    | with_reducible assumption
    | (unfold x; clear x)
    | (extract_lets -merge -useContext +onlyGivenNames x; first | (refine keeps_cut (s0 := z) x ?_ (fun hx => ?_); rotate_left; clear_value x) | clear_value x)
    | with_reducible apply convFault_keeps
    | with_reducible apply armFaultRec_keeps
    | with_reducible refine keeps_foldl ?_ (fun t b ht => ?_)
    | with_reducible apply setArmX_keeps
    | with_reducible refine keeps_foldl_fst ?_ (fun t b ht => ?_)
    | with_reducible refine keeps_foldl_snd ?_ (fun t b ht => ?_)
    | split
    | exact keeps_in (keeps_out hx)
    | exact keeps_in (keeps_out hs)
    | exact keeps_in (keeps_out ht)
    | (refine keeps_in ?_; dsimp only; exact keeps_out (by with_reducible assumption))
    | dsimp only

theorem armSelect_keeps {z : State} {s : State} (hs : Keeps z s) (c : Nat) (a : Nat) (u : F32) : Keeps z (State.armSelect s c a u) := by
  unfold State.armSelect
  repeat' first
    | with_reducible assumption
    | (unfold x; clear x)
    | (extract_lets -merge -useContext +onlyGivenNames x; first | (refine keeps_cut (s0 := z) x ?_ (fun hx => ?_); rotate_left; clear_value x) | clear_value x)
    | with_reducible apply put_keeps
    | with_reducible apply putB_keeps
    | with_reducible apply setArmX_keeps
    | with_reducible apply inc_keeps
    | split
    | exact keeps_in (keeps_out hx)
    | exact keeps_in (keeps_out hs)
    | (refine keeps_in ?_; dsimp only; exact keeps_out (by with_reducible assumption))
    | dsimp only

theorem cellCommand_keeps {z : State} {s : State} (hs : Keeps z s) (c : Nat) (a : Nat) (i : Nat) : Keeps z (State.cellCommand s c a i) := by
  unfold State.cellCommand
  repeat' first
    | with_reducible assumption
    | (unfold x; clear x)
    | (extract_lets -merge -useContext +onlyGivenNames x; first | (refine keeps_cut (s0 := z) x ?_ (fun hx => ?_); rotate_left; clear_value x) | clear_value x)
    | with_reducible apply setCellX_keeps
    | with_reducible apply put_keeps
    | with_reducible apply setSlotX_keeps
    | split
    | exact keeps_in (keeps_out hx)
    | exact keeps_in (keeps_out hs)
    | (refine keeps_in ?_; dsimp only; exact keeps_out (by with_reducible assumption))
    | dsimp only

theorem formCommands_keeps {z : State} {s : State} (hs : Keeps z s) (r : Nat) : Keeps z (State.formCommands s r) := by
  unfold State.formCommands
  repeat' first
    | with_reducible assumption
    | (unfold x; clear x)
    | (extract_lets -merge -useContext +onlyGivenNames x; first | (refine keeps_cut (s0 := z) x ?_ (fun hx => ?_); rotate_left; clear_value x) | clear_value x)
    | with_reducible apply cellCommand_keeps
    | with_reducible refine keeps_foldl ?_ (fun t b ht => ?_)
    | with_reducible apply setSlotX_keeps
    | with_reducible refine keeps_foldl_fst ?_ (fun t b ht => ?_)
    | with_reducible refine keeps_foldl_snd ?_ (fun t b ht => ?_)
    | split
    | exact keeps_in (keeps_out hx)
    | exact keeps_in (keeps_out hs)
    | exact keeps_in (keeps_out ht)
    | (refine keeps_in ?_; dsimp only; exact keeps_out (by with_reducible assumption))
    | dsimp only

theorem cellClear_keeps {z : State} {s : State} (hs : Keeps z s) (j : Nat) : Keeps z (State.cellClear s j).2 := by
  unfold State.cellClear
  repeat' first
    | with_reducible assumption
    | (unfold x; clear x)
    | with_reducible refine keeps_snd (by with_reducible assumption) ?_
    | with_reducible refine keeps_fst (by with_reducible assumption) ?_
    | with_reducible refine keeps_third (by with_reducible assumption) ?_
    | with_reducible refine keeps_mid (by with_reducible assumption) ?_
    | (extract_lets -merge -useContext +onlyGivenNames x; first | (refine keeps_cut (s0 := z) x ?_ (fun hx => ?_); rotate_left; clear_value x) | (refine keeps_cut (s0 := z) x.1 ?_ (fun hx => ?_); rotate_left; clear_value x) | (refine keeps_cut (s0 := z) x.2 ?_ (fun hx => ?_); rotate_left; clear_value x) | clear_value x)
    | with_reducible apply put_keeps
    | with_reducible apply clearFault_keeps
    | with_reducible apply setCellX_keeps
    | split
    | exact keeps_in (keeps_out hx)
    | exact keeps_in (keeps_out hs)
    | (refine keeps_in ?_; dsimp only; exact keeps_out (by with_reducible assumption))
    | dsimp only

theorem cellExcl_keeps {z : State} {s : State} (hs : Keeps z s) (j : Nat) (v : Nat) : Keeps z (State.cellExcl s j v).2 := by
  unfold State.cellExcl
  repeat' first
    | with_reducible assumption
    | (unfold x; clear x)
    | with_reducible refine keeps_snd (by with_reducible assumption) ?_
    | with_reducible refine keeps_fst (by with_reducible assumption) ?_
    | with_reducible refine keeps_third (by with_reducible assumption) ?_
    | with_reducible refine keeps_mid (by with_reducible assumption) ?_
    | (extract_lets -merge -useContext +onlyGivenNames x; first | (refine keeps_cut (s0 := z) x ?_ (fun hx => ?_); rotate_left; clear_value x) | (refine keeps_cut (s0 := z) x.1 ?_ (fun hx => ?_); rotate_left; clear_value x) | (refine keeps_cut (s0 := z) x.2 ?_ (fun hx => ?_); rotate_left; clear_value x) | clear_value x)
    | with_reducible apply put_keeps
    | split
    | exact keeps_in (keeps_out hx)
    | exact keeps_in (keeps_out hs)
    | (refine keeps_in ?_; dsimp only; exact keeps_out (by with_reducible assumption))
    | dsimp only

theorem cellRetire_keeps {z : State} {s : State} (hs : Keeps z s) (j : Nat) (v : Nat) : Keeps z (State.cellRetire s j v).2 := by
  unfold State.cellRetire
  repeat' first
    | with_reducible assumption
    | (unfold x; clear x)
    | with_reducible refine keeps_snd (by with_reducible assumption) ?_
    | with_reducible refine keeps_fst (by with_reducible assumption) ?_
    | (extract_lets -merge -useContext +onlyGivenNames x; first | (refine keeps_cut (s0 := z) x ?_ (fun hx => ?_); rotate_left; clear_value x) | (refine keeps_cut (s0 := z) x.1 ?_ (fun hx => ?_); rotate_left; clear_value x) | (refine keeps_cut (s0 := z) x.2 ?_ (fun hx => ?_); rotate_left; clear_value x) | have _ : Mram := x | clear_value x)
    | with_reducible apply cellRetired_keeps
    | with_reducible apply put_keeps
    | split
    | exact keeps_in (keeps_out hx)
    | exact keeps_in (keeps_out hs)
    | (refine keeps_in ?_; dsimp only; exact keeps_out (by with_reducible assumption))
    | dsimp only

end Sys2Proof.Laws
end

