-- ==== Sys2Proof/Laws/Inputs.lean ====
section
/-! SUPPORT. What the operations of `Machine/Inputs.lean` keep. -/
namespace Sys2Proof.Laws
open Machine Safety

theorem setDioX_keeps {z : State} {s : State} (hs : Keeps z s) (n : Nat) (x : DioX) : Keeps z (State.setDioX s n x) := by
  unfold State.setDioX
  repeat' first
    | with_reducible assumption
    | (unfold x; clear x)
    | (extract_lets -merge -useContext +onlyGivenNames x; first | (refine keeps_cut (s0 := z) x ?_ (fun hx => ?_); rotate_left; clear_value x) | clear_value x)
    | split
    | exact keeps_in (keeps_out hx)
    | exact keeps_in (keeps_out hs)
    | (refine keeps_in ?_; dsimp only; exact keeps_out (by with_reducible assumption))
    | dsimp only

theorem setFbX_keeps {z : State} {s : State} (hs : Keeps z s) (n : Nat) (x : FbX) : Keeps z (State.setFbX s n x) := by
  unfold State.setFbX
  repeat' first
    | with_reducible assumption
    | (unfold x; clear x)
    | with_reducible refine keeps_snd (by with_reducible assumption) ?_
    | with_reducible refine keeps_fst (by with_reducible assumption) ?_
    | (extract_lets -merge -useContext +onlyGivenNames x; first | (refine keeps_cut (s0 := z) x ?_ (fun hx => ?_); rotate_left; clear_value x) | (refine keeps_cut (s0 := z) x.1 ?_ (fun hx => ?_); rotate_left; clear_value x) | (refine keeps_cut (s0 := z) x.2 ?_ (fun hx => ?_); rotate_left; clear_value x) | clear_value x)
    | split
    | exact keeps_in (keeps_out hx)
    | exact keeps_in (keeps_out hs)
    | (refine keeps_in ?_; dsimp only; exact keeps_out (by with_reducible assumption))
    | dsimp only

theorem setCmpX_keeps {z : State} {s : State} (hs : Keeps z s) (c : Nat) (x : CmpX) : Keeps z (State.setCmpX s c x) := by
  unfold State.setCmpX
  repeat' first
    | with_reducible assumption
    | (unfold x; clear x)
    | (extract_lets -merge -useContext +onlyGivenNames x; first | (refine keeps_cut (s0 := z) x ?_ (fun hx => ?_); rotate_left; clear_value x) | clear_value x)
    | split
    | exact keeps_in (keeps_out hx)
    | exact keeps_in (keeps_out hs)
    | (refine keeps_in ?_; dsimp only; exact keeps_out (by with_reducible assumption))
    | dsimp only

theorem setEoX_keeps {z : State} {s : State} (hs : Keeps z s) (e : Nat) (x : EoX) : Keeps z (State.setEoX s e x) := by
  unfold State.setEoX
  repeat' first
    | with_reducible assumption
    | (unfold x; clear x)
    | (extract_lets -merge -useContext +onlyGivenNames x; first | (refine keeps_cut (s0 := z) x ?_ (fun hx => ?_); rotate_left; clear_value x) | clear_value x)
    | split
    | exact keeps_in (keeps_out hx)
    | exact keeps_in (keeps_out hs)
    | (refine keeps_in ?_; dsimp only; exact keeps_out (by with_reducible assumption))
    | dsimp only

theorem setSdX_keeps {z : State} {s : State} (hs : Keeps z s) (k : Nat) (x : SdX) : Keeps z (State.setSdX s k x) := by
  unfold State.setSdX
  repeat' first
    | with_reducible assumption
    | (unfold x; clear x)
    | (extract_lets -merge -useContext +onlyGivenNames x; first | (refine keeps_cut (s0 := z) x ?_ (fun hx => ?_); rotate_left; clear_value x) | clear_value x)
    | split
    | exact keeps_in (keeps_out hx)
    | exact keeps_in (keeps_out hs)
    | (refine keeps_in ?_; dsimp only; exact keeps_out (by with_reducible assumption))
    | dsimp only

theorem inputFault_keeps {z : State} {s : State} (hs : Keeps z s) (code : Nat) (inst : Nat) (cls : Nat) (axes : List Nat) : Keeps z (State.inputFault s code inst cls axes) := by
  unfold State.inputFault
  repeat' first
    | with_reducible assumption
    | (unfold x; clear x)
    | (extract_lets -merge -useContext +onlyGivenNames x; first | (refine keeps_cut (s0 := z) x ?_ (fun hx => ?_); rotate_left; clear_value x) | clear_value x)
    | with_reducible apply alarm_keeps
    | split
    | exact keeps_in (keeps_out hx)
    | exact keeps_in (keeps_out hs)
    | (refine keeps_in ?_; dsimp only; exact keeps_out (by with_reducible assumption))
    | dsimp only

theorem latchTo_keeps {z : State} {s : State} (hs : Keeps z s) (n : Nat) (p : Int) (t : Nat) : Keeps z (State.latchTo s n p t) := by
  unfold State.latchTo
  repeat' first
    | with_reducible assumption
    | (unfold x; clear x)
    | (extract_lets -merge -useContext +onlyGivenNames x; first | (refine keeps_cut (s0 := z) x ?_ (fun hx => ?_); rotate_left; clear_value x) | clear_value x)
    | with_reducible apply inc_keeps
    | with_reducible apply put_keeps
    | with_reducible apply setDioX_keeps
    | with_reducible apply raiseAxis_keeps
    | with_reducible refine keeps_foldl ?_ (fun t b ht => ?_)
    | with_reducible refine keeps_foldl_fst ?_ (fun t b ht => ?_)
    | with_reducible refine keeps_foldl_snd ?_ (fun t b ht => ?_)
    | split
    | exact keeps_in (keeps_out hx)
    | exact keeps_in (keeps_out hs)
    | exact keeps_in (keeps_out ht)
    | (refine keeps_in ?_; dsimp only; exact keeps_out (by with_reducible assumption))
    | dsimp only

theorem dioLatch_keeps {z : State} {s : State} (hs : Keeps z s) (n : Nat) (rising : Bool) (t : Nat) : Keeps z (State.dioLatch s n rising t) := by
  unfold State.dioLatch
  repeat' first
    | with_reducible assumption
    | (unfold x; clear x)
    | (extract_lets -merge -useContext +onlyGivenNames x; first | (refine keeps_cut (s0 := z) x ?_ (fun hx => ?_); rotate_left; clear_value x) | clear_value x)
    | with_reducible apply setDioX_keeps
    | with_reducible apply latchTo_keeps
    | split
    | exact keeps_in (keeps_out hx)
    | exact keeps_in (keeps_out hs)
    | (refine keeps_in ?_; dsimp only; exact keeps_out (by with_reducible assumption))
    | dsimp only

theorem ssiLatches_keeps {z : State} {s : State} (hs : Keeps z s) (c : Nat) : Keeps z (State.ssiLatches s c) := by
  unfold State.ssiLatches
  repeat' first
    | with_reducible assumption
    | (unfold x; clear x)
    | with_reducible refine keeps_snd (by with_reducible assumption) ?_
    | with_reducible refine keeps_fst (by with_reducible assumption) ?_
    | with_reducible refine keeps_third (by with_reducible assumption) ?_
    | with_reducible refine keeps_mid (by with_reducible assumption) ?_
    | (extract_lets -merge -useContext +onlyGivenNames x; first | (refine keeps_cut (s0 := z) x ?_ (fun hx => ?_); rotate_left; clear_value x) | (refine keeps_cut (s0 := z) x.1 ?_ (fun hx => ?_); rotate_left; clear_value x) | (refine keeps_cut (s0 := z) x.2 ?_ (fun hx => ?_); rotate_left; clear_value x) | clear_value x)
    | with_reducible apply setDioX_keeps
    | with_reducible apply latchTo_keeps
    | with_reducible refine keeps_foldl ?_ (fun t b ht => ?_)
    | with_reducible refine keeps_foldl_fst ?_ (fun t b ht => ?_)
    | with_reducible refine keeps_foldl_snd ?_ (fun t b ht => ?_)
    | split
    | exact keeps_in (keeps_out hx)
    | exact keeps_in (keeps_out hs)
    | exact keeps_in (keeps_out ht)
    | (refine keeps_in ?_; dsimp only; exact keeps_out (by with_reducible assumption))
    | dsimp only

theorem dioFaulted_keeps {z : State} {s : State} (hs : Keeps z s) (n : Nat) (code : Nat) : Keeps z (State.dioFaulted s n code) := by
  unfold State.dioFaulted
  repeat' first
    | with_reducible assumption
    | (unfold x; clear x)
    | (extract_lets -merge -useContext +onlyGivenNames x; first | (refine keeps_cut (s0 := z) x ?_ (fun hx => ?_); rotate_left; clear_value x) | clear_value x)
    | with_reducible apply inputFault_keeps
    | with_reducible apply put_keeps
    | with_reducible apply setDioX_keeps
    | split
    | exact keeps_in (keeps_out hx)
    | exact keeps_in (keeps_out hs)
    | (refine keeps_in ?_; dsimp only; exact keeps_out (by with_reducible assumption))
    | dsimp only

theorem dioGlitches_keeps {z : State} {s : State} (hs : Keeps z s) (n : Nat) (k : Nat) : Keeps z (State.dioGlitches s n k) := by
  unfold State.dioGlitches
  repeat' first
    | with_reducible assumption
    | (unfold x; clear x)
    | (extract_lets -merge -useContext +onlyGivenNames x; first | (refine keeps_cut (s0 := z) x ?_ (fun hx => ?_); rotate_left; clear_value x) | clear_value x)
    | with_reducible apply setDioX_keeps
    | with_reducible apply dioFaulted_keeps
    | split
    | exact keeps_in (keeps_out hx)
    | exact keeps_in (keeps_out hs)
    | (refine keeps_in ?_; dsimp only; exact keeps_out (by with_reducible assumption))
    | dsimp only

theorem dioAccept_keeps {z : State} {s : State} (hs : Keeps z s) (n : Nat) (v : Bool) (t : Nat) (c : Nat) : Keeps z (State.dioAccept s n v t c) := by
  unfold State.dioAccept
  repeat' first
    | with_reducible assumption
    | (unfold x; clear x)
    | (extract_lets -merge -useContext +onlyGivenNames x; first | (refine keeps_cut (s0 := z) x ?_ (fun hx => ?_); rotate_left; clear_value x) | (refine keeps_cut (s0 := z) x.1 ?_ (fun hx => ?_); rotate_left; clear_value x) | (refine keeps_cut (s0 := z) x.2 ?_ (fun hx => ?_); rotate_left; clear_value x) | (refine keeps_cut (s0 := z) x.2.2 ?_ (fun hx => ?_); rotate_left; clear_value x) | clear_value x)
    | with_reducible apply putB_keeps
    | with_reducible apply setDioX_keeps
    | with_reducible apply dioLatch_keeps
    | split
    | exact keeps_in (keeps_out hx)
    | exact keeps_in (keeps_out hs)
    | (refine keeps_in ?_; dsimp only; exact keeps_out (by with_reducible assumption))
    | dsimp only

theorem dioDue_keeps {z : State} {s : State} (hs : Keeps z s) (n : Nat) (c : Nat) : Keeps z (State.dioDue s n c) := by
  unfold State.dioDue
  repeat' first
    | with_reducible assumption
    | (unfold x; clear x)
    | with_reducible refine keeps_snd (by with_reducible assumption) ?_
    | with_reducible refine keeps_fst (by with_reducible assumption) ?_
    | with_reducible refine keeps_third (by with_reducible assumption) ?_
    | with_reducible refine keeps_mid (by with_reducible assumption) ?_
    | (extract_lets -merge -useContext +onlyGivenNames x; first | (refine keeps_cut (s0 := z) x ?_ (fun hx => ?_); rotate_left; clear_value x) | (refine keeps_cut (s0 := z) x.1 ?_ (fun hx => ?_); rotate_left; clear_value x) | (refine keeps_cut (s0 := z) x.2 ?_ (fun hx => ?_); rotate_left; clear_value x) | (refine keeps_cut (s0 := z) x.2.2 ?_ (fun hx => ?_); rotate_left; clear_value x) | clear_value x)
    | with_reducible apply dioAccept_keeps
    | split
    | exact keeps_in (keeps_out hx)
    | exact keeps_in (keeps_out hs)
    | (refine keeps_in ?_; dsimp only; exact keeps_out (by with_reducible assumption))
    | dsimp only

theorem dioEdge_keeps {z : State} {s : State} (hs : Keeps z s) (n : Nat) (v : Bool) (t : Nat) (k : Nat) : Keeps z (State.dioEdge s n v t k) := by
  unfold State.dioEdge
  repeat' first
    | with_reducible assumption
    | (unfold x; clear x)
    | with_reducible refine keeps_snd (by with_reducible assumption) ?_
    | with_reducible refine keeps_fst (by with_reducible assumption) ?_
    | with_reducible refine keeps_third (by with_reducible assumption) ?_
    | with_reducible refine keeps_mid (by with_reducible assumption) ?_
    | (extract_lets -merge -useContext +onlyGivenNames x; first | (refine keeps_cut (s0 := z) x ?_ (fun hx => ?_); rotate_left; clear_value x) | (refine keeps_cut (s0 := z) x.1 ?_ (fun hx => ?_); rotate_left; clear_value x) | (refine keeps_cut (s0 := z) x.2 ?_ (fun hx => ?_); rotate_left; clear_value x) | clear_value x)
    | with_reducible apply dioGlitches_keeps
    | with_reducible apply setDioX_keeps
    | with_reducible apply dioFaulted_keeps
    | with_reducible apply dioLatch_keeps
    | with_reducible apply putB_keeps
    | with_reducible apply dioDue_keeps
    | with_reducible apply dioAccept_keeps
    | split
    | exact keeps_in (keeps_out hx)
    | exact keeps_in (keeps_out hs)
    | (refine keeps_in ?_; dsimp only; exact keeps_out (by with_reducible assumption))
    | dsimp only

theorem dioWindowEnd_keeps {z : State} {s : State} (hs : Keeps z s) : Keeps z (State.dioWindowEnd s) := by
  unfold State.dioWindowEnd
  repeat' first
    | with_reducible assumption
    | (unfold x; clear x)
    | with_reducible refine keeps_snd (by with_reducible assumption) ?_
    | with_reducible refine keeps_fst (by with_reducible assumption) ?_
    | (extract_lets -merge -useContext +onlyGivenNames x; first | (refine keeps_cut (s0 := z) x ?_ (fun hx => ?_); rotate_left; clear_value x) | (refine keeps_cut (s0 := z) x.1 ?_ (fun hx => ?_); rotate_left; clear_value x) | (refine keeps_cut (s0 := z) x.2 ?_ (fun hx => ?_); rotate_left; clear_value x) | clear_value x)
    | with_reducible apply setDioX_keeps
    | with_reducible refine keeps_foldl ?_ (fun t b ht => ?_)
    | with_reducible apply dioFaulted_keeps
    | with_reducible refine keeps_foldl_fst ?_ (fun t b ht => ?_)
    | with_reducible refine keeps_foldl_snd ?_ (fun t b ht => ?_)
    | split
    | exact keeps_in (keeps_out hx)
    | exact keeps_in (keeps_out hs)
    | exact keeps_in (keeps_out ht)
    | (refine keeps_in ?_; dsimp only; exact keeps_out (by with_reducible assumption))
    | dsimp only

theorem dioStuck_keeps {z : State} {s : State} (hs : Keeps z s) (n : Nat) : Keeps z (State.dioStuck s n) := by
  unfold State.dioStuck
  repeat' first
    | with_reducible assumption
    | (unfold x; clear x)
    | (extract_lets -merge -useContext +onlyGivenNames x; first | (refine keeps_cut (s0 := z) x ?_ (fun hx => ?_); rotate_left; clear_value x) | clear_value x)
    | with_reducible apply dioFaulted_keeps
    | split
    | exact keeps_in (keeps_out hx)
    | exact keeps_in (keeps_out hs)
    | (refine keeps_in ?_; dsimp only; exact keeps_out (by with_reducible assumption))
    | dsimp only

theorem dioClear_keeps {z : State} {s : State} (hs : Keeps z s) (n : Nat) : Keeps z (State.dioClear s n).2 := by
  unfold State.dioClear
  repeat' first
    | with_reducible assumption
    | (unfold x; clear x)
    | with_reducible refine keeps_snd (by with_reducible assumption) ?_
    | with_reducible refine keeps_fst (by with_reducible assumption) ?_
    | (extract_lets -merge -useContext +onlyGivenNames x; first | (refine keeps_cut (s0 := z) x ?_ (fun hx => ?_); rotate_left; clear_value x) | (refine keeps_cut (s0 := z) x.1 ?_ (fun hx => ?_); rotate_left; clear_value x) | (refine keeps_cut (s0 := z) x.2 ?_ (fun hx => ?_); rotate_left; clear_value x) | clear_value x)
    | with_reducible apply clearFault_keeps
    | with_reducible apply put_keeps
    | with_reducible apply putB_keeps
    | split
    | exact keeps_in (keeps_out hx)
    | exact keeps_in (keeps_out hs)
    | (refine keeps_in ?_; dsimp only; exact keeps_out (by with_reducible assumption))
    | dsimp only

theorem compareTest_keeps {z : State} {s : State} (hs : Keeps z s) (n : Nat) (p : Int) : Keeps z (State.compareTest s n p) := by
  unfold State.compareTest
  repeat' first
    | with_reducible assumption
    | (unfold x; clear x)
    | (extract_lets -merge -useContext +onlyGivenNames x; first | (refine keeps_cut (s0 := z) x ?_ (fun hx => ?_); rotate_left; clear_value x) | clear_value x)
    | with_reducible apply setCmpX_keeps
    | with_reducible apply put_keeps
    | with_reducible apply raise_keeps
    | with_reducible refine keeps_foldl ?_ (fun t b ht => ?_)
    | split
    | exact keeps_in (keeps_out hx)
    | exact keeps_in (keeps_out hs)
    | exact keeps_in (keeps_out ht)
    | (refine keeps_in ?_; dsimp only; exact keeps_out (by with_reducible assumption))
    | dsimp only

theorem compareAll_keeps {z : State} {s : State} (hs : Keeps z s) (n : Nat) (p : Int) (own : Int) : Keeps z (State.compareAll s n p own) := by
  unfold State.compareAll
  repeat' first
    | with_reducible assumption
    | (unfold x; clear x)
    | (extract_lets -merge -useContext +onlyGivenNames x; first | (refine keeps_cut (s0 := z) x ?_ (fun hx => ?_); rotate_left; clear_value x) | (refine keeps_cut (s0 := z) x.1 ?_ (fun hx => ?_); rotate_left; clear_value x) | (refine keeps_cut (s0 := z) x.2 ?_ (fun hx => ?_); rotate_left; clear_value x) | (refine keeps_cut (s0 := z) x.2.2 ?_ (fun hx => ?_); rotate_left; clear_value x) | clear_value x)
    | with_reducible apply compareTest_keeps
    | with_reducible refine keeps_foldl ?_ (fun t b ht => ?_)
    | with_reducible refine keeps_foldl_fst ?_ (fun t b ht => ?_)
    | with_reducible refine keeps_foldl_snd ?_ (fun t b ht => ?_)
    | split
    | exact keeps_in (keeps_out hx)
    | exact keeps_in (keeps_out hs)
    | exact keeps_in (keeps_out ht)
    | (refine keeps_in ?_; dsimp only; exact keeps_out (by with_reducible assumption))
    | dsimp only

theorem compareShift_keeps {z : State} {s : State} (hs : Keeps z s) (n : Nat) (p : Int) : Keeps z (State.compareShift s n p) := by
  unfold State.compareShift
  repeat' first
    | with_reducible assumption
    | (unfold x; clear x)
    | (extract_lets -merge -useContext +onlyGivenNames x; first | (refine keeps_cut (s0 := z) x ?_ (fun hx => ?_); rotate_left; clear_value x) | clear_value x)
    | with_reducible apply setCmpX_keeps
    | with_reducible refine keeps_foldl ?_ (fun t b ht => ?_)
    | split
    | exact keeps_in (keeps_out hx)
    | exact keeps_in (keeps_out hs)
    | exact keeps_in (keeps_out ht)
    | (refine keeps_in ?_; dsimp only; exact keeps_out (by with_reducible assumption))
    | dsimp only

theorem compareFrom_keeps {z : State} {s : State} (hs : Keeps z s) (c : Nat) : Keeps z (State.compareFrom s c) := by
  unfold State.compareFrom
  repeat' first
    | with_reducible assumption
    | (unfold x; clear x)
    | (extract_lets -merge -useContext +onlyGivenNames x; first | (refine keeps_cut (s0 := z) x ?_ (fun hx => ?_); rotate_left; clear_value x) | (refine keeps_cut (s0 := z) x.1 ?_ (fun hx => ?_); rotate_left; clear_value x) | (refine keeps_cut (s0 := z) x.2 ?_ (fun hx => ?_); rotate_left; clear_value x) | (refine keeps_cut (s0 := z) x.2.2 ?_ (fun hx => ?_); rotate_left; clear_value x) | clear_value x)
    | with_reducible apply setCmpX_keeps
    | split
    | exact keeps_in (keeps_out hx)
    | exact keeps_in (keeps_out hs)
    | (refine keeps_in ?_; dsimp only; exact keeps_out (by with_reducible assumption))
    | dsimp only

theorem comparePulseEnd_keeps {z : State} {s : State} (hs : Keeps z s) (c : Nat) : Keeps z (State.comparePulseEnd s c) := by
  unfold State.comparePulseEnd
  repeat' first
    | with_reducible assumption
    | (unfold x; clear x)
    | (extract_lets -merge -useContext +onlyGivenNames x; first | (refine keeps_cut (s0 := z) x ?_ (fun hx => ?_); rotate_left; clear_value x) | clear_value x)
    | with_reducible apply setCmpX_keeps
    | split
    | exact keeps_in (keeps_out hx)
    | exact keeps_in (keeps_out hs)
    | (refine keeps_in ?_; dsimp only; exact keeps_out (by with_reducible assumption))
    | dsimp only

theorem fbAxesStop_keeps {z : State} {s : State} (hs : Keeps z s) (n : Nat) : Keeps z (State.fbAxesStop s n) := by
  unfold State.fbAxesStop
  repeat' first
    | with_reducible assumption
    | (unfold x; clear x)
    | (extract_lets -merge -useContext +onlyGivenNames x; first | (refine keeps_cut (s0 := z) x ?_ (fun hx => ?_); rotate_left; clear_value x) | clear_value x)
    | with_reducible apply axisStopReq_keeps
    | with_reducible refine keeps_foldl ?_ (fun t b ht => ?_)
    | split
    | exact keeps_in (keeps_out hx)
    | exact keeps_in (keeps_out hs)
    | exact keeps_in (keeps_out ht)
    | (refine keeps_in ?_; dsimp only; exact keeps_out (by with_reducible assumption))
    | dsimp only

theorem fbDeclare_keeps {z : State} {s : State} (hs : Keeps z s) (n : Nat) (code : Nat) : Keeps z (State.fbDeclare s n code) := by
  unfold State.fbDeclare
  repeat' first
    | with_reducible assumption
    | (unfold x; clear x)
    | (extract_lets -merge -useContext +onlyGivenNames x; first | (refine keeps_cut (s0 := z) x ?_ (fun hx => ?_); rotate_left; clear_value x) | (refine keeps_cut (s0 := z) x.1 ?_ (fun hx => ?_); rotate_left; clear_value x) | (refine keeps_cut (s0 := z) x.2 ?_ (fun hx => ?_); rotate_left; clear_value x) | (refine keeps_cut (s0 := z) x.2.2 ?_ (fun hx => ?_); rotate_left; clear_value x) | clear_value x)
    | with_reducible apply setFbX_keeps
    | with_reducible apply inputFault_keeps
    | split
    | exact keeps_in (keeps_out hx)
    | exact keeps_in (keeps_out hs)
    | (refine keeps_in ?_; dsimp only; exact keeps_out (by with_reducible assumption))
    | dsimp only

theorem fbSettle_keeps {z : State} {s : State} (hs : Keeps z s) (n : Nat) : Keeps z (State.fbSettle s n) := by
  unfold State.fbSettle
  repeat' first
    | with_reducible assumption
    | (unfold x; clear x)
    | with_reducible refine keeps_snd (by with_reducible assumption) ?_
    | with_reducible refine keeps_fst (by with_reducible assumption) ?_
    | with_reducible refine keeps_third (by with_reducible assumption) ?_
    | with_reducible refine keeps_mid (by with_reducible assumption) ?_
    | (extract_lets -merge -useContext +onlyGivenNames x; first | (refine keeps_cut (s0 := z) x ?_ (fun hx => ?_); rotate_left; clear_value x) | (refine keeps_cut (s0 := z) x.1 ?_ (fun hx => ?_); rotate_left; clear_value x) | (refine keeps_cut (s0 := z) x.2 ?_ (fun hx => ?_); rotate_left; clear_value x) | (refine keeps_cut (s0 := z) x.2.2 ?_ (fun hx => ?_); rotate_left; clear_value x) | clear_value x)
    | with_reducible apply setFbX_keeps
    | with_reducible apply put_keeps
    | with_reducible apply fbAxesStop_keeps
    | with_reducible apply inputFault_keeps
    | with_reducible refine keeps_foldl ?_ (fun t b ht => ?_)
    | with_reducible refine keeps_foldl_fst ?_ (fun t b ht => ?_)
    | with_reducible refine keeps_foldl_snd ?_ (fun t b ht => ?_)
    | split
    | exact keeps_in (keeps_out hx)
    | exact keeps_in (keeps_out hs)
    | exact keeps_in (keeps_out ht)
    | (refine keeps_in ?_; dsimp only; exact keeps_out (by with_reducible assumption))
    | dsimp only

theorem fbBad_keeps {z : State} {s : State} (hs : Keeps z s) (n : Nat) : Keeps z (State.fbBad s n) := by
  unfold State.fbBad
  repeat' first
    | with_reducible assumption
    | (unfold x; clear x)
    | (extract_lets -merge -useContext +onlyGivenNames x; first | (refine keeps_cut (s0 := z) x ?_ (fun hx => ?_); rotate_left; clear_value x) | clear_value x)
    | with_reducible apply setFbX_keeps
    | with_reducible apply fbLost_keeps
    | with_reducible apply fbDeclare_keeps
    | split
    | exact keeps_in (keeps_out hx)
    | exact keeps_in (keeps_out hs)
    | (refine keeps_in ?_; dsimp only; exact keeps_out (by with_reducible assumption))
    | dsimp only

theorem fbGood_keeps {z : State} {s : State} (hs : Keeps z s) (n : Nat) : Keeps z (State.fbGood s n) := by
  unfold State.fbGood
  repeat' first
    | with_reducible assumption
    | (unfold x; clear x)
    | (extract_lets -merge -useContext +onlyGivenNames x; first | (refine keeps_cut (s0 := z) x ?_ (fun hx => ?_); rotate_left; clear_value x) | clear_value x)
    | with_reducible apply setFbX_keeps
    | with_reducible apply put_keeps
    | split
    | exact keeps_in (keeps_out hx)
    | exact keeps_in (keeps_out hs)
    | (refine keeps_in ?_; dsimp only; exact keeps_out (by with_reducible assumption))
    | dsimp only

theorem indexMiss_keeps {z : State} {s : State} (hs : Keeps z s) (n : Nat) : Keeps z (State.indexMiss s n) := by
  unfold State.indexMiss
  repeat' first
    | with_reducible assumption
    | (unfold x; clear x)
    | (extract_lets -merge -useContext +onlyGivenNames x; first | (refine keeps_cut (s0 := z) x ?_ (fun hx => ?_); rotate_left; clear_value x) | (refine keeps_cut (s0 := z) x.1 ?_ (fun hx => ?_); rotate_left; clear_value x) | (refine keeps_cut (s0 := z) x.2 ?_ (fun hx => ?_); rotate_left; clear_value x) | (refine keeps_cut (s0 := z) x.2.2 ?_ (fun hx => ?_); rotate_left; clear_value x) | clear_value x)
    | with_reducible apply setFbX_keeps
    | with_reducible apply inc_keeps
    | with_reducible apply inputFault_keeps
    | with_reducible apply fbDeclare_keeps
    | with_reducible apply fbSettle_keeps
    | split
    | exact keeps_in (keeps_out hx)
    | exact keeps_in (keeps_out hs)
    | (refine keeps_in ?_; dsimp only; exact keeps_out (by with_reducible assumption))
    | dsimp only

theorem index_keeps {z : State} {s : State} (hs : Keeps z s) (n : Nat) (t : Nat) : Keeps z (State.index s n t) := by
  unfold State.index
  repeat' first
    | with_reducible assumption
    | (unfold x; clear x)
    | (extract_lets -merge -useContext +onlyGivenNames x; first | (refine keeps_cut (s0 := z) x ?_ (fun hx => ?_); rotate_left; clear_value x) | clear_value x)
    | with_reducible apply put_keeps
    | with_reducible apply setFbX_keeps
    | with_reducible apply inc_keeps
    | with_reducible apply fbLost_keeps
    | with_reducible apply inputFault_keeps
    | with_reducible apply indexMiss_keeps
    | split
    | exact keeps_in (keeps_out hx)
    | exact keeps_in (keeps_out hs)
    | (refine keeps_in ?_; dsimp only; exact keeps_out (by with_reducible assumption))
    | dsimp only

theorem edgeFault_keeps {z : State} {s : State} (hs : Keeps z s) (n : Nat) : Keeps z (State.edgeFault s n) := by
  unfold State.edgeFault
  repeat' first
    | with_reducible assumption
    | (unfold x; clear x)
    | (extract_lets -merge -useContext +onlyGivenNames x; first | (refine keeps_cut (s0 := z) x ?_ (fun hx => ?_); rotate_left; clear_value x) | clear_value x)
    | with_reducible apply inc_keeps
    | with_reducible apply setFbX_keeps
    | with_reducible apply inputFault_keeps
    | split
    | exact keeps_in (keeps_out hx)
    | exact keeps_in (keeps_out hs)
    | (refine keeps_in ?_; dsimp only; exact keeps_out (by with_reducible assumption))
    | dsimp only

theorem edgeSpacing_keeps {z : State} {s : State} (hs : Keeps z s) (n : Nat) (last : Option Nat) (t : Nat) : Keeps z (State.edgeSpacing s n last t) := by
  unfold State.edgeSpacing
  repeat' first
    | with_reducible assumption
    | (unfold x; clear x)
    | (extract_lets -merge -useContext +onlyGivenNames x; first | (refine keeps_cut (s0 := z) x ?_ (fun hx => ?_); rotate_left; clear_value x) | (refine keeps_cut (s0 := z) x.1 ?_ (fun hx => ?_); rotate_left; clear_value x) | (refine keeps_cut (s0 := z) x.2 ?_ (fun hx => ?_); rotate_left; clear_value x) | (refine keeps_cut (s0 := z) x.2.2 ?_ (fun hx => ?_); rotate_left; clear_value x) | clear_value x)
    | with_reducible apply edgeFault_keeps
    | split
    | exact keeps_in (keeps_out hx)
    | exact keeps_in (keeps_out hs)
    | (refine keeps_in ?_; dsimp only; exact keeps_out (by with_reducible assumption))
    | dsimp only

theorem countEdge_keeps {z : State} {s : State} (hs : Keeps z s) (n : Nat) (pinA : Bool) (v : Bool) (both : Bool) (t : Nat) : Keeps z (State.countEdge s n pinA v both t) := by
  unfold State.countEdge
  repeat' first
    | with_reducible assumption
    | (unfold x; clear x)
    | (extract_lets -merge -useContext +onlyGivenNames x; first | (refine keeps_cut (s0 := z) x ?_ (fun hx => ?_); rotate_left; clear_value x) | (refine keeps_cut (s0 := z) x.1 ?_ (fun hx => ?_); rotate_left; clear_value x) | (refine keeps_cut (s0 := z) x.2 ?_ (fun hx => ?_); rotate_left; clear_value x) | (refine keeps_cut (s0 := z) x.2.2 ?_ (fun hx => ?_); rotate_left; clear_value x) | clear_value x)
    | with_reducible apply edgeSpacing_keeps
    | with_reducible apply setFbX_keeps
    | with_reducible apply edgeFault_keeps
    | with_reducible apply compareAll_keeps
    | split
    | exact keeps_in (keeps_out hx)
    | exact keeps_in (keeps_out hs)
    | (refine keeps_in ?_; dsimp only; exact keeps_out (by with_reducible assumption))
    | dsimp only

theorem fbEdge_keeps {z : State} {s : State} (hs : Keeps z s) (n : Nat) (pin : Nat) (v : Bool) (both : Bool) (t : Nat) (k : Nat) : Keeps z (State.fbEdge s n pin v both t k) := by
  unfold State.fbEdge
  repeat' first
    | with_reducible assumption
    | (unfold x; clear x)
    | (extract_lets -merge -useContext +onlyGivenNames x; first | (refine keeps_cut (s0 := z) x ?_ (fun hx => ?_); rotate_left; clear_value x) | clear_value x)
    | with_reducible apply inc_keeps
    | with_reducible apply index_keeps
    | with_reducible apply setFbX_keeps
    | with_reducible apply edgeFault_keeps
    | with_reducible apply compareTest_keeps
    | with_reducible apply edgeSpacing_keeps
    | with_reducible apply countEdge_keeps
    | split
    | exact keeps_in (keeps_out hx)
    | exact keeps_in (keeps_out hs)
    | (refine keeps_in ?_; dsimp only; exact keeps_out (by with_reducible assumption))
    | dsimp only

theorem fbStuck_keeps {z : State} {s : State} (hs : Keeps z s) (n : Nat) (idx : Bool) : Keeps z (State.fbStuck s n idx) := by
  unfold State.fbStuck
  repeat' first
    | with_reducible assumption
    | (unfold x; clear x)
    | (extract_lets -merge -useContext +onlyGivenNames x; first | (refine keeps_cut (s0 := z) x ?_ (fun hx => ?_); rotate_left; clear_value x) | clear_value x)
    | with_reducible apply inc_keeps
    | with_reducible apply setFbX_keeps
    | with_reducible apply inputFault_keeps
    | with_reducible apply indexMiss_keeps
    | split
    | exact keeps_in (keeps_out hx)
    | exact keeps_in (keeps_out hs)
    | (refine keeps_in ?_; dsimp only; exact keeps_out (by with_reducible assumption))
    | dsimp only

theorem ssiOutcome_keeps {z : State} {s : State} (hs : Keeps z s) (n : Nat) (k : Nat) : Keeps z (State.ssiOutcome s n k) := by
  unfold State.ssiOutcome
  repeat' first
    | with_reducible assumption
    | (unfold x; clear x)
    | (extract_lets -merge -useContext +onlyGivenNames x; first | (refine keeps_cut (s0 := z) x ?_ (fun hx => ?_); rotate_left; clear_value x) | clear_value x)
    | with_reducible apply setFbX_keeps
    | split
    | exact keeps_in (keeps_out hx)
    | exact keeps_in (keeps_out hs)
    | (refine keeps_in ?_; dsimp only; exact keeps_out (by with_reducible assumption))
    | dsimp only

theorem ssiServe_keeps {z : State} {s : State} (hs : Keeps z s) (n : Nat) (age : Int) : Keeps z (State.ssiServe s n age) := by
  unfold State.ssiServe
  repeat' first
    | with_reducible assumption
    | (unfold x; clear x)
    | (extract_lets -merge -useContext +onlyGivenNames x; first | (refine keeps_cut (s0 := z) x ?_ (fun hx => ?_); rotate_left; clear_value x) | (refine keeps_cut (s0 := z) x.1 ?_ (fun hx => ?_); rotate_left; clear_value x) | (refine keeps_cut (s0 := z) x.2 ?_ (fun hx => ?_); rotate_left; clear_value x) | (refine keeps_cut (s0 := z) x.2.2 ?_ (fun hx => ?_); rotate_left; clear_value x) | clear_value x)
    | with_reducible apply put_keeps
    | split
    | exact keeps_in (keeps_out hx)
    | exact keeps_in (keeps_out hs)
    | (refine keeps_in ?_; dsimp only; exact keeps_out (by with_reducible assumption))
    | dsimp only

theorem ssiGood_keeps {z : State} {s : State} (hs : Keeps z s) (n : Nat) (ps : Nat) (late : Bool) : Keeps z (State.ssiGood s n ps late) := by
  unfold State.ssiGood
  repeat' first
    | with_reducible assumption
    | (unfold x; clear x)
    | with_reducible refine keeps_snd (by with_reducible assumption) ?_
    | with_reducible refine keeps_fst (by with_reducible assumption) ?_
    | with_reducible refine keeps_third (by with_reducible assumption) ?_
    | with_reducible refine keeps_mid (by with_reducible assumption) ?_
    | (extract_lets -merge -useContext +onlyGivenNames x; first | (refine keeps_cut (s0 := z) x ?_ (fun hx => ?_); rotate_left; clear_value x) | (refine keeps_cut (s0 := z) x.1 ?_ (fun hx => ?_); rotate_left; clear_value x) | (refine keeps_cut (s0 := z) x.2 ?_ (fun hx => ?_); rotate_left; clear_value x) | (refine keeps_cut (s0 := z) x.2.2 ?_ (fun hx => ?_); rotate_left; clear_value x) | clear_value x)
    | with_reducible apply setFbX_keeps
    | with_reducible apply putF_keeps
    | with_reducible apply fbGood_keeps
    | with_reducible apply ssiServe_keeps
    | with_reducible apply ssiLatches_keeps
    | with_reducible apply compareAll_keeps
    | split
    | exact keeps_in (keeps_out hx)
    | exact keeps_in (keeps_out hs)
    | (refine keeps_in ?_; dsimp only; exact keeps_out (by with_reducible assumption))
    | dsimp only

theorem ssiDone_keeps {z : State} {s : State} (hs : Keeps z s) (n : Nat) (low : Bool) (word : Nat) : Keeps z (State.ssiDone s n low word) := by
  unfold State.ssiDone
  repeat' first
    | with_reducible assumption
    | (unfold x; clear x)
    | with_reducible refine keeps_snd (by with_reducible assumption) ?_
    | with_reducible refine keeps_fst (by with_reducible assumption) ?_
    | with_reducible refine keeps_third (by with_reducible assumption) ?_
    | with_reducible refine keeps_mid (by with_reducible assumption) ?_
    | (extract_lets -merge -useContext +onlyGivenNames x; first | (refine keeps_cut (s0 := z) x ?_ (fun hx => ?_); rotate_left; clear_value x) | (refine keeps_cut (s0 := z) x.1 ?_ (fun hx => ?_); rotate_left; clear_value x) | (refine keeps_cut (s0 := z) x.2 ?_ (fun hx => ?_); rotate_left; clear_value x) | clear_value x)
    | with_reducible apply setFbX_keeps
    | with_reducible apply fbBad_keeps
    | with_reducible apply ssiOutcome_keeps
    | with_reducible apply inc_keeps
    | with_reducible apply putF_keeps
    | with_reducible apply fbGood_keeps
    | with_reducible apply serve_keeps
    | with_reducible apply put_keeps
    | with_reducible apply ssiLatches_keeps
    | with_reducible apply compareTest_keeps
    | with_reducible apply ssiGood_keeps
    | split
    | exact keeps_in (keeps_out hx)
    | exact keeps_in (keeps_out hs)
    | (refine keeps_in ?_; dsimp only; exact keeps_out (by with_reducible assumption))
    | dsimp only

theorem markSel_keeps {z s : State} (hs : Keeps z s) (n : Nat) : Keeps z (s.markSel n) := by
  unfold State.markSel
  extract_lets x
  split
  · refine keeps_ite (setFbX_keeps hs _ _) ?_
    exact setFbX_keeps (put_keeps (put_keeps (put_keeps (put_keeps hs _ _ _ _) _ _ _ _) _ _ _ _) _ _ _ _) _ _
  · exact inputFault_keeps (setFbX_keeps (put_keeps (put_keeps hs _ _ _ _) _ _ _ _) _ _) _ _ _ _
  · exact hs

theorem markSpeed_keeps {z s : State} (hs : Keeps z s) (n now : Nat) : Keeps z (s.markSpeed n now) :=
  putF_keeps (putF_keeps hs _ _ _ _) _ _ _ _

theorem markFallback_keeps {z s : State} (hs : Keeps z s) (n : Nat) : Keeps z (s.markFallback n) :=
  keeps_ite (setFbX_keeps hs _ _) hs

theorem markFreeze_keeps {z s : State} (hs : Keeps z s) (n : Nat) (loaded : Bool) : Keeps z (s.markFreeze n loaded) :=
  keeps_ite (fbDeclare_keeps (setFbX_keeps hs _ _) _ _) (setFbX_keeps hs _ _)

theorem markResults_keeps {z s : State} (hs : Keeps z s) (n : Nat) : Keeps z (s.markResults n) :=
  keeps_ite (keeps_ite (fbBad_keeps hs _) (fbGood_keeps hs _)) hs

theorem fbResult_keeps {z : State} {s : State} (hs : Keeps z s) (n : Nat) (loaded : Bool) : Keeps z (State.fbResult s n loaded) := by
  unfold State.fbResult
  repeat' first
    | with_reducible assumption
    | (unfold x; clear x)
    | (extract_lets -merge -useContext +onlyGivenNames x; first | (refine keeps_cut (s0 := z) x ?_ (fun hx => ?_); rotate_left; clear_value x) | (refine keeps_cut (s0 := z) x.1 ?_ (fun hx => ?_); rotate_left; clear_value x) | (refine keeps_cut (s0 := z) x.2 ?_ (fun hx => ?_); rotate_left; clear_value x) | (refine keeps_cut (s0 := z) x.2.2 ?_ (fun hx => ?_); rotate_left; clear_value x) | clear_value x)
    | with_reducible apply setFbX_keeps
    | with_reducible apply put_keeps
    | with_reducible apply markSel_keeps
    | with_reducible apply markResults_keeps
    | with_reducible apply markFreeze_keeps
    | split
    | exact keeps_in (keeps_out hx)
    | exact keeps_in (keeps_out hs)
    | (refine keeps_in ?_; dsimp only; exact keeps_out (by with_reducible assumption))
    | dsimp only

theorem fbPlace_keeps {z : State} {s : State} (hs : Keeps z s) (n : Nat) : Keeps z (State.fbPlace s n) := by
  unfold State.fbPlace
  repeat' first
    | with_reducible assumption
    | (unfold x; clear x)
    | (extract_lets -merge -useContext +onlyGivenNames x; first | (refine keeps_cut (s0 := z) x ?_ (fun hx => ?_); rotate_left; clear_value x) | (refine keeps_cut (s0 := z) x.1 ?_ (fun hx => ?_); rotate_left; clear_value x) | (refine keeps_cut (s0 := z) x.2 ?_ (fun hx => ?_); rotate_left; clear_value x) | (refine keeps_cut (s0 := z) x.2.2 ?_ (fun hx => ?_); rotate_left; clear_value x) | clear_value x)
    | with_reducible apply put_keeps
    | with_reducible apply setFbX_keeps
    | with_reducible apply compareShift_keeps
    | split
    | exact keeps_in (keeps_out hx)
    | exact keeps_in (keeps_out hs)
    | (refine keeps_in ?_; dsimp only; exact keeps_out (by with_reducible assumption))
    | dsimp only

theorem fbUnhomed_keeps {z : State} {s : State} (hs : Keeps z s) (n : Nat) : Keeps z (State.fbUnhomed s n) := by
  unfold State.fbUnhomed
  repeat' first
    | with_reducible assumption
    | (unfold x; clear x)
    | (extract_lets -merge -useContext +onlyGivenNames x; first | (refine keeps_cut (s0 := z) x ?_ (fun hx => ?_); rotate_left; clear_value x) | (refine keeps_cut (s0 := z) x.1 ?_ (fun hx => ?_); rotate_left; clear_value x) | (refine keeps_cut (s0 := z) x.2 ?_ (fun hx => ?_); rotate_left; clear_value x) | (refine keeps_cut (s0 := z) x.2.2 ?_ (fun hx => ?_); rotate_left; clear_value x) | clear_value x)
    | with_reducible apply put_keeps
    | with_reducible refine keeps_foldl ?_ (fun t b ht => ?_)
    | with_reducible refine keeps_foldl_fst ?_ (fun t b ht => ?_)
    | with_reducible refine keeps_foldl_snd ?_ (fun t b ht => ?_)
    | split
    | exact keeps_in (keeps_out hx)
    | exact keeps_in (keeps_out hs)
    | exact keeps_in (keeps_out ht)
    | (refine keeps_in ?_; dsimp only; exact keeps_out (by with_reducible assumption))
    | dsimp only

theorem fbMode_keeps {z : State} {s : State} (hs : Keeps z s) (n : Nat) (v : Nat) : Keeps z (State.fbMode s n v).2 := by
  unfold State.fbMode
  repeat' first
    | with_reducible assumption
    | (unfold x; clear x)
    | with_reducible refine keeps_snd (by with_reducible assumption) ?_
    | with_reducible refine keeps_fst (by with_reducible assumption) ?_
    | (extract_lets -merge -useContext +onlyGivenNames x; first | (refine keeps_cut (s0 := z) x ?_ (fun hx => ?_); rotate_left; clear_value x) | (refine keeps_cut (s0 := z) x.1 ?_ (fun hx => ?_); rotate_left; clear_value x) | (refine keeps_cut (s0 := z) x.2 ?_ (fun hx => ?_); rotate_left; clear_value x) | clear_value x)
    | with_reducible apply put_keeps
    | with_reducible apply setFbX_keeps
    | with_reducible apply fbUnhomed_keeps
    | split
    | exact keeps_in (keeps_out hx)
    | exact keeps_in (keeps_out hs)
    | (refine keeps_in ?_; dsimp only; exact keeps_out (by with_reducible assumption))
    | dsimp only

theorem fbSel_keeps {z : State} {s : State} (hs : Keeps z s) (n : Nat) (v : Nat) : Keeps z (State.fbSel s n v).2 := by
  unfold State.fbSel
  repeat' first
    | with_reducible assumption
    | (unfold x; clear x)
    | with_reducible refine keeps_snd (by with_reducible assumption) ?_
    | with_reducible refine keeps_fst (by with_reducible assumption) ?_
    | (extract_lets -merge -useContext +onlyGivenNames x; first | (refine keeps_cut (s0 := z) x ?_ (fun hx => ?_); rotate_left; clear_value x) | (refine keeps_cut (s0 := z) x.1 ?_ (fun hx => ?_); rotate_left; clear_value x) | (refine keeps_cut (s0 := z) x.2 ?_ (fun hx => ?_); rotate_left; clear_value x) | clear_value x)
    | with_reducible apply setFbX_keeps
    | split
    | exact keeps_in (keeps_out hx)
    | exact keeps_in (keeps_out hs)
    | (refine keeps_in ?_; dsimp only; exact keeps_out (by with_reducible assumption))
    | dsimp only

theorem fbClear_keeps {z : State} {s : State} (hs : Keeps z s) (n : Nat) : Keeps z (State.fbClear s n).2 := by
  unfold State.fbClear
  repeat' first
    | with_reducible assumption
    | (unfold x; clear x)
    | with_reducible refine keeps_snd (by with_reducible assumption) ?_
    | with_reducible refine keeps_fst (by with_reducible assumption) ?_
    | (extract_lets -merge -useContext +onlyGivenNames x; first | (refine keeps_cut (s0 := z) x ?_ (fun hx => ?_); rotate_left; clear_value x) | (refine keeps_cut (s0 := z) x.1 ?_ (fun hx => ?_); rotate_left; clear_value x) | (refine keeps_cut (s0 := z) x.2 ?_ (fun hx => ?_); rotate_left; clear_value x) | clear_value x)
    | with_reducible apply clearFault_keeps
    | with_reducible apply setFbX_keeps
    | with_reducible apply put_keeps
    | split
    | exact keeps_in (keeps_out hx)
    | exact keeps_in (keeps_out hs)
    | (refine keeps_in ?_; dsimp only; exact keeps_out (by with_reducible assumption))
    | dsimp only

theorem possetWrite_keeps {z : State} {s : State} (hs : Keeps z s) (n : Nat) (v : Int) : Keeps z (State.possetWrite s n v).2 := by
  unfold State.possetWrite
  repeat' first
    | with_reducible assumption
    | (unfold x; clear x)
    | with_reducible refine keeps_snd (by with_reducible assumption) ?_
    | with_reducible refine keeps_fst (by with_reducible assumption) ?_
    | (extract_lets -merge -useContext +onlyGivenNames x; first | (refine keeps_cut (s0 := z) x ?_ (fun hx => ?_); rotate_left; clear_value x) | (refine keeps_cut (s0 := z) x.1 ?_ (fun hx => ?_); rotate_left; clear_value x) | (refine keeps_cut (s0 := z) x.2 ?_ (fun hx => ?_); rotate_left; clear_value x) | clear_value x)
    | with_reducible apply setFbX_keeps
    | split
    | exact keeps_in (keeps_out hx)
    | exact keeps_in (keeps_out hs)
    | (refine keeps_in ?_; dsimp only; exact keeps_out (by with_reducible assumption))
    | dsimp only

theorem idxarm_keeps {z : State} {s : State} (hs : Keeps z s) (n : Nat) (v : Nat) : Keeps z (State.idxarm s n v).2 := by
  unfold State.idxarm
  repeat' first
    | with_reducible assumption
    | (unfold x; clear x)
    | with_reducible refine keeps_snd (by with_reducible assumption) ?_
    | with_reducible refine keeps_fst (by with_reducible assumption) ?_
    | (extract_lets -merge -useContext +onlyGivenNames x; first | (refine keeps_cut (s0 := z) x ?_ (fun hx => ?_); rotate_left; clear_value x) | (refine keeps_cut (s0 := z) x.1 ?_ (fun hx => ?_); rotate_left; clear_value x) | (refine keeps_cut (s0 := z) x.2 ?_ (fun hx => ?_); rotate_left; clear_value x) | clear_value x)
    | with_reducible apply setFbX_keeps
    | split
    | exact keeps_in (keeps_out hx)
    | exact keeps_in (keeps_out hs)
    | (refine keeps_in ?_; dsimp only; exact keeps_out (by with_reducible assumption))
    | dsimp only

theorem eoMark_keeps {z : State} {s : State} (hs : Keeps z s) (e : Nat) (p : Option Int) : Keeps z (State.eoMark s e p) := by
  unfold State.eoMark
  repeat' first
    | with_reducible assumption
    | (unfold x; clear x)
    | with_reducible refine keeps_snd (by with_reducible assumption) ?_
    | with_reducible refine keeps_fst (by with_reducible assumption) ?_
    | with_reducible refine keeps_third (by with_reducible assumption) ?_
    | with_reducible refine keeps_mid (by with_reducible assumption) ?_
    | (extract_lets -merge -useContext +onlyGivenNames x; first | (refine keeps_cut (s0 := z) x ?_ (fun hx => ?_); rotate_left; clear_value x) | (refine keeps_cut (s0 := z) x.1 ?_ (fun hx => ?_); rotate_left; clear_value x) | (refine keeps_cut (s0 := z) x.2 ?_ (fun hx => ?_); rotate_left; clear_value x) | clear_value x)
    | with_reducible apply setEoX_keeps
    | with_reducible apply inputFault_keeps
    | with_reducible apply inc_keeps
    | split
    | exact keeps_in (keeps_out hx)
    | exact keeps_in (keeps_out hs)
    | (refine keeps_in ?_; dsimp only; exact keeps_out (by with_reducible assumption))
    | dsimp only

theorem eoEnable_keeps {z : State} {s : State} (hs : Keeps z s) (e : Nat) (v : Nat) (p : Int) : Keeps z (State.eoEnable s e v p) := by
  unfold State.eoEnable
  repeat' first
    | with_reducible assumption
    | (unfold x; clear x)
    | (extract_lets -merge -useContext +onlyGivenNames x; first | (refine keeps_cut (s0 := z) x ?_ (fun hx => ?_); rotate_left; clear_value x) | clear_value x)
    | with_reducible apply put_keeps
    | with_reducible apply setEoX_keeps
    | split
    | exact keeps_in (keeps_out hx)
    | exact keeps_in (keeps_out hs)
    | (refine keeps_in ?_; dsimp only; exact keeps_out (by with_reducible assumption))
    | dsimp only

theorem tripMoved_keeps {y z s : State} (hs : Keeps z s) : Keeps z (y.tripMoved s) :=
  keeps_foldl (keeps_foldl hs fun _ _ h => tripAssert_keeps h _) fun _ _ h => tripFree_keeps h _

theorem sdAssert_keeps {z s : State} (hs : Keeps z s) (k : Nat) : Keeps z (s.sdAssert k) := by
  have h1 : Keeps z { s with sdTrip := s.sdTrip ++ [k] } := keeps_in (keeps_out hs)
  exact tripMoved_keeps (inputFault_keeps h1 _ _ _ _)

theorem sdRelease_keeps {z s : State} (hs : Keeps z s) (k : Nat) : Keeps z (s.sdRelease k) :=
  tripMoved_keeps (keeps_in (keeps_out hs))

theorem sdCompare_keeps {z : State} {s : State} (hs : Keeps z s) (k : Nat) : Keeps z (State.sdCompare s k) := by
  unfold State.sdCompare
  repeat' first
    | with_reducible assumption
    | (unfold x; clear x)
    | (extract_lets -merge -useContext +onlyGivenNames x; first | (refine keeps_cut (s0 := z) x ?_ (fun hx => ?_); rotate_left; clear_value x) | (refine keeps_cut (s0 := z) x.1 ?_ (fun hx => ?_); rotate_left; clear_value x) | (refine keeps_cut (s0 := z) x.2 ?_ (fun hx => ?_); rotate_left; clear_value x) | (refine keeps_cut (s0 := z) x.2.2 ?_ (fun hx => ?_); rotate_left; clear_value x) | clear_value x)
    | with_reducible apply setSdX_keeps
    | with_reducible apply sdRelease_keeps
    | with_reducible apply sdAssert_keeps
    | split
    | exact keeps_in (keeps_out hx)
    | exact keeps_in (keeps_out hs)
    | (refine keeps_in ?_; dsimp only; exact keeps_out (by with_reducible assumption))
    | dsimp only

theorem sdLatch_keeps {z : State} {s : State} (hs : Keeps z s) (k : Nat) (t : Nat) (half : Bool) : Keeps z (State.sdLatch s k t half) := by
  unfold State.sdLatch
  repeat' first
    | with_reducible assumption
    | (unfold x; clear x)
    | (extract_lets -merge -useContext +onlyGivenNames x; first | (refine keeps_cut (s0 := z) x ?_ (fun hx => ?_); rotate_left; clear_value x) | clear_value x)
    | with_reducible apply setSdX_keeps
    | with_reducible apply put_keeps
    | with_reducible apply putF_keeps
    | with_reducible apply inputFault_keeps
    | with_reducible refine keeps_foldl ?_ (fun t b ht => ?_)
    | with_reducible refine keeps_foldl_fst ?_ (fun t b ht => ?_)
    | with_reducible refine keeps_foldl_snd ?_ (fun t b ht => ?_)
    | split
    | exact keeps_in (keeps_out hx)
    | exact keeps_in (keeps_out hs)
    | exact keeps_in (keeps_out ht)
    | (refine keeps_in ?_; dsimp only; exact keeps_out (by with_reducible assumption))
    | dsimp only

theorem sdMark_keeps {z s : State} (hs : Keeps z s) (k : Nat) : Keeps z (s.sdMark k) := by
  unfold State.sdMark
  extract_lets y x s1 s2
  have h2 : Keeps z s2 := putF_keeps (setSdX_keeps hs _ _) _ _ _ _
  exact keeps_ite (tripMoved_keeps (put_keeps h2 _ _ _ _)) h2

theorem sdLost_keeps {z s : State} (hs : Keeps z s) (k : Nat) : Keeps z (s.sdLost k) := by
  unfold State.sdLost
  extract_lets y m s1 s2
  have h1 : Keeps z s1 := setSdX_keeps (put_keeps (put_keeps hs _ _ _ _) _ _ _ _) _ _
  have h2 : Keeps z s2 := tripMoved_keeps (inputFault_keeps h1 _ _ _ _)
  exact keeps_ite hs (keeps_foldl h2 fun _ _ h => keeps_ite (convFault_keeps h _ _) h)

theorem sdBit_keeps {z : State} {s : State} (hs : Keeps z s) (k : Nat) (b : Bool) : Keeps z (State.sdBit s k b) := by
  unfold State.sdBit
  repeat' first
    | with_reducible assumption
    | (unfold x; clear x)
    | (extract_lets -merge -useContext +onlyGivenNames x; first | (refine keeps_cut (s0 := z) x ?_ (fun hx => ?_); rotate_left; clear_value x) | (refine keeps_cut (s0 := z) x.1 ?_ (fun hx => ?_); rotate_left; clear_value x) | (refine keeps_cut (s0 := z) x.2 ?_ (fun hx => ?_); rotate_left; clear_value x) | (refine keeps_cut (s0 := z) x.2.2 ?_ (fun hx => ?_); rotate_left; clear_value x) | clear_value x)
    | with_reducible apply setSdX_keeps
    | with_reducible apply sdCompare_keeps
    | with_reducible apply sdLost_keeps
    | split
    | exact keeps_in (keeps_out hx)
    | exact keeps_in (keeps_out hs)
    | (refine keeps_in ?_; dsimp only; exact keeps_out (by with_reducible assumption))
    | dsimp only

theorem sdTake_keeps {z : State} {s : State} (hs : Keeps z s) (q : SdBits) : Keeps z (State.sdTake s q) := by
  unfold State.sdTake
  repeat' first
    | with_reducible assumption
    | (unfold x; clear x)
    | (extract_lets -merge -useContext +onlyGivenNames x; first | (refine keeps_cut (s0 := z) x ?_ (fun hx => ?_); rotate_left; clear_value x) | (refine keeps_cut (s0 := z) x.1 ?_ (fun hx => ?_); rotate_left; clear_value x) | (refine keeps_cut (s0 := z) x.2 ?_ (fun hx => ?_); rotate_left; clear_value x) | (refine keeps_cut (s0 := z) x.2.2 ?_ (fun hx => ?_); rotate_left; clear_value x) | clear_value x)
    | with_reducible apply sdBit_keeps
    | with_reducible apply setSdX_keeps
    | with_reducible refine keeps_foldl ?_ (fun t b ht => ?_)
    | with_reducible refine keeps_foldl_fst ?_ (fun t b ht => ?_)
    | with_reducible refine keeps_foldl_snd ?_ (fun t b ht => ?_)
    | split
    | exact keeps_in (keeps_out hx)
    | exact keeps_in (keeps_out hs)
    | exact keeps_in (keeps_out ht)
    | (refine keeps_in ?_; dsimp only; exact keeps_out (by with_reducible assumption))
    | dsimp only

theorem sdTripOn_keeps {z s : State} (hs : Keeps z s) (q : SdBits) : Keeps z (s.sdTripOn q) := sdTake_keeps hs q

theorem sdRunOut_keeps {z s : State} (hs : Keeps z s) (q : SdBits) : Keeps z (s.sdRunOut q) := sdTake_keeps hs q

theorem sdClear_keeps {z : State} {s : State} (hs : Keeps z s) (k : Nat) : Keeps z (State.sdClear s k).2 := by
  unfold State.sdClear
  repeat' first
    | with_reducible assumption
    | (unfold x; clear x)
    | with_reducible refine keeps_snd (by with_reducible assumption) ?_
    | with_reducible refine keeps_fst (by with_reducible assumption) ?_
    | (extract_lets -merge -useContext +onlyGivenNames x; first | (refine keeps_cut (s0 := z) x ?_ (fun hx => ?_); rotate_left; clear_value x) | (refine keeps_cut (s0 := z) x.1 ?_ (fun hx => ?_); rotate_left; clear_value x) | (refine keeps_cut (s0 := z) x.2 ?_ (fun hx => ?_); rotate_left; clear_value x) | clear_value x)
    | with_reducible apply clearFault_keeps
    | with_reducible apply setSdX_keeps
    | split
    | exact keeps_in (keeps_out hx)
    | exact keeps_in (keeps_out hs)
    | (refine keeps_in ?_; dsimp only; exact keeps_out (by with_reducible assumption))
    | dsimp only

theorem offsetCapture_keeps {z s : State} (hs : Keeps z s) (k : Nat) : Keeps z (s.offsetCapture k) := by
  unfold State.offsetCapture
  extract_lets x soon mean s1 m
  have h1 : Keeps z s1 := setSdX_keeps hs _ _
  exact keeps_ite hs (keeps_ite (keeps_mram (putF_keeps h1 _ _ _ _) (Nat.le_refl _))
    (alarm_keeps (inputFault_keeps h1 _ _ _ _) _ _ _ _ _ _))

theorem sdMore_keeps {z s : State} (hs : Keeps z s) (k : Nat) (l : List Nat) : Keeps z (s.sdMore k l) := by
  unfold State.sdMore
  exact keeps_ite hs (setSdX_keeps hs _ _)

theorem gainref_keeps {z : State} {s : State} (hs : Keeps z s) (k : Nat) (v : F32) : Keeps z (State.gainref s k v).2 := by
  unfold State.gainref
  repeat' first
    | with_reducible assumption
    | (unfold x; clear x)
    | with_reducible refine keeps_snd (by with_reducible assumption) ?_
    | with_reducible refine keeps_fst (by with_reducible assumption) ?_
    | (extract_lets -merge -useContext +onlyGivenNames x; first | (refine keeps_cut (s0 := z) x ?_ (fun hx => ?_); rotate_left; clear_value x) | (refine keeps_cut (s0 := z) x.1 ?_ (fun hx => ?_); rotate_left; clear_value x) | (refine keeps_cut (s0 := z) x.2 ?_ (fun hx => ?_); rotate_left; clear_value x) | clear_value x)
    | with_reducible apply putF_keeps
    | with_reducible apply alarm_keeps
    | split
    | exact keeps_in (keeps_out hx)
    | exact keeps_in (keeps_out hs)
    | (refine keeps_in ?_; dsimp only; exact keeps_out (by with_reducible assumption))
    | dsimp only

theorem ainState_keeps {z s : State} (hs : Keeps z s) (n : Nat) (x : AinX) : Keeps z (s.ainState n x) := by
  unfold State.ainState
  extract_lets s1 rn
  have h1 : Keeps z s1 := keeps_in (keeps_out hs)
  exact keeps_ite (keeps_ite (put_keeps h1 _ _ _ _) h1)
    (keeps_ite (inputFault_keeps (put_keeps h1 _ _ _ _) _ _ _ _) (put_keeps h1 _ _ _ _))

theorem ainValue_keeps {z s : State} (hs : Keeps z s) (n : Nat) (volts : F32) : Keeps z (s.ainValue n volts) :=
  putF_keeps hs _ _ _ _

theorem sarMark_keeps {z : State} {s : State} (hs : Keeps z s) : Keeps z (State.sarMark s) := by
  unfold State.sarMark
  repeat' first
    | with_reducible assumption
    | (unfold x; clear x)
    | (extract_lets -merge -useContext +onlyGivenNames x; first | (refine keeps_cut (s0 := z) x ?_ (fun hx => ?_); rotate_left; clear_value x) | (refine keeps_cut (s0 := z) x.1 ?_ (fun hx => ?_); rotate_left; clear_value x) | (refine keeps_cut (s0 := z) x.2 ?_ (fun hx => ?_); rotate_left; clear_value x) | (refine keeps_cut (s0 := z) x.2.2 ?_ (fun hx => ?_); rotate_left; clear_value x) | clear_value x)
    | split
    | exact keeps_in (keeps_out hx)
    | exact keeps_in (keeps_out hs)
    | (refine keeps_in ?_; dsimp only; exact keeps_out (by with_reducible assumption))
    | dsimp only

theorem ainResult_keeps {z : State} {s : State} (hs : Keeps z s) (n : Nat) (total : Nat) (k : Nat) : Keeps z (State.ainResult s n total k) := by
  unfold State.ainResult
  repeat' first
    | with_reducible assumption
    | (unfold x; clear x)
    | (extract_lets -merge -useContext +onlyGivenNames x; first | (refine keeps_cut (s0 := z) x ?_ (fun hx => ?_); rotate_left; clear_value x) | (refine keeps_cut (s0 := z) x.1 ?_ (fun hx => ?_); rotate_left; clear_value x) | (refine keeps_cut (s0 := z) x.2 ?_ (fun hx => ?_); rotate_left; clear_value x) | (refine keeps_cut (s0 := z) x.2.2 ?_ (fun hx => ?_); rotate_left; clear_value x) | clear_value x)
    | with_reducible apply putF_keeps
    | with_reducible apply ainState_keeps
    | with_reducible apply ainValue_keeps
    | split
    | exact keeps_in (keeps_out hx)
    | exact keeps_in (keeps_out hs)
    | (refine keeps_in ?_; dsimp only; exact keeps_out (by with_reducible assumption))
    | dsimp only

theorem ainConversion_keeps {z s : State} (hs : Keeps z s) (n : Nat) (codes : List Nat) (skips : Nat) :
    Keeps z (s.ainConversion n codes skips) := by
  unfold State.ainConversion
  refine keeps_ite hs ?_
  extract_lets t
  have ht : Keeps z t := keeps_in (keeps_out hs)
  exact ainResult_keeps (inc_keeps ht _ _ _ _) _ _ _

end Sys2Proof.Laws
end

