-- ==== Sys2Proof/Laws/Relay.lean ====
section
/-! SUPPORT. What the operations of `Machine/Relay.lean` keep. -/
namespace Sys2Proof.Laws
open Machine Safety

theorem setLoopX_keeps {z : State} {s : State} (hs : Keeps z s) (n : Nat) (x : LoopX) : Keeps z (State.setLoopX s n x) := by
  unfold State.setLoopX
  repeat' first
    | with_reducible assumption
    | (unfold x; clear x)
    | (extract_lets -merge -useContext +onlyGivenNames x; first | (refine keeps_cut (s0 := z) x ?_ (fun hx => ?_); rotate_left; clear_value x) | clear_value x)
    | split
    | exact keeps_in (keeps_out hx)
    | exact keeps_in (keeps_out hs)
    | (refine keeps_in ?_; dsimp only; exact keeps_out (by with_reducible assumption))
    | dsimp only

theorem setAxisX_keeps {z : State} {s : State} (hs : Keeps z s) (x : Nat) (q : AxisX) : Keeps z (State.setAxisX s x q) := by
  unfold State.setAxisX
  repeat' first
    | with_reducible assumption
    | (unfold x; clear x)
    | (extract_lets -merge -useContext +onlyGivenNames x; first | (refine keeps_cut (s0 := z) x ?_ (fun hx => ?_); rotate_left; clear_value x) | clear_value x)
    | split
    | exact keeps_in (keeps_out hx)
    | exact keeps_in (keeps_out hs)
    | (refine keeps_in ?_; dsimp only; exact keeps_out (by with_reducible assumption))
    | dsimp only

theorem loopFault_keeps {z : State} {s : State} (hs : Keeps z s) (code : Nat) (inst : Nat) (x : Nat) (cls : Nat) (detail : Nat) : Keeps z (State.loopFault s code inst x cls detail) := by
  unfold State.loopFault
  repeat' first
    | with_reducible assumption
    | (unfold x; clear x)
    | (extract_lets -merge -useContext +onlyGivenNames x; first | (refine keeps_cut (s0 := z) x ?_ (fun hx => ?_); rotate_left; clear_value x) | clear_value x)
    | with_reducible apply alarm_keeps
    | split
    | exact keeps_in (keeps_out hx)
    | exact keeps_in (keeps_out hs)
    | (refine keeps_in ?_; dsimp only; exact keeps_out (by with_reducible assumption))
    | dsimp only

theorem setTune_keeps {z : State} {s : State} (hs : Keeps z s) (n : Nat) (t : TuneX) : Keeps z (State.setTune s n t) := by
  unfold State.setTune
  repeat' first
    | with_reducible assumption
    | (unfold x; clear x)
    | (extract_lets -merge -useContext +onlyGivenNames x; first | (refine keeps_cut (s0 := z) x ?_ (fun hx => ?_); rotate_left; clear_value x) | clear_value x)
    | split
    | exact keeps_in (keeps_out hx)
    | exact keeps_in (keeps_out hs)
    | (refine keeps_in ?_; dsimp only; exact keeps_out (by with_reducible assumption))
    | dsimp only

theorem tuneAbort_keeps {z : State} {s : State} (hs : Keeps z s) (n : Nat) (code : Nat) : Keeps z (State.tuneAbort s n code) := by
  unfold State.tuneAbort
  repeat' first
    | with_reducible assumption
    | (unfold x; clear x)
    | (extract_lets -merge -useContext +onlyGivenNames x; first | (refine keeps_cut (s0 := z) x ?_ (fun hx => ?_); rotate_left; clear_value x) | clear_value x)
    | with_reducible apply loopFault_keeps
    | with_reducible apply put_keeps
    | with_reducible apply setTune_keeps
    | split
    | exact keeps_in (keeps_out hx)
    | exact keeps_in (keeps_out hs)
    | (refine keeps_in ?_; dsimp only; exact keeps_out (by with_reducible assumption))
    | dsimp only

theorem tuneStop_keeps {z : State} {s : State} (hs : Keeps z s) (x : Nat) : Keeps z (State.tuneStop s x) := by
  unfold State.tuneStop
  repeat' first
    | with_reducible assumption
    | (unfold x; clear x)
    | (extract_lets -merge -useContext +onlyGivenNames x; first | (refine keeps_cut (s0 := z) x ?_ (fun hx => ?_); rotate_left; clear_value x) | clear_value x)
    | with_reducible apply tuneAbort_keeps
    | with_reducible refine keeps_foldl ?_ (fun t b ht => ?_)
    | split
    | exact keeps_in (keeps_out hx)
    | exact keeps_in (keeps_out hs)
    | exact keeps_in (keeps_out ht)
    | (refine keeps_in ?_; dsimp only; exact keeps_out (by with_reducible assumption))
    | dsimp only

theorem tuneDone_keeps {z : State} {s : State} (hs : Keeps z s) (n : Nat) (a : F32) (tu : F32) : Keeps z (State.tuneDone s n a tu) := by
  unfold State.tuneDone
  repeat' first
    | with_reducible assumption
    | (unfold x; clear x)
    | (extract_lets -merge -useContext +onlyGivenNames x; first | (refine keeps_cut (s0 := z) x ?_ (fun hx => ?_); rotate_left; clear_value x) | clear_value x)
    | with_reducible apply tuneAbort_keeps
    | with_reducible apply putF_keeps
    | with_reducible apply put_keeps
    | with_reducible apply setTune_keeps
    | with_reducible apply setLoopX_keeps
    | split
    | exact keeps_in (keeps_out hx)
    | exact keeps_in (keeps_out hs)
    | (refine keeps_in ?_; dsimp only; exact keeps_out (by with_reducible assumption))
    | dsimp only

theorem relay_keeps {z : State} {s : State} (hs : Keeps z s) (n : Nat) (now : Nat) (e : F32) (y : F32) (beyond : F32 → Bool) (lost : Bool) (late : Bool) : Keeps z (State.relay s n now e y beyond lost late).1 := by
  unfold State.relay
  repeat' first
    | with_reducible assumption
    | (unfold x; clear x)
    | with_reducible refine keeps_snd (by with_reducible assumption) ?_
    | with_reducible refine keeps_fst (by with_reducible assumption) ?_
    | (extract_lets -merge -useContext +onlyGivenNames x; first | (refine keeps_cut (s0 := z) x ?_ (fun hx => ?_); rotate_left; clear_value x) | (refine keeps_cut (s0 := z) x.1 ?_ (fun hx => ?_); rotate_left; clear_value x) | (refine keeps_cut (s0 := z) x.2 ?_ (fun hx => ?_); rotate_left; clear_value x) | clear_value x)
    | with_reducible apply tuneAbort_keeps
    | with_reducible apply setTune_keeps
    | with_reducible apply put_keeps
    | with_reducible apply tuneDone_keeps
    | split
    | exact keeps_in (keeps_out hx)
    | exact keeps_in (keeps_out hs)
    | (refine keeps_in ?_; dsimp only; exact keeps_out (by with_reducible assumption))
    | dsimp only

end Sys2Proof.Laws
end

