-- ==== Sys2Proof/Laws/ArmLoop.lean ====
section
/-! SUPPORT. What the operations of `Machine/ArmLoop.lean` keep. -/
namespace Sys2Proof.Laws
open Machine Safety

theorem armEval_keeps {z : State} {s : State} (hs : Keeps z s) (c : Nat) (a : Nat) (subst : Bool) : Keeps z (State.armEval s c a subst).1 := by
  unfold State.armEval
  repeat' first
    | with_reducible assumption
    | (unfold x; clear x)
    | with_reducible refine keeps_snd (by with_reducible assumption) ?_
    | with_reducible refine keeps_fst (by with_reducible assumption) ?_
    | with_reducible refine keeps_third (by with_reducible assumption) ?_
    | with_reducible refine keeps_mid (by with_reducible assumption) ?_
    | (extract_lets -merge -useContext +onlyGivenNames x; first | (refine keeps_cut (s0 := z) x ?_ (fun hx => ?_); rotate_left; clear_value x) | (refine keeps_cut (s0 := z) x.1 ?_ (fun hx => ?_); rotate_left; clear_value x) | (refine keeps_cut (s0 := z) x.2 ?_ (fun hx => ?_); rotate_left; clear_value x) | clear_value x)
    | with_reducible apply setArmX_keeps
    | with_reducible refine keeps_foldl ?_ (fun t b ht => ?_)
    | (with_reducible refine keeps_foldl_fst ?_ (fun t b ht => ?_); rotate_left; rcases t with ⟨t, r⟩; dsimp -zeta only at ht ⊢)
    | (with_reducible refine keeps_foldl_snd ?_ (fun t b ht => ?_); rotate_left; rcases t with ⟨r, t⟩; dsimp -zeta only at ht ⊢)
    | with_reducible refine keeps_foldl_fst ?_ (fun t b ht => ?_)
    | with_reducible refine keeps_foldl_snd ?_ (fun t b ht => ?_)
    | split
    | exact keeps_in (keeps_out hx)
    | exact keeps_in (keeps_out hs)
    | exact keeps_in (keeps_out ht)
    | (refine keeps_in ?_; dsimp only; exact keeps_out (by with_reducible assumption))
    | dsimp only

theorem convTrack_keeps {z : State} {s : State} (hs : Keeps z s) (c : Nat) : Keeps z (State.convTrack s c) := by
  unfold State.convTrack
  repeat' first
    | with_reducible assumption
    | (unfold x; clear x)
    | (extract_lets -merge -useContext +onlyGivenNames x; first | (refine keeps_cut (s0 := z) x ?_ (fun hx => ?_); rotate_left; clear_value x) | (refine keeps_cut (s0 := z) x.1 ?_ (fun hx => ?_); rotate_left; clear_value x) | (refine keeps_cut (s0 := z) x.2 ?_ (fun hx => ?_); rotate_left; clear_value x) | (refine keeps_cut (s0 := z) x.2.2 ?_ (fun hx => ?_); rotate_left; clear_value x) | clear_value x)
    | with_reducible apply setMachX_keeps
    | with_reducible apply convShortEnd_keeps
    | split
    | exact keeps_in (keeps_out hx)
    | exact keeps_in (keeps_out hs)
    | (refine keeps_in ?_; dsimp only; exact keeps_out (by with_reducible assumption))
    | dsimp only

theorem armCommit_keeps {z : State} {s : State} (hs : Keeps z s) (c : Nat) (a : Nat) (out : List F32) : Keeps z (State.armCommit s c a out) := by
  unfold State.armCommit
  repeat' first
    | with_reducible assumption
    | (unfold x; clear x)
    | (extract_lets -merge -useContext +onlyGivenNames x; first | (refine keeps_cut (s0 := z) x ?_ (fun hx => ?_); rotate_left; clear_value x) | clear_value x)
    | with_reducible apply setArmX_keeps
    | with_reducible apply armSelect_keeps
    | split
    | exact keeps_in (keeps_out hx)
    | exact keeps_in (keeps_out hs)
    | (refine keeps_in ?_; dsimp only; exact keeps_out (by with_reducible assumption))
    | dsimp only

end Sys2Proof.Laws
end

