-- ==== Sys2Proof/Laws/Can.lean ====
section
/-! SUPPORT. What the operations of `Machine/Can.lean` keep. -/
namespace Sys2Proof.Laws
open Machine Safety

theorem setCan_keeps {z : State} {s : State} (hs : Keeps z s) (p : Nat) (x : CanPort) : Keeps z (State.setCan s p x) := by
  unfold State.setCan
  repeat' first
    | with_reducible assumption
    | (unfold x; clear x)
    | (extract_lets -merge -useContext +onlyGivenNames x; first | (refine keeps_cut (s0 := z) x ?_ (fun hx => ?_); rotate_left; clear_value x) | clear_value x)
    | split
    | exact keeps_in (keeps_out hx)
    | exact keeps_in (keeps_out hs)
    | (refine keeps_in ?_; dsimp only; exact keeps_out (by with_reducible assumption))
    | dsimp only

theorem setPart_keeps {z : State} {s : State} (hs : Keeps z s) (i : Nat) (x : PartX) : Keeps z (State.setPart s i x) := by
  unfold State.setPart
  repeat' first
    | with_reducible assumption
    | (unfold x; clear x)
    | (extract_lets -merge -useContext +onlyGivenNames x; first | (refine keeps_cut (s0 := z) x ?_ (fun hx => ?_); rotate_left; clear_value x) | clear_value x)
    | split
    | exact keeps_in (keeps_out hx)
    | exact keeps_in (keeps_out hs)
    | (refine keeps_in ?_; dsimp only; exact keeps_out (by with_reducible assumption))
    | dsimp only

theorem portFault_keeps {z : State} {s : State} (hs : Keeps z s) (code : Nat) (p : Nat) (detail : Nat) : Keeps z (State.portFault s code p detail) := by
  unfold State.portFault
  repeat' first
    | with_reducible assumption
    | (unfold x; clear x)
    | (extract_lets -merge -useContext +onlyGivenNames x; first | (refine keeps_cut (s0 := z) x ?_ (fun hx => ?_); rotate_left; clear_value x) | clear_value x)
    | with_reducible apply alarm_keeps
    | split
    | exact keeps_in (keeps_out hx)
    | exact keeps_in (keeps_out hs)
    | (refine keeps_in ?_; dsimp only; exact keeps_out (by with_reducible assumption))
    | dsimp only

theorem partFault_keeps {z : State} {s : State} (hs : Keeps z s) (code : Nat) (i : Nat) : Keeps z (State.partFault s code i) := by
  unfold State.partFault
  repeat' first
    | with_reducible assumption
    | (unfold x; clear x)
    | (extract_lets -merge -useContext +onlyGivenNames x; first | (refine keeps_cut (s0 := z) x ?_ (fun hx => ?_); rotate_left; clear_value x) | clear_value x)
    | with_reducible apply alarm_keeps
    | split
    | exact keeps_in (keeps_out hx)
    | exact keeps_in (keeps_out hs)
    | (refine keeps_in ?_; dsimp only; exact keeps_out (by with_reducible assumption))
    | dsimp only

theorem canTo_keeps {z : State} {s : State} (hs : Keeps z s) (p : Nat) (st : Nat) : Keeps z (State.canTo s p st) := by
  unfold State.canTo
  repeat' first
    | with_reducible assumption
    | (unfold x; clear x)
    | (extract_lets -merge -useContext +onlyGivenNames x; first | (refine keeps_cut (s0 := z) x ?_ (fun hx => ?_); rotate_left; clear_value x) | clear_value x)
    | with_reducible apply raise_keeps
    | with_reducible apply put_keeps
    | with_reducible apply portFault_keeps
    | with_reducible apply ledger_keeps
    | split
    | exact keeps_in (keeps_out hx)
    | exact keeps_in (keeps_out hs)
    | (refine keeps_in ?_; dsimp only; exact keeps_out (by with_reducible assumption))
    | dsimp only

theorem canLoad_keeps {z : State} {s : State} (hs : Keeps z s) (p : Nat) : Keeps z (State.canLoad s p) := by
  unfold State.canLoad
  repeat' first
    | with_reducible assumption
    | (unfold x; clear x)
    | (extract_lets -merge -useContext +onlyGivenNames x; first | (refine keeps_cut (s0 := z) x ?_ (fun hx => ?_); rotate_left; clear_value x) | clear_value x)
    | with_reducible apply setCan_keeps
    | with_reducible apply put_keeps
    | split
    | exact keeps_in (keeps_out hx)
    | exact keeps_in (keeps_out hs)
    | (refine keeps_in ?_; dsimp only; exact keeps_out (by with_reducible assumption))
    | dsimp only

theorem canTake_keeps {z : State} {s : State} (hs : Keeps z s) : Keeps z (State.canTake s).1 := by
  unfold State.canTake
  repeat' first
    | with_reducible assumption
    | (unfold x; clear x)
    | with_reducible refine keeps_snd (by with_reducible assumption) ?_
    | with_reducible refine keeps_fst (by with_reducible assumption) ?_
    | with_reducible refine keeps_third (by with_reducible assumption) ?_
    | with_reducible refine keeps_mid (by with_reducible assumption) ?_
    | (extract_lets -merge -useContext +onlyGivenNames x; first | (refine keeps_cut (s0 := z) x ?_ (fun hx => ?_); rotate_left; clear_value x) | (refine keeps_cut (s0 := z) x.1 ?_ (fun hx => ?_); rotate_left; clear_value x) | (refine keeps_cut (s0 := z) x.2 ?_ (fun hx => ?_); rotate_left; clear_value x) | clear_value x)
    | with_reducible apply inc_keeps
    | with_reducible apply consume_keeps
    | with_reducible apply setCan_keeps
    | with_reducible apply canLoad_keeps
    | with_reducible apply raise_keeps
    | split
    | exact keeps_in (keeps_out hx)
    | exact keeps_in (keeps_out hs)
    | (refine keeps_in ?_; dsimp only; exact keeps_out (by with_reducible assumption))
    | dsimp only

theorem canPump_keeps {z : State} {n1 : State} (n0 : Nat) (hn1 : Keeps z n1) : Keeps z (State.canPump n0 n1) := by
  induction n0 generalizing n1 with
  | zero => exact hn1
  | succ k ih =>
    have ht := canTake_keeps hn1
    unfold State.canPump
    generalize n1.canTake = p at ht
    obtain ⟨t, b⟩ := p
    cases b
    · exact ht
    · exact ih ht

theorem canSend_keeps {z : State} {s : State} (hs : Keeps z s) (f : CanFrame) : Keeps z (State.canSend s f).1 := by
  unfold State.canSend
  split
  · exact hs
  · rename_i h
    exact canPump_keeps _ (produce_keeps hs 14 (by simpa using h) _)

theorem canStage_keeps {z s : State} (hs : Keeps z s) (f : CanFrame) : Keeps z (s.canStage f) := by
  have h := canSend_keeps hs f
  unfold State.canStage
  split <;> rename_i e <;> rw [e] at h
  · exact h
  · exact keeps_in (keeps_out h)

theorem canRetry_keeps {z : State} {s : State} (hs : Keeps z s) : Keeps z (State.canRetry s) := by
  unfold State.canRetry
  repeat' first
    | with_reducible assumption
    | (unfold x; clear x)
    | (extract_lets -merge -useContext +onlyGivenNames x; first | (refine keeps_cut (s0 := z) x ?_ (fun hx => ?_); rotate_left; clear_value x) | (refine keeps_cut (s0 := z) x.1 ?_ (fun hx => ?_); rotate_left; clear_value x) | (refine keeps_cut (s0 := z) x.2 ?_ (fun hx => ?_); rotate_left; clear_value x) | (refine keeps_cut (s0 := z) x.2.2 ?_ (fun hx => ?_); rotate_left; clear_value x) | clear_value x)
    | with_reducible apply canStage_keeps
    | with_reducible refine keeps_foldl ?_ (fun t b ht => ?_)
    | with_reducible refine keeps_foldl_fst ?_ (fun t b ht => ?_)
    | with_reducible refine keeps_foldl_snd ?_ (fun t b ht => ?_)
    | split
    | exact keeps_in (keeps_out hx)
    | exact keeps_in (keeps_out hs)
    | exact keeps_in (keeps_out ht)
    | (refine keeps_in ?_; dsimp only; exact keeps_out (by with_reducible assumption))
    | dsimp only

theorem busOff_keeps {z : State} {s : State} (hs : Keeps z s) (p : Nat) : Keeps z (State.busOff s p) := by
  unfold State.busOff
  repeat' first
    | with_reducible assumption
    | (unfold x; clear x)
    | (extract_lets -merge -useContext +onlyGivenNames x; first | (refine keeps_cut (s0 := z) x ?_ (fun hx => ?_); rotate_left; clear_value x) | clear_value x)
    | with_reducible apply canTo_keeps
    | with_reducible apply inc_keeps
    | with_reducible apply put_keeps
    | with_reducible apply setCan_keeps
    | with_reducible apply portFault_keeps
    | split
    | exact keeps_in (keeps_out hx)
    | exact keeps_in (keeps_out hs)
    | (refine keeps_in ?_; dsimp only; exact keeps_out (by with_reducible assumption))
    | dsimp only

theorem setErr_keeps {z : State} {s : State} (hs : Keeps z s) (p : Nat) (tec : Nat) (rc : Nat) : Keeps z (State.setErr s p tec rc) := by
  unfold State.setErr
  repeat' first
    | with_reducible assumption
    | (unfold x; clear x)
    | (extract_lets -merge -useContext +onlyGivenNames x; first | (refine keeps_cut (s0 := z) x ?_ (fun hx => ?_); rotate_left; clear_value x) | clear_value x)
    | with_reducible apply put_keeps
    | with_reducible apply raise_keeps
    | with_reducible apply busOff_keeps
    | with_reducible apply canTo_keeps
    | split
    | exact keeps_in (keeps_out hx)
    | exact keeps_in (keeps_out hs)
    | (refine keeps_in ?_; dsimp only; exact keeps_out (by with_reducible assumption))
    | dsimp only

theorem canAttempt_keeps {z : State} {s : State} (hs : Keeps z s) (p : Nat) (k : Nat) : Keeps z (State.canAttempt s p k) := by
  unfold State.canAttempt
  repeat' first
    | with_reducible assumption
    | (unfold x; clear x)
    | with_reducible refine keeps_snd (by with_reducible assumption) ?_
    | with_reducible refine keeps_fst (by with_reducible assumption) ?_
    | with_reducible refine keeps_third (by with_reducible assumption) ?_
    | with_reducible refine keeps_mid (by with_reducible assumption) ?_
    | (extract_lets -merge -useContext +onlyGivenNames x; first | (refine keeps_cut (s0 := z) x ?_ (fun hx => ?_); rotate_left; clear_value x) | (refine keeps_cut (s0 := z) x.1 ?_ (fun hx => ?_); rotate_left; clear_value x) | (refine keeps_cut (s0 := z) x.2 ?_ (fun hx => ?_); rotate_left; clear_value x) | clear_value x)
    | with_reducible apply canLoad_keeps
    | with_reducible apply setCan_keeps
    | with_reducible apply portFault_keeps
    | with_reducible apply inc_keeps
    | with_reducible apply canPump_keeps
    | split
    | exact keeps_in (keeps_out hx)
    | exact keeps_in (keeps_out hs)
    | (refine keeps_in ?_; dsimp only; exact keeps_out (by with_reducible assumption))
    | dsimp only

theorem canTdc_keeps {z : State} {s : State} (hs : Keeps z s) (p : Nat) (f : CanFrame) : Keeps z (State.canTdc s p f) := by
  unfold State.canTdc
  repeat' first
    | with_reducible assumption
    | (unfold x; clear x)
    | with_reducible refine keeps_snd (by with_reducible assumption) ?_
    | with_reducible refine keeps_fst (by with_reducible assumption) ?_
    | with_reducible refine keeps_third (by with_reducible assumption) ?_
    | with_reducible refine keeps_mid (by with_reducible assumption) ?_
    | (extract_lets -merge -useContext +onlyGivenNames x; first | (refine keeps_cut (s0 := z) x ?_ (fun hx => ?_); rotate_left; clear_value x) | (refine keeps_cut (s0 := z) x.1 ?_ (fun hx => ?_); rotate_left; clear_value x) | (refine keeps_cut (s0 := z) x.2 ?_ (fun hx => ?_); rotate_left; clear_value x) | clear_value x)
    | with_reducible apply takeWord_keeps
    | with_reducible apply put_keeps
    | with_reducible apply setCan_keeps
    | split
    | exact keeps_in (keeps_out hx)
    | exact keeps_in (keeps_out hs)
    | (refine keeps_in ?_; dsimp only; exact keeps_out (by with_reducible assumption))
    | dsimp only

theorem canTxDone_keeps {z s : State} (hs : Keeps z s) (p : Nat) : Keeps z (s.canTxDone p) := by
  unfold State.canTxDone
  split
  · exact hs
  split
  · exact hs
  · extract_lets s1 x s2 s3
    have h1 : Keeps z s1 := by
      unfold s1
      split
      · exact canTdc_keeps hs _ _
      · exact hs
    have h2 : Keeps z s2 := inc_keeps (setCan_keeps h1 _ _) _ _ _ _
    have h3 : Keeps z s3 := setErr_keeps h2 _ _ _
    exact canPump_keeps _ (canLoad_keeps h3 _)

theorem arbitrationLost_keeps {z : State} {s : State} (hs : Keeps z s) (p : Nat) : Keeps z (State.arbitrationLost s p) := by
  unfold State.arbitrationLost
  repeat' first
    | with_reducible assumption
    | (unfold x; clear x)
    | (extract_lets -merge -useContext +onlyGivenNames x; first | (refine keeps_cut (s0 := z) x ?_ (fun hx => ?_); rotate_left; clear_value x) | clear_value x)
    | with_reducible apply setCan_keeps
    | with_reducible apply canAttempt_keeps
    | with_reducible apply inc_keeps
    | split
    | exact keeps_in (keeps_out hx)
    | exact keeps_in (keeps_out hs)
    | (refine keeps_in ?_; dsimp only; exact keeps_out (by with_reducible assumption))
    | dsimp only

theorem canError_keeps {z : State} {s : State} (hs : Keeps z s) (p : Nat) (tx : Bool) (tdc : Bool) (dt : Nat) (dr : Nat) : Keeps z (State.canError s p tx tdc dt dr) := by
  unfold State.canError
  repeat' first
    | with_reducible assumption
    | (unfold x; clear x)
    | with_reducible refine keeps_snd (by with_reducible assumption) ?_
    | with_reducible refine keeps_fst (by with_reducible assumption) ?_
    | with_reducible refine keeps_third (by with_reducible assumption) ?_
    | with_reducible refine keeps_mid (by with_reducible assumption) ?_
    | (extract_lets -merge -useContext +onlyGivenNames x; first | (refine keeps_cut (s0 := z) x ?_ (fun hx => ?_); rotate_left; clear_value x) | (refine keeps_cut (s0 := z) x.1 ?_ (fun hx => ?_); rotate_left; clear_value x) | (refine keeps_cut (s0 := z) x.2 ?_ (fun hx => ?_); rotate_left; clear_value x) | clear_value x)
    | with_reducible apply inc_keeps
    | with_reducible apply portFault_keeps
    | with_reducible apply setCan_keeps
    | with_reducible apply setErr_keeps
    | with_reducible apply canAttempt_keeps
    | split
    | exact keeps_in (keeps_out hx)
    | exact keeps_in (keeps_out hs)
    | (refine keeps_in ?_; dsimp only; exact keeps_out (by with_reducible assumption))
    | dsimp only

theorem busOffRecovery_keeps {z : State} {s : State} (hs : Keeps z s) (p : Nat) : Keeps z (State.busOffRecovery s p) := by
  unfold State.busOffRecovery
  repeat' first
    | with_reducible assumption
    | (unfold x; clear x)
    | (extract_lets -merge -useContext +onlyGivenNames x; first | (refine keeps_cut (s0 := z) x ?_ (fun hx => ?_); rotate_left; clear_value x) | clear_value x)
    | with_reducible apply put_keeps
    | with_reducible apply setCan_keeps
    | with_reducible apply canTo_keeps
    | split
    | exact keeps_in (keeps_out hx)
    | exact keeps_in (keeps_out hs)
    | (refine keeps_in ?_; dsimp only; exact keeps_out (by with_reducible assumption))
    | dsimp only

theorem busIntegration_keeps {z : State} {s : State} (hs : Keeps z s) (p : Nat) : Keeps z (State.busIntegration s p) := by
  unfold State.busIntegration
  repeat' first
    | with_reducible assumption
    | (unfold x; clear x)
    | (extract_lets -merge -useContext +onlyGivenNames x; first | (refine keeps_cut (s0 := z) x ?_ (fun hx => ?_); rotate_left; clear_value x) | clear_value x)
    | with_reducible apply setCan_keeps
    | with_reducible apply canTo_keeps
    | split
    | exact keeps_in (keeps_out hx)
    | exact keeps_in (keeps_out hs)
    | (refine keeps_in ?_; dsimp only; exact keeps_out (by with_reducible assumption))
    | dsimp only

theorem protocolException_keeps {z : State} {s : State} (hs : Keeps z s) (p : Nat) : Keeps z (State.protocolException s p) := by
  unfold State.protocolException
  repeat' first
    | with_reducible assumption
    | (unfold x; clear x)
    | (extract_lets -merge -useContext +onlyGivenNames x; first | (refine keeps_cut (s0 := z) x ?_ (fun hx => ?_); rotate_left; clear_value x) | clear_value x)
    | with_reducible apply canTo_keeps
    | with_reducible apply inc_keeps
    | with_reducible apply portFault_keeps
    | with_reducible apply setCan_keeps
    | split
    | exact keeps_in (keeps_out hx)
    | exact keeps_in (keeps_out hs)
    | (refine keeps_in ?_; dsimp only; exact keeps_out (by with_reducible assumption))
    | dsimp only

theorem canEnable_keeps {z : State} {s : State} (hs : Keeps z s) (p : Nat) : Keeps z (State.canEnable s p).2 := by
  unfold State.canEnable
  repeat' first
    | with_reducible assumption
    | (unfold x; clear x)
    | with_reducible refine keeps_snd (by with_reducible assumption) ?_
    | with_reducible refine keeps_fst (by with_reducible assumption) ?_
    | (extract_lets -merge -useContext +onlyGivenNames x; first | (refine keeps_cut (s0 := z) x ?_ (fun hx => ?_); rotate_left; clear_value x) | (refine keeps_cut (s0 := z) x.1 ?_ (fun hx => ?_); rotate_left; clear_value x) | (refine keeps_cut (s0 := z) x.2 ?_ (fun hx => ?_); rotate_left; clear_value x) | clear_value x)
    | with_reducible apply canTo_keeps
    | with_reducible apply put_keeps
    | split
    | exact keeps_in (keeps_out hx)
    | exact keeps_in (keeps_out hs)
    | (refine keeps_in ?_; dsimp only; exact keeps_out (by with_reducible assumption))
    | dsimp only

theorem canDisable_keeps {z : State} {s : State} (hs : Keeps z s) (p : Nat) : Keeps z (State.canDisable s p).2 := by
  unfold State.canDisable
  repeat' first
    | with_reducible assumption
    | (unfold x; clear x)
    | with_reducible refine keeps_snd (by with_reducible assumption) ?_
    | with_reducible refine keeps_fst (by with_reducible assumption) ?_
    | (extract_lets -merge -useContext +onlyGivenNames x; first | (refine keeps_cut (s0 := z) x ?_ (fun hx => ?_); rotate_left; clear_value x) | (refine keeps_cut (s0 := z) x.1 ?_ (fun hx => ?_); rotate_left; clear_value x) | (refine keeps_cut (s0 := z) x.2 ?_ (fun hx => ?_); rotate_left; clear_value x) | clear_value x)
    | with_reducible apply inc_keeps
    | with_reducible apply setCan_keeps
    | with_reducible apply canTo_keeps
    | with_reducible apply put_keeps
    | with_reducible apply canPump_keeps
    | split
    | exact keeps_in (keeps_out hx)
    | exact keeps_in (keeps_out hs)
    | (refine keeps_in ?_; dsimp only; exact keeps_out (by with_reducible assumption))
    | dsimp only

theorem canRecover_keeps {z : State} {s : State} (hs : Keeps z s) (p : Nat) : Keeps z (State.canRecover s p).2 := by
  unfold State.canRecover
  repeat' first
    | with_reducible assumption
    | (unfold x; clear x)
    | with_reducible refine keeps_snd (by with_reducible assumption) ?_
    | with_reducible refine keeps_fst (by with_reducible assumption) ?_
    | (extract_lets -merge -useContext +onlyGivenNames x; first | (refine keeps_cut (s0 := z) x ?_ (fun hx => ?_); rotate_left; clear_value x) | (refine keeps_cut (s0 := z) x.1 ?_ (fun hx => ?_); rotate_left; clear_value x) | (refine keeps_cut (s0 := z) x.2 ?_ (fun hx => ?_); rotate_left; clear_value x) | clear_value x)
    | with_reducible apply setCan_keeps
    | split
    | exact keeps_in (keeps_out hx)
    | exact keeps_in (keeps_out hs)
    | (refine keeps_in ?_; dsimp only; exact keeps_out (by with_reducible assumption))
    | dsimp only

theorem restrWrite_keeps {z : State} {s : State} (hs : Keeps z s) (p : Nat) (v : Nat) : Keeps z (State.restrWrite s p v).2 := by
  unfold State.restrWrite
  repeat' first
    | with_reducible assumption
    | (unfold x; clear x)
    | with_reducible refine keeps_snd (by with_reducible assumption) ?_
    | with_reducible refine keeps_fst (by with_reducible assumption) ?_
    | (extract_lets -merge -useContext +onlyGivenNames x; first | (refine keeps_cut (s0 := z) x ?_ (fun hx => ?_); rotate_left; clear_value x) | (refine keeps_cut (s0 := z) x.1 ?_ (fun hx => ?_); rotate_left; clear_value x) | (refine keeps_cut (s0 := z) x.2 ?_ (fun hx => ?_); rotate_left; clear_value x) | clear_value x)
    | with_reducible apply put_keeps
    | with_reducible apply canTo_keeps
    | with_reducible apply setCan_keeps
    | split
    | exact keeps_in (keeps_out hx)
    | exact keeps_in (keeps_out hs)
    | (refine keeps_in ?_; dsimp only; exact keeps_out (by with_reducible assumption))
    | dsimp only

theorem partUrgent_keeps {z : State} {s : State} (hs : Keeps z s) (i : Nat) : Keeps z (State.partUrgent s i) := by
  unfold State.partUrgent
  repeat' first
    | with_reducible assumption
    | (unfold x; clear x)
    | with_reducible refine keeps_snd (by with_reducible assumption) ?_
    | with_reducible refine keeps_fst (by with_reducible assumption) ?_
    | (extract_lets -merge -useContext +onlyGivenNames x; first | (refine keeps_cut (s0 := z) x ?_ (fun hx => ?_); rotate_left; clear_value x) | clear_value x)
    | with_reducible apply canSend_keeps
    | with_reducible apply canStage_keeps
    | split
    | exact keeps_in (keeps_out hx)
    | exact keeps_in (keeps_out hs)
    | (refine keeps_in ?_; dsimp only; exact keeps_out (by with_reducible assumption))
    | dsimp only

theorem partSlot_keeps {z : State} {s : State} (hs : Keeps z s) (i : Nat) : Keeps z (State.partSlot s i) := by
  unfold State.partSlot
  repeat' first
    | with_reducible assumption
    | (unfold x; clear x)
    | with_reducible refine keeps_snd (by with_reducible assumption) ?_
    | with_reducible refine keeps_fst (by with_reducible assumption) ?_
    | (extract_lets -merge -useContext +onlyGivenNames x; first | (refine keeps_cut (s0 := z) x ?_ (fun hx => ?_); rotate_left; clear_value x) | (refine keeps_cut (s0 := z) x.1 ?_ (fun hx => ?_); rotate_left; clear_value x) | (refine keeps_cut (s0 := z) x.2 ?_ (fun hx => ?_); rotate_left; clear_value x) | clear_value x)
    | with_reducible apply inc_keeps
    | with_reducible apply setCan_keeps
    | with_reducible apply canSend_keeps
    | split
    | exact keeps_in (keeps_out hx)
    | exact keeps_in (keeps_out hs)
    | (refine keeps_in ?_; dsimp only; exact keeps_out (by with_reducible assumption))
    | dsimp only

theorem canMark_keeps {z : State} {s : State} (hs : Keeps z s) : Keeps z (State.canMark s) := by
  unfold State.canMark
  repeat' first
    | with_reducible assumption
    | (unfold x; clear x)
    | (extract_lets -merge -useContext +onlyGivenNames x; first | (refine keeps_cut (s0 := z) x ?_ (fun hx => ?_); rotate_left; clear_value x) | clear_value x)
    | with_reducible apply partSlot_keeps
    | with_reducible refine keeps_foldl ?_ (fun t b ht => ?_)
    | with_reducible apply canRetry_keeps
    | with_reducible refine keeps_foldl_fst ?_ (fun t b ht => ?_)
    | with_reducible refine keeps_foldl_snd ?_ (fun t b ht => ?_)
    | split
    | exact keeps_in (keeps_out hx)
    | exact keeps_in (keeps_out hs)
    | exact keeps_in (keeps_out ht)
    | (refine keeps_in ?_; dsimp only; exact keeps_out (by with_reducible assumption))
    | dsimp only

theorem suppFlush_keeps {z : State} {s : State} (hs : Keeps z s) : Keeps z (State.suppFlush s) := by
  unfold State.suppFlush
  repeat' first
    | with_reducible assumption
    | (unfold x; clear x)
    | with_reducible refine keeps_snd (by with_reducible assumption) ?_
    | with_reducible refine keeps_fst (by with_reducible assumption) ?_
    | with_reducible refine keeps_third (by with_reducible assumption) ?_
    | with_reducible refine keeps_mid (by with_reducible assumption) ?_
    | (extract_lets -merge -useContext +onlyGivenNames x; first | (refine keeps_cut (s0 := z) x ?_ (fun hx => ?_); rotate_left; clear_value x) | (refine keeps_cut (s0 := z) x.1 ?_ (fun hx => ?_); rotate_left; clear_value x) | (refine keeps_cut (s0 := z) x.2 ?_ (fun hx => ?_); rotate_left; clear_value x) | clear_value x)
    | with_reducible apply canLoad_keeps
    | with_reducible apply inc_keeps
    | with_reducible apply setCan_keeps
    | with_reducible refine keeps_foldl ?_ (fun t b ht => ?_)
    | with_reducible apply canPump_keeps
    | with_reducible refine keeps_foldl_fst ?_ (fun t b ht => ?_)
    | with_reducible refine keeps_foldl_snd ?_ (fun t b ht => ?_)
    | split
    | exact keeps_in (keeps_out hx)
    | exact keeps_in (keeps_out hs)
    | exact keeps_in (keeps_out ht)
    | (refine keeps_in ?_; dsimp only; exact keeps_out (by with_reducible assumption))
    | dsimp only

theorem partDisable_keeps {z : State} {s : State} (hs : Keeps z s) (m : Nat) : Keeps z (State.partDisable s m) := by
  unfold State.partDisable
  repeat' first
    | with_reducible assumption
    | (unfold x; clear x)
    | (extract_lets -merge -useContext +onlyGivenNames x; first | (refine keeps_cut (s0 := z) x ?_ (fun hx => ?_); rotate_left; clear_value x) | clear_value x)
    | with_reducible apply partUrgent_keeps
    | with_reducible apply setPart_keeps
    | split
    | exact keeps_in (keeps_out hx)
    | exact keeps_in (keeps_out hs)
    | (refine keeps_in ?_; dsimp only; exact keeps_out (by with_reducible assumption))
    | dsimp only

theorem partPolicy_keeps {z : State} {s : State} (hs : Keeps z s) (i : Nat) : Keeps z (State.partPolicy s i) := by
  unfold State.partPolicy
  repeat' first
    | with_reducible assumption
    | (unfold x; clear x)
    | (extract_lets -merge -useContext +onlyGivenNames x; first | (refine keeps_cut (s0 := z) x ?_ (fun hx => ?_); rotate_left; clear_value x) | clear_value x)
    | with_reducible apply axisAllFaulted_keeps
    | with_reducible apply partDisable_keeps
    | with_reducible apply machFault_keeps
    | split
    | exact keeps_in (keeps_out hx)
    | exact keeps_in (keeps_out hs)
    | (refine keeps_in ?_; dsimp only; exact keeps_out (by with_reducible assumption))
    | dsimp only

theorem partEnable_keeps {z : State} {s : State} (hs : Keeps z s) (i : Nat) (v : Nat) : Keeps z (State.partEnable s i v).2 := by
  unfold State.partEnable
  repeat' first
    | with_reducible assumption
    | (unfold x; clear x)
    | with_reducible refine keeps_snd (by with_reducible assumption) ?_
    | with_reducible refine keeps_fst (by with_reducible assumption) ?_
    | (extract_lets -merge -useContext +onlyGivenNames x; first | (refine keeps_cut (s0 := z) x ?_ (fun hx => ?_); rotate_left; clear_value x) | (refine keeps_cut (s0 := z) x.1 ?_ (fun hx => ?_); rotate_left; clear_value x) | (refine keeps_cut (s0 := z) x.2 ?_ (fun hx => ?_); rotate_left; clear_value x) | clear_value x)
    | with_reducible apply setPart_keeps
    | with_reducible apply put_keeps
    | split
    | exact keeps_in (keeps_out hx)
    | exact keeps_in (keeps_out hs)
    | (refine keeps_in ?_; dsimp only; exact keeps_out (by with_reducible assumption))
    | dsimp only

theorem partSilent_keeps {z : State} {s : State} (hs : Keeps z s) (i : Nat) : Keeps z (State.partSilent s i) := by
  unfold State.partSilent
  repeat' first
    | with_reducible assumption
    | (unfold x; clear x)
    | (extract_lets -merge -useContext +onlyGivenNames x; first | (refine keeps_cut (s0 := z) x ?_ (fun hx => ?_); rotate_left; clear_value x) | clear_value x)
    | with_reducible apply partPolicy_keeps
    | with_reducible apply partFault_keeps
    | with_reducible apply put_keeps
    | with_reducible apply setPart_keeps
    | split
    | exact keeps_in (keeps_out hx)
    | exact keeps_in (keeps_out hs)
    | (refine keeps_in ?_; dsimp only; exact keeps_out (by with_reducible assumption))
    | dsimp only

theorem partEnableTimeout_keeps {z : State} {s : State} (hs : Keeps z s) (i : Nat) : Keeps z (State.partEnableTimeout s i) := by
  unfold State.partEnableTimeout
  repeat' first
    | with_reducible assumption
    | (unfold x; clear x)
    | (extract_lets -merge -useContext +onlyGivenNames x; first | (refine keeps_cut (s0 := z) x ?_ (fun hx => ?_); rotate_left; clear_value x) | clear_value x)
    | with_reducible apply partUrgent_keeps
    | with_reducible apply partFault_keeps
    | with_reducible apply setPart_keeps
    | split
    | exact keeps_in (keeps_out hx)
    | exact keeps_in (keeps_out hs)
    | (refine keeps_in ?_; dsimp only; exact keeps_out (by with_reducible assumption))
    | dsimp only

theorem machOnNote_keeps {z : State} {s : State} (hs : Keeps z s) (m : Nat) : Keeps z (State.machOnNote s m) := by
  unfold State.machOnNote
  repeat' first
    | with_reducible assumption
    | (unfold x; clear x)
    | (extract_lets -merge -useContext +onlyGivenNames x; first | (refine keeps_cut (s0 := z) x ?_ (fun hx => ?_); rotate_left; clear_value x) | clear_value x)
    | with_reducible apply dispatch_keeps
    | with_reducible apply put_keeps
    | with_reducible apply setMachX_keeps
    | split
    | exact keeps_in (keeps_out hx)
    | exact keeps_in (keeps_out hs)
    | (refine keeps_in ?_; dsimp only; exact keeps_out (by with_reducible assumption))
    | dsimp only

theorem partIn_keeps {z : State} {s : State} (hs : Keeps z s) (i : Nat) (f : CanRx) : Keeps z (State.partIn s i f) := by
  unfold State.partIn
  repeat' first
    | with_reducible assumption
    | (unfold x; clear x)
    | (extract_lets -merge -useContext +onlyGivenNames x; first | (refine keeps_cut (s0 := z) x ?_ (fun hx => ?_); rotate_left; clear_value x) | clear_value x)
    | with_reducible apply putF_keeps
    | with_reducible apply inc_keeps
    | with_reducible apply put_keeps
    | with_reducible apply partPolicy_keeps
    | with_reducible apply partFault_keeps
    | with_reducible apply machOnNote_keeps
    | with_reducible apply setPart_keeps
    | split
    | exact keeps_in (keeps_out hx)
    | exact keeps_in (keeps_out hs)
    | (refine keeps_in ?_; dsimp only; exact keeps_out (by with_reducible assumption))
    | dsimp only

theorem canFrameReceived_keeps {z : State} {s : State} (hs : Keeps z s) (p : Nat) (f : CanRx) : Keeps z (State.canFrameReceived s p f) := by
  unfold State.canFrameReceived
  extract_lets st s1 rc n
  split
  · exact hs
  have h1 : Keeps z s1 := inc_keeps hs _ _ _ _
  clear_value s1
  split
  rename_i k t e
  have ht : Keeps z t := keeps_snd e (by
    split
    · exact takeInt_keeps h1
    · exact h1)
  clear e
  extract_lets s2 g s3 s4
  have h2 : Keeps z s2 := keeps_ite ht (setErr_keeps ht _ _ _)
  split
  · exact raise_keeps (markLoss_keeps (inc_keeps h2 _ _ _ _) _) _
  · rename_i h
    have h3 : Keeps z s3 := produce_keeps h2 n (by simpa using h) _
    clear_value s3
    have h4 : Keeps z s4 := keeps_foldl h3 fun t i ht => keeps_ite (partIn_keeps ht _ _) ht
    clear_value s4
    exact keeps_ite h4 (consume_keeps h4 _)

theorem brkDrive_keeps {z : State} {s : State} (hs : Keeps z s) (x : Nat) (v : Bool) : Keeps z (State.brkDrive s x v) := by
  unfold State.brkDrive
  repeat' first
    | with_reducible assumption
    | (unfold x; clear x)
    | (extract_lets -merge -useContext +onlyGivenNames x; first | (refine keeps_cut (s0 := z) x ?_ (fun hx => ?_); rotate_left; clear_value x) | (refine keeps_cut (s0 := z) x.1 ?_ (fun hx => ?_); rotate_left; clear_value x) | (refine keeps_cut (s0 := z) x.2 ?_ (fun hx => ?_); rotate_left; clear_value x) | (refine keeps_cut (s0 := z) x.2.2 ?_ (fun hx => ?_); rotate_left; clear_value x) | clear_value x)
    | with_reducible apply dioDrive_keeps
    | with_reducible apply setPart_keeps
    | with_reducible apply partUrgent_keeps
    | split
    | exact keeps_in (keeps_out hx)
    | exact keeps_in (keeps_out hs)
    | (refine keeps_in ?_; dsimp only; exact keeps_out (by with_reducible assumption))
    | dsimp only

theorem brkReq_keeps {z : State} {s : State} (hs : Keeps z s) (x : Nat) (v : Bool) : Keeps z (State.brkReq s x v) := by
  unfold State.brkReq
  repeat' first
    | with_reducible assumption
    | (unfold x; clear x)
    | (extract_lets -merge -useContext +onlyGivenNames x; first | (refine keeps_cut (s0 := z) x ?_ (fun hx => ?_); rotate_left; clear_value x) | clear_value x)
    | with_reducible apply putB_keeps
    | with_reducible apply dioDrive_keeps
    | with_reducible apply partUrgent_keeps
    | with_reducible apply setPart_keeps
    | with_reducible apply brkDrive_keeps
    | split
    | exact keeps_in (keeps_out hx)
    | exact keeps_in (keeps_out hs)
    | (refine keeps_in ?_; dsimp only; exact keeps_out (by with_reducible assumption))
    | dsimp only

end Sys2Proof.Laws
end

