-- ==== Sys2Proof/Laws/HostIf.lean ====
section
/-! SUPPORT. What the operations of `Machine/HostIf.lean` keep. -/
namespace Sys2Proof.Laws
open Machine Safety

theorem setPort_keeps {z : State} {s : State} (hs : Keeps z s) (p : Nat) (x : Port) : Keeps z (State.setPort s p x) := by
  unfold State.setPort
  repeat' first
    | with_reducible assumption
    | (unfold x; clear x)
    | with_reducible refine keeps_snd (by with_reducible assumption) ?_
    | with_reducible refine keeps_fst (by with_reducible assumption) ?_
    | (extract_lets -merge -useContext +onlyGivenNames x; first | (refine keeps_cut (s0 := z) x ?_ (fun hx => ?_); rotate_left; clear_value x) | (refine keeps_cut (s0 := z) x.1 ?_ (fun hx => ?_); rotate_left; clear_value x) | (refine keeps_cut (s0 := z) x.2 ?_ (fun hx => ?_); rotate_left; clear_value x) | clear_value x)
    | split
    | exact keeps_in (keeps_out hx)
    | exact keeps_in (keeps_out hs)
    | (refine keeps_in ?_; dsimp only; exact keeps_out (by with_reducible assumption))
    | dsimp only

theorem violation_keeps {z : State} {s : State} (hs : Keeps z s) (no : Nat) (region : Bool) (addr : Nat) (path : Nat) : Keeps z (State.violation s no region addr path) := by
  unfold State.violation
  repeat' first
    | with_reducible assumption
    | (unfold x; clear x)
    | (extract_lets -merge -useContext +onlyGivenNames x; first | (refine keeps_cut (s0 := z) x ?_ (fun hx => ?_); rotate_left; clear_value x) | have _ : Sec := x | clear_value x)
    | with_reducible apply inc_keeps
    | with_reducible apply alarm_keeps
    | split
    | exact keeps_in (keeps_out hx)
    | exact keeps_in (keeps_out hs)
    | (refine keeps_in ?_; dsimp only; exact keeps_out (by with_reducible assumption))
    | dsimp only

theorem cfgErr_keeps {z : State} {s : State} (hs : Keeps z s) (n : Nat) : Keeps z (State.cfgErr s n) :=
  keeps_ite hs (raise_keeps (setRing_keeps hs n (r := { s.ring n with cfgerr := true }) (ring_ok hs n)) n)

theorem rememberedOk_put (t : Tbl (List Remembered)) (k : Nat) (l : List Remembered) (h : rememberedOk t) (hl : l.length ≤ 16) :
    rememberedOk (t.put [] k l) := by
  intro j
  rw [find_put]
  split
  · exact hl
  · exact h j

/-- The entries of a ring that takes a new base while it is not enabled, or keeps its base. -/
theorem ringOk_base (r : Ring) (h : ringOk r) (base owner : Nat) (hostc world en : Bool) 
    (hb : base = r.base ∨ (r.en = false ∧ (r.lim - base) * 16 / r.esz ≠ 0)) (he : en = true → r.en = true) :
    ringOk { r with base := base, owner := owner, hostc := hostc, world := world, en := en } := by
  obtain ⟨hs, hr⟩ := h
  rcases hb with rfl | ⟨hen, hz⟩
  · exact ⟨hs, fun e => hr (he e)⟩
  · exact ⟨Nat.pos_of_ne_zero hz, fun e => absurd (he e) (by simp [hen])⟩

theorem ringOk_start (r : Ring) (h : 0 < r.size) : ringOk { r with en := true, head := 0, tail := 0 } := by
  have e : ({ r with en := true, head := 0, tail := 0 } : Ring).size = r.size := rfl
  refine ⟨h, fun _ => ⟨by rw [e]; show 0 < _; omega, by rw [e]; show 0 < _; omega, ?_⟩⟩
  unfold Ring.count
  rw [e]
  split
  · exact Nat.zero_le _
  · simp

theorem writeBase_keeps {z : State} {s : State} (hs : Keeps z s) (n : Nat) (v : Nat) (secure : Bool) (path : Nat) : Keeps z (State.writeBase s n v secure path) := by
  unfold State.writeBase
  extract_lets r base world en hostc owner fixedOwner size spanBad bad s1 r2 s2
  have hr : ringOk r := ring_ok hs n
  have h1 : Keeps z s1 := keeps_ite (violation_keeps hs _ _ _ _) hs
  clear_value s1
  split
  · exact cfgErr_keeps h1 n
  · rename_i hbad
    have hb : base = r.base ∨ (r.en = false ∧ (r.lim - base) * 16 / r.esz ≠ 0) := by
      by_cases hc : base = r.base
      · exact .inl hc
      · right
        simp only [bad, spanBad, size, Bool.or_eq_true, Bool.and_eq_true, not_or, bne_iff_ne, decide_eq_true_eq] at hbad
        simp_all
    have hsz : 0 < r2.size := by
      rcases hb with hb | ⟨_, hb⟩
      · exact (ringOk_base r hr base owner hostc world false (.inl hb) (by simp)).1
      · exact Nat.pos_of_ne_zero hb
    split
    · have h2 : Keeps z s2 := setRing_keeps h1 n (ringOk_start r2 hsz)
      clear_value s2
      exact keeps_ite (keeps_in { keeps_out h2 with dup := rememberedOk_put s2.dups n [] (keeps_out h2).dup (Nat.zero_le _) }) h2
    · rename_i hen
      refine setRing_keeps h1 n (ringOk_base r hr base owner hostc _ en hb ?_)
      intro e
      have : r2.en = r.en := rfl
      simp_all

theorem writeLim_keeps {z : State} {s : State} (hs : Keeps z s) (n : Nat) (v : Nat) : Keeps z (State.writeLim s n v) := by
  unfold State.writeLim
  extract_lets r lim thr size spanBad
  have hr : ringOk r := ring_ok hs n
  split
  · exact cfgErr_keeps hs n
  · rename_i hbad
    refine setRing_keeps hs n ?_
    obtain ⟨h1, h2⟩ := hr
    by_cases hc : lim = r.lim
    · rw [hc]; exact ⟨h1, h2⟩
    · simp only [spanBad, size, Bool.or_eq_true, Bool.and_eq_true, not_or, bne_iff_ne, decide_eq_true_eq] at hbad
      have hz : (lim - r.base) * 16 / r.esz ≠ 0 := by simp_all
      have hen : r.en = false := by simp_all
      exact ⟨Nat.pos_of_ne_zero hz, fun e => absurd e (by show ¬ (r.en = true); simp [hen])⟩

theorem writeTail_keeps {z : State} {s : State} (hs : Keeps z s) (n : Nat) (v : Nat) : Keeps z (State.writeTail s n v) :=
  setRing_keeps hs n (ring_ok hs n)

theorem dbErr_keeps {z : State} {s : State} (hs : Keeps z s) (n : Nat) : Keeps z (State.dbErr s n) :=
  raise_keeps (setRing_keeps hs n (r := { s.ring n with dberr := true }) (ring_ok hs n)) n

theorem commitBuffer_keeps {z : State} {s : State} (hs : Keeps z s) (p : Nat) : Keeps z (State.commitBuffer s p) := by
  unfold State.commitBuffer
  repeat' first
    | with_reducible assumption
    | (unfold x; clear x)
    | with_reducible refine keeps_snd (by with_reducible assumption) ?_
    | with_reducible refine keeps_fst (by with_reducible assumption) ?_
    | (extract_lets -merge -useContext +onlyGivenNames x; first | (refine keeps_cut (s0 := z) x ?_ (fun hx => ?_); rotate_left; clear_value x) | (refine keeps_cut (s0 := z) x.1 ?_ (fun hx => ?_); rotate_left; clear_value x) | (refine keeps_cut (s0 := z) x.2 ?_ (fun hx => ?_); rotate_left; clear_value x) | clear_value x)
    | with_reducible apply setBytes_keeps
    | with_reducible apply setPort_keeps
    | split
    | exact keeps_in (keeps_out hx)
    | exact keeps_in (keeps_out hs)
    | (refine keeps_in ?_; dsimp only; exact keeps_out (by with_reducible assumption))
    | dsimp only

theorem doorbell_keeps {z : State} {s : State} (hs : Keeps z s) (p : Nat) (n : Nat) (v : Nat) : Keeps z (State.doorbell s p n v) := by
  unfold State.doorbell
  extract_lets s1 r m
  have h1 : Keeps z s1 := commitBuffer_keeps hs p
  have hr : ringOk r := ring_ok h1 n
  clear_value s1
  split
  · exact dbErr_keeps h1 n
  · rename_i hb
    have hen : r.en = true := by simp_all
    have hv : v < 2 * r.size := by
      have : ¬ m ≤ v := by simp_all
      exact Nat.lt_of_not_le this
    obtain ⟨hp, hq⟩ := hr
    obtain ⟨g1, g2, g3⟩ := hq hen
    have hc : ∀ q : Ring, q.size = r.size → q.count = (q.head + 2 * r.size - q.tail) % (2 * r.size) := fun q e => by
      unfold Ring.count; rw [e, if_neg (Nat.pos_iff_ne_zero.mp hp)]
    split
    · split
      · rename_i hle
        refine setRing_keeps h1 n ⟨hp, fun _ => ⟨g1, hv, ?_⟩⟩
        rw [hc r rfl] at g3
        exact Nat.le_trans (Nat.le_of_eq (hc { r with tail := v } rfl)) (Nat.le_trans hle g3)
      · exact dbErr_keeps h1 n
    · split
      · rename_i hle
        refine setRing_keeps h1 n ⟨hp, fun _ => ⟨hv, g2, ?_⟩⟩
        simp only [Bool.and_eq_true, decide_eq_true_eq] at hle
        exact Nat.le_trans (Nat.le_of_eq (hc { r with head := v } rfl)) hle.1
      · exact dbErr_keeps h1 n

theorem pageWrite_keeps {z : State} {s : State} (hs : Keeps z s) (p : Nat) (off : Nat) (v : Nat) (secure : Bool) : Keeps z (State.pageWrite s p off v secure) := by
  unfold State.pageWrite
  repeat' first
    | with_reducible assumption
    | (unfold x; clear x)
    | (extract_lets -merge -useContext +onlyGivenNames x; first | (refine keeps_cut (s0 := z) x ?_ (fun hx => ?_); rotate_left; clear_value x) | clear_value x)
    | with_reducible apply setPort_keeps
    | with_reducible apply writeBase_keeps
    | with_reducible apply writeLim_keeps
    | with_reducible apply writeTail_keeps
    | with_reducible apply doorbell_keeps
    | with_reducible refine keeps_foldl ?_ (fun t b ht => ?_)
    | split
    | exact keeps_in (keeps_out hx)
    | exact keeps_in (keeps_out hs)
    | exact keeps_in (keeps_out ht)
    | (refine keeps_in ?_; dsimp only; exact keeps_out (by with_reducible assumption))
    | dsimp only

theorem answer_keeps {z : State} {s : State} (hs : Keeps z s) (p : Nat) (ack : Bool) (busy : Bool) (crcerr : Bool) (world : Bool) (addr : Bool) (tag : Bool) (data : List Byte) : Keeps z (State.answer s p ack busy crcerr world addr tag data) := by
  unfold State.answer
  repeat' first
    | with_reducible assumption
    | (unfold x; clear x)
    | (extract_lets -merge -useContext +onlyGivenNames x; first | (refine keeps_cut (s0 := z) x ?_ (fun hx => ?_); rotate_left; clear_value x) | clear_value x)
    | with_reducible apply setPort_keeps
    | with_reducible apply status_keeps
    | split
    | exact keeps_in (keeps_out hx)
    | exact keeps_in (keeps_out hs)
    | (refine keeps_in ?_; dsimp only; exact keeps_out (by with_reducible assumption))
    | dsimp only

theorem spiWrite_keeps {z : State} {s : State} (hs : Keeps z s) (p : Nat) (sec : Bool) (space : Nat) (a : Nat) (data : List Byte) (crcOk : Bool) (cut : Bool) : Keeps z (State.spiWrite s p sec space a data crcOk cut) := by
  unfold State.spiWrite
  repeat' first
    | with_reducible assumption
    | (unfold x; clear x)
    | with_reducible refine keeps_snd (by with_reducible assumption) ?_
    | with_reducible refine keeps_fst (by with_reducible assumption) ?_
    | with_reducible refine keeps_third (by with_reducible assumption) ?_
    | with_reducible refine keeps_mid (by with_reducible assumption) ?_
    | (extract_lets -merge -useContext +onlyGivenNames x; first | (refine keeps_cut (s0 := z) x ?_ (fun hx => ?_); rotate_left; clear_value x) | (refine keeps_cut (s0 := z) x.1 ?_ (fun hx => ?_); rotate_left; clear_value x) | (refine keeps_cut (s0 := z) x.2 ?_ (fun hx => ?_); rotate_left; clear_value x) | clear_value x)
    | with_reducible apply setPort_keeps
    | with_reducible apply answer_keeps
    | with_reducible apply violation_keeps
    | with_reducible apply pageWrite_keeps
    | with_reducible refine keeps_foldl ?_ (fun t b ht => ?_)
    | (with_reducible refine keeps_foldl_fst ?_ (fun t b ht => ?_); rotate_left; rcases t with ⟨t, r⟩; dsimp -zeta only at ht ⊢)
    | (with_reducible refine keeps_foldl_snd ?_ (fun t b ht => ?_); rotate_left; rcases t with ⟨r, t⟩; dsimp -zeta only at ht ⊢)
    | with_reducible refine keeps_foldl_fst ?_ (fun t b ht => ?_)
    | with_reducible refine keeps_foldl_snd ?_ (fun t b ht => ?_)
    | split
    | exact keeps_in (keeps_out hx)
    | exact keeps_in (keeps_out hs)
    | exact keeps_in (keeps_out ht)
    | (refine keeps_in ?_; dsimp only; exact keeps_out (by with_reducible assumption))
    | dsimp only

theorem tagRead_keeps {z : State} {s : State} (hs : Keeps z s) (k : Nat) : Keeps z (State.tagRead s k) := by
  unfold State.tagRead
  repeat' first
    | with_reducible assumption
    | (unfold x; clear x)
    | (extract_lets -merge -useContext +onlyGivenNames x; first | (refine keeps_cut (s0 := z) x ?_ (fun hx => ?_); rotate_left; clear_value x) | (refine keeps_cut (s0 := z) x.1 ?_ (fun hx => ?_); rotate_left; clear_value x) | (refine keeps_cut (s0 := z) x.2 ?_ (fun hx => ?_); rotate_left; clear_value x) | (refine keeps_cut (s0 := z) x.2.2 ?_ (fun hx => ?_); rotate_left; clear_value x) | clear_value x)
    | with_reducible apply ledger_keeps
    | split
    | exact keeps_in (keeps_out hx)
    | exact keeps_in (keeps_out hs)
    | (refine keeps_in ?_; dsimp only; exact keeps_out (by with_reducible assumption))
    | dsimp only

theorem spiRead_keeps {z : State} {s : State} (hs : Keeps z s) (p : Nat) (sec : Bool) (space : Nat) (a : Nat) (n : Nat) (crcOk : Bool) (fetched : Fetch) (tagBad : Bool) : Keeps z (State.spiRead s p sec space a n crcOk fetched tagBad) := by
  unfold State.spiRead
  repeat' first
    | with_reducible assumption
    | (unfold x; clear x)
    | with_reducible refine keeps_snd (by with_reducible assumption) ?_
    | with_reducible refine keeps_fst (by with_reducible assumption) ?_
    | with_reducible refine keeps_third (by with_reducible assumption) ?_
    | with_reducible refine keeps_mid (by with_reducible assumption) ?_
    | (extract_lets -merge -useContext +onlyGivenNames x; first | (refine keeps_cut (s0 := z) x ?_ (fun hx => ?_); rotate_left; clear_value x) | (refine keeps_cut (s0 := z) x.1 ?_ (fun hx => ?_); rotate_left; clear_value x) | (refine keeps_cut (s0 := z) x.2 ?_ (fun hx => ?_); rotate_left; clear_value x) | clear_value x)
    | with_reducible apply answer_keeps
    | with_reducible apply violation_keeps
    | with_reducible apply ledger_keeps
    | with_reducible refine keeps_foldl ?_ (fun t b ht => ?_)
    | with_reducible apply setPort_keeps
    | with_reducible apply tagRead_keeps
    | with_reducible refine keeps_foldl_fst ?_ (fun t b ht => ?_)
    | with_reducible refine keeps_foldl_snd ?_ (fun t b ht => ?_)
    | split
    | exact keeps_in (keeps_out hx)
    | exact keeps_in (keeps_out hs)
    | exact keeps_in (keeps_out ht)
    | (refine keeps_in ?_; dsimp only; exact keeps_out (by with_reducible assumption))
    | dsimp only

theorem quadExit_keeps {z : State} {s : State} (hs : Keeps z s) (p : Nat) : Keeps z (State.quadExit s p) := by
  unfold State.quadExit
  repeat' first
    | with_reducible assumption
    | (unfold x; clear x)
    | (extract_lets -merge -useContext +onlyGivenNames x; first | (refine keeps_cut (s0 := z) x ?_ (fun hx => ?_); rotate_left; clear_value x) | clear_value x)
    | with_reducible apply setPort_keeps
    | split
    | exact keeps_in (keeps_out hx)
    | exact keeps_in (keeps_out hs)
    | (refine keeps_in ?_; dsimp only; exact keeps_out (by with_reducible assumption))
    | dsimp only

theorem ringAge_keeps {z : State} {s : State} (hs : Keeps z s) (n : Nat) : Keeps z (State.ringAge s n) := by
  unfold State.ringAge
  repeat' first
    | with_reducible assumption
    | (unfold x; clear x)
    | (extract_lets -merge -useContext +onlyGivenNames x; first | (refine keeps_cut (s0 := z) x ?_ (fun hx => ?_); rotate_left; clear_value x) | clear_value x)
    | with_reducible apply raise_keeps
    | split
    | exact keeps_in (keeps_out hx)
    | exact keeps_in (keeps_out hs)
    | (refine keeps_in ?_; dsimp only; exact keeps_out (by with_reducible assumption))
    | dsimp only

theorem alarmFlush_keeps {z : State} {s : State} (hs : Keeps z s) : Keeps z (State.alarmFlush s) := by
  unfold State.alarmFlush
  split
  · exact hs
  · split
    · exact hs
    · rename_i a t _ hr
      extract_lets s1 s2
      have h1 : Keeps z s1 := produce_keeps hs 7 (by simpa using hr) _
      have h2 : Keeps z s2 := inc_keeps h1 _ _ _ _
      clear_value s1 s2
      exact keeps_in (keeps_out h2)

end Sys2Proof.Laws
end

