-- ==== Sys2Proof/Laws/Modulation.lean ====
section
/-! SUPPORT. What the operations of `Machine/Modulation.lean` keep. -/
namespace Sys2Proof.Laws
open Machine Safety

theorem legPeriod_keeps {z s : State} (hs : Keeps z s) (l t : Nat) : Keeps z (s.legPeriod l t) := by
  have k : ∀ x : Leg, x.hi.cmd = (s.leg l).hi.cmd → x.lo.cmd = (s.leg l).lo.cmd → Keeps z (s.setLeg l x) :=
    fun x h1 h2 => setLeg_keeps hs l (leg_keep (leg_ok hs l) h1 h2)
  unfold State.legPeriod
  extract_lets i x n y len q
  split
  · exact k _ rfl rfl
  · split
    · exact k _ rfl rfl
    · refine inc_keeps (k _ ?_ ?_) _ _ _ _ <;> rfl

theorem carTo_keeps {z s : State} (hs : Keeps z s) (i t n : Nat) : Keeps z (s.carTo i t n) := by
  induction n generalizing s with
  | zero => exact hs
  | succ n ih =>
    unfold State.carTo
    dsimp only
    split
    · split
      · exact hs
      · exact ih (keeps_foldl (setStg_keeps hs _ _) fun _ _ ht => legPeriod_keeps ht _ _)
    · split
      · exact hs
      · split
        · exact setStg_keeps hs _ _
        · exact ih (keeps_foldl (setStg_keeps hs _ _) fun _ _ ht => legPeriod_keeps ht _ _)

theorem placeEdge_keeps {z : State} {s : State} (hs : Keeps z s) (l : Nat) (t : Nat) (fix : Option Nat) : Keeps z (State.placeEdge s l t fix) := by
  unfold State.placeEdge
  repeat' first
    | with_reducible assumption
    | (unfold x; clear x)
    | (extract_lets -merge -useContext +onlyGivenNames x; first | (refine keeps_cut (s0 := z) x ?_ (fun hx => ?_); rotate_left; clear_value x) | (refine leg_cut x ?_ (fun hx => ?_); rotate_left; clear_value x) | clear_value x)
    | with_reducible apply leg_ok
    | with_reducible apply leg_keep
    | assumption
    | with_reducible apply setLevel_keeps
    | with_reducible apply setLeg_keeps
    | split
    | exact keeps_in (keeps_out hx)
    | exact keeps_in (keeps_out hs)
    | (refine keeps_in ?_; dsimp only; exact keeps_out (by with_reducible assumption))
    | dsimp only

theorem minPulse_keeps {z s : State} (hs : Keeps z s) (l t : Nat) : Keeps z (s.minPulse l t) := by
  have ok : ∀ (c : Bool) {v : State}, Keeps z v → Keeps z (if c = true then v.setLeg l { v.leg l with lowOk := true } else v) :=
    fun c v hv => keeps_ite (setLeg_keeps hv l (leg_keep (leg_ok hv l) rfl rfl)) hv
  unfold State.minPulse
  extract_lets i x w
  split
  · exact placeEdge_keeps hs _ _ _
  · extract_lets meets u
    refine keeps_ite (placeEdge_keeps (ok _ hs) _ _ _)
      (keeps_ite ?_ (placeEdge_keeps (ok _ (inc_keeps hs _ _ _ _)) _ _ _))
    refine inc_keeps (setLeg_keeps hs l (leg_keep (leg_ok hs l) ?_ ?_)) _ _ _ _ <;> rfl

theorem boundaryToggle_keeps {z s : State} (hs : Keeps z s) (l t : Nat) : Keeps z (s.boundaryToggle l t) := by
  unfold State.boundaryToggle
  extract_lets i x
  split
  · exact minPulse_keeps hs _ _
  · refine keeps_ite (minPulse_keeps hs _ _) ?_
    have h1 : Keeps z (s.inc STAGE.DROPCNT i) := inc_keeps hs _ _ _ _
    exact keeps_ite (setLeg_keeps h1 l (leg_keep (leg_ok hs l) rfl rfl)) (setLeg_keeps h1 l (leg_keep (leg_ok hs l) rfl rfl))

theorem edgePlacement_keeps {z s : State} (hs : Keeps z s) (l : Nat) : Keeps z (s.edgePlacement l) := by
  unfold State.edgePlacement
  dsimp only
  split
  · exact hs
  · split
    · exact hs
    · split
      · exact minPulse_keeps (carTo_keeps hs _ _ _) _ _
      · split
        · exact hs
        · exact minPulse_keeps (carTo_keeps (atOff_keeps hs _) _ _ _) _ _

theorem reedge_keeps {z : State} {s : State} (hs : Keeps z s) (l : Nat) (now : Nat) : Keeps z (State.reedge s l now) := by
  unfold State.reedge
  repeat' first
    | with_reducible assumption
    | (unfold x; clear x)
    | (extract_lets -merge -useContext +onlyGivenNames x; first | (refine keeps_cut (s0 := z) x ?_ (fun hx => ?_); rotate_left; clear_value x) | (refine leg_cut x ?_ (fun hx => ?_); rotate_left; clear_value x) | clear_value x)
    | with_reducible apply leg_ok
    | with_reducible apply leg_keep
    | assumption
    | with_reducible apply inc_keeps
    | with_reducible apply setLeg_keeps
    | split
    | exact keeps_in (keeps_out hx)
    | exact keeps_in (keeps_out hs)
    | (refine keeps_in ?_; dsimp only; exact keeps_out (by with_reducible assumption))
    | dsimp only

theorem tableFails_keeps {z : State} {s : State} (hs : Keeps z s) (p : Nat) : Keeps z (State.tableFails s p) := by
  unfold State.tableFails
  repeat' first
    | with_reducible assumption
    | (unfold x; clear x)
    | (extract_lets -merge -useContext +onlyGivenNames x; first | (refine keeps_cut (s0 := z) x ?_ (fun hx => ?_); rotate_left; clear_value x) | clear_value x)
    | with_reducible apply alarm_keeps
    | with_reducible apply put_keeps
    | split
    | exact keeps_in (keeps_out hx)
    | exact keeps_in (keeps_out hs)
    | (refine keeps_in ?_; dsimp only; exact keeps_out (by with_reducible assumption))
    | dsimp only

theorem checkTable_keeps {z : State} {s : State} (hs : Keeps z s) (p : Nat) (bad : Bool) : Keeps z (State.checkTable s p bad) := by
  unfold State.checkTable
  repeat' first
    | with_reducible assumption
    | (unfold x; clear x)
    | (extract_lets -merge -useContext +onlyGivenNames x; first | (refine keeps_cut (s0 := z) x ?_ (fun hx => ?_); rotate_left; clear_value x) | clear_value x)
    | with_reducible apply tableFails_keeps
    | split
    | exact keeps_in (keeps_out hx)
    | exact keeps_in (keeps_out hs)
    | (refine keeps_in ?_; dsimp only; exact keeps_out (by with_reducible assumption))
    | dsimp only

theorem tabcrcCheck_keeps {z : State} {s : State} (hs : Keeps z s) (bad : Nat) : Keeps z (State.tabcrcCheck s bad) := by
  unfold State.tabcrcCheck
  repeat' first
    | with_reducible assumption
    | (unfold x; clear x)
    | (extract_lets -merge -useContext +onlyGivenNames x; first | (refine keeps_cut (s0 := z) x ?_ (fun hx => ?_); rotate_left; clear_value x) | clear_value x)
    | with_reducible apply checkTable_keeps
    | with_reducible refine keeps_foldl ?_ (fun t b ht => ?_)
    | split
    | exact keeps_in (keeps_out hx)
    | exact keeps_in (keeps_out hs)
    | exact keeps_in (keeps_out ht)
    | (refine keeps_in ?_; dsimp only; exact keeps_out (by with_reducible assumption))
    | dsimp only

theorem rungTo_keeps {z : State} {s : State} (hs : Keeps z s) (i : Nat) (b : Nat) (six : Bool) (t : Nat) : Keeps z (State.rungTo s i b six t) := by
  unfold State.rungTo
  repeat' first
    | with_reducible assumption
    | (unfold x; clear x)
    | with_reducible refine keeps_snd (by with_reducible assumption) ?_
    | with_reducible refine keeps_fst (by with_reducible assumption) ?_
    | with_reducible refine keeps_third (by with_reducible assumption) ?_
    | with_reducible refine keeps_mid (by with_reducible assumption) ?_
    | (extract_lets -merge -useContext +onlyGivenNames x; first | (refine keeps_cut (s0 := z) x ?_ (fun hx => ?_); rotate_left; clear_value x) | (refine keeps_cut (s0 := z) x.1 ?_ (fun hx => ?_); rotate_left; clear_value x) | (refine keeps_cut (s0 := z) x.2 ?_ (fun hx => ?_); rotate_left; clear_value x) | (refine leg_cut x ?_ (fun hx => ?_); rotate_left; clear_value x) | clear_value x)
    | with_reducible apply leg_ok
    | with_reducible apply leg_keep
    | assumption
    | with_reducible apply checkTable_keeps
    | with_reducible apply setStg_keeps
    | with_reducible apply inc_keeps
    | with_reducible apply put_keeps
    | with_reducible apply setLeg_keeps
    | with_reducible refine keeps_foldl ?_ (fun t b ht => ?_)
    | with_reducible refine keeps_foldl_fst ?_ (fun t b ht => ?_)
    | with_reducible refine keeps_foldl_snd ?_ (fun t b ht => ?_)
    | split
    | exact keeps_in (keeps_out hx)
    | exact keeps_in (keeps_out hs)
    | exact keeps_in (keeps_out ht)
    | (refine keeps_in ?_; dsimp only; exact keeps_out (by with_reducible assumption))
    | dsimp only

theorem rungChange_keeps {z s : State} (hs : Keeps z s) (i o : Nat) : Keeps z (s.rungChange i o) := by
  unfold State.rungChange
  dsimp only
  split
  · exact hs
  · have h1 := carTo_keeps (atOff_keeps hs o) i (s.atOff o).vnow 64
    generalize (s.atOff o).carTo i (s.atOff o).vnow 64 = u at *
    have h2 := rungTo_keeps h1 i (u.stg i).bT (u.stg i).sixT (s.atOff o).vnow
    generalize u.rungTo i (u.stg i).bT (u.stg i).sixT (s.atOff o).vnow = v at *
    split
    · exact h2
    · exact keeps_foldl h2 fun t b ht => keeps_ite (boundaryToggle_keeps ht _ _) ht

theorem ladder_keeps {z : State} {s : State} (hs : Keeps z s) (i : Nat) (fe : F32) (a : F32) (clampd : Bool) : Keeps z (State.ladder s i fe a clampd) := by
  unfold State.ladder
  repeat' first
    | with_reducible assumption
    | (unfold x; clear x)
    | (extract_lets -merge -useContext +onlyGivenNames x; first | (refine keeps_cut (s0 := z) x ?_ (fun hx => ?_); rotate_left; clear_value x) | clear_value x)
    | with_reducible apply setStg_keeps
    | split
    | exact keeps_in (keeps_out hx)
    | exact keeps_in (keeps_out hs)
    | (refine keeps_in ?_; dsimp only; exact keeps_out (by with_reducible assumption))
    | dsimp only

theorem lowRatio_keeps {z : State} {s : State} (hs : Keeps z s) (i : Nat) (m : Nat) (fe : F32) : Keeps z (State.lowRatio s i m fe) := by
  unfold State.lowRatio
  repeat' first
    | with_reducible assumption
    | (unfold x; clear x)
    | (extract_lets -merge -useContext +onlyGivenNames x; first | (refine keeps_cut (s0 := z) x ?_ (fun hx => ?_); rotate_left; clear_value x) | clear_value x)
    | with_reducible apply loopFault_keeps
    | with_reducible apply setStg_keeps
    | split
    | exact keeps_in (keeps_out hx)
    | exact keeps_in (keeps_out hs)
    | (refine keeps_in ?_; dsimp only; exact keeps_out (by with_reducible assumption))
    | dsimp only

theorem ceilSet_keeps {z : State} {s : State} (hs : Keeps z s) (m : Nat) (conv : F32) : Keeps z (State.ceilSet s m conv) := by
  unfold State.ceilSet
  repeat' first
    | with_reducible assumption
    | (unfold x; clear x)
    | (extract_lets -merge -useContext +onlyGivenNames x; first | (refine keeps_cut (s0 := z) x ?_ (fun hx => ?_); rotate_left; clear_value x) | clear_value x)
    | with_reducible apply putF_keeps
    | split
    | exact keeps_in (keeps_out hx)
    | exact keeps_in (keeps_out hs)
    | (refine keeps_in ?_; dsimp only; exact keeps_out (by with_reducible assumption))
    | dsimp only

theorem modCommit_keeps {z s : State} (hs : Keeps z s) (m : Nat) (fe : F32) (ts now : Nat) : Keeps z (s.modCommit m fe ts now) := by
  unfold State.modCommit
  split
  · exact hs
  · rename_i i _
    extract_lets m1 s1 m2 s2 first m3 s3 s4 s5
    have h1 : Keeps z s1 := setStg_keeps hs _ _
    have h2 : Keeps z s2 := carTo_keeps h1 _ _ _
    have h3 : Keeps z s3 := setStg_keeps h2 _ _
    have h4 : Keeps z s4 := keeps_ite (rungTo_keeps h3 _ _ _ _) h3
    exact keeps_ite (setStg_keeps h1 _ _) (keeps_foldl (lowRatio_keeps h4 _ _ _) fun _ _ ht => reedge_keeps ht _ _)

theorem modMark_keeps {z s : State} (hs : Keeps z s) : Keeps z s.modMark :=
  keeps_foldl hs fun _ _ ht => keeps_ite (carTo_keeps ht _ _ _) ht

theorem patternSrc_keeps {z : State} {s : State} (hs : Keeps z s) (p : Nat) (v : Nat) : Keeps z (State.patternSrc s p v).2 := by
  unfold State.patternSrc
  repeat' first
    | with_reducible assumption
    | (unfold x; clear x)
    | with_reducible refine keeps_snd (by with_reducible assumption) ?_
    | with_reducible refine keeps_fst (by with_reducible assumption) ?_
    | (extract_lets -merge -useContext +onlyGivenNames x; first | (refine keeps_cut (s0 := z) x ?_ (fun hx => ?_); rotate_left; clear_value x) | (refine keeps_cut (s0 := z) x.1 ?_ (fun hx => ?_); rotate_left; clear_value x) | (refine keeps_cut (s0 := z) x.2 ?_ (fun hx => ?_); rotate_left; clear_value x) | clear_value x)
    | with_reducible apply put_keeps
    | split
    | exact keeps_in (keeps_out hx)
    | exact keeps_in (keeps_out hs)
    | (refine keeps_in ?_; dsimp only; exact keeps_out (by with_reducible assumption))
    | dsimp only

theorem patEntryWrite_keeps {z : State} {s : State} (hs : Keeps z s) (p : Nat) (x : Nat) (v : Nat) : Keeps z (State.patEntryWrite s p x v).2 := by
  unfold State.patEntryWrite
  repeat' first
    | with_reducible assumption
    | (unfold x; clear x)
    | with_reducible refine keeps_snd (by with_reducible assumption) ?_
    | with_reducible refine keeps_fst (by with_reducible assumption) ?_
    | (extract_lets -merge -useContext +onlyGivenNames x; first | (refine keeps_cut (s0 := z) x ?_ (fun hx => ?_); rotate_left; clear_value x) | (refine keeps_cut (s0 := z) x.1 ?_ (fun hx => ?_); rotate_left; clear_value x) | (refine keeps_cut (s0 := z) x.2 ?_ (fun hx => ?_); rotate_left; clear_value x) | clear_value x)
    | with_reducible apply put_keeps
    | split
    | exact keeps_in (keeps_out hx)
    | exact keeps_in (keeps_out hs)
    | (refine keeps_in ?_; dsimp only; exact keeps_out (by with_reducible assumption))
    | dsimp only

theorem styleWrite_keeps {z : State} {s : State} (hs : Keeps z s) (m : Nat) (v : Nat) : Keeps z (State.styleWrite s m v).2 := by
  unfold State.styleWrite
  repeat' first
    | with_reducible assumption
    | (unfold x; clear x)
    | with_reducible refine keeps_snd (by with_reducible assumption) ?_
    | with_reducible refine keeps_fst (by with_reducible assumption) ?_
    | (extract_lets -merge -useContext +onlyGivenNames x; first | (refine keeps_cut (s0 := z) x ?_ (fun hx => ?_); rotate_left; clear_value x) | (refine keeps_cut (s0 := z) x.1 ?_ (fun hx => ?_); rotate_left; clear_value x) | (refine keeps_cut (s0 := z) x.2 ?_ (fun hx => ?_); rotate_left; clear_value x) | clear_value x)
    | with_reducible apply put_keeps
    | split
    | exact keeps_in (keeps_out hx)
    | exact keeps_in (keeps_out hs)
    | (refine keeps_in ?_; dsimp only; exact keeps_out (by with_reducible assumption))
    | dsimp only

end Sys2Proof.Laws
end

