-- ==== Sys2Proof/Laws/Pool.lean ====
section
/-! SUPPORT. What the operations of `Machine/Pool.lean` keep. -/
namespace Sys2Proof.Laws
open Machine Safety

theorem poolFault_keeps {z : State} {s : State} (hs : Keeps z s) (code : Nat) (inst : Nat) (x : Nat) (cls : Nat) : Keeps z (State.poolFault s code inst x cls) := by
  unfold State.poolFault
  repeat' first
    | with_reducible assumption
    | (unfold x; clear x)
    | (extract_lets -merge -useContext +onlyGivenNames x; first | (refine keeps_cut (s0 := z) x ?_ (fun hx => ?_); rotate_left; clear_value x) | clear_value x)
    | with_reducible apply alarm_keeps
    | split
    | exact keeps_in (keeps_out hx)
    | exact keeps_in (keeps_out hs)
    | (refine keeps_in ?_; dsimp only; exact keeps_out (by with_reducible assumption))
    | dsimp only

theorem thermalStep_keeps {z : State} {s : State} (hs : Keeps z s) (x : Nat) (m : Nat) : Keeps z (State.thermalStep s x m) := by
  unfold State.thermalStep
  repeat' first
    | with_reducible assumption
    | (unfold x; clear x)
    | with_reducible refine keeps_snd (by with_reducible assumption) ?_
    | with_reducible refine keeps_fst (by with_reducible assumption) ?_
    | with_reducible refine keeps_third (by with_reducible assumption) ?_
    | with_reducible refine keeps_mid (by with_reducible assumption) ?_
    | (extract_lets -merge -useContext +onlyGivenNames x; first | (refine keeps_cut (s0 := z) x ?_ (fun hx => ?_); rotate_left; clear_value x) | (refine keeps_cut (s0 := z) x.1 ?_ (fun hx => ?_); rotate_left; clear_value x) | (refine keeps_cut (s0 := z) x.2 ?_ (fun hx => ?_); rotate_left; clear_value x) | clear_value x)
    | with_reducible apply putF_keeps
    | with_reducible apply poolFault_keeps
    | with_reducible apply setMachX_keeps
    | split
    | exact keeps_in (keeps_out hx)
    | exact keeps_in (keeps_out hs)
    | (refine keeps_in ?_; dsimp only; exact keeps_out (by with_reducible assumption))
    | dsimp only

theorem thermalMark_keeps {z : State} {s : State} (hs : Keeps z s) : Keeps z (State.thermalMark s) := by
  unfold State.thermalMark
  repeat' first
    | with_reducible assumption
    | (unfold x; clear x)
    | (extract_lets -merge -useContext +onlyGivenNames x; first | (refine keeps_cut (s0 := z) x ?_ (fun hx => ?_); rotate_left; clear_value x) | (refine keeps_cut (s0 := z) x.1 ?_ (fun hx => ?_); rotate_left; clear_value x) | (refine keeps_cut (s0 := z) x.2 ?_ (fun hx => ?_); rotate_left; clear_value x) | (refine keeps_cut (s0 := z) x.2.2 ?_ (fun hx => ?_); rotate_left; clear_value x) | clear_value x)
    | with_reducible apply thermalStep_keeps
    | with_reducible refine keeps_foldl ?_ (fun t b ht => ?_)
    | with_reducible refine keeps_foldl_fst ?_ (fun t b ht => ?_)
    | with_reducible refine keeps_foldl_snd ?_ (fun t b ht => ?_)
    | split
    | exact keeps_in (keeps_out hx)
    | exact keeps_in (keeps_out hs)
    | exact keeps_in (keeps_out ht)
    | (refine keeps_in ?_; dsimp only; exact keeps_out (by with_reducible assumption))
    | dsimp only

theorem giveEnd_keeps {z : State} {s : State} (hs : Keeps z s) (x : Nat) : Keeps z (State.giveEnd s x) := by
  unfold State.giveEnd
  repeat' first
    | with_reducible assumption
    | (unfold x; clear x)
    | (extract_lets -merge -useContext +onlyGivenNames x; first | (refine keeps_cut (s0 := z) x ?_ (fun hx => ?_); rotate_left; clear_value x) | clear_value x)
    | with_reducible apply put_keeps
    | split
    | exact keeps_in (keeps_out hx)
    | exact keeps_in (keeps_out hs)
    | (refine keeps_in ?_; dsimp only; exact keeps_out (by with_reducible assumption))
    | dsimp only

theorem giveStart_keeps {z : State} {s : State} (hs : Keeps z s) (x : Nat) (again : Bool) : Keeps z (State.giveStart s x again) := by
  unfold State.giveStart
  repeat' first
    | with_reducible assumption
    | (unfold x; clear x)
    | (extract_lets -merge -useContext +onlyGivenNames x; first | (refine keeps_cut (s0 := z) x ?_ (fun hx => ?_); rotate_left; clear_value x) | clear_value x)
    | with_reducible apply poolFault_keeps
    | with_reducible apply inc_keeps
    | with_reducible apply put_keeps
    | with_reducible apply putF_keeps
    | with_reducible apply setAxisX_keeps
    | split
    | exact keeps_in (keeps_out hx)
    | exact keeps_in (keeps_out hs)
    | (refine keeps_in ?_; dsimp only; exact keeps_out (by with_reducible assumption))
    | dsimp only

theorem giveMark_keeps {z : State} {s : State} (hs : Keeps z s) (x : Nat) : Keeps z (State.giveMark s x) := by
  unfold State.giveMark
  repeat' first
    | with_reducible assumption
    | (unfold x; clear x)
    | (extract_lets -merge -useContext +onlyGivenNames x; first | (refine keeps_cut (s0 := z) x ?_ (fun hx => ?_); rotate_left; clear_value x) | clear_value x)
    | with_reducible apply setAxisX_keeps
    | with_reducible apply giveStart_keeps
    | with_reducible apply put_keeps
    | split
    | exact keeps_in (keeps_out hx)
    | exact keeps_in (keeps_out hs)
    | (refine keeps_in ?_; dsimp only; exact keeps_out (by with_reducible assumption))
    | dsimp only

theorem giveTorque_keeps {z : State} {s : State} (hs : Keeps z s) (x : Nat) : Keeps z (State.giveTorque s x).1 := by
  unfold State.giveTorque
  repeat' first
    | with_reducible assumption
    | (unfold x; clear x)
    | with_reducible refine keeps_snd (by with_reducible assumption) ?_
    | with_reducible refine keeps_fst (by with_reducible assumption) ?_
    | (extract_lets -merge -useContext +onlyGivenNames x; first | (refine keeps_cut (s0 := z) x ?_ (fun hx => ?_); rotate_left; clear_value x) | (refine keeps_cut (s0 := z) x.1 ?_ (fun hx => ?_); rotate_left; clear_value x) | (refine keeps_cut (s0 := z) x.2 ?_ (fun hx => ?_); rotate_left; clear_value x) | clear_value x)
    | with_reducible apply setAxisX_keeps
    | with_reducible apply putF_keeps
    | with_reducible apply axisFault_keeps
    | with_reducible apply poolFault_keeps
    | split
    | exact keeps_in (keeps_out hx)
    | exact keeps_in (keeps_out hs)
    | (refine keeps_in ?_; dsimp only; exact keeps_out (by with_reducible assumption))
    | dsimp only

theorem giveRecover_keeps {z : State} {s : State} (hs : Keeps z s) (x : Nat) : Keeps z (State.giveRecover s x) := by
  unfold State.giveRecover
  repeat' first
    | with_reducible assumption
    | (unfold x; clear x)
    | with_reducible refine keeps_snd (by with_reducible assumption) ?_
    | with_reducible refine keeps_fst (by with_reducible assumption) ?_
    | (extract_lets -merge -useContext +onlyGivenNames x; first | (refine keeps_cut (s0 := z) x ?_ (fun hx => ?_); rotate_left; clear_value x) | (refine keeps_cut (s0 := z) x.1 ?_ (fun hx => ?_); rotate_left; clear_value x) | (refine keeps_cut (s0 := z) x.2 ?_ (fun hx => ?_); rotate_left; clear_value x) | clear_value x)
    | with_reducible apply put_keeps
    | with_reducible apply putF_keeps
    | with_reducible apply setAxisX_keeps
    | with_reducible apply motionReplan_keeps
    | split
    | exact keeps_in (keeps_out hx)
    | exact keeps_in (keeps_out hs)
    | (refine keeps_in ?_; dsimp only; exact keeps_out (by with_reducible assumption))
    | dsimp only

theorem giveRecovered_keeps {z : State} {s : State} (hs : Keeps z s) (x : Nat) : Keeps z (State.giveRecovered s x) := by
  unfold State.giveRecovered
  repeat' first
    | with_reducible assumption
    | (unfold x; clear x)
    | (extract_lets -merge -useContext +onlyGivenNames x; first | (refine keeps_cut (s0 := z) x ?_ (fun hx => ?_); rotate_left; clear_value x) | clear_value x)
    | with_reducible apply poolFault_keeps
    | with_reducible apply put_keeps
    | split
    | exact keeps_in (keeps_out hx)
    | exact keeps_in (keeps_out hs)
    | (refine keeps_in ?_; dsimp only; exact keeps_out (by with_reducible assumption))
    | dsimp only

theorem giveTimeout_keeps {z : State} {s : State} (hs : Keeps z s) (x : Nat) : Keeps z (State.giveTimeout s x) := by
  unfold State.giveTimeout
  repeat' first
    | with_reducible assumption
    | (unfold x; clear x)
    | (extract_lets -merge -useContext +onlyGivenNames x; first | (refine keeps_cut (s0 := z) x ?_ (fun hx => ?_); rotate_left; clear_value x) | clear_value x)
    | with_reducible apply axisFault_keeps
    | with_reducible apply poolFault_keeps
    | split
    | exact keeps_in (keeps_out hx)
    | exact keeps_in (keeps_out hs)
    | (refine keeps_in ?_; dsimp only; exact keeps_out (by with_reducible assumption))
    | dsimp only

theorem presetTo_keeps {z : State} {s : State} (hs : Keeps z s) (x : Nat) (n : Nat) (t : F32) (e : F32) (add : F32) : Keeps z (State.presetTo s x n t e add) := by
  unfold State.presetTo
  repeat' first
    | with_reducible assumption
    | (unfold x; clear x)
    | (extract_lets -merge -useContext +onlyGivenNames x; first | (refine keeps_cut (s0 := z) x ?_ (fun hx => ?_); rotate_left; clear_value x) | clear_value x)
    | with_reducible apply putF_keeps
    | split
    | exact keeps_in (keeps_out hx)
    | exact keeps_in (keeps_out hs)
    | (refine keeps_in ?_; dsimp only; exact keeps_out (by with_reducible assumption))
    | dsimp only

theorem posSaturated_keeps {z : State} {s : State} (hs : Keeps z s) (x : Nat) : Keeps z (State.posSaturated s x) := by
  unfold State.posSaturated
  repeat' first
    | with_reducible assumption
    | (unfold x; clear x)
    | (extract_lets -merge -useContext +onlyGivenNames x; first | (refine keeps_cut (s0 := z) x ?_ (fun hx => ?_); rotate_left; clear_value x) | clear_value x)
    | with_reducible apply inc_keeps
    | with_reducible apply putB_keeps
    | split
    | exact keeps_in (keeps_out hx)
    | exact keeps_in (keeps_out hs)
    | (refine keeps_in ?_; dsimp only; exact keeps_out (by with_reducible assumption))
    | dsimp only

theorem speedWith_keeps {z : State} {s : State} (hs : Keeps z s) (x : Nat) (vref : F32) (aref : F32) (down : Bool) (first : Bool) : Keeps z (State.speedWith s x vref aref down first).1 := by
  unfold State.speedWith
  repeat' first
    | with_reducible assumption
    | (unfold x; clear x)
    | with_reducible refine keeps_snd (by with_reducible assumption) ?_
    | with_reducible refine keeps_fst (by with_reducible assumption) ?_
    | (extract_lets -merge -useContext +onlyGivenNames x; first | (refine keeps_cut (s0 := z) x ?_ (fun hx => ?_); rotate_left; clear_value x) | clear_value x)
    | with_reducible apply presetTo_keeps
    | with_reducible apply setAxisX_keeps
    | with_reducible apply speedLoop_keeps
    | split
    | exact keeps_in (keeps_out hx)
    | exact keeps_in (keeps_out hs)
    | (refine keeps_in ?_; dsimp only; exact keeps_out (by with_reducible assumption))
    | dsimp only

theorem loopTorque_keeps {z : State} {s : State} (hs : Keeps z s) (x : Nat) (down : Bool) (first : Bool) (subst : Bool) : Keeps z (State.loopTorque s x down first subst).1 := by
  unfold State.loopTorque
  repeat' first
    | with_reducible assumption
    | (unfold x; clear x)
    | with_reducible refine keeps_snd (by with_reducible assumption) ?_
    | with_reducible refine keeps_fst (by with_reducible assumption) ?_
    | with_reducible refine keeps_third (by with_reducible assumption) ?_
    | with_reducible refine keeps_mid (by with_reducible assumption) ?_
    | (extract_lets -merge -useContext +onlyGivenNames x; first | (refine keeps_cut (s0 := z) x ?_ (fun hx => ?_); rotate_left; clear_value x) | (refine keeps_cut (s0 := z) x.1 ?_ (fun hx => ?_); rotate_left; clear_value x) | (refine keeps_cut (s0 := z) x.2 ?_ (fun hx => ?_); rotate_left; clear_value x) | clear_value x)
    | with_reducible apply tensionLoop_keeps
    | with_reducible apply positionLoop_keeps
    | with_reducible apply speedWith_keeps
    | with_reducible apply posSaturated_keeps
    | with_reducible apply presetTo_keeps
    | split
    | exact keeps_in (keeps_out hx)
    | exact keeps_in (keeps_out hs)
    | (refine keeps_in ?_; dsimp only; exact keeps_out (by with_reducible assumption))
    | dsimp only

theorem observe_keeps {z : State} {s : State} (hs : Keeps z s) (x : Nat) : Keeps z (State.observe s x) := by
  unfold State.observe
  repeat' first
    | with_reducible assumption
    | (unfold x; clear x)
    | (extract_lets -merge -useContext +onlyGivenNames x; first | (refine keeps_cut (s0 := z) x ?_ (fun hx => ?_); rotate_left; clear_value x) | (refine keeps_cut (s0 := z) x.1 ?_ (fun hx => ?_); rotate_left; clear_value x) | (refine keeps_cut (s0 := z) x.2 ?_ (fun hx => ?_); rotate_left; clear_value x) | (refine keeps_cut (s0 := z) x.2.2 ?_ (fun hx => ?_); rotate_left; clear_value x) | clear_value x)
    | with_reducible apply observer_keeps
    | split
    | exact keeps_in (keeps_out hx)
    | exact keeps_in (keeps_out hs)
    | (refine keeps_in ?_; dsimp only; exact keeps_out (by with_reducible assumption))
    | dsimp only

theorem axisTorque_keeps {z s : State} (hs : Keeps z s) (x : Nat) (subst : Bool) : Keeps z (s.axisTorque x subst).1 := by
  unfold State.axisTorque
  extract_lets st v a give down s1 first keep s0
  have h1 : Keeps z s1 := keeps_in (keeps_out hs)
  clear_value s1
  split
  · exact observe_keeps h1 _
  split
  · exact observe_keeps h1 _
  split
  · split
    · have h2 := tensionLoop_keeps (putF_keeps h1 AXIS.VMAXT x (s1.f STOP.RELV x) 0) x (s1.f STOP.RELT x) down
      split
      rename_i e
      rw [e] at h2
      exact observe_keeps (putF_keeps h2 _ _ _ _) _
    · exact observe_keeps h1 _
  · have h2 := loopTorque_keeps h1 x down first subst
    generalize s1.loopTorque x down first subst = p at h2 ⊢
    obtain ⟨s2, tl⟩ := p
    dsimp only at h2
    dsimp -zeta only
    extract_lets s3 s4 fr ax s5 ob m
    have h4 : Keeps z s4 := giveMark_keeps (observe_keeps h2 _) _
    clear_value s4
    have h5 : Keeps z s5 := setAxisX_keeps h4 _ _
    clear_value s5
    split
    · exact giveTorque_keeps h5 _
    split
    · exact h5
    · exact h5

theorem poolMembers_keeps {z : State} {s : State} (hs : Keeps z s) (x : Nat) : Keeps z (State.poolMembers s x) := by
  unfold State.poolMembers
  repeat' first
    | with_reducible assumption
    | (unfold x; clear x)
    | (extract_lets -merge -useContext +onlyGivenNames x; first | (refine keeps_cut (s0 := z) x ?_ (fun hx => ?_); rotate_left; clear_value x) | clear_value x)
    | with_reducible apply poolFault_keeps
    | with_reducible apply setAxisX_keeps
    | with_reducible apply put_keeps
    | with_reducible apply axisFault_keeps
    | with_reducible refine keeps_foldl ?_ (fun t b ht => ?_)
    | with_reducible refine keeps_foldl_fst ?_ (fun t b ht => ?_)
    | with_reducible refine keeps_foldl_snd ?_ (fun t b ht => ?_)
    | split
    | exact keeps_in (keeps_out hx)
    | exact keeps_in (keeps_out hs)
    | exact keeps_in (keeps_out ht)
    | (refine keeps_in ?_; dsimp only; exact keeps_out (by with_reducible assumption))
    | dsimp only

theorem preloadStep_keeps {z : State} {s : State} (hs : Keeps z s) (x : Nat) (ms : List Nat) : Keeps z (State.preloadStep s x ms) := by
  unfold State.preloadStep
  repeat' first
    | with_reducible assumption
    | (unfold x; clear x)
    | with_reducible refine keeps_snd (by with_reducible assumption) ?_
    | with_reducible refine keeps_fst (by with_reducible assumption) ?_
    | (extract_lets -merge -useContext +onlyGivenNames x; first | (refine keeps_cut (s0 := z) x ?_ (fun hx => ?_); rotate_left; clear_value x) | (refine keeps_cut (s0 := z) x.1 ?_ (fun hx => ?_); rotate_left; clear_value x) | (refine keeps_cut (s0 := z) x.2 ?_ (fun hx => ?_); rotate_left; clear_value x) | clear_value x)
    | with_reducible apply putB_keeps
    | with_reducible apply setAxisX_keeps
    | with_reducible apply excursion_keeps
    | with_reducible apply poolFault_keeps
    | split
    | exact keeps_in (keeps_out hx)
    | exact keeps_in (keeps_out hs)
    | (refine keeps_in ?_; dsimp only; exact keeps_out (by with_reducible assumption))
    | dsimp only

theorem preloadOut_keeps {z : State} {s : State} (hs : Keeps z s) (x : Nat) : Keeps z (State.preloadOut s x) := by
  unfold State.preloadOut
  repeat' first
    | with_reducible assumption
    | (unfold x; clear x)
    | (extract_lets -merge -useContext +onlyGivenNames x; first | (refine keeps_cut (s0 := z) x ?_ (fun hx => ?_); rotate_left; clear_value x) | clear_value x)
    | with_reducible apply setAxisX_keeps
    | split
    | exact keeps_in (keeps_out hx)
    | exact keeps_in (keeps_out hs)
    | (refine keeps_in ?_; dsimp only; exact keeps_out (by with_reducible assumption))
    | dsimp only

theorem joinStep_keeps {z : State} {s : State} (hs : Keeps z s) (x : Nat) : Keeps z (State.joinStep s x) := by
  unfold State.joinStep
  repeat' first
    | with_reducible assumption
    | (unfold x; clear x)
    | (extract_lets -merge -useContext +onlyGivenNames x; first | (refine keeps_cut (s0 := z) x ?_ (fun hx => ?_); rotate_left; clear_value x) | clear_value x)
    | with_reducible apply setMachX_keeps
    | with_reducible refine keeps_foldl ?_ (fun t b ht => ?_)
    | split
    | exact keeps_in (keeps_out hx)
    | exact keeps_in (keeps_out hs)
    | exact keeps_in (keeps_out ht)
    | (refine keeps_in ?_; dsimp only; exact keeps_out (by with_reducible assumption))
    | dsimp only

theorem poolSplit_keeps {z : State} {s : State} (hs : Keeps z s) (x : Nat) (t : F32) : Keeps z (State.poolSplit s x t).1 := by
  unfold State.poolSplit
  repeat' first
    | with_reducible assumption
    | (unfold x; clear x)
    | with_reducible refine keeps_snd (by with_reducible assumption) ?_
    | with_reducible refine keeps_fst (by with_reducible assumption) ?_
    | with_reducible refine keeps_third (by with_reducible assumption) ?_
    | with_reducible refine keeps_mid (by with_reducible assumption) ?_
    | (extract_lets -merge -useContext +onlyGivenNames x; first | (refine keeps_cut (s0 := z) x ?_ (fun hx => ?_); rotate_left; clear_value x) | (refine keeps_cut (s0 := z) x.1 ?_ (fun hx => ?_); rotate_left; clear_value x) | (refine keeps_cut (s0 := z) x.2 ?_ (fun hx => ?_); rotate_left; clear_value x) | clear_value x)
    | with_reducible apply poolMembers_keeps
    | with_reducible apply joinStep_keeps
    | with_reducible apply preloadStep_keeps
    | with_reducible apply setAxisX_keeps
    | with_reducible apply putB_keeps
    | with_reducible apply putF_keeps
    | with_reducible refine keeps_foldl ?_ (fun t b ht => ?_)
    | (with_reducible refine keeps_foldl_fst ?_ (fun t b ht => ?_); rotate_left; rcases t with ⟨t, r⟩; dsimp -zeta only at ht ⊢)
    | (with_reducible refine keeps_foldl_snd ?_ (fun t b ht => ?_); rotate_left; rcases t with ⟨r, t⟩; dsimp -zeta only at ht ⊢)
    | with_reducible refine keeps_foldl_fst ?_ (fun t b ht => ?_)
    | with_reducible refine keeps_foldl_snd ?_ (fun t b ht => ?_)
    | split
    | exact keeps_in (keeps_out hx)
    | exact keeps_in (keeps_out hs)
    | exact keeps_in (keeps_out ht)
    | (refine keeps_in ?_; dsimp only; exact keeps_out (by with_reducible assumption))
    | dsimp only

theorem brakeSlip_keeps {z : State} {s : State} (hs : Keeps z s) (x : Nat) : Keeps z (State.brakeSlip s x) := by
  unfold State.brakeSlip
  repeat' first
    | with_reducible assumption
    | (unfold x; clear x)
    | (extract_lets -merge -useContext +onlyGivenNames x; first | (refine keeps_cut (s0 := z) x ?_ (fun hx => ?_); rotate_left; clear_value x) | clear_value x)
    | with_reducible apply setAxisX_keeps
    | with_reducible apply poolFault_keeps
    | split
    | exact keeps_in (keeps_out hx)
    | exact keeps_in (keeps_out hs)
    | (refine keeps_in ?_; dsimp only; exact keeps_out (by with_reducible assumption))
    | dsimp only

theorem poolTorqueDev_keeps {z : State} {s : State} (hs : Keeps z s) (m : Nat) : Keeps z (State.poolTorqueDev s m) := by
  unfold State.poolTorqueDev
  repeat' first
    | with_reducible assumption
    | (unfold x; clear x)
    | (extract_lets -merge -useContext +onlyGivenNames x; first | (refine keeps_cut (s0 := z) x ?_ (fun hx => ?_); rotate_left; clear_value x) | clear_value x)
    | with_reducible apply poolFault_keeps
    | with_reducible apply alarm_keeps
    | with_reducible apply axisAllFaulted_keeps
    | with_reducible apply partDisable_keeps
    | with_reducible apply machFault_keeps
    | split
    | exact keeps_in (keeps_out hx)
    | exact keeps_in (keeps_out hs)
    | (refine keeps_in ?_; dsimp only; exact keeps_out (by with_reducible assumption))
    | dsimp only

theorem outerEval_keeps {z : State} {s : State} (hs : Keeps z s) (x : Nat) (subst : Bool) : Keeps z (State.outerEval s x subst).1 := by
  unfold State.outerEval
  repeat' first
    | with_reducible assumption
    | (unfold x; clear x)
    | with_reducible refine keeps_snd (by with_reducible assumption) ?_
    | with_reducible refine keeps_fst (by with_reducible assumption) ?_
    | with_reducible refine keeps_third (by with_reducible assumption) ?_
    | with_reducible refine keeps_mid (by with_reducible assumption) ?_
    | with_reducible refine keeps_fourth (by with_reducible assumption) ?_
    | (extract_lets -merge -useContext +onlyGivenNames x; first | (refine keeps_cut (s0 := z) x ?_ (fun hx => ?_); rotate_left; clear_value x) | (refine keeps_cut (s0 := z) x.1 ?_ (fun hx => ?_); rotate_left; clear_value x) | (refine keeps_cut (s0 := z) x.2 ?_ (fun hx => ?_); rotate_left; clear_value x) | clear_value x)
    | with_reducible apply genMark_keeps
    | with_reducible apply setpointStep_keeps
    | with_reducible apply holdMark_keeps
    | with_reducible apply ffFade_keeps
    | with_reducible apply axisTorque_keeps
    | with_reducible apply overspeed_keeps
    | with_reducible apply poolSplit_keeps
    | with_reducible apply setAxisX_keeps
    | with_reducible apply brakeSlip_keeps
    | with_reducible refine keeps_foldl ?_ (fun t b ht => ?_)
    | (with_reducible refine keeps_foldl_fst ?_ (fun t b ht => ?_); rotate_left; rcases t with ⟨t, r⟩; dsimp -zeta only at ht ⊢)
    | (with_reducible refine keeps_foldl_snd ?_ (fun t b ht => ?_); rotate_left; rcases t with ⟨r, t⟩; dsimp -zeta only at ht ⊢)
    | split
    | exact keeps_in (keeps_out hx)
    | exact keeps_in (keeps_out hs)
    | exact keeps_in (keeps_out hs0)
    | exact keeps_in (keeps_out ht)
    | (refine keeps_in ?_; dsimp only; exact keeps_out (by with_reducible assumption))
    | dsimp only

theorem commitAxis_keeps {z : State} {s : State} (hs : Keeps z s) (x : Nat) (out : List F32) : Keeps z (State.commitAxis s x out) := by
  unfold State.commitAxis
  repeat' first
    | with_reducible assumption
    | (unfold x; clear x)
    | with_reducible refine keeps_snd (by with_reducible assumption) ?_
    | with_reducible refine keeps_fst (by with_reducible assumption) ?_
    | (extract_lets -merge -useContext +onlyGivenNames x; first | (refine keeps_cut (s0 := z) x ?_ (fun hx => ?_); rotate_left; clear_value x) | (refine keeps_cut (s0 := z) x.1 ?_ (fun hx => ?_); rotate_left; clear_value x) | (refine keeps_cut (s0 := z) x.2 ?_ (fun hx => ?_); rotate_left; clear_value x) | clear_value x)
    | with_reducible apply putF_keeps
    | with_reducible apply setMachX_keeps
    | with_reducible refine keeps_foldl ?_ (fun t b ht => ?_)
    | split
    | exact keeps_in (keeps_out hx)
    | exact keeps_in (keeps_out hs)
    | exact keeps_in (keeps_out ht)
    | (refine keeps_in ?_; dsimp only; exact keeps_out (by with_reducible assumption))
    | dsimp only

theorem resetOut_keeps {z : State} {s : State} (hs : Keeps z s) (k : Nat) : Keeps z (State.resetOut s k) := by
  unfold State.resetOut
  repeat' first
    | with_reducible assumption
    | (unfold x; clear x)
    | (extract_lets -merge -useContext +onlyGivenNames x; first | (refine keeps_cut (s0 := z) x ?_ (fun hx => ?_); rotate_left; clear_value x) | clear_value x)
    | split
    | exact keeps_in (keeps_out hx)
    | exact keeps_in (keeps_out hs)
    | (refine keeps_in ?_; dsimp only; exact keeps_out (by with_reducible assumption))
    | dsimp only

theorem machOff_keeps {z : State} {s : State} (hs : Keeps z s) (m : Nat) : Keeps z (State.machOff s m) := by
  unfold State.machOff
  repeat' first
    | with_reducible assumption
    | (unfold x; clear x)
    | with_reducible refine keeps_snd (by with_reducible assumption) ?_
    | with_reducible refine keeps_fst (by with_reducible assumption) ?_
    | with_reducible refine keeps_third (by with_reducible assumption) ?_
    | with_reducible refine keeps_mid (by with_reducible assumption) ?_
    | (extract_lets -merge -useContext +onlyGivenNames x; first | (refine keeps_cut (s0 := z) x ?_ (fun hx => ?_); rotate_left; clear_value x) | (refine keeps_cut (s0 := z) x.1 ?_ (fun hx => ?_); rotate_left; clear_value x) | (refine keeps_cut (s0 := z) x.2 ?_ (fun hx => ?_); rotate_left; clear_value x) | clear_value x)
    | with_reducible apply dispatch_keeps
    | with_reducible apply put_keeps
    | with_reducible apply setMachX_keeps
    | with_reducible apply resetOut_keeps
    | with_reducible apply putF_keeps
    | with_reducible apply convTo_keeps
    | with_reducible apply coefDue_keeps
    | split
    | exact keeps_in (keeps_out hx)
    | exact keeps_in (keeps_out hs)
    | (refine keeps_in ?_; dsimp only; exact keeps_out (by with_reducible assumption))
    | dsimp only

theorem machOn_keeps {z : State} {s : State} (hs : Keeps z s) (m : Nat) : Keeps z (State.machOn s m) := by
  unfold State.machOn
  repeat' first
    | with_reducible assumption
    | (unfold x; clear x)
    | (extract_lets -merge -useContext +onlyGivenNames x; first | (refine keeps_cut (s0 := z) x ?_ (fun hx => ?_); rotate_left; clear_value x) | clear_value x)
    | with_reducible apply machOnNote_keeps
    | with_reducible apply setMachX_keeps
    | with_reducible apply put_keeps
    | with_reducible apply putF_keeps
    | with_reducible apply setLoopX_keeps
    | with_reducible apply resetOut_keeps
    | split
    | exact keeps_in (keeps_out hx)
    | exact keeps_in (keeps_out hs)
    | (refine keeps_in ?_; dsimp only; exact keeps_out (by with_reducible assumption))
    | dsimp only

theorem machEnable_keeps {z : State} {s : State} (hs : Keeps z s) (m : Nat) (latched : Bool) : Keeps z (State.machEnable s m latched).2 := by
  unfold State.machEnable
  repeat' first
    | with_reducible assumption
    | (unfold x; clear x)
    | with_reducible refine keeps_snd (by with_reducible assumption) ?_
    | with_reducible refine keeps_fst (by with_reducible assumption) ?_
    | with_reducible refine keeps_third (by with_reducible assumption) ?_
    | with_reducible refine keeps_mid (by with_reducible assumption) ?_
    | (extract_lets -merge -useContext +onlyGivenNames x; first | (refine keeps_cut (s0 := z) x ?_ (fun hx => ?_); rotate_left; clear_value x) | (refine keeps_cut (s0 := z) x.1 ?_ (fun hx => ?_); rotate_left; clear_value x) | (refine keeps_cut (s0 := z) x.2 ?_ (fun hx => ?_); rotate_left; clear_value x) | clear_value x)
    | with_reducible apply setPart_keeps
    | with_reducible apply convTo_keeps
    | with_reducible apply machOn_keeps
    | split
    | exact keeps_in (keeps_out hx)
    | exact keeps_in (keeps_out hs)
    | (refine keeps_in ?_; dsimp only; exact keeps_out (by with_reducible assumption))
    | dsimp only

theorem machDisable_keeps {z : State} {s : State} (hs : Keeps z s) (m : Nat) : Keeps z (State.machDisable s m).2 := by
  unfold State.machDisable
  repeat' first
    | with_reducible assumption
    | (unfold x; clear x)
    | with_reducible refine keeps_snd (by with_reducible assumption) ?_
    | with_reducible refine keeps_fst (by with_reducible assumption) ?_
    | (extract_lets -merge -useContext +onlyGivenNames x; first | (refine keeps_cut (s0 := z) x ?_ (fun hx => ?_); rotate_left; clear_value x) | (refine keeps_cut (s0 := z) x.1 ?_ (fun hx => ?_); rotate_left; clear_value x) | (refine keeps_cut (s0 := z) x.2 ?_ (fun hx => ?_); rotate_left; clear_value x) | clear_value x)
    | with_reducible apply partDisable_keeps
    | with_reducible apply setMachX_keeps
    | with_reducible apply machOff_keeps
    | split
    | exact keeps_in (keeps_out hx)
    | exact keeps_in (keeps_out hs)
    | (refine keeps_in ?_; dsimp only; exact keeps_out (by with_reducible assumption))
    | dsimp only

theorem memberDisable_keeps {z : State} {s : State} (hs : Keeps z s) (m : Nat) : Keeps z (State.memberDisable s m) := by
  unfold State.memberDisable
  repeat' first
    | with_reducible assumption
    | (unfold x; clear x)
    | (extract_lets -merge -useContext +onlyGivenNames x; first | (refine keeps_cut (s0 := z) x ?_ (fun hx => ?_); rotate_left; clear_value x) | clear_value x)
    | with_reducible apply partDisable_keeps
    | with_reducible apply machOff_keeps
    | split
    | exact keeps_in (keeps_out hx)
    | exact keeps_in (keeps_out hs)
    | (refine keeps_in ?_; dsimp only; exact keeps_out (by with_reducible assumption))
    | dsimp only

theorem machClear_keeps {z : State} {s : State} (hs : Keeps z s) (m : Nat) : Keeps z (State.machClear s m).2 := by
  unfold State.machClear
  repeat' first
    | with_reducible assumption
    | (unfold x; clear x)
    | with_reducible refine keeps_snd (by with_reducible assumption) ?_
    | with_reducible refine keeps_fst (by with_reducible assumption) ?_
    | with_reducible refine keeps_third (by with_reducible assumption) ?_
    | with_reducible refine keeps_mid (by with_reducible assumption) ?_
    | (extract_lets -merge -useContext +onlyGivenNames x; first | (refine keeps_cut (s0 := z) x ?_ (fun hx => ?_); rotate_left; clear_value x) | (refine keeps_cut (s0 := z) x.1 ?_ (fun hx => ?_); rotate_left; clear_value x) | (refine keeps_cut (s0 := z) x.2 ?_ (fun hx => ?_); rotate_left; clear_value x) | clear_value x)
    | with_reducible apply clearFault_keeps
    | with_reducible apply setTaskSt_keeps
    | with_reducible apply setMachX_keeps
    | with_reducible apply leavePolicy_keeps
    | split
    | exact keeps_in (keeps_out hx)
    | exact keeps_in (keeps_out hs)
    | (refine keeps_in ?_; dsimp only; exact keeps_out (by with_reducible assumption))
    | dsimp only

theorem machFalls_keeps {z : State} {s : State} (hs : Keeps z s) (m : Nat) : Keeps z (State.machFalls s m) := by
  unfold State.machFalls
  repeat' first
    | with_reducible assumption
    | (unfold x; clear x)
    | (extract_lets -merge -useContext +onlyGivenNames x; first | (refine keeps_cut (s0 := z) x ?_ (fun hx => ?_); rotate_left; clear_value x) | (refine keeps_cut (s0 := z) x.1 ?_ (fun hx => ?_); rotate_left; clear_value x) | (refine keeps_cut (s0 := z) x.2 ?_ (fun hx => ?_); rotate_left; clear_value x) | (refine keeps_cut (s0 := z) x.2.2 ?_ (fun hx => ?_); rotate_left; clear_value x) | clear_value x)
    | with_reducible apply machFault_keeps
    | with_reducible apply noteFault_keeps
    | with_reducible apply partDisable_keeps
    | with_reducible apply axisAllFaulted_keeps
    | split
    | exact keeps_in (keeps_out hx)
    | exact keeps_in (keeps_out hs)
    | (refine keeps_in ?_; dsimp only; exact keeps_out (by with_reducible assumption))
    | dsimp only

theorem machWatch_keeps {z : State} {s : State} (hs : Keeps z s) : Keeps z (State.machWatch s) := by
  unfold State.machWatch
  repeat' first
    | with_reducible assumption
    | (unfold x; clear x)
    | (extract_lets -merge -useContext +onlyGivenNames x; first | (refine keeps_cut (s0 := z) x ?_ (fun hx => ?_); rotate_left; clear_value x) | clear_value x)
    | with_reducible apply axisAllFaulted_keeps
    | with_reducible apply partDisable_keeps
    | with_reducible apply noteFault_keeps
    | with_reducible apply machFault_keeps
    | with_reducible refine keeps_foldl ?_ (fun t b ht => ?_)
    | with_reducible apply machFalls_keeps
    | with_reducible refine keeps_foldl_fst ?_ (fun t b ht => ?_)
    | with_reducible refine keeps_foldl_snd ?_ (fun t b ht => ?_)
    | split
    | exact keeps_in (keeps_out hx)
    | exact keeps_in (keeps_out hs)
    | exact keeps_in (keeps_out ht)
    | (refine keeps_in ?_; dsimp only; exact keeps_out (by with_reducible assumption))
    | dsimp only

theorem stageWatch_keeps {z : State} {s : State} (hs : Keeps z s) (half : Bool) : Keeps z (State.stageWatch s half) := by
  unfold State.stageWatch
  repeat' first
    | with_reducible assumption
    | (unfold x; clear x)
    | with_reducible refine keeps_snd (by with_reducible assumption) ?_
    | with_reducible refine keeps_fst (by with_reducible assumption) ?_
    | with_reducible refine keeps_third (by with_reducible assumption) ?_
    | with_reducible refine keeps_mid (by with_reducible assumption) ?_
    | (extract_lets -merge -useContext +onlyGivenNames x; first | (refine keeps_cut (s0 := z) x ?_ (fun hx => ?_); rotate_left; clear_value x) | (refine keeps_cut (s0 := z) x.1 ?_ (fun hx => ?_); rotate_left; clear_value x) | (refine keeps_cut (s0 := z) x.2 ?_ (fun hx => ?_); rotate_left; clear_value x) | (refine keeps_cut (s0 := z) x.2.2 ?_ (fun hx => ?_); rotate_left; clear_value x) | clear_value x)
    | with_reducible apply machFalls_keeps
    | with_reducible refine keeps_foldl ?_ (fun t b ht => ?_)
    | with_reducible refine keeps_foldl_fst ?_ (fun t b ht => ?_)
    | with_reducible refine keeps_foldl_snd ?_ (fun t b ht => ?_)
    | split
    | exact keeps_in (keeps_out hx)
    | exact keeps_in (keeps_out hs)
    | exact keeps_in (keeps_out ht)
    | (refine keeps_in ?_; dsimp only; exact keeps_out (by with_reducible assumption))
    | dsimp only

theorem axisEnable_keeps {z : State} {s : State} (hs : Keeps z s) (x : Nat) (latched : Bool) : Keeps z (State.axisEnable s x latched).2 := by
  unfold State.axisEnable
  repeat' first
    | with_reducible assumption
    | (unfold x; clear x)
    | with_reducible refine keeps_snd (by with_reducible assumption) ?_
    | with_reducible refine keeps_fst (by with_reducible assumption) ?_
    | with_reducible refine keeps_third (by with_reducible assumption) ?_
    | with_reducible refine keeps_mid (by with_reducible assumption) ?_
    | (extract_lets -merge -useContext +onlyGivenNames x; first | (refine keeps_cut (s0 := z) x ?_ (fun hx => ?_); rotate_left; clear_value x) | (refine keeps_cut (s0 := z) x.1 ?_ (fun hx => ?_); rotate_left; clear_value x) | (refine keeps_cut (s0 := z) x.2 ?_ (fun hx => ?_); rotate_left; clear_value x) | clear_value x)
    | with_reducible apply dispatch_keeps
    | with_reducible apply put_keeps
    | with_reducible apply axisMeasure_keeps
    | with_reducible apply putF_keeps
    | with_reducible apply setLoopX_keeps
    | with_reducible apply setAxisX_keeps
    | with_reducible apply resetOut_keeps
    | with_reducible apply genReport_keeps
    | with_reducible apply motionEnable_keeps
    | with_reducible apply setMachX_keeps
    | with_reducible apply brkReq_keeps
    | with_reducible refine keeps_foldl ?_ (fun t b ht => ?_)
    | (with_reducible refine keeps_foldl_fst ?_ (fun t b ht => ?_); rotate_left; rcases t with ⟨t, r⟩; dsimp -zeta only at ht ⊢)
    | (with_reducible refine keeps_foldl_snd ?_ (fun t b ht => ?_); rotate_left; rcases t with ⟨r, t⟩; dsimp -zeta only at ht ⊢)
    | with_reducible refine keeps_foldl_fst ?_ (fun t b ht => ?_)
    | with_reducible refine keeps_foldl_snd ?_ (fun t b ht => ?_)
    | split
    | exact keeps_in (keeps_out hx)
    | exact keeps_in (keeps_out hs)
    | exact keeps_in (keeps_out ht)
    | (refine keeps_in ?_; dsimp only; exact keeps_out (by with_reducible assumption))
    | dsimp only

theorem axisDisable_keeps {z : State} {s : State} (hs : Keeps z s) (x : Nat) : Keeps z (State.axisDisable s x).2 := by
  unfold State.axisDisable
  repeat' first
    | with_reducible assumption
    | (unfold x; clear x)
    | with_reducible refine keeps_snd (by with_reducible assumption) ?_
    | with_reducible refine keeps_fst (by with_reducible assumption) ?_
    | (extract_lets -merge -useContext +onlyGivenNames x; first | (refine keeps_cut (s0 := z) x ?_ (fun hx => ?_); rotate_left; clear_value x) | (refine keeps_cut (s0 := z) x.1 ?_ (fun hx => ?_); rotate_left; clear_value x) | (refine keeps_cut (s0 := z) x.2 ?_ (fun hx => ?_); rotate_left; clear_value x) | clear_value x)
    | with_reducible apply setAxisX_keeps
    | split
    | exact keeps_in (keeps_out hx)
    | exact keeps_in (keeps_out hs)
    | (refine keeps_in ?_; dsimp only; exact keeps_out (by with_reducible assumption))
    | dsimp only

theorem axisOff_keeps {z : State} {s : State} (hs : Keeps z s) (x : Nat) : Keeps z (State.axisOff s x) := by
  unfold State.axisOff
  repeat' first
    | with_reducible assumption
    | (unfold x; clear x)
    | (extract_lets -merge -useContext +onlyGivenNames x; first | (refine keeps_cut (s0 := z) x ?_ (fun hx => ?_); rotate_left; clear_value x) | clear_value x)
    | with_reducible apply giveEnd_keeps
    | with_reducible apply dispatch_keeps
    | with_reducible apply put_keeps
    | with_reducible apply setAxisX_keeps
    | with_reducible apply resetOut_keeps
    | with_reducible apply putF_keeps
    | with_reducible apply setMachX_keeps
    | with_reducible refine keeps_foldl ?_ (fun t b ht => ?_)
    | with_reducible apply coefDue_keeps
    | with_reducible refine keeps_foldl_fst ?_ (fun t b ht => ?_)
    | with_reducible refine keeps_foldl_snd ?_ (fun t b ht => ?_)
    | split
    | exact keeps_in (keeps_out hx)
    | exact keeps_in (keeps_out hs)
    | exact keeps_in (keeps_out ht)
    | (refine keeps_in ?_; dsimp only; exact keeps_out (by with_reducible assumption))
    | dsimp only

theorem axisOffMark_keeps {z : State} {s : State} (hs : Keeps z s) (x : Nat) : Keeps z (State.axisOffMark s x) := by
  unfold State.axisOffMark
  repeat' first
    | with_reducible assumption
    | (unfold x; clear x)
    | (extract_lets -merge -useContext +onlyGivenNames x; first | (refine keeps_cut (s0 := z) x ?_ (fun hx => ?_); rotate_left; clear_value x) | clear_value x)
    | with_reducible apply brkReq_keeps
    | with_reducible apply motionDisable_keeps
    | with_reducible apply axisOff_keeps
    | split
    | exact keeps_in (keeps_out hx)
    | exact keeps_in (keeps_out hs)
    | (refine keeps_in ?_; dsimp only; exact keeps_out (by with_reducible assumption))
    | dsimp only

end Sys2Proof.Laws
end

