-- ==== Sys2Proof/Laws/Stops.lean ====
section
/-! SUPPORT. What the operations of `Machine/Stops.lean` keep. -/
namespace Sys2Proof.Laws
open Machine Safety

theorem setAxStop_keeps {z : State} {s : State} (hs : Keeps z s) (x : Nat) (q : AxStop) : Keeps z (State.setAxStop s x q) := by
  unfold State.setAxStop
  repeat' first
    | with_reducible assumption
    | (unfold x; clear x)
    | with_reducible refine keeps_snd (by with_reducible assumption) ?_
    | with_reducible refine keeps_fst (by with_reducible assumption) ?_
    | (extract_lets -merge -useContext +onlyGivenNames x; first | (refine keeps_cut (s0 := z) x ?_ (fun hx => ?_); rotate_left; clear_value x) | (refine keeps_cut (s0 := z) x.1 ?_ (fun hx => ?_); rotate_left; clear_value x) | (refine keeps_cut (s0 := z) x.2 ?_ (fun hx => ?_); rotate_left; clear_value x) | clear_value x)
    | split
    | exact keeps_in (keeps_out hx)
    | exact keeps_in (keeps_out hs)
    | (refine keeps_in ?_; dsimp only; exact keeps_out (by with_reducible assumption))
    | dsimp only

theorem setSto_keeps {z : State} {s : State} (hs : Keeps z s) {f : Sto → Sto}
    (hf : ∀ q, stoOk q.a q.b q.act q.disc → stoOk (f q).a (f q).b (f q).act (f q).disc) : Keeps z (State.setSto s f) :=
  keeps_sto hs (hf _ (keeps_out hs).sto)

theorem setStoMap_keeps {z : State} {s : State} (hs : Keeps z s) (x : Nat) (v : Nat) : Keeps z (State.setStoMap s x v) := by
  unfold State.setStoMap
  repeat' first
    | with_reducible assumption
    | (unfold x; clear x)
    | (extract_lets -merge -useContext +onlyGivenNames x; first | (refine keeps_cut (s0 := z) x ?_ (fun hx => ?_); rotate_left; clear_value x) | have _ : Sto := x | clear_value x)
    | with_reducible refine setSto_keeps ?_ (fun _ hq => hq)
    | split
    | exact keeps_in (keeps_out hx)
    | exact keeps_in (keeps_out hs)
    | (refine keeps_in ?_; dsimp only; exact keeps_out (by with_reducible assumption))
    | dsimp only

theorem stopRefresh_keeps {z : State} {s : State} (hs : Keeps z s) : Keeps z (State.stopRefresh s) := by
  unfold State.stopRefresh
  repeat' first
    | with_reducible assumption
    | (unfold x; clear x)
    | (extract_lets -merge -useContext +onlyGivenNames x; first | (refine keeps_cut (s0 := z) x ?_ (fun hx => ?_); rotate_left; clear_value x) | clear_value x)
    | with_reducible apply put_keeps
    | with_reducible refine keeps_foldl ?_ (fun t b ht => ?_)
    | split
    | exact keeps_in (keeps_out hx)
    | exact keeps_in (keeps_out hs)
    | exact keeps_in (keeps_out ht)
    | (refine keeps_in ?_; dsimp only; exact keeps_out (by with_reducible assumption))
    | dsimp only

theorem brakeApply_keeps {z : State} {s : State} (hs : Keeps z s) (x : Nat) : Keeps z (State.brakeApply s x) := by
  unfold State.brakeApply
  repeat' first
    | with_reducible assumption
    | (unfold x; clear x)
    | (extract_lets -merge -useContext +onlyGivenNames x; first | (refine keeps_cut (s0 := z) x ?_ (fun hx => ?_); rotate_left; clear_value x) | clear_value x)
    | with_reducible apply dioDrive_keeps
    | split
    | exact keeps_in (keeps_out hx)
    | exact keeps_in (keeps_out hs)
    | (refine keeps_in ?_; dsimp only; exact keeps_out (by with_reducible assumption))
    | dsimp only

theorem setRelHold_keeps {z : State} {s : State} (hs : Keeps z s) (x : Nat) (v : Bool) : Keeps z (State.setRelHold s x v) := by
  unfold State.setRelHold
  repeat' first
    | with_reducible assumption
    | (unfold x; clear x)
    | (extract_lets -merge -useContext +onlyGivenNames x; first | (refine keeps_cut (s0 := z) x ?_ (fun hx => ?_); rotate_left; clear_value x) | clear_value x)
    | with_reducible apply setStoMap_keeps
    | split
    | exact keeps_in (keeps_out hx)
    | exact keeps_in (keeps_out hs)
    | (refine keeps_in ?_; dsimp only; exact keeps_out (by with_reducible assumption))
    | dsimp only

theorem stopCause_keeps {z : State} {s : State} (hs : Keeps z s) (x : Nat) (cat : Nat) (src : Nat) : Keeps z (State.stopCause s x cat src) := by
  unfold State.stopCause
  repeat' first
    | with_reducible assumption
    | (unfold x; clear x)
    | (extract_lets -merge -useContext +onlyGivenNames x; first | (refine keeps_cut (s0 := z) x ?_ (fun hx => ?_); rotate_left; clear_value x) | clear_value x)
    | with_reducible apply put_keeps
    | split
    | exact keeps_in (keeps_out hx)
    | exact keeps_in (keeps_out hs)
    | (refine keeps_in ?_; dsimp only; exact keeps_out (by with_reducible assumption))
    | dsimp only

theorem stopBegin_keeps {z : State} {s : State} (hs : Keeps z s) (x : Nat) : Keeps z (State.stopBegin s x) := by
  unfold State.stopBegin
  repeat' first
    | with_reducible assumption
    | (unfold x; clear x)
    | (extract_lets -merge -useContext +onlyGivenNames x; first | (refine keeps_cut (s0 := z) x ?_ (fun hx => ?_); rotate_left; clear_value x) | clear_value x)
    | with_reducible apply tuneStop_keeps
    | with_reducible apply preloadOut_keeps
    | with_reducible apply hushDropAxis_keeps
    | with_reducible apply freezeEnd_keeps
    | with_reducible apply giveEnd_keeps
    | with_reducible apply motionStop_keeps
    | split
    | exact keeps_in (keeps_out hx)
    | exact keeps_in (keeps_out hs)
    | (refine keeps_in ?_; dsimp only; exact keeps_out (by with_reducible assumption))
    | dsimp only

theorem axisDone_keeps {z : State} {s : State} (hs : Keeps z s) (x : Nat) : Keeps z (State.axisDone s x) := by
  unfold State.axisDone
  repeat' first
    | with_reducible assumption
    | (unfold x; clear x)
    | (extract_lets -merge -useContext +onlyGivenNames x; first | (refine keeps_cut (s0 := z) x ?_ (fun hx => ?_); rotate_left; clear_value x) | clear_value x)
    | with_reducible apply put_keeps
    | split
    | exact keeps_in (keeps_out hx)
    | exact keeps_in (keeps_out hs)
    | (refine keeps_in ?_; dsimp only; exact keeps_out (by with_reducible assumption))
    | dsimp only

theorem releaseNote_keeps {z : State} {s : State} (hs : Keeps z s) (x : Nat) (mode : Nat) : Keeps z (State.releaseNote s x mode) := by
  unfold State.releaseNote
  repeat' first
    | with_reducible assumption
    | (unfold x; clear x)
    | (extract_lets -merge -useContext +onlyGivenNames x; first | (refine keeps_cut (s0 := z) x ?_ (fun hx => ?_); rotate_left; clear_value x) | clear_value x)
    | with_reducible apply alarm_keeps
    | split
    | exact keeps_in (keeps_out hx)
    | exact keeps_in (keeps_out hs)
    | (refine keeps_in ?_; dsimp only; exact keeps_out (by with_reducible assumption))
    | dsimp only

theorem powerParts_keeps {z : State} {s : State} (hs : Keeps z s) (x : Nat) : Keeps z (State.powerParts s x) := by
  unfold State.powerParts
  repeat' first
    | with_reducible assumption
    | (unfold x; clear x)
    | (extract_lets -merge -useContext +onlyGivenNames x; first | (refine keeps_cut (s0 := z) x ?_ (fun hx => ?_); rotate_left; clear_value x) | (refine keeps_cut (s0 := z) x.1 ?_ (fun hx => ?_); rotate_left; clear_value x) | (refine keeps_cut (s0 := z) x.2 ?_ (fun hx => ?_); rotate_left; clear_value x) | (refine keeps_cut (s0 := z) x.2.2 ?_ (fun hx => ?_); rotate_left; clear_value x) | clear_value x)
    | with_reducible apply machOff_keeps
    | with_reducible apply partDisable_keeps
    | with_reducible apply stageStop_keeps
    | with_reducible apply convStop_keeps
    | with_reducible refine keeps_foldl ?_ (fun t b ht => ?_)
    | with_reducible refine keeps_foldl_fst ?_ (fun t b ht => ?_)
    | with_reducible refine keeps_foldl_snd ?_ (fun t b ht => ?_)
    | split
    | exact keeps_in (keeps_out hx)
    | exact keeps_in (keeps_out hs)
    | exact keeps_in (keeps_out ht)
    | (refine keeps_in ?_; dsimp only; exact keeps_out (by with_reducible assumption))
    | dsimp only

theorem powerOff_keeps {z : State} {s : State} (hs : Keeps z s) (x : Nat) : Keeps z (State.powerOff s x) := by
  unfold State.powerOff
  repeat' first
    | with_reducible assumption
    | (unfold x; clear x)
    | with_reducible refine keeps_snd (by with_reducible assumption) ?_
    | with_reducible refine keeps_fst (by with_reducible assumption) ?_
    | (extract_lets -merge -useContext +onlyGivenNames x; first | (refine keeps_cut (s0 := z) x ?_ (fun hx => ?_); rotate_left; clear_value x) | (refine keeps_cut (s0 := z) x.1 ?_ (fun hx => ?_); rotate_left; clear_value x) | (refine keeps_cut (s0 := z) x.2 ?_ (fun hx => ?_); rotate_left; clear_value x) | clear_value x)
    | with_reducible apply axisOff_keeps
    | with_reducible apply partDisable_keeps
    | with_reducible apply machOff_keeps
    | with_reducible apply stageStop_keeps
    | with_reducible apply convStop_keeps
    | with_reducible apply setAxStop_keeps
    | with_reducible apply alarm_keeps
    | with_reducible apply put_keeps
    | with_reducible apply axisDone_keeps
    | with_reducible apply brakeApply_keeps
    | with_reducible apply brkReq_keeps
    | with_reducible apply setRelHold_keeps
    | with_reducible refine keeps_foldl ?_ (fun t b ht => ?_)
    | with_reducible apply powerParts_keeps
    | split
    | exact keeps_in (keeps_out hx)
    | exact keeps_in (keeps_out hs)
    | exact keeps_in (keeps_out ht)
    | (refine keeps_in ?_; dsimp only; exact keeps_out (by with_reducible assumption))
    | dsimp only

theorem stopAxis_keeps {z : State} {s : State} (hs : Keeps z s) (x : Nat) (cat : Nat) (src : Nat) (hold : Bool) : Keeps z (State.stopAxis s x cat src hold) := by
  unfold State.stopAxis
  repeat' first
    | with_reducible assumption
    | (unfold x; clear x)
    | with_reducible refine keeps_snd (by with_reducible assumption) ?_
    | with_reducible refine keeps_fst (by with_reducible assumption) ?_
    | with_reducible refine keeps_third (by with_reducible assumption) ?_
    | with_reducible refine keeps_mid (by with_reducible assumption) ?_
    | (extract_lets -merge -useContext +onlyGivenNames x; first | (refine keeps_cut (s0 := z) x ?_ (fun hx => ?_); rotate_left; clear_value x) | (refine keeps_cut (s0 := z) x.1 ?_ (fun hx => ?_); rotate_left; clear_value x) | (refine keeps_cut (s0 := z) x.2 ?_ (fun hx => ?_); rotate_left; clear_value x) | clear_value x)
    | with_reducible apply put_keeps
    | with_reducible apply stopCause_keeps
    | with_reducible apply powerOff_keeps
    | with_reducible apply stopBegin_keeps
    | with_reducible apply brkReq_keeps
    | with_reducible apply setAxStop_keeps
    | with_reducible apply powerParts_keeps
    | split
    | exact keeps_in (keeps_out hx)
    | exact keeps_in (keeps_out hs)
    | (refine keeps_in ?_; dsimp only; exact keeps_out (by with_reducible assumption))
    | dsimp only

theorem stopAxes_keeps {z : State} {s : State} (hs : Keeps z s) (mask : Nat) (cat : Nat) (src : Nat) (hold : Bool) : Keeps z (State.stopAxes s mask cat src hold) := by
  unfold State.stopAxes
  repeat' first
    | with_reducible assumption
    | (unfold x; clear x)
    | (extract_lets -merge -useContext +onlyGivenNames x; first | (refine keeps_cut (s0 := z) x ?_ (fun hx => ?_); rotate_left; clear_value x) | clear_value x)
    | with_reducible apply stopJoin_keeps
    | with_reducible apply stopRefresh_keeps
    | with_reducible apply stopAxis_keeps
    | with_reducible refine keeps_foldl ?_ (fun t b ht => ?_)
    | split
    | exact keeps_in (keeps_out hx)
    | exact keeps_in (keeps_out hs)
    | exact keeps_in (keeps_out ht)
    | (refine keeps_in ?_; dsimp only; exact keeps_out (by with_reducible assumption))
    | dsimp only

theorem mapStop_keeps {z : State} {s : State} (hs : Keeps z s) (x : Nat) : Keeps z (State.mapStop s x) := by
  unfold State.mapStop
  repeat' first
    | with_reducible assumption
    | (unfold x; clear x)
    | (extract_lets -merge -useContext +onlyGivenNames x; first | (refine keeps_cut (s0 := z) x ?_ (fun hx => ?_); rotate_left; clear_value x) | clear_value x)
    | with_reducible apply stageStop_keeps
    | with_reducible apply convStop_keeps
    | with_reducible apply brakeApply_keeps
    | with_reducible refine keeps_foldl ?_ (fun t b ht => ?_)
    | split
    | exact keeps_in (keeps_out hx)
    | exact keeps_in (keeps_out hs)
    | exact keeps_in (keeps_out ht)
    | (refine keeps_in ?_; dsimp only; exact keeps_out (by with_reducible assumption))
    | dsimp only

theorem xlnkStop_keeps {z : State} {s : State} (hs : Keeps z s) : Keeps z (State.xlnkStop s) := by
  unfold State.xlnkStop
  repeat' first
    | with_reducible assumption
    | (unfold x; clear x)
    | (extract_lets -merge -useContext +onlyGivenNames x; first | (refine keeps_cut (s0 := z) x ?_ (fun hx => ?_); rotate_left; clear_value x) | clear_value x)
    | with_reducible apply ringBlock_keeps
    | with_reducible apply convStop_keeps
    | with_reducible refine keeps_foldl ?_ (fun t b ht => ?_)
    | split
    | exact keeps_in (keeps_out hx)
    | exact keeps_in (keeps_out hs)
    | exact keeps_in (keeps_out ht)
    | (refine keeps_in ?_; dsimp only; exact keeps_out (by with_reducible assumption))
    | dsimp only

theorem stopDevice_keeps {z : State} {s : State} (hs : Keeps z s) (cat : Nat) (src : Nat) : Keeps z (State.stopDevice s cat src) := by
  unfold State.stopDevice
  repeat' first
    | with_reducible assumption
    | (unfold x; clear x)
    | (extract_lets -merge -useContext +onlyGivenNames x; first | (refine keeps_cut (s0 := z) x ?_ (fun hx => ?_); rotate_left; clear_value x) | clear_value x)
    | with_reducible apply stopJoin_keeps
    | with_reducible apply xlnkStop_keeps
    | with_reducible apply stageStop_keeps
    | with_reducible apply convStop_keeps
    | with_reducible apply brakeApply_keeps
    | with_reducible apply stopAxis_keeps
    | with_reducible apply stopRefresh_keeps
    | with_reducible refine keeps_foldl ?_ (fun t b ht => ?_)
    | split
    | exact keeps_in (keeps_out hx)
    | exact keeps_in (keeps_out hs)
    | exact keeps_in (keeps_out ht)
    | (refine keeps_in ?_; dsimp only; exact keeps_out (by with_reducible assumption))
    | dsimp only

theorem runStopReqs_keeps {z : State} {s : State} (hs : Keeps z s) (obs : State → Nat → Bool) : Keeps z (State.runStopReqs s obs) := by
  unfold State.runStopReqs
  repeat' first
    | with_reducible assumption
    | (unfold x; clear x)
    | with_reducible refine keeps_snd (by with_reducible assumption) ?_
    | with_reducible refine keeps_fst (by with_reducible assumption) ?_
    | with_reducible refine keeps_third (by with_reducible assumption) ?_
    | with_reducible refine keeps_mid (by with_reducible assumption) ?_
    | (extract_lets -merge -useContext +onlyGivenNames x; first | (refine keeps_cut (s0 := z) x ?_ (fun hx => ?_); rotate_left; clear_value x) | (refine keeps_cut (s0 := z) x.1 ?_ (fun hx => ?_); rotate_left; clear_value x) | (refine keeps_cut (s0 := z) x.2 ?_ (fun hx => ?_); rotate_left; clear_value x) | clear_value x)
    | with_reducible apply stopAxes_keeps
    | with_reducible apply brkReq_keeps
    | with_reducible apply setAxisX_keeps
    | with_reducible apply alarm_keeps
    | with_reducible refine keeps_foldl ?_ (fun t b ht => ?_)
    | with_reducible apply giveEnd_keeps
    | with_reducible refine keeps_foldl_fst ?_ (fun t b ht => ?_)
    | with_reducible refine keeps_foldl_snd ?_ (fun t b ht => ?_)
    | split
    | exact keeps_in (keeps_out hx)
    | exact keeps_in (keeps_out hs)
    | exact keeps_in (keeps_out ht)
    | (refine keeps_in ?_; dsimp only; exact keeps_out (by with_reducible assumption))
    | dsimp only

theorem feedbackHoldEnd_keeps {z : State} {s : State} (hs : Keeps z s) (x : Nat) : Keeps z (State.feedbackHoldEnd s x) := by
  unfold State.feedbackHoldEnd
  repeat' first
    | with_reducible assumption
    | (unfold x; clear x)
    | (extract_lets -merge -useContext +onlyGivenNames x; first | (refine keeps_cut (s0 := z) x ?_ (fun hx => ?_); rotate_left; clear_value x) | clear_value x)
    | with_reducible apply stopAxes_keeps
    | with_reducible apply setAxisX_keeps
    | split
    | exact keeps_in (keeps_out hx)
    | exact keeps_in (keeps_out hs)
    | (refine keeps_in ?_; dsimp only; exact keeps_out (by with_reducible assumption))
    | dsimp only

theorem emodeAxis_keeps {z : State} {s : State} (hs : Keeps z s) (x : Nat) (mode : Nat) : Keeps z (State.emodeAxis s x mode) := by
  unfold State.emodeAxis
  repeat' first
    | with_reducible assumption
    | (unfold x; clear x)
    | with_reducible refine keeps_snd (by with_reducible assumption) ?_
    | with_reducible refine keeps_fst (by with_reducible assumption) ?_
    | (extract_lets -merge -useContext +onlyGivenNames x; first | (refine keeps_cut (s0 := z) x ?_ (fun hx => ?_); rotate_left; clear_value x) | (refine keeps_cut (s0 := z) x.1 ?_ (fun hx => ?_); rotate_left; clear_value x) | (refine keeps_cut (s0 := z) x.2 ?_ (fun hx => ?_); rotate_left; clear_value x) | clear_value x)
    | with_reducible apply stopAxes_keeps
    | with_reducible apply releaseNote_keeps
    | with_reducible apply setAxStop_keeps
    | with_reducible apply setRelHold_keeps
    | with_reducible apply brkReq_keeps
    | with_reducible apply giveEnd_keeps
    | with_reducible apply put_keeps
    | split
    | exact keeps_in (keeps_out hx)
    | exact keeps_in (keeps_out hs)
    | (refine keeps_in ?_; dsimp only; exact keeps_out (by with_reducible assumption))
    | dsimp only

theorem emodeAxes_keeps {z : State} {s : State} (hs : Keeps z s) (mask : Nat) (mode : Nat) : Keeps z (State.emodeAxes s mask mode) := by
  unfold State.emodeAxes
  repeat' first
    | with_reducible assumption
    | (unfold x; clear x)
    | (extract_lets -merge -useContext +onlyGivenNames x; first | (refine keeps_cut (s0 := z) x ?_ (fun hx => ?_); rotate_left; clear_value x) | clear_value x)
    | with_reducible apply emodeAxis_keeps
    | with_reducible refine keeps_foldl ?_ (fun t b ht => ?_)
    | split
    | exact keeps_in (keeps_out hx)
    | exact keeps_in (keeps_out hs)
    | exact keeps_in (keeps_out ht)
    | (refine keeps_in ?_; dsimp only; exact keeps_out (by with_reducible assumption))
    | dsimp only

theorem stopSource_keeps {z : State} {s : State} (hs : Keeps z s) (inst : Nat) (what : Nat) (device : Bool) (mask : Nat) : Keeps z (State.stopSource s inst what device mask) := by
  unfold State.stopSource
  repeat' first
    | with_reducible assumption
    | (unfold x; clear x)
    | (extract_lets -merge -useContext +onlyGivenNames x; first | (refine keeps_cut (s0 := z) x ?_ (fun hx => ?_); rotate_left; clear_value x) | clear_value x)
    | with_reducible apply raiseAll_keeps
    | with_reducible apply ledger_keeps
    | with_reducible apply ring7_keeps
    | split
    | exact keeps_in (keeps_out hx)
    | exact keeps_in (keeps_out hs)
    | (refine keeps_in ?_; dsimp only; exact keeps_out (by with_reducible assumption))
    | dsimp only

theorem srcRequest_keeps {z : State} {s : State} (hs : Keeps z s) (j : Nat) : Keeps z (State.srcRequest s j) := by
  unfold State.srcRequest
  repeat' first
    | with_reducible assumption
    | (unfold x; clear x)
    | (extract_lets -merge -useContext +onlyGivenNames x; first | (refine keeps_cut (s0 := z) x ?_ (fun hx => ?_); rotate_left; clear_value x) | clear_value x)
    | with_reducible apply put_keeps
    | with_reducible apply inc_keeps
    | with_reducible apply stopSource_keeps
    | with_reducible apply stopDevice_keeps
    | with_reducible apply mapStop_keeps
    | with_reducible apply stopAxes_keeps
    | with_reducible apply emodeAxes_keeps
    | with_reducible refine keeps_foldl ?_ (fun t b ht => ?_)
    | split
    | exact keeps_in (keeps_out hx)
    | exact keeps_in (keeps_out hs)
    | exact keeps_in (keeps_out ht)
    | (refine keeps_in ?_; dsimp only; exact keeps_out (by with_reducible assumption))
    | dsimp only

theorem estop_keeps {z : State} {s : State} (hs : Keeps z s) : Keeps z (State.estop s) := by
  unfold State.estop
  repeat' first
    | with_reducible assumption
    | (unfold x; clear x)
    | (extract_lets -merge -useContext +onlyGivenNames x; first | (refine keeps_cut (s0 := z) x ?_ (fun hx => ?_); rotate_left; clear_value x) | clear_value x)
    | with_reducible apply srcRequest_keeps
    | split
    | exact keeps_in (keeps_out hx)
    | exact keeps_in (keeps_out hs)
    | (refine keeps_in ?_; dsimp only; exact keeps_out (by with_reducible assumption))
    | dsimp only

theorem dioStopEdge_keeps {z : State} {s : State} {t : State} (hs : Keeps z s) (ht : Keeps z t) (n : Nat) : Keeps z (State.dioStopEdge s t n) := by
  unfold State.dioStopEdge
  repeat' first
    | with_reducible assumption
    | (unfold x; clear x)
    | (extract_lets -merge -useContext +onlyGivenNames x; first | (refine keeps_cut (s0 := z) x ?_ (fun hx => ?_); rotate_left; clear_value x) | clear_value x)
    | with_reducible apply srcRequest_keeps
    | split
    | exact keeps_in (keeps_out hx)
    | exact keeps_in (keeps_out hs)
    | exact keeps_in (keeps_out ht)
    | (refine keeps_in ?_; dsimp only; exact keeps_out (by with_reducible assumption))
    | dsimp only

theorem sourceClear_keeps {z : State} {s : State} (hs : Keeps z s) (j : Nat) : Keeps z (State.sourceClear s j).2 := by
  unfold State.sourceClear
  repeat' first
    | with_reducible assumption
    | (unfold x; clear x)
    | with_reducible refine keeps_snd (by with_reducible assumption) ?_
    | with_reducible refine keeps_fst (by with_reducible assumption) ?_
    | (extract_lets -merge -useContext +onlyGivenNames x; first | (refine keeps_cut (s0 := z) x ?_ (fun hx => ?_); rotate_left; clear_value x) | (refine keeps_cut (s0 := z) x.1 ?_ (fun hx => ?_); rotate_left; clear_value x) | (refine keeps_cut (s0 := z) x.2 ?_ (fun hx => ?_); rotate_left; clear_value x) | clear_value x)
    | with_reducible apply clearFault_keeps
    | with_reducible apply put_keeps
    | split
    | exact keeps_in (keeps_out hx)
    | exact keeps_in (keeps_out hs)
    | (refine keeps_in ?_; dsimp only; exact keeps_out (by with_reducible assumption))
    | dsimp only

theorem stopRequest_keeps {z : State} {s : State} (hs : Keeps z s) (x : Nat) (cat : Nat) : Keeps z (State.stopRequest s x cat).2 := by
  unfold State.stopRequest
  repeat' first
    | with_reducible assumption
    | (unfold x; clear x)
    | with_reducible refine keeps_snd (by with_reducible assumption) ?_
    | with_reducible refine keeps_fst (by with_reducible assumption) ?_
    | (extract_lets -merge -useContext +onlyGivenNames x; first | (refine keeps_cut (s0 := z) x ?_ (fun hx => ?_); rotate_left; clear_value x) | (refine keeps_cut (s0 := z) x.1 ?_ (fun hx => ?_); rotate_left; clear_value x) | (refine keeps_cut (s0 := z) x.2 ?_ (fun hx => ?_); rotate_left; clear_value x) | clear_value x)
    | with_reducible apply stopSource_keeps
    | with_reducible apply stopAxes_keeps
    | split
    | exact keeps_in (keeps_out hx)
    | exact keeps_in (keeps_out hs)
    | (refine keeps_in ?_; dsimp only; exact keeps_out (by with_reducible assumption))
    | dsimp only

theorem stopEreq_keeps {z : State} {s : State} (hs : Keeps z s) (x : Nat) (mode : Nat) : Keeps z (State.stopEreq s x mode).2 := by
  unfold State.stopEreq
  repeat' first
    | with_reducible assumption
    | (unfold x; clear x)
    | with_reducible refine keeps_snd (by with_reducible assumption) ?_
    | with_reducible refine keeps_fst (by with_reducible assumption) ?_
    | (extract_lets -merge -useContext +onlyGivenNames x; first | (refine keeps_cut (s0 := z) x ?_ (fun hx => ?_); rotate_left; clear_value x) | (refine keeps_cut (s0 := z) x.1 ?_ (fun hx => ?_); rotate_left; clear_value x) | (refine keeps_cut (s0 := z) x.2 ?_ (fun hx => ?_); rotate_left; clear_value x) | clear_value x)
    | with_reducible apply stopSource_keeps
    | with_reducible apply emodeAxis_keeps
    | split
    | exact keeps_in (keeps_out hx)
    | exact keeps_in (keeps_out hs)
    | (refine keeps_in ?_; dsimp only; exact keeps_out (by with_reducible assumption))
    | dsimp only

theorem ringStop_keeps {z : State} {s : State} (hs : Keeps z s) (mask : Nat) (cat : Nat) : Keeps z (State.ringStop s mask cat) := by
  unfold State.ringStop
  repeat' first
    | with_reducible assumption
    | (unfold x; clear x)
    | (extract_lets -merge -useContext +onlyGivenNames x; first | (refine keeps_cut (s0 := z) x ?_ (fun hx => ?_); rotate_left; clear_value x) | clear_value x)
    | with_reducible apply stopSource_keeps
    | with_reducible apply stopAxes_keeps
    | split
    | exact keeps_in (keeps_out hx)
    | exact keeps_in (keeps_out hs)
    | (refine keeps_in ?_; dsimp only; exact keeps_out (by with_reducible assumption))
    | dsimp only

theorem ringEmode_keeps {z : State} {s : State} (hs : Keeps z s) (mask : Nat) (mode : Nat) : Keeps z (State.ringEmode s mask mode) := by
  unfold State.ringEmode
  repeat' first
    | with_reducible assumption
    | (unfold x; clear x)
    | (extract_lets -merge -useContext +onlyGivenNames x; first | (refine keeps_cut (s0 := z) x ?_ (fun hx => ?_); rotate_left; clear_value x) | clear_value x)
    | with_reducible apply stopSource_keeps
    | with_reducible apply emodeAxes_keeps
    | split
    | exact keeps_in (keeps_out hx)
    | exact keeps_in (keeps_out hs)
    | (refine keeps_in ?_; dsimp only; exact keeps_out (by with_reducible assumption))
    | dsimp only

/-- The accepted levels act whatever the latch says before: STO follows its pins and its latch (R448, R450). -/
theorem stoLevels_follows {z s : State} (hs : ∀ q : Sto, stoOk q.a q.b q.act q.disc → Keeps z { s with sto := q }) (a b : Bool) :
    Keeps z (State.stoLevels s a b) := by
  unfold State.stoLevels
  extract_lets was act s1 s2 s3
  have h1 : Keeps z s1 := hs _ rfl
  clear_value s1
  have h2 : Keeps z s2 := keeps_ite (raise_keeps h1 _) h1
  have h3 : Keeps z s3 := keeps_foldl h2 fun t r ht => setLink_keeps ht _ _
  exact keeps_ite (stopDevice_keeps (alarm_keeps h3 _ _ _ _ _ _) _ _) h2

theorem stoLevels_keeps {z : State} {s : State} (hs : Keeps z s) (a : Bool) (b : Bool) : Keeps z (State.stoLevels s a b) :=
  stoLevels_follows (fun _ hq => keeps_sto hs hq) a b

theorem stoActive_keeps {z : State} {s : State} (hs : Keeps z s) (a : Bool) (b : Bool) : Keeps z (State.stoActive s a b) := by
  unfold State.stoActive
  repeat' first
    | with_reducible assumption
    | (unfold x; clear x)
    | (extract_lets -merge -useContext +onlyGivenNames x; first | (refine keeps_cut (s0 := z) x ?_ (fun hx => ?_); rotate_left; clear_value x) | clear_value x)
    | with_reducible apply stoLevels_keeps
    | split
    | exact keeps_in (keeps_out hx)
    | exact keeps_in (keeps_out hs)
    | (refine keeps_in ?_; dsimp only; exact keeps_out (by with_reducible assumption))
    | dsimp only

theorem stoRelease_keeps {z : State} {s : State} (hs : Keeps z s) : Keeps z (State.stoRelease s) := by
  unfold State.stoRelease
  repeat' first
    | with_reducible assumption
    | (unfold x; clear x)
    | (extract_lets -merge -useContext +onlyGivenNames x; first | (refine keeps_cut (s0 := z) x ?_ (fun hx => ?_); rotate_left; clear_value x) | clear_value x)
    | with_reducible apply stoLevels_keeps
    | split
    | exact keeps_in (keeps_out hx)
    | exact keeps_in (keeps_out hs)
    | (refine keeps_in ?_; dsimp only; exact keeps_out (by with_reducible assumption))
    | dsimp only

theorem stoDiscrepancy_keeps {z : State} {s : State} (hs : Keeps z s) : Keeps z (State.stoDiscrepancy s) := by
  unfold State.stoDiscrepancy
  split
  · exact hs
  · rename_i h
    have ho : stoOk s.sto.a s.sto.b s.sto.act true := by
      have hq := (keeps_out hs).sto
      unfold stoOk at hq ⊢
      cases ha : s.sto.a <;> cases hb : s.sto.b <;> simp_all
    exact stoLevels_keeps (alarm_keeps (keeps_sto hs (q := { s.sto with disc := true }) ho) _ _ _ _ _ _) _ _

theorem stoReadback_keeps {z : State} {s : State} (hs : Keeps z s) (k : Nat) : Keeps z (State.stoReadback s k) := by
  unfold State.stoReadback
  extract_lets w
  clear_value w
  refine keeps_ite hs ?_
  have h : Keeps z (s.setSto fun q => { q with rdbk := true, fb := false }) := setSto_keeps hs fun _ hq => hq
  generalize (s.setSto fun q => { q with rdbk := true, fb := false }) = t at h ⊢
  with_reducible exact alarm_keeps h _ _ _ _ _ _

theorem stofbRise_keeps {z : State} {s : State} (hs : Keeps z s) : Keeps z (State.stofbRise s) := by
  unfold State.stofbRise
  exact keeps_ite (setSto_keeps hs fun _ hq => hq) hs

theorem stoClear_keeps {z : State} {s : State} (hs : Keeps z s) : Keeps z (State.stoClear s).2 := by
  unfold State.stoClear
  split
  · exact clearFault_keeps (stoLevels_follows (s := s.setSto fun q => { q with disc := false, rdbk := false })
      (fun _ hq => keeps_sto hs hq) _ _) _ _
  · exact hs

theorem rewriteMaps_keeps {z : State} {s : State} (hs : Keeps z s) : Keeps z (State.rewriteMaps s) := by
  unfold State.rewriteMaps
  repeat' first
    | with_reducible assumption
    | (unfold x; clear x)
    | (extract_lets -merge -useContext +onlyGivenNames x; first | (refine keeps_cut (s0 := z) x ?_ (fun hx => ?_); rotate_left; clear_value x) | clear_value x)
    | with_reducible apply setStoMap_keeps
    | with_reducible refine keeps_foldl ?_ (fun t b ht => ?_)
    | split
    | exact keeps_in (keeps_out hx)
    | exact keeps_in (keeps_out hs)
    | exact keeps_in (keeps_out ht)
    | (refine keeps_in ?_; dsimp only; exact keeps_out (by with_reducible assumption))
    | dsimp only

theorem rampBegin_keeps {z : State} {s : State} (hs : Keeps z s) (x : Nat) : Keeps z (State.rampBegin s x) := by
  unfold State.rampBegin
  repeat' first
    | with_reducible assumption
    | (unfold x; clear x)
    | with_reducible refine keeps_snd (by with_reducible assumption) ?_
    | with_reducible refine keeps_fst (by with_reducible assumption) ?_
    | with_reducible refine keeps_third (by with_reducible assumption) ?_
    | with_reducible refine keeps_mid (by with_reducible assumption) ?_
    | (extract_lets -merge -useContext +onlyGivenNames x; first | (refine keeps_cut (s0 := z) x ?_ (fun hx => ?_); rotate_left; clear_value x) | (refine keeps_cut (s0 := z) x.1 ?_ (fun hx => ?_); rotate_left; clear_value x) | (refine keeps_cut (s0 := z) x.2 ?_ (fun hx => ?_); rotate_left; clear_value x) | clear_value x)
    | with_reducible apply setAxStop_keeps
    | with_reducible apply stopCause_keeps
    | with_reducible apply alarm_keeps
    | with_reducible apply powerOff_keeps
    | with_reducible apply stopBegin_keeps
    | with_reducible apply put_keeps
    | with_reducible apply brkReq_keeps
    | split
    | exact keeps_in (keeps_out hx)
    | exact keeps_in (keeps_out hs)
    | (refine keeps_in ?_; dsimp only; exact keeps_out (by with_reducible assumption))
    | dsimp only

theorem rampStep_keeps {z : State} {s : State} (hs : Keeps z s) (x : Nat) : Keeps z (State.rampStep s x) := by
  unfold State.rampStep
  repeat' first
    | with_reducible assumption
    | (unfold x; clear x)
    | (extract_lets -merge -useContext +onlyGivenNames x; first | (refine keeps_cut (s0 := z) x ?_ (fun hx => ?_); rotate_left; clear_value x) | clear_value x)
    | with_reducible apply setAxStop_keeps
    | with_reducible apply stopRefresh_keeps
    | with_reducible apply powerOff_keeps
    | with_reducible apply stopCause_keeps
    | with_reducible apply alarm_keeps
    | split
    | exact keeps_in (keeps_out hx)
    | exact keeps_in (keeps_out hs)
    | (refine keeps_in ?_; dsimp only; exact keeps_out (by with_reducible assumption))
    | dsimp only

theorem stopRest_keeps {z : State} {s : State} (hs : Keeps z s) (x : Nat) : Keeps z (State.stopRest s x) := by
  unfold State.stopRest
  repeat' first
    | with_reducible assumption
    | (unfold x; clear x)
    | (extract_lets -merge -useContext +onlyGivenNames x; first | (refine keeps_cut (s0 := z) x ?_ (fun hx => ?_); rotate_left; clear_value x) | clear_value x)
    | with_reducible apply setAxisX_keeps
    | with_reducible apply put_keeps
    | with_reducible apply brkReq_keeps
    | with_reducible apply putF_keeps
    | split
    | exact keeps_in (keeps_out hx)
    | exact keeps_in (keeps_out hs)
    | (refine keeps_in ?_; dsimp only; exact keeps_out (by with_reducible assumption))
    | dsimp only

theorem brakeSet_keeps {z : State} {s : State} (hs : Keeps z s) (x : Nat) (elapsed : Bool) : Keeps z (State.brakeSet s x elapsed) := by
  unfold State.brakeSet
  repeat' first
    | with_reducible assumption
    | (unfold x; clear x)
    | (extract_lets -merge -useContext +onlyGivenNames x; first | (refine keeps_cut (s0 := z) x ?_ (fun hx => ?_); rotate_left; clear_value x) | clear_value x)
    | with_reducible apply alarm_keeps
    | with_reducible apply dioDrive_keeps
    | with_reducible apply stopRefresh_keeps
    | with_reducible apply powerOff_keeps
    | split
    | exact keeps_in (keeps_out hx)
    | exact keeps_in (keeps_out hs)
    | (refine keeps_in ?_; dsimp only; exact keeps_out (by with_reducible assumption))
    | dsimp only

theorem stopTimeout_keeps {z : State} {s : State} (hs : Keeps z s) (x : Nat) : Keeps z (State.stopTimeout s x) := by
  unfold State.stopTimeout
  repeat' first
    | with_reducible assumption
    | (unfold x; clear x)
    | (extract_lets -merge -useContext +onlyGivenNames x; first | (refine keeps_cut (s0 := z) x ?_ (fun hx => ?_); rotate_left; clear_value x) | clear_value x)
    | with_reducible apply stopRefresh_keeps
    | with_reducible apply powerOff_keeps
    | with_reducible apply stopCause_keeps
    | with_reducible apply alarm_keeps
    | split
    | exact keeps_in (keeps_out hx)
    | exact keeps_in (keeps_out hs)
    | (refine keeps_in ?_; dsimp only; exact keeps_out (by with_reducible assumption))
    | dsimp only

theorem stopAck_keeps {z : State} {s : State} (hs : Keeps z s) (x : Nat) : Keeps z (State.stopAck s x).2 := by
  unfold State.stopAck
  repeat' first
    | with_reducible assumption
    | (unfold x; clear x)
    | with_reducible refine keeps_snd (by with_reducible assumption) ?_
    | with_reducible refine keeps_fst (by with_reducible assumption) ?_
    | (extract_lets -merge -useContext +onlyGivenNames x; first | (refine keeps_cut (s0 := z) x ?_ (fun hx => ?_); rotate_left; clear_value x) | (refine keeps_cut (s0 := z) x.1 ?_ (fun hx => ?_); rotate_left; clear_value x) | (refine keeps_cut (s0 := z) x.2 ?_ (fun hx => ?_); rotate_left; clear_value x) | clear_value x)
    | with_reducible apply put_keeps
    | with_reducible apply motionIdle_keeps
    | with_reducible apply setAxisX_keeps
    | with_reducible apply releaseNote_keeps
    | with_reducible apply setRelHold_keeps
    | with_reducible apply stopAxes_keeps
    | with_reducible apply brakeApply_keeps
    | with_reducible apply brkReq_keeps
    | split
    | exact keeps_in (keeps_out hx)
    | exact keeps_in (keeps_out hs)
    | (refine keeps_in ?_; dsimp only; exact keeps_out (by with_reducible assumption))
    | dsimp only

theorem ringsFollow_keeps {z : State} {s : State} (hs : Keeps z s) : Keeps z (State.ringsFollow s) := by
  unfold State.ringsFollow
  repeat' first
    | with_reducible assumption
    | (unfold x; clear x)
    | (extract_lets -merge -useContext +onlyGivenNames x; first | (refine keeps_cut (s0 := z) x ?_ (fun hx => ?_); rotate_left; clear_value x) | clear_value x)
    | with_reducible apply ringBlock_keeps
    | with_reducible refine keeps_foldl ?_ (fun t b ht => ?_)
    | split
    | exact keeps_in (keeps_out hx)
    | exact keeps_in (keeps_out hs)
    | exact keeps_in (keeps_out ht)
    | (refine keeps_in ?_; dsimp only; exact keeps_out (by with_reducible assumption))
    | dsimp only

theorem stopComplete_keeps {z : State} {s : State} (hs : Keeps z s) : Keeps z (State.stopComplete s) := by
  unfold State.stopComplete
  repeat' first
    | with_reducible assumption
    | (unfold x; clear x)
    | (extract_lets -merge -useContext +onlyGivenNames x; first | (refine keeps_cut (s0 := z) x ?_ (fun hx => ?_); rotate_left; clear_value x) | clear_value x)
    | with_reducible apply ringsFollow_keeps
    | with_reducible apply axisDone_keeps
    | with_reducible apply incWrap_keeps
    | with_reducible apply raise_keeps
    | with_reducible apply ledger_keeps
    | with_reducible apply motionIdle_keeps
    | with_reducible apply stopRefresh_keeps
    | with_reducible refine keeps_foldl ?_ (fun t b ht => ?_)
    | with_reducible apply leavePolicy_keeps
    | with_reducible refine keeps_foldl_fst ?_ (fun t b ht => ?_)
    | with_reducible refine keeps_foldl_snd ?_ (fun t b ht => ?_)
    | split
    | exact keeps_in (keeps_out hx)
    | exact keeps_in (keeps_out hs)
    | exact keeps_in (keeps_out ht)
    | (refine keeps_in ?_; dsimp only; exact keeps_out (by with_reducible assumption))
    | dsimp only

theorem supholdEnd_keeps {z : State} {s : State} (hs : Keeps z s) : Keeps z (State.supholdEnd s) := by
  unfold State.supholdEnd
  repeat' first
    | with_reducible assumption
    | (unfold x; clear x)
    | (extract_lets -merge -useContext +onlyGivenNames x; first | (refine keeps_cut (s0 := z) x ?_ (fun hx => ?_); rotate_left; clear_value x) | clear_value x)
    | split
    | exact keeps_in (keeps_out hx)
    | exact keeps_in (keeps_out hs)
    | (refine keeps_in ?_; dsimp only; exact keeps_out (by with_reducible assumption))
    | dsimp only

theorem rideMark_keeps {z : State} {s : State} (hs : Keeps z s) (x : Nat) : Keeps z (State.rideMark s x) := by
  unfold State.rideMark
  repeat' first
    | with_reducible assumption
    | (unfold x; clear x)
    | with_reducible refine keeps_snd (by with_reducible assumption) ?_
    | with_reducible refine keeps_fst (by with_reducible assumption) ?_
    | with_reducible refine keeps_third (by with_reducible assumption) ?_
    | with_reducible refine keeps_mid (by with_reducible assumption) ?_
    | (extract_lets -merge -useContext +onlyGivenNames x; first | (refine keeps_cut (s0 := z) x ?_ (fun hx => ?_); rotate_left; clear_value x) | (refine keeps_cut (s0 := z) x.1 ?_ (fun hx => ?_); rotate_left; clear_value x) | (refine keeps_cut (s0 := z) x.2 ?_ (fun hx => ?_); rotate_left; clear_value x) | clear_value x)
    | with_reducible apply stopAxes_keeps
    | with_reducible apply put_keeps
    | with_reducible apply alarm_keeps
    | with_reducible apply setAxStop_keeps
    | split
    | exact keeps_in (keeps_out hx)
    | exact keeps_in (keeps_out hs)
    | (refine keeps_in ?_; dsimp only; exact keeps_out (by with_reducible assumption))
    | dsimp only

theorem rideEnd_keeps {z : State} {s : State} (hs : Keeps z s) (x : Nat) : Keeps z (State.rideEnd s x) := by
  unfold State.rideEnd
  repeat' first
    | with_reducible assumption
    | (unfold x; clear x)
    | with_reducible refine keeps_snd (by with_reducible assumption) ?_
    | with_reducible refine keeps_fst (by with_reducible assumption) ?_
    | with_reducible refine keeps_third (by with_reducible assumption) ?_
    | with_reducible refine keeps_mid (by with_reducible assumption) ?_
    | (extract_lets -merge -useContext +onlyGivenNames x; first | (refine keeps_cut (s0 := z) x ?_ (fun hx => ?_); rotate_left; clear_value x) | (refine keeps_cut (s0 := z) x.1 ?_ (fun hx => ?_); rotate_left; clear_value x) | (refine keeps_cut (s0 := z) x.2 ?_ (fun hx => ?_); rotate_left; clear_value x) | clear_value x)
    | with_reducible apply setAxStop_keeps
    | with_reducible apply put_keeps
    | with_reducible apply raise_keeps
    | with_reducible apply motionReplan_keeps
    | with_reducible apply setGen_keeps
    | with_reducible apply setAxisX_keeps
    | split
    | exact keeps_in (keeps_out hx)
    | exact keeps_in (keeps_out hs)
    | (refine keeps_in ?_; dsimp only; exact keeps_out (by with_reducible assumption))
    | dsimp only

theorem rideFail_keeps {z : State} {s : State} (hs : Keeps z s) (x : Nat) : Keeps z (State.rideFail s x) := by
  unfold State.rideFail
  repeat' first
    | with_reducible assumption
    | (unfold x; clear x)
    | (extract_lets -merge -useContext +onlyGivenNames x; first | (refine keeps_cut (s0 := z) x ?_ (fun hx => ?_); rotate_left; clear_value x) | clear_value x)
    | with_reducible apply stopAxes_keeps
    | with_reducible apply put_keeps
    | with_reducible apply alarm_keeps
    | split
    | exact keeps_in (keeps_out hx)
    | exact keeps_in (keeps_out hs)
    | (refine keeps_in ?_; dsimp only; exact keeps_out (by with_reducible assumption))
    | dsimp only

theorem stageEnable_keeps {z : State} {s : State} (hs : Keeps z s) (i : Nat) : Keeps z (State.stageEnable s i).2 := by
  unfold State.stageEnable
  repeat' first
    | with_reducible assumption
    | (unfold x; clear x)
    | with_reducible refine keeps_snd (by with_reducible assumption) ?_
    | with_reducible refine keeps_fst (by with_reducible assumption) ?_
    | (extract_lets -merge -useContext +onlyGivenNames x; first | (refine keeps_cut (s0 := z) x ?_ (fun hx => ?_); rotate_left; clear_value x) | (refine keeps_cut (s0 := z) x.1 ?_ (fun hx => ?_); rotate_left; clear_value x) | (refine keeps_cut (s0 := z) x.2 ?_ (fun hx => ?_); rotate_left; clear_value x) | clear_value x)
    | with_reducible apply put_keeps
    | with_reducible apply setStg_keeps
    | split
    | exact keeps_in (keeps_out hx)
    | exact keeps_in (keeps_out hs)
    | (refine keeps_in ?_; dsimp only; exact keeps_out (by with_reducible assumption))
    | dsimp only

theorem stageDisable_keeps {z : State} {s : State} (hs : Keeps z s) (i : Nat) : Keeps z (State.stageDisable s i).2 := by
  unfold State.stageDisable
  repeat' first
    | with_reducible assumption
    | (unfold x; clear x)
    | with_reducible refine keeps_snd (by with_reducible assumption) ?_
    | with_reducible refine keeps_fst (by with_reducible assumption) ?_
    | (extract_lets -merge -useContext +onlyGivenNames x; first | (refine keeps_cut (s0 := z) x ?_ (fun hx => ?_); rotate_left; clear_value x) | (refine keeps_cut (s0 := z) x.1 ?_ (fun hx => ?_); rotate_left; clear_value x) | (refine keeps_cut (s0 := z) x.2 ?_ (fun hx => ?_); rotate_left; clear_value x) | clear_value x)
    | with_reducible apply setStg_keeps
    | with_reducible apply put_keeps
    | split
    | exact keeps_in (keeps_out hx)
    | exact keeps_in (keeps_out hs)
    | (refine keeps_in ?_; dsimp only; exact keeps_out (by with_reducible assumption))
    | dsimp only

theorem ringRun_keeps {z : State} {s : State} (hs : Keeps z s) (r : Nat) (v : Nat) : Keeps z (State.ringRun s r v).2 := by
  unfold State.ringRun
  repeat' first
    | with_reducible assumption
    | (unfold x; clear x)
    | with_reducible refine keeps_snd (by with_reducible assumption) ?_
    | with_reducible refine keeps_fst (by with_reducible assumption) ?_
    | with_reducible refine keeps_third (by with_reducible assumption) ?_
    | with_reducible refine keeps_mid (by with_reducible assumption) ?_
    | (extract_lets -merge -useContext +onlyGivenNames x; first | (refine keeps_cut (s0 := z) x ?_ (fun hx => ?_); rotate_left; clear_value x) | (refine keeps_cut (s0 := z) x.1 ?_ (fun hx => ?_); rotate_left; clear_value x) | (refine keeps_cut (s0 := z) x.2 ?_ (fun hx => ?_); rotate_left; clear_value x) | clear_value x)
    | with_reducible apply convStop_keeps
    | with_reducible apply ringBlock_keeps
    | with_reducible apply put_keeps
    | with_reducible refine keeps_foldl ?_ (fun t b ht => ?_)
    | (with_reducible refine keeps_foldl_fst ?_ (fun t b ht => ?_); rotate_left; rcases t with ⟨t, r⟩; dsimp -zeta only at ht ⊢)
    | (with_reducible refine keeps_foldl_snd ?_ (fun t b ht => ?_); rotate_left; rcases t with ⟨r, t⟩; dsimp -zeta only at ht ⊢)
    | with_reducible refine keeps_foldl_fst ?_ (fun t b ht => ?_)
    | with_reducible refine keeps_foldl_snd ?_ (fun t b ht => ?_)
    | split
    | exact keeps_in (keeps_out hx)
    | exact keeps_in (keeps_out hs)
    | exact keeps_in (keeps_out ht)
    | (refine keeps_in ?_; dsimp only; exact keeps_out (by with_reducible assumption))
    | dsimp only

theorem convEnable_keeps {z : State} {s : State} (hs : Keeps z s) (c : Nat) (v : Nat) : Keeps z (State.convEnable s c v).2 := by
  unfold State.convEnable
  repeat' first
    | with_reducible assumption
    | (unfold x; clear x)
    | with_reducible refine keeps_snd (by with_reducible assumption) ?_
    | with_reducible refine keeps_fst (by with_reducible assumption) ?_
    | (extract_lets -merge -useContext +onlyGivenNames x; first | (refine keeps_cut (s0 := z) x ?_ (fun hx => ?_); rotate_left; clear_value x) | (refine keeps_cut (s0 := z) x.1 ?_ (fun hx => ?_); rotate_left; clear_value x) | (refine keeps_cut (s0 := z) x.2 ?_ (fun hx => ?_); rotate_left; clear_value x) | clear_value x)
    | with_reducible apply convTo_keeps
    | with_reducible apply putF_keeps
    | with_reducible apply put_keeps
    | with_reducible apply resetOut_keeps
    | with_reducible apply setArmX_keeps
    | with_reducible refine keeps_foldl ?_ (fun t b ht => ?_)
    | with_reducible refine keeps_foldl_fst ?_ (fun t b ht => ?_)
    | with_reducible refine keeps_foldl_snd ?_ (fun t b ht => ?_)
    | split
    | exact keeps_in (keeps_out hx)
    | exact keeps_in (keeps_out hs)
    | exact keeps_in (keeps_out ht)
    | (refine keeps_in ?_; dsimp only; exact keeps_out (by with_reducible assumption))
    | dsimp only

theorem convClear_keeps {z : State} {s : State} (hs : Keeps z s) (c : Nat) : Keeps z (State.convClear s c).2 := by
  unfold State.convClear
  repeat' first
    | with_reducible assumption
    | (unfold x; clear x)
    | with_reducible refine keeps_snd (by with_reducible assumption) ?_
    | with_reducible refine keeps_fst (by with_reducible assumption) ?_
    | (extract_lets -merge -useContext +onlyGivenNames x; first | (refine keeps_cut (s0 := z) x ?_ (fun hx => ?_); rotate_left; clear_value x) | (refine keeps_cut (s0 := z) x.1 ?_ (fun hx => ?_); rotate_left; clear_value x) | (refine keeps_cut (s0 := z) x.2 ?_ (fun hx => ?_); rotate_left; clear_value x) | clear_value x)
    | with_reducible apply convShortEnd_keeps
    | with_reducible apply clearFault_keeps
    | with_reducible apply convTo_keeps
    | split
    | exact keeps_in (keeps_out hx)
    | exact keeps_in (keeps_out hs)
    | (refine keeps_in ?_; dsimp only; exact keeps_out (by with_reducible assumption))
    | dsimp only

end Sys2Proof.Laws
end

