-- ==== Sys2Proof/Laws/Services.lean ====
section
/-! SUPPORT. What the operations of `Machine/Services.lean` keep. -/
namespace Sys2Proof.Laws
open Machine Safety

theorem mramCount_keeps {z s : State} (hs : Keeps z s) (k : Nat) : Keeps z (s.mramCount k) := by
  unfold State.mramCount
  extract_lets c s1 m s2 s3
  have h1 : Keeps z s1 := keeps_ite (put_keeps hs _ _ _ _) hs
  have h2 : Keeps z s2 := keeps_mram h1 (Nat.le_refl _)
  have h3 : Keeps z s3 := put_keeps h2 _ _ _ _
  exact keeps_ite (keeps_mram h1 (Nat.le_refl _)) (keeps_ite (alarm_keeps h3 _ _ _ _ _ _) h3)

theorem mramWrite_keeps {z s : State} (hs : Keeps z s) (k : Nat) : Keeps z (s.mramWrite k) := by
  unfold State.mramWrite
  refine keeps_ite (mramCount_keeps hs k) (keeps_ite hs (mramCount_keeps ?_ k))
  exact keeps_mram hs (Nat.le_refl _)

theorem lossEvent_keeps {z : State} {s : State} (hs : Keeps z s) : Keeps z (State.lossEvent s) := by
  unfold State.lossEvent
  repeat' first
    | with_reducible assumption
    | (unfold x; clear x)
    | (extract_lets -merge -useContext +onlyGivenNames x; first | (refine keeps_cut (s0 := z) x ?_ (fun hx => ?_); rotate_left; clear_value x) | clear_value x)
    | with_reducible apply raise_keeps
    | split
    | exact keeps_in (keeps_out hx)
    | exact keeps_in (keeps_out hs)
    | (refine keeps_in ?_; dsimp only; exact keeps_out (by with_reducible assumption))
    | dsimp only

theorem mirror_keeps {z : State} {s : State} (hs : Keeps z s) (bytes : List Byte) : Keeps z (State.mirror s bytes) := by
  unfold State.mirror
  repeat' first
    | with_reducible assumption
    | (unfold x; clear x)
    | (extract_lets -merge -useContext +onlyGivenNames x; first | (refine keeps_cut (s0 := z) x ?_ (fun hx => ?_); rotate_left; clear_value x) | clear_value x)
    | with_reducible apply produce_keeps
    | with_reducible apply inc_keeps
    | with_reducible apply lossEvent_keeps
    | split
    | exact keeps_in (keeps_out hx)
    | exact keeps_in (keeps_out hs)
    | (refine keeps_in ?_; dsimp only; exact keeps_out (by with_reducible assumption))
    | dsimp only

theorem ledgerPut_keeps {z : State} {s : State} (hs : Keeps z s) (r : LRec) : Keeps z (State.ledgerPut s r) := by
  unfold State.ledgerPut
  extract_lets k bytes h r' m s1 m2 s2 s3
  have h1 : Keeps z s1 := keeps_mram hs (Nat.le_succ _)
  have h2 : Keeps z s2 := keeps_ite (inc_keeps (keeps_mram h1 (Nat.le_refl _)) _ _ _ _) h1
  have h3 : Keeps z s3 := put_keeps (put_keeps h2 _ _ _ _) _ _ _ _
  clear_value s1 s2 s3
  exact mirror_keeps (mramWrite_keeps h3 _) _

theorem ledgerWrite_keeps {z : State} {s : State} (hs : Keeps z s) : Keeps z (State.ledgerWrite s) := by
  unfold State.ledgerWrite
  split
  · exact hs
  · rename_i r t e
    have hb : stagedOk s.ledg.staged := (keeps_out hs).stag
    have ht : stagedOk t := by
      rw [e] at hb; unfold stagedOk at hb ⊢; simp only [List.length_cons] at hb; omega
    have h1 : Keeps z { s with ledg := { s.ledg with staged := t, unsealed := s.ledg.unsealed + 1 } } := keeps_staged hs ht
    generalize { s with ledg := { s.ledg with staged := t, unsealed := s.ledg.unsealed + 1 } } = u at h1
    have h2 : Keeps z (u.ledgerPut r) := ledgerPut_keeps h1 r
    dsimp only
    generalize u.ledgerPut r = v at h2
    exact keeps_ite h2 (ledger_keeps (keeps_staged (l := { v.ledg with lostNow := 0 }) h2 (keeps_out h2).stag) _ _ _ _ _)

theorem ledgerFlush_keeps {z : State} {s : State} (hs : Keeps z s) (n1 : Nat) : Keeps z (State.ledgerFlush s n1) := by
  induction n1 generalizing s with
  | zero => exact hs
  | succ k ih => exact keeps_ite hs (ih (ledgerWrite_keeps hs))

theorem sealPair_keeps {z : State} {s : State} (hs : Keeps z s) : Keeps z (State.sealPair s) := by
  unfold State.sealPair
  repeat' first
    | with_reducible assumption
    | (unfold x; clear x)
    | (extract_lets -merge -useContext +onlyGivenNames x; first | (refine keeps_cut (s0 := z) x ?_ (fun hx => ?_); rotate_left; clear_value x) | have _ : Ledger := x | clear_value x)
    | with_reducible apply ledgerPut_keeps
    | split
    | exact keeps_in (keeps_out hx)
    | exact keeps_in (keeps_out hs)
    | (refine keeps_in ?_; dsimp only; exact keeps_out (by with_reducible assumption))
    | dsimp only

theorem commitCounters_keeps {z : State} {s : State} (hs : Keeps z s) : Keeps z (State.commitCounters s) := by
  unfold State.commitCounters
  repeat' first
    | with_reducible assumption
    | (unfold x; clear x)
    | (extract_lets -merge -useContext +onlyGivenNames x; first | (refine keeps_cut (s0 := z) x ?_ (fun hx => ?_); rotate_left; clear_value x) | have _ : Mram := x | clear_value x)
    | with_reducible apply mramWrite_keeps
    | split
    | exact keeps_in (keeps_out hx)
    | exact keeps_in (keeps_out hs)
    | (refine keeps_in ?_; dsimp only; exact keeps_out (by with_reducible assumption))
    | dsimp only

theorem counterCommit_keeps {z : State} {s : State} (hs : Keeps z s) : Keeps z (State.counterCommit s) := by
  unfold State.counterCommit
  repeat' first
    | with_reducible assumption
    | (unfold x; clear x)
    | (extract_lets -merge -useContext +onlyGivenNames x; first | (refine keeps_cut (s0 := z) x ?_ (fun hx => ?_); rotate_left; clear_value x) | clear_value x)
    | with_reducible apply commitCounters_keeps
    | split
    | exact keeps_in (keeps_out hx)
    | exact keeps_in (keeps_out hs)
    | (refine keeps_in ?_; dsimp only; exact keeps_out (by with_reducible assumption))
    | dsimp only

theorem reserveCommitDone_keeps {z : State} {s : State} (hs : Keeps z s) : Keeps z (State.reserveCommitDone s) := by
  unfold State.reserveCommitDone
  repeat' first
    | with_reducible assumption
    | (unfold x; clear x)
    | (extract_lets -merge -useContext +onlyGivenNames x; first | (refine keeps_cut (s0 := z) x ?_ (fun hx => ?_); rotate_left; clear_value x) | clear_value x)
    | with_reducible apply raise_keeps
    | with_reducible apply commitCounters_keeps
    | split
    | exact keeps_in (keeps_out hx)
    | exact keeps_in (keeps_out hs)
    | (refine keeps_in ?_; dsimp only; exact keeps_out (by with_reducible assumption))
    | dsimp only

theorem vernierCalibration_keeps {z : State} {s : State} (hs : Keeps z s) (good : Bool) : Keeps z (State.vernierCalibration s good) := by
  unfold State.vernierCalibration
  repeat' first
    | with_reducible assumption
    | (unfold x; clear x)
    | (extract_lets -merge -useContext +onlyGivenNames x; first | (refine keeps_cut (s0 := z) x ?_ (fun hx => ?_); rotate_left; clear_value x) | clear_value x)
    | with_reducible apply putF_keeps
    | with_reducible apply alarm_keeps
    | split
    | exact keeps_in (keeps_out hx)
    | exact keeps_in (keeps_out hs)
    | (refine keeps_in ?_; dsimp only; exact keeps_out (by with_reducible assumption))
    | dsimp only

theorem diodeCalibration_keeps {z : State} {s : State} (hs : Keeps z s) (corr : F32) : Keeps z (State.diodeCalibration s corr) := by
  unfold State.diodeCalibration
  repeat' first
    | with_reducible assumption
    | (unfold x; clear x)
    | (extract_lets -merge -useContext +onlyGivenNames x; first | (refine keeps_cut (s0 := z) x ?_ (fun hx => ?_); rotate_left; clear_value x) | have _ : Mram := x | clear_value x)
    | with_reducible apply putF_keeps
    | with_reducible apply mramWrite_keeps
    | with_reducible apply alarm_keeps
    | split
    | exact keeps_in (keeps_out hx)
    | exact keeps_in (keeps_out hs)
    | (refine keeps_in ?_; dsimp only; exact keeps_out (by with_reducible assumption))
    | dsimp only

theorem calStale_keeps {z : State} {s : State} (hs : Keeps z s) (which : Nat) : Keeps z (State.calStale s which) := by
  unfold State.calStale
  repeat' first
    | with_reducible assumption
    | (unfold x; clear x)
    | (extract_lets -merge -useContext +onlyGivenNames x; first | (refine keeps_cut (s0 := z) x ?_ (fun hx => ?_); rotate_left; clear_value x) | clear_value x)
    | with_reducible apply alarm_keeps
    | split
    | exact keeps_in (keeps_out hx)
    | exact keeps_in (keeps_out hs)
    | (refine keeps_in ?_; dsimp only; exact keeps_out (by with_reducible assumption))
    | dsimp only

theorem sarCalibration_keeps {z : State} {s : State} (hs : Keeps z s) (off : Int) (gain : Int) : Keeps z (State.sarCalibration s off gain) := by
  unfold State.sarCalibration
  repeat' first
    | with_reducible assumption
    | (unfold x; clear x)
    | (extract_lets -merge -useContext +onlyGivenNames x; first | (refine keeps_cut (s0 := z) x ?_ (fun hx => ?_); rotate_left; clear_value x) | clear_value x)
    | with_reducible apply inc_keeps
    | with_reducible apply putF_keeps
    | with_reducible apply alarm_keeps
    | with_reducible refine keeps_foldl ?_ (fun t b ht => ?_)
    | split
    | exact keeps_in (keeps_out hx)
    | exact keeps_in (keeps_out hs)
    | exact keeps_in (keeps_out ht)
    | (refine keeps_in ?_; dsimp only; exact keeps_out (by with_reducible assumption))
    | dsimp only

theorem elapse_keeps {z : State} {s : State} (hs : Keeps z s) (ns : Nat) : Keeps z (State.elapse s ns) := by
  unfold State.elapse
  repeat' first
    | with_reducible assumption
    | (unfold x; clear x)
    | (extract_lets -merge -useContext +onlyGivenNames x; first | (refine keeps_cut (s0 := z) x ?_ (fun hx => ?_); rotate_left; clear_value x) | clear_value x)
    | with_reducible apply putF_keeps
    | split
    | exact keeps_in (keeps_out hx)
    | exact keeps_in (keeps_out hs)
    | (refine keeps_in ?_; dsimp only; exact keeps_out (by with_reducible assumption))
    | dsimp only

theorem tdecHalving_keeps {z : State} {s : State} (hs : Keeps z s) (k : Nat) : Keeps z (State.tdecHalving s k) := by
  unfold State.tdecHalving
  repeat' first
    | with_reducible assumption
    | (unfold x; clear x)
    | (extract_lets -merge -useContext +onlyGivenNames x; first | (refine keeps_cut (s0 := z) x ?_ (fun hx => ?_); rotate_left; clear_value x) | clear_value x)
    | with_reducible apply put_keeps
    | split
    | exact keeps_in (keeps_out hx)
    | exact keeps_in (keeps_out hs)
    | (refine keeps_in ?_; dsimp only; exact keeps_out (by with_reducible assumption))
    | dsimp only

end Sys2Proof.Laws
end

