-- ==== Sys2Proof/Laws/Mark.lean ====
section
/-! SUPPORT. What the operations of `Machine/Mark.lean` keep. -/
namespace Sys2Proof.Laws
open Machine Safety

theorem dioTick_keeps {z : State} {s : State} (hs : Keeps z s) : Keeps z (State.dioTick s) := by
  unfold State.dioTick
  repeat' first
    | with_reducible assumption
    | (unfold x; clear x)
    | (extract_lets -merge -useContext +onlyGivenNames x; first | (refine keeps_cut (s0 := z) x ?_ (fun hx => ?_); rotate_left; clear_value x) | (refine keeps_cut (s0 := z) x.1 ?_ (fun hx => ?_); rotate_left; clear_value x) | (refine keeps_cut (s0 := z) x.2 ?_ (fun hx => ?_); rotate_left; clear_value x) | (refine keeps_cut (s0 := z) x.2.2 ?_ (fun hx => ?_); rotate_left; clear_value x) | clear_value x)
    | with_reducible apply dioStopEdge_keeps
    | with_reducible apply dioDue_keeps
    | with_reducible refine keeps_foldl ?_ (fun t b ht => ?_)
    | with_reducible refine keeps_foldl_fst ?_ (fun t b ht => ?_)
    | with_reducible refine keeps_foldl_snd ?_ (fun t b ht => ?_)
    | split
    | exact keeps_in (keeps_out hx)
    | exact keeps_in (keeps_out hs)
    | exact keeps_in (keeps_out ht)
    | (refine keeps_in ?_; dsimp only; exact keeps_out (by with_reducible assumption))
    | dsimp only

theorem dioWindowsEnd_keeps {z : State} {s : State} (hs : Keeps z s) : Keeps z (State.dioWindowsEnd s) := by
  unfold State.dioWindowsEnd
  repeat' first
    | with_reducible assumption
    | (unfold x; clear x)
    | (extract_lets -merge -useContext +onlyGivenNames x; first | (refine keeps_cut (s0 := z) x ?_ (fun hx => ?_); rotate_left; clear_value x) | (refine keeps_cut (s0 := z) x.1 ?_ (fun hx => ?_); rotate_left; clear_value x) | (refine keeps_cut (s0 := z) x.2 ?_ (fun hx => ?_); rotate_left; clear_value x) | (refine keeps_cut (s0 := z) x.2.2 ?_ (fun hx => ?_); rotate_left; clear_value x) | clear_value x)
    | with_reducible apply dioWindowEnd_keeps
    | with_reducible apply dioStopEdge_keeps
    | with_reducible refine keeps_foldl ?_ (fun t b ht => ?_)
    | with_reducible refine keeps_foldl_fst ?_ (fun t b ht => ?_)
    | with_reducible refine keeps_foldl_snd ?_ (fun t b ht => ?_)
    | split
    | exact keeps_in (keeps_out hx)
    | exact keeps_in (keeps_out hs)
    | exact keeps_in (keeps_out ht)
    | (refine keeps_in ?_; dsimp only; exact keeps_out (by with_reducible assumption))
    | dsimp only

theorem settleStops_keeps {z : State} {s : State} (hs : Keeps z s) : Keeps z (State.settleStops s) := by
  unfold State.settleStops
  repeat' first
    | with_reducible assumption
    | (unfold x; clear x)
    | (extract_lets -merge -useContext +onlyGivenNames x; first | (refine keeps_cut (s0 := z) x ?_ (fun hx => ?_); rotate_left; clear_value x) | clear_value x)
    | with_reducible apply machWatch_keeps
    | with_reducible apply tuneWatch_keeps
    | with_reducible apply stopRefresh_keeps
    | with_reducible apply runStopReqs_keeps
    | split
    | exact keeps_in (keeps_out hx)
    | exact keeps_in (keeps_out hs)
    | (refine keeps_in ?_; dsimp only; exact keeps_out (by with_reducible assumption))
    | dsimp only

theorem compareDue_keeps {z : State} {s : State} (hs : Keeps z s) : Keeps z (State.compareDue s) := by
  unfold State.compareDue
  repeat' first
    | with_reducible assumption
    | (unfold x; clear x)
    | with_reducible refine keeps_snd (by with_reducible assumption) ?_
    | with_reducible refine keeps_fst (by with_reducible assumption) ?_
    | (extract_lets -merge -useContext +onlyGivenNames x; first | (refine keeps_cut (s0 := z) x ?_ (fun hx => ?_); rotate_left; clear_value x) | (refine keeps_cut (s0 := z) x.1 ?_ (fun hx => ?_); rotate_left; clear_value x) | (refine keeps_cut (s0 := z) x.2 ?_ (fun hx => ?_); rotate_left; clear_value x) | clear_value x)
    | with_reducible apply setCmpX_keeps
    | with_reducible apply put_keeps
    | with_reducible refine keeps_foldl ?_ (fun t b ht => ?_)
    | split
    | exact keeps_in (keeps_out hx)
    | exact keeps_in (keeps_out hs)
    | exact keeps_in (keeps_out ht)
    | (refine keeps_in ?_; dsimp only; exact keeps_out (by with_reducible assumption))
    | dsimp only

theorem lateDue_keeps {z s : State} (hs : Keeps z s) : Keeps z s.lateDue := by
  unfold State.lateDue
  extract_lets t u
  have ht : Keeps z t := coefDue_keeps hs
  have hu : Keeps z u := keeps_foldl ht fun v e hv => by
    split
    · rename_i m i x _
      have h1 : Keeps z (v.put m i e.2 x) := put_keeps hv _ _ _ _
      split
      · exact hv
      · exact keeps_in (keeps_out h1)
    · exact hv
  exact tripMoved_keeps hu

theorem fbServe_keeps {z : State} {s : State} (hs : Keeps z s) : Keeps z (State.fbServe s) := by
  unfold State.fbServe
  repeat' first
    | with_reducible assumption
    | (unfold x; clear x)
    | (extract_lets -merge -useContext +onlyGivenNames x; first | (refine keeps_cut (s0 := z) x ?_ (fun hx => ?_); rotate_left; clear_value x) | (refine keeps_cut (s0 := z) x.1 ?_ (fun hx => ?_); rotate_left; clear_value x) | (refine keeps_cut (s0 := z) x.2 ?_ (fun hx => ?_); rotate_left; clear_value x) | (refine keeps_cut (s0 := z) x.2.2 ?_ (fun hx => ?_); rotate_left; clear_value x) | clear_value x)
    | with_reducible apply fbResult_keeps
    | with_reducible apply fbSettle_keeps
    | with_reducible apply markSpeed_keeps
    | with_reducible apply fbPlace_keeps
    | with_reducible apply genShift_keeps
    | with_reducible apply markFallback_keeps
    | with_reducible refine keeps_foldl ?_ (fun t b ht => ?_)
    | with_reducible refine keeps_foldl_fst ?_ (fun t b ht => ?_)
    | with_reducible refine keeps_foldl_snd ?_ (fun t b ht => ?_)
    | split
    | exact keeps_in (keeps_out hx)
    | exact keeps_in (keeps_out hs)
    | exact keeps_in (keeps_out ht)
    | (refine keeps_in ?_; dsimp only; exact keeps_out (by with_reducible assumption))
    | dsimp only

theorem markFeedback_keeps {z : State} {s : State} (hs : Keeps z s) : Keeps z (State.markFeedback s) := by
  unfold State.markFeedback
  repeat' first
    | with_reducible assumption
    | (unfold x; clear x)
    | (extract_lets -merge -useContext +onlyGivenNames x; first | (refine keeps_cut (s0 := z) x ?_ (fun hx => ?_); rotate_left; clear_value x) | (refine keeps_cut (s0 := z) x.1 ?_ (fun hx => ?_); rotate_left; clear_value x) | (refine keeps_cut (s0 := z) x.2 ?_ (fun hx => ?_); rotate_left; clear_value x) | (refine keeps_cut (s0 := z) x.2.2 ?_ (fun hx => ?_); rotate_left; clear_value x) | clear_value x)
    | with_reducible apply put_keeps
    | with_reducible apply setFbX_keeps
    | with_reducible apply fbServe_keeps
    | with_reducible refine keeps_foldl ?_ (fun t b ht => ?_)
    | with_reducible refine keeps_foldl_fst ?_ (fun t b ht => ?_)
    | with_reducible refine keeps_foldl_snd ?_ (fun t b ht => ?_)
    | split
    | exact keeps_in (keeps_out hx)
    | exact keeps_in (keeps_out hs)
    | exact keeps_in (keeps_out ht)
    | (refine keeps_in ?_; dsimp only; exact keeps_out (by with_reducible assumption))
    | dsimp only

theorem markAnalogue_keeps {z : State} {s : State} (hs : Keeps z s) (q : MarkIn) : Keeps z (State.markAnalogue s q) := by
  unfold State.markAnalogue
  repeat' first
    | with_reducible assumption
    | (unfold x; clear x)
    | (extract_lets -merge -useContext +onlyGivenNames x; first | (refine keeps_cut (s0 := z) x ?_ (fun hx => ?_); rotate_left; clear_value x) | (refine keeps_cut (s0 := z) x.1 ?_ (fun hx => ?_); rotate_left; clear_value x) | (refine keeps_cut (s0 := z) x.2 ?_ (fun hx => ?_); rotate_left; clear_value x) | (refine keeps_cut (s0 := z) x.2.2 ?_ (fun hx => ?_); rotate_left; clear_value x) | clear_value x)
    | with_reducible apply sdTake_keeps
    | with_reducible apply sdMark_keeps
    | with_reducible apply sdLatch_keeps
    | with_reducible apply sarMark_keeps
    | with_reducible apply sarCalibration_keeps
    | with_reducible refine keeps_foldl ?_ (fun t b ht => ?_)
    | with_reducible refine keeps_foldl_fst ?_ (fun t b ht => ?_)
    | with_reducible refine keeps_foldl_snd ?_ (fun t b ht => ?_)
    | split
    | exact keeps_in (keeps_out hx)
    | exact keeps_in (keeps_out hs)
    | exact keeps_in (keeps_out ht)
    | (refine keeps_in ?_; dsimp only; exact keeps_out (by with_reducible assumption))
    | dsimp only

theorem markInputs_keeps {z : State} {s : State} (hs : Keeps z s) (q : MarkIn) : Keeps z (State.markInputs s q) := by
  unfold State.markInputs
  repeat' first
    | with_reducible assumption
    | (unfold x; clear x)
    | (extract_lets -merge -useContext +onlyGivenNames x; first | (refine keeps_cut (s0 := z) x ?_ (fun hx => ?_); rotate_left; clear_value x) | clear_value x)
    | with_reducible apply compareDue_keeps
    | with_reducible apply setFbX_keeps
    | with_reducible apply fbMark_keeps
    | with_reducible apply genShift_keeps
    | with_reducible apply sdMark_keeps
    | with_reducible apply sarCalibration_keeps
    | with_reducible apply sdLatch_keeps
    | with_reducible apply eoMark_keeps
    | with_reducible refine keeps_foldl ?_ (fun t b ht => ?_)
    | with_reducible apply lateDue_keeps
    | with_reducible apply dioTick_keeps
    | with_reducible apply setCmpX_keeps
    | with_reducible apply markFeedback_keeps
    | with_reducible apply markAnalogue_keeps
    | with_reducible refine keeps_foldl_fst ?_ (fun t b ht => ?_)
    | with_reducible refine keeps_foldl_snd ?_ (fun t b ht => ?_)
    | split
    | exact keeps_in (keeps_out hx)
    | exact keeps_in (keeps_out hs)
    | exact keeps_in (keeps_out ht)
    | (refine keeps_in ?_; dsimp only; exact keeps_out (by with_reducible assumption))
    | dsimp only

theorem emulate_keeps {z : State} {s : State} (hs : Keeps z s) (e : Nat) : Keeps z (State.emulate s e) := by
  unfold State.emulate
  repeat' first
    | with_reducible assumption
    | (unfold x; clear x)
    | (extract_lets -merge -useContext +onlyGivenNames x; first | (refine keeps_cut (s0 := z) x ?_ (fun hx => ?_); rotate_left; clear_value x) | (refine keeps_cut (s0 := z) x.1 ?_ (fun hx => ?_); rotate_left; clear_value x) | (refine keeps_cut (s0 := z) x.2 ?_ (fun hx => ?_); rotate_left; clear_value x) | (refine keeps_cut (s0 := z) x.2.2 ?_ (fun hx => ?_); rotate_left; clear_value x) | clear_value x)
    | with_reducible apply eoMark_keeps
    | split
    | exact keeps_in (keeps_out hx)
    | exact keeps_in (keeps_out hs)
    | (refine keeps_in ?_; dsimp only; exact keeps_out (by with_reducible assumption))
    | dsimp only

theorem markEmulation_keeps {z : State} {s : State} (hs : Keeps z s) : Keeps z (State.markEmulation s) := by
  unfold State.markEmulation
  repeat' first
    | with_reducible assumption
    | (unfold x; clear x)
    | (extract_lets -merge -useContext +onlyGivenNames x; first | (refine keeps_cut (s0 := z) x ?_ (fun hx => ?_); rotate_left; clear_value x) | (refine keeps_cut (s0 := z) x.1 ?_ (fun hx => ?_); rotate_left; clear_value x) | (refine keeps_cut (s0 := z) x.2 ?_ (fun hx => ?_); rotate_left; clear_value x) | (refine keeps_cut (s0 := z) x.2.2 ?_ (fun hx => ?_); rotate_left; clear_value x) | clear_value x)
    | with_reducible apply emulate_keeps
    | with_reducible refine keeps_foldl ?_ (fun t b ht => ?_)
    | with_reducible refine keeps_foldl_fst ?_ (fun t b ht => ?_)
    | with_reducible refine keeps_foldl_snd ?_ (fun t b ht => ?_)
    | split
    | exact keeps_in (keeps_out hx)
    | exact keeps_in (keeps_out hs)
    | exact keeps_in (keeps_out ht)
    | (refine keeps_in ?_; dsimp only; exact keeps_out (by with_reducible assumption))
    | dsimp only

theorem ssiRelease_keeps {z : State} {s : State} (hs : Keeps z s) : Keeps z (State.ssiRelease s) := by
  unfold State.ssiRelease
  repeat' first
    | with_reducible assumption
    | (unfold x; clear x)
    | (extract_lets -merge -useContext +onlyGivenNames x; first | (refine keeps_cut (s0 := z) x ?_ (fun hx => ?_); rotate_left; clear_value x) | (refine keeps_cut (s0 := z) x.1 ?_ (fun hx => ?_); rotate_left; clear_value x) | (refine keeps_cut (s0 := z) x.2 ?_ (fun hx => ?_); rotate_left; clear_value x) | (refine keeps_cut (s0 := z) x.2.2 ?_ (fun hx => ?_); rotate_left; clear_value x) | clear_value x)
    | with_reducible apply fbServe_keeps
    | with_reducible apply evaluate_keeps
    | with_reducible apply emulate_keeps
    | with_reducible refine keeps_foldl ?_ (fun t b ht => ?_)
    | with_reducible refine keeps_foldl_fst ?_ (fun t b ht => ?_)
    | with_reducible refine keeps_foldl_snd ?_ (fun t b ht => ?_)
    | split
    | exact keeps_in (keeps_out hx)
    | exact keeps_in (keeps_out hs)
    | exact keeps_in (keeps_out ht)
    | (refine keeps_in ?_; dsimp only; exact keeps_out (by with_reducible assumption))
    | dsimp only

theorem keepAlive_keeps {z : State} {s : State} (hs : Keeps z s) (r : Nat) : Keeps z (State.keepAlive s r) := by
  unfold State.keepAlive
  repeat' first
    | with_reducible assumption
    | (unfold x; clear x)
    | (extract_lets -merge -useContext +onlyGivenNames x; first | (refine keeps_cut (s0 := z) x ?_ (fun hx => ?_); rotate_left; clear_value x) | clear_value x)
    | with_reducible apply setLink_keeps
    | with_reducible apply inc_keeps
    | split
    | exact keeps_in (keeps_out hx)
    | exact keeps_in (keeps_out hs)
    | (refine keeps_in ?_; dsimp only; exact keeps_out (by with_reducible assumption))
    | dsimp only

theorem markRings_keeps {z : State} {s : State} (hs : Keeps z s) : Keeps z (State.markRings s) := by
  unfold State.markRings
  repeat' first
    | with_reducible assumption
    | (unfold x; clear x)
    | (extract_lets -merge -useContext +onlyGivenNames x; first | (refine keeps_cut (s0 := z) x ?_ (fun hx => ?_); rotate_left; clear_value x) | clear_value x)
    | with_reducible apply ringOff_keeps
    | with_reducible apply keepAlive_keeps
    | with_reducible apply convMark_keeps
    | with_reducible apply frameLaunch_keeps
    | with_reducible apply formCommands_keeps
    | with_reducible refine keeps_foldl ?_ (fun t b ht => ?_)
    | split
    | exact keeps_in (keeps_out hx)
    | exact keeps_in (keeps_out hs)
    | exact keeps_in (keeps_out ht)
    | (refine keeps_in ?_; dsimp only; exact keeps_out (by with_reducible assumption))
    | dsimp only

theorem markEnables_keeps {z : State} {s : State} (hs : Keeps z s) : Keeps z (State.markEnables s) := by
  unfold State.markEnables
  repeat' first
    | with_reducible assumption
    | (unfold x; clear x)
    | (extract_lets -merge -useContext +onlyGivenNames x; first | (refine keeps_cut (s0 := z) x ?_ (fun hx => ?_); rotate_left; clear_value x) | clear_value x)
    | with_reducible apply stageDisableEffect_keeps
    | with_reducible apply stageEnableEffect_keeps
    | with_reducible apply axisOffMark_keeps
    | with_reducible refine keeps_foldl ?_ (fun t b ht => ?_)
    | split
    | exact keeps_in (keeps_out hx)
    | exact keeps_in (keeps_out hs)
    | exact keeps_in (keeps_out ht)
    | (refine keeps_in ?_; dsimp only; exact keeps_out (by with_reducible assumption))
    | dsimp only

theorem markExchange_keeps {z : State} {s : State} (hs : Keeps z s) (q : MarkIn) : Keeps z (State.markExchange s q) := by
  unfold State.markExchange
  repeat' first
    | with_reducible assumption
    | (unfold x; clear x)
    | with_reducible refine keeps_snd (by with_reducible assumption) ?_
    | with_reducible refine keeps_fst (by with_reducible assumption) ?_
    | with_reducible refine keeps_third (by with_reducible assumption) ?_
    | with_reducible refine keeps_mid (by with_reducible assumption) ?_
    | (extract_lets -merge -useContext +onlyGivenNames x; first | (refine keeps_cut (s0 := z) x ?_ (fun hx => ?_); rotate_left; clear_value x) | (refine keeps_cut (s0 := z) x.1 ?_ (fun hx => ?_); rotate_left; clear_value x) | (refine keeps_cut (s0 := z) x.2 ?_ (fun hx => ?_); rotate_left; clear_value x) | clear_value x)
    | with_reducible apply releaseDuplicates_keeps
    | with_reducible apply replaceTasks_keeps
    | with_reducible apply reduplicate_keeps
    | with_reducible apply taskFails_keeps
    | with_reducible apply migrationStep_keeps
    | with_reducible refine keeps_foldl ?_ (fun t b ht => ?_)
    | with_reducible apply tileLost_keeps
    | with_reducible refine keeps_foldl_fst ?_ (fun t b ht => ?_)
    | with_reducible refine keeps_foldl_snd ?_ (fun t b ht => ?_)
    | split
    | exact keeps_in (keeps_out hx)
    | exact keeps_in (keeps_out hs)
    | exact keeps_in (keeps_out ht)
    | (refine keeps_in ?_; dsimp only; exact keeps_out (by with_reducible assumption))
    | dsimp only

theorem markStops_keeps {z : State} {s : State} (hs : Keeps z s) : Keeps z (State.markStops s) := by
  unfold State.markStops
  repeat' first
    | with_reducible assumption
    | (unfold x; clear x)
    | (extract_lets -merge -useContext +onlyGivenNames x; first | (refine keeps_cut (s0 := z) x ?_ (fun hx => ?_); rotate_left; clear_value x) | clear_value x)
    | with_reducible apply rampStep_keeps
    | with_reducible apply rampBegin_keeps
    | with_reducible apply rideMark_keeps
    | with_reducible refine keeps_foldl ?_ (fun t b ht => ?_)
    | split
    | exact keeps_in (keeps_out hx)
    | exact keeps_in (keeps_out hs)
    | exact keeps_in (keeps_out ht)
    | (refine keeps_in ?_; dsimp only; exact keeps_out (by with_reducible assumption))
    | dsimp only

theorem feedbackWatch_keeps {z : State} {s : State} (hs : Keeps z s) (x : Nat) : Keeps z (State.feedbackWatch s x) := by
  unfold State.feedbackWatch
  repeat' first
    | with_reducible assumption
    | (unfold x; clear x)
    | (extract_lets -merge -useContext +onlyGivenNames x; first | (refine keeps_cut (s0 := z) x ?_ (fun hx => ?_); rotate_left; clear_value x) | clear_value x)
    | with_reducible apply axisStopReq_keeps
    | split
    | exact keeps_in (keeps_out hx)
    | exact keeps_in (keeps_out hs)
    | (refine keeps_in ?_; dsimp only; exact keeps_out (by with_reducible assumption))
    | dsimp only

theorem markEvals_keeps {z : State} {s : State} (hs : Keeps z s) : Keeps z (State.markEvals s) := by
  unfold State.markEvals
  repeat' first
    | with_reducible assumption
    | (unfold x; clear x)
    | (extract_lets -merge -useContext +onlyGivenNames x; first | (refine keeps_cut (s0 := z) x ?_ (fun hx => ?_); rotate_left; clear_value x) | clear_value x)
    | with_reducible apply setMachX_keeps
    | with_reducible apply axisMeasure_keeps
    | with_reducible apply feedbackWatch_keeps
    | with_reducible apply armOvercurrent_keeps
    | with_reducible apply outerEvals_keeps
    | with_reducible apply armEvals_keeps
    | with_reducible apply fullEvals_keeps
    | with_reducible refine keeps_foldl ?_ (fun t b ht => ?_)
    | with_reducible apply brakeSlip_keeps
    | with_reducible apply thermalMark_keeps
    | with_reducible apply hushTorques_keeps
    | with_reducible refine keeps_foldl_fst ?_ (fun t b ht => ?_)
    | with_reducible refine keeps_foldl_snd ?_ (fun t b ht => ?_)
    | split
    | exact keeps_in (keeps_out hx)
    | exact keeps_in (keeps_out hs)
    | exact keeps_in (keeps_out hs0)
    | exact keeps_in (keeps_out ht)
    | (refine keeps_in ?_; dsimp only; exact keeps_out (by with_reducible assumption))
    | dsimp only

/-- The timebase is none of the parts that `Keeps` speaks of. -/
theorem setTb_keeps {z s : State} (hs : Keeps z s) (t : TimeBase) : Keeps z (s.setTb t) := keeps_in (keeps_out hs)

theorem fixedPt_keeps {z s : State} (hs : Keeps z s) (b : Bool) : Keeps z { s with fixedPt := b } := keeps_in (keeps_out hs)

theorem takeWingbeat_keeps {z s : State} (hs : Keeps z s) (t : Nat) : Keeps z (s.takeWingbeat t) :=
  exRefresh_keeps (keeps_foldl (setTb_keeps (put_keeps hs _ _ _ _) _) fun _ _ ht => setTask_keeps ht _ _)

theorem markTime_keeps {z s : State} (hs : Keeps z s) : Keeps z s.markTime := by
  unfold State.markTime
  extract_lets tb tb1 s1 s2 tb2 s3 tb3 s4
  have h1 : Keeps z s1 := keeps_ite (setTb_keeps hs _) (setTb_keeps (incWrap_keeps (elapse_keeps hs _) _ _ _) _)
  clear_value s1
  have h2 : Keeps z s2 := newSecond_keeps h1 _
  clear_value s2
  have h3 : Keeps z s3 := setTb_keeps (fixedPt_keeps h2 _) _
  clear_value s3
  have h4 : Keeps z s4 := keeps_ite (setTb_keeps h3 _) h3
  clear_value s4
  split
  · exact h4
  · exact takeWingbeat_keeps h4 _

theorem profilesOf_keeps {z : State} {s : State} (hs : Keeps z s) : Keeps z (State.profilesOf s) := by
  unfold State.profilesOf
  repeat' first
    | with_reducible assumption
    | (unfold x; clear x)
    | with_reducible refine keeps_snd (by with_reducible assumption) ?_
    | with_reducible refine keeps_fst (by with_reducible assumption) ?_
    | with_reducible refine keeps_third (by with_reducible assumption) ?_
    | with_reducible refine keeps_mid (by with_reducible assumption) ?_
    | (extract_lets -merge -useContext +onlyGivenNames x; first | (refine keeps_cut (s0 := z) x ?_ (fun hx => ?_); rotate_left; clear_value x) | (refine keeps_cut (s0 := z) x.1 ?_ (fun hx => ?_); rotate_left; clear_value x) | (refine keeps_cut (s0 := z) x.2 ?_ (fun hx => ?_); rotate_left; clear_value x) | (refine keeps_cut (s0 := z) x.2.2 ?_ (fun hx => ?_); rotate_left; clear_value x) | clear_value x)
    | with_reducible apply setGen_keeps
    | with_reducible refine keeps_foldl ?_ (fun t b ht => ?_)
    | with_reducible refine keeps_foldl_fst ?_ (fun t b ht => ?_)
    | with_reducible refine keeps_foldl_snd ?_ (fun t b ht => ?_)
    | split
    | exact keeps_in (keeps_out hx)
    | exact keeps_in (keeps_out hs)
    | exact keeps_in (keeps_out ht)
    | (refine keeps_in ?_; dsimp only; exact keeps_out (by with_reducible assumption))
    | dsimp only

theorem markFlight_keeps {z : State} {s : State} (hs : Keeps z s) (q : MarkIn) : Keeps z (State.markFlight s q) := by
  unfold State.markFlight
  repeat' first
    | with_reducible assumption
    | (unfold x; clear x)
    | (extract_lets -merge -useContext +onlyGivenNames x; first | (refine keeps_cut (s0 := z) x ?_ (fun hx => ?_); rotate_left; clear_value x) | clear_value x)
    | with_reducible apply gaResume_keeps
    | with_reducible apply markStops_keeps
    | with_reducible apply markExchange_keeps
    | with_reducible apply modMark_keeps
    | with_reducible apply markEvals_keeps
    | with_reducible apply convTrack_keeps
    | with_reducible apply ascTrack_keeps
    | with_reducible apply stageWatch_keeps
    | with_reducible refine keeps_foldl ?_ (fun t b ht => ?_)
    | with_reducible refine keeps_foldl_fst ?_ (fun t b ht => ?_)
    | with_reducible refine keeps_foldl_snd ?_ (fun t b ht => ?_)
    | split
    | exact keeps_in (keeps_out hx)
    | exact keeps_in (keeps_out hs)
    | exact keeps_in (keeps_out ht)
    | exact keeps_in (keeps_out hs0)
    | (refine keeps_in ?_; dsimp only; exact keeps_out (by with_reducible assumption))
    | dsimp only

theorem wingbeatMark_keeps {z : State} {s : State} (hs : Keeps z s) (q : MarkIn) : Keeps z (State.wingbeatMark s q) := by
  unfold State.wingbeatMark
  repeat' first
    | with_reducible assumption
    | (unfold x; clear x)
    | (extract_lets -merge -useContext +onlyGivenNames x; first | (refine keeps_cut (s0 := z) x ?_ (fun hx => ?_); rotate_left; clear_value x) | clear_value x)
    | with_reducible apply markTime_keeps
    | with_reducible apply telemClose_keeps
    | with_reducible apply traceClose_keeps
    | with_reducible apply markRings_keeps
    | with_reducible apply markInputs_keeps
    | with_reducible apply markEnables_keeps
    | with_reducible apply canMark_keeps
    | with_reducible apply settleStops_keeps
    | with_reducible apply telemOpen_keeps
    | with_reducible apply traceOpen_keeps
    | with_reducible apply markFlight_keeps
    | with_reducible apply profilesOf_keeps
    | with_reducible apply releaseDuplicates_keeps
    | with_reducible apply cellMark_keeps
    | with_reducible apply ffFade_keeps
    | with_reducible apply markEmulation_keeps
    | with_reducible refine keeps_foldl ?_ (fun t b ht => ?_)
    | with_reducible refine keeps_foldl_fst ?_ (fun t b ht => ?_)
    | with_reducible refine keeps_foldl_snd ?_ (fun t b ht => ?_)
    | split
    | exact keeps_in (keeps_out hx)
    | exact keeps_in (keeps_out hs)
    | exact keeps_in (keeps_out ht)
    | (refine keeps_in ?_; dsimp only; exact keeps_out (by with_reducible assumption))
    | dsimp only

theorem halfMark_keeps {z : State} {s : State} (hs : Keeps z s) (sd : List SdBits) (tagBad : Nat) : Keeps z (State.halfMark s sd tagBad) := by
  unfold State.halfMark
  repeat' first
    | with_reducible assumption
    | (unfold x; clear x)
    | (extract_lets -merge -useContext +onlyGivenNames x; first | (refine keeps_cut (s0 := z) x ?_ (fun hx => ?_); rotate_left; clear_value x) | clear_value x)
    | with_reducible apply traceClose_keeps
    | with_reducible apply sdLatch_keeps
    | with_reducible apply halfEvals_keeps
    | with_reducible apply settleStops_keeps
    | with_reducible apply traceOpen_keeps
    | with_reducible refine keeps_foldl ?_ (fun t b ht => ?_)
    | with_reducible apply sdTake_keeps
    | with_reducible apply dioTick_keeps
    | with_reducible apply stageWatch_keeps
    | with_reducible refine keeps_foldl_fst ?_ (fun t b ht => ?_)
    | with_reducible refine keeps_foldl_snd ?_ (fun t b ht => ?_)
    | split
    | exact keeps_in (keeps_out hx)
    | exact keeps_in (keeps_out hs)
    | exact keeps_in (keeps_out ht)
    | (refine keeps_in ?_; dsimp only; exact keeps_out (by with_reducible assumption))
    | dsimp only

end Sys2Proof.Laws
end

