-- ==== Sys2Proof/Laws/Reset.lean ====
section
/-! SUPPORT. What the operations of `Machine/Reset.lean` keep. -/
namespace Sys2Proof.Laws
open Machine Safety

theorem otpShow_keeps {z : State} {s : State} (hs : Keeps z s) : Keeps z (State.otpShow s) := by
  unfold State.otpShow
  repeat' first
    | with_reducible assumption
    | (unfold x; clear x)
    | (extract_lets -merge -useContext +onlyGivenNames x; first | (refine keeps_cut (s0 := z) x ?_ (fun hx => ?_); rotate_left; clear_value x) | clear_value x)
    | with_reducible apply put_keeps
    | split
    | exact keeps_in (keeps_out hx)
    | exact keeps_in (keeps_out hs)
    | (refine keeps_in ?_; dsimp only; exact keeps_out (by with_reducible assumption))
    | dsimp only

theorem slotShow_keeps {z : State} {s : State} (hs : Keeps z s) : Keeps z (State.slotShow s) := by
  unfold State.slotShow
  repeat' first
    | with_reducible assumption
    | (unfold x; clear x)
    | (extract_lets -merge -useContext +onlyGivenNames x; first | (refine keeps_cut (s0 := z) x ?_ (fun hx => ?_); rotate_left; clear_value x) | clear_value x)
    | with_reducible apply put_keeps
    | with_reducible refine keeps_foldl ?_ (fun t b ht => ?_)
    | split
    | exact keeps_in (keeps_out hx)
    | exact keeps_in (keeps_out hs)
    | exact keeps_in (keeps_out ht)
    | (refine keeps_in ?_; dsimp only; exact keeps_out (by with_reducible assumption))
    | dsimp only

theorem setSlot_keeps {z : State} {s : State} (hs : Keeps z s) (i : Nat) (q : Slot) : Keeps z (State.setSlot s i q) := by
  unfold State.setSlot
  repeat' first
    | with_reducible assumption
    | (unfold x; clear x)
    | (extract_lets -merge -useContext +onlyGivenNames x; first | (refine keeps_cut (s0 := z) x ?_ (fun hx => ?_); rotate_left; clear_value x) | have _ : Mram := x | clear_value x)
    | with_reducible apply slotShow_keeps
    | split
    | exact keeps_in (keeps_out hx)
    | exact keeps_in (keeps_out hs)
    | (refine keeps_in ?_; dsimp only; exact keeps_out (by with_reducible assumption))
    | dsimp only

theorem lifeWipe_keeps {z s : State} (hs : Keeps z s) (t : Nat) : Keeps z (s.lifeWipe t) := by
  have hw : ∀ l : List Nat, Keeps z (l.foldl State.mramWrite s) := fun l =>
    keeps_foldl hs fun _ _ ht => mramWrite_keeps ht _
  unfold State.lifeWipe
  extract_lets all s1 q m l s2
  have h1 : Keeps z s1 := hw _
  clear_value s1
  have h2 : Keeps z s2 := keeps_staged h1 (keeps_out h1).stag
  have e : s2.mram.next ≤ m.next := Nat.le_refl _
  exact keeps_ite (keeps_mram h2 e) (keeps_mram h2 e)

/-! ### The parts that a reset leaves -/

theorem companionsOk_burnWiped (o : Otp) : companionsOk (State.burnWiped o) := ⟨id, id, id, id, Nat.le_refl _⟩

/-- The companion fuses that are burnt stay burnt. -/
theorem fusesKept_burnWiped (o : Otp) (h : companionsOk o) : fusesKept o (State.burnWiped o) := by
  obtain ⟨h1, h2, h3, h4, h5⟩ := h
  exact ⟨Nat.and_self _, Nat.and_self _, Nat.and_self _, Nat.and_self _, Nat.and_self _, id, Nat.le_refl _, id, id, id, id,
    h1, h2, h3, h4, Nat.le_refl _, h5, fun _ => BitVec.and_self⟩

theorem fusesKept_refl (o : Otp) : fusesKept o o :=
  ⟨Nat.and_self _, Nat.and_self _, Nat.and_self _, Nat.and_self _, Nat.and_self _, id, Nat.le_refl _, id, id, id, id,
    id, id, id, id, Nat.le_refl _, Nat.le_refl _, fun _ => BitVec.and_self⟩

theorem ringOk_dflt (n : Nat) : ringOk (Ring.dflt n) := by
  unfold Ring.dflt
  split <;> exact ⟨by decide, fun h => nomatch h⟩

/-- What the reset state holds beside what a reset takes over (R635). -/
theorem doReset_keeps {z : State} {s : State} (hs : Keeps z s) (c : Nat) : Keeps z (State.doReset s c) :=
  { queue := (keeps_out hs).queue
    mem := rfl
    keys := trivial
    leg := fun _ h => nomatch h.1
    ring := ringOk_dflt
    dup := fun _ => Nat.zero_le _
    stag := Nat.zero_le _
    sto := rfl
    comp := (keeps_out hs).comp
    fuse := (keeps_out hs).fuse
    map := show mapOk 0xF1000000 from rfl
    free := (keeps_out hs).free
    drawn := (keeps_out hs).drawn
    recno := (keeps_out hs).recno }

theorem powerOnReset_keeps {z : State} {s : State} (hs : Keeps z s) (held : Bool) : Keeps z (State.powerOnReset s held) := by
  unfold State.powerOnReset
  repeat' first
    | with_reducible assumption
    | (unfold x; clear x)
    | (extract_lets -merge -useContext +onlyGivenNames x; first | (refine keeps_cut (s0 := z) x ?_ (fun hx => ?_); rotate_left; clear_value x) | clear_value x)
    | with_reducible apply doReset_keeps
    | split
    | exact keeps_in (keeps_out hx)
    | exact keeps_in (keeps_out hs)
    | (refine keeps_in ?_; dsimp only; exact keeps_out (by with_reducible assumption))
    | dsimp only

theorem brownout_keeps {z : State} {s : State} (hs : Keeps z s) (rail : Nat) : Keeps z (State.brownout s rail) := by
  unfold State.brownout
  repeat' first
    | with_reducible assumption
    | (unfold x; clear x)
    | (extract_lets -merge -useContext +onlyGivenNames x; first | (refine keeps_cut (s0 := z) x ?_ (fun hx => ?_); rotate_left; clear_value x) | clear_value x)
    | with_reducible apply doReset_keeps
    | split
    | exact keeps_in (keeps_out hx)
    | exact keeps_in (keeps_out hs)
    | (refine keeps_in ?_; dsimp only; exact keeps_out (by with_reducible assumption))
    | dsimp only

theorem nrstReset_keeps {z : State} {s : State} (hs : Keeps z s) : Keeps z (State.nrstReset s) := by
  unfold State.nrstReset
  repeat' first
    | with_reducible assumption
    | (unfold x; clear x)
    | (extract_lets -merge -useContext +onlyGivenNames x; first | (refine keeps_cut (s0 := z) x ?_ (fun hx => ?_); rotate_left; clear_value x) | clear_value x)
    | with_reducible apply doReset_keeps
    | split
    | exact keeps_in (keeps_out hx)
    | exact keeps_in (keeps_out hs)
    | (refine keeps_in ?_; dsimp only; exact keeps_out (by with_reducible assumption))
    | dsimp only

theorem watchdogPrewarning_keeps {z : State} {s : State} (hs : Keeps z s) : Keeps z (State.watchdogPrewarning s) := by
  unfold State.watchdogPrewarning
  repeat' first
    | with_reducible assumption
    | (unfold x; clear x)
    | (extract_lets -merge -useContext +onlyGivenNames x; first | (refine keeps_cut (s0 := z) x ?_ (fun hx => ?_); rotate_left; clear_value x) | clear_value x)
    | with_reducible apply raise_keeps
    | split
    | exact keeps_in (keeps_out hx)
    | exact keeps_in (keeps_out hs)
    | (refine keeps_in ?_; dsimp only; exact keeps_out (by with_reducible assumption))
    | dsimp only

theorem watchdogReset_keeps {z : State} {s : State} (hs : Keeps z s) : Keeps z (State.watchdogReset s) := by
  unfold State.watchdogReset
  repeat' first
    | with_reducible assumption
    | (unfold x; clear x)
    | (extract_lets -merge -useContext +onlyGivenNames x; first | (refine keeps_cut (s0 := z) x ?_ (fun hx => ?_); rotate_left; clear_value x) | clear_value x)
    | with_reducible apply doReset_keeps
    | split
    | exact keeps_in (keeps_out hx)
    | exact keeps_in (keeps_out hs)
    | (refine keeps_in ?_; dsimp only; exact keeps_out (by with_reducible assumption))
    | dsimp only

theorem lockstepMismatch_keeps {z : State} {s : State} (hs : Keeps z s) : Keeps z (State.lockstepMismatch s) := by
  unfold State.lockstepMismatch
  repeat' first
    | with_reducible assumption
    | (unfold x; clear x)
    | (extract_lets -merge -useContext +onlyGivenNames x; first | (refine keeps_cut (s0 := z) x ?_ (fun hx => ?_); rotate_left; clear_value x) | clear_value x)
    | with_reducible apply doReset_keeps
    | split
    | exact keeps_in (keeps_out hx)
    | exact keeps_in (keeps_out hs)
    | (refine keeps_in ?_; dsimp only; exact keeps_out (by with_reducible assumption))
    | dsimp only

theorem engineSupervisorReset_keeps {z : State} {s : State} (hs : Keeps z s) : Keeps z (State.engineSupervisorReset s) := by
  unfold State.engineSupervisorReset
  repeat' first
    | with_reducible assumption
    | (unfold x; clear x)
    | (extract_lets -merge -useContext +onlyGivenNames x; first | (refine keeps_cut (s0 := z) x ?_ (fun hx => ?_); rotate_left; clear_value x) | clear_value x)
    | with_reducible apply doReset_keeps
    | split
    | exact keeps_in (keeps_out hx)
    | exact keeps_in (keeps_out hs)
    | (refine keeps_in ?_; dsimp only; exact keeps_out (by with_reducible assumption))
    | dsimp only

theorem tamper_keeps {z : State} {s : State} (hs : Keeps z s) : Keeps z (State.tamper s) := by
  unfold State.tamper
  repeat' first
    | with_reducible assumption
    | (unfold x; clear x)
    | (extract_lets -merge -useContext +onlyGivenNames x; first | (refine keeps_cut (s0 := z) x ?_ (fun hx => ?_); rotate_left; clear_value x) | clear_value x)
    | with_reducible apply doReset_keeps
    | split
    | exact keeps_in (keeps_out hx)
    | exact keeps_in (keeps_out hs)
    | (refine keeps_in ?_; dsimp only; exact keeps_out (by with_reducible assumption))
    | dsimp only

theorem stretchEnd_keeps {z : State} {s : State} (hs : Keeps z s) (railsUp : Bool) : Keeps z (State.stretchEnd s railsUp) := by
  unfold State.stretchEnd
  repeat' first
    | with_reducible assumption
    | (unfold x; clear x)
    | (extract_lets -merge -useContext +onlyGivenNames x; first | (refine keeps_cut (s0 := z) x ?_ (fun hx => ?_); rotate_left; clear_value x) | clear_value x)
    | split
    | exact keeps_in (keeps_out hx)
    | exact keeps_in (keeps_out hs)
    | (refine keeps_in ?_; dsimp only; exact keeps_out (by with_reducible assumption))
    | dsimp only

theorem multiplierLock_keeps {z : State} {s : State} (hs : Keeps z s) : Keeps z (State.multiplierLock s) := by
  unfold State.multiplierLock
  repeat' first
    | with_reducible assumption
    | (unfold x; clear x)
    | (extract_lets -merge -useContext +onlyGivenNames x; first | (refine keeps_cut (s0 := z) x ?_ (fun hx => ?_); rotate_left; clear_value x) | clear_value x)
    | split
    | exact keeps_in (keeps_out hx)
    | exact keeps_in (keeps_out hs)
    | (refine keeps_in ?_; dsimp only; exact keeps_out (by with_reducible assumption))
    | dsimp only

theorem refRestored_keeps {z : State} {s : State} (hs : Keeps z s) (us : Nat) : Keeps z (State.refRestored s us) := by
  unfold State.refRestored
  repeat' first
    | with_reducible assumption
    | (unfold x; clear x)
    | (extract_lets -merge -useContext +onlyGivenNames x; first | (refine keeps_cut (s0 := z) x ?_ (fun hx => ?_); rotate_left; clear_value x) | clear_value x)
    | with_reducible apply setLink_keeps
    | with_reducible apply canTo_keeps
    | with_reducible apply setCan_keeps
    | with_reducible apply put_keeps
    | with_reducible apply alarm_keeps
    | with_reducible refine keeps_foldl ?_ (fun t b ht => ?_)
    | with_reducible refine keeps_foldl_fst ?_ (fun t b ht => ?_)
    | with_reducible refine keeps_foldl_snd ?_ (fun t b ht => ?_)
    | split
    | exact keeps_in (keeps_out hx)
    | exact keeps_in (keeps_out hs)
    | exact keeps_in (keeps_out ht)
    | (refine keeps_in ?_; dsimp only; exact keeps_out (by with_reducible assumption))
    | dsimp only

theorem refQualified_keeps {z : State} {s : State} (hs : Keeps z s) (us : Nat) : Keeps z (State.refQualified s us) := by
  unfold State.refQualified
  repeat' first
    | with_reducible assumption
    | (unfold x; clear x)
    | (extract_lets -merge -useContext +onlyGivenNames x; first | (refine keeps_cut (s0 := z) x ?_ (fun hx => ?_); rotate_left; clear_value x) | clear_value x)
    | with_reducible apply refRestored_keeps
    | split
    | exact keeps_in (keeps_out hx)
    | exact keeps_in (keeps_out hs)
    | (refine keeps_in ?_; dsimp only; exact keeps_out (by with_reducible assumption))
    | dsimp only

theorem earlyRelease_keeps {z : State} {s : State} (hs : Keeps z s) : Keeps z (State.earlyRelease s) := by
  unfold State.earlyRelease
  repeat' first
    | with_reducible assumption
    | (unfold x; clear x)
    | (extract_lets -merge -useContext +onlyGivenNames x; first | (refine keeps_cut (s0 := z) x ?_ (fun hx => ?_); rotate_left; clear_value x) | clear_value x)
    | split
    | exact keeps_in (keeps_out hx)
    | exact keeps_in (keeps_out hs)
    | (refine keeps_in ?_; dsimp only; exact keeps_out (by with_reducible assumption))
    | dsimp only

theorem wipeComplete_keeps {z : State} {s : State} (hs : Keeps z s) : Keeps z (State.wipeComplete s) := by
  unfold State.wipeComplete
  split
  · exact hs
  · extract_lets t
    have h1 : Keeps z t := by
      unfold t
      split
      · exact hs
      · exact keeps_in { keeps_out (lifeWipe_keeps hs _) with
          fuse := fusesKept_trans (keeps_out hs).fuse (fusesKept_burnWiped _ (keeps_out hs).comp)
          comp := companionsOk_burnWiped _ }
    clear_value t
    exact keeps_in (keeps_out h1)

theorem mapOk_or (m : BitVec 32) : mapOk (0xF1000000 ||| m) := by
  unfold mapOk
  ext i
  simp only [BitVec.getElem_and, BitVec.getElem_or]
  cases (0xF1000000#32)[i] <;> simp

theorem optionsLoaded_keeps {z : State} {s : State} (hs : Keeps z s) (strapA : Bool) (strapB : Bool) (optsOk : Bool) (lifeOk : Bool) (keysOk : Bool) : Keeps z (State.optionsLoaded s strapA strapB optsOk lifeOk keysOk) := by
  unfold State.optionsLoaded
  split
  · exact hs
  · extract_lets eighth fail u b o s1 s2 opt c s3 p4 s4 p5 s5
    have h1 : Keeps z s1 := keeps_in { keeps_out hs with
      fuse := fusesKept_trans (keeps_out hs).fuse (show fusesKept s.otp { s.otp with keysBad := !keysOk } from fusesKept_refl s.otp)
      comp := (keeps_out hs).comp }
    have h2 : Keeps z s2 := put_keeps h1 _ _ _ _
    have h3 : Keeps z s3 := keeps_sec h2 (Nat.le_refl _) (mapOk_or _)
    exact otpShow_keeps (setPort_keeps (setPort_keeps h3 _ _) _ _)

theorem trimDone_keeps {z : State} {s : State} (hs : Keeps z s) : Keeps z (State.trimDone s) := by
  unfold State.trimDone
  repeat' first
    | with_reducible assumption
    | (unfold x; clear x)
    | (extract_lets -merge -useContext +onlyGivenNames x; first | (refine keeps_cut (s0 := z) x ?_ (fun hx => ?_); rotate_left; clear_value x) | clear_value x)
    | split
    | exact keeps_in (keeps_out hx)
    | exact keeps_in (keeps_out hs)
    | (refine keeps_in ?_; dsimp only; exact keeps_out (by with_reducible assumption))
    | dsimp only

theorem nrstReleased_keeps {z : State} {s : State} (hs : Keeps z s) : Keeps z (State.nrstReleased s) := by
  unfold State.nrstReleased
  repeat' first
    | with_reducible assumption
    | (unfold x; clear x)
    | (extract_lets -merge -useContext +onlyGivenNames x; first | (refine keeps_cut (s0 := z) x ?_ (fun hx => ?_); rotate_left; clear_value x) | clear_value x)
    | split
    | exact keeps_in (keeps_out hx)
    | exact keeps_in (keeps_out hs)
    | (refine keeps_in ?_; dsimp only; exact keeps_out (by with_reducible assumption))
    | dsimp only

theorem authenticateDone_keeps {z : State} {s : State} (hs : Keeps z s) (romOk : Bool) : Keeps z (State.authenticateDone s romOk) := by
  unfold State.authenticateDone
  repeat' first
    | with_reducible assumption
    | (unfold x; clear x)
    | (extract_lets -merge -useContext +onlyGivenNames x; first | (refine keeps_cut (s0 := z) x ?_ (fun hx => ?_); rotate_left; clear_value x) | clear_value x)
    | with_reducible apply slotShow_keeps
    | with_reducible apply alarm_keeps
    | with_reducible apply put_keeps
    | with_reducible refine keeps_foldl ?_ (fun t b ht => ?_)
    | split
    | exact keeps_in (keeps_out hx)
    | exact keeps_in (keeps_out hs)
    | exact keeps_in (keeps_out ht)
    | (refine keeps_in ?_; dsimp only; exact keeps_out (by with_reducible assumption))
    | dsimp only

theorem enterMothball_keeps {z : State} {s : State} (hs : Keeps z s) (k : Nat) : Keeps z (State.enterMothball s k) := by
  unfold State.enterMothball
  repeat' first
    | with_reducible assumption
    | (unfold x; clear x)
    | (extract_lets -merge -useContext +onlyGivenNames x; first | (refine keeps_cut (s0 := z) x ?_ (fun hx => ?_); rotate_left; clear_value x) | clear_value x)
    | with_reducible apply setEng_keeps
    | with_reducible apply put_keeps
    | with_reducible apply exRefresh_keeps
    | with_reducible apply alarm_keeps
    | with_reducible refine keeps_foldl ?_ (fun t b ht => ?_)
    | split
    | exact keeps_in (keeps_out hx)
    | exact keeps_in (keeps_out hs)
    | exact keeps_in (keeps_out ht)
    | (refine keeps_in ?_; dsimp only; exact keeps_out (by with_reducible assumption))
    | dsimp only

theorem resetRecord_keeps {z : State} {s : State} (hs : Keeps z s) : Keeps z (State.resetRecord s) := by
  unfold State.resetRecord
  extract_lets t
  have h : Keeps z t := ledger_keeps hs _ _ _ _ _
  clear_value t
  split
  · rename_i e
    refine keeps_staged h ?_
    have := (keeps_out h).stag
    unfold stagedOk at *
    simp only [List.length_append, List.length_drop]
    omega
  · exact h

theorem enterReady_keeps {z : State} {s : State} (hs : Keeps z s) : Keeps z (State.enterReady s) := by
  unfold State.enterReady
  extract_lets opt1 u s1 s2 s3 s4 s5 s6 s7 s8 s9 s10 u2 s11 s12 s13
  have h1 : Keeps z s1 := keeps_in (keeps_out hs)
  have h2 : Keeps z s2 := keeps_foldl h1 fun t n ht => setRing_keeps ht n
    (r := { t.ring n with en := true, world := bit opt1 n, head := 0, tail := 0 }) (ringOk_start _ (ring_ok ht n).1)
  have h3 : Keeps z s3 := keeps_foldl h2 fun t _ ht => alarmFlush_keeps ht
  have h4 : Keeps z s4 := put_keeps (put_keeps h3 _ _ _ _) _ _ _ _
  have h5 : Keeps z s5 := resetRecord_keeps h4
  have h6 : Keeps z s6 := keeps_ite (ledger_keeps h5 _ _ _ _ _) h5
  have h7 : Keeps z s7 := keeps_ite (alarm_keeps h6 _ _ _ _ _ _) h6
  have h8 : Keeps z s8 := keeps_foldl h7 fun t _ ht => alarm_keeps ht _ _ _ _ _ _
  have h9 : Keeps z s9 := keeps_ite (alarm_keeps h8 _ _ _ _ _ _) h8
  have h10 : Keeps z s10 := keeps_ite (ledger_keeps h9 _ _ _ _ _) h9
  clear_value s10
  have h11 : Keeps z s11 := keeps_in (keeps_out h10)
  clear_value s11
  have h12 : Keeps z s12 := keeps_ite (enterMothball_keeps h11 _) h11
  have h13 : Keeps z s13 := keeps_ite (alarm_keeps h12 _ _ _ _ _ _) h12
  exact raise_keeps (vengNear_keeps h13 _) _

theorem readRecords_keeps {z : State} {s : State} (hs : Keeps z s) : Keeps z (State.readRecords s) := by
  unfold State.readRecords
  repeat' first
    | with_reducible assumption
    | (unfold x; clear x)
    | with_reducible refine keeps_snd (by with_reducible assumption) ?_
    | with_reducible refine keeps_fst (by with_reducible assumption) ?_
    | (extract_lets -merge -useContext +onlyGivenNames x; first | (refine keeps_cut (s0 := z) x ?_ (fun hx => ?_); rotate_left; clear_value x) | (refine keeps_cut (s0 := z) x.1 ?_ (fun hx => ?_); rotate_left; clear_value x) | (refine keeps_cut (s0 := z) x.2 ?_ (fun hx => ?_); rotate_left; clear_value x) | clear_value x)
    | with_reducible apply setEng_keeps
    | with_reducible apply put_keeps
    | with_reducible refine keeps_foldl ?_ (fun t b ht => ?_)
    | with_reducible apply cellRetired_keeps
    | with_reducible refine keeps_foldl_fst ?_ (fun t b ht => ?_)
    | with_reducible refine keeps_foldl_snd ?_ (fun t b ht => ?_)
    | split
    | exact keeps_in (keeps_out hx)
    | exact keeps_in (keeps_out hs)
    | exact keeps_in (keeps_out ht)
    | (refine keeps_in ?_; dsimp only; exact keeps_out (by with_reducible assumption))
    | dsimp only

theorem vault_keeps {z : State} {s : State} (hs : Keeps z s) : Keeps z (State.vault s) := by
  unfold State.vault
  repeat' first
    | with_reducible assumption
    | (unfold x; clear x)
    | (extract_lets -merge -useContext +onlyGivenNames x; first | (refine keeps_cut (s0 := z) x ?_ (fun hx => ?_); rotate_left; clear_value x) | clear_value x)
    | with_reducible apply put_keeps
    | with_reducible refine keeps_foldl ?_ (fun t b ht => ?_)
    | split
    | exact keeps_in (keeps_out hx)
    | exact keeps_in (keeps_out hs)
    | exact keeps_in (keeps_out ht)
    | (refine keeps_in ?_; dsimp only; exact keeps_out (by with_reducible assumption))
    | dsimp only

theorem supervisorReset_keeps {z : State} {s : State} (hs : Keeps z s) : Keeps z (State.supervisorReset s) := by
  unfold State.supervisorReset
  repeat' first
    | with_reducible assumption
    | (unfold x; clear x)
    | (extract_lets -merge -useContext +onlyGivenNames x; first | (refine keeps_cut (s0 := z) x ?_ (fun hx => ?_); rotate_left; clear_value x) | clear_value x)
    | with_reducible apply alarm_keeps
    | split
    | exact keeps_in (keeps_out hx)
    | exact keeps_in (keeps_out hs)
    | (refine keeps_in ?_; dsimp only; exact keeps_out (by with_reducible assumption))
    | dsimp only

theorem firmwareLoaded_keeps {z : State} {s : State} (hs : Keeps z s) : Keeps z (State.firmwareLoaded s) := by
  unfold State.firmwareLoaded
  repeat' first
    | with_reducible assumption
    | (unfold x; clear x)
    | (extract_lets -merge -useContext +onlyGivenNames x; first | (refine keeps_cut (s0 := z) x ?_ (fun hx => ?_); rotate_left; clear_value x) | have _ : Mram := x | clear_value x)
    | with_reducible apply supervisorReset_keeps
    | with_reducible apply vault_keeps
    | with_reducible apply readRecords_keeps
    | with_reducible apply inc_keeps
    | with_reducible apply alarm_keeps
    | with_reducible apply enterReady_keeps
    | with_reducible apply exRefresh_keeps
    | with_reducible apply setEng_keeps
    | with_reducible refine keeps_foldl ?_ (fun t b ht => ?_)
    | with_reducible refine keeps_foldl_fst ?_ (fun t b ht => ?_)
    | with_reducible refine keeps_foldl_snd ?_ (fun t b ht => ?_)
    | split
    | exact keeps_in (keeps_out hx)
    | exact keeps_in (keeps_out hs)
    | exact keeps_in (keeps_out ht)
    | (refine keeps_in ?_; dsimp only; exact keeps_out (by with_reducible assumption))
    | dsimp only

theorem testDone_keeps {z s : State} (hs : Keeps z s) (pass : Bool) (ms : F32) : Keeps z (s.testDone pass ms) := by
  unfold State.testDone
  extract_lets s1 left mask m s2
  have h1 : Keeps z s1 := engineTestDone_keeps hs _ _
  have h2 : Keeps z s2 := keeps_ite h1 (keeps_mram h1 (Nat.le_refl _))
  clear_value s1 s2
  have h3 : Keeps z { s2 with up := { s2.up with mothball := 4 } } := keeps_in (keeps_out h2)
  exact keeps_ite h2 (keeps_ite (enterReady_keeps h2) (keeps_ite (enterReady_keeps h3) h2))

theorem refLossStop_keeps {z : State} {s : State} (hs : Keeps z s) : Keeps z (State.refLossStop s) := by
  unfold State.refLossStop
  repeat' first
    | with_reducible assumption
    | (unfold x; clear x)
    | (extract_lets -merge -useContext +onlyGivenNames x; first | (refine keeps_cut (s0 := z) x ?_ (fun hx => ?_); rotate_left; clear_value x) | have _ : Sto := x | clear_value x)
    | with_reducible apply alarm_keeps
    | with_reducible refine setSto_keeps ?_ (fun _ hq => hq)
    | with_reducible apply stopDevice_keeps
    | with_reducible apply driveStage_keeps
    | with_reducible apply setLink_keeps
    | with_reducible apply ringTo_keeps
    | with_reducible apply setFbX_keeps
    | with_reducible apply put_keeps
    | with_reducible refine keeps_foldl ?_ (fun t b ht => ?_)
    | with_reducible apply setSto_keeps
    | with_reducible apply refLoss_keeps
    | with_reducible refine keeps_foldl_fst ?_ (fun t b ht => ?_)
    | with_reducible refine keeps_foldl_snd ?_ (fun t b ht => ?_)
    | split
    | exact keeps_in (keeps_out hx)
    | exact keeps_in (keeps_out hs)
    | exact keeps_in (keeps_out ht)
    | (refine keeps_in ?_; dsimp only; exact keeps_out (by with_reducible assumption))
    | dsimp only

theorem refLoss_keeps {z : State} {s : State} (hs : Keeps z s) : Keeps z (State.refLoss s) := by
  unfold State.refLoss
  repeat' first
    | with_reducible assumption
    | (unfold x; clear x)
    | (extract_lets -merge -useContext +onlyGivenNames x; first | (refine keeps_cut (s0 := z) x ?_ (fun hx => ?_); rotate_left; clear_value x) | clear_value x)
    | with_reducible apply doReset_keeps
    | with_reducible apply inc_keeps
    | with_reducible apply refLossStop_keeps
    | split
    | exact keeps_in (keeps_out hx)
    | exact keeps_in (keeps_out hs)
    | (refine keeps_in ?_; dsimp only; exact keeps_out (by with_reducible assumption))
    | dsimp only

theorem wbcountAdvance_keeps {z : State} {s : State} (hs : Keeps z s) : Keeps z (State.wbcountAdvance s) := by
  unfold State.wbcountAdvance
  repeat' first
    | with_reducible assumption
    | (unfold x; clear x)
    | (extract_lets -merge -useContext +onlyGivenNames x; first | (refine keeps_cut (s0 := z) x ?_ (fun hx => ?_); rotate_left; clear_value x) | clear_value x)
    | with_reducible apply incWrap_keeps
    | with_reducible apply elapse_keeps
    | split
    | exact keeps_in (keeps_out hx)
    | exact keeps_in (keeps_out hs)
    | (refine keeps_in ?_; dsimp only; exact keeps_out (by with_reducible assumption))
    | dsimp only

theorem rclear_keeps {z : State} {s : State} (hs : Keeps z s) : Keeps z (State.rclear s).2 := by
  unfold State.rclear
  repeat' first
    | with_reducible assumption
    | (unfold x; clear x)
    | with_reducible refine keeps_snd (by with_reducible assumption) ?_
    | with_reducible refine keeps_fst (by with_reducible assumption) ?_
    | (extract_lets -merge -useContext +onlyGivenNames x; first | (refine keeps_cut (s0 := z) x ?_ (fun hx => ?_); rotate_left; clear_value x) | (refine keeps_cut (s0 := z) x.1 ?_ (fun hx => ?_); rotate_left; clear_value x) | (refine keeps_cut (s0 := z) x.2 ?_ (fun hx => ?_); rotate_left; clear_value x) | have _ : Sto := x | clear_value x)
    | with_reducible refine setSto_keeps ?_ (fun _ hq => hq)
    | split
    | exact keeps_in (keeps_out hx)
    | exact keeps_in (keeps_out hs)
    | (refine keeps_in ?_; dsimp only; exact keeps_out (by with_reducible assumption))
    | dsimp only

end Sys2Proof.Laws
end

