-- ==== Sys2Proof/Laws/Power.lean ====
section
/-! SUPPORT. What the operations of `Machine/Power.lean` keep. -/
namespace Sys2Proof.Laws
open Machine Safety

theorem wingbeatWrite_keeps {z : State} {s : State} (hs : Keeps z s) (v : Nat) : Keeps z (State.wingbeatWrite s v).2 := by
  unfold State.wingbeatWrite
  repeat' first
    | with_reducible assumption
    | (unfold x; clear x)
    | with_reducible refine keeps_snd (by with_reducible assumption) ?_
    | with_reducible refine keeps_fst (by with_reducible assumption) ?_
    | (extract_lets -merge -useContext +onlyGivenNames x; first | (refine keeps_cut (s0 := z) x ?_ (fun hx => ?_); rotate_left; clear_value x) | (refine keeps_cut (s0 := z) x.1 ?_ (fun hx => ?_); rotate_left; clear_value x) | (refine keeps_cut (s0 := z) x.2 ?_ (fun hx => ?_); rotate_left; clear_value x) | clear_value x)
    | with_reducible apply put_keeps
    | with_reducible refine keeps_foldl ?_ (fun t b ht => ?_)
    | (with_reducible refine keeps_foldl_fst ?_ (fun t b ht => ?_); rotate_left; rcases t with ⟨t, r⟩; dsimp -zeta only at ht ⊢)
    | (with_reducible refine keeps_foldl_snd ?_ (fun t b ht => ?_); rotate_left; rcases t with ⟨r, t⟩; dsimp -zeta only at ht ⊢)
    | split
    | exact keeps_in (keeps_out hx)
    | exact keeps_in (keeps_out hs)
    | exact keeps_in (keeps_out ht)
    | (refine keeps_in ?_; dsimp only; exact keeps_out (by with_reducible assumption))
    | dsimp only

theorem dutyWrite_keeps {z : State} {s : State} (hs : Keeps z s) (v : Nat) : Keeps z (State.dutyWrite s v).2 := by
  unfold State.dutyWrite
  repeat' first
    | with_reducible assumption
    | (unfold x; clear x)
    | with_reducible refine keeps_snd (by with_reducible assumption) ?_
    | with_reducible refine keeps_fst (by with_reducible assumption) ?_
    | (extract_lets -merge -useContext +onlyGivenNames x; first | (refine keeps_cut (s0 := z) x ?_ (fun hx => ?_); rotate_left; clear_value x) | (refine keeps_cut (s0 := z) x.1 ?_ (fun hx => ?_); rotate_left; clear_value x) | (refine keeps_cut (s0 := z) x.2 ?_ (fun hx => ?_); rotate_left; clear_value x) | clear_value x)
    | with_reducible apply put_keeps
    | with_reducible apply exRefresh_keeps
    | with_reducible apply setTaskSt_keeps
    | with_reducible refine keeps_foldl ?_ (fun t b ht => ?_)
    | with_reducible refine keeps_foldl_fst ?_ (fun t b ht => ?_)
    | with_reducible refine keeps_foldl_snd ?_ (fun t b ht => ?_)
    | split
    | exact keeps_in (keeps_out hx)
    | exact keeps_in (keeps_out hs)
    | exact keeps_in (keeps_out ht)
    | (refine keeps_in ?_; dsimp only; exact keeps_out (by with_reducible assumption))
    | dsimp only

theorem setpointWrite_keeps {z : State} {s : State} (hs : Keeps z s) (v : Nat) : Keeps z (State.setpointWrite s v).2 := by
  unfold State.setpointWrite
  repeat' first
    | with_reducible assumption
    | (unfold x; clear x)
    | with_reducible refine keeps_snd (by with_reducible assumption) ?_
    | with_reducible refine keeps_fst (by with_reducible assumption) ?_
    | (extract_lets -merge -useContext +onlyGivenNames x; first | (refine keeps_cut (s0 := z) x ?_ (fun hx => ?_); rotate_left; clear_value x) | (refine keeps_cut (s0 := z) x.1 ?_ (fun hx => ?_); rotate_left; clear_value x) | (refine keeps_cut (s0 := z) x.2 ?_ (fun hx => ?_); rotate_left; clear_value x) | clear_value x)
    | with_reducible apply exRefresh_keeps
    | with_reducible apply setpointMove_keeps
    | with_reducible apply put_keeps
    | split
    | exact keeps_in (keeps_out hx)
    | exact keeps_in (keeps_out hs)
    | (refine keeps_in ?_; dsimp only; exact keeps_out (by with_reducible assumption))
    | dsimp only

theorem setpointMoveDone_keeps {z : State} {s : State} (hs : Keeps z s) : Keeps z (State.setpointMoveDone s) := by
  unfold State.setpointMoveDone
  repeat' first
    | with_reducible assumption
    | (unfold x; clear x)
    | (extract_lets -merge -useContext +onlyGivenNames x; first | (refine keeps_cut (s0 := z) x ?_ (fun hx => ?_); rotate_left; clear_value x) | clear_value x)
    | with_reducible apply exRefresh_keeps
    | with_reducible apply vengNear_keeps
    | with_reducible apply put_keeps
    | split
    | exact keeps_in (keeps_out hx)
    | exact keeps_in (keeps_out hs)
    | (refine keeps_in ?_; dsimp only; exact keeps_out (by with_reducible assumption))
    | dsimp only

theorem vengMiss_keeps {z : State} {s : State} (hs : Keeps z s) : Keeps z (State.vengMiss s) := by
  unfold State.vengMiss
  repeat' first
    | with_reducible assumption
    | (unfold x; clear x)
    | (extract_lets -merge -useContext +onlyGivenNames x; first | (refine keeps_cut (s0 := z) x ?_ (fun hx => ?_); rotate_left; clear_value x) | clear_value x)
    | with_reducible apply vidDrive_keeps
    | with_reducible apply put_keeps
    | with_reducible apply exRefresh_keeps
    | with_reducible apply alarm_keeps
    | with_reducible apply vengAny_keeps
    | split
    | exact keeps_in (keeps_out hx)
    | exact keeps_in (keeps_out hs)
    | (refine keeps_in ?_; dsimp only; exact keeps_out (by with_reducible assumption))
    | dsimp only

theorem viddioWrite_keeps {z : State} {s : State} (hs : Keeps z s) (v : Nat) : Keeps z (State.viddioWrite s v).2 := by
  unfold State.viddioWrite
  repeat' first
    | with_reducible assumption
    | (unfold x; clear x)
    | with_reducible refine keeps_snd (by with_reducible assumption) ?_
    | with_reducible refine keeps_fst (by with_reducible assumption) ?_
    | (extract_lets -merge -useContext +onlyGivenNames x; first | (refine keeps_cut (s0 := z) x ?_ (fun hx => ?_); rotate_left; clear_value x) | (refine keeps_cut (s0 := z) x.1 ?_ (fun hx => ?_); rotate_left; clear_value x) | (refine keeps_cut (s0 := z) x.2 ?_ (fun hx => ?_); rotate_left; clear_value x) | clear_value x)
    | with_reducible apply vidDrive_keeps
    | with_reducible apply put_keeps
    | split
    | exact keeps_in (keeps_out hx)
    | exact keeps_in (keeps_out hs)
    | (refine keeps_in ?_; dsimp only; exact keeps_out (by with_reducible assumption))
    | dsimp only

theorem beginExit_keeps {z : State} {s : State} (hs : Keeps z s) (c : Nat) : Keeps z (State.beginExit s c) := by
  unfold State.beginExit
  repeat' first
    | with_reducible assumption
    | (unfold x; clear x)
    | (extract_lets -merge -useContext +onlyGivenNames x; first | (refine keeps_cut (s0 := z) x ?_ (fun hx => ?_); rotate_left; clear_value x) | clear_value x)
    | with_reducible apply put_keeps
    | split
    | exact keeps_in (keeps_out hx)
    | exact keeps_in (keeps_out hs)
    | (refine keeps_in ?_; dsimp only; exact keeps_out (by with_reducible assumption))
    | dsimp only

theorem requestState_keeps {z : State} {s : State} (hs : Keeps z s) (t : Nat) : Keeps z (State.requestState s t) := by
  unfold State.requestState
  repeat' first
    | with_reducible assumption
    | (unfold x; clear x)
    | (extract_lets -merge -useContext +onlyGivenNames x; first | (refine keeps_cut (s0 := z) x ?_ (fun hx => ?_); rotate_left; clear_value x) | clear_value x)
    | split
    | exact keeps_in (keeps_out hx)
    | exact keeps_in (keeps_out hs)
    | (refine keeps_in ?_; dsimp only; exact keeps_out (by with_reducible assumption))
    | dsimp only

theorem psreq_keeps {z : State} {s : State} (hs : Keeps z s) (v : Nat) : Keeps z (State.psreq s v).2 := by
  unfold State.psreq
  repeat' first
    | with_reducible assumption
    | (unfold x; clear x)
    | with_reducible refine keeps_snd (by with_reducible assumption) ?_
    | with_reducible refine keeps_fst (by with_reducible assumption) ?_
    | (extract_lets -merge -useContext +onlyGivenNames x; first | (refine keeps_cut (s0 := z) x ?_ (fun hx => ?_); rotate_left; clear_value x) | (refine keeps_cut (s0 := z) x.1 ?_ (fun hx => ?_); rotate_left; clear_value x) | (refine keeps_cut (s0 := z) x.2 ?_ (fun hx => ?_); rotate_left; clear_value x) | clear_value x)
    | with_reducible apply beginExit_keeps
    | with_reducible apply requestState_keeps
    | split
    | exact keeps_in (keeps_out hx)
    | exact keeps_in (keeps_out hs)
    | (refine keeps_in ?_; dsimp only; exact keeps_out (by with_reducible assumption))
    | dsimp only

theorem abortEntry_keeps {z : State} {s : State} (hs : Keeps z s) (c : Nat) : Keeps z (State.abortEntry s c) := by
  unfold State.abortEntry
  repeat' first
    | with_reducible assumption
    | (unfold x; clear x)
    | (extract_lets -merge -useContext +onlyGivenNames x; first | (refine keeps_cut (s0 := z) x ?_ (fun hx => ?_); rotate_left; clear_value x) | clear_value x)
    | with_reducible apply alarm_keeps
    | with_reducible apply beginExit_keeps
    | split
    | exact keeps_in (keeps_out hx)
    | exact keeps_in (keeps_out hs)
    | (refine keeps_in ?_; dsimp only; exact keeps_out (by with_reducible assumption))
    | dsimp only

theorem powerEntry_keeps {z : State} {s : State} (hs : Keeps z s) : Keeps z (State.powerEntry s) := by
  unfold State.powerEntry
  repeat' first
    | with_reducible assumption
    | (unfold x; clear x)
    | with_reducible refine keeps_snd (by with_reducible assumption) ?_
    | with_reducible refine keeps_fst (by with_reducible assumption) ?_
    | (extract_lets -merge -useContext +onlyGivenNames x; first | (refine keeps_cut (s0 := z) x ?_ (fun hx => ?_); rotate_left; clear_value x) | (refine keeps_cut (s0 := z) x.1 ?_ (fun hx => ?_); rotate_left; clear_value x) | (refine keeps_cut (s0 := z) x.2 ?_ (fun hx => ?_); rotate_left; clear_value x) | have _ : Mram := x | clear_value x)
    | with_reducible apply abortEntry_keeps
    | with_reducible apply ledgerFlush_keeps
    | with_reducible apply alarm_keeps
    | with_reducible apply commitCounters_keeps
    | with_reducible apply mramWrite_keeps
    | with_reducible apply put_keeps
    | with_reducible apply vengNear_keeps
    | with_reducible apply vidDrive_keeps
    | with_reducible apply exRefresh_keeps
    | with_reducible apply raise_keeps
    | split
    | exact keeps_in (keeps_out hx)
    | exact keeps_in (keeps_out hs)
    | (refine keeps_in ?_; dsimp only; exact keeps_out (by with_reducible assumption))
    | dsimp only

theorem wake_keeps {z : State} {s : State} (hs : Keeps z s) (w : WakeSrc) : Keeps z (State.wake s w) := by
  unfold State.wake
  repeat' first
    | with_reducible assumption
    | (unfold x; clear x)
    | (extract_lets -merge -useContext +onlyGivenNames x; first | (refine keeps_cut (s0 := z) x ?_ (fun hx => ?_); rotate_left; clear_value x) | clear_value x)
    | with_reducible apply put_keeps
    | with_reducible apply abortEntry_keeps
    | with_reducible apply doReset_keeps
    | with_reducible apply beginExit_keeps
    | split
    | exact keeps_in (keeps_out hx)
    | exact keeps_in (keeps_out hs)
    | (refine keeps_in ?_; dsimp only; exact keeps_out (by with_reducible assumption))
    | dsimp only

theorem setpointBack_keeps {z : State} {s : State} (hs : Keeps z s) : Keeps z (State.setpointBack s) := by
  unfold State.setpointBack
  repeat' first
    | with_reducible assumption
    | (unfold x; clear x)
    | (extract_lets -merge -useContext +onlyGivenNames x; first | (refine keeps_cut (s0 := z) x ?_ (fun hx => ?_); rotate_left; clear_value x) | clear_value x)
    | with_reducible apply vidDrive_keeps
    | with_reducible apply alarm_keeps
    | with_reducible apply put_keeps
    | with_reducible apply vengNear_keeps
    | with_reducible apply setpointMove_keeps
    | split
    | exact keeps_in (keeps_out hx)
    | exact keeps_in (keeps_out hs)
    | (refine keeps_in ?_; dsimp only; exact keeps_out (by with_reducible assumption))
    | dsimp only

theorem cocoonExit_keeps {z : State} {s : State} (hs : Keeps z s) (ms : Nat) : Keeps z (State.cocoonExit s ms) := by
  unfold State.cocoonExit
  extract_lets s1 s2 ex s3 s4 s5 c5 s6 s7 s8
  have h2 : Keeps z s2 := put_keeps (elapse_keeps hs _) _ _ _ _
  clear_value s2
  have h3 : Keeps z s3 := keeps_in { keeps_out h2 with mem := rfl, dup := fun _ => Nat.zero_le _ }
  clear_value s3
  have h4 : Keeps z s4 := keeps_foldl h3 fun t n ht => setRing_keeps ht n (r := { t.ring n with head := 0, tail := 0 })
    ⟨(ring_ok ht n).1, fun _ => (ringOk_start _ (ring_ok ht n).1).2 rfl⟩
  clear_value s4
  have h5 : Keeps z s5 := keeps_foldl h4 fun t u ht => keeps_ite (put_keeps ht _ _ _ _) ht
  have h5 : Keeps z c5 := keeps_foldl h5 fun t n ht => keeps_ite (canTo_keeps (setCan_keeps ht _ _) _ _) ht
  have h6 : Keeps z s6 := keeps_foldl h5 fun t n ht => keeps_ite (fbMode_keeps (fbMode_keeps ht _ _) _ _) ht
  have h7 : Keeps z s7 := keeps_foldl h6 fun t x ht => keeps_ite (put_keeps ht _ _ _ _) ht
  have h8 : Keeps z s8 := keeps_foldl h7 fun t x ht => put_keeps (setTask_keeps ht _ _) _ _ _ _
  exact exRefresh_keeps h8

theorem fbBack_keeps {z : State} {s : State} (hs : Keeps z s) (n : Nat) : Keeps z (State.fbBack s n) := by
  unfold State.fbBack
  split
  · exact setFbX_keeps (put_keeps (put_keeps (put_keeps hs _ _ _ _) _ _ _ _) _ _ _ _) _ _
  · exact hs
theorem sdBack_keeps {z : State} {s : State} (hs : Keeps z s) (k : Nat) : Keeps z (State.sdBack s k) := by
  unfold State.sdBack
  split
  · exact setSdX_keeps (put_keeps hs _ _ _ _) _ _
  · exact hs
theorem ringBack_keeps {z : State} {s : State} (hs : Keeps z s) (r : Nat) : Keeps z (State.ringBack s r) := by
  unfold State.ringBack
  split
  · exact setLink_keeps (ringTo_keeps hs _ _) _ _
  · exact hs

theorem flightBack_keeps {z : State} {s : State} (hs : Keeps z s) (frm : Nat) : Keeps z (State.flightBack s frm) := by
  unfold State.flightBack
  repeat' first
    | with_reducible assumption
    | (unfold x; clear x)
    | (extract_lets -merge -useContext +onlyGivenNames x; first | (refine keeps_cut (s0 := z) x ?_ (fun hx => ?_); rotate_left; clear_value x) | clear_value x)
    | with_reducible apply fbBack_keeps
    | with_reducible apply sdBack_keeps
    | with_reducible apply ringBack_keeps
    | with_reducible apply put_keeps
    | with_reducible apply setLink_keeps
    | with_reducible apply ringTo_keeps
    | with_reducible refine keeps_foldl ?_ (fun t b ht => ?_)
    | with_reducible apply setSdX_keeps
    | with_reducible refine keeps_foldl_fst ?_ (fun t b ht => ?_)
    | with_reducible refine keeps_foldl_snd ?_ (fun t b ht => ?_)
    | split
    | exact keeps_in (keeps_out hx)
    | exact keeps_in (keeps_out hs)
    | exact keeps_in (keeps_out ht)
    | (refine keeps_in ?_; dsimp only; exact keeps_out (by with_reducible assumption))
    | dsimp only

theorem wakeExitDone_keeps {z : State} {s : State} (hs : Keeps z s) (crcOk : Bool) (ms : Nat) : Keeps z (State.wakeExitDone s crcOk ms) := by
  unfold State.wakeExitDone
  repeat' first
    | with_reducible assumption
    | (unfold x; clear x)
    | (extract_lets -merge -useContext +onlyGivenNames x; first | (refine keeps_cut (s0 := z) x ?_ (fun hx => ?_); rotate_left; clear_value x) | clear_value x)
    | with_reducible apply doReset_keeps
    | with_reducible apply cocoonExit_keeps
    | with_reducible apply put_keeps
    | with_reducible apply alarm_keeps
    | with_reducible apply raise_keeps
    | with_reducible apply exRefresh_keeps
    | with_reducible apply flightBack_keeps
    | with_reducible apply setpointBack_keeps
    | split
    | exact keeps_in (keeps_out hx)
    | exact keeps_in (keeps_out hs)
    | (refine keeps_in ?_; dsimp only; exact keeps_out (by with_reducible assumption))
    | dsimp only

theorem perchRetry_keeps {z : State} {s : State} (hs : Keeps z s) : Keeps z (State.perchRetry s) := by
  unfold State.perchRetry
  repeat' first
    | with_reducible assumption
    | (unfold x; clear x)
    | (extract_lets -merge -useContext +onlyGivenNames x; first | (refine keeps_cut (s0 := z) x ?_ (fun hx => ?_); rotate_left; clear_value x) | clear_value x)
    | with_reducible apply alarm_keeps
    | with_reducible apply requestState_keeps
    | split
    | exact keeps_in (keeps_out hx)
    | exact keeps_in (keeps_out hs)
    | (refine keeps_in ?_; dsimp only; exact keeps_out (by with_reducible assumption))
    | dsimp only

theorem stopCompletePerch_keeps {z : State} {s : State} (hs : Keeps z s) : Keeps z (State.stopCompletePerch s) := by
  unfold State.stopCompletePerch
  repeat' first
    | with_reducible assumption
    | (unfold x; clear x)
    | (extract_lets -merge -useContext +onlyGivenNames x; first | (refine keeps_cut (s0 := z) x ?_ (fun hx => ?_); rotate_left; clear_value x) | clear_value x)
    | with_reducible apply stopComplete_keeps
    | with_reducible apply perchRetry_keeps
    | split
    | exact keeps_in (keeps_out hx)
    | exact keeps_in (keeps_out hs)
    | (refine keeps_in ?_; dsimp only; exact keeps_out (by with_reducible assumption))
    | dsimp only

theorem throttleTo_keeps {z : State} {s : State} (hs : Keeps z s) (k : Nat) : Keeps z (State.throttleTo s k) := by
  unfold State.throttleTo
  repeat' first
    | with_reducible assumption
    | (unfold x; clear x)
    | (extract_lets -merge -useContext +onlyGivenNames x; first | (refine keeps_cut (s0 := z) x ?_ (fun hx => ?_); rotate_left; clear_value x) | clear_value x)
    | with_reducible apply alarm_keeps
    | with_reducible apply put_keeps
    | with_reducible refine keeps_foldl ?_ (fun t b ht => ?_)
    | split
    | exact keeps_in (keeps_out hx)
    | exact keeps_in (keeps_out hs)
    | exact keeps_in (keeps_out ht)
    | (refine keeps_in ?_; dsimp only; exact keeps_out (by with_reducible assumption))
    | dsimp only

theorem thermalStops_keeps {z : State} {s : State} (hs : Keeps z s) (tj : F32) : Keeps z (State.thermalStops s tj) := by
  unfold State.thermalStops
  repeat' first
    | with_reducible assumption
    | (unfold x; clear x)
    | (extract_lets -merge -useContext +onlyGivenNames x; first | (refine keeps_cut (s0 := z) x ?_ (fun hx => ?_); rotate_left; clear_value x) | have _ : Sto := x | clear_value x)
    | with_reducible refine setSto_keeps ?_ (fun _ hq => hq)
    | with_reducible apply stopDevice_keeps
    | with_reducible apply alarm_keeps
    | split
    | exact keeps_in (keeps_out hx)
    | exact keeps_in (keeps_out hs)
    | (refine keeps_in ?_; dsimp only; exact keeps_out (by with_reducible assumption))
    | dsimp only

theorem thermalSample_keeps {z : State} {s : State} (hs : Keeps z s) (reading : F32) : Keeps z (State.thermalSample s reading) := by
  unfold State.thermalSample
  repeat' first
    | with_reducible assumption
    | (unfold x; clear x)
    | (extract_lets -merge -useContext +onlyGivenNames x; first | (refine keeps_cut (s0 := z) x ?_ (fun hx => ?_); rotate_left; clear_value x) | clear_value x)
    | with_reducible apply putF_keeps
    | with_reducible apply alarm_keeps
    | with_reducible apply throttleTo_keeps
    | with_reducible apply setpointMove_keeps
    | with_reducible apply thermalStops_keeps
    | split
    | exact keeps_in (keeps_out hx)
    | exact keeps_in (keeps_out hs)
    | (refine keeps_in ?_; dsimp only; exact keeps_out (by with_reducible assumption))
    | dsimp only

theorem throttleDown_keeps {z : State} {s : State} (hs : Keeps z s) : Keeps z (State.throttleDown s) := by
  unfold State.throttleDown
  repeat' first
    | with_reducible assumption
    | (unfold x; clear x)
    | (extract_lets -merge -useContext +onlyGivenNames x; first | (refine keeps_cut (s0 := z) x ?_ (fun hx => ?_); rotate_left; clear_value x) | clear_value x)
    | with_reducible apply throttleTo_keeps
    | split
    | exact keeps_in (keeps_out hx)
    | exact keeps_in (keeps_out hs)
    | (refine keeps_in ?_; dsimp only; exact keeps_out (by with_reducible assumption))
    | dsimp only

theorem tclear_keeps {z : State} {s : State} (hs : Keeps z s) : Keeps z (State.tclear s).2 := by
  unfold State.tclear
  repeat' first
    | with_reducible assumption
    | (unfold x; clear x)
    | with_reducible refine keeps_snd (by with_reducible assumption) ?_
    | with_reducible refine keeps_fst (by with_reducible assumption) ?_
    | (extract_lets -merge -useContext +onlyGivenNames x; first | (refine keeps_cut (s0 := z) x ?_ (fun hx => ?_); rotate_left; clear_value x) | (refine keeps_cut (s0 := z) x.1 ?_ (fun hx => ?_); rotate_left; clear_value x) | (refine keeps_cut (s0 := z) x.2 ?_ (fun hx => ?_); rotate_left; clear_value x) | have _ : Sto := x | clear_value x)
    | with_reducible refine setSto_keeps ?_ (fun _ hq => hq)
    | split
    | exact keeps_in (keeps_out hx)
    | exact keeps_in (keeps_out hs)
    | (refine keeps_in ?_; dsimp only; exact keeps_out (by with_reducible assumption))
    | dsimp only

end Sys2Proof.Laws
end

