-- ==== Sys2Proof/Laws/Security.lean ====
section
/-! SUPPORT. What the operations of `Machine/Security.lean` keep. -/
namespace Sys2Proof.Laws
open Machine Safety

theorem drawNonce_keeps {z : State} {s : State} (hs : Keeps z s) (h : Nat) : Keeps z (State.drawNonce s h).2 :=
  keeps_sec hs (Nat.le_succ _) (keeps_out hs).map

theorem spend_keeps {z : State} {s : State} (hs : Keeps z s) (h : Nat) : Keeps z (State.spend s h) := by
  unfold State.spend
  repeat' first
    | with_reducible assumption
    | (unfold x; clear x)
    | with_reducible refine keeps_snd (by with_reducible assumption) ?_
    | with_reducible refine keeps_fst (by with_reducible assumption) ?_
    | (extract_lets -merge -useContext +onlyGivenNames x; first | (refine keeps_cut (s0 := z) x ?_ (fun hx => ?_); rotate_left; clear_value x) | (refine keeps_cut (s0 := z) x.1 ?_ (fun hx => ?_); rotate_left; clear_value x) | (refine keeps_cut (s0 := z) x.2 ?_ (fun hx => ?_); rotate_left; clear_value x) | have _ : Sec := x | clear_value x)
    | split
    | exact keeps_in (keeps_out hx)
    | exact keeps_in (keeps_out hs)
    | (refine keeps_in ?_; dsimp only; exact keeps_out (by with_reducible assumption))
    | dsimp only

theorem authorise_keeps {z : State} {s : State} (hs : Keeps z s) (h : Nat) (v : Nat) (msg : List Byte) (key : Nat) (sig : Nat) (must : Bool) : Keeps z (State.authorise s h v msg key sig must).2 := by
  unfold State.authorise
  repeat' first
    | with_reducible assumption
    | (unfold x; clear x)
    | with_reducible refine keeps_snd (by with_reducible assumption) ?_
    | with_reducible refine keeps_fst (by with_reducible assumption) ?_
    | (extract_lets -merge -useContext +onlyGivenNames x; first | (refine keeps_cut (s0 := z) x ?_ (fun hx => ?_); rotate_left; clear_value x) | (refine keeps_cut (s0 := z) x.1 ?_ (fun hx => ?_); rotate_left; clear_value x) | (refine keeps_cut (s0 := z) x.2 ?_ (fun hx => ?_); rotate_left; clear_value x) | clear_value x)
    | with_reducible apply alarm_keeps
    | with_reducible apply spend_keeps
    | split
    | exact keeps_in (keeps_out hx)
    | exact keeps_in (keeps_out hs)
    | (refine keeps_in ?_; dsimp only; exact keeps_out (by with_reducible assumption))
    | dsimp only

theorem authReset_keeps {z : State} {s : State} (hs : Keeps z s) (h : Nat) (v : Nat) (sig : Nat) : Keeps z (State.authReset s h v sig).2 := by
  unfold State.authReset
  repeat' first
    | with_reducible assumption
    | (unfold x; clear x)
    | with_reducible refine keeps_snd (by with_reducible assumption) ?_
    | with_reducible refine keeps_fst (by with_reducible assumption) ?_
    | (extract_lets -merge -useContext +onlyGivenNames x; first | (refine keeps_cut (s0 := z) x ?_ (fun hx => ?_); rotate_left; clear_value x) | clear_value x)
    | with_reducible apply authorise_keeps
    | split
    | exact keeps_in (keeps_out hx)
    | exact keeps_in (keeps_out hs)
    | (refine keeps_in ?_; dsimp only; exact keeps_out (by with_reducible assumption))
    | dsimp only

theorem resetRequest_keeps {z : State} {s : State} (hs : Keeps z s) (h : Nat) (v : Nat) (sig : Nat) : Keeps z (State.resetRequest s h v sig).2 := by
  have h1 : Keeps z (s.authReset h v sig).2 := authReset_keeps hs h v sig
  unfold State.resetRequest
  generalize s.authReset h v sig = p at h1
  obtain ⟨ok, t⟩ := p
  dsimp only at h1 ⊢
  split
  · exact keeps_in (keeps_out h1)
  · exact h1

theorem resetExecute_keeps {z : State} {s : State} (hs : Keeps z s) : Keeps z (State.resetExecute s) := by
  unfold State.resetExecute
  repeat' first
    | with_reducible assumption
    | (unfold x; clear x)
    | (extract_lets -merge -useContext +onlyGivenNames x; first | (refine keeps_cut (s0 := z) x ?_ (fun hx => ?_); rotate_left; clear_value x) | clear_value x)
    | with_reducible apply doReset_keeps
    | split
    | exact keeps_in (keeps_out hx)
    | exact keeps_in (keeps_out hs)
    | (refine keeps_in ?_; dsimp only; exact keeps_out (by with_reducible assumption))
    | dsimp only

theorem rstSend_keeps {z : State} {s : State} (hs : Keeps z s) (p : Nat) (data : List Byte) : Keeps z (State.rstSend s p data) := by
  unfold State.rstSend
  repeat' first
    | with_reducible assumption
    | (unfold x; clear x)
    | with_reducible refine keeps_snd (by with_reducible assumption) ?_
    | with_reducible refine keeps_fst (by with_reducible assumption) ?_
    | (extract_lets -merge -useContext +onlyGivenNames x; first | (refine keeps_cut (s0 := z) x ?_ (fun hx => ?_); rotate_left; clear_value x) | clear_value x)
    | with_reducible apply canSend_keeps
    | split
    | exact keeps_in (keeps_out hx)
    | exact keeps_in (keeps_out hs)
    | (refine keeps_in ?_; dsimp only; exact keeps_out (by with_reducible assumption))
    | dsimp only

theorem canResetRequest_keeps {z : State} {s : State} (hs : Keeps z s) (p : Nat) (f : CanRx) : Keeps z (State.canResetRequest s p f) := by
  unfold State.canResetRequest
  repeat' first
    | with_reducible assumption
    | (unfold x; clear x)
    | with_reducible refine keeps_snd (by with_reducible assumption) ?_
    | with_reducible refine keeps_fst (by with_reducible assumption) ?_
    | (extract_lets -merge -useContext +onlyGivenNames x; first | (refine keeps_cut (s0 := z) x ?_ (fun hx => ?_); rotate_left; clear_value x) | (refine keeps_cut (s0 := z) x.1 ?_ (fun hx => ?_); rotate_left; clear_value x) | (refine keeps_cut (s0 := z) x.2 ?_ (fun hx => ?_); rotate_left; clear_value x) | clear_value x)
    | with_reducible apply drawNonce_keeps
    | with_reducible apply rstSend_keeps
    | with_reducible apply setCan_keeps
    | split
    | exact keeps_in (keeps_out hx)
    | exact keeps_in (keeps_out hs)
    | (refine keeps_in ?_; dsimp only; exact keeps_out (by with_reducible assumption))
    | dsimp only

theorem canResetSignature_keeps {z : State} {s : State} (hs : Keeps z s) (p : Nat) (f : CanRx) : Keeps z (State.canResetSignature s p f) := by
  unfold State.canResetSignature
  repeat' first
    | with_reducible assumption
    | (unfold x; clear x)
    | with_reducible refine keeps_snd (by with_reducible assumption) ?_
    | with_reducible refine keeps_fst (by with_reducible assumption) ?_
    | (extract_lets -merge -useContext +onlyGivenNames x; first | (refine keeps_cut (s0 := z) x ?_ (fun hx => ?_); rotate_left; clear_value x) | (refine keeps_cut (s0 := z) x.1 ?_ (fun hx => ?_); rotate_left; clear_value x) | (refine keeps_cut (s0 := z) x.2 ?_ (fun hx => ?_); rotate_left; clear_value x) | clear_value x)
    | with_reducible apply setCan_keeps
    | with_reducible apply authReset_keeps
    | with_reducible apply rstSend_keeps
    | split
    | exact keeps_in (keeps_out hx)
    | exact keeps_in (keeps_out hs)
    | (refine keeps_in ?_; dsimp only; exact keeps_out (by with_reducible assumption))
    | dsimp only

theorem canRemoteReset_keeps {z : State} {s : State} (hs : Keeps z s) (p : Nat) : Keeps z (State.canRemoteReset s p) := by
  unfold State.canRemoteReset
  repeat' first
    | with_reducible assumption
    | (unfold x; clear x)
    | (extract_lets -merge -useContext +onlyGivenNames x; first | (refine keeps_cut (s0 := z) x ?_ (fun hx => ?_); rotate_left; clear_value x) | clear_value x)
    | with_reducible apply doReset_keeps
    | split
    | exact keeps_in (keeps_out hx)
    | exact keeps_in (keeps_out hs)
    | (refine keeps_in ?_; dsimp only; exact keeps_out (by with_reducible assumption))
    | dsimp only

theorem fwBegin_keeps {z : State} {s : State} (hs : Keeps z s) (i : Nat) (len : Nat) (ver : Nat) : Keeps z (State.fwBegin s i len ver).2 := by
  unfold State.fwBegin
  repeat' first
    | with_reducible assumption
    | (unfold x; clear x)
    | with_reducible refine keeps_snd (by with_reducible assumption) ?_
    | with_reducible refine keeps_fst (by with_reducible assumption) ?_
    | with_reducible refine keeps_third (by with_reducible assumption) ?_
    | with_reducible refine keeps_mid (by with_reducible assumption) ?_
    | (extract_lets -merge -useContext +onlyGivenNames x; first | (refine keeps_cut (s0 := z) x ?_ (fun hx => ?_); rotate_left; clear_value x) | (refine keeps_cut (s0 := z) x.1 ?_ (fun hx => ?_); rotate_left; clear_value x) | (refine keeps_cut (s0 := z) x.2 ?_ (fun hx => ?_); rotate_left; clear_value x) | have _ : Sec := x | clear_value x)
    | with_reducible apply setSlot_keeps
    | with_reducible apply mramWrite_keeps
    | with_reducible refine keeps_foldl ?_ (fun t b ht => ?_)
    | (with_reducible refine keeps_foldl_fst ?_ (fun t b ht => ?_); rotate_left; rcases t with ⟨t, r⟩; dsimp -zeta only at ht ⊢)
    | (with_reducible refine keeps_foldl_snd ?_ (fun t b ht => ?_); rotate_left; rcases t with ⟨r, t⟩; dsimp -zeta only at ht ⊢)
    | with_reducible refine keeps_foldl_fst ?_ (fun t b ht => ?_)
    | with_reducible refine keeps_foldl_snd ?_ (fun t b ht => ?_)
    | split
    | exact keeps_in (keeps_out hx)
    | exact keeps_in (keeps_out hs)
    | exact keeps_in (keeps_out ht)
    | (refine keeps_in ?_; dsimp only; exact keeps_out (by with_reducible assumption))
    | dsimp only

theorem fwData_keeps {z : State} {s : State} (hs : Keeps z s) (off : Nat) (data : List Byte) : Keeps z (State.fwData s off data).2 := by
  unfold State.fwData
  repeat' first
    | with_reducible assumption
    | (unfold x; clear x)
    | with_reducible refine keeps_snd (by with_reducible assumption) ?_
    | with_reducible refine keeps_fst (by with_reducible assumption) ?_
    | (extract_lets -merge -useContext +onlyGivenNames x; first | (refine keeps_cut (s0 := z) x ?_ (fun hx => ?_); rotate_left; clear_value x) | (refine keeps_cut (s0 := z) x.1 ?_ (fun hx => ?_); rotate_left; clear_value x) | (refine keeps_cut (s0 := z) x.2 ?_ (fun hx => ?_); rotate_left; clear_value x) | clear_value x)
    | with_reducible apply mramWrite_keeps
    | with_reducible apply setSlot_keeps
    | split
    | exact keeps_in (keeps_out hx)
    | exact keeps_in (keeps_out hs)
    | (refine keeps_in ?_; dsimp only; exact keeps_out (by with_reducible assumption))
    | dsimp only

theorem fwFinish_keeps {z : State} {s : State} (hs : Keeps z s) (digest : Nat) (sig : Nat) : Keeps z (State.fwFinish s digest sig).2.1 := by
  unfold State.fwFinish
  repeat' first
    | with_reducible assumption
    | (unfold x; clear x)
    | with_reducible refine keeps_snd (by with_reducible assumption) ?_
    | with_reducible refine keeps_fst (by with_reducible assumption) ?_
    | (extract_lets -merge -useContext +onlyGivenNames x; first | (refine keeps_cut (s0 := z) x ?_ (fun hx => ?_); rotate_left; clear_value x) | (refine keeps_cut (s0 := z) x.1 ?_ (fun hx => ?_); rotate_left; clear_value x) | (refine keeps_cut (s0 := z) x.2 ?_ (fun hx => ?_); rotate_left; clear_value x) | have _ : Sec := x | clear_value x)
    | with_reducible apply ledger_keeps
    | with_reducible apply setSlot_keeps
    | with_reducible apply mramWrite_keeps
    | split
    | exact keeps_in (keeps_out hx)
    | exact keeps_in (keeps_out hs)
    | (refine keeps_in ?_; dsimp only; exact keeps_out (by with_reducible assumption))
    | dsimp only

theorem lifeRequest_keeps {z : State} {s : State} (hs : Keeps z s) (h : Nat) (t : Nat) (v : Nat) (sig : Nat) : Keeps z (State.lifeRequest s h t v sig).2 := by
  unfold State.lifeRequest
  repeat' first
    | with_reducible assumption
    | (unfold x; clear x)
    | with_reducible refine keeps_snd (by with_reducible assumption) ?_
    | with_reducible refine keeps_fst (by with_reducible assumption) ?_
    | (extract_lets -merge -useContext +onlyGivenNames x; first | (refine keeps_cut (s0 := z) x ?_ (fun hx => ?_); rotate_left; clear_value x) | (refine keeps_cut (s0 := z) x.1 ?_ (fun hx => ?_); rotate_left; clear_value x) | (refine keeps_cut (s0 := z) x.2 ?_ (fun hx => ?_); rotate_left; clear_value x) | clear_value x)
    | with_reducible apply authorise_keeps
    | split
    | exact keeps_in (keeps_out hx)
    | exact keeps_in (keeps_out hs)
    | (refine keeps_in ?_; dsimp only; exact keeps_out (by with_reducible assumption))
    | dsimp only

/-! ### Fuses -/

/-- The fuse of a life-cycle change, beside those burnt before (R623). -/
theorem fusesKept_burnLife (o : Otp) (t : Nat) : fusesKept o (State.burnLife o t) := by
  obtain ⟨k1, k2, k3, k4, k5, k6, k7, k8, k9, k10, k11, k12, k13, k14, k15, k16, k17, k18⟩ := fusesKept_refl o
  unfold State.burnLife
  split
  · exact ⟨k1, k2, k3, k4, k5, k6, k7, fun _ => rfl, k9, k10, k11, k12, k13, k14, k15, k16, k17, k18⟩
  · split
    · exact ⟨k1, k2, k3, k4, k5, k6, k7, k8, k9, k10, k11, k12, k13, k14, k15, Nat.le_succ _, k17, k18⟩
    · exact ⟨k1, k2, k3, k4, k5, k6, k7, k8, fun _ => rfl, k10, k11, k12, k13, k14, k15, k16, k17, k18⟩
  · exact ⟨k1, k2, k3, k4, k5, k6, k7, k8, k9, k10, k11, k12, k13, k14, k15, Nat.le_succ _, k17, k18⟩
  · exact ⟨k1, k2, k3, k4, k5, k6, k7, k8, k9, fun _ => rfl, k11, k12, k13, k14, k15, k16, k17, k18⟩
  · exact ⟨k1, k2, k3, k4, k5, k6, k7, k8, k9, k10, fun _ => rfl, k12, k13, k14, k15, k16, k17, k18⟩

theorem companionsOk_burnLife (o : Otp) (t : Nat) (h : companionsOk o) : companionsOk (State.burnLife o t) := by
  obtain ⟨h1, h2, h3, h4, h5⟩ := h
  unfold State.burnLife
  split
  · exact ⟨fun _ => rfl, h2, h3, h4, h5⟩
  · split
    · exact ⟨h1, h2, h3, h4, Nat.le_succ_of_le h5⟩
    · exact ⟨h1, fun _ => rfl, h3, h4, h5⟩
  · exact ⟨h1, h2, h3, h4, Nat.le_succ_of_le h5⟩
  · exact ⟨h1, h2, fun _ => rfl, h4, h5⟩
  · exact ⟨h1, h2, h3, fun _ => rfl, h5⟩

theorem and_or_self_nat (a b : Nat) : a &&& (a ||| b) = a := by
  apply Nat.eq_of_testBit_eq
  intro i
  simp only [Nat.testBit_and, Nat.testBit_or]
  cases a.testBit i <;> rfl

/-- A key or an option word takes further bits (R614). -/
theorem fusesKept_burnField (o : Otp) (k v : Nat) : fusesKept o (State.burnField o k v) := by
  obtain ⟨k1, k2, k3, k4, k5, k6, k7, k8, k9, k10, k11, k12, k13, k14, k15, k16, k17, k18⟩ := fusesKept_refl o
  unfold State.burnField
  split
  · exact ⟨k1, and_or_self_nat _ _, k3, k4, k5, k6, k7, k8, k9, k10, k11, k12, k13, k14, k15, k16, k17, k18⟩
  · exact ⟨k1, k2, and_or_self_nat _ _, k4, k5, k6, k7, k8, k9, k10, k11, k12, k13, k14, k15, k16, k17, k18⟩
  · exact ⟨k1, k2, k3, and_or_self_nat _ _, k5, k6, k7, k8, k9, k10, k11, k12, k13, k14, k15, k16, k17, k18⟩
  · exact ⟨k1, k2, k3, k4, and_or_self_nat _ _, k6, k7, k8, k9, k10, k11, k12, k13, k14, k15, k16, k17, k18⟩
  · refine ⟨k1, k2, k3, k4, k5, k6, k7, k8, k9, k10, k11, k12, k13, k14, k15, k16, k17, fun j => ?_⟩
    dsimp only
    rw [find_put]
    split
    · rename_i e
      subst e
      ext i
      simp only [BitVec.getElem_and, BitVec.getElem_or]
      cases (o.opt.find 0 (k - 16))[i] <;> rfl
    · exact k18 j

theorem companionsOk_burnField (o : Otp) (k v : Nat) (h : companionsOk o) : companionsOk (State.burnField o k v) := by
  unfold State.burnField
  split <;> exact h

theorem lifeChange_keeps {z : State} {s : State} (hs : Keeps z s) : Keeps z (State.lifeChange s) := by
  unfold State.lifeChange
  split
  · exact hs
  · rename_i t _
    extract_lets s1 s2
    have h1 : Keeps z s1 := sealPair_keeps (ledgerFlush_keeps (ledger_keeps hs _ _ _ _ _) _)
    clear_value s1
    have h2 : Keeps z s2 :=
      lifeWipe_keeps (keeps_otp h1 (fusesKept_burnLife _ t) (companionsOk_burnLife _ t (keeps_out h1).comp)) t
    clear_value s2
    exact doReset_keeps (keeps_otp h2 (fusesKept_burnWiped _ (keeps_out h2).comp) (companionsOk_burnWiped _)) _

theorem keyBurn_keeps {z : State} {s : State} (hs : Keeps z s) : Keeps z (State.keyBurn s).2 := by
  unfold State.keyBurn
  repeat' first
    | with_reducible assumption
    | (unfold x; clear x)
    | with_reducible refine keeps_snd (by with_reducible assumption) ?_
    | with_reducible refine keeps_fst (by with_reducible assumption) ?_
    | with_reducible refine keeps_third (by with_reducible assumption) ?_
    | with_reducible refine keeps_mid (by with_reducible assumption) ?_
    | (extract_lets -merge -useContext +onlyGivenNames x; first | (refine keeps_cut (s0 := z) x ?_ (fun hx => ?_); rotate_left; clear_value x) | (refine keeps_cut (s0 := z) x.1 ?_ (fun hx => ?_); rotate_left; clear_value x) | (refine keeps_cut (s0 := z) x.2 ?_ (fun hx => ?_); rotate_left; clear_value x) | have _ : Sec := x | clear_value x)
    | split
    | exact keeps_in (keeps_out hx)
    | exact keeps_in (keeps_out hs)
    | (refine keeps_in ?_; dsimp only; exact keeps_out (by with_reducible assumption))
    | dsimp only

theorem otpBurnVerified_keeps {z : State} {s : State} (hs : Keeps z s) (ok : Bool) : Keeps z (State.otpBurnVerified s ok) := by
  unfold State.otpBurnVerified
  split
  · exact hs
  · rename_i k v _
    extract_lets c s1
    have h1 : Keeps z s1 := keeps_sec hs (Nat.le_refl _) (keeps_out hs).map
    clear_value s1
    have h2 : Keeps z s1.takeInt.2 := takeInt_keeps h1
    split
    · exact otpShow_keeps (keeps_otp h1 (fusesKept_burnField _ _ _) (companionsOk_burnField _ _ _ (keeps_out h1).comp))
    · exact alarm_keeps (keeps_otp h2 (fusesKept_burnField _ _ _) (companionsOk_burnField _ _ _ (keeps_out h2).comp)) _ _ _ _ _ _

theorem dsgen_keeps {z : State} {s : State} (hs : Keeps z s) : Keeps z (State.dsgen s).2 := by
  unfold State.dsgen
  split
  · exact hs
  · split
    · exact hs
    · rename_i h
      have hd : s.otp.ds = 0 := by simpa using h
      obtain ⟨k1, k2, k3, k4, k5, k6, k7, k8, k9, k10, k11, k12, k13, k14, k15, k16, k17, k18⟩ := fusesKept_refl s.otp
      have hf : fusesKept s.otp { s.otp with ds := (Config.entropy s.sec.drawn).toNat } :=
        ⟨by rw [hd]; exact Nat.zero_and _, k2, k3, k4, k5, k6, k7, k8, k9, k10, k11, k12, k13, k14, k15, k16, k17, k18⟩
      exact otpShow_keeps (keeps_otp (keeps_sec hs (c := { s.sec with drawn := s.sec.drawn + 1 }) (Nat.le_succ _)
        (keeps_out hs).map) hf (keeps_out hs).comp)

theorem arbcommit_keeps {z : State} {s : State} (hs : Keeps z s) : Keeps z (State.arbcommit s).2 := by
  unfold State.arbcommit
  extract_lets i a
  split
  · exact hs
  · split
    · exact hs
    · split
      · exact hs
      · rename_i h _
        obtain ⟨k1, k2, k3, k4, k5, k6, k7, k8, k9, k10, k11, k12, k13, k14, k15, k16, k17, k18⟩ := fusesKept_refl s.otp
        exact otpShow_keeps (keeps_otp hs (o := { s.otp with arb := a })
          ⟨k1, k2, k3, k4, k5, k6, Nat.le_of_lt (Nat.lt_of_not_le h), k8, k9, k10, k11, k12, k13, k14, k15, k16, k17, k18⟩ (keeps_out hs).comp)

theorem fwrevoke_keeps {z : State} {s : State} (hs : Keeps z s) : Keeps z (State.fwrevoke s).2 := by
  unfold State.fwrevoke
  split
  · exact hs
  · split
    · exact hs
    · obtain ⟨k1, k2, k3, k4, k5, k6, k7, k8, k9, k10, k11, k12, k13, k14, k15, k16, k17, k18⟩ := fusesKept_refl s.otp
      exact otpShow_keeps (keeps_otp hs (o := { s.otp with fwrev := true })
        ⟨k1, k2, k3, k4, k5, fun _ => rfl, k7, k8, k9, k10, k11, k12, k13, k14, k15, k16, k17, k18⟩ (keeps_out hs).comp)

theorem debugUnlock_keeps {z : State} {s : State} (hs : Keeps z s) (sig : Nat) : Keeps z (State.debugUnlock s sig) := by
  unfold State.debugUnlock
  split
  · exact hs
  · extract_lets v
    have h1 : Keeps z (s.authorise 6 v (State.authHead v ++ [0x44, 0x42, 0x47]) (s.otpKey 4) sig true).2 :=
      authorise_keeps hs _ _ _ _ _ _
    generalize s.authorise 6 v (State.authHead v ++ [0x44, 0x42, 0x47]) (s.otpKey 4) sig true = p at h1
    obtain ⟨ok, t⟩ := p
    dsimp only at h1 ⊢
    split
    · exact alarm_keeps (keeps_sec h1 (c := { t.sec with debug := true }) (Nat.le_refl _) (keeps_out h1).map) _ _ _ _ _ _
    · exact keeps_sec h1 (c := { t.sec with dbgFail := t.sec.dbgFail + 1 }) (Nat.le_refl _) (keeps_out h1).map

theorem stopMatch_keeps {z : State} {s : State} (hs : Keeps z s) (p : Nat) (f : CanRx) : Keeps z (State.stopMatch s p f) := by
  unfold State.stopMatch
  repeat' first
    | with_reducible assumption
    | (unfold x; clear x)
    | (extract_lets -merge -useContext +onlyGivenNames x; first | (refine keeps_cut (s0 := z) x ?_ (fun hx => ?_); rotate_left; clear_value x) | clear_value x)
    | with_reducible apply srcRequest_keeps
    | with_reducible apply setCan_keeps
    | split
    | exact keeps_in (keeps_out hx)
    | exact keeps_in (keeps_out hs)
    | (refine keeps_in ?_; dsimp only; exact keeps_out (by with_reducible assumption))
    | dsimp only

theorem taskOverrun_keeps {z : State} {s : State} (hs : Keeps z s) (t : Nat) : Keeps z (State.taskOverrun s t) := by
  unfold State.taskOverrun
  repeat' first
    | with_reducible assumption
    | (unfold x; clear x)
    | (extract_lets -merge -useContext +onlyGivenNames x; first | (refine keeps_cut (s0 := z) x ?_ (fun hx => ?_); rotate_left; clear_value x) | clear_value x)
    | with_reducible apply engineFault_keeps
    | split
    | exact keeps_in (keeps_out hx)
    | exact keeps_in (keeps_out hs)
    | (refine keeps_in ?_; dsimp only; exact keeps_out (by with_reducible assumption))
    | dsimp only

theorem mramRecordLost_keeps {z : State} {s : State} (hs : Keeps z s) (which : Nat) (r : Nat) : Keeps z (State.mramRecordLost s which r) := by
  unfold State.mramRecordLost
  repeat' first
    | with_reducible assumption
    | (unfold x; clear x)
    | with_reducible refine keeps_snd (by with_reducible assumption) ?_
    | with_reducible refine keeps_fst (by with_reducible assumption) ?_
    | with_reducible refine keeps_third (by with_reducible assumption) ?_
    | with_reducible refine keeps_mid (by with_reducible assumption) ?_
    | (extract_lets -merge -useContext +onlyGivenNames x; first | (refine keeps_cut (s0 := z) x ?_ (fun hx => ?_); rotate_left; clear_value x) | (refine keeps_cut (s0 := z) x.1 ?_ (fun hx => ?_); rotate_left; clear_value x) | (refine keeps_cut (s0 := z) x.2 ?_ (fun hx => ?_); rotate_left; clear_value x) | have _ : Mram := x | clear_value x)
    | with_reducible apply inc_keeps
    | with_reducible apply alarm_keeps
    | with_reducible apply cellRetired_keeps
    | split
    | exact keeps_in (keeps_out hx)
    | exact keeps_in (keeps_out hs)
    | (refine keeps_in ?_; dsimp only; exact keeps_out (by with_reducible assumption))
    | dsimp only

theorem freeTileBad_keeps {z : State} {s : State} (hs : Keeps z s) (k : Nat) : Keeps z (State.freeTileBad s k) := by
  unfold State.freeTileBad
  repeat' first
    | with_reducible assumption
    | (unfold x; clear x)
    | (extract_lets -merge -useContext +onlyGivenNames x; first | (refine keeps_cut (s0 := z) x ?_ (fun hx => ?_); rotate_left; clear_value x) | (refine keeps_cut (s0 := z) x.1 ?_ (fun hx => ?_); rotate_left; clear_value x) | (refine keeps_cut (s0 := z) x.2 ?_ (fun hx => ?_); rotate_left; clear_value x) | (refine keeps_cut (s0 := z) x.2.2 ?_ (fun hx => ?_); rotate_left; clear_value x) | clear_value x)
    | with_reducible apply setBytes_keeps
    | with_reducible apply inc_keeps
    | split
    | exact keeps_in (keeps_out hx)
    | exact keeps_in (keeps_out hs)
    | (refine keeps_in ?_; dsimp only; exact keeps_out (by with_reducible assumption))
    | dsimp only

theorem auditScrub_keeps {z : State} {s : State} (hs : Keeps z s) (f : AuditFind) : Keeps z (State.auditScrub s f) := by
  unfold State.auditScrub
  repeat' first
    | with_reducible assumption
    | (unfold x; clear x)
    | with_reducible refine keeps_snd (by with_reducible assumption) ?_
    | with_reducible refine keeps_fst (by with_reducible assumption) ?_
    | with_reducible refine keeps_third (by with_reducible assumption) ?_
    | with_reducible refine keeps_mid (by with_reducible assumption) ?_
    | (extract_lets -merge -useContext +onlyGivenNames x; first | (refine keeps_cut (s0 := z) x ?_ (fun hx => ?_); rotate_left; clear_value x) | (refine keeps_cut (s0 := z) x.1 ?_ (fun hx => ?_); rotate_left; clear_value x) | (refine keeps_cut (s0 := z) x.2 ?_ (fun hx => ?_); rotate_left; clear_value x) | clear_value x)
    | with_reducible apply incWrap_keeps
    | with_reducible apply inc_keeps
    | with_reducible apply placedTileBad_keeps
    | with_reducible apply localTileBad_keeps
    | with_reducible apply lockstepMismatch_keeps
    | with_reducible apply mramWrite_keeps
    | with_reducible apply mramRecordLost_keeps
    | with_reducible apply alarm_keeps
    | with_reducible apply freeTileBad_keeps
    | with_reducible apply codeTileBad_keeps
    | with_reducible apply codeRewritten_keeps
    | split
    | exact keeps_in (keeps_out hx)
    | exact keeps_in (keeps_out hs)
    | (refine keeps_in ?_; dsimp only; exact keeps_out (by with_reducible assumption))
    | dsimp only

end Sys2Proof.Laws
end

