-- ==== Sys2Proof/Laws/Members.lean ====
section
/-! SUPPORT. What the operations of `Machine/Members.lean` keep. -/
namespace Sys2Proof.Laws
open Machine Safety

theorem ownTask_keeps {z : State} {s : State} (hs : Keeps z s) (m : Nat) : Keeps z (State.ownTask s m) := by
  unfold State.ownTask
  repeat' first
    | with_reducible assumption
    | (unfold x; clear x)
    | (extract_lets -merge -useContext +onlyGivenNames x; first | (refine keeps_cut (s0 := z) x ?_ (fun hx => ?_); rotate_left; clear_value x) | (refine keeps_cut (s0 := z) x.1 ?_ (fun hx => ?_); rotate_left; clear_value x) | (refine keeps_cut (s0 := z) x.2 ?_ (fun hx => ?_); rotate_left; clear_value x) | (refine keeps_cut (s0 := z) x.2.2 ?_ (fun hx => ?_); rotate_left; clear_value x) | clear_value x)
    | with_reducible apply removeTask_keeps
    | with_reducible apply toBalance_keeps
    | with_reducible apply exRefresh_keeps
    | split
    | exact keeps_in (keeps_out hx)
    | exact keeps_in (keeps_out hs)
    | (refine keeps_in ?_; dsimp only; exact keeps_out (by with_reducible assumption))
    | dsimp only

theorem cfgOwned_keeps {z : State} {s : State} (hs : Keeps z s) (cls : Nat) (i : Nat) : Keeps z (State.cfgOwned s cls i) := by
  unfold State.cfgOwned
  repeat' first
    | with_reducible assumption
    | (unfold x; clear x)
    | (extract_lets -merge -useContext +onlyGivenNames x; first | (refine keeps_cut (s0 := z) x ?_ (fun hx => ?_); rotate_left; clear_value x) | (refine keeps_cut (s0 := z) x.1 ?_ (fun hx => ?_); rotate_left; clear_value x) | (refine keeps_cut (s0 := z) x.2 ?_ (fun hx => ?_); rotate_left; clear_value x) | (refine keeps_cut (s0 := z) x.2.2 ?_ (fun hx => ?_); rotate_left; clear_value x) | clear_value x)
    | with_reducible apply removeTask_keeps
    | with_reducible apply setTask_keeps
    | with_reducible apply ownTask_keeps
    | with_reducible refine keeps_foldl ?_ (fun t b ht => ?_)
    | with_reducible refine keeps_foldl_fst ?_ (fun t b ht => ?_)
    | with_reducible refine keeps_foldl_snd ?_ (fun t b ht => ?_)
    | split
    | exact keeps_in (keeps_out hx)
    | exact keeps_in (keeps_out hs)
    | exact keeps_in (keeps_out ht)
    | (refine keeps_in ?_; dsimp only; exact keeps_out (by with_reducible assumption))
    | dsimp only

theorem keeps_ite_snd {z : State} {β : Type} {c : Prop} [Decidable c] {p q : β × State} (h : Keeps z p.2) (k : Keeps z q.2) :
    Keeps z (if c then p else q).2 := by split <;> assumption

theorem cfgDone_keeps {z : State} {s : State} (hs : Keeps z s) (cls : Nat) (i : Nat) : Keeps z (State.cfgDone s cls i) := by
  unfold State.cfgDone
  repeat' first
    | with_reducible assumption
    | (unfold x; clear x)
    | (extract_lets -merge -useContext +onlyGivenNames x; first | (refine keeps_cut (s0 := z) x ?_ (fun hx => ?_); rotate_left; clear_value x) | clear_value x)
    | with_reducible apply put_keeps
    | split
    | exact keeps_in (keeps_out hx)
    | exact keeps_in (keeps_out hs)
    | (refine keeps_in ?_; dsimp only; exact keeps_out (by with_reducible assumption))
    | dsimp only

theorem cfgCommitAll_keeps {z : State} {s : State} (hs : Keeps z s) (os : List (Nat × Nat)) : ∀ t, State.cfgCommitAll s os = some t → Keeps z t := by
  intro t h
  unfold State.cfgCommitAll at h
  have h1 : Keeps z (os.foldl (fun s o => s.put (State.cfgMem o.1) o.2 1) s) := keeps_foldl hs fun t o ht => put_keeps ht _ _ _ _
  generalize os.foldl (fun s o => s.put (State.cfgMem o.1) o.2 1) s = s1 at h h1
  dsimp only at h
  split at h
  · cases h
  · rename_i u e
    cases h
    have h2 := keeps_foldl (l := os) (placeGroups_keeps h1 _ _ e) fun t o ht => cfgOwned_keeps ht o.1 o.2
    exact exRefresh_keeps (rewriteMaps_keeps (keeps_foldl h2 fun t o ht => cfgDone_keeps ht _ _))

theorem obsWrite_keeps {z : State} {s : State} (hs : Keeps z s) (i : Nat) (v : Int) : Keeps z (State.obsWrite s i v) := by
  unfold State.obsWrite
  repeat' first
    | with_reducible assumption
    | (unfold x; clear x)
    | (extract_lets -merge -useContext +onlyGivenNames x; first | (refine keeps_cut (s0 := z) x ?_ (fun hx => ?_); rotate_left; clear_value x) | (refine keeps_cut (s0 := z) x.1 ?_ (fun hx => ?_); rotate_left; clear_value x) | (refine keeps_cut (s0 := z) x.2 ?_ (fun hx => ?_); rotate_left; clear_value x) | (refine keeps_cut (s0 := z) x.2.2 ?_ (fun hx => ?_); rotate_left; clear_value x) | clear_value x)
    | with_reducible apply put_keeps
    | split
    | exact keeps_in (keeps_out hx)
    | exact keeps_in (keeps_out hs)
    | (refine keeps_in ?_; dsimp only; exact keeps_out (by with_reducible assumption))
    | dsimp only

theorem brkMoved_keeps {y z s : State} (hs : Keeps z s) (x : Nat) : Keeps z (y.brkMoved s x) := by
  unfold State.brkMoved
  refine keeps_ite hs (keeps_ite (brkDrive_keeps hs _ _) (brkDrive_keeps ?_ _ _))
  exact keeps_ite (dioDrive_keeps hs _ _) (keeps_ite (partUrgent_keeps (setPart_keeps hs _ _) _) hs)

theorem retask_keeps {z s : State} (hs : Keeps z s) (x : Nat) (y : State) : Keeps z ((y.retask x s).getD s) := by
  unfold State.retask
  split
  · exact hs
  · cases e : s.cfgCommitAll [(5, x)] with
    | none => exact hs
    | some t => exact cfgCommitAll_keeps hs _ _ e

theorem putNow_keeps {z s : State} (hs : Keeps z s) (m : Mem) (i x : Nat) (v : Int) : Keeps z (s.putNow m i x v) := by
  have hp : ∀ (m : Mem) (i : Nat) (v : Int) (x : Nat), Keeps z (s.put m i v x) := fun m i v x => put_keeps hs m i v x
  have ha := hp m i v 0
  unfold State.putNow
  refine keeps_ite (hp _ _ _ _) ?_
  refine keeps_ite (keeps_ite (keeps_in (keeps_out hs)) (keeps_in (keeps_out ha))) ?_
  refine keeps_ite (hp _ _ _ _) ?_
  refine keeps_ite ?_ ?_
  · have ht : Keeps z ({ s.put m i v with dioOut := s.dioOut.put false i false } : State) := keeps_in (keeps_out ha)
    exact keeps_foldl (dioStopEdge_keeps hs ht _) fun _ _ h => keeps_ite (brkMoved_keeps h _) h
  refine keeps_ite (brkMoved_keeps ha _) (keeps_ite (dioStopEdge_keeps hs ha _) (keeps_ite ?_ (keeps_ite ?_ ?_)))
  · have h1 : Keeps z ((s.put m i v).put SD.STATE i v) := put_keeps ha _ _ _ _
    generalize (s.put m i v).put SD.STATE i v = t at *
    have h2 : Keeps z ({ t.setSdX i {} with sdTrip := t.sdTrip.filter (· != i) } : State) :=
      keeps_in (keeps_out (setSdX_keeps h1 i {}))
    exact tripMoved_keeps h2
  · exact keeps_ite (keeps_in (keeps_out (put_keeps ha AIN.STATE i 0 0))) ha
  refine keeps_ite (ffCrc_keeps (hp _ _ _ _) _) (keeps_ite (ffTiles_keeps ha _) (keeps_ite ?_ ?_))
  · exact retask_keeps (ffTiles_keeps (ffTiles_keeps ha _) _) _ _
  refine keeps_ite (ownTask_keeps ha _) (keeps_ite ?_ (keeps_ite ?_ ?_))
  · exact retask_keeps (obsWrite_keeps hs _ _) _ _
  · exact keeps_ite (compareFrom_keeps ha _) (setCmpX_keeps ha _ _)
  have hh : ∀ l, Keeps z ((s.put m i v).hintChanged l) := fun l => hintChanged_keeps ha l
  exact keeps_ite (hh _) (keeps_ite (hh _) (keeps_ite (mirrorAll_keeps ha) (keeps_ite (hh _) (keeps_ite (hh _)
    (keeps_ite (motionReplan_keeps ha _) (keeps_ite (keeps_ite (brkReq_keeps ha _ _) ha)
    (keeps_ite (traceMode_keeps hs _ _) (keeps_ite (traceNch_keeps hs _ _) (hp _ _ _ _)))))))))

theorem putMem_keeps {z s : State} (hs : Keeps z s) (m : Mem) (i x : Nat) (v : Int) : Keeps z (s.putMem m i x v) := by
  have hl : ∀ l, Keeps z ({ s with late := l } : State) := fun _ => keeps_in (keeps_out hs)
  unfold State.putMem
  exact keeps_ite (hl _) (keeps_ite (putNow_keeps (traceNote_keeps hs) _ _ _ _)
    (keeps_ite (putNow_keeps hs _ _ _ _) (putNow_keeps (hl _) _ _ _ _)))

theorem cfgCommit_keeps {z : State} {s : State} (hs : Keeps z s) (cls : Nat) (i : Nat) : Keeps z (State.cfgCommit s cls i).2 := by
  unfold State.cfgCommit
  split
  · exact hs
  · split
    · exact hs
    · rename_i e
      exact cfgCommitAll_keeps hs _ _ e

theorem cfgRemove_keeps {z : State} {s : State} (hs : Keeps z s) (cls : Nat) (i : Nat) : Keeps z (State.cfgRemove s cls i).2 := by
  unfold State.cfgRemove
  repeat' first
    | with_reducible assumption
    | (unfold x; clear x)
    | with_reducible refine keeps_snd (by with_reducible assumption) ?_
    | with_reducible refine keeps_fst (by with_reducible assumption) ?_
    | (extract_lets -merge -useContext +onlyGivenNames x; first | (refine keeps_cut (s0 := z) x ?_ (fun hx => ?_); rotate_left; clear_value x) | (refine keeps_cut (s0 := z) x.1 ?_ (fun hx => ?_); rotate_left; clear_value x) | (refine keeps_cut (s0 := z) x.2 ?_ (fun hx => ?_); rotate_left; clear_value x) | clear_value x)
    | with_reducible apply rewriteMaps_keeps
    | with_reducible apply put_keeps
    | with_reducible apply removeTasks_keeps
    | split
    | exact keeps_in (keeps_out hx)
    | exact keeps_in (keeps_out hs)
    | (refine keeps_in ?_; dsimp only; exact keeps_out (by with_reducible assumption))
    | dsimp only

theorem retiredWrite_keeps {z : State} {s : State} (hs : Keeps z s) (v : Nat) : Keeps z (State.retiredWrite s v).2 := by
  unfold State.retiredWrite
  repeat' first
    | with_reducible assumption
    | (unfold x; clear x)
    | with_reducible refine keeps_snd (by with_reducible assumption) ?_
    | with_reducible refine keeps_fst (by with_reducible assumption) ?_
    | (extract_lets -merge -useContext +onlyGivenNames x; first | (refine keeps_cut (s0 := z) x ?_ (fun hx => ?_); rotate_left; clear_value x) | (refine keeps_cut (s0 := z) x.1 ?_ (fun hx => ?_); rotate_left; clear_value x) | (refine keeps_cut (s0 := z) x.2 ?_ (fun hx => ?_); rotate_left; clear_value x) | clear_value x)
    | with_reducible apply clearRetired_keeps
    | split
    | exact keeps_in (keeps_out hx)
    | exact keeps_in (keeps_out hs)
    | (refine keeps_in ?_; dsimp only; exact keeps_out (by with_reducible assumption))
    | dsimp only

theorem eoWrite_keeps {z : State} {s : State} (hs : Keeps z s) (e : Nat) (v : Nat) : Keeps z (State.eoWrite s e v).2 := by
  unfold State.eoWrite
  repeat' first
    | with_reducible assumption
    | (unfold x; clear x)
    | with_reducible refine keeps_snd (by with_reducible assumption) ?_
    | with_reducible refine keeps_fst (by with_reducible assumption) ?_
    | (extract_lets -merge -useContext +onlyGivenNames x; first | (refine keeps_cut (s0 := z) x ?_ (fun hx => ?_); rotate_left; clear_value x) | (refine keeps_cut (s0 := z) x.1 ?_ (fun hx => ?_); rotate_left; clear_value x) | (refine keeps_cut (s0 := z) x.2 ?_ (fun hx => ?_); rotate_left; clear_value x) | clear_value x)
    | with_reducible apply eoEnable_keeps
    | split
    | exact keeps_in (keeps_out hx)
    | exact keeps_in (keeps_out hs)
    | (refine keeps_in ?_; dsimp only; exact keeps_out (by with_reducible assumption))
    | dsimp only

theorem sdEnable_keeps {z : State} {s : State} (hs : Keeps z s) (k : Nat) (v : Nat) : Keeps z (State.sdEnable s k v).2 := by
  unfold State.sdEnable
  repeat' first
    | with_reducible assumption
    | (unfold x; clear x)
    | with_reducible refine keeps_snd (by with_reducible assumption) ?_
    | with_reducible refine keeps_fst (by with_reducible assumption) ?_
    | (extract_lets -merge -useContext +onlyGivenNames x; first | (refine keeps_cut (s0 := z) x ?_ (fun hx => ?_); rotate_left; clear_value x) | (refine keeps_cut (s0 := z) x.1 ?_ (fun hx => ?_); rotate_left; clear_value x) | (refine keeps_cut (s0 := z) x.2 ?_ (fun hx => ?_); rotate_left; clear_value x) | clear_value x)
    | with_reducible apply putMem_keeps
    | split
    | exact keeps_in (keeps_out hx)
    | exact keeps_in (keeps_out hs)
    | (refine keeps_in ?_; dsimp only; exact keeps_out (by with_reducible assumption))
    | dsimp only

theorem reserveCommit_keeps {z : State} {s : State} (hs : Keeps z s) : Keeps z (State.reserveCommit s).2 := by
  unfold State.reserveCommit
  repeat' first
    | with_reducible assumption
    | (unfold x; clear x)
    | with_reducible refine keeps_snd (by with_reducible assumption) ?_
    | with_reducible refine keeps_fst (by with_reducible assumption) ?_
    | (extract_lets -merge -useContext +onlyGivenNames x; first | (refine keeps_cut (s0 := z) x ?_ (fun hx => ?_); rotate_left; clear_value x) | (refine keeps_cut (s0 := z) x.1 ?_ (fun hx => ?_); rotate_left; clear_value x) | (refine keeps_cut (s0 := z) x.2 ?_ (fun hx => ?_); rotate_left; clear_value x) | clear_value x)
    | split
    | exact keeps_in (keeps_out hx)
    | exact keeps_in (keeps_out hs)
    | (refine keeps_in ?_; dsimp only; exact keeps_out (by with_reducible assumption))
    | dsimp only

/-! ### What a chapter decides of a write -/

/-- Whatever a chapter's operation on a member answers, its state keeps. -/
def OptKeeps (z : State) (o : Option (Status × State)) : Prop := ∀ r, o = some r → Keeps z r.2

theorem optKeeps_none {z : State} : OptKeeps z none := fun _ h => nomatch h
theorem optKeeps_some {z : State} {p : Status × State} (h : Keeps z p.2) : OptKeeps z (some p) := fun _ e => by cases e; exact h
theorem optKeeps_ite {z : State} {c : Prop} [Decidable c] {o q : Option (Status × State)} (h : OptKeeps z o) (k : OptKeeps z q) :
    OptKeeps z (if c then o else q) := by split <;> assumption

theorem memberOp_keeps {z : State} {s : State} (hs : Keeps z s) (m : Mem) (i x : Nat) (v : Int) :
    OptKeeps z (s.memberOp m i x v) := by
  unfold State.memberOp
  extract_lets k f
  refine optKeeps_ite (optKeeps_some (put_keeps hs _ _ _ _)) ?_
  split <;> repeat' first
    | exact optKeeps_none
    | with_reducible refine optKeeps_ite ?_ ?_
    | (with_reducible refine optKeeps_some ?_
       first
        | with_reducible exact keeps_ite_snd (cfgCommit_keeps hs _ _) (cfgRemove_keeps hs _ _)
        | with_reducible exact wingbeatWrite_keeps hs _
        | with_reducible exact setpointWrite_keeps hs _
        | with_reducible exact psreq_keeps hs _
        | with_reducible exact viddioWrite_keeps hs _
        | with_reducible exact dutyWrite_keeps hs _
        | with_reducible exact keeps_ite_snd (axisEnable_keeps hs _ _) (axisDisable_keeps hs _)
        | with_reducible exact spack_keeps hs _
        | with_reducible exact keeps_ite_snd (machEnable_keeps hs _ _) (machDisable_keeps hs _)
        | with_reducible exact machClear_keeps hs _
        | with_reducible exact styleWrite_keeps hs _ _
        | with_reducible exact keeps_ite_snd (stageEnable_keeps hs _) (stageDisable_keeps hs _)
        | with_reducible exact stageDiag_keeps hs _
        | with_reducible exact stageClear_keeps hs _
        | with_reducible exact patternSrc_keeps hs _ _
        | with_reducible exact patEntryWrite_keeps hs _ _ _
        | with_reducible exact swcmdWrite_keeps hs _ _
        | with_reducible exact convEnable_keeps hs _ _
        | with_reducible exact convClear_keeps hs _
        | with_reducible exact cellExcl_keeps hs _ _
        | with_reducible exact cellRetire_keeps hs _ _
        | with_reducible exact cellClear_keeps hs _
        | with_reducible exact fbMode_keeps hs _ _
        | with_reducible exact fbSel_keeps hs _ _
        | with_reducible exact possetWrite_keeps hs _ _
        | with_reducible exact idxarm_keeps hs _ _
        | with_reducible exact fbClear_keeps hs _
        | with_reducible exact eoWrite_keeps hs _ _
        | with_reducible exact sdEnable_keeps hs _ _
        | with_reducible exact gainref_keeps hs _ _
        | with_reducible exact sdClear_keeps hs _
        | exact dioStopEdge_keeps hs (dioClear_keeps hs _) _
        | with_reducible exact freezeWrite_keeps hs _ _
        | with_reducible exact ipresetWrite_keeps hs _ _
        | with_reducible exact atstart_keeps hs _ _
        | with_reducible exact ffActive_keeps hs _ _
        | with_reducible exact push_keeps hs _ _
        | with_reducible exact flushWrite_keeps hs _
        | with_reducible exact stopRequest_keeps hs _ _
        | with_reducible exact stopEreq_keeps hs _ _
        | with_reducible exact stopAck_keeps hs _
        | with_reducible exact keeps_ite_snd (stoClear_keeps hs) (sourceClear_keeps hs _)
        | with_reducible exact rclear_keeps hs
        | with_reducible exact tclear_keeps hs
        | with_reducible exact keeps_ite_snd (canEnable_keeps hs _) (canDisable_keeps hs _)
        | with_reducible exact canRecover_keeps hs _
        | with_reducible exact restrWrite_keeps hs _ _
        | with_reducible exact partEnable_keeps hs _ _
        | with_reducible exact ringEnable_keeps hs _ _
        | with_reducible exact ringRun_keeps hs _ _
        | with_reducible exact traceArm_keeps hs _
        | with_reducible exact trignow_keeps hs _
        | with_reducible exact traceRead_keeps hs _
        | with_reducible exact retiredWrite_keeps hs _
        | with_reducible exact reserveCommit_keeps hs
        | with_reducible exact keyBurn_keeps hs
        | with_reducible exact dsgen_keeps hs
        | with_reducible exact arbcommit_keeps hs
        | with_reducible exact fwrevoke_keeps hs)

theorem applyWrite_keeps {z : State} {s : State} (hs : Keeps z s) (secure : Bool) (m : Mem) (i x : Nat) (v : Int) :
    Keeps z (s.applyWrite secure m i x v).2 := by
  unfold State.applyWrite
  refine keeps_ite_snd hs ?_
  split
  · rename_i r e
    exact memberOp_keeps hs m i x v r e
  · split
    · exact hs
    · split
      · exact hs
      · exact putMem_keeps hs _ _ _ _

theorem writeMember_keeps {z : State} {s : State} (hs : Keeps z s) (secure : Bool) (addr : Nat) (ty : Nat) (v : Int) : Keeps z (State.writeMember s secure addr ty v).2 := by
  unfold State.writeMember
  repeat' first
    | with_reducible assumption
    | (unfold x; clear x)
    | with_reducible refine keeps_snd (by with_reducible assumption) ?_
    | with_reducible refine keeps_fst (by with_reducible assumption) ?_
    | with_reducible refine keeps_third (by with_reducible assumption) ?_
    | with_reducible refine keeps_mid (by with_reducible assumption) ?_
    | (extract_lets -merge -useContext +onlyGivenNames x; first | (refine keeps_cut (s0 := z) x ?_ (fun hx => ?_); rotate_left; clear_value x) | (refine keeps_cut (s0 := z) x.1 ?_ (fun hx => ?_); rotate_left; clear_value x) | (refine keeps_cut (s0 := z) x.2 ?_ (fun hx => ?_); rotate_left; clear_value x) | clear_value x)
    | with_reducible apply applyWrite_keeps
    | split
    | exact keeps_in (keeps_out hx)
    | exact keeps_in (keeps_out hs)
    | (refine keeps_in ?_; dsimp only; exact keeps_out (by with_reducible assumption))
    | dsimp only

end Sys2Proof.Laws
end

