-- ==== Sys2Proof/Laws/Registers.lean ====
section
/-! SUPPORT. What the operations of `Machine/Registers.lean` keep. -/
namespace Sys2Proof.Laws
open Machine Safety

theorem stoCfgWrite_keeps {z : State} {s : State} (hs : Keeps z s) (v : Nat) : Keeps z (State.stoCfgWrite s v).2 := by
  unfold State.stoCfgWrite
  repeat' first
    | with_reducible assumption
    | (unfold x; clear x)
    | with_reducible refine keeps_snd (by with_reducible assumption) ?_
    | with_reducible refine keeps_fst (by with_reducible assumption) ?_
    | (extract_lets -merge -useContext +onlyGivenNames x; first | (refine keeps_cut (s0 := z) x ?_ (fun hx => ?_); rotate_left; clear_value x) | (refine keeps_cut (s0 := z) x.1 ?_ (fun hx => ?_); rotate_left; clear_value x) | (refine keeps_cut (s0 := z) x.2 ?_ (fun hx => ?_); rotate_left; clear_value x) | have _ : Sto := x | clear_value x)
    | with_reducible refine setSto_keeps ?_ (fun _ hq => hq)
    | split
    | exact keeps_in (keeps_out hx)
    | exact keeps_in (keeps_out hs)
    | (refine keeps_in ?_; dsimp only; exact keeps_out (by with_reducible assumption))
    | dsimp only

theorem regReadOne_keeps {z : State} {s : State} (hs : Keeps z s) (a : Nat) : Keeps z (State.regReadOne s a).2 := by
  have hr : ∀ r : RegX, Keeps z { s with regs := r } := fun r => keeps_in (keeps_out hs)
  unfold State.regReadOne
  extract_lets v src
  refine keeps_ite_snd ?_ (keeps_ite_snd (hr _) ?_)
  · exact keeps_in { keeps_out hs with free := Nat.le_succ_of_le (keeps_out hs).free }
  · split
    · exact hr _
    · exact hs
    · exact hs

theorem regReads_keeps {z : State} {s : State} (hs : Keeps z s) (a : Nat) (n2 : Nat) : Keeps z (State.regReads s a n2).2 := by
  induction n2 generalizing s a with
  | zero => exact hs
  | succ n ih => exact ih (regReadOne_keeps hs a) (a + 4)

theorem regRead_keeps {z : State} {s : State} (hs : Keeps z s) (secure : Bool) (a : Nat) (n : Nat) : Keeps z (State.regRead s secure a n).2.2 := by
  unfold State.regRead
  repeat' first
    | with_reducible assumption
    | (unfold x; clear x)
    | with_reducible refine keeps_snd (by with_reducible assumption) ?_
    | with_reducible refine keeps_fst (by with_reducible assumption) ?_
    | (extract_lets -merge -useContext +onlyGivenNames x; first | (refine keeps_cut (s0 := z) x ?_ (fun hx => ?_); rotate_left; clear_value x) | (refine keeps_cut (s0 := z) x.1 ?_ (fun hx => ?_); rotate_left; clear_value x) | (refine keeps_cut (s0 := z) x.2 ?_ (fun hx => ?_); rotate_left; clear_value x) | clear_value x)
    | with_reducible apply regReads_keeps
    | split
    | exact keeps_in (keeps_out hx)
    | exact keeps_in (keeps_out hs)
    | (refine keeps_in ?_; dsimp only; exact keeps_out (by with_reducible assumption))
    | dsimp only

theorem putAll_keeps {z : State} {s : State} (hs : Keeps z s) (l : List (Field × Nat)) : Keeps z (State.putAll s l) := by
  unfold State.putAll
  repeat' first
    | with_reducible assumption
    | (unfold x; clear x)
    | with_reducible refine keeps_snd (by with_reducible assumption) ?_
    | with_reducible refine keeps_fst (by with_reducible assumption) ?_
    | (extract_lets -merge -useContext +onlyGivenNames x; first | (refine keeps_cut (s0 := z) x ?_ (fun hx => ?_); rotate_left; clear_value x) | (refine keeps_cut (s0 := z) x.1 ?_ (fun hx => ?_); rotate_left; clear_value x) | (refine keeps_cut (s0 := z) x.2 ?_ (fun hx => ?_); rotate_left; clear_value x) | clear_value x)
    | with_reducible apply put_keeps
    | with_reducible refine keeps_foldl ?_ (fun t b ht => ?_)
    | split
    | exact keeps_in (keeps_out hx)
    | exact keeps_in (keeps_out hs)
    | exact keeps_in (keeps_out ht)
    | (refine keeps_in ?_; dsimp only; exact keeps_out (by with_reducible assumption))
    | dsimp only

/-! ### What a write of a field keeps -/

/-- A field of its own kind keeps, whichever value a masked write merges for it. -/
def FieldKeeps (f : Field) : Prop :=
  ∀ wm sec w1 get set, f.h = .own wm sec w1 get set → ∀ z s t mask value, Keeps z s → Keeps z t →
    Keeps z (set t (State.merged s f mask value)).2

/-- Each field of a register does. -/
def FieldsKeep (l : List Field) : Prop := ∀ f ∈ l, FieldKeeps f

theorem fieldsKeep_nil : FieldsKeep [] := fun _ h => nomatch h
theorem fieldsKeep_cons {f : Field} {l : List Field} (h : FieldKeeps f) (k : FieldsKeep l) : FieldsKeep (f :: l) := by
  intro g hg
  rcases List.mem_cons.mp hg with rfl | hg
  · exact h
  · exact k g hg
theorem fieldsKeep_one {f : Field} (h : FieldKeeps f) : FieldsKeep [f] := fieldsKeep_cons h fieldsKeep_nil
theorem fieldsKeep_ite {c : Prop} [Decidable c] {l k : List Field} (hl : FieldsKeep l) (hk : FieldsKeep k) :
    FieldsKeep (if c then l else k) := by split <;> assumption

theorem fieldKeeps_ro {lo w : Nat} {get : State → Nat} : FieldKeeps (State.ro lo w get) := fun _ _ _ _ _ h => nomatch h
theorem fieldKeeps_free {lo w : Nat} : FieldKeeps ⟨lo, w, .free⟩ := fun _ _ _ _ _ h => nomatch h
theorem fieldKeeps_mir {lo w : Nat} {m : Mem} {i x : Nat} {c : Codec} : FieldKeeps (State.mir lo w m i x c) :=
  fun _ _ _ _ _ h => nomatch h
theorem fieldKeeps_own {lo w wm sec : Nat} {w1 : Bool} {get : State → Nat} {set : State → Nat → Status × State}
    (h : ∀ z t v, Keeps z t → Keeps z (set t v).2) : FieldKeeps ⟨lo, w, .own wm sec w1 get set⟩ := by
  intro _ _ _ _ set' e z s t mask value _ ht
  cases e
  exact h z t _ ht
theorem fieldsKeep_reg {wm sec : Nat} {w1 : Bool} {get : State → Nat} {set : State → Nat → State}
    (h : ∀ z t v, Keeps z t → Keeps z (set t v)) : FieldsKeep (State.reg wm sec w1 get set) :=
  fieldsKeep_one (fieldKeeps_own h)
theorem pageField_keep (p off wm sec : Nat) (w1 : Bool) : FieldsKeep (State.pageField p off wm sec w1) :=
  fieldsKeep_reg fun _ _ _ ht => pageWrite_keeps ht _ _ _ _
theorem smReg_keep (p wm : Nat) (get : CanPort → Nat) (set : CanPort → Nat → CanPort) : FieldsKeep (State.smReg p wm get set) :=
  fieldsKeep_reg fun _ _ _ ht => setCan_keeps ht _ _
theorem errRegs_keep (p : Nat) : FieldsKeep (State.errRegs p) :=
  fieldsKeep_cons (fieldKeeps_own fun _ _ _ ht => setPort_keeps ht _ _)
    (fieldsKeep_cons (fieldKeeps_own fun _ _ _ ht => setPort_keeps ht _ _)
      (fieldsKeep_cons (fieldKeeps_own fun _ _ _ ht => setPort_keeps ht _ _)
        (fieldsKeep_one (fieldKeeps_own fun _ _ _ ht => setPort_keeps ht _ _))))

/-- What a masked write leaves of the bits that no write reaches: the fixed bits of the block map. -/
theorem blkmap_merged (m : BitVec 32) (h : mapOk m) (a b : Nat) (ha : a &&& 0x0EFFFFFF = a) (hb : b &&& a = b) :
    mapOk (BitVec.ofNat 32 (m.toNat - (m.toNat &&& a) + b)) := by
  have la : a < 2 ^ 32 := by
    have := Nat.and_le_right (n := a) (m := 0x0EFFFFFF); omega
  have lb : b < 2 ^ 32 := by
    have := Nat.and_le_right (n := b) (m := a); omega
  obtain ⟨A, rfl⟩ : ∃ A : BitVec 32, A.toNat = a := ⟨BitVec.ofNat 32 a, Nat.mod_eq_of_lt la⟩
  obtain ⟨B, rfl⟩ : ∃ B : BitVec 32, B.toNat = b := ⟨BitVec.ofNat 32 b, Nat.mod_eq_of_lt lb⟩
  have hA : A &&& 0x0EFFFFFF#32 = A := BitVec.eq_of_toNat_eq ha
  have hB : B &&& A = B := BitVec.eq_of_toNat_eq hb
  have e : BitVec.ofNat 32 (m.toNat - (m.toNat &&& A.toNat) + B.toNat) = (m &&& ~~~A) ||| B := by
    have h1 : (m &&& ~~~A) + (m &&& A) = m := by
      rw [BitVec.add_eq_or_of_and_eq_zero]
      · ext i; simp; cases m[i] <;> simp
      · ext i; simp; cases m[i] <;> simp
    have h2 : (m &&& ~~~A) + B = (m &&& ~~~A) ||| B := by
      rw [← hB]
      refine BitVec.add_eq_or_of_and_eq_zero _ _ ?_
      ext i; simp; cases A[i] <;> simp
    rw [← h2, BitVec.ofNat_add]
    have h3 := Nat.and_le_left (n := m.toNat) (m := A.toNat)
    have h4 : BitVec.ofNat 32 (m.toNat - (m.toNat &&& A.toNat)) = m - (m &&& A) := by
      apply BitVec.eq_of_toNat_eq
      rw [BitVec.toNat_sub, BitVec.toNat_and, BitVec.toNat_ofNat]
      have := m.isLt
      omega
    rw [h4]
    have h5 : m - (m &&& A) = m &&& ~~~A := by
      conv => lhs; lhs; rw [← h1]
      exact BitVec.add_sub_cancel _ _
    rw [h5]
    simp
  have k : A &&& 0xF1000000#32 = 0#32 := by rw [← hA, BitVec.and_assoc]; exact BitVec.and_zero
  unfold mapOk at h ⊢
  change m &&& 0xF1000000#32 = 0xF1000000#32 at h
  change _ &&& 0xF1000000#32 = 0xF1000000#32
  rw [e]
  generalize 0xF1000000#32 = F at h k ⊢
  ext i hi
  have h0 := congrArg (fun x => x[i]) h
  have k0 := congrArg (fun x => x[i]) k
  simp only [BitVec.getElem_and, BitVec.getElem_or, BitVec.getElem_not, BitVec.getElem_zero] at h0 k0 ⊢
  revert h0 k0
  cases m[i] <;> cases A[i] <;> cases B[i] <;> cases F[i] <;> decide

theorem wmapRegs_keep (off : Nat) : FieldsKeep (State.wmapRegs off) := by
  unfold State.wmapRegs
  split
  · refine fieldsKeep_one ?_
    intro _ _ _ _ set e z s t mask value hs ht
    cases e
    refine keeps_sec ht (Nat.le_refl _) ?_
    have h := blkmap_merged s.sec.blkmap (keeps_out hs).map (bits mask 0 32 &&& 0x0EFFFFFF)
      (bits value 0 32 &&& (bits mask 0 32 &&& 0x0EFFFFFF)) (by rw [Nat.and_assoc, Nat.and_self]) (by rw [Nat.and_assoc, Nat.and_self])
    have hm : s.sec.blkmap.toNat % 2 ^ 32 = s.sec.blkmap.toNat := Nat.mod_eq_of_lt s.sec.blkmap.isLt
    rw [← hm] at h
    exact h
  · exact fieldsKeep_reg fun _ _ _ ht => keeps_sec ht (Nat.le_refl _) (keeps_out ht).map
  · exact fieldsKeep_reg fun _ _ _ ht => keeps_sec ht (Nat.le_refl _) (keeps_out ht).map
  · exact fieldsKeep_one fieldKeeps_ro
  · exact fieldsKeep_one fieldKeeps_ro
  · exact fieldsKeep_nil

theorem cmpRegs_keep (c off : Nat) : FieldsKeep (State.cmpRegs c off) := by
  unfold State.cmpRegs
  repeat' first
    | with_reducible exact fieldsKeep_nil
    | with_reducible refine fieldsKeep_cons fieldKeeps_ro ?_
    | with_reducible refine fieldsKeep_cons fieldKeeps_mir ?_
    | with_reducible refine fieldsKeep_cons fieldKeeps_free ?_
    | with_reducible refine fieldsKeep_ite ?_ ?_
    | split
  · exact fieldsKeep_reg fun _ _ _ ht => keeps_in (keeps_out ht)
  · exact fieldsKeep_reg fun _ _ _ ht => keeps_in (keeps_out ht)

theorem srcRegs_keep (j : Nat) : FieldsKeep (State.srcRegs j) := by
  unfold State.srcRegs
  repeat' first
    | with_reducible exact fieldsKeep_nil
    | with_reducible refine fieldsKeep_cons fieldKeeps_ro ?_
    | with_reducible refine fieldsKeep_cons fieldKeeps_mir ?_
    | with_reducible refine fieldsKeep_cons fieldKeeps_free ?_
    | with_reducible refine fieldsKeep_ite ?_ ?_
    | split

theorem sysRegs_keep (off : Nat) : FieldsKeep (State.sysRegs off) := by
  unfold State.sysRegs
  repeat' first
    | with_reducible exact fieldsKeep_nil
    | with_reducible refine fieldsKeep_cons fieldKeeps_ro ?_
    | with_reducible refine fieldsKeep_cons fieldKeeps_mir ?_
    | with_reducible refine fieldsKeep_cons fieldKeeps_free ?_
    | with_reducible refine fieldsKeep_ite ?_ ?_
    | split

theorem hostRegs_keep (off : Nat) : FieldsKeep (State.hostRegs off) := by
  unfold State.hostRegs
  repeat' first
    | with_reducible exact fieldsKeep_nil
    | with_reducible exact pageField_keep _ _ _ _ _
    | with_reducible exact errRegs_keep _
    | with_reducible refine fieldsKeep_cons fieldKeeps_ro ?_
    | with_reducible refine fieldsKeep_cons fieldKeeps_mir ?_
    | with_reducible refine fieldsKeep_cons fieldKeeps_free ?_
    | with_reducible refine fieldsKeep_ite ?_ ?_
    | split

theorem ringRegs_keep (off : Nat) : FieldsKeep (State.ringRegs off) := by
  unfold State.ringRegs
  repeat' first
    | with_reducible exact fieldsKeep_nil
    | with_reducible exact pageField_keep _ _ _ _ _
    | with_reducible refine fieldsKeep_cons fieldKeeps_ro ?_
    | with_reducible refine fieldsKeep_cons fieldKeeps_mir ?_
    | with_reducible refine fieldsKeep_cons fieldKeeps_free ?_
    | with_reducible refine fieldsKeep_ite ?_ ?_
    | split
  exact fieldsKeep_one (fieldKeeps_own fun _ _ _ ht => pageWrite_keeps ht _ _ _ _)

theorem evtRegs_keep (off : Nat) : FieldsKeep (State.evtRegs off) := by
  unfold State.evtRegs
  repeat' first
    | with_reducible exact fieldsKeep_nil
    | with_reducible exact pageField_keep _ _ _ _ _
    | with_reducible refine fieldsKeep_cons fieldKeeps_ro ?_
    | with_reducible refine fieldsKeep_cons fieldKeeps_mir ?_
    | with_reducible refine fieldsKeep_cons fieldKeeps_free ?_
    | with_reducible refine fieldsKeep_ite ?_ ?_
    | split

theorem tellerRegs_keep (off : Nat) : FieldsKeep (State.tellerRegs off) := by
  unfold State.tellerRegs
  repeat' first
    | with_reducible exact fieldsKeep_nil
    | with_reducible refine fieldsKeep_cons fieldKeeps_ro ?_
    | with_reducible refine fieldsKeep_cons fieldKeeps_mir ?_
    | with_reducible refine fieldsKeep_cons fieldKeeps_free ?_
    | with_reducible refine fieldsKeep_ite ?_ ?_
    | split

theorem engRegs_keep (off : Nat) : FieldsKeep (State.engRegs off) := by
  unfold State.engRegs
  repeat' first
    | with_reducible exact fieldsKeep_nil
    | with_reducible refine fieldsKeep_cons fieldKeeps_ro ?_
    | with_reducible refine fieldsKeep_cons fieldKeeps_mir ?_
    | with_reducible refine fieldsKeep_cons fieldKeeps_free ?_
    | with_reducible refine fieldsKeep_ite ?_ ?_
    | split

theorem exchRegs_keep (off : Nat) : FieldsKeep (State.exchRegs off) := by
  unfold State.exchRegs
  repeat' first
    | with_reducible exact fieldsKeep_nil
    | with_reducible refine fieldsKeep_cons fieldKeeps_ro ?_
    | with_reducible refine fieldsKeep_cons fieldKeeps_mir ?_
    | with_reducible refine fieldsKeep_cons fieldKeeps_free ?_
    | with_reducible refine fieldsKeep_ite ?_ ?_
    | split
  exact fieldsKeep_one (fieldKeeps_own fun _ _ _ ht => keeps_ite (keeps_in (keeps_out ht)) ht)

theorem tstoreRegs_keep (off : Nat) : FieldsKeep (State.tstoreRegs off) := by
  unfold State.tstoreRegs
  repeat' first
    | with_reducible exact fieldsKeep_nil
    | with_reducible refine fieldsKeep_cons fieldKeeps_ro ?_
    | with_reducible refine fieldsKeep_cons fieldKeeps_mir ?_
    | with_reducible refine fieldsKeep_cons fieldKeeps_free ?_
    | with_reducible refine fieldsKeep_ite ?_ ?_
    | split

theorem tbaseRegs_keep (off : Nat) : FieldsKeep (State.tbaseRegs off) := by
  unfold State.tbaseRegs
  repeat' first
    | with_reducible exact fieldsKeep_nil
    | with_reducible refine fieldsKeep_cons fieldKeeps_ro ?_
    | with_reducible refine fieldsKeep_cons fieldKeeps_mir ?_
    | with_reducible refine fieldsKeep_cons fieldKeeps_free ?_
    | with_reducible refine fieldsKeep_ite ?_ ?_
    | split
  · exact fieldsKeep_reg fun _ _ _ ht => keeps_in (keeps_out ht)
  · exact fieldsKeep_reg fun _ _ _ ht => keeps_ite (keeps_in (keeps_out ht)) ht

theorem fbRegs_keep (off : Nat) : FieldsKeep (State.fbRegs off) := by
  unfold State.fbRegs
  repeat' first
    | with_reducible exact fieldsKeep_nil
    | with_reducible exact cmpRegs_keep _ _
    | with_reducible refine fieldsKeep_cons fieldKeeps_ro ?_
    | with_reducible refine fieldsKeep_cons fieldKeeps_mir ?_
    | with_reducible refine fieldsKeep_cons fieldKeeps_free ?_
    | with_reducible refine fieldsKeep_ite ?_ ?_
    | split

theorem eoRegs_keep (off : Nat) : FieldsKeep (State.eoRegs off) := by
  unfold State.eoRegs
  repeat' first
    | with_reducible exact fieldsKeep_nil
    | with_reducible refine fieldsKeep_cons fieldKeeps_ro ?_
    | with_reducible refine fieldsKeep_cons fieldKeeps_mir ?_
    | with_reducible refine fieldsKeep_cons fieldKeeps_free ?_
    | with_reducible refine fieldsKeep_ite ?_ ?_
    | split

theorem sdRegs_keep (off : Nat) : FieldsKeep (State.sdRegs off) := by
  unfold State.sdRegs
  repeat' first
    | with_reducible exact fieldsKeep_nil
    | with_reducible refine fieldsKeep_cons fieldKeeps_ro ?_
    | with_reducible refine fieldsKeep_cons fieldKeeps_mir ?_
    | with_reducible refine fieldsKeep_cons fieldKeeps_free ?_
    | with_reducible refine fieldsKeep_ite ?_ ?_
    | split

theorem sarRegs_keep (off : Nat) : FieldsKeep (State.sarRegs off) := by
  unfold State.sarRegs
  repeat' first
    | with_reducible exact fieldsKeep_nil
    | with_reducible refine fieldsKeep_cons fieldKeeps_ro ?_
    | with_reducible refine fieldsKeep_cons fieldKeeps_mir ?_
    | with_reducible refine fieldsKeep_cons fieldKeeps_free ?_
    | with_reducible refine fieldsKeep_ite ?_ ?_
    | split

theorem dioRegs_keep (off : Nat) : FieldsKeep (State.dioRegs off) := by
  unfold State.dioRegs
  repeat' first
    | with_reducible exact fieldsKeep_nil
    | with_reducible refine fieldsKeep_cons fieldKeeps_ro ?_
    | with_reducible refine fieldsKeep_cons fieldKeeps_mir ?_
    | with_reducible refine fieldsKeep_cons fieldKeeps_free ?_
    | with_reducible refine fieldsKeep_ite ?_ ?_
    | split

theorem modRegs_keep (off : Nat) : FieldsKeep (State.modRegs off) := by
  unfold State.modRegs
  repeat' first
    | with_reducible exact fieldsKeep_nil
    | with_reducible refine fieldsKeep_cons fieldKeeps_ro ?_
    | with_reducible refine fieldsKeep_cons fieldKeeps_mir ?_
    | with_reducible refine fieldsKeep_cons fieldKeeps_free ?_
    | with_reducible refine fieldsKeep_ite ?_ ?_
    | split
  intro f hf
  obtain ⟨p, _, rfl⟩ := List.mem_map.mp hf
  exact fieldKeeps_mir

theorem gateRegs_keep (off : Nat) : FieldsKeep (State.gateRegs off) := by
  unfold State.gateRegs
  repeat' first
    | with_reducible exact fieldsKeep_nil
    | with_reducible refine fieldsKeep_cons fieldKeeps_ro ?_
    | with_reducible refine fieldsKeep_cons fieldKeeps_mir ?_
    | with_reducible refine fieldsKeep_cons fieldKeeps_free ?_
    | with_reducible refine fieldsKeep_ite ?_ ?_
    | split

theorem tripRegs_keep (off : Nat) : FieldsKeep (State.tripRegs off) := by
  unfold State.tripRegs
  repeat' first
    | with_reducible exact fieldsKeep_nil
    | with_reducible refine fieldsKeep_cons fieldKeeps_ro ?_
    | with_reducible refine fieldsKeep_cons fieldKeeps_mir ?_
    | with_reducible refine fieldsKeep_cons fieldKeeps_free ?_
    | with_reducible refine fieldsKeep_ite ?_ ?_
    | split
  · exact fieldsKeep_one (fieldKeeps_own fun _ _ _ ht => tripCfgWrite_keeps ht _ _)
  · exact fieldsKeep_one (fieldKeeps_own fun _ _ _ ht => keeps_foldl ht fun _ _ h => keeps_ite (setTrip_keeps h _ _) h)

theorem psnsRegs_keep (off : Nat) : FieldsKeep (State.psnsRegs off) := by
  unfold State.psnsRegs
  repeat' first
    | with_reducible exact fieldsKeep_nil
    | with_reducible refine fieldsKeep_cons fieldKeeps_ro ?_
    | with_reducible refine fieldsKeep_cons fieldKeeps_mir ?_
    | with_reducible refine fieldsKeep_cons fieldKeeps_free ?_
    | with_reducible refine fieldsKeep_ite ?_ ?_
    | split

theorem sortRegs_keep (off : Nat) : FieldsKeep (State.sortRegs off) := by
  unfold State.sortRegs
  repeat' first
    | with_reducible exact fieldsKeep_nil
    | with_reducible refine fieldsKeep_cons fieldKeeps_ro ?_
    | with_reducible refine fieldsKeep_cons fieldKeeps_mir ?_
    | with_reducible refine fieldsKeep_cons fieldKeeps_free ?_
    | with_reducible refine fieldsKeep_ite ?_ ?_
    | split

theorem xlnkRegs_keep (off : Nat) : FieldsKeep (State.xlnkRegs off) := by
  unfold State.xlnkRegs
  repeat' first
    | with_reducible exact fieldsKeep_nil
    | with_reducible refine fieldsKeep_cons fieldKeeps_ro ?_
    | with_reducible refine fieldsKeep_cons fieldKeeps_mir ?_
    | with_reducible refine fieldsKeep_cons fieldKeeps_free ?_
    | with_reducible refine fieldsKeep_ite ?_ ?_
    | split

theorem canRegs_keep (off : Nat) : FieldsKeep (State.canRegs off) := by
  unfold State.canRegs
  repeat' first
    | with_reducible exact fieldsKeep_nil
    | with_reducible exact smReg_keep _ _ _ _
    | with_reducible refine fieldsKeep_cons fieldKeeps_ro ?_
    | with_reducible refine fieldsKeep_cons fieldKeeps_mir ?_
    | with_reducible refine fieldsKeep_cons fieldKeeps_free ?_
    | with_reducible refine fieldsKeep_ite ?_ ?_
    | split
  exact fieldsKeep_cons (fieldKeeps_own fun _ _ _ ht => setCan_keeps ht _ _) (fieldsKeep_one fieldKeeps_ro)

theorem stoRegs_keep (off : Nat) : FieldsKeep (State.stoRegs off) := by
  unfold State.stoRegs
  repeat' first
    | with_reducible exact fieldsKeep_nil
    | with_reducible exact srcRegs_keep _
    | with_reducible refine fieldsKeep_cons fieldKeeps_ro ?_
    | with_reducible refine fieldsKeep_cons fieldKeeps_mir ?_
    | with_reducible refine fieldsKeep_cons fieldKeeps_free ?_
    | with_reducible refine fieldsKeep_ite ?_ ?_
    | split
  · exact fieldsKeep_one (fieldKeeps_own fun _ _ _ ht => stoCfgWrite_keeps ht _)
  · exact fieldsKeep_reg fun _ _ _ ht => setStoMap_keeps ht _ _

theorem traceRegs_keep (off : Nat) : FieldsKeep (State.traceRegs off) := by
  unfold State.traceRegs
  repeat' first
    | with_reducible exact fieldsKeep_nil
    | with_reducible refine fieldsKeep_cons fieldKeeps_ro ?_
    | with_reducible refine fieldsKeep_cons fieldKeeps_mir ?_
    | with_reducible refine fieldsKeep_cons fieldKeeps_free ?_
    | with_reducible refine fieldsKeep_ite ?_ ?_
    | split

theorem mramRegs_keep (off : Nat) : FieldsKeep (State.mramRegs off) := by
  unfold State.mramRegs
  repeat' first
    | with_reducible exact fieldsKeep_nil
    | with_reducible refine fieldsKeep_cons fieldKeeps_ro ?_
    | with_reducible refine fieldsKeep_cons fieldKeeps_mir ?_
    | with_reducible refine fieldsKeep_cons fieldKeeps_free ?_
    | with_reducible refine fieldsKeep_ite ?_ ?_
    | split

theorem otpRegs_keep (off : Nat) : FieldsKeep (State.otpRegs off) := by
  unfold State.otpRegs
  repeat' first
    | with_reducible exact fieldsKeep_nil
    | with_reducible refine fieldsKeep_cons fieldKeeps_ro ?_
    | with_reducible refine fieldsKeep_cons fieldKeeps_mir ?_
    | with_reducible refine fieldsKeep_cons fieldKeeps_free ?_
    | with_reducible refine fieldsKeep_ite ?_ ?_
    | split

theorem cocoonRegs_keep (off : Nat) : FieldsKeep (State.cocoonRegs off) := by
  unfold State.cocoonRegs
  repeat' first
    | with_reducible exact fieldsKeep_nil
    | with_reducible refine fieldsKeep_cons fieldKeeps_ro ?_
    | with_reducible refine fieldsKeep_cons fieldKeeps_mir ?_
    | with_reducible refine fieldsKeep_cons fieldKeeps_free ?_
    | with_reducible refine fieldsKeep_ite ?_ ?_
    | split
  exact fieldsKeep_reg fun _ _ _ ht => keeps_in (keeps_out ht)

theorem pwrRegs_keep (off : Nat) : FieldsKeep (State.pwrRegs off) := by
  unfold State.pwrRegs
  repeat' first
    | with_reducible exact fieldsKeep_nil
    | with_reducible refine fieldsKeep_cons fieldKeeps_ro ?_
    | with_reducible refine fieldsKeep_cons fieldKeeps_mir ?_
    | with_reducible refine fieldsKeep_cons fieldKeeps_free ?_
    | with_reducible refine fieldsKeep_ite ?_ ?_
    | split
  exact fieldsKeep_one (fieldKeeps_own fun _ _ _ ht => keeps_ite_snd ht (psreq_keeps ht _))

theorem thermRegs_keep (off : Nat) : FieldsKeep (State.thermRegs off) := by
  unfold State.thermRegs
  repeat' first
    | with_reducible exact fieldsKeep_nil
    | with_reducible refine fieldsKeep_cons fieldKeeps_ro ?_
    | with_reducible refine fieldsKeep_cons fieldKeeps_mir ?_
    | with_reducible refine fieldsKeep_cons fieldKeeps_free ?_
    | with_reducible refine fieldsKeep_ite ?_ ?_
    | split

theorem lifeRegs_keep (off : Nat) : FieldsKeep (State.lifeRegs off) := by
  unfold State.lifeRegs
  repeat' first
    | with_reducible exact fieldsKeep_nil
    | with_reducible refine fieldsKeep_cons fieldKeeps_ro ?_
    | with_reducible refine fieldsKeep_cons fieldKeeps_mir ?_
    | with_reducible refine fieldsKeep_cons fieldKeeps_free ?_
    | with_reducible refine fieldsKeep_ite ?_ ?_
    | split

theorem cryptRegs_keep (off : Nat) : FieldsKeep (State.cryptRegs off) := by
  unfold State.cryptRegs
  repeat' first
    | with_reducible exact fieldsKeep_nil
    | with_reducible refine fieldsKeep_cons fieldKeeps_ro ?_
    | with_reducible refine fieldsKeep_cons fieldKeeps_mir ?_
    | with_reducible refine fieldsKeep_cons fieldKeeps_free ?_
    | with_reducible refine fieldsKeep_ite ?_ ?_
    | split

theorem dbgRegs_keep (off : Nat) : FieldsKeep (State.dbgRegs off) := by
  unfold State.dbgRegs
  repeat' first
    | with_reducible exact fieldsKeep_nil
    | with_reducible refine fieldsKeep_cons fieldKeeps_ro ?_
    | with_reducible refine fieldsKeep_cons fieldKeeps_mir ?_
    | with_reducible refine fieldsKeep_cons fieldKeeps_free ?_
    | with_reducible refine fieldsKeep_ite ?_ ?_
    | split

theorem blockRegs_keep (b off : Nat) : FieldsKeep (State.blockRegs b off) := by
  unfold State.blockRegs
  split <;> first
    | exact fieldsKeep_nil
    | with_reducible exact sysRegs_keep off
    | with_reducible exact hostRegs_keep off
    | with_reducible exact ringRegs_keep off
    | with_reducible exact evtRegs_keep off
    | with_reducible exact tellerRegs_keep off
    | with_reducible exact engRegs_keep off
    | with_reducible exact exchRegs_keep off
    | with_reducible exact tstoreRegs_keep off
    | with_reducible exact tbaseRegs_keep off
    | with_reducible exact fbRegs_keep off
    | with_reducible exact eoRegs_keep off
    | with_reducible exact sdRegs_keep off
    | with_reducible exact sarRegs_keep off
    | with_reducible exact dioRegs_keep off
    | with_reducible exact modRegs_keep off
    | with_reducible exact gateRegs_keep off
    | with_reducible exact tripRegs_keep off
    | with_reducible exact psnsRegs_keep off
    | with_reducible exact sortRegs_keep off
    | with_reducible exact xlnkRegs_keep off
    | with_reducible exact canRegs_keep off
    | with_reducible exact stoRegs_keep off
    | with_reducible exact traceRegs_keep off
    | with_reducible exact mramRegs_keep off
    | with_reducible exact otpRegs_keep off
    | with_reducible exact cocoonRegs_keep off
    | with_reducible exact pwrRegs_keep off
    | with_reducible exact thermRegs_keep off
    | with_reducible exact lifeRegs_keep off
    | with_reducible exact cryptRegs_keep off
    | with_reducible exact dbgRegs_keep off
    | with_reducible exact wmapRegs_keep off

theorem fieldsAt_keep (a : Nat) : FieldsKeep (State.fieldsAt a) := by
  unfold State.fieldsAt
  split
  · exact blockRegs_keep _ _
  · exact fieldsKeep_nil

/-- Each value of a list, given to its field, keeps. -/
def ValuesKeep (z : State) (l : List (Field × Nat)) : Prop :=
  ∀ e ∈ l, ∀ wm sec w1 get set, e.1.h = .own wm sec w1 get set → ∀ t, Keeps z t → Keeps z (set t e.2).2

theorem reached_keep {z : State} {s : State} (hs : Keeps z s) (a mask value : Nat) : ValuesKeep z (State.reached s a mask value) := by
  intro e he wm sec w1 get set eq t ht
  unfold State.reached at he
  obtain ⟨f, hf, h⟩ := List.mem_filterMap.mp he
  have hf := fieldsAt_keep a f (List.mem_filter.mp hf).1
  dsimp only at h
  split at h
  · cases h
  · cases h
    exact hf _ _ _ _ _ eq z s t mask value hs ht

theorem setFields_keeps {z : State} {s : State} (hs : Keeps z s) (secure : Bool) (n2 : List (Field × Nat)) (n3 : Status)
    (hv : ValuesKeep z n2) : Keeps z (State.setFields s secure n2 n3).2 := by
  induction n2 generalizing s n3 with
  | nil => exact hs
  | cons e l ih =>
    obtain ⟨f, v⟩ := e
    unfold State.setFields
    split
    rename_i r s' e
    have hs' : Keeps z s' := by
      refine keeps_snd e ?_
      split
      · exact applyWrite_keeps hs _ _ _ _ _
      · rename_i eq
        exact hv (f, v) (List.mem_cons_self ..) _ _ _ _ _ eq s hs
      · exact hs
    split
    · exact ih hs' _ fun e he => hv e (List.mem_cons_of_mem _ he)
    · exact hs

theorem regApply_keeps {z : State} {s : State} (hs : Keeps z s) (secure : Bool) (a : Nat) (mask : Nat) (value : Nat) : Keeps z (State.regApply s secure a mask value).2 := by
  unfold State.regApply
  refine keeps_ite_snd hs ?_
  split
  rename_i st t e
  exact keeps_ite_snd (keeps_snd e (setFields_keeps hs secure _ _ (reached_keep hs a mask value))) hs

theorem regWrite_keeps {z : State} {s : State} (hs : Keeps z s) (secure : Bool) (a : Nat) (mask : Nat) (value : Nat) : Keeps z (State.regWrite s secure a mask value).2.2 := by
  unfold State.regWrite
  repeat' first
    | with_reducible assumption
    | (unfold x; clear x)
    | with_reducible refine keeps_snd (by with_reducible assumption) ?_
    | with_reducible refine keeps_fst (by with_reducible assumption) ?_
    | (extract_lets -merge -useContext +onlyGivenNames x; first | (refine keeps_cut (s0 := z) x ?_ (fun hx => ?_); rotate_left; clear_value x) | (refine keeps_cut (s0 := z) x.1 ?_ (fun hx => ?_); rotate_left; clear_value x) | (refine keeps_cut (s0 := z) x.2 ?_ (fun hx => ?_); rotate_left; clear_value x) | clear_value x)
    | with_reducible apply regApply_keeps
    | split
    | exact keeps_in (keeps_out hx)
    | exact keeps_in (keeps_out hs)
    | (refine keeps_in ?_; dsimp only; exact keeps_out (by with_reducible assumption))
    | dsimp only

end Sys2Proof.Laws
end

