-- ==== Sys2Proof/Laws/Requests.lean ====
section
/-! SUPPORT. What the operations of `Machine/Requests.lean` keep. -/
namespace Sys2Proof.Laws
open Machine Safety

theorem respond_keeps {z : State} {s : State} (hs : Keeps z s) (rq : Rq) (frame : List Byte) : Keeps z (State.respond s rq frame) := by
  unfold State.respond
  repeat' first
    | with_reducible assumption
    | (unfold x; clear x)
    | (extract_lets -merge -useContext +onlyGivenNames x; first | (refine keeps_cut (s0 := z) x ?_ (fun hx => ?_); rotate_left; clear_value x) | clear_value x)
    | with_reducible apply produce_keeps
    | with_reducible apply markLoss_keeps
    | with_reducible apply inc_keeps
    | split
    | exact keeps_in (keeps_out hx)
    | exact keeps_in (keeps_out hs)
    | (refine keeps_in ?_; dsimp only; exact keeps_out (by with_reducible assumption))
    | dsimp only

theorem takeEntry_keeps {z s : State} (hs : Keeps z s) (rq : Rq) : Keeps z (s.takeEntry rq) :=
  have h : Keeps z (s.consume rq.ring.val) := consume_keeps hs _
  keeps_ite h (keeps_in (keeps_out h))

theorem remember_keeps {z : State} {s : State} (hs : Keeps z s) (rq : Rq) (opcode : Nat) (frame : List Byte) : Keeps z (State.remember s rq opcode frame) := by
  unfold State.remember
  extract_lets k l
  refine keeps_ite hs (keeps_in { keeps_out hs with dup := rememberedOk_put s.dups k _ (keeps_out hs).dup ?_ })
  rw [List.length_drop]
  omega

theorem finish_keeps {z : State} {s : State} (hs : Keeps z s) (rq : Rq) (opcode : Nat) (addr : Nat) (secure : Bool) (deferred : Bool) (st : Status) (data : List Byte) : Keeps z (State.finish s rq opcode addr secure deferred st data) := by
  unfold State.finish
  repeat' first
    | with_reducible assumption
    | (unfold x; clear x)
    | (extract_lets -merge -useContext +onlyGivenNames x; first | (refine keeps_cut (s0 := z) x ?_ (fun hx => ?_); rotate_left; clear_value x) | clear_value x)
    | with_reducible apply respond_keeps
    | with_reducible apply remember_keeps
    | split
    | exact keeps_in (keeps_out hx)
    | exact keeps_in (keeps_out hs)
    | (refine keeps_in ?_; dsimp only; exact keeps_out (by with_reducible assumption))
    | dsimp only

theorem refuseFrame_keeps {z : State} {s : State} (hs : Keeps z s) (rq : Rq) (opcode : Nat) : Keeps z (State.refuseFrame s rq opcode) := by
  unfold State.refuseFrame
  repeat' first
    | with_reducible assumption
    | (unfold x; clear x)
    | (extract_lets -merge -useContext +onlyGivenNames x; first | (refine keeps_cut (s0 := z) x ?_ (fun hx => ?_); rotate_left; clear_value x) | clear_value x)
    | with_reducible apply respond_keeps
    | with_reducible apply inc_keeps
    | split
    | exact keeps_in (keeps_out hx)
    | exact keeps_in (keeps_out hs)
    | (refine keeps_in ?_; dsimp only; exact keeps_out (by with_reducible assumption))
    | dsimp only

theorem runOp_keeps {z : State} {s : State} (hs : Keeps z s) (rq : Rq) (o : OpRule) (addr : Nat) (run : Bool → State → Reply × State)
    (hr : ∀ sec t, Keeps z t → Keeps z (run sec t).2) : Keeps z (State.runOp s rq o addr run) := by
  unfold State.runOp
  extract_lets secure
  split
  rename_i r t e
  have ht : Keeps z t := by
    refine keeps_snd e ?_
    split
    · exact hs
    · exact hr _ _ hs
  extract_lets data
  split
  · exact finish_keeps ht _ _ _ _ _ _ _
  · exact keeps_ite (finish_keeps hs _ _ _ _ _ _ _) (keeps_in (keeps_out ht))

theorem handle_keeps {z : State} {s : State} (hs : Keeps z s) (rq : Rq) (o : OpRule) (addr : Nat) (lenOk : Bool)
    (run : Bool → State → Reply × State) (hr : ∀ sec t, Keeps z t → Keeps z (run sec t).2) : Keeps z (State.handle s rq o addr lenOk run) := by
  unfold State.handle
  repeat' first
    | with_reducible assumption
    | (unfold x; clear x)
    | with_reducible refine keeps_snd (by with_reducible assumption) ?_
    | with_reducible refine keeps_fst (by with_reducible assumption) ?_
    | (extract_lets -merge -useContext +onlyGivenNames x; first | (refine keeps_cut (s0 := z) x ?_ (fun hx => ?_); rotate_left; clear_value x) | (refine keeps_cut (s0 := z) x.1 ?_ (fun hx => ?_); rotate_left; clear_value x) | (refine keeps_cut (s0 := z) x.2 ?_ (fun hx => ?_); rotate_left; clear_value x) | clear_value x)
    | with_reducible apply takeEntry_keeps
    | with_reducible apply refuseFrame_keeps
    | with_reducible refine runOp_keeps ?_ _ _ _ _ hr
    | with_reducible apply respond_keeps
    | split
    | exact keeps_in (keeps_out hx)
    | exact keeps_in (keeps_out hs)
    | (refine keeps_in ?_; dsimp only; exact keeps_out (by with_reducible assumption))
    | dsimp only

theorem badFrame_keeps {z : State} {s : State} (hs : Keeps z s) (rq : Rq) (opcode : Nat) : Keeps z (State.badFrame s rq opcode) := by
  unfold State.badFrame
  repeat' first
    | with_reducible assumption
    | (unfold x; clear x)
    | (extract_lets -merge -useContext +onlyGivenNames x; first | (refine keeps_cut (s0 := z) x ?_ (fun hx => ?_); rotate_left; clear_value x) | clear_value x)
    | with_reducible apply refuseFrame_keeps
    | with_reducible apply consume_keeps
    | with_reducible apply takeEntry_keeps
    | split
    | exact keeps_in (keeps_out hx)
    | exact keeps_in (keeps_out hs)
    | (refine keeps_in ?_; dsimp only; exact keeps_out (by with_reducible assumption))
    | dsimp only

theorem deferredCompletion_keeps {z : State} {s : State} (hs : Keeps z s) (k : Nat) : Keeps z (State.deferredCompletion s k) := by
  unfold State.deferredCompletion
  repeat' first
    | with_reducible assumption
    | (unfold x; clear x)
    | with_reducible refine keeps_snd (by with_reducible assumption) ?_
    | with_reducible refine keeps_fst (by with_reducible assumption) ?_
    | (extract_lets -merge -useContext +onlyGivenNames x; first | (refine keeps_cut (s0 := z) x ?_ (fun hx => ?_); rotate_left; clear_value x) | (refine keeps_cut (s0 := z) x.1 ?_ (fun hx => ?_); rotate_left; clear_value x) | (refine keeps_cut (s0 := z) x.2 ?_ (fun hx => ?_); rotate_left; clear_value x) | have _ : Sec := x | clear_value x)
    | with_reducible apply respond_keeps
    | with_reducible apply remember_keeps
    | split
    | exact keeps_in (keeps_out hx)
    | exact keeps_in (keeps_out hs)
    | (refine keeps_in ?_; dsimp only; exact keeps_out (by with_reducible assumption))
    | dsimp only

theorem nop_keeps {z : State} {s : State} (hs : Keeps z s) (rq : Rq) (payload : List Byte) : Keeps z (State.nop s rq payload) := by
  unfold State.nop
  repeat' first
    | with_reducible assumption
    | (unfold x; clear x)
    | with_reducible refine keeps_snd (by with_reducible assumption) ?_
    | with_reducible refine keeps_fst (by with_reducible assumption) ?_
    | (extract_lets -merge -useContext +onlyGivenNames x; first | (refine keeps_cut (s0 := z) x ?_ (fun hx => ?_); rotate_left; clear_value x) | (refine keeps_cut (s0 := z) x.1 ?_ (fun hx => ?_); rotate_left; clear_value x) | (refine keeps_cut (s0 := z) x.2 ?_ (fun hx => ?_); rotate_left; clear_value x) | clear_value x)
    | with_reducible refine handle_keeps hs _ _ _ _ _ (fun sec t ht => ?_)
    | exact keeps_in (keeps_out ht)
    | split
    | exact keeps_in (keeps_out hx)
    | exact keeps_in (keeps_out hs)
    | (refine keeps_in ?_; dsimp only; exact keeps_out (by with_reducible assumption))
    | dsimp only

theorem ident_keeps {z : State} {s : State} (hs : Keeps z s) (rq : Rq) : Keeps z (State.ident s rq) := by
  unfold State.ident
  repeat' first
    | with_reducible assumption
    | (unfold x; clear x)
    | with_reducible refine keeps_snd (by with_reducible assumption) ?_
    | with_reducible refine keeps_fst (by with_reducible assumption) ?_
    | (extract_lets -merge -useContext +onlyGivenNames x; first | (refine keeps_cut (s0 := z) x ?_ (fun hx => ?_); rotate_left; clear_value x) | (refine keeps_cut (s0 := z) x.1 ?_ (fun hx => ?_); rotate_left; clear_value x) | (refine keeps_cut (s0 := z) x.2 ?_ (fun hx => ?_); rotate_left; clear_value x) | clear_value x)
    | with_reducible refine handle_keeps hs _ _ _ _ _ (fun sec t ht => ?_)
    | exact keeps_in (keeps_out ht)
    | split
    | exact keeps_in (keeps_out hx)
    | exact keeps_in (keeps_out hs)
    | (refine keeps_in ?_; dsimp only; exact keeps_out (by with_reducible assumption))
    | dsimp only

theorem status_keeps {z : State} {s : State} (hs : Keeps z s) (rq : Rq) : Keeps z (State.status s rq) := by
  unfold State.status
  repeat' first
    | with_reducible assumption
    | (unfold x; clear x)
    | with_reducible refine keeps_snd (by with_reducible assumption) ?_
    | with_reducible refine keeps_fst (by with_reducible assumption) ?_
    | (extract_lets -merge -useContext +onlyGivenNames x; first | (refine keeps_cut (s0 := z) x ?_ (fun hx => ?_); rotate_left; clear_value x) | (refine keeps_cut (s0 := z) x.1 ?_ (fun hx => ?_); rotate_left; clear_value x) | (refine keeps_cut (s0 := z) x.2 ?_ (fun hx => ?_); rotate_left; clear_value x) | clear_value x)
    | with_reducible refine handle_keeps hs _ _ _ _ _ (fun sec t ht => ?_)
    | exact keeps_in (keeps_out ht)
    | split
    | exact keeps_in (keeps_out hx)
    | exact keeps_in (keeps_out hs)
    | (refine keeps_in ?_; dsimp only; exact keeps_out (by with_reducible assumption))
    | dsimp only

theorem challenge_keeps {z : State} {s : State} (hs : Keeps z s) (rq : Rq) : Keeps z (State.challenge s rq) := by
  unfold State.challenge
  repeat' first
    | with_reducible assumption
    | (unfold x; clear x)
    | with_reducible refine keeps_snd (by with_reducible assumption) ?_
    | with_reducible refine keeps_fst (by with_reducible assumption) ?_
    | (extract_lets -merge -useContext +onlyGivenNames x; first | (refine keeps_cut (s0 := z) x ?_ (fun hx => ?_); rotate_left; clear_value x) | (refine keeps_cut (s0 := z) x.1 ?_ (fun hx => ?_); rotate_left; clear_value x) | (refine keeps_cut (s0 := z) x.2 ?_ (fun hx => ?_); rotate_left; clear_value x) | clear_value x)
    | with_reducible refine handle_keeps hs _ _ _ _ _ (fun sec t ht => ?_)
    | exact keeps_in (keeps_out ht)
    | with_reducible apply drawNonce_keeps
    | split
    | exact keeps_in (keeps_out hx)
    | exact keeps_in (keeps_out hs)
    | (refine keeps_in ?_; dsimp only; exact keeps_out (by with_reducible assumption))
    | dsimp only

theorem objRead_keeps {z : State} {s : State} (hs : Keeps z s) (rq : Rq) (addr : Nat) : Keeps z (State.objRead s rq addr) := by
  unfold State.objRead
  repeat' first
    | with_reducible assumption
    | (unfold x; clear x)
    | with_reducible refine keeps_snd (by with_reducible assumption) ?_
    | with_reducible refine keeps_fst (by with_reducible assumption) ?_
    | (extract_lets -merge -useContext +onlyGivenNames x; first | (refine keeps_cut (s0 := z) x ?_ (fun hx => ?_); rotate_left; clear_value x) | (refine keeps_cut (s0 := z) x.1 ?_ (fun hx => ?_); rotate_left; clear_value x) | (refine keeps_cut (s0 := z) x.2 ?_ (fun hx => ?_); rotate_left; clear_value x) | clear_value x)
    | with_reducible refine handle_keeps hs _ _ _ _ _ (fun sec t ht => ?_)
    | exact keeps_in (keeps_out ht)
    | split
    | exact keeps_in (keeps_out hx)
    | exact keeps_in (keeps_out hs)
    | (refine keeps_in ?_; dsimp only; exact keeps_out (by with_reducible assumption))
    | dsimp only

theorem writeItem_keeps {z : State} {s : State} (hs : Keeps z s) (sec : Bool) (q : PsetItem) : Keeps z (State.writeItem s sec q).2 := by
  unfold State.writeItem
  repeat' first
    | with_reducible assumption
    | (unfold x; clear x)
    | with_reducible refine keeps_snd (by with_reducible assumption) ?_
    | with_reducible refine keeps_fst (by with_reducible assumption) ?_
    | (extract_lets -merge -useContext +onlyGivenNames x; first | (refine keeps_cut (s0 := z) x ?_ (fun hx => ?_); rotate_left; clear_value x) | clear_value x)
    | with_reducible apply writeMember_keeps
    | split
    | exact keeps_in (keeps_out hx)
    | exact keeps_in (keeps_out hs)
    | (refine keeps_in ?_; dsimp only; exact keeps_out (by with_reducible assumption))
    | dsimp only

theorem objWrite_keeps {z : State} {s : State} (hs : Keeps z s) (rq : Rq) (q : PsetItem) : Keeps z (State.objWrite s rq q) := by
  unfold State.objWrite
  repeat' first
    | with_reducible assumption
    | (unfold x; clear x)
    | with_reducible refine keeps_snd (by with_reducible assumption) ?_
    | with_reducible refine keeps_fst (by with_reducible assumption) ?_
    | with_reducible refine keeps_third (by with_reducible assumption) ?_
    | with_reducible refine keeps_mid (by with_reducible assumption) ?_
    | (extract_lets -merge -useContext +onlyGivenNames x; first | (refine keeps_cut (s0 := z) x ?_ (fun hx => ?_); rotate_left; clear_value x) | (refine keeps_cut (s0 := z) x.1 ?_ (fun hx => ?_); rotate_left; clear_value x) | (refine keeps_cut (s0 := z) x.2 ?_ (fun hx => ?_); rotate_left; clear_value x) | clear_value x)
    | with_reducible refine handle_keeps hs _ _ _ _ _ (fun sec t ht => ?_)
    | exact keeps_in (keeps_out ht)
    | with_reducible apply writeItem_keeps
    | with_reducible apply handle_keeps
    | split
    | exact keeps_in (keeps_out hx)
    | exact keeps_in (keeps_out hs)
    | (refine keeps_in ?_; dsimp only; exact keeps_out (by with_reducible assumption))
    | dsimp only

theorem rowWrite_keeps {z : State} {s : State} (hs : Keeps z s) (w : Wq) (m : Mem) (v : Int) : Keeps z (State.rowWrite s w m v) := by
  unfold State.rowWrite
  repeat' first
    | with_reducible assumption
    | (unfold x; clear x)
    | (extract_lets -merge -useContext +onlyGivenNames x; first | (refine keeps_cut (s0 := z) x ?_ (fun hx => ?_); rotate_left; clear_value x) | clear_value x)
    | with_reducible apply objWrite_keeps
    | split
    | exact keeps_in (keeps_out hx)
    | exact keeps_in (keeps_out hs)
    | (refine keeps_in ?_; dsimp only; exact keeps_out (by with_reducible assumption))
    | dsimp only

theorem objReadMulti_keeps {z : State} {s : State} (hs : Keeps z s) (rq : Rq) (l : List Nat) : Keeps z (State.objReadMulti s rq l) := by
  unfold State.objReadMulti
  repeat' first
    | with_reducible assumption
    | (unfold x; clear x)
    | with_reducible refine keeps_snd (by with_reducible assumption) ?_
    | with_reducible refine keeps_fst (by with_reducible assumption) ?_
    | (extract_lets -merge -useContext +onlyGivenNames x; first | (refine keeps_cut (s0 := z) x ?_ (fun hx => ?_); rotate_left; clear_value x) | (refine keeps_cut (s0 := z) x.1 ?_ (fun hx => ?_); rotate_left; clear_value x) | (refine keeps_cut (s0 := z) x.2 ?_ (fun hx => ?_); rotate_left; clear_value x) | clear_value x)
    | with_reducible refine handle_keeps hs _ _ _ _ _ (fun sec t ht => ?_)
    | exact keeps_in (keeps_out ht)
    | split
    | exact keeps_in (keeps_out hx)
    | exact keeps_in (keeps_out hs)
    | (refine keeps_in ?_; dsimp only; exact keeps_out (by with_reducible assumption))
    | dsimp only

theorem writeItems_keeps {z : State} {s : State} (hs : Keeps z s) (sec : Bool) (n2 : List PsetItem) (n3 : Nat) (n4 : Status) : Keeps z (State.writeItems s sec n2 n3 n4).2.2.2 := by
  induction n2 generalizing s n3 n4 with
  | nil => exact hs
  | cons q l ih =>
    unfold State.writeItems
    split
    · exact hs
    · split
      rename_i r t e
      have ht : Keeps z t := keeps_snd e (writeItem_keeps hs _ _)
      split
      · exact ih ht _ _
      · exact hs

theorem objWriteMulti_keeps {z : State} {s : State} (hs : Keeps z s) (rq : Rq) (l : List PsetItem) : Keeps z (State.objWriteMulti s rq l) := by
  unfold State.objWriteMulti
  repeat' first
    | with_reducible assumption
    | (unfold x; clear x)
    | with_reducible refine keeps_snd (by with_reducible assumption) ?_
    | with_reducible refine keeps_fst (by with_reducible assumption) ?_
    | with_reducible refine keeps_third (by with_reducible assumption) ?_
    | with_reducible refine keeps_mid (by with_reducible assumption) ?_
    | with_reducible refine keeps_fourth (by with_reducible assumption) ?_
    | (extract_lets -merge -useContext +onlyGivenNames x; first | (refine keeps_cut (s0 := z) x ?_ (fun hx => ?_); rotate_left; clear_value x) | (refine keeps_cut (s0 := z) x.1 ?_ (fun hx => ?_); rotate_left; clear_value x) | (refine keeps_cut (s0 := z) x.2 ?_ (fun hx => ?_); rotate_left; clear_value x) | clear_value x)
    | with_reducible refine handle_keeps hs _ _ _ _ _ (fun sec t ht => ?_)
    | exact keeps_in (keeps_out ht)
    | with_reducible apply writeItems_keeps
    | split
    | exact keeps_in (keeps_out hx)
    | exact keeps_in (keeps_out hs)
    | (refine keeps_in ?_; dsimp only; exact keeps_out (by with_reducible assumption))
    | dsimp only

theorem blockRead_keeps {z : State} {s : State} (hs : Keeps z s) (rq : Rq) (addr : Nat) (n : Nat) : Keeps z (State.blockRead s rq addr n) := by
  unfold State.blockRead
  repeat' first
    | with_reducible assumption
    | (unfold x; clear x)
    | with_reducible refine keeps_snd (by with_reducible assumption) ?_
    | with_reducible refine keeps_fst (by with_reducible assumption) ?_
    | (extract_lets -merge -useContext +onlyGivenNames x; first | (refine keeps_cut (s0 := z) x ?_ (fun hx => ?_); rotate_left; clear_value x) | (refine keeps_cut (s0 := z) x.1 ?_ (fun hx => ?_); rotate_left; clear_value x) | (refine keeps_cut (s0 := z) x.2 ?_ (fun hx => ?_); rotate_left; clear_value x) | clear_value x)
    | with_reducible refine handle_keeps hs _ _ _ _ _ (fun sec t ht => ?_)
    | exact keeps_in (keeps_out ht)
    | split
    | exact keeps_in (keeps_out hx)
    | exact keeps_in (keeps_out hs)
    | (refine keeps_in ?_; dsimp only; exact keeps_out (by with_reducible assumption))
    | dsimp only

theorem blockWrite_keeps {z : State} {s : State} (hs : Keeps z s) (rq : Rq) (addr : Nat) (ty : Nat) (vals : List Int) : Keeps z (State.blockWrite s rq addr ty vals) := by
  unfold State.blockWrite
  repeat' first
    | with_reducible assumption
    | (unfold x; clear x)
    | with_reducible refine keeps_snd (by with_reducible assumption) ?_
    | with_reducible refine keeps_fst (by with_reducible assumption) ?_
    | with_reducible refine keeps_third (by with_reducible assumption) ?_
    | with_reducible refine keeps_mid (by with_reducible assumption) ?_
    | with_reducible refine keeps_fourth (by with_reducible assumption) ?_
    | (extract_lets -merge -useContext +onlyGivenNames x; first | (refine keeps_cut (s0 := z) x ?_ (fun hx => ?_); rotate_left; clear_value x) | (refine keeps_cut (s0 := z) x.1 ?_ (fun hx => ?_); rotate_left; clear_value x) | (refine keeps_cut (s0 := z) x.2 ?_ (fun hx => ?_); rotate_left; clear_value x) | clear_value x)
    | with_reducible refine handle_keeps hs _ _ _ _ _ (fun sec t ht => ?_)
    | exact keeps_in (keeps_out ht)
    | with_reducible apply writeItems_keeps
    | split
    | exact keeps_in (keeps_out hx)
    | exact keeps_in (keeps_out hs)
    | (refine keeps_in ?_; dsimp only; exact keeps_out (by with_reducible assumption))
    | dsimp only

theorem dictRead_keeps {z : State} {s : State} (hs : Keeps z s) (rq : Rq) (addr : Nat) (n : Nat) : Keeps z (State.dictRead s rq addr n) := by
  unfold State.dictRead
  repeat' first
    | with_reducible assumption
    | (unfold x; clear x)
    | with_reducible refine keeps_snd (by with_reducible assumption) ?_
    | with_reducible refine keeps_fst (by with_reducible assumption) ?_
    | (extract_lets -merge -useContext +onlyGivenNames x; first | (refine keeps_cut (s0 := z) x ?_ (fun hx => ?_); rotate_left; clear_value x) | (refine keeps_cut (s0 := z) x.1 ?_ (fun hx => ?_); rotate_left; clear_value x) | (refine keeps_cut (s0 := z) x.2 ?_ (fun hx => ?_); rotate_left; clear_value x) | clear_value x)
    | with_reducible refine handle_keeps hs _ _ _ _ _ (fun sec t ht => ?_)
    | exact keeps_in (keeps_out ht)
    | with_reducible refine keeps_foldl ?_ (fun t b ht => ?_)
    | (with_reducible refine keeps_foldl_fst ?_ (fun t b ht => ?_); rotate_left; rcases t with ⟨t, r⟩; dsimp -zeta only at ht ⊢)
    | (with_reducible refine keeps_foldl_snd ?_ (fun t b ht => ?_); rotate_left; rcases t with ⟨r, t⟩; dsimp -zeta only at ht ⊢)
    | split
    | exact keeps_in (keeps_out hx)
    | exact keeps_in (keeps_out hs)
    | exact keeps_in (keeps_out ht)
    | (refine keeps_in ?_; dsimp only; exact keeps_out (by with_reducible assumption))
    | dsimp only

theorem reqRegRead_keeps {z : State} {s : State} (hs : Keeps z s) (rq : Rq) (addr : Nat) (n : Nat) : Keeps z (State.reqRegRead s rq addr n) := by
  unfold State.reqRegRead
  repeat' first
    | with_reducible assumption
    | (unfold x; clear x)
    | with_reducible refine keeps_snd (by with_reducible assumption) ?_
    | with_reducible refine keeps_fst (by with_reducible assumption) ?_
    | with_reducible refine keeps_third (by with_reducible assumption) ?_
    | with_reducible refine keeps_mid (by with_reducible assumption) ?_
    | with_reducible refine keeps_fourth (by with_reducible assumption) ?_
    | (extract_lets -merge -useContext +onlyGivenNames x; first | (refine keeps_cut (s0 := z) x ?_ (fun hx => ?_); rotate_left; clear_value x) | (refine keeps_cut (s0 := z) x.1 ?_ (fun hx => ?_); rotate_left; clear_value x) | (refine keeps_cut (s0 := z) x.2 ?_ (fun hx => ?_); rotate_left; clear_value x) | clear_value x)
    | with_reducible refine handle_keeps hs _ _ _ _ _ (fun sec t ht => ?_)
    | exact keeps_in (keeps_out ht)
    | with_reducible apply regRead_keeps
    | split
    | exact keeps_in (keeps_out hx)
    | exact keeps_in (keeps_out hs)
    | (refine keeps_in ?_; dsimp only; exact keeps_out (by with_reducible assumption))
    | dsimp only

theorem reqRegWrite_keeps {z : State} {s : State} (hs : Keeps z s) (rq : Rq) (addr : Nat) (mask : Nat) (value : Nat) : Keeps z (State.reqRegWrite s rq addr mask value) := by
  unfold State.reqRegWrite
  repeat' first
    | with_reducible assumption
    | (unfold x; clear x)
    | with_reducible refine keeps_snd (by with_reducible assumption) ?_
    | with_reducible refine keeps_fst (by with_reducible assumption) ?_
    | with_reducible refine keeps_third (by with_reducible assumption) ?_
    | with_reducible refine keeps_mid (by with_reducible assumption) ?_
    | with_reducible refine keeps_fourth (by with_reducible assumption) ?_
    | (extract_lets -merge -useContext +onlyGivenNames x; first | (refine keeps_cut (s0 := z) x ?_ (fun hx => ?_); rotate_left; clear_value x) | (refine keeps_cut (s0 := z) x.1 ?_ (fun hx => ?_); rotate_left; clear_value x) | (refine keeps_cut (s0 := z) x.2 ?_ (fun hx => ?_); rotate_left; clear_value x) | clear_value x)
    | with_reducible refine handle_keeps hs _ _ _ _ _ (fun sec t ht => ?_)
    | exact keeps_in (keeps_out ht)
    | with_reducible apply regWrite_keeps
    | split
    | exact keeps_in (keeps_out hx)
    | exact keeps_in (keeps_out hs)
    | (refine keeps_in ?_; dsimp only; exact keeps_out (by with_reducible assumption))
    | dsimp only

theorem reqLedgerRead_keeps {z : State} {s : State} (hs : Keeps z s) (rq : Rq) (recno : Nat) (n : Nat) : Keeps z (State.reqLedgerRead s rq recno n) := by
  unfold State.reqLedgerRead
  repeat' first
    | with_reducible assumption
    | (unfold x; clear x)
    | with_reducible refine keeps_snd (by with_reducible assumption) ?_
    | with_reducible refine keeps_fst (by with_reducible assumption) ?_
    | (extract_lets -merge -useContext +onlyGivenNames x; first | (refine keeps_cut (s0 := z) x ?_ (fun hx => ?_); rotate_left; clear_value x) | (refine keeps_cut (s0 := z) x.1 ?_ (fun hx => ?_); rotate_left; clear_value x) | (refine keeps_cut (s0 := z) x.2 ?_ (fun hx => ?_); rotate_left; clear_value x) | clear_value x)
    | with_reducible refine handle_keeps hs _ _ _ _ _ (fun sec t ht => ?_)
    | exact keeps_in (keeps_out ht)
    | split
    | exact keeps_in (keeps_out hx)
    | exact keeps_in (keeps_out hs)
    | (refine keeps_in ?_; dsimp only; exact keeps_out (by with_reducible assumption))
    | dsimp only

theorem cellSvc_keeps {z : State} {s : State} (hs : Keeps z s) (rq : Rq) (r : Nat) (op : Nat) (slot : Nat) (addr : Nat) (data : List Byte) : Keeps z (State.cellSvc s rq r op slot addr data) := by
  unfold State.cellSvc
  repeat' first
    | with_reducible assumption
    | (unfold x; clear x)
    | with_reducible refine keeps_snd (by with_reducible assumption) ?_
    | with_reducible refine keeps_fst (by with_reducible assumption) ?_
    | (extract_lets -merge -useContext +onlyGivenNames x; first | (refine keeps_cut (s0 := z) x ?_ (fun hx => ?_); rotate_left; clear_value x) | (refine keeps_cut (s0 := z) x.1 ?_ (fun hx => ?_); rotate_left; clear_value x) | (refine keeps_cut (s0 := z) x.2 ?_ (fun hx => ?_); rotate_left; clear_value x) | clear_value x)
    | with_reducible refine handle_keeps hs _ _ _ _ _ (fun sec t ht => ?_)
    | exact keeps_in (keeps_out ht)
    | with_reducible apply setLink_keeps
    | split
    | exact keeps_in (keeps_out hx)
    | exact keeps_in (keeps_out hs)
    | (refine keeps_in ?_; dsimp only; exact keeps_out (by with_reducible assumption))
    | dsimp only

theorem canTx_keeps {z : State} {s : State} (hs : Keeps z s) (rq : Rq) (p : Nat) (flags : Nat) (id : Nat) (data : List Byte) : Keeps z (State.canTx s rq p flags id data) := by
  unfold State.canTx
  repeat' first
    | with_reducible assumption
    | (unfold x; clear x)
    | with_reducible refine keeps_snd (by with_reducible assumption) ?_
    | with_reducible refine keeps_fst (by with_reducible assumption) ?_
    | with_reducible refine keeps_third (by with_reducible assumption) ?_
    | with_reducible refine keeps_mid (by with_reducible assumption) ?_
    | (extract_lets -merge -useContext +onlyGivenNames x; first | (refine keeps_cut (s0 := z) x ?_ (fun hx => ?_); rotate_left; clear_value x) | (refine keeps_cut (s0 := z) x.1 ?_ (fun hx => ?_); rotate_left; clear_value x) | (refine keeps_cut (s0 := z) x.2 ?_ (fun hx => ?_); rotate_left; clear_value x) | clear_value x)
    | with_reducible refine handle_keeps hs _ _ _ _ _ (fun sec t ht => ?_)
    | exact keeps_in (keeps_out ht)
    | with_reducible apply canSend_keeps
    | with_reducible apply handle_keeps
    | split
    | exact keeps_in (keeps_out hx)
    | exact keeps_in (keeps_out hs)
    | (refine keeps_in ?_; dsimp only; exact keeps_out (by with_reducible assumption))
    | dsimp only

theorem reqReset_keeps {z : State} {s : State} (hs : Keeps z s) (rq : Rq) (nonce : Nat) (sig : Nat) : Keeps z (State.reqReset s rq nonce sig) := by
  unfold State.reqReset
  repeat' first
    | with_reducible assumption
    | (unfold x; clear x)
    | with_reducible refine keeps_snd (by with_reducible assumption) ?_
    | with_reducible refine keeps_fst (by with_reducible assumption) ?_
    | (extract_lets -merge -useContext +onlyGivenNames x; first | (refine keeps_cut (s0 := z) x ?_ (fun hx => ?_); rotate_left; clear_value x) | (refine keeps_cut (s0 := z) x.1 ?_ (fun hx => ?_); rotate_left; clear_value x) | (refine keeps_cut (s0 := z) x.2 ?_ (fun hx => ?_); rotate_left; clear_value x) | clear_value x)
    | with_reducible refine handle_keeps hs _ _ _ _ _ (fun sec t ht => ?_)
    | exact keeps_in (keeps_out ht)
    | with_reducible apply resetRequest_keeps
    | split
    | exact keeps_in (keeps_out hx)
    | exact keeps_in (keeps_out hs)
    | (refine keeps_in ?_; dsimp only; exact keeps_out (by with_reducible assumption))
    | dsimp only

theorem reqFwBegin_keeps {z : State} {s : State} (hs : Keeps z s) (rq : Rq) (slot : Nat) (len : Nat) (ver : Nat) : Keeps z (State.reqFwBegin s rq slot len ver) := by
  unfold State.reqFwBegin
  repeat' first
    | with_reducible assumption
    | (unfold x; clear x)
    | with_reducible refine keeps_snd (by with_reducible assumption) ?_
    | with_reducible refine keeps_fst (by with_reducible assumption) ?_
    | (extract_lets -merge -useContext +onlyGivenNames x; first | (refine keeps_cut (s0 := z) x ?_ (fun hx => ?_); rotate_left; clear_value x) | (refine keeps_cut (s0 := z) x.1 ?_ (fun hx => ?_); rotate_left; clear_value x) | (refine keeps_cut (s0 := z) x.2 ?_ (fun hx => ?_); rotate_left; clear_value x) | clear_value x)
    | with_reducible refine handle_keeps hs _ _ _ _ _ (fun sec t ht => ?_)
    | exact keeps_in (keeps_out ht)
    | with_reducible apply fwBegin_keeps
    | split
    | exact keeps_in (keeps_out hx)
    | exact keeps_in (keeps_out hs)
    | (refine keeps_in ?_; dsimp only; exact keeps_out (by with_reducible assumption))
    | dsimp only

theorem reqFwData_keeps {z : State} {s : State} (hs : Keeps z s) (rq : Rq) (off : Nat) (data : List Byte) : Keeps z (State.reqFwData s rq off data) := by
  unfold State.reqFwData
  repeat' first
    | with_reducible assumption
    | (unfold x; clear x)
    | with_reducible refine keeps_snd (by with_reducible assumption) ?_
    | with_reducible refine keeps_fst (by with_reducible assumption) ?_
    | (extract_lets -merge -useContext +onlyGivenNames x; first | (refine keeps_cut (s0 := z) x ?_ (fun hx => ?_); rotate_left; clear_value x) | (refine keeps_cut (s0 := z) x.1 ?_ (fun hx => ?_); rotate_left; clear_value x) | (refine keeps_cut (s0 := z) x.2 ?_ (fun hx => ?_); rotate_left; clear_value x) | clear_value x)
    | with_reducible refine handle_keeps hs _ _ _ _ _ (fun sec t ht => ?_)
    | exact keeps_in (keeps_out ht)
    | with_reducible apply fwData_keeps
    | split
    | exact keeps_in (keeps_out hx)
    | exact keeps_in (keeps_out hs)
    | (refine keeps_in ?_; dsimp only; exact keeps_out (by with_reducible assumption))
    | dsimp only

theorem reqFwEnd_keeps {z : State} {s : State} (hs : Keeps z s) (rq : Rq) (digest : Nat) (sig : Nat) : Keeps z (State.reqFwEnd s rq digest sig) := by
  unfold State.reqFwEnd
  repeat' first
    | with_reducible assumption
    | (unfold x; clear x)
    | with_reducible refine keeps_snd (by with_reducible assumption) ?_
    | with_reducible refine keeps_fst (by with_reducible assumption) ?_
    | with_reducible refine keeps_third (by with_reducible assumption) ?_
    | with_reducible refine keeps_mid (by with_reducible assumption) ?_
    | with_reducible refine keeps_fourth (by with_reducible assumption) ?_
    | (extract_lets -merge -useContext +onlyGivenNames x; first | (refine keeps_cut (s0 := z) x ?_ (fun hx => ?_); rotate_left; clear_value x) | (refine keeps_cut (s0 := z) x.1 ?_ (fun hx => ?_); rotate_left; clear_value x) | (refine keeps_cut (s0 := z) x.2 ?_ (fun hx => ?_); rotate_left; clear_value x) | clear_value x)
    | with_reducible refine handle_keeps hs _ _ _ _ _ (fun sec t ht => ?_)
    | exact keeps_in (keeps_out ht)
    | with_reducible apply fwFinish_keeps
    | split
    | exact keeps_in (keeps_out hx)
    | exact keeps_in (keeps_out hs)
    | (refine keeps_in ?_; dsimp only; exact keeps_out (by with_reducible assumption))
    | dsimp only

theorem reqLife_keeps {z : State} {s : State} (hs : Keeps z s) (rq : Rq) (target : Nat) (nonce : Nat) (sig : Nat) : Keeps z (State.reqLife s rq target nonce sig) := by
  unfold State.reqLife
  repeat' first
    | with_reducible assumption
    | (unfold x; clear x)
    | with_reducible refine keeps_snd (by with_reducible assumption) ?_
    | with_reducible refine keeps_fst (by with_reducible assumption) ?_
    | (extract_lets -merge -useContext +onlyGivenNames x; first | (refine keeps_cut (s0 := z) x ?_ (fun hx => ?_); rotate_left; clear_value x) | (refine keeps_cut (s0 := z) x.1 ?_ (fun hx => ?_); rotate_left; clear_value x) | (refine keeps_cut (s0 := z) x.2 ?_ (fun hx => ?_); rotate_left; clear_value x) | clear_value x)
    | with_reducible refine handle_keeps hs _ _ _ _ _ (fun sec t ht => ?_)
    | exact keeps_in (keeps_out ht)
    | with_reducible apply lifeRequest_keeps
    | split
    | exact keeps_in (keeps_out hx)
    | exact keeps_in (keeps_out hs)
    | (refine keeps_in ?_; dsimp only; exact keeps_out (by with_reducible assumption))
    | dsimp only

theorem reqStop_keeps {z : State} {s : State} (hs : Keeps z s) (rq : Rq) (axes : Nat) (cat : Nat) (scope : Nat) : Keeps z (State.reqStop s rq axes cat scope) := by
  unfold State.reqStop
  repeat' first
    | with_reducible assumption
    | (unfold x; clear x)
    | with_reducible refine keeps_snd (by with_reducible assumption) ?_
    | with_reducible refine keeps_fst (by with_reducible assumption) ?_
    | (extract_lets -merge -useContext +onlyGivenNames x; first | (refine keeps_cut (s0 := z) x ?_ (fun hx => ?_); rotate_left; clear_value x) | (refine keeps_cut (s0 := z) x.1 ?_ (fun hx => ?_); rotate_left; clear_value x) | (refine keeps_cut (s0 := z) x.2 ?_ (fun hx => ?_); rotate_left; clear_value x) | clear_value x)
    | with_reducible refine handle_keeps hs _ _ _ _ _ (fun sec t ht => ?_)
    | exact keeps_in (keeps_out ht)
    | with_reducible apply ringStop_keeps
    | split
    | exact keeps_in (keeps_out hx)
    | exact keeps_in (keeps_out hs)
    | (refine keeps_in ?_; dsimp only; exact keeps_out (by with_reducible assumption))
    | dsimp only

theorem reqEmode_keeps {z : State} {s : State} (hs : Keeps z s) (rq : Rq) (axes : Nat) (mode : Nat) : Keeps z (State.reqEmode s rq axes mode) := by
  unfold State.reqEmode
  repeat' first
    | with_reducible assumption
    | (unfold x; clear x)
    | with_reducible refine keeps_snd (by with_reducible assumption) ?_
    | with_reducible refine keeps_fst (by with_reducible assumption) ?_
    | (extract_lets -merge -useContext +onlyGivenNames x; first | (refine keeps_cut (s0 := z) x ?_ (fun hx => ?_); rotate_left; clear_value x) | (refine keeps_cut (s0 := z) x.1 ?_ (fun hx => ?_); rotate_left; clear_value x) | (refine keeps_cut (s0 := z) x.2 ?_ (fun hx => ?_); rotate_left; clear_value x) | clear_value x)
    | with_reducible refine handle_keeps hs _ _ _ _ _ (fun sec t ht => ?_)
    | exact keeps_in (keeps_out ht)
    | with_reducible apply ringEmode_keeps
    | split
    | exact keeps_in (keeps_out hx)
    | exact keeps_in (keeps_out hs)
    | (refine keeps_in ?_; dsimp only; exact keeps_out (by with_reducible assumption))
    | dsimp only

theorem psetOpen_keeps {z : State} {s : State} (hs : Keeps z s) (rq : Rq) : Keeps z (State.psetOpen s rq) := by
  unfold State.psetOpen
  repeat' first
    | with_reducible assumption
    | (unfold x; clear x)
    | with_reducible refine keeps_snd (by with_reducible assumption) ?_
    | with_reducible refine keeps_fst (by with_reducible assumption) ?_
    | (extract_lets -merge -useContext +onlyGivenNames x; first | (refine keeps_cut (s0 := z) x ?_ (fun hx => ?_); rotate_left; clear_value x) | (refine keeps_cut (s0 := z) x.1 ?_ (fun hx => ?_); rotate_left; clear_value x) | (refine keeps_cut (s0 := z) x.2 ?_ (fun hx => ?_); rotate_left; clear_value x) | clear_value x)
    | with_reducible refine handle_keeps hs _ _ _ _ _ (fun sec t ht => ?_)
    | exact keeps_in (keeps_out ht)
    | split
    | exact keeps_in (keeps_out hx)
    | exact keeps_in (keeps_out hs)
    | (refine keeps_in ?_; dsimp only; exact keeps_out (by with_reducible assumption))
    | dsimp only

theorem psetStage_keeps {z : State} {s : State} (hs : Keeps z s) (rq : Rq) (handle : Nat) (first : Nat) (l : List PsetItem) : Keeps z (State.psetStage s rq handle first l) := by
  unfold State.psetStage
  repeat' first
    | with_reducible assumption
    | (unfold x; clear x)
    | with_reducible refine keeps_snd (by with_reducible assumption) ?_
    | with_reducible refine keeps_fst (by with_reducible assumption) ?_
    | (extract_lets -merge -useContext +onlyGivenNames x; first | (refine keeps_cut (s0 := z) x ?_ (fun hx => ?_); rotate_left; clear_value x) | (refine keeps_cut (s0 := z) x.1 ?_ (fun hx => ?_); rotate_left; clear_value x) | (refine keeps_cut (s0 := z) x.2 ?_ (fun hx => ?_); rotate_left; clear_value x) | clear_value x)
    | with_reducible refine handle_keeps hs _ _ _ _ _ (fun sec t ht => ?_)
    | exact keeps_in (keeps_out ht)
    | split
    | exact keeps_in (keeps_out hx)
    | exact keeps_in (keeps_out hs)
    | (refine keeps_in ?_; dsimp only; exact keeps_out (by with_reducible assumption))
    | dsimp only

theorem psetTrial_keeps {z : State} {s : State} (hs : Keeps z s) (l : List PsetItem) : Keeps z (State.psetTrial s l) := by
  unfold State.psetTrial
  repeat' first
    | with_reducible assumption
    | (unfold x; clear x)
    | with_reducible refine keeps_snd (by with_reducible assumption) ?_
    | with_reducible refine keeps_fst (by with_reducible assumption) ?_
    | (extract_lets -merge -useContext +onlyGivenNames x; first | (refine keeps_cut (s0 := z) x ?_ (fun hx => ?_); rotate_left; clear_value x) | (refine keeps_cut (s0 := z) x.1 ?_ (fun hx => ?_); rotate_left; clear_value x) | (refine keeps_cut (s0 := z) x.2 ?_ (fun hx => ?_); rotate_left; clear_value x) | clear_value x)
    | with_reducible apply put_keeps
    | with_reducible apply removeTasks_keeps
    | with_reducible refine keeps_foldl ?_ (fun t b ht => ?_)
    | split
    | exact keeps_in (keeps_out hx)
    | exact keeps_in (keeps_out hs)
    | exact keeps_in (keeps_out ht)
    | (refine keeps_in ?_; dsimp only; exact keeps_out (by with_reducible assumption))
    | dsimp only

theorem psetVerify_keeps {z : State} {s : State} (hs : Keeps z s) (rq : Rq) (handle : Nat) (sig : Option Nat) : Keeps z (State.psetVerify s rq handle sig) := by
  unfold State.psetVerify
  repeat' first
    | with_reducible assumption
    | (unfold x; clear x)
    | with_reducible refine keeps_snd (by with_reducible assumption) ?_
    | with_reducible refine keeps_fst (by with_reducible assumption) ?_
    | (extract_lets -merge -useContext +onlyGivenNames x; first | (refine keeps_cut (s0 := z) x ?_ (fun hx => ?_); rotate_left; clear_value x) | (refine keeps_cut (s0 := z) x.1 ?_ (fun hx => ?_); rotate_left; clear_value x) | (refine keeps_cut (s0 := z) x.2 ?_ (fun hx => ?_); rotate_left; clear_value x) | clear_value x)
    | with_reducible refine handle_keeps hs _ _ _ _ _ (fun sec t ht => ?_)
    | exact keeps_in (keeps_out ht)
    | with_reducible apply alarm_keeps
    | split
    | exact keeps_in (keeps_out hx)
    | exact keeps_in (keeps_out hs)
    | (refine keeps_in ?_; dsimp only; exact keeps_out (by with_reducible assumption))
    | dsimp only

theorem psetPlace_keeps {z : State} {s : State} (hs : Keeps z s) (l : List PsetItem) : Keeps z (State.psetPlace s l).2 := by
  unfold State.psetPlace
  extract_lets off
  split
  rename_i st u e
  have hu : Keeps z u := keeps_snd e (keeps_foldl_snd hs fun t b ht => cfgRemove_keeps ht _ _)
  refine keeps_ite_snd hu ?_
  split
  · exact hu
  · split
    · exact hu
    · rename_i v ev
      exact cfgCommitAll_keeps hu _ _ ev

theorem psetApply_keeps {z : State} {s : State} (hs : Keeps z s) (sec : Bool) (l : List PsetItem) : Keeps z (State.psetApply s sec l).2.2.2 := by
  unfold State.psetApply
  repeat' first
    | with_reducible assumption
    | (unfold x; clear x)
    | with_reducible refine keeps_snd (by with_reducible assumption) ?_
    | with_reducible refine keeps_fst (by with_reducible assumption) ?_
    | with_reducible refine keeps_third (by with_reducible assumption) ?_
    | with_reducible refine keeps_mid (by with_reducible assumption) ?_
    | with_reducible refine keeps_fourth (by with_reducible assumption) ?_
    | (extract_lets -merge -useContext +onlyGivenNames x; first | (refine keeps_cut (s0 := z) x ?_ (fun hx => ?_); rotate_left; clear_value x) | (refine keeps_cut (s0 := z) x.1 ?_ (fun hx => ?_); rotate_left; clear_value x) | (refine keeps_cut (s0 := z) x.2 ?_ (fun hx => ?_); rotate_left; clear_value x) | clear_value x)
    | with_reducible apply writeItems_keeps
    | with_reducible apply psetPlace_keeps
    | with_reducible apply ledger_keeps
    | split
    | exact keeps_in (keeps_out hx)
    | exact keeps_in (keeps_out hs)
    | (refine keeps_in ?_; dsimp only; exact keeps_out (by with_reducible assumption))
    | dsimp only

theorem psetCommit_keeps {z : State} {s : State} (hs : Keeps z s) (rq : Rq) (handle : Nat) (digest : Nat) : Keeps z (State.psetCommit s rq handle digest) := by
  unfold State.psetCommit
  repeat' first
    | with_reducible assumption
    | (unfold x; clear x)
    | with_reducible refine keeps_snd (by with_reducible assumption) ?_
    | with_reducible refine keeps_fst (by with_reducible assumption) ?_
    | with_reducible refine keeps_third (by with_reducible assumption) ?_
    | with_reducible refine keeps_mid (by with_reducible assumption) ?_
    | with_reducible refine keeps_fourth (by with_reducible assumption) ?_
    | (extract_lets -merge -useContext +onlyGivenNames x; first | (refine keeps_cut (s0 := z) x ?_ (fun hx => ?_); rotate_left; clear_value x) | (refine keeps_cut (s0 := z) x.1 ?_ (fun hx => ?_); rotate_left; clear_value x) | (refine keeps_cut (s0 := z) x.2 ?_ (fun hx => ?_); rotate_left; clear_value x) | clear_value x)
    | with_reducible refine handle_keeps hs _ _ _ _ _ (fun sec t ht => ?_)
    | exact keeps_in (keeps_out ht)
    | with_reducible apply psetApply_keeps
    | split
    | exact keeps_in (keeps_out hx)
    | exact keeps_in (keeps_out hs)
    | (refine keeps_in ?_; dsimp only; exact keeps_out (by with_reducible assumption))
    | dsimp only

theorem psetAbort_keeps {z : State} {s : State} (hs : Keeps z s) (rq : Rq) (handle : Nat) : Keeps z (State.psetAbort s rq handle) := by
  unfold State.psetAbort
  repeat' first
    | with_reducible assumption
    | (unfold x; clear x)
    | with_reducible refine keeps_snd (by with_reducible assumption) ?_
    | with_reducible refine keeps_fst (by with_reducible assumption) ?_
    | (extract_lets -merge -useContext +onlyGivenNames x; first | (refine keeps_cut (s0 := z) x ?_ (fun hx => ?_); rotate_left; clear_value x) | (refine keeps_cut (s0 := z) x.1 ?_ (fun hx => ?_); rotate_left; clear_value x) | (refine keeps_cut (s0 := z) x.2 ?_ (fun hx => ?_); rotate_left; clear_value x) | clear_value x)
    | with_reducible refine handle_keeps hs _ _ _ _ _ (fun sec t ht => ?_)
    | exact keeps_in (keeps_out ht)
    | split
    | exact keeps_in (keeps_out hx)
    | exact keeps_in (keeps_out hs)
    | (refine keeps_in ?_; dsimp only; exact keeps_out (by with_reducible assumption))
    | dsimp only

theorem psetStore_keeps {z : State} {s : State} (hs : Keeps z s) (rq : Rq) (handle : Nat) (slot : Nat) : Keeps z (State.psetStore s rq handle slot) := by
  unfold State.psetStore
  repeat' first
    | with_reducible assumption
    | (unfold x; clear x)
    | with_reducible refine keeps_snd (by with_reducible assumption) ?_
    | with_reducible refine keeps_fst (by with_reducible assumption) ?_
    | (extract_lets -merge -useContext +onlyGivenNames x; first | (refine keeps_cut (s0 := z) x ?_ (fun hx => ?_); rotate_left; clear_value x) | (refine keeps_cut (s0 := z) x.1 ?_ (fun hx => ?_); rotate_left; clear_value x) | (refine keeps_cut (s0 := z) x.2 ?_ (fun hx => ?_); rotate_left; clear_value x) | have _ : Mram := x | clear_value x)
    | with_reducible refine handle_keeps hs _ _ _ _ _ (fun sec t ht => ?_)
    | exact keeps_in (keeps_out ht)
    | with_reducible apply mramWrite_keeps
    | split
    | exact keeps_in (keeps_out hx)
    | exact keeps_in (keeps_out hs)
    | (refine keeps_in ?_; dsimp only; exact keeps_out (by with_reducible assumption))
    | dsimp only

theorem psetLoad_keeps {z : State} {s : State} (hs : Keeps z s) (rq : Rq) (slot : Nat) : Keeps z (State.psetLoad s rq slot) := by
  unfold State.psetLoad
  repeat' first
    | with_reducible assumption
    | (unfold x; clear x)
    | with_reducible refine keeps_snd (by with_reducible assumption) ?_
    | with_reducible refine keeps_fst (by with_reducible assumption) ?_
    | (extract_lets -merge -useContext +onlyGivenNames x; first | (refine keeps_cut (s0 := z) x ?_ (fun hx => ?_); rotate_left; clear_value x) | (refine keeps_cut (s0 := z) x.1 ?_ (fun hx => ?_); rotate_left; clear_value x) | (refine keeps_cut (s0 := z) x.2 ?_ (fun hx => ?_); rotate_left; clear_value x) | clear_value x)
    | with_reducible refine handle_keeps hs _ _ _ _ _ (fun sec t ht => ?_)
    | exact keeps_in (keeps_out ht)
    | split
    | exact keeps_in (keeps_out hx)
    | exact keeps_in (keeps_out hs)
    | (refine keeps_in ?_; dsimp only; exact keeps_out (by with_reducible assumption))
    | dsimp only

theorem psetInfo_keeps {z : State} {s : State} (hs : Keeps z s) (rq : Rq) (slot : Nat) : Keeps z (State.psetInfo s rq slot) := by
  unfold State.psetInfo
  repeat' first
    | with_reducible assumption
    | (unfold x; clear x)
    | with_reducible refine keeps_snd (by with_reducible assumption) ?_
    | with_reducible refine keeps_fst (by with_reducible assumption) ?_
    | (extract_lets -merge -useContext +onlyGivenNames x; first | (refine keeps_cut (s0 := z) x ?_ (fun hx => ?_); rotate_left; clear_value x) | (refine keeps_cut (s0 := z) x.1 ?_ (fun hx => ?_); rotate_left; clear_value x) | (refine keeps_cut (s0 := z) x.2 ?_ (fun hx => ?_); rotate_left; clear_value x) | clear_value x)
    | with_reducible refine handle_keeps hs _ _ _ _ _ (fun sec t ht => ?_)
    | exact keeps_in (keeps_out ht)
    | split
    | exact keeps_in (keeps_out hx)
    | exact keeps_in (keeps_out hs)
    | (refine keeps_in ?_; dsimp only; exact keeps_out (by with_reducible assumption))
    | dsimp only

theorem psetTimeout_keeps {z : State} {s : State} (hs : Keeps z s) : Keeps z (State.psetTimeout s) := by
  unfold State.psetTimeout
  repeat' first
    | with_reducible assumption
    | (unfold x; clear x)
    | (extract_lets -merge -useContext +onlyGivenNames x; first | (refine keeps_cut (s0 := z) x ?_ (fun hx => ?_); rotate_left; clear_value x) | clear_value x)
    | with_reducible apply ledger_keeps
    | split
    | exact keeps_in (keeps_out hx)
    | exact keeps_in (keeps_out hs)
    | (refine keeps_in ?_; dsimp only; exact keeps_out (by with_reducible assumption))
    | dsimp only

theorem perUnit_keeps {z : State} {s : State} (hs : Keeps z s) (v : F32) (base : F32) (k : Nat) : Keeps z (State.perUnit s v base k).2 := by
  unfold State.perUnit
  repeat' first
    | with_reducible assumption
    | (unfold x; clear x)
    | with_reducible refine keeps_snd (by with_reducible assumption) ?_
    | with_reducible refine keeps_fst (by with_reducible assumption) ?_
    | (extract_lets -merge -useContext +onlyGivenNames x; first | (refine keeps_cut (s0 := z) x ?_ (fun hx => ?_); rotate_left; clear_value x) | (refine keeps_cut (s0 := z) x.1 ?_ (fun hx => ?_); rotate_left; clear_value x) | (refine keeps_cut (s0 := z) x.2 ?_ (fun hx => ?_); rotate_left; clear_value x) | clear_value x)
    | with_reducible apply takeInt_keeps
    | split
    | exact keeps_in (keeps_out hx)
    | exact keeps_in (keeps_out hs)
    | (refine keeps_in ?_; dsimp only; exact keeps_out (by with_reducible assumption))
    | dsimp only

theorem v1Status_keeps {z : State} {s : State} (hs : Keeps z s) (rq : Rq) (addr : Nat) : Keeps z (State.v1Status s rq addr) := by
  unfold State.v1Status
  repeat' first
    | with_reducible assumption
    | (unfold x; clear x)
    | with_reducible refine keeps_snd (by with_reducible assumption) ?_
    | with_reducible refine keeps_fst (by with_reducible assumption) ?_
    | (extract_lets -merge -useContext +onlyGivenNames x; first | (refine keeps_cut (s0 := z) x ?_ (fun hx => ?_); rotate_left; clear_value x) | (refine keeps_cut (s0 := z) x.1 ?_ (fun hx => ?_); rotate_left; clear_value x) | (refine keeps_cut (s0 := z) x.2 ?_ (fun hx => ?_); rotate_left; clear_value x) | clear_value x)
    | with_reducible refine handle_keeps hs _ _ _ _ _ (fun sec t ht => ?_)
    | exact keeps_in (keeps_out ht)
    | with_reducible apply perUnit_keeps
    | split
    | exact keeps_in (keeps_out hx)
    | exact keeps_in (keeps_out hs)
    | (refine keeps_in ?_; dsimp only; exact keeps_out (by with_reducible assumption))
    | dsimp only

theorem v1Move_keeps {z : State} {s : State} (hs : Keeps z s) (rq : Rq) (addr : Nat) (ty : Nat) (flags : Nat) (speed : Int) (target : Int) : Keeps z (State.v1Move s rq addr ty flags speed target) := by
  unfold State.v1Move
  repeat' first
    | with_reducible assumption
    | (unfold x; clear x)
    | with_reducible refine keeps_snd (by with_reducible assumption) ?_
    | with_reducible refine keeps_fst (by with_reducible assumption) ?_
    | with_reducible refine keeps_third (by with_reducible assumption) ?_
    | with_reducible refine keeps_mid (by with_reducible assumption) ?_
    | (extract_lets -merge -useContext +onlyGivenNames x; first | (refine keeps_cut (s0 := z) x ?_ (fun hx => ?_); rotate_left; clear_value x) | (refine keeps_cut (s0 := z) x.1 ?_ (fun hx => ?_); rotate_left; clear_value x) | (refine keeps_cut (s0 := z) x.2 ?_ (fun hx => ?_); rotate_left; clear_value x) | clear_value x)
    | with_reducible refine handle_keeps hs _ _ _ _ _ (fun sec t ht => ?_)
    | exact keeps_in (keeps_out ht)
    | with_reducible apply put_keeps
    | with_reducible apply putF_keeps
    | with_reducible apply applyWrite_keeps
    | with_reducible apply handle_keeps
    | split
    | exact keeps_in (keeps_out hx)
    | exact keeps_in (keeps_out hs)
    | (refine keeps_in ?_; dsimp only; exact keeps_out (by with_reducible assumption))
    | dsimp only

theorem v1Tune_keeps {z : State} {s : State} (hs : Keeps z s) (rq : Rq) (addr : Nat) (subop : Nat) (atd : Int) : Keeps z (State.v1Tune s rq addr subop atd) := by
  unfold State.v1Tune
  repeat' first
    | with_reducible assumption
    | (unfold x; clear x)
    | with_reducible refine keeps_snd (by with_reducible assumption) ?_
    | with_reducible refine keeps_fst (by with_reducible assumption) ?_
    | with_reducible refine keeps_third (by with_reducible assumption) ?_
    | with_reducible refine keeps_mid (by with_reducible assumption) ?_
    | (extract_lets -merge -useContext +onlyGivenNames x; first | (refine keeps_cut (s0 := z) x ?_ (fun hx => ?_); rotate_left; clear_value x) | (refine keeps_cut (s0 := z) x.1 ?_ (fun hx => ?_); rotate_left; clear_value x) | (refine keeps_cut (s0 := z) x.2 ?_ (fun hx => ?_); rotate_left; clear_value x) | clear_value x)
    | with_reducible refine handle_keeps hs _ _ _ _ _ (fun sec t ht => ?_)
    | exact keeps_in (keeps_out ht)
    | with_reducible apply applyWrite_keeps
    | with_reducible apply putF_keeps
    | with_reducible apply put_keeps
    | with_reducible apply handle_keeps
    | split
    | exact keeps_in (keeps_out hx)
    | exact keeps_in (keeps_out hs)
    | (refine keeps_in ?_; dsimp only; exact keeps_out (by with_reducible assumption))
    | dsimp only

end Sys2Proof.Laws
end

