-- ==== Sys2Proof/Laws/Rows.lean ====
section
/-! SUPPORT. What a write of each member with a row of its own does: the operation of its chapter. -/
namespace Sys2Proof.Laws
open Machine Machine.State

variable (s : State) (i x : Nat) (v : Int)

theorem memberOp_sys_wingbeat : s.memberOp SYS.WINGBEAT i x v = some (s.wingbeatWrite v.toNat) := rfl
theorem memberOp_power_setpoint : s.memberOp POWER.SETPOINT i x v = some (s.setpointWrite v.toNat) := rfl
theorem memberOp_power_psreq : s.memberOp POWER.PSREQ i x v = some (s.psreq v.toNat) := rfl
theorem memberOp_power_viddio : s.memberOp POWER.VIDDIO i x v = some (s.viddioWrite v.toNat) := rfl
theorem memberOp_profile_duty : s.memberOp PROFILE.DUTY i x v = some (s.dutyWrite v.toNat) := rfl
theorem memberOp_axis_cfg : s.memberOp AXIS.CFG i x v = some (if v.toNat = 1 then s.cfgCommit 5 i else s.cfgRemove 5 i) := rfl
theorem memberOp_axis_enable : s.memberOp AXIS.ENABLE i x v = some (if v.toNat = 1 then s.axisEnable i (s.latchedOver i) else s.axisDisable i) := rfl
theorem memberOp_axis_spack : s.memberOp AXIS.SPACK i x v = some (s.spack i) := rfl
theorem memberOp_mach_cfg : s.memberOp MACH.CFG i x v = some (if v.toNat = 1 then s.cfgCommit 6 i else s.cfgRemove 6 i) := rfl
theorem memberOp_mach_enable : s.memberOp MACH.ENABLE i x v = some (if v.toNat = 1 then s.machEnable i (s.latchedOver (s.n MACH.AXIS i)) else s.machDisable i) := rfl
theorem memberOp_mach_clear : s.memberOp MACH.CLEAR i x v = some (s.machClear i) := rfl
theorem memberOp_mach_style : s.memberOp MACH.STYLE i x v = some (s.styleWrite i v.toNat) := rfl
theorem memberOp_stage_enable : s.memberOp STAGE.ENABLE i x v = some (if v.toNat = 1 then s.stageEnable i else s.stageDisable i) := rfl
theorem memberOp_stage_diag : s.memberOp STAGE.DIAG i x v = some (s.stageDiag i) := rfl
theorem memberOp_stage_clear : s.memberOp STAGE.CLEAR i x v = some (s.stageClear i) := rfl
theorem memberOp_pat_src : s.memberOp PAT.SRC i x v = some (s.patternSrc i v.toNat) := rfl
theorem memberOp_conv_cfg : s.memberOp CONV.CFG i x v = some (if v.toNat = 1 then s.cfgCommit 9 i else s.cfgRemove 9 i) := rfl
theorem memberOp_conv_enable : s.memberOp CONV.ENABLE i x v = some (s.convEnable i v.toNat) := rfl
theorem memberOp_conv_clear : s.memberOp CONV.CLEAR i x v = some (s.convClear i) := rfl
theorem memberOp_cell_excl : s.memberOp CELL.EXCL i x v = some (s.cellExcl i v.toNat) := rfl
theorem memberOp_cell_retire : s.memberOp CELL.RETIRE i x v = some (s.cellRetire i v.toNat) := rfl
theorem memberOp_cell_clear : s.memberOp CELL.CLEAR i x v = some (s.cellClear i) := rfl
theorem memberOp_fb_mode : s.memberOp FB.MODE i x v = some (s.fbMode i v.toNat) := rfl
theorem memberOp_fb_sel : s.memberOp FB.SEL i x v = some (s.fbSel i v.toNat) := rfl
theorem memberOp_fb_posset : s.memberOp FB.POSSET i x v = some (s.possetWrite i v) := rfl
theorem memberOp_fb_idxarm : s.memberOp FB.IDXARM i x v = some (s.idxarm i v.toNat) := rfl
theorem memberOp_fb_clear : s.memberOp FB.CLEAR i x v = some (s.fbClear i) := rfl
theorem memberOp_sd_clear : s.memberOp SD.CLEAR i x v = some (s.sdClear i) := rfl
theorem memberOp_dio_clear : s.memberOp DIO.CLEAR i x v = some (let (st, t) := s.dioClear i; (st, s.dioStopEdge t i)) := rfl
theorem memberOp_loop_freeze : s.memberOp LOOP.FREEZE i x v = some (s.freezeWrite i v.toNat) := rfl
theorem memberOp_loop_ipreset : s.memberOp LOOP.IPRESET i x v = some (s.ipresetWrite i (F32.ofBits v)) := rfl
theorem memberOp_loop_atstart : s.memberOp LOOP.ATSTART i x v = some (s.atstart i v.toNat) := rfl
theorem memberOp_ff_active : s.memberOp FF.ACTIVE i x v = some (s.ffActive i v.toNat) := rfl
theorem memberOp_prof_push : s.memberOp PROF.PUSH i x v = some (s.push i v.toNat) := rfl
theorem memberOp_prof_flush : s.memberOp PROF.FLUSH i x v = some (s.flushWrite i) := rfl
theorem memberOp_stop_req : s.memberOp STOP.REQ i x v = some (s.stopRequest i v.toNat) := rfl
theorem memberOp_stop_ereq : s.memberOp STOP.EREQ i x v = some (s.stopEreq i v.toNat) := rfl
theorem memberOp_stop_ack : s.memberOp STOP.ACK i x v = some (s.stopAck i) := rfl
theorem memberOp_src_clear : s.memberOp SRC.CLEAR i x v = some (if i = 0 then s.stoClear else s.sourceClear (16 + i)) := rfl
theorem memberOp_stopdev_rclear : s.memberOp STOPDEV.RCLEAR i x v = some (s.rclear) := rfl
theorem memberOp_stopdev_tclear : s.memberOp STOPDEV.TCLEAR i x v = some (s.tclear) := rfl
theorem memberOp_can_en : s.memberOp CAN.EN i x v = some (if v.toNat = 1 then s.canEnable i else s.canDisable i) := rfl
theorem memberOp_can_recover : s.memberOp CAN.RECOVER i x v = some (s.canRecover i) := rfl
theorem memberOp_can_restr : s.memberOp CAN.RESTR i x v = some (s.restrWrite i v.toNat) := rfl
theorem memberOp_part_en : s.memberOp PART.EN i x v = some (s.partEnable i v.toNat) := rfl
theorem memberOp_ring_en : s.memberOp RING.EN i x v = some (s.ringEnable i v.toNat) := rfl
theorem memberOp_ring_run : s.memberOp RING.RUN i x v = some (s.ringRun i v.toNat) := rfl
theorem memberOp_trace_arm : s.memberOp TRACE.ARM i x v = some (s.traceArm i) := rfl
theorem memberOp_trace_trignow : s.memberOp TRACE.TRIGNOW i x v = some (s.trignow i) := rfl
theorem memberOp_trace_read : s.memberOp TRACE.READ i x v = some (s.traceRead i) := rfl
theorem memberOp_exch_retired : s.memberOp EXCH.RETIRED i x v = some (s.retiredWrite v.toNat) := rfl
theorem memberOp_reserve_commit : s.memberOp RESERVE.COMMIT i x v = some (s.reserveCommit) := rfl
theorem memberOp_sec_burn : s.memberOp SEC.BURN i x v = some (s.keyBurn) := rfl
theorem memberOp_sec_dsgen : s.memberOp SEC.DSGEN i x v = some (s.dsgen) := rfl
theorem memberOp_sec_arbcommit : s.memberOp SEC.ARBCOMMIT i x v = some (s.arbcommit) := rfl
theorem memberOp_sec_fwrevoke : s.memberOp SEC.FWREVOKE i x v = some (s.fwrevoke) := rfl
theorem memberOp_sd_gainref : s.memberOp SD.GAINREF i x v = some (s.gainref i (F32.ofBits v)) := rfl

end Sys2Proof.Laws
end

