-- ==== Sys2Proof/Laws/State.lean ====
section
/-! SUPPORT. The fields of `State` under each update of one field: the field that it writes, and every other, which
it leaves. All hold by `rfl`, so that no proof unfolds a record update. -/
namespace Sys2Proof.Laws
open Machine State

variable (s : State)

/-! `setCan` -/

section
variable (p : Nat) (x : CanPort)
@[simp] theorem setCan_objs : (s.setCan p x).objs = s.objs := rfl
@[simp] theorem setCan_rings : (s.setCan p x).rings = s.rings := rfl
@[simp] theorem setCan_tile : (s.setCan p x).tile = s.tile := rfl
@[simp] theorem setCan_badTags : (s.setCan p x).badTags = s.badTags := rfl
@[simp] theorem setCan_stores : (s.setCan p x).stores = s.stores := rfl
@[simp] theorem setCan_sram : (s.setCan p x).sram = s.sram := rfl
@[simp] theorem setCan_ports : (s.setCan p x).ports = s.ports := rfl
@[simp] theorem setCan_evPend : (s.setCan p x).evPend = s.evPend := rfl
@[simp] theorem setCan_routes : (s.setCan p x).routes = s.routes := rfl
@[simp] theorem setCan_hcfg : (s.setCan p x).hcfg = s.hcfg := rfl
@[simp] theorem setCan_alarms : (s.setCan p x).alarms = s.alarms := rfl
@[simp] theorem setCan_aseq : (s.setCan p x).aseq = s.aseq := rfl
@[simp] theorem setCan_sarOff : (s.setCan p x).sarOff = s.sarOff := rfl
@[simp] theorem setCan_sarGain : (s.setCan p x).sarGain = s.sarGain := rfl
@[simp] theorem setCan_newest : (s.setCan p x).newest = s.newest := rfl
@[simp] theorem setCan_dups : (s.setCan p x).dups = s.dups := rfl
@[simp] theorem setCan_served : (s.setCan p x).served = s.served := rfl
@[simp] theorem setCan_defers : (s.setCan p x).defers = s.defers := rfl
@[simp] theorem setCan_pset : (s.setCan p x).pset = s.pset := rfl
@[simp] theorem setCan_psetNo : (s.setCan p x).psetNo = s.psetNo := rfl
@[simp] theorem setCan_ledg : (s.setCan p x).ledg = s.ledg := rfl
@[simp] theorem setCan_telem : (s.setCan p x).telem = s.telem := rfl
@[simp] theorem setCan_tb : (s.setCan p x).tb = s.tb := rfl
@[simp] theorem setCan_up : (s.setCan p x).up = s.up := rfl
@[simp] theorem setCan_bk : (s.setCan p x).bk = s.bk := rfl
@[simp] theorem setCan_otp : (s.setCan p x).otp = s.otp := rfl
@[simp] theorem setCan_mram : (s.setCan p x).mram = s.mram := rfl
@[simp] theorem setCan_sec : (s.setCan p x).sec = s.sec := rfl
@[simp] theorem setCan_pow : (s.setCan p x).pow = s.pow := rfl
@[simp] theorem setCan_ex : (s.setCan p x).ex = s.ex := rfl
@[simp] theorem setCan_commitDue : (s.setCan p x).commitDue = s.commitDue := rfl
@[simp] theorem setCan_stale : (s.setCan p x).stale = s.stale := rfl
@[simp] theorem setCan_legs : (s.setCan p x).legs = s.legs := rfl
@[simp] theorem setCan_stages : (s.setCan p x).stages = s.stages := rfl
@[simp] theorem setCan_trips : (s.setCan p x).trips = s.trips := rfl
@[simp] theorem setCan_sdTrip : (s.setCan p x).sdTrip = s.sdTrip := rfl
@[simp] theorem setCan_links : (s.setCan p x).links = s.links := rfl
@[simp] theorem setCan_slotx : (s.setCan p x).slotx = s.slotx := rfl
@[simp] theorem setCan_cellc : (s.setCan p x).cellc = s.cellc := rfl
@[simp] theorem setCan_fixedPt : (s.setCan p x).fixedPt = s.fixedPt := rfl
@[simp] theorem setCan_convx : (s.setCan p x).convx = s.convx := rfl
@[simp] theorem setCan_armx : (s.setCan p x).armx = s.armx := rfl
@[simp] theorem setCan_cellx : (s.setCan p x).cellx = s.cellx := rfl
@[simp] theorem setCan_machx : (s.setCan p x).machx = s.machx := rfl
@[simp] theorem setCan_dioOut : (s.setCan p x).dioOut = s.dioOut := rfl
@[simp] theorem setCan_stops : (s.setCan p x).stops = s.stops := rfl
@[simp] theorem setCan_axstop : (s.setCan p x).axstop = s.axstop := rfl
@[simp] theorem setCan_sto : (s.setCan p x).sto = s.sto := rfl
@[simp] theorem setCan_supp : (s.setCan p x).supp = s.supp := rfl
@[simp] theorem setCan_axReq : (s.setCan p x).axReq = s.axReq := rfl
@[simp] theorem setCan_diox : (s.setCan p x).diox = s.diox := rfl
@[simp] theorem setCan_fbx : (s.setCan p x).fbx = s.fbx := rfl
@[simp] theorem setCan_cmpx : (s.setCan p x).cmpx = s.cmpx := rfl
@[simp] theorem setCan_eox : (s.setCan p x).eox = s.eox := rfl
@[simp] theorem setCan_late : (s.setCan p x).late = s.late := rfl
@[simp] theorem setCan_evWait : (s.setCan p x).evWait = s.evWait := rfl
@[simp] theorem setCan_sdx : (s.setCan p x).sdx = s.sdx := rfl
@[simp] theorem setCan_ainx : (s.setCan p x).ainx = s.ainx := rfl
@[simp] theorem setCan_sarDue : (s.setCan p x).sarDue = s.sarDue := rfl
@[simp] theorem setCan_loopx : (s.setCan p x).loopx = s.loopx := rfl
@[simp] theorem setCan_axisx : (s.setCan p x).axisx = s.axisx := rfl
@[simp] theorem setCan_ffx : (s.setCan p x).ffx = s.ffx := rfl
@[simp] theorem setCan_canx : (s.setCan p x).canx = s.canx.put {} p x := rfl
@[simp] theorem setCan_canPaused : (s.setCan p x).canPaused = s.canPaused := rfl
@[simp] theorem setCan_urgDue : (s.setCan p x).urgDue = s.urgDue := rfl
@[simp] theorem setCan_partx : (s.setCan p x).partx = s.partx := rfl
@[simp] theorem setCan_tunes : (s.setCan p x).tunes = s.tunes := rfl
@[simp] theorem setCan_tracex : (s.setCan p x).tracex = s.tracex := rfl
@[simp] theorem setCan_trport : (s.setCan p x).trport = s.trport := rfl
@[simp] theorem setCan_evSeen : (s.setCan p x).evSeen = s.evSeen := rfl
@[simp] theorem setCan_regs : (s.setCan p x).regs = s.regs := rfl
@[simp] theorem setCan_free : (s.setCan p x).free = s.free := rfl
@[simp] theorem setCan_pending : (s.setCan p x).pending = s.pending := rfl
end

/-! `setPart` -/

section
variable (i : Nat) (x : PartX)
@[simp] theorem setPart_objs : (s.setPart i x).objs = s.objs := rfl
@[simp] theorem setPart_rings : (s.setPart i x).rings = s.rings := rfl
@[simp] theorem setPart_tile : (s.setPart i x).tile = s.tile := rfl
@[simp] theorem setPart_badTags : (s.setPart i x).badTags = s.badTags := rfl
@[simp] theorem setPart_stores : (s.setPart i x).stores = s.stores := rfl
@[simp] theorem setPart_sram : (s.setPart i x).sram = s.sram := rfl
@[simp] theorem setPart_ports : (s.setPart i x).ports = s.ports := rfl
@[simp] theorem setPart_evPend : (s.setPart i x).evPend = s.evPend := rfl
@[simp] theorem setPart_routes : (s.setPart i x).routes = s.routes := rfl
@[simp] theorem setPart_hcfg : (s.setPart i x).hcfg = s.hcfg := rfl
@[simp] theorem setPart_alarms : (s.setPart i x).alarms = s.alarms := rfl
@[simp] theorem setPart_aseq : (s.setPart i x).aseq = s.aseq := rfl
@[simp] theorem setPart_sarOff : (s.setPart i x).sarOff = s.sarOff := rfl
@[simp] theorem setPart_sarGain : (s.setPart i x).sarGain = s.sarGain := rfl
@[simp] theorem setPart_newest : (s.setPart i x).newest = s.newest := rfl
@[simp] theorem setPart_dups : (s.setPart i x).dups = s.dups := rfl
@[simp] theorem setPart_served : (s.setPart i x).served = s.served := rfl
@[simp] theorem setPart_defers : (s.setPart i x).defers = s.defers := rfl
@[simp] theorem setPart_pset : (s.setPart i x).pset = s.pset := rfl
@[simp] theorem setPart_psetNo : (s.setPart i x).psetNo = s.psetNo := rfl
@[simp] theorem setPart_ledg : (s.setPart i x).ledg = s.ledg := rfl
@[simp] theorem setPart_telem : (s.setPart i x).telem = s.telem := rfl
@[simp] theorem setPart_tb : (s.setPart i x).tb = s.tb := rfl
@[simp] theorem setPart_up : (s.setPart i x).up = s.up := rfl
@[simp] theorem setPart_bk : (s.setPart i x).bk = s.bk := rfl
@[simp] theorem setPart_otp : (s.setPart i x).otp = s.otp := rfl
@[simp] theorem setPart_mram : (s.setPart i x).mram = s.mram := rfl
@[simp] theorem setPart_sec : (s.setPart i x).sec = s.sec := rfl
@[simp] theorem setPart_pow : (s.setPart i x).pow = s.pow := rfl
@[simp] theorem setPart_ex : (s.setPart i x).ex = s.ex := rfl
@[simp] theorem setPart_commitDue : (s.setPart i x).commitDue = s.commitDue := rfl
@[simp] theorem setPart_stale : (s.setPart i x).stale = s.stale := rfl
@[simp] theorem setPart_legs : (s.setPart i x).legs = s.legs := rfl
@[simp] theorem setPart_stages : (s.setPart i x).stages = s.stages := rfl
@[simp] theorem setPart_trips : (s.setPart i x).trips = s.trips := rfl
@[simp] theorem setPart_sdTrip : (s.setPart i x).sdTrip = s.sdTrip := rfl
@[simp] theorem setPart_links : (s.setPart i x).links = s.links := rfl
@[simp] theorem setPart_slotx : (s.setPart i x).slotx = s.slotx := rfl
@[simp] theorem setPart_cellc : (s.setPart i x).cellc = s.cellc := rfl
@[simp] theorem setPart_fixedPt : (s.setPart i x).fixedPt = s.fixedPt := rfl
@[simp] theorem setPart_convx : (s.setPart i x).convx = s.convx := rfl
@[simp] theorem setPart_armx : (s.setPart i x).armx = s.armx := rfl
@[simp] theorem setPart_cellx : (s.setPart i x).cellx = s.cellx := rfl
@[simp] theorem setPart_machx : (s.setPart i x).machx = s.machx := rfl
@[simp] theorem setPart_dioOut : (s.setPart i x).dioOut = s.dioOut := rfl
@[simp] theorem setPart_stops : (s.setPart i x).stops = s.stops := rfl
@[simp] theorem setPart_axstop : (s.setPart i x).axstop = s.axstop := rfl
@[simp] theorem setPart_sto : (s.setPart i x).sto = s.sto := rfl
@[simp] theorem setPart_supp : (s.setPart i x).supp = s.supp := rfl
@[simp] theorem setPart_axReq : (s.setPart i x).axReq = s.axReq := rfl
@[simp] theorem setPart_diox : (s.setPart i x).diox = s.diox := rfl
@[simp] theorem setPart_fbx : (s.setPart i x).fbx = s.fbx := rfl
@[simp] theorem setPart_cmpx : (s.setPart i x).cmpx = s.cmpx := rfl
@[simp] theorem setPart_eox : (s.setPart i x).eox = s.eox := rfl
@[simp] theorem setPart_late : (s.setPart i x).late = s.late := rfl
@[simp] theorem setPart_evWait : (s.setPart i x).evWait = s.evWait := rfl
@[simp] theorem setPart_sdx : (s.setPart i x).sdx = s.sdx := rfl
@[simp] theorem setPart_ainx : (s.setPart i x).ainx = s.ainx := rfl
@[simp] theorem setPart_sarDue : (s.setPart i x).sarDue = s.sarDue := rfl
@[simp] theorem setPart_loopx : (s.setPart i x).loopx = s.loopx := rfl
@[simp] theorem setPart_axisx : (s.setPart i x).axisx = s.axisx := rfl
@[simp] theorem setPart_ffx : (s.setPart i x).ffx = s.ffx := rfl
@[simp] theorem setPart_canx : (s.setPart i x).canx = s.canx := rfl
@[simp] theorem setPart_canPaused : (s.setPart i x).canPaused = s.canPaused := rfl
@[simp] theorem setPart_urgDue : (s.setPart i x).urgDue = s.urgDue := rfl
@[simp] theorem setPart_partx : (s.setPart i x).partx = s.partx.put {} i x := rfl
@[simp] theorem setPart_tunes : (s.setPart i x).tunes = s.tunes := rfl
@[simp] theorem setPart_tracex : (s.setPart i x).tracex = s.tracex := rfl
@[simp] theorem setPart_trport : (s.setPart i x).trport = s.trport := rfl
@[simp] theorem setPart_evSeen : (s.setPart i x).evSeen = s.evSeen := rfl
@[simp] theorem setPart_regs : (s.setPart i x).regs = s.regs := rfl
@[simp] theorem setPart_free : (s.setPart i x).free = s.free := rfl
@[simp] theorem setPart_pending : (s.setPart i x).pending = s.pending := rfl
end

/-! `setConvX` -/

section
variable (c : Nat) (x : ConvX)
@[simp] theorem setConvX_objs : (s.setConvX c x).objs = s.objs := rfl
@[simp] theorem setConvX_rings : (s.setConvX c x).rings = s.rings := rfl
@[simp] theorem setConvX_tile : (s.setConvX c x).tile = s.tile := rfl
@[simp] theorem setConvX_badTags : (s.setConvX c x).badTags = s.badTags := rfl
@[simp] theorem setConvX_stores : (s.setConvX c x).stores = s.stores := rfl
@[simp] theorem setConvX_sram : (s.setConvX c x).sram = s.sram := rfl
@[simp] theorem setConvX_ports : (s.setConvX c x).ports = s.ports := rfl
@[simp] theorem setConvX_evPend : (s.setConvX c x).evPend = s.evPend := rfl
@[simp] theorem setConvX_routes : (s.setConvX c x).routes = s.routes := rfl
@[simp] theorem setConvX_hcfg : (s.setConvX c x).hcfg = s.hcfg := rfl
@[simp] theorem setConvX_alarms : (s.setConvX c x).alarms = s.alarms := rfl
@[simp] theorem setConvX_aseq : (s.setConvX c x).aseq = s.aseq := rfl
@[simp] theorem setConvX_sarOff : (s.setConvX c x).sarOff = s.sarOff := rfl
@[simp] theorem setConvX_sarGain : (s.setConvX c x).sarGain = s.sarGain := rfl
@[simp] theorem setConvX_newest : (s.setConvX c x).newest = s.newest := rfl
@[simp] theorem setConvX_dups : (s.setConvX c x).dups = s.dups := rfl
@[simp] theorem setConvX_served : (s.setConvX c x).served = s.served := rfl
@[simp] theorem setConvX_defers : (s.setConvX c x).defers = s.defers := rfl
@[simp] theorem setConvX_pset : (s.setConvX c x).pset = s.pset := rfl
@[simp] theorem setConvX_psetNo : (s.setConvX c x).psetNo = s.psetNo := rfl
@[simp] theorem setConvX_ledg : (s.setConvX c x).ledg = s.ledg := rfl
@[simp] theorem setConvX_telem : (s.setConvX c x).telem = s.telem := rfl
@[simp] theorem setConvX_tb : (s.setConvX c x).tb = s.tb := rfl
@[simp] theorem setConvX_up : (s.setConvX c x).up = s.up := rfl
@[simp] theorem setConvX_bk : (s.setConvX c x).bk = s.bk := rfl
@[simp] theorem setConvX_otp : (s.setConvX c x).otp = s.otp := rfl
@[simp] theorem setConvX_mram : (s.setConvX c x).mram = s.mram := rfl
@[simp] theorem setConvX_sec : (s.setConvX c x).sec = s.sec := rfl
@[simp] theorem setConvX_pow : (s.setConvX c x).pow = s.pow := rfl
@[simp] theorem setConvX_ex : (s.setConvX c x).ex = s.ex := rfl
@[simp] theorem setConvX_commitDue : (s.setConvX c x).commitDue = s.commitDue := rfl
@[simp] theorem setConvX_stale : (s.setConvX c x).stale = s.stale := rfl
@[simp] theorem setConvX_legs : (s.setConvX c x).legs = s.legs := rfl
@[simp] theorem setConvX_stages : (s.setConvX c x).stages = s.stages := rfl
@[simp] theorem setConvX_trips : (s.setConvX c x).trips = s.trips := rfl
@[simp] theorem setConvX_sdTrip : (s.setConvX c x).sdTrip = s.sdTrip := rfl
@[simp] theorem setConvX_links : (s.setConvX c x).links = s.links := rfl
@[simp] theorem setConvX_slotx : (s.setConvX c x).slotx = s.slotx := rfl
@[simp] theorem setConvX_cellc : (s.setConvX c x).cellc = s.cellc := rfl
@[simp] theorem setConvX_fixedPt : (s.setConvX c x).fixedPt = s.fixedPt := rfl
@[simp] theorem setConvX_convx : (s.setConvX c x).convx = s.convx.put {} c x := rfl
@[simp] theorem setConvX_armx : (s.setConvX c x).armx = s.armx := rfl
@[simp] theorem setConvX_cellx : (s.setConvX c x).cellx = s.cellx := rfl
@[simp] theorem setConvX_machx : (s.setConvX c x).machx = s.machx := rfl
@[simp] theorem setConvX_dioOut : (s.setConvX c x).dioOut = s.dioOut := rfl
@[simp] theorem setConvX_stops : (s.setConvX c x).stops = s.stops := rfl
@[simp] theorem setConvX_axstop : (s.setConvX c x).axstop = s.axstop := rfl
@[simp] theorem setConvX_sto : (s.setConvX c x).sto = s.sto := rfl
@[simp] theorem setConvX_supp : (s.setConvX c x).supp = s.supp := rfl
@[simp] theorem setConvX_axReq : (s.setConvX c x).axReq = s.axReq := rfl
@[simp] theorem setConvX_diox : (s.setConvX c x).diox = s.diox := rfl
@[simp] theorem setConvX_fbx : (s.setConvX c x).fbx = s.fbx := rfl
@[simp] theorem setConvX_cmpx : (s.setConvX c x).cmpx = s.cmpx := rfl
@[simp] theorem setConvX_eox : (s.setConvX c x).eox = s.eox := rfl
@[simp] theorem setConvX_late : (s.setConvX c x).late = s.late := rfl
@[simp] theorem setConvX_evWait : (s.setConvX c x).evWait = s.evWait := rfl
@[simp] theorem setConvX_sdx : (s.setConvX c x).sdx = s.sdx := rfl
@[simp] theorem setConvX_ainx : (s.setConvX c x).ainx = s.ainx := rfl
@[simp] theorem setConvX_sarDue : (s.setConvX c x).sarDue = s.sarDue := rfl
@[simp] theorem setConvX_loopx : (s.setConvX c x).loopx = s.loopx := rfl
@[simp] theorem setConvX_axisx : (s.setConvX c x).axisx = s.axisx := rfl
@[simp] theorem setConvX_ffx : (s.setConvX c x).ffx = s.ffx := rfl
@[simp] theorem setConvX_canx : (s.setConvX c x).canx = s.canx := rfl
@[simp] theorem setConvX_canPaused : (s.setConvX c x).canPaused = s.canPaused := rfl
@[simp] theorem setConvX_urgDue : (s.setConvX c x).urgDue = s.urgDue := rfl
@[simp] theorem setConvX_partx : (s.setConvX c x).partx = s.partx := rfl
@[simp] theorem setConvX_tunes : (s.setConvX c x).tunes = s.tunes := rfl
@[simp] theorem setConvX_tracex : (s.setConvX c x).tracex = s.tracex := rfl
@[simp] theorem setConvX_trport : (s.setConvX c x).trport = s.trport := rfl
@[simp] theorem setConvX_evSeen : (s.setConvX c x).evSeen = s.evSeen := rfl
@[simp] theorem setConvX_regs : (s.setConvX c x).regs = s.regs := rfl
@[simp] theorem setConvX_free : (s.setConvX c x).free = s.free := rfl
@[simp] theorem setConvX_pending : (s.setConvX c x).pending = s.pending := rfl
end

/-! `setArmX` -/

section
variable (a : Nat) (x : ArmX)
@[simp] theorem setArmX_objs : (s.setArmX a x).objs = s.objs := rfl
@[simp] theorem setArmX_rings : (s.setArmX a x).rings = s.rings := rfl
@[simp] theorem setArmX_tile : (s.setArmX a x).tile = s.tile := rfl
@[simp] theorem setArmX_badTags : (s.setArmX a x).badTags = s.badTags := rfl
@[simp] theorem setArmX_stores : (s.setArmX a x).stores = s.stores := rfl
@[simp] theorem setArmX_sram : (s.setArmX a x).sram = s.sram := rfl
@[simp] theorem setArmX_ports : (s.setArmX a x).ports = s.ports := rfl
@[simp] theorem setArmX_evPend : (s.setArmX a x).evPend = s.evPend := rfl
@[simp] theorem setArmX_routes : (s.setArmX a x).routes = s.routes := rfl
@[simp] theorem setArmX_hcfg : (s.setArmX a x).hcfg = s.hcfg := rfl
@[simp] theorem setArmX_alarms : (s.setArmX a x).alarms = s.alarms := rfl
@[simp] theorem setArmX_aseq : (s.setArmX a x).aseq = s.aseq := rfl
@[simp] theorem setArmX_sarOff : (s.setArmX a x).sarOff = s.sarOff := rfl
@[simp] theorem setArmX_sarGain : (s.setArmX a x).sarGain = s.sarGain := rfl
@[simp] theorem setArmX_newest : (s.setArmX a x).newest = s.newest := rfl
@[simp] theorem setArmX_dups : (s.setArmX a x).dups = s.dups := rfl
@[simp] theorem setArmX_served : (s.setArmX a x).served = s.served := rfl
@[simp] theorem setArmX_defers : (s.setArmX a x).defers = s.defers := rfl
@[simp] theorem setArmX_pset : (s.setArmX a x).pset = s.pset := rfl
@[simp] theorem setArmX_psetNo : (s.setArmX a x).psetNo = s.psetNo := rfl
@[simp] theorem setArmX_ledg : (s.setArmX a x).ledg = s.ledg := rfl
@[simp] theorem setArmX_telem : (s.setArmX a x).telem = s.telem := rfl
@[simp] theorem setArmX_tb : (s.setArmX a x).tb = s.tb := rfl
@[simp] theorem setArmX_up : (s.setArmX a x).up = s.up := rfl
@[simp] theorem setArmX_bk : (s.setArmX a x).bk = s.bk := rfl
@[simp] theorem setArmX_otp : (s.setArmX a x).otp = s.otp := rfl
@[simp] theorem setArmX_mram : (s.setArmX a x).mram = s.mram := rfl
@[simp] theorem setArmX_sec : (s.setArmX a x).sec = s.sec := rfl
@[simp] theorem setArmX_pow : (s.setArmX a x).pow = s.pow := rfl
@[simp] theorem setArmX_ex : (s.setArmX a x).ex = s.ex := rfl
@[simp] theorem setArmX_commitDue : (s.setArmX a x).commitDue = s.commitDue := rfl
@[simp] theorem setArmX_stale : (s.setArmX a x).stale = s.stale := rfl
@[simp] theorem setArmX_legs : (s.setArmX a x).legs = s.legs := rfl
@[simp] theorem setArmX_stages : (s.setArmX a x).stages = s.stages := rfl
@[simp] theorem setArmX_trips : (s.setArmX a x).trips = s.trips := rfl
@[simp] theorem setArmX_sdTrip : (s.setArmX a x).sdTrip = s.sdTrip := rfl
@[simp] theorem setArmX_links : (s.setArmX a x).links = s.links := rfl
@[simp] theorem setArmX_slotx : (s.setArmX a x).slotx = s.slotx := rfl
@[simp] theorem setArmX_cellc : (s.setArmX a x).cellc = s.cellc := rfl
@[simp] theorem setArmX_fixedPt : (s.setArmX a x).fixedPt = s.fixedPt := rfl
@[simp] theorem setArmX_convx : (s.setArmX a x).convx = s.convx := rfl
@[simp] theorem setArmX_armx : (s.setArmX a x).armx = s.armx.put {} a x := rfl
@[simp] theorem setArmX_cellx : (s.setArmX a x).cellx = s.cellx := rfl
@[simp] theorem setArmX_machx : (s.setArmX a x).machx = s.machx := rfl
@[simp] theorem setArmX_dioOut : (s.setArmX a x).dioOut = s.dioOut := rfl
@[simp] theorem setArmX_stops : (s.setArmX a x).stops = s.stops := rfl
@[simp] theorem setArmX_axstop : (s.setArmX a x).axstop = s.axstop := rfl
@[simp] theorem setArmX_sto : (s.setArmX a x).sto = s.sto := rfl
@[simp] theorem setArmX_supp : (s.setArmX a x).supp = s.supp := rfl
@[simp] theorem setArmX_axReq : (s.setArmX a x).axReq = s.axReq := rfl
@[simp] theorem setArmX_diox : (s.setArmX a x).diox = s.diox := rfl
@[simp] theorem setArmX_fbx : (s.setArmX a x).fbx = s.fbx := rfl
@[simp] theorem setArmX_cmpx : (s.setArmX a x).cmpx = s.cmpx := rfl
@[simp] theorem setArmX_eox : (s.setArmX a x).eox = s.eox := rfl
@[simp] theorem setArmX_late : (s.setArmX a x).late = s.late := rfl
@[simp] theorem setArmX_evWait : (s.setArmX a x).evWait = s.evWait := rfl
@[simp] theorem setArmX_sdx : (s.setArmX a x).sdx = s.sdx := rfl
@[simp] theorem setArmX_ainx : (s.setArmX a x).ainx = s.ainx := rfl
@[simp] theorem setArmX_sarDue : (s.setArmX a x).sarDue = s.sarDue := rfl
@[simp] theorem setArmX_loopx : (s.setArmX a x).loopx = s.loopx := rfl
@[simp] theorem setArmX_axisx : (s.setArmX a x).axisx = s.axisx := rfl
@[simp] theorem setArmX_ffx : (s.setArmX a x).ffx = s.ffx := rfl
@[simp] theorem setArmX_canx : (s.setArmX a x).canx = s.canx := rfl
@[simp] theorem setArmX_canPaused : (s.setArmX a x).canPaused = s.canPaused := rfl
@[simp] theorem setArmX_urgDue : (s.setArmX a x).urgDue = s.urgDue := rfl
@[simp] theorem setArmX_partx : (s.setArmX a x).partx = s.partx := rfl
@[simp] theorem setArmX_tunes : (s.setArmX a x).tunes = s.tunes := rfl
@[simp] theorem setArmX_tracex : (s.setArmX a x).tracex = s.tracex := rfl
@[simp] theorem setArmX_trport : (s.setArmX a x).trport = s.trport := rfl
@[simp] theorem setArmX_evSeen : (s.setArmX a x).evSeen = s.evSeen := rfl
@[simp] theorem setArmX_regs : (s.setArmX a x).regs = s.regs := rfl
@[simp] theorem setArmX_free : (s.setArmX a x).free = s.free := rfl
@[simp] theorem setArmX_pending : (s.setArmX a x).pending = s.pending := rfl
end

/-! `setCellX` -/

section
variable (j : Nat) (x : CellX)
@[simp] theorem setCellX_objs : (s.setCellX j x).objs = s.objs := rfl
@[simp] theorem setCellX_rings : (s.setCellX j x).rings = s.rings := rfl
@[simp] theorem setCellX_tile : (s.setCellX j x).tile = s.tile := rfl
@[simp] theorem setCellX_badTags : (s.setCellX j x).badTags = s.badTags := rfl
@[simp] theorem setCellX_stores : (s.setCellX j x).stores = s.stores := rfl
@[simp] theorem setCellX_sram : (s.setCellX j x).sram = s.sram := rfl
@[simp] theorem setCellX_ports : (s.setCellX j x).ports = s.ports := rfl
@[simp] theorem setCellX_evPend : (s.setCellX j x).evPend = s.evPend := rfl
@[simp] theorem setCellX_routes : (s.setCellX j x).routes = s.routes := rfl
@[simp] theorem setCellX_hcfg : (s.setCellX j x).hcfg = s.hcfg := rfl
@[simp] theorem setCellX_alarms : (s.setCellX j x).alarms = s.alarms := rfl
@[simp] theorem setCellX_aseq : (s.setCellX j x).aseq = s.aseq := rfl
@[simp] theorem setCellX_sarOff : (s.setCellX j x).sarOff = s.sarOff := rfl
@[simp] theorem setCellX_sarGain : (s.setCellX j x).sarGain = s.sarGain := rfl
@[simp] theorem setCellX_newest : (s.setCellX j x).newest = s.newest := rfl
@[simp] theorem setCellX_dups : (s.setCellX j x).dups = s.dups := rfl
@[simp] theorem setCellX_served : (s.setCellX j x).served = s.served := rfl
@[simp] theorem setCellX_defers : (s.setCellX j x).defers = s.defers := rfl
@[simp] theorem setCellX_pset : (s.setCellX j x).pset = s.pset := rfl
@[simp] theorem setCellX_psetNo : (s.setCellX j x).psetNo = s.psetNo := rfl
@[simp] theorem setCellX_ledg : (s.setCellX j x).ledg = s.ledg := rfl
@[simp] theorem setCellX_telem : (s.setCellX j x).telem = s.telem := rfl
@[simp] theorem setCellX_tb : (s.setCellX j x).tb = s.tb := rfl
@[simp] theorem setCellX_up : (s.setCellX j x).up = s.up := rfl
@[simp] theorem setCellX_bk : (s.setCellX j x).bk = s.bk := rfl
@[simp] theorem setCellX_otp : (s.setCellX j x).otp = s.otp := rfl
@[simp] theorem setCellX_mram : (s.setCellX j x).mram = s.mram := rfl
@[simp] theorem setCellX_sec : (s.setCellX j x).sec = s.sec := rfl
@[simp] theorem setCellX_pow : (s.setCellX j x).pow = s.pow := rfl
@[simp] theorem setCellX_ex : (s.setCellX j x).ex = s.ex := rfl
@[simp] theorem setCellX_commitDue : (s.setCellX j x).commitDue = s.commitDue := rfl
@[simp] theorem setCellX_stale : (s.setCellX j x).stale = s.stale := rfl
@[simp] theorem setCellX_legs : (s.setCellX j x).legs = s.legs := rfl
@[simp] theorem setCellX_stages : (s.setCellX j x).stages = s.stages := rfl
@[simp] theorem setCellX_trips : (s.setCellX j x).trips = s.trips := rfl
@[simp] theorem setCellX_sdTrip : (s.setCellX j x).sdTrip = s.sdTrip := rfl
@[simp] theorem setCellX_links : (s.setCellX j x).links = s.links := rfl
@[simp] theorem setCellX_slotx : (s.setCellX j x).slotx = s.slotx := rfl
@[simp] theorem setCellX_cellc : (s.setCellX j x).cellc = s.cellc := rfl
@[simp] theorem setCellX_fixedPt : (s.setCellX j x).fixedPt = s.fixedPt := rfl
@[simp] theorem setCellX_convx : (s.setCellX j x).convx = s.convx := rfl
@[simp] theorem setCellX_armx : (s.setCellX j x).armx = s.armx := rfl
@[simp] theorem setCellX_cellx : (s.setCellX j x).cellx = s.cellx.put {} j x := rfl
@[simp] theorem setCellX_machx : (s.setCellX j x).machx = s.machx := rfl
@[simp] theorem setCellX_dioOut : (s.setCellX j x).dioOut = s.dioOut := rfl
@[simp] theorem setCellX_stops : (s.setCellX j x).stops = s.stops := rfl
@[simp] theorem setCellX_axstop : (s.setCellX j x).axstop = s.axstop := rfl
@[simp] theorem setCellX_sto : (s.setCellX j x).sto = s.sto := rfl
@[simp] theorem setCellX_supp : (s.setCellX j x).supp = s.supp := rfl
@[simp] theorem setCellX_axReq : (s.setCellX j x).axReq = s.axReq := rfl
@[simp] theorem setCellX_diox : (s.setCellX j x).diox = s.diox := rfl
@[simp] theorem setCellX_fbx : (s.setCellX j x).fbx = s.fbx := rfl
@[simp] theorem setCellX_cmpx : (s.setCellX j x).cmpx = s.cmpx := rfl
@[simp] theorem setCellX_eox : (s.setCellX j x).eox = s.eox := rfl
@[simp] theorem setCellX_late : (s.setCellX j x).late = s.late := rfl
@[simp] theorem setCellX_evWait : (s.setCellX j x).evWait = s.evWait := rfl
@[simp] theorem setCellX_sdx : (s.setCellX j x).sdx = s.sdx := rfl
@[simp] theorem setCellX_ainx : (s.setCellX j x).ainx = s.ainx := rfl
@[simp] theorem setCellX_sarDue : (s.setCellX j x).sarDue = s.sarDue := rfl
@[simp] theorem setCellX_loopx : (s.setCellX j x).loopx = s.loopx := rfl
@[simp] theorem setCellX_axisx : (s.setCellX j x).axisx = s.axisx := rfl
@[simp] theorem setCellX_ffx : (s.setCellX j x).ffx = s.ffx := rfl
@[simp] theorem setCellX_canx : (s.setCellX j x).canx = s.canx := rfl
@[simp] theorem setCellX_canPaused : (s.setCellX j x).canPaused = s.canPaused := rfl
@[simp] theorem setCellX_urgDue : (s.setCellX j x).urgDue = s.urgDue := rfl
@[simp] theorem setCellX_partx : (s.setCellX j x).partx = s.partx := rfl
@[simp] theorem setCellX_tunes : (s.setCellX j x).tunes = s.tunes := rfl
@[simp] theorem setCellX_tracex : (s.setCellX j x).tracex = s.tracex := rfl
@[simp] theorem setCellX_trport : (s.setCellX j x).trport = s.trport := rfl
@[simp] theorem setCellX_evSeen : (s.setCellX j x).evSeen = s.evSeen := rfl
@[simp] theorem setCellX_regs : (s.setCellX j x).regs = s.regs := rfl
@[simp] theorem setCellX_free : (s.setCellX j x).free = s.free := rfl
@[simp] theorem setCellX_pending : (s.setCellX j x).pending = s.pending := rfl
end

/-! `setMachX` -/

section
variable (m : Nat) (x : MachX)
@[simp] theorem setMachX_objs : (s.setMachX m x).objs = s.objs := rfl
@[simp] theorem setMachX_rings : (s.setMachX m x).rings = s.rings := rfl
@[simp] theorem setMachX_tile : (s.setMachX m x).tile = s.tile := rfl
@[simp] theorem setMachX_badTags : (s.setMachX m x).badTags = s.badTags := rfl
@[simp] theorem setMachX_stores : (s.setMachX m x).stores = s.stores := rfl
@[simp] theorem setMachX_sram : (s.setMachX m x).sram = s.sram := rfl
@[simp] theorem setMachX_ports : (s.setMachX m x).ports = s.ports := rfl
@[simp] theorem setMachX_evPend : (s.setMachX m x).evPend = s.evPend := rfl
@[simp] theorem setMachX_routes : (s.setMachX m x).routes = s.routes := rfl
@[simp] theorem setMachX_hcfg : (s.setMachX m x).hcfg = s.hcfg := rfl
@[simp] theorem setMachX_alarms : (s.setMachX m x).alarms = s.alarms := rfl
@[simp] theorem setMachX_aseq : (s.setMachX m x).aseq = s.aseq := rfl
@[simp] theorem setMachX_sarOff : (s.setMachX m x).sarOff = s.sarOff := rfl
@[simp] theorem setMachX_sarGain : (s.setMachX m x).sarGain = s.sarGain := rfl
@[simp] theorem setMachX_newest : (s.setMachX m x).newest = s.newest := rfl
@[simp] theorem setMachX_dups : (s.setMachX m x).dups = s.dups := rfl
@[simp] theorem setMachX_served : (s.setMachX m x).served = s.served := rfl
@[simp] theorem setMachX_defers : (s.setMachX m x).defers = s.defers := rfl
@[simp] theorem setMachX_pset : (s.setMachX m x).pset = s.pset := rfl
@[simp] theorem setMachX_psetNo : (s.setMachX m x).psetNo = s.psetNo := rfl
@[simp] theorem setMachX_ledg : (s.setMachX m x).ledg = s.ledg := rfl
@[simp] theorem setMachX_telem : (s.setMachX m x).telem = s.telem := rfl
@[simp] theorem setMachX_tb : (s.setMachX m x).tb = s.tb := rfl
@[simp] theorem setMachX_up : (s.setMachX m x).up = s.up := rfl
@[simp] theorem setMachX_bk : (s.setMachX m x).bk = s.bk := rfl
@[simp] theorem setMachX_otp : (s.setMachX m x).otp = s.otp := rfl
@[simp] theorem setMachX_mram : (s.setMachX m x).mram = s.mram := rfl
@[simp] theorem setMachX_sec : (s.setMachX m x).sec = s.sec := rfl
@[simp] theorem setMachX_pow : (s.setMachX m x).pow = s.pow := rfl
@[simp] theorem setMachX_ex : (s.setMachX m x).ex = s.ex := rfl
@[simp] theorem setMachX_commitDue : (s.setMachX m x).commitDue = s.commitDue := rfl
@[simp] theorem setMachX_stale : (s.setMachX m x).stale = s.stale := rfl
@[simp] theorem setMachX_legs : (s.setMachX m x).legs = s.legs := rfl
@[simp] theorem setMachX_stages : (s.setMachX m x).stages = s.stages := rfl
@[simp] theorem setMachX_trips : (s.setMachX m x).trips = s.trips := rfl
@[simp] theorem setMachX_sdTrip : (s.setMachX m x).sdTrip = s.sdTrip := rfl
@[simp] theorem setMachX_links : (s.setMachX m x).links = s.links := rfl
@[simp] theorem setMachX_slotx : (s.setMachX m x).slotx = s.slotx := rfl
@[simp] theorem setMachX_cellc : (s.setMachX m x).cellc = s.cellc := rfl
@[simp] theorem setMachX_fixedPt : (s.setMachX m x).fixedPt = s.fixedPt := rfl
@[simp] theorem setMachX_convx : (s.setMachX m x).convx = s.convx := rfl
@[simp] theorem setMachX_armx : (s.setMachX m x).armx = s.armx := rfl
@[simp] theorem setMachX_cellx : (s.setMachX m x).cellx = s.cellx := rfl
@[simp] theorem setMachX_machx : (s.setMachX m x).machx = s.machx.put {} m x := rfl
@[simp] theorem setMachX_dioOut : (s.setMachX m x).dioOut = s.dioOut := rfl
@[simp] theorem setMachX_stops : (s.setMachX m x).stops = s.stops := rfl
@[simp] theorem setMachX_axstop : (s.setMachX m x).axstop = s.axstop := rfl
@[simp] theorem setMachX_sto : (s.setMachX m x).sto = s.sto := rfl
@[simp] theorem setMachX_supp : (s.setMachX m x).supp = s.supp := rfl
@[simp] theorem setMachX_axReq : (s.setMachX m x).axReq = s.axReq := rfl
@[simp] theorem setMachX_diox : (s.setMachX m x).diox = s.diox := rfl
@[simp] theorem setMachX_fbx : (s.setMachX m x).fbx = s.fbx := rfl
@[simp] theorem setMachX_cmpx : (s.setMachX m x).cmpx = s.cmpx := rfl
@[simp] theorem setMachX_eox : (s.setMachX m x).eox = s.eox := rfl
@[simp] theorem setMachX_late : (s.setMachX m x).late = s.late := rfl
@[simp] theorem setMachX_evWait : (s.setMachX m x).evWait = s.evWait := rfl
@[simp] theorem setMachX_sdx : (s.setMachX m x).sdx = s.sdx := rfl
@[simp] theorem setMachX_ainx : (s.setMachX m x).ainx = s.ainx := rfl
@[simp] theorem setMachX_sarDue : (s.setMachX m x).sarDue = s.sarDue := rfl
@[simp] theorem setMachX_loopx : (s.setMachX m x).loopx = s.loopx := rfl
@[simp] theorem setMachX_axisx : (s.setMachX m x).axisx = s.axisx := rfl
@[simp] theorem setMachX_ffx : (s.setMachX m x).ffx = s.ffx := rfl
@[simp] theorem setMachX_canx : (s.setMachX m x).canx = s.canx := rfl
@[simp] theorem setMachX_canPaused : (s.setMachX m x).canPaused = s.canPaused := rfl
@[simp] theorem setMachX_urgDue : (s.setMachX m x).urgDue = s.urgDue := rfl
@[simp] theorem setMachX_partx : (s.setMachX m x).partx = s.partx := rfl
@[simp] theorem setMachX_tunes : (s.setMachX m x).tunes = s.tunes := rfl
@[simp] theorem setMachX_tracex : (s.setMachX m x).tracex = s.tracex := rfl
@[simp] theorem setMachX_trport : (s.setMachX m x).trport = s.trport := rfl
@[simp] theorem setMachX_evSeen : (s.setMachX m x).evSeen = s.evSeen := rfl
@[simp] theorem setMachX_regs : (s.setMachX m x).regs = s.regs := rfl
@[simp] theorem setMachX_free : (s.setMachX m x).free = s.free := rfl
@[simp] theorem setMachX_pending : (s.setMachX m x).pending = s.pending := rfl
end

/-! `dbgData` -/

section
variable (v : Nat)
@[simp] theorem dbgData_objs : (s.dbgData v).objs = s.objs := rfl
@[simp] theorem dbgData_rings : (s.dbgData v).rings = s.rings := rfl
@[simp] theorem dbgData_tile : (s.dbgData v).tile = s.tile := rfl
@[simp] theorem dbgData_badTags : (s.dbgData v).badTags = s.badTags := rfl
@[simp] theorem dbgData_stores : (s.dbgData v).stores = s.stores := rfl
@[simp] theorem dbgData_sram : (s.dbgData v).sram = s.sram := rfl
@[simp] theorem dbgData_ports : (s.dbgData v).ports = s.ports := rfl
@[simp] theorem dbgData_evPend : (s.dbgData v).evPend = s.evPend := rfl
@[simp] theorem dbgData_routes : (s.dbgData v).routes = s.routes := rfl
@[simp] theorem dbgData_hcfg : (s.dbgData v).hcfg = s.hcfg := rfl
@[simp] theorem dbgData_alarms : (s.dbgData v).alarms = s.alarms := rfl
@[simp] theorem dbgData_aseq : (s.dbgData v).aseq = s.aseq := rfl
@[simp] theorem dbgData_sarOff : (s.dbgData v).sarOff = s.sarOff := rfl
@[simp] theorem dbgData_sarGain : (s.dbgData v).sarGain = s.sarGain := rfl
@[simp] theorem dbgData_newest : (s.dbgData v).newest = s.newest := rfl
@[simp] theorem dbgData_dups : (s.dbgData v).dups = s.dups := rfl
@[simp] theorem dbgData_served : (s.dbgData v).served = s.served := rfl
@[simp] theorem dbgData_defers : (s.dbgData v).defers = s.defers := rfl
@[simp] theorem dbgData_pset : (s.dbgData v).pset = s.pset := rfl
@[simp] theorem dbgData_psetNo : (s.dbgData v).psetNo = s.psetNo := rfl
@[simp] theorem dbgData_ledg : (s.dbgData v).ledg = s.ledg := rfl
@[simp] theorem dbgData_telem : (s.dbgData v).telem = s.telem := rfl
@[simp] theorem dbgData_tb : (s.dbgData v).tb = s.tb := rfl
@[simp] theorem dbgData_up : (s.dbgData v).up = s.up := rfl
@[simp] theorem dbgData_bk : (s.dbgData v).bk = s.bk := rfl
@[simp] theorem dbgData_otp : (s.dbgData v).otp = s.otp := rfl
@[simp] theorem dbgData_mram : (s.dbgData v).mram = s.mram := rfl
@[simp] theorem dbgData_sec : (s.dbgData v).sec = { s.sec with dbgData := v } := rfl
@[simp] theorem dbgData_pow : (s.dbgData v).pow = s.pow := rfl
@[simp] theorem dbgData_ex : (s.dbgData v).ex = s.ex := rfl
@[simp] theorem dbgData_commitDue : (s.dbgData v).commitDue = s.commitDue := rfl
@[simp] theorem dbgData_stale : (s.dbgData v).stale = s.stale := rfl
@[simp] theorem dbgData_legs : (s.dbgData v).legs = s.legs := rfl
@[simp] theorem dbgData_stages : (s.dbgData v).stages = s.stages := rfl
@[simp] theorem dbgData_trips : (s.dbgData v).trips = s.trips := rfl
@[simp] theorem dbgData_sdTrip : (s.dbgData v).sdTrip = s.sdTrip := rfl
@[simp] theorem dbgData_links : (s.dbgData v).links = s.links := rfl
@[simp] theorem dbgData_slotx : (s.dbgData v).slotx = s.slotx := rfl
@[simp] theorem dbgData_cellc : (s.dbgData v).cellc = s.cellc := rfl
@[simp] theorem dbgData_fixedPt : (s.dbgData v).fixedPt = s.fixedPt := rfl
@[simp] theorem dbgData_convx : (s.dbgData v).convx = s.convx := rfl
@[simp] theorem dbgData_armx : (s.dbgData v).armx = s.armx := rfl
@[simp] theorem dbgData_cellx : (s.dbgData v).cellx = s.cellx := rfl
@[simp] theorem dbgData_machx : (s.dbgData v).machx = s.machx := rfl
@[simp] theorem dbgData_dioOut : (s.dbgData v).dioOut = s.dioOut := rfl
@[simp] theorem dbgData_stops : (s.dbgData v).stops = s.stops := rfl
@[simp] theorem dbgData_axstop : (s.dbgData v).axstop = s.axstop := rfl
@[simp] theorem dbgData_sto : (s.dbgData v).sto = s.sto := rfl
@[simp] theorem dbgData_supp : (s.dbgData v).supp = s.supp := rfl
@[simp] theorem dbgData_axReq : (s.dbgData v).axReq = s.axReq := rfl
@[simp] theorem dbgData_diox : (s.dbgData v).diox = s.diox := rfl
@[simp] theorem dbgData_fbx : (s.dbgData v).fbx = s.fbx := rfl
@[simp] theorem dbgData_cmpx : (s.dbgData v).cmpx = s.cmpx := rfl
@[simp] theorem dbgData_eox : (s.dbgData v).eox = s.eox := rfl
@[simp] theorem dbgData_late : (s.dbgData v).late = s.late := rfl
@[simp] theorem dbgData_evWait : (s.dbgData v).evWait = s.evWait := rfl
@[simp] theorem dbgData_sdx : (s.dbgData v).sdx = s.sdx := rfl
@[simp] theorem dbgData_ainx : (s.dbgData v).ainx = s.ainx := rfl
@[simp] theorem dbgData_sarDue : (s.dbgData v).sarDue = s.sarDue := rfl
@[simp] theorem dbgData_loopx : (s.dbgData v).loopx = s.loopx := rfl
@[simp] theorem dbgData_axisx : (s.dbgData v).axisx = s.axisx := rfl
@[simp] theorem dbgData_ffx : (s.dbgData v).ffx = s.ffx := rfl
@[simp] theorem dbgData_canx : (s.dbgData v).canx = s.canx := rfl
@[simp] theorem dbgData_canPaused : (s.dbgData v).canPaused = s.canPaused := rfl
@[simp] theorem dbgData_urgDue : (s.dbgData v).urgDue = s.urgDue := rfl
@[simp] theorem dbgData_partx : (s.dbgData v).partx = s.partx := rfl
@[simp] theorem dbgData_tunes : (s.dbgData v).tunes = s.tunes := rfl
@[simp] theorem dbgData_tracex : (s.dbgData v).tracex = s.tracex := rfl
@[simp] theorem dbgData_trport : (s.dbgData v).trport = s.trport := rfl
@[simp] theorem dbgData_evSeen : (s.dbgData v).evSeen = s.evSeen := rfl
@[simp] theorem dbgData_regs : (s.dbgData v).regs = s.regs := rfl
@[simp] theorem dbgData_free : (s.dbgData v).free = s.free := rfl
@[simp] theorem dbgData_pending : (s.dbgData v).pending = s.pending := rfl
end

/-! `setEng` -/

section
variable (e : Nat) (x : Engine)
@[simp] theorem setEng_objs : (s.setEng e x).objs = s.objs := rfl
@[simp] theorem setEng_rings : (s.setEng e x).rings = s.rings := rfl
@[simp] theorem setEng_tile : (s.setEng e x).tile = s.tile := rfl
@[simp] theorem setEng_badTags : (s.setEng e x).badTags = s.badTags := rfl
@[simp] theorem setEng_stores : (s.setEng e x).stores = s.stores := rfl
@[simp] theorem setEng_sram : (s.setEng e x).sram = s.sram := rfl
@[simp] theorem setEng_ports : (s.setEng e x).ports = s.ports := rfl
@[simp] theorem setEng_evPend : (s.setEng e x).evPend = s.evPend := rfl
@[simp] theorem setEng_routes : (s.setEng e x).routes = s.routes := rfl
@[simp] theorem setEng_hcfg : (s.setEng e x).hcfg = s.hcfg := rfl
@[simp] theorem setEng_alarms : (s.setEng e x).alarms = s.alarms := rfl
@[simp] theorem setEng_aseq : (s.setEng e x).aseq = s.aseq := rfl
@[simp] theorem setEng_sarOff : (s.setEng e x).sarOff = s.sarOff := rfl
@[simp] theorem setEng_sarGain : (s.setEng e x).sarGain = s.sarGain := rfl
@[simp] theorem setEng_newest : (s.setEng e x).newest = s.newest := rfl
@[simp] theorem setEng_dups : (s.setEng e x).dups = s.dups := rfl
@[simp] theorem setEng_served : (s.setEng e x).served = s.served := rfl
@[simp] theorem setEng_defers : (s.setEng e x).defers = s.defers := rfl
@[simp] theorem setEng_pset : (s.setEng e x).pset = s.pset := rfl
@[simp] theorem setEng_psetNo : (s.setEng e x).psetNo = s.psetNo := rfl
@[simp] theorem setEng_ledg : (s.setEng e x).ledg = s.ledg := rfl
@[simp] theorem setEng_telem : (s.setEng e x).telem = s.telem := rfl
@[simp] theorem setEng_tb : (s.setEng e x).tb = s.tb := rfl
@[simp] theorem setEng_up : (s.setEng e x).up = s.up := rfl
@[simp] theorem setEng_bk : (s.setEng e x).bk = s.bk := rfl
@[simp] theorem setEng_otp : (s.setEng e x).otp = s.otp := rfl
@[simp] theorem setEng_mram : (s.setEng e x).mram = s.mram := rfl
@[simp] theorem setEng_sec : (s.setEng e x).sec = s.sec := rfl
@[simp] theorem setEng_pow : (s.setEng e x).pow = s.pow := rfl
@[simp] theorem setEng_ex : (s.setEng e x).ex = { s.ex with engines := s.ex.engines.put {} e x } := rfl
@[simp] theorem setEng_commitDue : (s.setEng e x).commitDue = s.commitDue := rfl
@[simp] theorem setEng_stale : (s.setEng e x).stale = s.stale := rfl
@[simp] theorem setEng_legs : (s.setEng e x).legs = s.legs := rfl
@[simp] theorem setEng_stages : (s.setEng e x).stages = s.stages := rfl
@[simp] theorem setEng_trips : (s.setEng e x).trips = s.trips := rfl
@[simp] theorem setEng_sdTrip : (s.setEng e x).sdTrip = s.sdTrip := rfl
@[simp] theorem setEng_links : (s.setEng e x).links = s.links := rfl
@[simp] theorem setEng_slotx : (s.setEng e x).slotx = s.slotx := rfl
@[simp] theorem setEng_cellc : (s.setEng e x).cellc = s.cellc := rfl
@[simp] theorem setEng_fixedPt : (s.setEng e x).fixedPt = s.fixedPt := rfl
@[simp] theorem setEng_convx : (s.setEng e x).convx = s.convx := rfl
@[simp] theorem setEng_armx : (s.setEng e x).armx = s.armx := rfl
@[simp] theorem setEng_cellx : (s.setEng e x).cellx = s.cellx := rfl
@[simp] theorem setEng_machx : (s.setEng e x).machx = s.machx := rfl
@[simp] theorem setEng_dioOut : (s.setEng e x).dioOut = s.dioOut := rfl
@[simp] theorem setEng_stops : (s.setEng e x).stops = s.stops := rfl
@[simp] theorem setEng_axstop : (s.setEng e x).axstop = s.axstop := rfl
@[simp] theorem setEng_sto : (s.setEng e x).sto = s.sto := rfl
@[simp] theorem setEng_supp : (s.setEng e x).supp = s.supp := rfl
@[simp] theorem setEng_axReq : (s.setEng e x).axReq = s.axReq := rfl
@[simp] theorem setEng_diox : (s.setEng e x).diox = s.diox := rfl
@[simp] theorem setEng_fbx : (s.setEng e x).fbx = s.fbx := rfl
@[simp] theorem setEng_cmpx : (s.setEng e x).cmpx = s.cmpx := rfl
@[simp] theorem setEng_eox : (s.setEng e x).eox = s.eox := rfl
@[simp] theorem setEng_late : (s.setEng e x).late = s.late := rfl
@[simp] theorem setEng_evWait : (s.setEng e x).evWait = s.evWait := rfl
@[simp] theorem setEng_sdx : (s.setEng e x).sdx = s.sdx := rfl
@[simp] theorem setEng_ainx : (s.setEng e x).ainx = s.ainx := rfl
@[simp] theorem setEng_sarDue : (s.setEng e x).sarDue = s.sarDue := rfl
@[simp] theorem setEng_loopx : (s.setEng e x).loopx = s.loopx := rfl
@[simp] theorem setEng_axisx : (s.setEng e x).axisx = s.axisx := rfl
@[simp] theorem setEng_ffx : (s.setEng e x).ffx = s.ffx := rfl
@[simp] theorem setEng_canx : (s.setEng e x).canx = s.canx := rfl
@[simp] theorem setEng_canPaused : (s.setEng e x).canPaused = s.canPaused := rfl
@[simp] theorem setEng_urgDue : (s.setEng e x).urgDue = s.urgDue := rfl
@[simp] theorem setEng_partx : (s.setEng e x).partx = s.partx := rfl
@[simp] theorem setEng_tunes : (s.setEng e x).tunes = s.tunes := rfl
@[simp] theorem setEng_tracex : (s.setEng e x).tracex = s.tracex := rfl
@[simp] theorem setEng_trport : (s.setEng e x).trport = s.trport := rfl
@[simp] theorem setEng_evSeen : (s.setEng e x).evSeen = s.evSeen := rfl
@[simp] theorem setEng_regs : (s.setEng e x).regs = s.regs := rfl
@[simp] theorem setEng_free : (s.setEng e x).free = s.free := rfl
@[simp] theorem setEng_pending : (s.setEng e x).pending = s.pending := rfl
end

/-! `toBalance` -/

@[simp] theorem toBalance_objs : (s.toBalance).objs = s.objs := rfl
@[simp] theorem toBalance_rings : (s.toBalance).rings = s.rings := rfl
@[simp] theorem toBalance_tile : (s.toBalance).tile = s.tile := rfl
@[simp] theorem toBalance_badTags : (s.toBalance).badTags = s.badTags := rfl
@[simp] theorem toBalance_stores : (s.toBalance).stores = s.stores := rfl
@[simp] theorem toBalance_sram : (s.toBalance).sram = s.sram := rfl
@[simp] theorem toBalance_ports : (s.toBalance).ports = s.ports := rfl
@[simp] theorem toBalance_evPend : (s.toBalance).evPend = s.evPend := rfl
@[simp] theorem toBalance_routes : (s.toBalance).routes = s.routes := rfl
@[simp] theorem toBalance_hcfg : (s.toBalance).hcfg = s.hcfg := rfl
@[simp] theorem toBalance_alarms : (s.toBalance).alarms = s.alarms := rfl
@[simp] theorem toBalance_aseq : (s.toBalance).aseq = s.aseq := rfl
@[simp] theorem toBalance_sarOff : (s.toBalance).sarOff = s.sarOff := rfl
@[simp] theorem toBalance_sarGain : (s.toBalance).sarGain = s.sarGain := rfl
@[simp] theorem toBalance_newest : (s.toBalance).newest = s.newest := rfl
@[simp] theorem toBalance_dups : (s.toBalance).dups = s.dups := rfl
@[simp] theorem toBalance_served : (s.toBalance).served = s.served := rfl
@[simp] theorem toBalance_defers : (s.toBalance).defers = s.defers := rfl
@[simp] theorem toBalance_pset : (s.toBalance).pset = s.pset := rfl
@[simp] theorem toBalance_psetNo : (s.toBalance).psetNo = s.psetNo := rfl
@[simp] theorem toBalance_ledg : (s.toBalance).ledg = s.ledg := rfl
@[simp] theorem toBalance_telem : (s.toBalance).telem = s.telem := rfl
@[simp] theorem toBalance_tb : (s.toBalance).tb = s.tb := rfl
@[simp] theorem toBalance_up : (s.toBalance).up = s.up := rfl
@[simp] theorem toBalance_bk : (s.toBalance).bk = s.bk := rfl
@[simp] theorem toBalance_otp : (s.toBalance).otp = s.otp := rfl
@[simp] theorem toBalance_mram : (s.toBalance).mram = s.mram := rfl
@[simp] theorem toBalance_sec : (s.toBalance).sec = s.sec := rfl
@[simp] theorem toBalance_pow : (s.toBalance).pow = s.pow := rfl
@[simp] theorem toBalance_ex : (s.toBalance).ex = { s.ex with balance := true } := rfl
@[simp] theorem toBalance_commitDue : (s.toBalance).commitDue = s.commitDue := rfl
@[simp] theorem toBalance_stale : (s.toBalance).stale = s.stale := rfl
@[simp] theorem toBalance_legs : (s.toBalance).legs = s.legs := rfl
@[simp] theorem toBalance_stages : (s.toBalance).stages = s.stages := rfl
@[simp] theorem toBalance_trips : (s.toBalance).trips = s.trips := rfl
@[simp] theorem toBalance_sdTrip : (s.toBalance).sdTrip = s.sdTrip := rfl
@[simp] theorem toBalance_links : (s.toBalance).links = s.links := rfl
@[simp] theorem toBalance_slotx : (s.toBalance).slotx = s.slotx := rfl
@[simp] theorem toBalance_cellc : (s.toBalance).cellc = s.cellc := rfl
@[simp] theorem toBalance_fixedPt : (s.toBalance).fixedPt = s.fixedPt := rfl
@[simp] theorem toBalance_convx : (s.toBalance).convx = s.convx := rfl
@[simp] theorem toBalance_armx : (s.toBalance).armx = s.armx := rfl
@[simp] theorem toBalance_cellx : (s.toBalance).cellx = s.cellx := rfl
@[simp] theorem toBalance_machx : (s.toBalance).machx = s.machx := rfl
@[simp] theorem toBalance_dioOut : (s.toBalance).dioOut = s.dioOut := rfl
@[simp] theorem toBalance_stops : (s.toBalance).stops = s.stops := rfl
@[simp] theorem toBalance_axstop : (s.toBalance).axstop = s.axstop := rfl
@[simp] theorem toBalance_sto : (s.toBalance).sto = s.sto := rfl
@[simp] theorem toBalance_supp : (s.toBalance).supp = s.supp := rfl
@[simp] theorem toBalance_axReq : (s.toBalance).axReq = s.axReq := rfl
@[simp] theorem toBalance_diox : (s.toBalance).diox = s.diox := rfl
@[simp] theorem toBalance_fbx : (s.toBalance).fbx = s.fbx := rfl
@[simp] theorem toBalance_cmpx : (s.toBalance).cmpx = s.cmpx := rfl
@[simp] theorem toBalance_eox : (s.toBalance).eox = s.eox := rfl
@[simp] theorem toBalance_late : (s.toBalance).late = s.late := rfl
@[simp] theorem toBalance_evWait : (s.toBalance).evWait = s.evWait := rfl
@[simp] theorem toBalance_sdx : (s.toBalance).sdx = s.sdx := rfl
@[simp] theorem toBalance_ainx : (s.toBalance).ainx = s.ainx := rfl
@[simp] theorem toBalance_sarDue : (s.toBalance).sarDue = s.sarDue := rfl
@[simp] theorem toBalance_loopx : (s.toBalance).loopx = s.loopx := rfl
@[simp] theorem toBalance_axisx : (s.toBalance).axisx = s.axisx := rfl
@[simp] theorem toBalance_ffx : (s.toBalance).ffx = s.ffx := rfl
@[simp] theorem toBalance_canx : (s.toBalance).canx = s.canx := rfl
@[simp] theorem toBalance_canPaused : (s.toBalance).canPaused = s.canPaused := rfl
@[simp] theorem toBalance_urgDue : (s.toBalance).urgDue = s.urgDue := rfl
@[simp] theorem toBalance_partx : (s.toBalance).partx = s.partx := rfl
@[simp] theorem toBalance_tunes : (s.toBalance).tunes = s.tunes := rfl
@[simp] theorem toBalance_tracex : (s.toBalance).tracex = s.tracex := rfl
@[simp] theorem toBalance_trport : (s.toBalance).trport = s.trport := rfl
@[simp] theorem toBalance_evSeen : (s.toBalance).evSeen = s.evSeen := rfl
@[simp] theorem toBalance_regs : (s.toBalance).regs = s.regs := rfl
@[simp] theorem toBalance_free : (s.toBalance).free = s.free := rfl
@[simp] theorem toBalance_pending : (s.toBalance).pending = s.pending := rfl

/-! `resetOut` -/

section
variable (k : Nat)
@[simp] theorem resetOut_objs : (s.resetOut k).objs = s.objs := rfl
@[simp] theorem resetOut_rings : (s.resetOut k).rings = s.rings := rfl
@[simp] theorem resetOut_tile : (s.resetOut k).tile = s.tile := rfl
@[simp] theorem resetOut_badTags : (s.resetOut k).badTags = s.badTags := rfl
@[simp] theorem resetOut_stores : (s.resetOut k).stores = s.stores := rfl
@[simp] theorem resetOut_sram : (s.resetOut k).sram = s.sram := rfl
@[simp] theorem resetOut_ports : (s.resetOut k).ports = s.ports := rfl
@[simp] theorem resetOut_evPend : (s.resetOut k).evPend = s.evPend := rfl
@[simp] theorem resetOut_routes : (s.resetOut k).routes = s.routes := rfl
@[simp] theorem resetOut_hcfg : (s.resetOut k).hcfg = s.hcfg := rfl
@[simp] theorem resetOut_alarms : (s.resetOut k).alarms = s.alarms := rfl
@[simp] theorem resetOut_aseq : (s.resetOut k).aseq = s.aseq := rfl
@[simp] theorem resetOut_sarOff : (s.resetOut k).sarOff = s.sarOff := rfl
@[simp] theorem resetOut_sarGain : (s.resetOut k).sarGain = s.sarGain := rfl
@[simp] theorem resetOut_newest : (s.resetOut k).newest = s.newest := rfl
@[simp] theorem resetOut_dups : (s.resetOut k).dups = s.dups := rfl
@[simp] theorem resetOut_served : (s.resetOut k).served = s.served := rfl
@[simp] theorem resetOut_defers : (s.resetOut k).defers = s.defers := rfl
@[simp] theorem resetOut_pset : (s.resetOut k).pset = s.pset := rfl
@[simp] theorem resetOut_psetNo : (s.resetOut k).psetNo = s.psetNo := rfl
@[simp] theorem resetOut_ledg : (s.resetOut k).ledg = s.ledg := rfl
@[simp] theorem resetOut_telem : (s.resetOut k).telem = s.telem := rfl
@[simp] theorem resetOut_tb : (s.resetOut k).tb = s.tb := rfl
@[simp] theorem resetOut_up : (s.resetOut k).up = s.up := rfl
@[simp] theorem resetOut_bk : (s.resetOut k).bk = s.bk := rfl
@[simp] theorem resetOut_otp : (s.resetOut k).otp = s.otp := rfl
@[simp] theorem resetOut_mram : (s.resetOut k).mram = s.mram := rfl
@[simp] theorem resetOut_sec : (s.resetOut k).sec = s.sec := rfl
@[simp] theorem resetOut_pow : (s.resetOut k).pow = s.pow := rfl
@[simp] theorem resetOut_ex : (s.resetOut k).ex = { s.ex with outs := s.ex.outs.del k } := rfl
@[simp] theorem resetOut_commitDue : (s.resetOut k).commitDue = s.commitDue := rfl
@[simp] theorem resetOut_stale : (s.resetOut k).stale = s.stale := rfl
@[simp] theorem resetOut_legs : (s.resetOut k).legs = s.legs := rfl
@[simp] theorem resetOut_stages : (s.resetOut k).stages = s.stages := rfl
@[simp] theorem resetOut_trips : (s.resetOut k).trips = s.trips := rfl
@[simp] theorem resetOut_sdTrip : (s.resetOut k).sdTrip = s.sdTrip := rfl
@[simp] theorem resetOut_links : (s.resetOut k).links = s.links := rfl
@[simp] theorem resetOut_slotx : (s.resetOut k).slotx = s.slotx := rfl
@[simp] theorem resetOut_cellc : (s.resetOut k).cellc = s.cellc := rfl
@[simp] theorem resetOut_fixedPt : (s.resetOut k).fixedPt = s.fixedPt := rfl
@[simp] theorem resetOut_convx : (s.resetOut k).convx = s.convx := rfl
@[simp] theorem resetOut_armx : (s.resetOut k).armx = s.armx := rfl
@[simp] theorem resetOut_cellx : (s.resetOut k).cellx = s.cellx := rfl
@[simp] theorem resetOut_machx : (s.resetOut k).machx = s.machx := rfl
@[simp] theorem resetOut_dioOut : (s.resetOut k).dioOut = s.dioOut := rfl
@[simp] theorem resetOut_stops : (s.resetOut k).stops = s.stops := rfl
@[simp] theorem resetOut_axstop : (s.resetOut k).axstop = s.axstop := rfl
@[simp] theorem resetOut_sto : (s.resetOut k).sto = s.sto := rfl
@[simp] theorem resetOut_supp : (s.resetOut k).supp = s.supp := rfl
@[simp] theorem resetOut_axReq : (s.resetOut k).axReq = s.axReq := rfl
@[simp] theorem resetOut_diox : (s.resetOut k).diox = s.diox := rfl
@[simp] theorem resetOut_fbx : (s.resetOut k).fbx = s.fbx := rfl
@[simp] theorem resetOut_cmpx : (s.resetOut k).cmpx = s.cmpx := rfl
@[simp] theorem resetOut_eox : (s.resetOut k).eox = s.eox := rfl
@[simp] theorem resetOut_late : (s.resetOut k).late = s.late := rfl
@[simp] theorem resetOut_evWait : (s.resetOut k).evWait = s.evWait := rfl
@[simp] theorem resetOut_sdx : (s.resetOut k).sdx = s.sdx := rfl
@[simp] theorem resetOut_ainx : (s.resetOut k).ainx = s.ainx := rfl
@[simp] theorem resetOut_sarDue : (s.resetOut k).sarDue = s.sarDue := rfl
@[simp] theorem resetOut_loopx : (s.resetOut k).loopx = s.loopx := rfl
@[simp] theorem resetOut_axisx : (s.resetOut k).axisx = s.axisx := rfl
@[simp] theorem resetOut_ffx : (s.resetOut k).ffx = s.ffx := rfl
@[simp] theorem resetOut_canx : (s.resetOut k).canx = s.canx := rfl
@[simp] theorem resetOut_canPaused : (s.resetOut k).canPaused = s.canPaused := rfl
@[simp] theorem resetOut_urgDue : (s.resetOut k).urgDue = s.urgDue := rfl
@[simp] theorem resetOut_partx : (s.resetOut k).partx = s.partx := rfl
@[simp] theorem resetOut_tunes : (s.resetOut k).tunes = s.tunes := rfl
@[simp] theorem resetOut_tracex : (s.resetOut k).tracex = s.tracex := rfl
@[simp] theorem resetOut_trport : (s.resetOut k).trport = s.trport := rfl
@[simp] theorem resetOut_evSeen : (s.resetOut k).evSeen = s.evSeen := rfl
@[simp] theorem resetOut_regs : (s.resetOut k).regs = s.regs := rfl
@[simp] theorem resetOut_free : (s.resetOut k).free = s.free := rfl
@[simp] theorem resetOut_pending : (s.resetOut k).pending = s.pending := rfl
end

/-! `setLeg` -/

section
variable (l : Nat) (x : Leg)
@[simp] theorem setLeg_objs : (s.setLeg l x).objs = s.objs := rfl
@[simp] theorem setLeg_rings : (s.setLeg l x).rings = s.rings := rfl
@[simp] theorem setLeg_tile : (s.setLeg l x).tile = s.tile := rfl
@[simp] theorem setLeg_badTags : (s.setLeg l x).badTags = s.badTags := rfl
@[simp] theorem setLeg_stores : (s.setLeg l x).stores = s.stores := rfl
@[simp] theorem setLeg_sram : (s.setLeg l x).sram = s.sram := rfl
@[simp] theorem setLeg_ports : (s.setLeg l x).ports = s.ports := rfl
@[simp] theorem setLeg_evPend : (s.setLeg l x).evPend = s.evPend := rfl
@[simp] theorem setLeg_routes : (s.setLeg l x).routes = s.routes := rfl
@[simp] theorem setLeg_hcfg : (s.setLeg l x).hcfg = s.hcfg := rfl
@[simp] theorem setLeg_alarms : (s.setLeg l x).alarms = s.alarms := rfl
@[simp] theorem setLeg_aseq : (s.setLeg l x).aseq = s.aseq := rfl
@[simp] theorem setLeg_sarOff : (s.setLeg l x).sarOff = s.sarOff := rfl
@[simp] theorem setLeg_sarGain : (s.setLeg l x).sarGain = s.sarGain := rfl
@[simp] theorem setLeg_newest : (s.setLeg l x).newest = s.newest := rfl
@[simp] theorem setLeg_dups : (s.setLeg l x).dups = s.dups := rfl
@[simp] theorem setLeg_served : (s.setLeg l x).served = s.served := rfl
@[simp] theorem setLeg_defers : (s.setLeg l x).defers = s.defers := rfl
@[simp] theorem setLeg_pset : (s.setLeg l x).pset = s.pset := rfl
@[simp] theorem setLeg_psetNo : (s.setLeg l x).psetNo = s.psetNo := rfl
@[simp] theorem setLeg_ledg : (s.setLeg l x).ledg = s.ledg := rfl
@[simp] theorem setLeg_telem : (s.setLeg l x).telem = s.telem := rfl
@[simp] theorem setLeg_tb : (s.setLeg l x).tb = s.tb := rfl
@[simp] theorem setLeg_up : (s.setLeg l x).up = s.up := rfl
@[simp] theorem setLeg_bk : (s.setLeg l x).bk = s.bk := rfl
@[simp] theorem setLeg_otp : (s.setLeg l x).otp = s.otp := rfl
@[simp] theorem setLeg_mram : (s.setLeg l x).mram = s.mram := rfl
@[simp] theorem setLeg_sec : (s.setLeg l x).sec = s.sec := rfl
@[simp] theorem setLeg_pow : (s.setLeg l x).pow = s.pow := rfl
@[simp] theorem setLeg_ex : (s.setLeg l x).ex = s.ex := rfl
@[simp] theorem setLeg_commitDue : (s.setLeg l x).commitDue = s.commitDue := rfl
@[simp] theorem setLeg_stale : (s.setLeg l x).stale = s.stale := rfl
@[simp] theorem setLeg_legs : (s.setLeg l x).legs = s.legs.put {} l x := rfl
@[simp] theorem setLeg_stages : (s.setLeg l x).stages = s.stages := rfl
@[simp] theorem setLeg_trips : (s.setLeg l x).trips = s.trips := rfl
@[simp] theorem setLeg_sdTrip : (s.setLeg l x).sdTrip = s.sdTrip := rfl
@[simp] theorem setLeg_links : (s.setLeg l x).links = s.links := rfl
@[simp] theorem setLeg_slotx : (s.setLeg l x).slotx = s.slotx := rfl
@[simp] theorem setLeg_cellc : (s.setLeg l x).cellc = s.cellc := rfl
@[simp] theorem setLeg_fixedPt : (s.setLeg l x).fixedPt = s.fixedPt := rfl
@[simp] theorem setLeg_convx : (s.setLeg l x).convx = s.convx := rfl
@[simp] theorem setLeg_armx : (s.setLeg l x).armx = s.armx := rfl
@[simp] theorem setLeg_cellx : (s.setLeg l x).cellx = s.cellx := rfl
@[simp] theorem setLeg_machx : (s.setLeg l x).machx = s.machx := rfl
@[simp] theorem setLeg_dioOut : (s.setLeg l x).dioOut = s.dioOut := rfl
@[simp] theorem setLeg_stops : (s.setLeg l x).stops = s.stops := rfl
@[simp] theorem setLeg_axstop : (s.setLeg l x).axstop = s.axstop := rfl
@[simp] theorem setLeg_sto : (s.setLeg l x).sto = s.sto := rfl
@[simp] theorem setLeg_supp : (s.setLeg l x).supp = s.supp := rfl
@[simp] theorem setLeg_axReq : (s.setLeg l x).axReq = s.axReq := rfl
@[simp] theorem setLeg_diox : (s.setLeg l x).diox = s.diox := rfl
@[simp] theorem setLeg_fbx : (s.setLeg l x).fbx = s.fbx := rfl
@[simp] theorem setLeg_cmpx : (s.setLeg l x).cmpx = s.cmpx := rfl
@[simp] theorem setLeg_eox : (s.setLeg l x).eox = s.eox := rfl
@[simp] theorem setLeg_late : (s.setLeg l x).late = s.late := rfl
@[simp] theorem setLeg_evWait : (s.setLeg l x).evWait = s.evWait := rfl
@[simp] theorem setLeg_sdx : (s.setLeg l x).sdx = s.sdx := rfl
@[simp] theorem setLeg_ainx : (s.setLeg l x).ainx = s.ainx := rfl
@[simp] theorem setLeg_sarDue : (s.setLeg l x).sarDue = s.sarDue := rfl
@[simp] theorem setLeg_loopx : (s.setLeg l x).loopx = s.loopx := rfl
@[simp] theorem setLeg_axisx : (s.setLeg l x).axisx = s.axisx := rfl
@[simp] theorem setLeg_ffx : (s.setLeg l x).ffx = s.ffx := rfl
@[simp] theorem setLeg_canx : (s.setLeg l x).canx = s.canx := rfl
@[simp] theorem setLeg_canPaused : (s.setLeg l x).canPaused = s.canPaused := rfl
@[simp] theorem setLeg_urgDue : (s.setLeg l x).urgDue = s.urgDue := rfl
@[simp] theorem setLeg_partx : (s.setLeg l x).partx = s.partx := rfl
@[simp] theorem setLeg_tunes : (s.setLeg l x).tunes = s.tunes := rfl
@[simp] theorem setLeg_tracex : (s.setLeg l x).tracex = s.tracex := rfl
@[simp] theorem setLeg_trport : (s.setLeg l x).trport = s.trport := rfl
@[simp] theorem setLeg_evSeen : (s.setLeg l x).evSeen = s.evSeen := rfl
@[simp] theorem setLeg_regs : (s.setLeg l x).regs = s.regs := rfl
@[simp] theorem setLeg_free : (s.setLeg l x).free = s.free := rfl
@[simp] theorem setLeg_pending : (s.setLeg l x).pending = s.pending := rfl
end

/-! `setStg` -/

section
variable (i : Nat) (x : StageX)
@[simp] theorem setStg_objs : (s.setStg i x).objs = s.objs := rfl
@[simp] theorem setStg_rings : (s.setStg i x).rings = s.rings := rfl
@[simp] theorem setStg_tile : (s.setStg i x).tile = s.tile := rfl
@[simp] theorem setStg_badTags : (s.setStg i x).badTags = s.badTags := rfl
@[simp] theorem setStg_stores : (s.setStg i x).stores = s.stores := rfl
@[simp] theorem setStg_sram : (s.setStg i x).sram = s.sram := rfl
@[simp] theorem setStg_ports : (s.setStg i x).ports = s.ports := rfl
@[simp] theorem setStg_evPend : (s.setStg i x).evPend = s.evPend := rfl
@[simp] theorem setStg_routes : (s.setStg i x).routes = s.routes := rfl
@[simp] theorem setStg_hcfg : (s.setStg i x).hcfg = s.hcfg := rfl
@[simp] theorem setStg_alarms : (s.setStg i x).alarms = s.alarms := rfl
@[simp] theorem setStg_aseq : (s.setStg i x).aseq = s.aseq := rfl
@[simp] theorem setStg_sarOff : (s.setStg i x).sarOff = s.sarOff := rfl
@[simp] theorem setStg_sarGain : (s.setStg i x).sarGain = s.sarGain := rfl
@[simp] theorem setStg_newest : (s.setStg i x).newest = s.newest := rfl
@[simp] theorem setStg_dups : (s.setStg i x).dups = s.dups := rfl
@[simp] theorem setStg_served : (s.setStg i x).served = s.served := rfl
@[simp] theorem setStg_defers : (s.setStg i x).defers = s.defers := rfl
@[simp] theorem setStg_pset : (s.setStg i x).pset = s.pset := rfl
@[simp] theorem setStg_psetNo : (s.setStg i x).psetNo = s.psetNo := rfl
@[simp] theorem setStg_ledg : (s.setStg i x).ledg = s.ledg := rfl
@[simp] theorem setStg_telem : (s.setStg i x).telem = s.telem := rfl
@[simp] theorem setStg_tb : (s.setStg i x).tb = s.tb := rfl
@[simp] theorem setStg_up : (s.setStg i x).up = s.up := rfl
@[simp] theorem setStg_bk : (s.setStg i x).bk = s.bk := rfl
@[simp] theorem setStg_otp : (s.setStg i x).otp = s.otp := rfl
@[simp] theorem setStg_mram : (s.setStg i x).mram = s.mram := rfl
@[simp] theorem setStg_sec : (s.setStg i x).sec = s.sec := rfl
@[simp] theorem setStg_pow : (s.setStg i x).pow = s.pow := rfl
@[simp] theorem setStg_ex : (s.setStg i x).ex = s.ex := rfl
@[simp] theorem setStg_commitDue : (s.setStg i x).commitDue = s.commitDue := rfl
@[simp] theorem setStg_stale : (s.setStg i x).stale = s.stale := rfl
@[simp] theorem setStg_legs : (s.setStg i x).legs = s.legs := rfl
@[simp] theorem setStg_stages : (s.setStg i x).stages = s.stages.put {} i x := rfl
@[simp] theorem setStg_trips : (s.setStg i x).trips = s.trips := rfl
@[simp] theorem setStg_sdTrip : (s.setStg i x).sdTrip = s.sdTrip := rfl
@[simp] theorem setStg_links : (s.setStg i x).links = s.links := rfl
@[simp] theorem setStg_slotx : (s.setStg i x).slotx = s.slotx := rfl
@[simp] theorem setStg_cellc : (s.setStg i x).cellc = s.cellc := rfl
@[simp] theorem setStg_fixedPt : (s.setStg i x).fixedPt = s.fixedPt := rfl
@[simp] theorem setStg_convx : (s.setStg i x).convx = s.convx := rfl
@[simp] theorem setStg_armx : (s.setStg i x).armx = s.armx := rfl
@[simp] theorem setStg_cellx : (s.setStg i x).cellx = s.cellx := rfl
@[simp] theorem setStg_machx : (s.setStg i x).machx = s.machx := rfl
@[simp] theorem setStg_dioOut : (s.setStg i x).dioOut = s.dioOut := rfl
@[simp] theorem setStg_stops : (s.setStg i x).stops = s.stops := rfl
@[simp] theorem setStg_axstop : (s.setStg i x).axstop = s.axstop := rfl
@[simp] theorem setStg_sto : (s.setStg i x).sto = s.sto := rfl
@[simp] theorem setStg_supp : (s.setStg i x).supp = s.supp := rfl
@[simp] theorem setStg_axReq : (s.setStg i x).axReq = s.axReq := rfl
@[simp] theorem setStg_diox : (s.setStg i x).diox = s.diox := rfl
@[simp] theorem setStg_fbx : (s.setStg i x).fbx = s.fbx := rfl
@[simp] theorem setStg_cmpx : (s.setStg i x).cmpx = s.cmpx := rfl
@[simp] theorem setStg_eox : (s.setStg i x).eox = s.eox := rfl
@[simp] theorem setStg_late : (s.setStg i x).late = s.late := rfl
@[simp] theorem setStg_evWait : (s.setStg i x).evWait = s.evWait := rfl
@[simp] theorem setStg_sdx : (s.setStg i x).sdx = s.sdx := rfl
@[simp] theorem setStg_ainx : (s.setStg i x).ainx = s.ainx := rfl
@[simp] theorem setStg_sarDue : (s.setStg i x).sarDue = s.sarDue := rfl
@[simp] theorem setStg_loopx : (s.setStg i x).loopx = s.loopx := rfl
@[simp] theorem setStg_axisx : (s.setStg i x).axisx = s.axisx := rfl
@[simp] theorem setStg_ffx : (s.setStg i x).ffx = s.ffx := rfl
@[simp] theorem setStg_canx : (s.setStg i x).canx = s.canx := rfl
@[simp] theorem setStg_canPaused : (s.setStg i x).canPaused = s.canPaused := rfl
@[simp] theorem setStg_urgDue : (s.setStg i x).urgDue = s.urgDue := rfl
@[simp] theorem setStg_partx : (s.setStg i x).partx = s.partx := rfl
@[simp] theorem setStg_tunes : (s.setStg i x).tunes = s.tunes := rfl
@[simp] theorem setStg_tracex : (s.setStg i x).tracex = s.tracex := rfl
@[simp] theorem setStg_trport : (s.setStg i x).trport = s.trport := rfl
@[simp] theorem setStg_evSeen : (s.setStg i x).evSeen = s.evSeen := rfl
@[simp] theorem setStg_regs : (s.setStg i x).regs = s.regs := rfl
@[simp] theorem setStg_free : (s.setStg i x).free = s.free := rfl
@[simp] theorem setStg_pending : (s.setStg i x).pending = s.pending := rfl
end

/-! `atOff` -/

section
variable (o : Nat)
@[simp] theorem atOff_objs : (s.atOff o).objs = s.objs := rfl
@[simp] theorem atOff_rings : (s.atOff o).rings = s.rings := rfl
@[simp] theorem atOff_tile : (s.atOff o).tile = s.tile := rfl
@[simp] theorem atOff_badTags : (s.atOff o).badTags = s.badTags := rfl
@[simp] theorem atOff_stores : (s.atOff o).stores = s.stores := rfl
@[simp] theorem atOff_sram : (s.atOff o).sram = s.sram := rfl
@[simp] theorem atOff_ports : (s.atOff o).ports = s.ports := rfl
@[simp] theorem atOff_evPend : (s.atOff o).evPend = s.evPend := rfl
@[simp] theorem atOff_routes : (s.atOff o).routes = s.routes := rfl
@[simp] theorem atOff_hcfg : (s.atOff o).hcfg = s.hcfg := rfl
@[simp] theorem atOff_alarms : (s.atOff o).alarms = s.alarms := rfl
@[simp] theorem atOff_aseq : (s.atOff o).aseq = s.aseq := rfl
@[simp] theorem atOff_sarOff : (s.atOff o).sarOff = s.sarOff := rfl
@[simp] theorem atOff_sarGain : (s.atOff o).sarGain = s.sarGain := rfl
@[simp] theorem atOff_newest : (s.atOff o).newest = s.newest := rfl
@[simp] theorem atOff_dups : (s.atOff o).dups = s.dups := rfl
@[simp] theorem atOff_served : (s.atOff o).served = s.served := rfl
@[simp] theorem atOff_defers : (s.atOff o).defers = s.defers := rfl
@[simp] theorem atOff_pset : (s.atOff o).pset = s.pset := rfl
@[simp] theorem atOff_psetNo : (s.atOff o).psetNo = s.psetNo := rfl
@[simp] theorem atOff_ledg : (s.atOff o).ledg = s.ledg := rfl
@[simp] theorem atOff_telem : (s.atOff o).telem = s.telem := rfl
@[simp] theorem atOff_tb : (s.atOff o).tb = { s.tb with off := max s.tb.off o } := rfl
@[simp] theorem atOff_up : (s.atOff o).up = s.up := rfl
@[simp] theorem atOff_bk : (s.atOff o).bk = s.bk := rfl
@[simp] theorem atOff_otp : (s.atOff o).otp = s.otp := rfl
@[simp] theorem atOff_mram : (s.atOff o).mram = s.mram := rfl
@[simp] theorem atOff_sec : (s.atOff o).sec = s.sec := rfl
@[simp] theorem atOff_pow : (s.atOff o).pow = s.pow := rfl
@[simp] theorem atOff_ex : (s.atOff o).ex = s.ex := rfl
@[simp] theorem atOff_commitDue : (s.atOff o).commitDue = s.commitDue := rfl
@[simp] theorem atOff_stale : (s.atOff o).stale = s.stale := rfl
@[simp] theorem atOff_legs : (s.atOff o).legs = s.legs := rfl
@[simp] theorem atOff_stages : (s.atOff o).stages = s.stages := rfl
@[simp] theorem atOff_trips : (s.atOff o).trips = s.trips := rfl
@[simp] theorem atOff_sdTrip : (s.atOff o).sdTrip = s.sdTrip := rfl
@[simp] theorem atOff_links : (s.atOff o).links = s.links := rfl
@[simp] theorem atOff_slotx : (s.atOff o).slotx = s.slotx := rfl
@[simp] theorem atOff_cellc : (s.atOff o).cellc = s.cellc := rfl
@[simp] theorem atOff_fixedPt : (s.atOff o).fixedPt = s.fixedPt := rfl
@[simp] theorem atOff_convx : (s.atOff o).convx = s.convx := rfl
@[simp] theorem atOff_armx : (s.atOff o).armx = s.armx := rfl
@[simp] theorem atOff_cellx : (s.atOff o).cellx = s.cellx := rfl
@[simp] theorem atOff_machx : (s.atOff o).machx = s.machx := rfl
@[simp] theorem atOff_dioOut : (s.atOff o).dioOut = s.dioOut := rfl
@[simp] theorem atOff_stops : (s.atOff o).stops = s.stops := rfl
@[simp] theorem atOff_axstop : (s.atOff o).axstop = s.axstop := rfl
@[simp] theorem atOff_sto : (s.atOff o).sto = s.sto := rfl
@[simp] theorem atOff_supp : (s.atOff o).supp = s.supp := rfl
@[simp] theorem atOff_axReq : (s.atOff o).axReq = s.axReq := rfl
@[simp] theorem atOff_diox : (s.atOff o).diox = s.diox := rfl
@[simp] theorem atOff_fbx : (s.atOff o).fbx = s.fbx := rfl
@[simp] theorem atOff_cmpx : (s.atOff o).cmpx = s.cmpx := rfl
@[simp] theorem atOff_eox : (s.atOff o).eox = s.eox := rfl
@[simp] theorem atOff_late : (s.atOff o).late = s.late := rfl
@[simp] theorem atOff_evWait : (s.atOff o).evWait = s.evWait := rfl
@[simp] theorem atOff_sdx : (s.atOff o).sdx = s.sdx := rfl
@[simp] theorem atOff_ainx : (s.atOff o).ainx = s.ainx := rfl
@[simp] theorem atOff_sarDue : (s.atOff o).sarDue = s.sarDue := rfl
@[simp] theorem atOff_loopx : (s.atOff o).loopx = s.loopx := rfl
@[simp] theorem atOff_axisx : (s.atOff o).axisx = s.axisx := rfl
@[simp] theorem atOff_ffx : (s.atOff o).ffx = s.ffx := rfl
@[simp] theorem atOff_canx : (s.atOff o).canx = s.canx := rfl
@[simp] theorem atOff_canPaused : (s.atOff o).canPaused = s.canPaused := rfl
@[simp] theorem atOff_urgDue : (s.atOff o).urgDue = s.urgDue := rfl
@[simp] theorem atOff_partx : (s.atOff o).partx = s.partx := rfl
@[simp] theorem atOff_tunes : (s.atOff o).tunes = s.tunes := rfl
@[simp] theorem atOff_tracex : (s.atOff o).tracex = s.tracex := rfl
@[simp] theorem atOff_trport : (s.atOff o).trport = s.trport := rfl
@[simp] theorem atOff_evSeen : (s.atOff o).evSeen = s.evSeen := rfl
@[simp] theorem atOff_regs : (s.atOff o).regs = s.regs := rfl
@[simp] theorem atOff_free : (s.atOff o).free = s.free := rfl
@[simp] theorem atOff_pending : (s.atOff o).pending = s.pending := rfl
end

/-! `setTrip` -/

section
variable (n : Nat) (x : TripIn)
@[simp] theorem setTrip_objs : (s.setTrip n x).objs = s.objs := rfl
@[simp] theorem setTrip_rings : (s.setTrip n x).rings = s.rings := rfl
@[simp] theorem setTrip_tile : (s.setTrip n x).tile = s.tile := rfl
@[simp] theorem setTrip_badTags : (s.setTrip n x).badTags = s.badTags := rfl
@[simp] theorem setTrip_stores : (s.setTrip n x).stores = s.stores := rfl
@[simp] theorem setTrip_sram : (s.setTrip n x).sram = s.sram := rfl
@[simp] theorem setTrip_ports : (s.setTrip n x).ports = s.ports := rfl
@[simp] theorem setTrip_evPend : (s.setTrip n x).evPend = s.evPend := rfl
@[simp] theorem setTrip_routes : (s.setTrip n x).routes = s.routes := rfl
@[simp] theorem setTrip_hcfg : (s.setTrip n x).hcfg = s.hcfg := rfl
@[simp] theorem setTrip_alarms : (s.setTrip n x).alarms = s.alarms := rfl
@[simp] theorem setTrip_aseq : (s.setTrip n x).aseq = s.aseq := rfl
@[simp] theorem setTrip_sarOff : (s.setTrip n x).sarOff = s.sarOff := rfl
@[simp] theorem setTrip_sarGain : (s.setTrip n x).sarGain = s.sarGain := rfl
@[simp] theorem setTrip_newest : (s.setTrip n x).newest = s.newest := rfl
@[simp] theorem setTrip_dups : (s.setTrip n x).dups = s.dups := rfl
@[simp] theorem setTrip_served : (s.setTrip n x).served = s.served := rfl
@[simp] theorem setTrip_defers : (s.setTrip n x).defers = s.defers := rfl
@[simp] theorem setTrip_pset : (s.setTrip n x).pset = s.pset := rfl
@[simp] theorem setTrip_psetNo : (s.setTrip n x).psetNo = s.psetNo := rfl
@[simp] theorem setTrip_ledg : (s.setTrip n x).ledg = s.ledg := rfl
@[simp] theorem setTrip_telem : (s.setTrip n x).telem = s.telem := rfl
@[simp] theorem setTrip_tb : (s.setTrip n x).tb = s.tb := rfl
@[simp] theorem setTrip_up : (s.setTrip n x).up = s.up := rfl
@[simp] theorem setTrip_bk : (s.setTrip n x).bk = s.bk := rfl
@[simp] theorem setTrip_otp : (s.setTrip n x).otp = s.otp := rfl
@[simp] theorem setTrip_mram : (s.setTrip n x).mram = s.mram := rfl
@[simp] theorem setTrip_sec : (s.setTrip n x).sec = s.sec := rfl
@[simp] theorem setTrip_pow : (s.setTrip n x).pow = s.pow := rfl
@[simp] theorem setTrip_ex : (s.setTrip n x).ex = s.ex := rfl
@[simp] theorem setTrip_commitDue : (s.setTrip n x).commitDue = s.commitDue := rfl
@[simp] theorem setTrip_stale : (s.setTrip n x).stale = s.stale := rfl
@[simp] theorem setTrip_legs : (s.setTrip n x).legs = s.legs := rfl
@[simp] theorem setTrip_stages : (s.setTrip n x).stages = s.stages := rfl
@[simp] theorem setTrip_trips : (s.setTrip n x).trips = s.trips.put {} n x := rfl
@[simp] theorem setTrip_sdTrip : (s.setTrip n x).sdTrip = s.sdTrip := rfl
@[simp] theorem setTrip_links : (s.setTrip n x).links = s.links := rfl
@[simp] theorem setTrip_slotx : (s.setTrip n x).slotx = s.slotx := rfl
@[simp] theorem setTrip_cellc : (s.setTrip n x).cellc = s.cellc := rfl
@[simp] theorem setTrip_fixedPt : (s.setTrip n x).fixedPt = s.fixedPt := rfl
@[simp] theorem setTrip_convx : (s.setTrip n x).convx = s.convx := rfl
@[simp] theorem setTrip_armx : (s.setTrip n x).armx = s.armx := rfl
@[simp] theorem setTrip_cellx : (s.setTrip n x).cellx = s.cellx := rfl
@[simp] theorem setTrip_machx : (s.setTrip n x).machx = s.machx := rfl
@[simp] theorem setTrip_dioOut : (s.setTrip n x).dioOut = s.dioOut := rfl
@[simp] theorem setTrip_stops : (s.setTrip n x).stops = s.stops := rfl
@[simp] theorem setTrip_axstop : (s.setTrip n x).axstop = s.axstop := rfl
@[simp] theorem setTrip_sto : (s.setTrip n x).sto = s.sto := rfl
@[simp] theorem setTrip_supp : (s.setTrip n x).supp = s.supp := rfl
@[simp] theorem setTrip_axReq : (s.setTrip n x).axReq = s.axReq := rfl
@[simp] theorem setTrip_diox : (s.setTrip n x).diox = s.diox := rfl
@[simp] theorem setTrip_fbx : (s.setTrip n x).fbx = s.fbx := rfl
@[simp] theorem setTrip_cmpx : (s.setTrip n x).cmpx = s.cmpx := rfl
@[simp] theorem setTrip_eox : (s.setTrip n x).eox = s.eox := rfl
@[simp] theorem setTrip_late : (s.setTrip n x).late = s.late := rfl
@[simp] theorem setTrip_evWait : (s.setTrip n x).evWait = s.evWait := rfl
@[simp] theorem setTrip_sdx : (s.setTrip n x).sdx = s.sdx := rfl
@[simp] theorem setTrip_ainx : (s.setTrip n x).ainx = s.ainx := rfl
@[simp] theorem setTrip_sarDue : (s.setTrip n x).sarDue = s.sarDue := rfl
@[simp] theorem setTrip_loopx : (s.setTrip n x).loopx = s.loopx := rfl
@[simp] theorem setTrip_axisx : (s.setTrip n x).axisx = s.axisx := rfl
@[simp] theorem setTrip_ffx : (s.setTrip n x).ffx = s.ffx := rfl
@[simp] theorem setTrip_canx : (s.setTrip n x).canx = s.canx := rfl
@[simp] theorem setTrip_canPaused : (s.setTrip n x).canPaused = s.canPaused := rfl
@[simp] theorem setTrip_urgDue : (s.setTrip n x).urgDue = s.urgDue := rfl
@[simp] theorem setTrip_partx : (s.setTrip n x).partx = s.partx := rfl
@[simp] theorem setTrip_tunes : (s.setTrip n x).tunes = s.tunes := rfl
@[simp] theorem setTrip_tracex : (s.setTrip n x).tracex = s.tracex := rfl
@[simp] theorem setTrip_trport : (s.setTrip n x).trport = s.trport := rfl
@[simp] theorem setTrip_evSeen : (s.setTrip n x).evSeen = s.evSeen := rfl
@[simp] theorem setTrip_regs : (s.setTrip n x).regs = s.regs := rfl
@[simp] theorem setTrip_free : (s.setTrip n x).free = s.free := rfl
@[simp] theorem setTrip_pending : (s.setTrip n x).pending = s.pending := rfl
end

/-! `setPort` -/

section
variable (p : Nat) (x : Port)
@[simp] theorem setPort_objs : (s.setPort p x).objs = s.objs := rfl
@[simp] theorem setPort_rings : (s.setPort p x).rings = s.rings := rfl
@[simp] theorem setPort_tile : (s.setPort p x).tile = s.tile := rfl
@[simp] theorem setPort_badTags : (s.setPort p x).badTags = s.badTags := rfl
@[simp] theorem setPort_stores : (s.setPort p x).stores = s.stores := rfl
@[simp] theorem setPort_sram : (s.setPort p x).sram = s.sram := rfl
@[simp] theorem setPort_ports : (s.setPort p x).ports = s.ports.put {} p x := rfl
@[simp] theorem setPort_evPend : (s.setPort p x).evPend = s.evPend := rfl
@[simp] theorem setPort_routes : (s.setPort p x).routes = s.routes := rfl
@[simp] theorem setPort_hcfg : (s.setPort p x).hcfg = s.hcfg := rfl
@[simp] theorem setPort_alarms : (s.setPort p x).alarms = s.alarms := rfl
@[simp] theorem setPort_aseq : (s.setPort p x).aseq = s.aseq := rfl
@[simp] theorem setPort_sarOff : (s.setPort p x).sarOff = s.sarOff := rfl
@[simp] theorem setPort_sarGain : (s.setPort p x).sarGain = s.sarGain := rfl
@[simp] theorem setPort_newest : (s.setPort p x).newest = s.newest := rfl
@[simp] theorem setPort_dups : (s.setPort p x).dups = s.dups := rfl
@[simp] theorem setPort_served : (s.setPort p x).served = s.served := rfl
@[simp] theorem setPort_defers : (s.setPort p x).defers = s.defers := rfl
@[simp] theorem setPort_pset : (s.setPort p x).pset = s.pset := rfl
@[simp] theorem setPort_psetNo : (s.setPort p x).psetNo = s.psetNo := rfl
@[simp] theorem setPort_ledg : (s.setPort p x).ledg = s.ledg := rfl
@[simp] theorem setPort_telem : (s.setPort p x).telem = s.telem := rfl
@[simp] theorem setPort_tb : (s.setPort p x).tb = s.tb := rfl
@[simp] theorem setPort_up : (s.setPort p x).up = s.up := rfl
@[simp] theorem setPort_bk : (s.setPort p x).bk = s.bk := rfl
@[simp] theorem setPort_otp : (s.setPort p x).otp = s.otp := rfl
@[simp] theorem setPort_mram : (s.setPort p x).mram = s.mram := rfl
@[simp] theorem setPort_sec : (s.setPort p x).sec = s.sec := rfl
@[simp] theorem setPort_pow : (s.setPort p x).pow = s.pow := rfl
@[simp] theorem setPort_ex : (s.setPort p x).ex = s.ex := rfl
@[simp] theorem setPort_commitDue : (s.setPort p x).commitDue = s.commitDue := rfl
@[simp] theorem setPort_stale : (s.setPort p x).stale = s.stale := rfl
@[simp] theorem setPort_legs : (s.setPort p x).legs = s.legs := rfl
@[simp] theorem setPort_stages : (s.setPort p x).stages = s.stages := rfl
@[simp] theorem setPort_trips : (s.setPort p x).trips = s.trips := rfl
@[simp] theorem setPort_sdTrip : (s.setPort p x).sdTrip = s.sdTrip := rfl
@[simp] theorem setPort_links : (s.setPort p x).links = s.links := rfl
@[simp] theorem setPort_slotx : (s.setPort p x).slotx = s.slotx := rfl
@[simp] theorem setPort_cellc : (s.setPort p x).cellc = s.cellc := rfl
@[simp] theorem setPort_fixedPt : (s.setPort p x).fixedPt = s.fixedPt := rfl
@[simp] theorem setPort_convx : (s.setPort p x).convx = s.convx := rfl
@[simp] theorem setPort_armx : (s.setPort p x).armx = s.armx := rfl
@[simp] theorem setPort_cellx : (s.setPort p x).cellx = s.cellx := rfl
@[simp] theorem setPort_machx : (s.setPort p x).machx = s.machx := rfl
@[simp] theorem setPort_dioOut : (s.setPort p x).dioOut = s.dioOut := rfl
@[simp] theorem setPort_stops : (s.setPort p x).stops = s.stops := rfl
@[simp] theorem setPort_axstop : (s.setPort p x).axstop = s.axstop := rfl
@[simp] theorem setPort_sto : (s.setPort p x).sto = s.sto := rfl
@[simp] theorem setPort_supp : (s.setPort p x).supp = s.supp := rfl
@[simp] theorem setPort_axReq : (s.setPort p x).axReq = s.axReq := rfl
@[simp] theorem setPort_diox : (s.setPort p x).diox = s.diox := rfl
@[simp] theorem setPort_fbx : (s.setPort p x).fbx = s.fbx := rfl
@[simp] theorem setPort_cmpx : (s.setPort p x).cmpx = s.cmpx := rfl
@[simp] theorem setPort_eox : (s.setPort p x).eox = s.eox := rfl
@[simp] theorem setPort_late : (s.setPort p x).late = s.late := rfl
@[simp] theorem setPort_evWait : (s.setPort p x).evWait = s.evWait := rfl
@[simp] theorem setPort_sdx : (s.setPort p x).sdx = s.sdx := rfl
@[simp] theorem setPort_ainx : (s.setPort p x).ainx = s.ainx := rfl
@[simp] theorem setPort_sarDue : (s.setPort p x).sarDue = s.sarDue := rfl
@[simp] theorem setPort_loopx : (s.setPort p x).loopx = s.loopx := rfl
@[simp] theorem setPort_axisx : (s.setPort p x).axisx = s.axisx := rfl
@[simp] theorem setPort_ffx : (s.setPort p x).ffx = s.ffx := rfl
@[simp] theorem setPort_canx : (s.setPort p x).canx = s.canx := rfl
@[simp] theorem setPort_canPaused : (s.setPort p x).canPaused = s.canPaused := rfl
@[simp] theorem setPort_urgDue : (s.setPort p x).urgDue = s.urgDue := rfl
@[simp] theorem setPort_partx : (s.setPort p x).partx = s.partx := rfl
@[simp] theorem setPort_tunes : (s.setPort p x).tunes = s.tunes := rfl
@[simp] theorem setPort_tracex : (s.setPort p x).tracex = s.tracex := rfl
@[simp] theorem setPort_trport : (s.setPort p x).trport = s.trport := rfl
@[simp] theorem setPort_evSeen : (s.setPort p x).evSeen = s.evSeen := rfl
@[simp] theorem setPort_regs : (s.setPort p x).regs = s.regs := rfl
@[simp] theorem setPort_free : (s.setPort p x).free = s.free := rfl
@[simp] theorem setPort_pending : (s.setPort p x).pending = s.pending := rfl
end

/-! `setDioX` -/

section
variable (n : Nat) (x : DioX)
@[simp] theorem setDioX_objs : (s.setDioX n x).objs = s.objs := rfl
@[simp] theorem setDioX_rings : (s.setDioX n x).rings = s.rings := rfl
@[simp] theorem setDioX_tile : (s.setDioX n x).tile = s.tile := rfl
@[simp] theorem setDioX_badTags : (s.setDioX n x).badTags = s.badTags := rfl
@[simp] theorem setDioX_stores : (s.setDioX n x).stores = s.stores := rfl
@[simp] theorem setDioX_sram : (s.setDioX n x).sram = s.sram := rfl
@[simp] theorem setDioX_ports : (s.setDioX n x).ports = s.ports := rfl
@[simp] theorem setDioX_evPend : (s.setDioX n x).evPend = s.evPend := rfl
@[simp] theorem setDioX_routes : (s.setDioX n x).routes = s.routes := rfl
@[simp] theorem setDioX_hcfg : (s.setDioX n x).hcfg = s.hcfg := rfl
@[simp] theorem setDioX_alarms : (s.setDioX n x).alarms = s.alarms := rfl
@[simp] theorem setDioX_aseq : (s.setDioX n x).aseq = s.aseq := rfl
@[simp] theorem setDioX_sarOff : (s.setDioX n x).sarOff = s.sarOff := rfl
@[simp] theorem setDioX_sarGain : (s.setDioX n x).sarGain = s.sarGain := rfl
@[simp] theorem setDioX_newest : (s.setDioX n x).newest = s.newest := rfl
@[simp] theorem setDioX_dups : (s.setDioX n x).dups = s.dups := rfl
@[simp] theorem setDioX_served : (s.setDioX n x).served = s.served := rfl
@[simp] theorem setDioX_defers : (s.setDioX n x).defers = s.defers := rfl
@[simp] theorem setDioX_pset : (s.setDioX n x).pset = s.pset := rfl
@[simp] theorem setDioX_psetNo : (s.setDioX n x).psetNo = s.psetNo := rfl
@[simp] theorem setDioX_ledg : (s.setDioX n x).ledg = s.ledg := rfl
@[simp] theorem setDioX_telem : (s.setDioX n x).telem = s.telem := rfl
@[simp] theorem setDioX_tb : (s.setDioX n x).tb = s.tb := rfl
@[simp] theorem setDioX_up : (s.setDioX n x).up = s.up := rfl
@[simp] theorem setDioX_bk : (s.setDioX n x).bk = s.bk := rfl
@[simp] theorem setDioX_otp : (s.setDioX n x).otp = s.otp := rfl
@[simp] theorem setDioX_mram : (s.setDioX n x).mram = s.mram := rfl
@[simp] theorem setDioX_sec : (s.setDioX n x).sec = s.sec := rfl
@[simp] theorem setDioX_pow : (s.setDioX n x).pow = s.pow := rfl
@[simp] theorem setDioX_ex : (s.setDioX n x).ex = s.ex := rfl
@[simp] theorem setDioX_commitDue : (s.setDioX n x).commitDue = s.commitDue := rfl
@[simp] theorem setDioX_stale : (s.setDioX n x).stale = s.stale := rfl
@[simp] theorem setDioX_legs : (s.setDioX n x).legs = s.legs := rfl
@[simp] theorem setDioX_stages : (s.setDioX n x).stages = s.stages := rfl
@[simp] theorem setDioX_trips : (s.setDioX n x).trips = s.trips := rfl
@[simp] theorem setDioX_sdTrip : (s.setDioX n x).sdTrip = s.sdTrip := rfl
@[simp] theorem setDioX_links : (s.setDioX n x).links = s.links := rfl
@[simp] theorem setDioX_slotx : (s.setDioX n x).slotx = s.slotx := rfl
@[simp] theorem setDioX_cellc : (s.setDioX n x).cellc = s.cellc := rfl
@[simp] theorem setDioX_fixedPt : (s.setDioX n x).fixedPt = s.fixedPt := rfl
@[simp] theorem setDioX_convx : (s.setDioX n x).convx = s.convx := rfl
@[simp] theorem setDioX_armx : (s.setDioX n x).armx = s.armx := rfl
@[simp] theorem setDioX_cellx : (s.setDioX n x).cellx = s.cellx := rfl
@[simp] theorem setDioX_machx : (s.setDioX n x).machx = s.machx := rfl
@[simp] theorem setDioX_dioOut : (s.setDioX n x).dioOut = s.dioOut := rfl
@[simp] theorem setDioX_stops : (s.setDioX n x).stops = s.stops := rfl
@[simp] theorem setDioX_axstop : (s.setDioX n x).axstop = s.axstop := rfl
@[simp] theorem setDioX_sto : (s.setDioX n x).sto = s.sto := rfl
@[simp] theorem setDioX_supp : (s.setDioX n x).supp = s.supp := rfl
@[simp] theorem setDioX_axReq : (s.setDioX n x).axReq = s.axReq := rfl
@[simp] theorem setDioX_diox : (s.setDioX n x).diox = s.diox.put {} n x := rfl
@[simp] theorem setDioX_fbx : (s.setDioX n x).fbx = s.fbx := rfl
@[simp] theorem setDioX_cmpx : (s.setDioX n x).cmpx = s.cmpx := rfl
@[simp] theorem setDioX_eox : (s.setDioX n x).eox = s.eox := rfl
@[simp] theorem setDioX_late : (s.setDioX n x).late = s.late := rfl
@[simp] theorem setDioX_evWait : (s.setDioX n x).evWait = s.evWait := rfl
@[simp] theorem setDioX_sdx : (s.setDioX n x).sdx = s.sdx := rfl
@[simp] theorem setDioX_ainx : (s.setDioX n x).ainx = s.ainx := rfl
@[simp] theorem setDioX_sarDue : (s.setDioX n x).sarDue = s.sarDue := rfl
@[simp] theorem setDioX_loopx : (s.setDioX n x).loopx = s.loopx := rfl
@[simp] theorem setDioX_axisx : (s.setDioX n x).axisx = s.axisx := rfl
@[simp] theorem setDioX_ffx : (s.setDioX n x).ffx = s.ffx := rfl
@[simp] theorem setDioX_canx : (s.setDioX n x).canx = s.canx := rfl
@[simp] theorem setDioX_canPaused : (s.setDioX n x).canPaused = s.canPaused := rfl
@[simp] theorem setDioX_urgDue : (s.setDioX n x).urgDue = s.urgDue := rfl
@[simp] theorem setDioX_partx : (s.setDioX n x).partx = s.partx := rfl
@[simp] theorem setDioX_tunes : (s.setDioX n x).tunes = s.tunes := rfl
@[simp] theorem setDioX_tracex : (s.setDioX n x).tracex = s.tracex := rfl
@[simp] theorem setDioX_trport : (s.setDioX n x).trport = s.trport := rfl
@[simp] theorem setDioX_evSeen : (s.setDioX n x).evSeen = s.evSeen := rfl
@[simp] theorem setDioX_regs : (s.setDioX n x).regs = s.regs := rfl
@[simp] theorem setDioX_free : (s.setDioX n x).free = s.free := rfl
@[simp] theorem setDioX_pending : (s.setDioX n x).pending = s.pending := rfl
end

/-! `setFbX` -/

section
variable (n : Nat) (x : FbX)
@[simp] theorem setFbX_objs : (s.setFbX n x).objs = s.objs := rfl
@[simp] theorem setFbX_rings : (s.setFbX n x).rings = s.rings := rfl
@[simp] theorem setFbX_tile : (s.setFbX n x).tile = s.tile := rfl
@[simp] theorem setFbX_badTags : (s.setFbX n x).badTags = s.badTags := rfl
@[simp] theorem setFbX_stores : (s.setFbX n x).stores = s.stores := rfl
@[simp] theorem setFbX_sram : (s.setFbX n x).sram = s.sram := rfl
@[simp] theorem setFbX_ports : (s.setFbX n x).ports = s.ports := rfl
@[simp] theorem setFbX_evPend : (s.setFbX n x).evPend = s.evPend := rfl
@[simp] theorem setFbX_routes : (s.setFbX n x).routes = s.routes := rfl
@[simp] theorem setFbX_hcfg : (s.setFbX n x).hcfg = s.hcfg := rfl
@[simp] theorem setFbX_alarms : (s.setFbX n x).alarms = s.alarms := rfl
@[simp] theorem setFbX_aseq : (s.setFbX n x).aseq = s.aseq := rfl
@[simp] theorem setFbX_sarOff : (s.setFbX n x).sarOff = s.sarOff := rfl
@[simp] theorem setFbX_sarGain : (s.setFbX n x).sarGain = s.sarGain := rfl
@[simp] theorem setFbX_newest : (s.setFbX n x).newest = s.newest := rfl
@[simp] theorem setFbX_dups : (s.setFbX n x).dups = s.dups := rfl
@[simp] theorem setFbX_served : (s.setFbX n x).served = s.served := rfl
@[simp] theorem setFbX_defers : (s.setFbX n x).defers = s.defers := rfl
@[simp] theorem setFbX_pset : (s.setFbX n x).pset = s.pset := rfl
@[simp] theorem setFbX_psetNo : (s.setFbX n x).psetNo = s.psetNo := rfl
@[simp] theorem setFbX_ledg : (s.setFbX n x).ledg = s.ledg := rfl
@[simp] theorem setFbX_telem : (s.setFbX n x).telem = s.telem := rfl
@[simp] theorem setFbX_tb : (s.setFbX n x).tb = s.tb := rfl
@[simp] theorem setFbX_up : (s.setFbX n x).up = s.up := rfl
@[simp] theorem setFbX_bk : (s.setFbX n x).bk = s.bk := rfl
@[simp] theorem setFbX_otp : (s.setFbX n x).otp = s.otp := rfl
@[simp] theorem setFbX_mram : (s.setFbX n x).mram = s.mram := rfl
@[simp] theorem setFbX_sec : (s.setFbX n x).sec = s.sec := rfl
@[simp] theorem setFbX_pow : (s.setFbX n x).pow = s.pow := rfl
@[simp] theorem setFbX_ex : (s.setFbX n x).ex = s.ex := rfl
@[simp] theorem setFbX_commitDue : (s.setFbX n x).commitDue = s.commitDue := rfl
@[simp] theorem setFbX_stale : (s.setFbX n x).stale = s.stale := rfl
@[simp] theorem setFbX_legs : (s.setFbX n x).legs = s.legs := rfl
@[simp] theorem setFbX_stages : (s.setFbX n x).stages = s.stages := rfl
@[simp] theorem setFbX_trips : (s.setFbX n x).trips = s.trips := rfl
@[simp] theorem setFbX_sdTrip : (s.setFbX n x).sdTrip = s.sdTrip := rfl
@[simp] theorem setFbX_links : (s.setFbX n x).links = s.links := rfl
@[simp] theorem setFbX_slotx : (s.setFbX n x).slotx = s.slotx := rfl
@[simp] theorem setFbX_cellc : (s.setFbX n x).cellc = s.cellc := rfl
@[simp] theorem setFbX_fixedPt : (s.setFbX n x).fixedPt = s.fixedPt := rfl
@[simp] theorem setFbX_convx : (s.setFbX n x).convx = s.convx := rfl
@[simp] theorem setFbX_armx : (s.setFbX n x).armx = s.armx := rfl
@[simp] theorem setFbX_cellx : (s.setFbX n x).cellx = s.cellx := rfl
@[simp] theorem setFbX_machx : (s.setFbX n x).machx = s.machx := rfl
@[simp] theorem setFbX_dioOut : (s.setFbX n x).dioOut = s.dioOut := rfl
@[simp] theorem setFbX_stops : (s.setFbX n x).stops = s.stops := rfl
@[simp] theorem setFbX_axstop : (s.setFbX n x).axstop = s.axstop := rfl
@[simp] theorem setFbX_sto : (s.setFbX n x).sto = s.sto := rfl
@[simp] theorem setFbX_supp : (s.setFbX n x).supp = s.supp := rfl
@[simp] theorem setFbX_axReq : (s.setFbX n x).axReq = s.axReq := rfl
@[simp] theorem setFbX_diox : (s.setFbX n x).diox = s.diox := rfl
@[simp] theorem setFbX_fbx : (s.setFbX n x).fbx = s.fbx.put {} n x := rfl
@[simp] theorem setFbX_cmpx : (s.setFbX n x).cmpx = s.cmpx := rfl
@[simp] theorem setFbX_eox : (s.setFbX n x).eox = s.eox := rfl
@[simp] theorem setFbX_late : (s.setFbX n x).late = s.late := rfl
@[simp] theorem setFbX_evWait : (s.setFbX n x).evWait = s.evWait := rfl
@[simp] theorem setFbX_sdx : (s.setFbX n x).sdx = s.sdx := rfl
@[simp] theorem setFbX_ainx : (s.setFbX n x).ainx = s.ainx := rfl
@[simp] theorem setFbX_sarDue : (s.setFbX n x).sarDue = s.sarDue := rfl
@[simp] theorem setFbX_loopx : (s.setFbX n x).loopx = s.loopx := rfl
@[simp] theorem setFbX_axisx : (s.setFbX n x).axisx = s.axisx := rfl
@[simp] theorem setFbX_ffx : (s.setFbX n x).ffx = s.ffx := rfl
@[simp] theorem setFbX_canx : (s.setFbX n x).canx = s.canx := rfl
@[simp] theorem setFbX_canPaused : (s.setFbX n x).canPaused = s.canPaused := rfl
@[simp] theorem setFbX_urgDue : (s.setFbX n x).urgDue = s.urgDue := rfl
@[simp] theorem setFbX_partx : (s.setFbX n x).partx = s.partx := rfl
@[simp] theorem setFbX_tunes : (s.setFbX n x).tunes = s.tunes := rfl
@[simp] theorem setFbX_tracex : (s.setFbX n x).tracex = s.tracex := rfl
@[simp] theorem setFbX_trport : (s.setFbX n x).trport = s.trport := rfl
@[simp] theorem setFbX_evSeen : (s.setFbX n x).evSeen = s.evSeen := rfl
@[simp] theorem setFbX_regs : (s.setFbX n x).regs = s.regs := rfl
@[simp] theorem setFbX_free : (s.setFbX n x).free = s.free := rfl
@[simp] theorem setFbX_pending : (s.setFbX n x).pending = s.pending := rfl
end

/-! `setCmpX` -/

section
variable (c : Nat) (x : CmpX)
@[simp] theorem setCmpX_objs : (s.setCmpX c x).objs = s.objs := rfl
@[simp] theorem setCmpX_rings : (s.setCmpX c x).rings = s.rings := rfl
@[simp] theorem setCmpX_tile : (s.setCmpX c x).tile = s.tile := rfl
@[simp] theorem setCmpX_badTags : (s.setCmpX c x).badTags = s.badTags := rfl
@[simp] theorem setCmpX_stores : (s.setCmpX c x).stores = s.stores := rfl
@[simp] theorem setCmpX_sram : (s.setCmpX c x).sram = s.sram := rfl
@[simp] theorem setCmpX_ports : (s.setCmpX c x).ports = s.ports := rfl
@[simp] theorem setCmpX_evPend : (s.setCmpX c x).evPend = s.evPend := rfl
@[simp] theorem setCmpX_routes : (s.setCmpX c x).routes = s.routes := rfl
@[simp] theorem setCmpX_hcfg : (s.setCmpX c x).hcfg = s.hcfg := rfl
@[simp] theorem setCmpX_alarms : (s.setCmpX c x).alarms = s.alarms := rfl
@[simp] theorem setCmpX_aseq : (s.setCmpX c x).aseq = s.aseq := rfl
@[simp] theorem setCmpX_sarOff : (s.setCmpX c x).sarOff = s.sarOff := rfl
@[simp] theorem setCmpX_sarGain : (s.setCmpX c x).sarGain = s.sarGain := rfl
@[simp] theorem setCmpX_newest : (s.setCmpX c x).newest = s.newest := rfl
@[simp] theorem setCmpX_dups : (s.setCmpX c x).dups = s.dups := rfl
@[simp] theorem setCmpX_served : (s.setCmpX c x).served = s.served := rfl
@[simp] theorem setCmpX_defers : (s.setCmpX c x).defers = s.defers := rfl
@[simp] theorem setCmpX_pset : (s.setCmpX c x).pset = s.pset := rfl
@[simp] theorem setCmpX_psetNo : (s.setCmpX c x).psetNo = s.psetNo := rfl
@[simp] theorem setCmpX_ledg : (s.setCmpX c x).ledg = s.ledg := rfl
@[simp] theorem setCmpX_telem : (s.setCmpX c x).telem = s.telem := rfl
@[simp] theorem setCmpX_tb : (s.setCmpX c x).tb = s.tb := rfl
@[simp] theorem setCmpX_up : (s.setCmpX c x).up = s.up := rfl
@[simp] theorem setCmpX_bk : (s.setCmpX c x).bk = s.bk := rfl
@[simp] theorem setCmpX_otp : (s.setCmpX c x).otp = s.otp := rfl
@[simp] theorem setCmpX_mram : (s.setCmpX c x).mram = s.mram := rfl
@[simp] theorem setCmpX_sec : (s.setCmpX c x).sec = s.sec := rfl
@[simp] theorem setCmpX_pow : (s.setCmpX c x).pow = s.pow := rfl
@[simp] theorem setCmpX_ex : (s.setCmpX c x).ex = s.ex := rfl
@[simp] theorem setCmpX_commitDue : (s.setCmpX c x).commitDue = s.commitDue := rfl
@[simp] theorem setCmpX_stale : (s.setCmpX c x).stale = s.stale := rfl
@[simp] theorem setCmpX_legs : (s.setCmpX c x).legs = s.legs := rfl
@[simp] theorem setCmpX_stages : (s.setCmpX c x).stages = s.stages := rfl
@[simp] theorem setCmpX_trips : (s.setCmpX c x).trips = s.trips := rfl
@[simp] theorem setCmpX_sdTrip : (s.setCmpX c x).sdTrip = s.sdTrip := rfl
@[simp] theorem setCmpX_links : (s.setCmpX c x).links = s.links := rfl
@[simp] theorem setCmpX_slotx : (s.setCmpX c x).slotx = s.slotx := rfl
@[simp] theorem setCmpX_cellc : (s.setCmpX c x).cellc = s.cellc := rfl
@[simp] theorem setCmpX_fixedPt : (s.setCmpX c x).fixedPt = s.fixedPt := rfl
@[simp] theorem setCmpX_convx : (s.setCmpX c x).convx = s.convx := rfl
@[simp] theorem setCmpX_armx : (s.setCmpX c x).armx = s.armx := rfl
@[simp] theorem setCmpX_cellx : (s.setCmpX c x).cellx = s.cellx := rfl
@[simp] theorem setCmpX_machx : (s.setCmpX c x).machx = s.machx := rfl
@[simp] theorem setCmpX_dioOut : (s.setCmpX c x).dioOut = s.dioOut := rfl
@[simp] theorem setCmpX_stops : (s.setCmpX c x).stops = s.stops := rfl
@[simp] theorem setCmpX_axstop : (s.setCmpX c x).axstop = s.axstop := rfl
@[simp] theorem setCmpX_sto : (s.setCmpX c x).sto = s.sto := rfl
@[simp] theorem setCmpX_supp : (s.setCmpX c x).supp = s.supp := rfl
@[simp] theorem setCmpX_axReq : (s.setCmpX c x).axReq = s.axReq := rfl
@[simp] theorem setCmpX_diox : (s.setCmpX c x).diox = s.diox := rfl
@[simp] theorem setCmpX_fbx : (s.setCmpX c x).fbx = s.fbx := rfl
@[simp] theorem setCmpX_cmpx : (s.setCmpX c x).cmpx = s.cmpx.put {} c x := rfl
@[simp] theorem setCmpX_eox : (s.setCmpX c x).eox = s.eox := rfl
@[simp] theorem setCmpX_late : (s.setCmpX c x).late = s.late := rfl
@[simp] theorem setCmpX_evWait : (s.setCmpX c x).evWait = s.evWait := rfl
@[simp] theorem setCmpX_sdx : (s.setCmpX c x).sdx = s.sdx := rfl
@[simp] theorem setCmpX_ainx : (s.setCmpX c x).ainx = s.ainx := rfl
@[simp] theorem setCmpX_sarDue : (s.setCmpX c x).sarDue = s.sarDue := rfl
@[simp] theorem setCmpX_loopx : (s.setCmpX c x).loopx = s.loopx := rfl
@[simp] theorem setCmpX_axisx : (s.setCmpX c x).axisx = s.axisx := rfl
@[simp] theorem setCmpX_ffx : (s.setCmpX c x).ffx = s.ffx := rfl
@[simp] theorem setCmpX_canx : (s.setCmpX c x).canx = s.canx := rfl
@[simp] theorem setCmpX_canPaused : (s.setCmpX c x).canPaused = s.canPaused := rfl
@[simp] theorem setCmpX_urgDue : (s.setCmpX c x).urgDue = s.urgDue := rfl
@[simp] theorem setCmpX_partx : (s.setCmpX c x).partx = s.partx := rfl
@[simp] theorem setCmpX_tunes : (s.setCmpX c x).tunes = s.tunes := rfl
@[simp] theorem setCmpX_tracex : (s.setCmpX c x).tracex = s.tracex := rfl
@[simp] theorem setCmpX_trport : (s.setCmpX c x).trport = s.trport := rfl
@[simp] theorem setCmpX_evSeen : (s.setCmpX c x).evSeen = s.evSeen := rfl
@[simp] theorem setCmpX_regs : (s.setCmpX c x).regs = s.regs := rfl
@[simp] theorem setCmpX_free : (s.setCmpX c x).free = s.free := rfl
@[simp] theorem setCmpX_pending : (s.setCmpX c x).pending = s.pending := rfl
end

/-! `setEoX` -/

section
variable (e : Nat) (x : EoX)
@[simp] theorem setEoX_objs : (s.setEoX e x).objs = s.objs := rfl
@[simp] theorem setEoX_rings : (s.setEoX e x).rings = s.rings := rfl
@[simp] theorem setEoX_tile : (s.setEoX e x).tile = s.tile := rfl
@[simp] theorem setEoX_badTags : (s.setEoX e x).badTags = s.badTags := rfl
@[simp] theorem setEoX_stores : (s.setEoX e x).stores = s.stores := rfl
@[simp] theorem setEoX_sram : (s.setEoX e x).sram = s.sram := rfl
@[simp] theorem setEoX_ports : (s.setEoX e x).ports = s.ports := rfl
@[simp] theorem setEoX_evPend : (s.setEoX e x).evPend = s.evPend := rfl
@[simp] theorem setEoX_routes : (s.setEoX e x).routes = s.routes := rfl
@[simp] theorem setEoX_hcfg : (s.setEoX e x).hcfg = s.hcfg := rfl
@[simp] theorem setEoX_alarms : (s.setEoX e x).alarms = s.alarms := rfl
@[simp] theorem setEoX_aseq : (s.setEoX e x).aseq = s.aseq := rfl
@[simp] theorem setEoX_sarOff : (s.setEoX e x).sarOff = s.sarOff := rfl
@[simp] theorem setEoX_sarGain : (s.setEoX e x).sarGain = s.sarGain := rfl
@[simp] theorem setEoX_newest : (s.setEoX e x).newest = s.newest := rfl
@[simp] theorem setEoX_dups : (s.setEoX e x).dups = s.dups := rfl
@[simp] theorem setEoX_served : (s.setEoX e x).served = s.served := rfl
@[simp] theorem setEoX_defers : (s.setEoX e x).defers = s.defers := rfl
@[simp] theorem setEoX_pset : (s.setEoX e x).pset = s.pset := rfl
@[simp] theorem setEoX_psetNo : (s.setEoX e x).psetNo = s.psetNo := rfl
@[simp] theorem setEoX_ledg : (s.setEoX e x).ledg = s.ledg := rfl
@[simp] theorem setEoX_telem : (s.setEoX e x).telem = s.telem := rfl
@[simp] theorem setEoX_tb : (s.setEoX e x).tb = s.tb := rfl
@[simp] theorem setEoX_up : (s.setEoX e x).up = s.up := rfl
@[simp] theorem setEoX_bk : (s.setEoX e x).bk = s.bk := rfl
@[simp] theorem setEoX_otp : (s.setEoX e x).otp = s.otp := rfl
@[simp] theorem setEoX_mram : (s.setEoX e x).mram = s.mram := rfl
@[simp] theorem setEoX_sec : (s.setEoX e x).sec = s.sec := rfl
@[simp] theorem setEoX_pow : (s.setEoX e x).pow = s.pow := rfl
@[simp] theorem setEoX_ex : (s.setEoX e x).ex = s.ex := rfl
@[simp] theorem setEoX_commitDue : (s.setEoX e x).commitDue = s.commitDue := rfl
@[simp] theorem setEoX_stale : (s.setEoX e x).stale = s.stale := rfl
@[simp] theorem setEoX_legs : (s.setEoX e x).legs = s.legs := rfl
@[simp] theorem setEoX_stages : (s.setEoX e x).stages = s.stages := rfl
@[simp] theorem setEoX_trips : (s.setEoX e x).trips = s.trips := rfl
@[simp] theorem setEoX_sdTrip : (s.setEoX e x).sdTrip = s.sdTrip := rfl
@[simp] theorem setEoX_links : (s.setEoX e x).links = s.links := rfl
@[simp] theorem setEoX_slotx : (s.setEoX e x).slotx = s.slotx := rfl
@[simp] theorem setEoX_cellc : (s.setEoX e x).cellc = s.cellc := rfl
@[simp] theorem setEoX_fixedPt : (s.setEoX e x).fixedPt = s.fixedPt := rfl
@[simp] theorem setEoX_convx : (s.setEoX e x).convx = s.convx := rfl
@[simp] theorem setEoX_armx : (s.setEoX e x).armx = s.armx := rfl
@[simp] theorem setEoX_cellx : (s.setEoX e x).cellx = s.cellx := rfl
@[simp] theorem setEoX_machx : (s.setEoX e x).machx = s.machx := rfl
@[simp] theorem setEoX_dioOut : (s.setEoX e x).dioOut = s.dioOut := rfl
@[simp] theorem setEoX_stops : (s.setEoX e x).stops = s.stops := rfl
@[simp] theorem setEoX_axstop : (s.setEoX e x).axstop = s.axstop := rfl
@[simp] theorem setEoX_sto : (s.setEoX e x).sto = s.sto := rfl
@[simp] theorem setEoX_supp : (s.setEoX e x).supp = s.supp := rfl
@[simp] theorem setEoX_axReq : (s.setEoX e x).axReq = s.axReq := rfl
@[simp] theorem setEoX_diox : (s.setEoX e x).diox = s.diox := rfl
@[simp] theorem setEoX_fbx : (s.setEoX e x).fbx = s.fbx := rfl
@[simp] theorem setEoX_cmpx : (s.setEoX e x).cmpx = s.cmpx := rfl
@[simp] theorem setEoX_eox : (s.setEoX e x).eox = s.eox.put {} e x := rfl
@[simp] theorem setEoX_late : (s.setEoX e x).late = s.late := rfl
@[simp] theorem setEoX_evWait : (s.setEoX e x).evWait = s.evWait := rfl
@[simp] theorem setEoX_sdx : (s.setEoX e x).sdx = s.sdx := rfl
@[simp] theorem setEoX_ainx : (s.setEoX e x).ainx = s.ainx := rfl
@[simp] theorem setEoX_sarDue : (s.setEoX e x).sarDue = s.sarDue := rfl
@[simp] theorem setEoX_loopx : (s.setEoX e x).loopx = s.loopx := rfl
@[simp] theorem setEoX_axisx : (s.setEoX e x).axisx = s.axisx := rfl
@[simp] theorem setEoX_ffx : (s.setEoX e x).ffx = s.ffx := rfl
@[simp] theorem setEoX_canx : (s.setEoX e x).canx = s.canx := rfl
@[simp] theorem setEoX_canPaused : (s.setEoX e x).canPaused = s.canPaused := rfl
@[simp] theorem setEoX_urgDue : (s.setEoX e x).urgDue = s.urgDue := rfl
@[simp] theorem setEoX_partx : (s.setEoX e x).partx = s.partx := rfl
@[simp] theorem setEoX_tunes : (s.setEoX e x).tunes = s.tunes := rfl
@[simp] theorem setEoX_tracex : (s.setEoX e x).tracex = s.tracex := rfl
@[simp] theorem setEoX_trport : (s.setEoX e x).trport = s.trport := rfl
@[simp] theorem setEoX_evSeen : (s.setEoX e x).evSeen = s.evSeen := rfl
@[simp] theorem setEoX_regs : (s.setEoX e x).regs = s.regs := rfl
@[simp] theorem setEoX_free : (s.setEoX e x).free = s.free := rfl
@[simp] theorem setEoX_pending : (s.setEoX e x).pending = s.pending := rfl
end

/-! `setSdX` -/

section
variable (k : Nat) (x : SdX)
@[simp] theorem setSdX_objs : (s.setSdX k x).objs = s.objs := rfl
@[simp] theorem setSdX_rings : (s.setSdX k x).rings = s.rings := rfl
@[simp] theorem setSdX_tile : (s.setSdX k x).tile = s.tile := rfl
@[simp] theorem setSdX_badTags : (s.setSdX k x).badTags = s.badTags := rfl
@[simp] theorem setSdX_stores : (s.setSdX k x).stores = s.stores := rfl
@[simp] theorem setSdX_sram : (s.setSdX k x).sram = s.sram := rfl
@[simp] theorem setSdX_ports : (s.setSdX k x).ports = s.ports := rfl
@[simp] theorem setSdX_evPend : (s.setSdX k x).evPend = s.evPend := rfl
@[simp] theorem setSdX_routes : (s.setSdX k x).routes = s.routes := rfl
@[simp] theorem setSdX_hcfg : (s.setSdX k x).hcfg = s.hcfg := rfl
@[simp] theorem setSdX_alarms : (s.setSdX k x).alarms = s.alarms := rfl
@[simp] theorem setSdX_aseq : (s.setSdX k x).aseq = s.aseq := rfl
@[simp] theorem setSdX_sarOff : (s.setSdX k x).sarOff = s.sarOff := rfl
@[simp] theorem setSdX_sarGain : (s.setSdX k x).sarGain = s.sarGain := rfl
@[simp] theorem setSdX_newest : (s.setSdX k x).newest = s.newest := rfl
@[simp] theorem setSdX_dups : (s.setSdX k x).dups = s.dups := rfl
@[simp] theorem setSdX_served : (s.setSdX k x).served = s.served := rfl
@[simp] theorem setSdX_defers : (s.setSdX k x).defers = s.defers := rfl
@[simp] theorem setSdX_pset : (s.setSdX k x).pset = s.pset := rfl
@[simp] theorem setSdX_psetNo : (s.setSdX k x).psetNo = s.psetNo := rfl
@[simp] theorem setSdX_ledg : (s.setSdX k x).ledg = s.ledg := rfl
@[simp] theorem setSdX_telem : (s.setSdX k x).telem = s.telem := rfl
@[simp] theorem setSdX_tb : (s.setSdX k x).tb = s.tb := rfl
@[simp] theorem setSdX_up : (s.setSdX k x).up = s.up := rfl
@[simp] theorem setSdX_bk : (s.setSdX k x).bk = s.bk := rfl
@[simp] theorem setSdX_otp : (s.setSdX k x).otp = s.otp := rfl
@[simp] theorem setSdX_mram : (s.setSdX k x).mram = s.mram := rfl
@[simp] theorem setSdX_sec : (s.setSdX k x).sec = s.sec := rfl
@[simp] theorem setSdX_pow : (s.setSdX k x).pow = s.pow := rfl
@[simp] theorem setSdX_ex : (s.setSdX k x).ex = s.ex := rfl
@[simp] theorem setSdX_commitDue : (s.setSdX k x).commitDue = s.commitDue := rfl
@[simp] theorem setSdX_stale : (s.setSdX k x).stale = s.stale := rfl
@[simp] theorem setSdX_legs : (s.setSdX k x).legs = s.legs := rfl
@[simp] theorem setSdX_stages : (s.setSdX k x).stages = s.stages := rfl
@[simp] theorem setSdX_trips : (s.setSdX k x).trips = s.trips := rfl
@[simp] theorem setSdX_sdTrip : (s.setSdX k x).sdTrip = s.sdTrip := rfl
@[simp] theorem setSdX_links : (s.setSdX k x).links = s.links := rfl
@[simp] theorem setSdX_slotx : (s.setSdX k x).slotx = s.slotx := rfl
@[simp] theorem setSdX_cellc : (s.setSdX k x).cellc = s.cellc := rfl
@[simp] theorem setSdX_fixedPt : (s.setSdX k x).fixedPt = s.fixedPt := rfl
@[simp] theorem setSdX_convx : (s.setSdX k x).convx = s.convx := rfl
@[simp] theorem setSdX_armx : (s.setSdX k x).armx = s.armx := rfl
@[simp] theorem setSdX_cellx : (s.setSdX k x).cellx = s.cellx := rfl
@[simp] theorem setSdX_machx : (s.setSdX k x).machx = s.machx := rfl
@[simp] theorem setSdX_dioOut : (s.setSdX k x).dioOut = s.dioOut := rfl
@[simp] theorem setSdX_stops : (s.setSdX k x).stops = s.stops := rfl
@[simp] theorem setSdX_axstop : (s.setSdX k x).axstop = s.axstop := rfl
@[simp] theorem setSdX_sto : (s.setSdX k x).sto = s.sto := rfl
@[simp] theorem setSdX_supp : (s.setSdX k x).supp = s.supp := rfl
@[simp] theorem setSdX_axReq : (s.setSdX k x).axReq = s.axReq := rfl
@[simp] theorem setSdX_diox : (s.setSdX k x).diox = s.diox := rfl
@[simp] theorem setSdX_fbx : (s.setSdX k x).fbx = s.fbx := rfl
@[simp] theorem setSdX_cmpx : (s.setSdX k x).cmpx = s.cmpx := rfl
@[simp] theorem setSdX_eox : (s.setSdX k x).eox = s.eox := rfl
@[simp] theorem setSdX_late : (s.setSdX k x).late = s.late := rfl
@[simp] theorem setSdX_evWait : (s.setSdX k x).evWait = s.evWait := rfl
@[simp] theorem setSdX_sdx : (s.setSdX k x).sdx = s.sdx.put {} k x := rfl
@[simp] theorem setSdX_ainx : (s.setSdX k x).ainx = s.ainx := rfl
@[simp] theorem setSdX_sarDue : (s.setSdX k x).sarDue = s.sarDue := rfl
@[simp] theorem setSdX_loopx : (s.setSdX k x).loopx = s.loopx := rfl
@[simp] theorem setSdX_axisx : (s.setSdX k x).axisx = s.axisx := rfl
@[simp] theorem setSdX_ffx : (s.setSdX k x).ffx = s.ffx := rfl
@[simp] theorem setSdX_canx : (s.setSdX k x).canx = s.canx := rfl
@[simp] theorem setSdX_canPaused : (s.setSdX k x).canPaused = s.canPaused := rfl
@[simp] theorem setSdX_urgDue : (s.setSdX k x).urgDue = s.urgDue := rfl
@[simp] theorem setSdX_partx : (s.setSdX k x).partx = s.partx := rfl
@[simp] theorem setSdX_tunes : (s.setSdX k x).tunes = s.tunes := rfl
@[simp] theorem setSdX_tracex : (s.setSdX k x).tracex = s.tracex := rfl
@[simp] theorem setSdX_trport : (s.setSdX k x).trport = s.trport := rfl
@[simp] theorem setSdX_evSeen : (s.setSdX k x).evSeen = s.evSeen := rfl
@[simp] theorem setSdX_regs : (s.setSdX k x).regs = s.regs := rfl
@[simp] theorem setSdX_free : (s.setSdX k x).free = s.free := rfl
@[simp] theorem setSdX_pending : (s.setSdX k x).pending = s.pending := rfl
end

/-! `setLink` -/

section
variable (r : Nat) (x : RingX)
@[simp] theorem setLink_objs : (s.setLink r x).objs = s.objs := rfl
@[simp] theorem setLink_rings : (s.setLink r x).rings = s.rings := rfl
@[simp] theorem setLink_tile : (s.setLink r x).tile = s.tile := rfl
@[simp] theorem setLink_badTags : (s.setLink r x).badTags = s.badTags := rfl
@[simp] theorem setLink_stores : (s.setLink r x).stores = s.stores := rfl
@[simp] theorem setLink_sram : (s.setLink r x).sram = s.sram := rfl
@[simp] theorem setLink_ports : (s.setLink r x).ports = s.ports := rfl
@[simp] theorem setLink_evPend : (s.setLink r x).evPend = s.evPend := rfl
@[simp] theorem setLink_routes : (s.setLink r x).routes = s.routes := rfl
@[simp] theorem setLink_hcfg : (s.setLink r x).hcfg = s.hcfg := rfl
@[simp] theorem setLink_alarms : (s.setLink r x).alarms = s.alarms := rfl
@[simp] theorem setLink_aseq : (s.setLink r x).aseq = s.aseq := rfl
@[simp] theorem setLink_sarOff : (s.setLink r x).sarOff = s.sarOff := rfl
@[simp] theorem setLink_sarGain : (s.setLink r x).sarGain = s.sarGain := rfl
@[simp] theorem setLink_newest : (s.setLink r x).newest = s.newest := rfl
@[simp] theorem setLink_dups : (s.setLink r x).dups = s.dups := rfl
@[simp] theorem setLink_served : (s.setLink r x).served = s.served := rfl
@[simp] theorem setLink_defers : (s.setLink r x).defers = s.defers := rfl
@[simp] theorem setLink_pset : (s.setLink r x).pset = s.pset := rfl
@[simp] theorem setLink_psetNo : (s.setLink r x).psetNo = s.psetNo := rfl
@[simp] theorem setLink_ledg : (s.setLink r x).ledg = s.ledg := rfl
@[simp] theorem setLink_telem : (s.setLink r x).telem = s.telem := rfl
@[simp] theorem setLink_tb : (s.setLink r x).tb = s.tb := rfl
@[simp] theorem setLink_up : (s.setLink r x).up = s.up := rfl
@[simp] theorem setLink_bk : (s.setLink r x).bk = s.bk := rfl
@[simp] theorem setLink_otp : (s.setLink r x).otp = s.otp := rfl
@[simp] theorem setLink_mram : (s.setLink r x).mram = s.mram := rfl
@[simp] theorem setLink_sec : (s.setLink r x).sec = s.sec := rfl
@[simp] theorem setLink_pow : (s.setLink r x).pow = s.pow := rfl
@[simp] theorem setLink_ex : (s.setLink r x).ex = s.ex := rfl
@[simp] theorem setLink_commitDue : (s.setLink r x).commitDue = s.commitDue := rfl
@[simp] theorem setLink_stale : (s.setLink r x).stale = s.stale := rfl
@[simp] theorem setLink_legs : (s.setLink r x).legs = s.legs := rfl
@[simp] theorem setLink_stages : (s.setLink r x).stages = s.stages := rfl
@[simp] theorem setLink_trips : (s.setLink r x).trips = s.trips := rfl
@[simp] theorem setLink_sdTrip : (s.setLink r x).sdTrip = s.sdTrip := rfl
@[simp] theorem setLink_links : (s.setLink r x).links = s.links.put {} r x := rfl
@[simp] theorem setLink_slotx : (s.setLink r x).slotx = s.slotx := rfl
@[simp] theorem setLink_cellc : (s.setLink r x).cellc = s.cellc := rfl
@[simp] theorem setLink_fixedPt : (s.setLink r x).fixedPt = s.fixedPt := rfl
@[simp] theorem setLink_convx : (s.setLink r x).convx = s.convx := rfl
@[simp] theorem setLink_armx : (s.setLink r x).armx = s.armx := rfl
@[simp] theorem setLink_cellx : (s.setLink r x).cellx = s.cellx := rfl
@[simp] theorem setLink_machx : (s.setLink r x).machx = s.machx := rfl
@[simp] theorem setLink_dioOut : (s.setLink r x).dioOut = s.dioOut := rfl
@[simp] theorem setLink_stops : (s.setLink r x).stops = s.stops := rfl
@[simp] theorem setLink_axstop : (s.setLink r x).axstop = s.axstop := rfl
@[simp] theorem setLink_sto : (s.setLink r x).sto = s.sto := rfl
@[simp] theorem setLink_supp : (s.setLink r x).supp = s.supp := rfl
@[simp] theorem setLink_axReq : (s.setLink r x).axReq = s.axReq := rfl
@[simp] theorem setLink_diox : (s.setLink r x).diox = s.diox := rfl
@[simp] theorem setLink_fbx : (s.setLink r x).fbx = s.fbx := rfl
@[simp] theorem setLink_cmpx : (s.setLink r x).cmpx = s.cmpx := rfl
@[simp] theorem setLink_eox : (s.setLink r x).eox = s.eox := rfl
@[simp] theorem setLink_late : (s.setLink r x).late = s.late := rfl
@[simp] theorem setLink_evWait : (s.setLink r x).evWait = s.evWait := rfl
@[simp] theorem setLink_sdx : (s.setLink r x).sdx = s.sdx := rfl
@[simp] theorem setLink_ainx : (s.setLink r x).ainx = s.ainx := rfl
@[simp] theorem setLink_sarDue : (s.setLink r x).sarDue = s.sarDue := rfl
@[simp] theorem setLink_loopx : (s.setLink r x).loopx = s.loopx := rfl
@[simp] theorem setLink_axisx : (s.setLink r x).axisx = s.axisx := rfl
@[simp] theorem setLink_ffx : (s.setLink r x).ffx = s.ffx := rfl
@[simp] theorem setLink_canx : (s.setLink r x).canx = s.canx := rfl
@[simp] theorem setLink_canPaused : (s.setLink r x).canPaused = s.canPaused := rfl
@[simp] theorem setLink_urgDue : (s.setLink r x).urgDue = s.urgDue := rfl
@[simp] theorem setLink_partx : (s.setLink r x).partx = s.partx := rfl
@[simp] theorem setLink_tunes : (s.setLink r x).tunes = s.tunes := rfl
@[simp] theorem setLink_tracex : (s.setLink r x).tracex = s.tracex := rfl
@[simp] theorem setLink_trport : (s.setLink r x).trport = s.trport := rfl
@[simp] theorem setLink_evSeen : (s.setLink r x).evSeen = s.evSeen := rfl
@[simp] theorem setLink_regs : (s.setLink r x).regs = s.regs := rfl
@[simp] theorem setLink_free : (s.setLink r x).free = s.free := rfl
@[simp] theorem setLink_pending : (s.setLink r x).pending = s.pending := rfl
end

/-! `setSlotX` -/

section
variable (i : Nat) (x : SlotX)
@[simp] theorem setSlotX_objs : (s.setSlotX i x).objs = s.objs := rfl
@[simp] theorem setSlotX_rings : (s.setSlotX i x).rings = s.rings := rfl
@[simp] theorem setSlotX_tile : (s.setSlotX i x).tile = s.tile := rfl
@[simp] theorem setSlotX_badTags : (s.setSlotX i x).badTags = s.badTags := rfl
@[simp] theorem setSlotX_stores : (s.setSlotX i x).stores = s.stores := rfl
@[simp] theorem setSlotX_sram : (s.setSlotX i x).sram = s.sram := rfl
@[simp] theorem setSlotX_ports : (s.setSlotX i x).ports = s.ports := rfl
@[simp] theorem setSlotX_evPend : (s.setSlotX i x).evPend = s.evPend := rfl
@[simp] theorem setSlotX_routes : (s.setSlotX i x).routes = s.routes := rfl
@[simp] theorem setSlotX_hcfg : (s.setSlotX i x).hcfg = s.hcfg := rfl
@[simp] theorem setSlotX_alarms : (s.setSlotX i x).alarms = s.alarms := rfl
@[simp] theorem setSlotX_aseq : (s.setSlotX i x).aseq = s.aseq := rfl
@[simp] theorem setSlotX_sarOff : (s.setSlotX i x).sarOff = s.sarOff := rfl
@[simp] theorem setSlotX_sarGain : (s.setSlotX i x).sarGain = s.sarGain := rfl
@[simp] theorem setSlotX_newest : (s.setSlotX i x).newest = s.newest := rfl
@[simp] theorem setSlotX_dups : (s.setSlotX i x).dups = s.dups := rfl
@[simp] theorem setSlotX_served : (s.setSlotX i x).served = s.served := rfl
@[simp] theorem setSlotX_defers : (s.setSlotX i x).defers = s.defers := rfl
@[simp] theorem setSlotX_pset : (s.setSlotX i x).pset = s.pset := rfl
@[simp] theorem setSlotX_psetNo : (s.setSlotX i x).psetNo = s.psetNo := rfl
@[simp] theorem setSlotX_ledg : (s.setSlotX i x).ledg = s.ledg := rfl
@[simp] theorem setSlotX_telem : (s.setSlotX i x).telem = s.telem := rfl
@[simp] theorem setSlotX_tb : (s.setSlotX i x).tb = s.tb := rfl
@[simp] theorem setSlotX_up : (s.setSlotX i x).up = s.up := rfl
@[simp] theorem setSlotX_bk : (s.setSlotX i x).bk = s.bk := rfl
@[simp] theorem setSlotX_otp : (s.setSlotX i x).otp = s.otp := rfl
@[simp] theorem setSlotX_mram : (s.setSlotX i x).mram = s.mram := rfl
@[simp] theorem setSlotX_sec : (s.setSlotX i x).sec = s.sec := rfl
@[simp] theorem setSlotX_pow : (s.setSlotX i x).pow = s.pow := rfl
@[simp] theorem setSlotX_ex : (s.setSlotX i x).ex = s.ex := rfl
@[simp] theorem setSlotX_commitDue : (s.setSlotX i x).commitDue = s.commitDue := rfl
@[simp] theorem setSlotX_stale : (s.setSlotX i x).stale = s.stale := rfl
@[simp] theorem setSlotX_legs : (s.setSlotX i x).legs = s.legs := rfl
@[simp] theorem setSlotX_stages : (s.setSlotX i x).stages = s.stages := rfl
@[simp] theorem setSlotX_trips : (s.setSlotX i x).trips = s.trips := rfl
@[simp] theorem setSlotX_sdTrip : (s.setSlotX i x).sdTrip = s.sdTrip := rfl
@[simp] theorem setSlotX_links : (s.setSlotX i x).links = s.links := rfl
@[simp] theorem setSlotX_slotx : (s.setSlotX i x).slotx = s.slotx.put {} i x := rfl
@[simp] theorem setSlotX_cellc : (s.setSlotX i x).cellc = s.cellc := rfl
@[simp] theorem setSlotX_fixedPt : (s.setSlotX i x).fixedPt = s.fixedPt := rfl
@[simp] theorem setSlotX_convx : (s.setSlotX i x).convx = s.convx := rfl
@[simp] theorem setSlotX_armx : (s.setSlotX i x).armx = s.armx := rfl
@[simp] theorem setSlotX_cellx : (s.setSlotX i x).cellx = s.cellx := rfl
@[simp] theorem setSlotX_machx : (s.setSlotX i x).machx = s.machx := rfl
@[simp] theorem setSlotX_dioOut : (s.setSlotX i x).dioOut = s.dioOut := rfl
@[simp] theorem setSlotX_stops : (s.setSlotX i x).stops = s.stops := rfl
@[simp] theorem setSlotX_axstop : (s.setSlotX i x).axstop = s.axstop := rfl
@[simp] theorem setSlotX_sto : (s.setSlotX i x).sto = s.sto := rfl
@[simp] theorem setSlotX_supp : (s.setSlotX i x).supp = s.supp := rfl
@[simp] theorem setSlotX_axReq : (s.setSlotX i x).axReq = s.axReq := rfl
@[simp] theorem setSlotX_diox : (s.setSlotX i x).diox = s.diox := rfl
@[simp] theorem setSlotX_fbx : (s.setSlotX i x).fbx = s.fbx := rfl
@[simp] theorem setSlotX_cmpx : (s.setSlotX i x).cmpx = s.cmpx := rfl
@[simp] theorem setSlotX_eox : (s.setSlotX i x).eox = s.eox := rfl
@[simp] theorem setSlotX_late : (s.setSlotX i x).late = s.late := rfl
@[simp] theorem setSlotX_evWait : (s.setSlotX i x).evWait = s.evWait := rfl
@[simp] theorem setSlotX_sdx : (s.setSlotX i x).sdx = s.sdx := rfl
@[simp] theorem setSlotX_ainx : (s.setSlotX i x).ainx = s.ainx := rfl
@[simp] theorem setSlotX_sarDue : (s.setSlotX i x).sarDue = s.sarDue := rfl
@[simp] theorem setSlotX_loopx : (s.setSlotX i x).loopx = s.loopx := rfl
@[simp] theorem setSlotX_axisx : (s.setSlotX i x).axisx = s.axisx := rfl
@[simp] theorem setSlotX_ffx : (s.setSlotX i x).ffx = s.ffx := rfl
@[simp] theorem setSlotX_canx : (s.setSlotX i x).canx = s.canx := rfl
@[simp] theorem setSlotX_canPaused : (s.setSlotX i x).canPaused = s.canPaused := rfl
@[simp] theorem setSlotX_urgDue : (s.setSlotX i x).urgDue = s.urgDue := rfl
@[simp] theorem setSlotX_partx : (s.setSlotX i x).partx = s.partx := rfl
@[simp] theorem setSlotX_tunes : (s.setSlotX i x).tunes = s.tunes := rfl
@[simp] theorem setSlotX_tracex : (s.setSlotX i x).tracex = s.tracex := rfl
@[simp] theorem setSlotX_trport : (s.setSlotX i x).trport = s.trport := rfl
@[simp] theorem setSlotX_evSeen : (s.setSlotX i x).evSeen = s.evSeen := rfl
@[simp] theorem setSlotX_regs : (s.setSlotX i x).regs = s.regs := rfl
@[simp] theorem setSlotX_free : (s.setSlotX i x).free = s.free := rfl
@[simp] theorem setSlotX_pending : (s.setSlotX i x).pending = s.pending := rfl
end

/-! `setCellCtl` -/

section
variable (i : Nat) (x : CellCtl)
@[simp] theorem setCellCtl_objs : (s.setCellCtl i x).objs = s.objs := rfl
@[simp] theorem setCellCtl_rings : (s.setCellCtl i x).rings = s.rings := rfl
@[simp] theorem setCellCtl_tile : (s.setCellCtl i x).tile = s.tile := rfl
@[simp] theorem setCellCtl_badTags : (s.setCellCtl i x).badTags = s.badTags := rfl
@[simp] theorem setCellCtl_stores : (s.setCellCtl i x).stores = s.stores := rfl
@[simp] theorem setCellCtl_sram : (s.setCellCtl i x).sram = s.sram := rfl
@[simp] theorem setCellCtl_ports : (s.setCellCtl i x).ports = s.ports := rfl
@[simp] theorem setCellCtl_evPend : (s.setCellCtl i x).evPend = s.evPend := rfl
@[simp] theorem setCellCtl_routes : (s.setCellCtl i x).routes = s.routes := rfl
@[simp] theorem setCellCtl_hcfg : (s.setCellCtl i x).hcfg = s.hcfg := rfl
@[simp] theorem setCellCtl_alarms : (s.setCellCtl i x).alarms = s.alarms := rfl
@[simp] theorem setCellCtl_aseq : (s.setCellCtl i x).aseq = s.aseq := rfl
@[simp] theorem setCellCtl_sarOff : (s.setCellCtl i x).sarOff = s.sarOff := rfl
@[simp] theorem setCellCtl_sarGain : (s.setCellCtl i x).sarGain = s.sarGain := rfl
@[simp] theorem setCellCtl_newest : (s.setCellCtl i x).newest = s.newest := rfl
@[simp] theorem setCellCtl_dups : (s.setCellCtl i x).dups = s.dups := rfl
@[simp] theorem setCellCtl_served : (s.setCellCtl i x).served = s.served := rfl
@[simp] theorem setCellCtl_defers : (s.setCellCtl i x).defers = s.defers := rfl
@[simp] theorem setCellCtl_pset : (s.setCellCtl i x).pset = s.pset := rfl
@[simp] theorem setCellCtl_psetNo : (s.setCellCtl i x).psetNo = s.psetNo := rfl
@[simp] theorem setCellCtl_ledg : (s.setCellCtl i x).ledg = s.ledg := rfl
@[simp] theorem setCellCtl_telem : (s.setCellCtl i x).telem = s.telem := rfl
@[simp] theorem setCellCtl_tb : (s.setCellCtl i x).tb = s.tb := rfl
@[simp] theorem setCellCtl_up : (s.setCellCtl i x).up = s.up := rfl
@[simp] theorem setCellCtl_bk : (s.setCellCtl i x).bk = s.bk := rfl
@[simp] theorem setCellCtl_otp : (s.setCellCtl i x).otp = s.otp := rfl
@[simp] theorem setCellCtl_mram : (s.setCellCtl i x).mram = s.mram := rfl
@[simp] theorem setCellCtl_sec : (s.setCellCtl i x).sec = s.sec := rfl
@[simp] theorem setCellCtl_pow : (s.setCellCtl i x).pow = s.pow := rfl
@[simp] theorem setCellCtl_ex : (s.setCellCtl i x).ex = s.ex := rfl
@[simp] theorem setCellCtl_commitDue : (s.setCellCtl i x).commitDue = s.commitDue := rfl
@[simp] theorem setCellCtl_stale : (s.setCellCtl i x).stale = s.stale := rfl
@[simp] theorem setCellCtl_legs : (s.setCellCtl i x).legs = s.legs := rfl
@[simp] theorem setCellCtl_stages : (s.setCellCtl i x).stages = s.stages := rfl
@[simp] theorem setCellCtl_trips : (s.setCellCtl i x).trips = s.trips := rfl
@[simp] theorem setCellCtl_sdTrip : (s.setCellCtl i x).sdTrip = s.sdTrip := rfl
@[simp] theorem setCellCtl_links : (s.setCellCtl i x).links = s.links := rfl
@[simp] theorem setCellCtl_slotx : (s.setCellCtl i x).slotx = s.slotx := rfl
@[simp] theorem setCellCtl_cellc : (s.setCellCtl i x).cellc = s.cellc.put {} i x := rfl
@[simp] theorem setCellCtl_fixedPt : (s.setCellCtl i x).fixedPt = s.fixedPt := rfl
@[simp] theorem setCellCtl_convx : (s.setCellCtl i x).convx = s.convx := rfl
@[simp] theorem setCellCtl_armx : (s.setCellCtl i x).armx = s.armx := rfl
@[simp] theorem setCellCtl_cellx : (s.setCellCtl i x).cellx = s.cellx := rfl
@[simp] theorem setCellCtl_machx : (s.setCellCtl i x).machx = s.machx := rfl
@[simp] theorem setCellCtl_dioOut : (s.setCellCtl i x).dioOut = s.dioOut := rfl
@[simp] theorem setCellCtl_stops : (s.setCellCtl i x).stops = s.stops := rfl
@[simp] theorem setCellCtl_axstop : (s.setCellCtl i x).axstop = s.axstop := rfl
@[simp] theorem setCellCtl_sto : (s.setCellCtl i x).sto = s.sto := rfl
@[simp] theorem setCellCtl_supp : (s.setCellCtl i x).supp = s.supp := rfl
@[simp] theorem setCellCtl_axReq : (s.setCellCtl i x).axReq = s.axReq := rfl
@[simp] theorem setCellCtl_diox : (s.setCellCtl i x).diox = s.diox := rfl
@[simp] theorem setCellCtl_fbx : (s.setCellCtl i x).fbx = s.fbx := rfl
@[simp] theorem setCellCtl_cmpx : (s.setCellCtl i x).cmpx = s.cmpx := rfl
@[simp] theorem setCellCtl_eox : (s.setCellCtl i x).eox = s.eox := rfl
@[simp] theorem setCellCtl_late : (s.setCellCtl i x).late = s.late := rfl
@[simp] theorem setCellCtl_evWait : (s.setCellCtl i x).evWait = s.evWait := rfl
@[simp] theorem setCellCtl_sdx : (s.setCellCtl i x).sdx = s.sdx := rfl
@[simp] theorem setCellCtl_ainx : (s.setCellCtl i x).ainx = s.ainx := rfl
@[simp] theorem setCellCtl_sarDue : (s.setCellCtl i x).sarDue = s.sarDue := rfl
@[simp] theorem setCellCtl_loopx : (s.setCellCtl i x).loopx = s.loopx := rfl
@[simp] theorem setCellCtl_axisx : (s.setCellCtl i x).axisx = s.axisx := rfl
@[simp] theorem setCellCtl_ffx : (s.setCellCtl i x).ffx = s.ffx := rfl
@[simp] theorem setCellCtl_canx : (s.setCellCtl i x).canx = s.canx := rfl
@[simp] theorem setCellCtl_canPaused : (s.setCellCtl i x).canPaused = s.canPaused := rfl
@[simp] theorem setCellCtl_urgDue : (s.setCellCtl i x).urgDue = s.urgDue := rfl
@[simp] theorem setCellCtl_partx : (s.setCellCtl i x).partx = s.partx := rfl
@[simp] theorem setCellCtl_tunes : (s.setCellCtl i x).tunes = s.tunes := rfl
@[simp] theorem setCellCtl_tracex : (s.setCellCtl i x).tracex = s.tracex := rfl
@[simp] theorem setCellCtl_trport : (s.setCellCtl i x).trport = s.trport := rfl
@[simp] theorem setCellCtl_evSeen : (s.setCellCtl i x).evSeen = s.evSeen := rfl
@[simp] theorem setCellCtl_regs : (s.setCellCtl i x).regs = s.regs := rfl
@[simp] theorem setCellCtl_free : (s.setCellCtl i x).free = s.free := rfl
@[simp] theorem setCellCtl_pending : (s.setCellCtl i x).pending = s.pending := rfl
end

/-! `setTb` -/

section
variable (t : TimeBase)
@[simp] theorem setTb_objs : (s.setTb t).objs = s.objs := rfl
@[simp] theorem setTb_rings : (s.setTb t).rings = s.rings := rfl
@[simp] theorem setTb_tile : (s.setTb t).tile = s.tile := rfl
@[simp] theorem setTb_badTags : (s.setTb t).badTags = s.badTags := rfl
@[simp] theorem setTb_stores : (s.setTb t).stores = s.stores := rfl
@[simp] theorem setTb_sram : (s.setTb t).sram = s.sram := rfl
@[simp] theorem setTb_ports : (s.setTb t).ports = s.ports := rfl
@[simp] theorem setTb_evPend : (s.setTb t).evPend = s.evPend := rfl
@[simp] theorem setTb_routes : (s.setTb t).routes = s.routes := rfl
@[simp] theorem setTb_hcfg : (s.setTb t).hcfg = s.hcfg := rfl
@[simp] theorem setTb_alarms : (s.setTb t).alarms = s.alarms := rfl
@[simp] theorem setTb_aseq : (s.setTb t).aseq = s.aseq := rfl
@[simp] theorem setTb_sarOff : (s.setTb t).sarOff = s.sarOff := rfl
@[simp] theorem setTb_sarGain : (s.setTb t).sarGain = s.sarGain := rfl
@[simp] theorem setTb_newest : (s.setTb t).newest = s.newest := rfl
@[simp] theorem setTb_dups : (s.setTb t).dups = s.dups := rfl
@[simp] theorem setTb_served : (s.setTb t).served = s.served := rfl
@[simp] theorem setTb_defers : (s.setTb t).defers = s.defers := rfl
@[simp] theorem setTb_pset : (s.setTb t).pset = s.pset := rfl
@[simp] theorem setTb_psetNo : (s.setTb t).psetNo = s.psetNo := rfl
@[simp] theorem setTb_ledg : (s.setTb t).ledg = s.ledg := rfl
@[simp] theorem setTb_telem : (s.setTb t).telem = s.telem := rfl
@[simp] theorem setTb_tb : (s.setTb t).tb = t := rfl
@[simp] theorem setTb_up : (s.setTb t).up = s.up := rfl
@[simp] theorem setTb_bk : (s.setTb t).bk = s.bk := rfl
@[simp] theorem setTb_otp : (s.setTb t).otp = s.otp := rfl
@[simp] theorem setTb_mram : (s.setTb t).mram = s.mram := rfl
@[simp] theorem setTb_sec : (s.setTb t).sec = s.sec := rfl
@[simp] theorem setTb_pow : (s.setTb t).pow = s.pow := rfl
@[simp] theorem setTb_ex : (s.setTb t).ex = s.ex := rfl
@[simp] theorem setTb_commitDue : (s.setTb t).commitDue = s.commitDue := rfl
@[simp] theorem setTb_stale : (s.setTb t).stale = s.stale := rfl
@[simp] theorem setTb_legs : (s.setTb t).legs = s.legs := rfl
@[simp] theorem setTb_stages : (s.setTb t).stages = s.stages := rfl
@[simp] theorem setTb_trips : (s.setTb t).trips = s.trips := rfl
@[simp] theorem setTb_sdTrip : (s.setTb t).sdTrip = s.sdTrip := rfl
@[simp] theorem setTb_links : (s.setTb t).links = s.links := rfl
@[simp] theorem setTb_slotx : (s.setTb t).slotx = s.slotx := rfl
@[simp] theorem setTb_cellc : (s.setTb t).cellc = s.cellc := rfl
@[simp] theorem setTb_fixedPt : (s.setTb t).fixedPt = s.fixedPt := rfl
@[simp] theorem setTb_convx : (s.setTb t).convx = s.convx := rfl
@[simp] theorem setTb_armx : (s.setTb t).armx = s.armx := rfl
@[simp] theorem setTb_cellx : (s.setTb t).cellx = s.cellx := rfl
@[simp] theorem setTb_machx : (s.setTb t).machx = s.machx := rfl
@[simp] theorem setTb_dioOut : (s.setTb t).dioOut = s.dioOut := rfl
@[simp] theorem setTb_stops : (s.setTb t).stops = s.stops := rfl
@[simp] theorem setTb_axstop : (s.setTb t).axstop = s.axstop := rfl
@[simp] theorem setTb_sto : (s.setTb t).sto = s.sto := rfl
@[simp] theorem setTb_supp : (s.setTb t).supp = s.supp := rfl
@[simp] theorem setTb_axReq : (s.setTb t).axReq = s.axReq := rfl
@[simp] theorem setTb_diox : (s.setTb t).diox = s.diox := rfl
@[simp] theorem setTb_fbx : (s.setTb t).fbx = s.fbx := rfl
@[simp] theorem setTb_cmpx : (s.setTb t).cmpx = s.cmpx := rfl
@[simp] theorem setTb_eox : (s.setTb t).eox = s.eox := rfl
@[simp] theorem setTb_late : (s.setTb t).late = s.late := rfl
@[simp] theorem setTb_evWait : (s.setTb t).evWait = s.evWait := rfl
@[simp] theorem setTb_sdx : (s.setTb t).sdx = s.sdx := rfl
@[simp] theorem setTb_ainx : (s.setTb t).ainx = s.ainx := rfl
@[simp] theorem setTb_sarDue : (s.setTb t).sarDue = s.sarDue := rfl
@[simp] theorem setTb_loopx : (s.setTb t).loopx = s.loopx := rfl
@[simp] theorem setTb_axisx : (s.setTb t).axisx = s.axisx := rfl
@[simp] theorem setTb_ffx : (s.setTb t).ffx = s.ffx := rfl
@[simp] theorem setTb_canx : (s.setTb t).canx = s.canx := rfl
@[simp] theorem setTb_canPaused : (s.setTb t).canPaused = s.canPaused := rfl
@[simp] theorem setTb_urgDue : (s.setTb t).urgDue = s.urgDue := rfl
@[simp] theorem setTb_partx : (s.setTb t).partx = s.partx := rfl
@[simp] theorem setTb_tunes : (s.setTb t).tunes = s.tunes := rfl
@[simp] theorem setTb_tracex : (s.setTb t).tracex = s.tracex := rfl
@[simp] theorem setTb_trport : (s.setTb t).trport = s.trport := rfl
@[simp] theorem setTb_evSeen : (s.setTb t).evSeen = s.evSeen := rfl
@[simp] theorem setTb_regs : (s.setTb t).regs = s.regs := rfl
@[simp] theorem setTb_free : (s.setTb t).free = s.free := rfl
@[simp] theorem setTb_pending : (s.setTb t).pending = s.pending := rfl
end

/-! `put` -/

section
variable (m : Mem) (i : Nat) (v : Int) (x : Nat)
@[simp] theorem put_objs : (s.put m i v x).objs = s.objs.put (m.dfltAt i x) (m.key i x) v := rfl
@[simp] theorem put_rings : (s.put m i v x).rings = s.rings := rfl
@[simp] theorem put_tile : (s.put m i v x).tile = s.tile := rfl
@[simp] theorem put_badTags : (s.put m i v x).badTags = s.badTags := rfl
@[simp] theorem put_stores : (s.put m i v x).stores = s.stores := rfl
@[simp] theorem put_sram : (s.put m i v x).sram = s.sram := rfl
@[simp] theorem put_ports : (s.put m i v x).ports = s.ports := rfl
@[simp] theorem put_evPend : (s.put m i v x).evPend = s.evPend := rfl
@[simp] theorem put_routes : (s.put m i v x).routes = s.routes := rfl
@[simp] theorem put_hcfg : (s.put m i v x).hcfg = s.hcfg := rfl
@[simp] theorem put_alarms : (s.put m i v x).alarms = s.alarms := rfl
@[simp] theorem put_aseq : (s.put m i v x).aseq = s.aseq := rfl
@[simp] theorem put_sarOff : (s.put m i v x).sarOff = s.sarOff := rfl
@[simp] theorem put_sarGain : (s.put m i v x).sarGain = s.sarGain := rfl
@[simp] theorem put_newest : (s.put m i v x).newest = s.newest := rfl
@[simp] theorem put_dups : (s.put m i v x).dups = s.dups := rfl
@[simp] theorem put_served : (s.put m i v x).served = s.served := rfl
@[simp] theorem put_defers : (s.put m i v x).defers = s.defers := rfl
@[simp] theorem put_pset : (s.put m i v x).pset = s.pset := rfl
@[simp] theorem put_psetNo : (s.put m i v x).psetNo = s.psetNo := rfl
@[simp] theorem put_ledg : (s.put m i v x).ledg = s.ledg := rfl
@[simp] theorem put_telem : (s.put m i v x).telem = s.telem := rfl
@[simp] theorem put_tb : (s.put m i v x).tb = s.tb := rfl
@[simp] theorem put_up : (s.put m i v x).up = s.up := rfl
@[simp] theorem put_bk : (s.put m i v x).bk = s.bk := rfl
@[simp] theorem put_otp : (s.put m i v x).otp = s.otp := rfl
@[simp] theorem put_mram : (s.put m i v x).mram = s.mram := rfl
@[simp] theorem put_sec : (s.put m i v x).sec = s.sec := rfl
@[simp] theorem put_pow : (s.put m i v x).pow = s.pow := rfl
@[simp] theorem put_ex : (s.put m i v x).ex = s.ex := rfl
@[simp] theorem put_commitDue : (s.put m i v x).commitDue = s.commitDue := rfl
@[simp] theorem put_stale : (s.put m i v x).stale = s.stale := rfl
@[simp] theorem put_legs : (s.put m i v x).legs = s.legs := rfl
@[simp] theorem put_stages : (s.put m i v x).stages = s.stages := rfl
@[simp] theorem put_trips : (s.put m i v x).trips = s.trips := rfl
@[simp] theorem put_sdTrip : (s.put m i v x).sdTrip = s.sdTrip := rfl
@[simp] theorem put_links : (s.put m i v x).links = s.links := rfl
@[simp] theorem put_slotx : (s.put m i v x).slotx = s.slotx := rfl
@[simp] theorem put_cellc : (s.put m i v x).cellc = s.cellc := rfl
@[simp] theorem put_fixedPt : (s.put m i v x).fixedPt = s.fixedPt := rfl
@[simp] theorem put_convx : (s.put m i v x).convx = s.convx := rfl
@[simp] theorem put_armx : (s.put m i v x).armx = s.armx := rfl
@[simp] theorem put_cellx : (s.put m i v x).cellx = s.cellx := rfl
@[simp] theorem put_machx : (s.put m i v x).machx = s.machx := rfl
@[simp] theorem put_dioOut : (s.put m i v x).dioOut = s.dioOut := rfl
@[simp] theorem put_stops : (s.put m i v x).stops = s.stops := rfl
@[simp] theorem put_axstop : (s.put m i v x).axstop = s.axstop := rfl
@[simp] theorem put_sto : (s.put m i v x).sto = s.sto := rfl
@[simp] theorem put_supp : (s.put m i v x).supp = s.supp := rfl
@[simp] theorem put_axReq : (s.put m i v x).axReq = s.axReq := rfl
@[simp] theorem put_diox : (s.put m i v x).diox = s.diox := rfl
@[simp] theorem put_fbx : (s.put m i v x).fbx = s.fbx := rfl
@[simp] theorem put_cmpx : (s.put m i v x).cmpx = s.cmpx := rfl
@[simp] theorem put_eox : (s.put m i v x).eox = s.eox := rfl
@[simp] theorem put_late : (s.put m i v x).late = s.late := rfl
@[simp] theorem put_evWait : (s.put m i v x).evWait = s.evWait := rfl
@[simp] theorem put_sdx : (s.put m i v x).sdx = s.sdx := rfl
@[simp] theorem put_ainx : (s.put m i v x).ainx = s.ainx := rfl
@[simp] theorem put_sarDue : (s.put m i v x).sarDue = s.sarDue := rfl
@[simp] theorem put_loopx : (s.put m i v x).loopx = s.loopx := rfl
@[simp] theorem put_axisx : (s.put m i v x).axisx = s.axisx := rfl
@[simp] theorem put_ffx : (s.put m i v x).ffx = s.ffx := rfl
@[simp] theorem put_canx : (s.put m i v x).canx = s.canx := rfl
@[simp] theorem put_canPaused : (s.put m i v x).canPaused = s.canPaused := rfl
@[simp] theorem put_urgDue : (s.put m i v x).urgDue = s.urgDue := rfl
@[simp] theorem put_partx : (s.put m i v x).partx = s.partx := rfl
@[simp] theorem put_tunes : (s.put m i v x).tunes = s.tunes := rfl
@[simp] theorem put_tracex : (s.put m i v x).tracex = s.tracex := rfl
@[simp] theorem put_trport : (s.put m i v x).trport = s.trport := rfl
@[simp] theorem put_evSeen : (s.put m i v x).evSeen = s.evSeen := rfl
@[simp] theorem put_regs : (s.put m i v x).regs = s.regs := rfl
@[simp] theorem put_free : (s.put m i v x).free = s.free := rfl
@[simp] theorem put_pending : (s.put m i v x).pending = s.pending := rfl
end

/-! `setTrace` -/

section
variable (u : Nat) (x : TraceX)
@[simp] theorem setTrace_objs : (s.setTrace u x).objs = s.objs := rfl
@[simp] theorem setTrace_rings : (s.setTrace u x).rings = s.rings := rfl
@[simp] theorem setTrace_tile : (s.setTrace u x).tile = s.tile := rfl
@[simp] theorem setTrace_badTags : (s.setTrace u x).badTags = s.badTags := rfl
@[simp] theorem setTrace_stores : (s.setTrace u x).stores = s.stores := rfl
@[simp] theorem setTrace_sram : (s.setTrace u x).sram = s.sram := rfl
@[simp] theorem setTrace_ports : (s.setTrace u x).ports = s.ports := rfl
@[simp] theorem setTrace_evPend : (s.setTrace u x).evPend = s.evPend := rfl
@[simp] theorem setTrace_routes : (s.setTrace u x).routes = s.routes := rfl
@[simp] theorem setTrace_hcfg : (s.setTrace u x).hcfg = s.hcfg := rfl
@[simp] theorem setTrace_alarms : (s.setTrace u x).alarms = s.alarms := rfl
@[simp] theorem setTrace_aseq : (s.setTrace u x).aseq = s.aseq := rfl
@[simp] theorem setTrace_sarOff : (s.setTrace u x).sarOff = s.sarOff := rfl
@[simp] theorem setTrace_sarGain : (s.setTrace u x).sarGain = s.sarGain := rfl
@[simp] theorem setTrace_newest : (s.setTrace u x).newest = s.newest := rfl
@[simp] theorem setTrace_dups : (s.setTrace u x).dups = s.dups := rfl
@[simp] theorem setTrace_served : (s.setTrace u x).served = s.served := rfl
@[simp] theorem setTrace_defers : (s.setTrace u x).defers = s.defers := rfl
@[simp] theorem setTrace_pset : (s.setTrace u x).pset = s.pset := rfl
@[simp] theorem setTrace_psetNo : (s.setTrace u x).psetNo = s.psetNo := rfl
@[simp] theorem setTrace_ledg : (s.setTrace u x).ledg = s.ledg := rfl
@[simp] theorem setTrace_telem : (s.setTrace u x).telem = s.telem := rfl
@[simp] theorem setTrace_tb : (s.setTrace u x).tb = s.tb := rfl
@[simp] theorem setTrace_up : (s.setTrace u x).up = s.up := rfl
@[simp] theorem setTrace_bk : (s.setTrace u x).bk = s.bk := rfl
@[simp] theorem setTrace_otp : (s.setTrace u x).otp = s.otp := rfl
@[simp] theorem setTrace_mram : (s.setTrace u x).mram = s.mram := rfl
@[simp] theorem setTrace_sec : (s.setTrace u x).sec = s.sec := rfl
@[simp] theorem setTrace_pow : (s.setTrace u x).pow = s.pow := rfl
@[simp] theorem setTrace_ex : (s.setTrace u x).ex = s.ex := rfl
@[simp] theorem setTrace_commitDue : (s.setTrace u x).commitDue = s.commitDue := rfl
@[simp] theorem setTrace_stale : (s.setTrace u x).stale = s.stale := rfl
@[simp] theorem setTrace_legs : (s.setTrace u x).legs = s.legs := rfl
@[simp] theorem setTrace_stages : (s.setTrace u x).stages = s.stages := rfl
@[simp] theorem setTrace_trips : (s.setTrace u x).trips = s.trips := rfl
@[simp] theorem setTrace_sdTrip : (s.setTrace u x).sdTrip = s.sdTrip := rfl
@[simp] theorem setTrace_links : (s.setTrace u x).links = s.links := rfl
@[simp] theorem setTrace_slotx : (s.setTrace u x).slotx = s.slotx := rfl
@[simp] theorem setTrace_cellc : (s.setTrace u x).cellc = s.cellc := rfl
@[simp] theorem setTrace_fixedPt : (s.setTrace u x).fixedPt = s.fixedPt := rfl
@[simp] theorem setTrace_convx : (s.setTrace u x).convx = s.convx := rfl
@[simp] theorem setTrace_armx : (s.setTrace u x).armx = s.armx := rfl
@[simp] theorem setTrace_cellx : (s.setTrace u x).cellx = s.cellx := rfl
@[simp] theorem setTrace_machx : (s.setTrace u x).machx = s.machx := rfl
@[simp] theorem setTrace_dioOut : (s.setTrace u x).dioOut = s.dioOut := rfl
@[simp] theorem setTrace_stops : (s.setTrace u x).stops = s.stops := rfl
@[simp] theorem setTrace_axstop : (s.setTrace u x).axstop = s.axstop := rfl
@[simp] theorem setTrace_sto : (s.setTrace u x).sto = s.sto := rfl
@[simp] theorem setTrace_supp : (s.setTrace u x).supp = s.supp := rfl
@[simp] theorem setTrace_axReq : (s.setTrace u x).axReq = s.axReq := rfl
@[simp] theorem setTrace_diox : (s.setTrace u x).diox = s.diox := rfl
@[simp] theorem setTrace_fbx : (s.setTrace u x).fbx = s.fbx := rfl
@[simp] theorem setTrace_cmpx : (s.setTrace u x).cmpx = s.cmpx := rfl
@[simp] theorem setTrace_eox : (s.setTrace u x).eox = s.eox := rfl
@[simp] theorem setTrace_late : (s.setTrace u x).late = s.late := rfl
@[simp] theorem setTrace_evWait : (s.setTrace u x).evWait = s.evWait := rfl
@[simp] theorem setTrace_sdx : (s.setTrace u x).sdx = s.sdx := rfl
@[simp] theorem setTrace_ainx : (s.setTrace u x).ainx = s.ainx := rfl
@[simp] theorem setTrace_sarDue : (s.setTrace u x).sarDue = s.sarDue := rfl
@[simp] theorem setTrace_loopx : (s.setTrace u x).loopx = s.loopx := rfl
@[simp] theorem setTrace_axisx : (s.setTrace u x).axisx = s.axisx := rfl
@[simp] theorem setTrace_ffx : (s.setTrace u x).ffx = s.ffx := rfl
@[simp] theorem setTrace_canx : (s.setTrace u x).canx = s.canx := rfl
@[simp] theorem setTrace_canPaused : (s.setTrace u x).canPaused = s.canPaused := rfl
@[simp] theorem setTrace_urgDue : (s.setTrace u x).urgDue = s.urgDue := rfl
@[simp] theorem setTrace_partx : (s.setTrace u x).partx = s.partx := rfl
@[simp] theorem setTrace_tunes : (s.setTrace u x).tunes = s.tunes := rfl
@[simp] theorem setTrace_tracex : (s.setTrace u x).tracex = s.tracex.put {} u x := rfl
@[simp] theorem setTrace_trport : (s.setTrace u x).trport = s.trport := rfl
@[simp] theorem setTrace_evSeen : (s.setTrace u x).evSeen = s.evSeen := rfl
@[simp] theorem setTrace_regs : (s.setTrace u x).regs = s.regs := rfl
@[simp] theorem setTrace_free : (s.setTrace u x).free = s.free := rfl
@[simp] theorem setTrace_pending : (s.setTrace u x).pending = s.pending := rfl
end

/-! `setRing` -/

section
variable (n : Nat) (r : Ring)
@[simp] theorem setRing_objs : (s.setRing n r).objs = s.objs := rfl
@[simp] theorem setRing_rings : (s.setRing n r).rings = s.rings.put (Ring.dflt n) n r := rfl
@[simp] theorem setRing_tile : (s.setRing n r).tile = s.tile := rfl
@[simp] theorem setRing_badTags : (s.setRing n r).badTags = s.badTags := rfl
@[simp] theorem setRing_stores : (s.setRing n r).stores = s.stores := rfl
@[simp] theorem setRing_sram : (s.setRing n r).sram = s.sram := rfl
@[simp] theorem setRing_ports : (s.setRing n r).ports = s.ports := rfl
@[simp] theorem setRing_evPend : (s.setRing n r).evPend = s.evPend := rfl
@[simp] theorem setRing_routes : (s.setRing n r).routes = s.routes := rfl
@[simp] theorem setRing_hcfg : (s.setRing n r).hcfg = s.hcfg := rfl
@[simp] theorem setRing_alarms : (s.setRing n r).alarms = s.alarms := rfl
@[simp] theorem setRing_aseq : (s.setRing n r).aseq = s.aseq := rfl
@[simp] theorem setRing_sarOff : (s.setRing n r).sarOff = s.sarOff := rfl
@[simp] theorem setRing_sarGain : (s.setRing n r).sarGain = s.sarGain := rfl
@[simp] theorem setRing_newest : (s.setRing n r).newest = s.newest := rfl
@[simp] theorem setRing_dups : (s.setRing n r).dups = s.dups := rfl
@[simp] theorem setRing_served : (s.setRing n r).served = s.served := rfl
@[simp] theorem setRing_defers : (s.setRing n r).defers = s.defers := rfl
@[simp] theorem setRing_pset : (s.setRing n r).pset = s.pset := rfl
@[simp] theorem setRing_psetNo : (s.setRing n r).psetNo = s.psetNo := rfl
@[simp] theorem setRing_ledg : (s.setRing n r).ledg = s.ledg := rfl
@[simp] theorem setRing_telem : (s.setRing n r).telem = s.telem := rfl
@[simp] theorem setRing_tb : (s.setRing n r).tb = s.tb := rfl
@[simp] theorem setRing_up : (s.setRing n r).up = s.up := rfl
@[simp] theorem setRing_bk : (s.setRing n r).bk = s.bk := rfl
@[simp] theorem setRing_otp : (s.setRing n r).otp = s.otp := rfl
@[simp] theorem setRing_mram : (s.setRing n r).mram = s.mram := rfl
@[simp] theorem setRing_sec : (s.setRing n r).sec = s.sec := rfl
@[simp] theorem setRing_pow : (s.setRing n r).pow = s.pow := rfl
@[simp] theorem setRing_ex : (s.setRing n r).ex = s.ex := rfl
@[simp] theorem setRing_commitDue : (s.setRing n r).commitDue = s.commitDue := rfl
@[simp] theorem setRing_stale : (s.setRing n r).stale = s.stale := rfl
@[simp] theorem setRing_legs : (s.setRing n r).legs = s.legs := rfl
@[simp] theorem setRing_stages : (s.setRing n r).stages = s.stages := rfl
@[simp] theorem setRing_trips : (s.setRing n r).trips = s.trips := rfl
@[simp] theorem setRing_sdTrip : (s.setRing n r).sdTrip = s.sdTrip := rfl
@[simp] theorem setRing_links : (s.setRing n r).links = s.links := rfl
@[simp] theorem setRing_slotx : (s.setRing n r).slotx = s.slotx := rfl
@[simp] theorem setRing_cellc : (s.setRing n r).cellc = s.cellc := rfl
@[simp] theorem setRing_fixedPt : (s.setRing n r).fixedPt = s.fixedPt := rfl
@[simp] theorem setRing_convx : (s.setRing n r).convx = s.convx := rfl
@[simp] theorem setRing_armx : (s.setRing n r).armx = s.armx := rfl
@[simp] theorem setRing_cellx : (s.setRing n r).cellx = s.cellx := rfl
@[simp] theorem setRing_machx : (s.setRing n r).machx = s.machx := rfl
@[simp] theorem setRing_dioOut : (s.setRing n r).dioOut = s.dioOut := rfl
@[simp] theorem setRing_stops : (s.setRing n r).stops = s.stops := rfl
@[simp] theorem setRing_axstop : (s.setRing n r).axstop = s.axstop := rfl
@[simp] theorem setRing_sto : (s.setRing n r).sto = s.sto := rfl
@[simp] theorem setRing_supp : (s.setRing n r).supp = s.supp := rfl
@[simp] theorem setRing_axReq : (s.setRing n r).axReq = s.axReq := rfl
@[simp] theorem setRing_diox : (s.setRing n r).diox = s.diox := rfl
@[simp] theorem setRing_fbx : (s.setRing n r).fbx = s.fbx := rfl
@[simp] theorem setRing_cmpx : (s.setRing n r).cmpx = s.cmpx := rfl
@[simp] theorem setRing_eox : (s.setRing n r).eox = s.eox := rfl
@[simp] theorem setRing_late : (s.setRing n r).late = s.late := rfl
@[simp] theorem setRing_evWait : (s.setRing n r).evWait = s.evWait := rfl
@[simp] theorem setRing_sdx : (s.setRing n r).sdx = s.sdx := rfl
@[simp] theorem setRing_ainx : (s.setRing n r).ainx = s.ainx := rfl
@[simp] theorem setRing_sarDue : (s.setRing n r).sarDue = s.sarDue := rfl
@[simp] theorem setRing_loopx : (s.setRing n r).loopx = s.loopx := rfl
@[simp] theorem setRing_axisx : (s.setRing n r).axisx = s.axisx := rfl
@[simp] theorem setRing_ffx : (s.setRing n r).ffx = s.ffx := rfl
@[simp] theorem setRing_canx : (s.setRing n r).canx = s.canx := rfl
@[simp] theorem setRing_canPaused : (s.setRing n r).canPaused = s.canPaused := rfl
@[simp] theorem setRing_urgDue : (s.setRing n r).urgDue = s.urgDue := rfl
@[simp] theorem setRing_partx : (s.setRing n r).partx = s.partx := rfl
@[simp] theorem setRing_tunes : (s.setRing n r).tunes = s.tunes := rfl
@[simp] theorem setRing_tracex : (s.setRing n r).tracex = s.tracex := rfl
@[simp] theorem setRing_trport : (s.setRing n r).trport = s.trport := rfl
@[simp] theorem setRing_evSeen : (s.setRing n r).evSeen = s.evSeen := rfl
@[simp] theorem setRing_regs : (s.setRing n r).regs = s.regs := rfl
@[simp] theorem setRing_free : (s.setRing n r).free = s.free := rfl
@[simp] theorem setRing_pending : (s.setRing n r).pending = s.pending := rfl
end

/-! `setByte` -/

section
variable (a : Nat) (v : Byte)
@[simp] theorem setByte_objs : (s.setByte a v).objs = s.objs := rfl
@[simp] theorem setByte_rings : (s.setByte a v).rings = s.rings := rfl
@[simp] theorem setByte_tile : (s.setByte a v).tile = s.tile.put 0 a v := rfl
@[simp] theorem setByte_badTags : (s.setByte a v).badTags = s.badTags.filter (· != a / 256) := rfl
@[simp] theorem setByte_stores : (s.setByte a v).stores = s.stores := rfl
@[simp] theorem setByte_sram : (s.setByte a v).sram = s.sram := rfl
@[simp] theorem setByte_ports : (s.setByte a v).ports = s.ports := rfl
@[simp] theorem setByte_evPend : (s.setByte a v).evPend = s.evPend := rfl
@[simp] theorem setByte_routes : (s.setByte a v).routes = s.routes := rfl
@[simp] theorem setByte_hcfg : (s.setByte a v).hcfg = s.hcfg := rfl
@[simp] theorem setByte_alarms : (s.setByte a v).alarms = s.alarms := rfl
@[simp] theorem setByte_aseq : (s.setByte a v).aseq = s.aseq := rfl
@[simp] theorem setByte_sarOff : (s.setByte a v).sarOff = s.sarOff := rfl
@[simp] theorem setByte_sarGain : (s.setByte a v).sarGain = s.sarGain := rfl
@[simp] theorem setByte_newest : (s.setByte a v).newest = s.newest := rfl
@[simp] theorem setByte_dups : (s.setByte a v).dups = s.dups := rfl
@[simp] theorem setByte_served : (s.setByte a v).served = s.served := rfl
@[simp] theorem setByte_defers : (s.setByte a v).defers = s.defers := rfl
@[simp] theorem setByte_pset : (s.setByte a v).pset = s.pset := rfl
@[simp] theorem setByte_psetNo : (s.setByte a v).psetNo = s.psetNo := rfl
@[simp] theorem setByte_ledg : (s.setByte a v).ledg = s.ledg := rfl
@[simp] theorem setByte_telem : (s.setByte a v).telem = s.telem := rfl
@[simp] theorem setByte_tb : (s.setByte a v).tb = s.tb := rfl
@[simp] theorem setByte_up : (s.setByte a v).up = s.up := rfl
@[simp] theorem setByte_bk : (s.setByte a v).bk = s.bk := rfl
@[simp] theorem setByte_otp : (s.setByte a v).otp = s.otp := rfl
@[simp] theorem setByte_mram : (s.setByte a v).mram = s.mram := rfl
@[simp] theorem setByte_sec : (s.setByte a v).sec = s.sec := rfl
@[simp] theorem setByte_pow : (s.setByte a v).pow = s.pow := rfl
@[simp] theorem setByte_ex : (s.setByte a v).ex = s.ex := rfl
@[simp] theorem setByte_commitDue : (s.setByte a v).commitDue = s.commitDue := rfl
@[simp] theorem setByte_stale : (s.setByte a v).stale = s.stale := rfl
@[simp] theorem setByte_legs : (s.setByte a v).legs = s.legs := rfl
@[simp] theorem setByte_stages : (s.setByte a v).stages = s.stages := rfl
@[simp] theorem setByte_trips : (s.setByte a v).trips = s.trips := rfl
@[simp] theorem setByte_sdTrip : (s.setByte a v).sdTrip = s.sdTrip := rfl
@[simp] theorem setByte_links : (s.setByte a v).links = s.links := rfl
@[simp] theorem setByte_slotx : (s.setByte a v).slotx = s.slotx := rfl
@[simp] theorem setByte_cellc : (s.setByte a v).cellc = s.cellc := rfl
@[simp] theorem setByte_fixedPt : (s.setByte a v).fixedPt = s.fixedPt := rfl
@[simp] theorem setByte_convx : (s.setByte a v).convx = s.convx := rfl
@[simp] theorem setByte_armx : (s.setByte a v).armx = s.armx := rfl
@[simp] theorem setByte_cellx : (s.setByte a v).cellx = s.cellx := rfl
@[simp] theorem setByte_machx : (s.setByte a v).machx = s.machx := rfl
@[simp] theorem setByte_dioOut : (s.setByte a v).dioOut = s.dioOut := rfl
@[simp] theorem setByte_stops : (s.setByte a v).stops = s.stops := rfl
@[simp] theorem setByte_axstop : (s.setByte a v).axstop = s.axstop := rfl
@[simp] theorem setByte_sto : (s.setByte a v).sto = s.sto := rfl
@[simp] theorem setByte_supp : (s.setByte a v).supp = s.supp := rfl
@[simp] theorem setByte_axReq : (s.setByte a v).axReq = s.axReq := rfl
@[simp] theorem setByte_diox : (s.setByte a v).diox = s.diox := rfl
@[simp] theorem setByte_fbx : (s.setByte a v).fbx = s.fbx := rfl
@[simp] theorem setByte_cmpx : (s.setByte a v).cmpx = s.cmpx := rfl
@[simp] theorem setByte_eox : (s.setByte a v).eox = s.eox := rfl
@[simp] theorem setByte_late : (s.setByte a v).late = s.late := rfl
@[simp] theorem setByte_evWait : (s.setByte a v).evWait = s.evWait := rfl
@[simp] theorem setByte_sdx : (s.setByte a v).sdx = s.sdx := rfl
@[simp] theorem setByte_ainx : (s.setByte a v).ainx = s.ainx := rfl
@[simp] theorem setByte_sarDue : (s.setByte a v).sarDue = s.sarDue := rfl
@[simp] theorem setByte_loopx : (s.setByte a v).loopx = s.loopx := rfl
@[simp] theorem setByte_axisx : (s.setByte a v).axisx = s.axisx := rfl
@[simp] theorem setByte_ffx : (s.setByte a v).ffx = s.ffx := rfl
@[simp] theorem setByte_canx : (s.setByte a v).canx = s.canx := rfl
@[simp] theorem setByte_canPaused : (s.setByte a v).canPaused = s.canPaused := rfl
@[simp] theorem setByte_urgDue : (s.setByte a v).urgDue = s.urgDue := rfl
@[simp] theorem setByte_partx : (s.setByte a v).partx = s.partx := rfl
@[simp] theorem setByte_tunes : (s.setByte a v).tunes = s.tunes := rfl
@[simp] theorem setByte_tracex : (s.setByte a v).tracex = s.tracex := rfl
@[simp] theorem setByte_trport : (s.setByte a v).trport = s.trport := rfl
@[simp] theorem setByte_evSeen : (s.setByte a v).evSeen = s.evSeen := rfl
@[simp] theorem setByte_regs : (s.setByte a v).regs = s.regs := rfl
@[simp] theorem setByte_free : (s.setByte a v).free = s.free := rfl
@[simp] theorem setByte_pending : (s.setByte a v).pending = s.pending := rfl
end

/-! `noteFault` -/

section
variable (cls : Nat) (inst : Nat) (code : Nat)
@[simp] theorem noteFault_objs : (s.noteFault cls inst code).objs = s.objs := rfl
@[simp] theorem noteFault_rings : (s.noteFault cls inst code).rings = s.rings := rfl
@[simp] theorem noteFault_tile : (s.noteFault cls inst code).tile = s.tile := rfl
@[simp] theorem noteFault_badTags : (s.noteFault cls inst code).badTags = s.badTags := rfl
@[simp] theorem noteFault_stores : (s.noteFault cls inst code).stores = s.stores := rfl
@[simp] theorem noteFault_sram : (s.noteFault cls inst code).sram = s.sram := rfl
@[simp] theorem noteFault_ports : (s.noteFault cls inst code).ports = s.ports := rfl
@[simp] theorem noteFault_evPend : (s.noteFault cls inst code).evPend = s.evPend := rfl
@[simp] theorem noteFault_routes : (s.noteFault cls inst code).routes = s.routes := rfl
@[simp] theorem noteFault_hcfg : (s.noteFault cls inst code).hcfg = s.hcfg := rfl
@[simp] theorem noteFault_alarms : (s.noteFault cls inst code).alarms = s.alarms := rfl
@[simp] theorem noteFault_aseq : (s.noteFault cls inst code).aseq = s.aseq := rfl
@[simp] theorem noteFault_sarOff : (s.noteFault cls inst code).sarOff = s.sarOff := rfl
@[simp] theorem noteFault_sarGain : (s.noteFault cls inst code).sarGain = s.sarGain := rfl
@[simp] theorem noteFault_newest : (s.noteFault cls inst code).newest = s.newest.put 0 (cls * 65536 + inst) code := rfl
@[simp] theorem noteFault_dups : (s.noteFault cls inst code).dups = s.dups := rfl
@[simp] theorem noteFault_served : (s.noteFault cls inst code).served = s.served := rfl
@[simp] theorem noteFault_defers : (s.noteFault cls inst code).defers = s.defers := rfl
@[simp] theorem noteFault_pset : (s.noteFault cls inst code).pset = s.pset := rfl
@[simp] theorem noteFault_psetNo : (s.noteFault cls inst code).psetNo = s.psetNo := rfl
@[simp] theorem noteFault_ledg : (s.noteFault cls inst code).ledg = s.ledg := rfl
@[simp] theorem noteFault_telem : (s.noteFault cls inst code).telem = s.telem := rfl
@[simp] theorem noteFault_tb : (s.noteFault cls inst code).tb = s.tb := rfl
@[simp] theorem noteFault_up : (s.noteFault cls inst code).up = s.up := rfl
@[simp] theorem noteFault_bk : (s.noteFault cls inst code).bk = s.bk := rfl
@[simp] theorem noteFault_otp : (s.noteFault cls inst code).otp = s.otp := rfl
@[simp] theorem noteFault_mram : (s.noteFault cls inst code).mram = s.mram := rfl
@[simp] theorem noteFault_sec : (s.noteFault cls inst code).sec = s.sec := rfl
@[simp] theorem noteFault_pow : (s.noteFault cls inst code).pow = s.pow := rfl
@[simp] theorem noteFault_ex : (s.noteFault cls inst code).ex = s.ex := rfl
@[simp] theorem noteFault_commitDue : (s.noteFault cls inst code).commitDue = s.commitDue := rfl
@[simp] theorem noteFault_stale : (s.noteFault cls inst code).stale = s.stale := rfl
@[simp] theorem noteFault_legs : (s.noteFault cls inst code).legs = s.legs := rfl
@[simp] theorem noteFault_stages : (s.noteFault cls inst code).stages = s.stages := rfl
@[simp] theorem noteFault_trips : (s.noteFault cls inst code).trips = s.trips := rfl
@[simp] theorem noteFault_sdTrip : (s.noteFault cls inst code).sdTrip = s.sdTrip := rfl
@[simp] theorem noteFault_links : (s.noteFault cls inst code).links = s.links := rfl
@[simp] theorem noteFault_slotx : (s.noteFault cls inst code).slotx = s.slotx := rfl
@[simp] theorem noteFault_cellc : (s.noteFault cls inst code).cellc = s.cellc := rfl
@[simp] theorem noteFault_fixedPt : (s.noteFault cls inst code).fixedPt = s.fixedPt := rfl
@[simp] theorem noteFault_convx : (s.noteFault cls inst code).convx = s.convx := rfl
@[simp] theorem noteFault_armx : (s.noteFault cls inst code).armx = s.armx := rfl
@[simp] theorem noteFault_cellx : (s.noteFault cls inst code).cellx = s.cellx := rfl
@[simp] theorem noteFault_machx : (s.noteFault cls inst code).machx = s.machx := rfl
@[simp] theorem noteFault_dioOut : (s.noteFault cls inst code).dioOut = s.dioOut := rfl
@[simp] theorem noteFault_stops : (s.noteFault cls inst code).stops = s.stops := rfl
@[simp] theorem noteFault_axstop : (s.noteFault cls inst code).axstop = s.axstop := rfl
@[simp] theorem noteFault_sto : (s.noteFault cls inst code).sto = s.sto := rfl
@[simp] theorem noteFault_supp : (s.noteFault cls inst code).supp = s.supp := rfl
@[simp] theorem noteFault_axReq : (s.noteFault cls inst code).axReq = s.axReq := rfl
@[simp] theorem noteFault_diox : (s.noteFault cls inst code).diox = s.diox := rfl
@[simp] theorem noteFault_fbx : (s.noteFault cls inst code).fbx = s.fbx := rfl
@[simp] theorem noteFault_cmpx : (s.noteFault cls inst code).cmpx = s.cmpx := rfl
@[simp] theorem noteFault_eox : (s.noteFault cls inst code).eox = s.eox := rfl
@[simp] theorem noteFault_late : (s.noteFault cls inst code).late = s.late := rfl
@[simp] theorem noteFault_evWait : (s.noteFault cls inst code).evWait = s.evWait := rfl
@[simp] theorem noteFault_sdx : (s.noteFault cls inst code).sdx = s.sdx := rfl
@[simp] theorem noteFault_ainx : (s.noteFault cls inst code).ainx = s.ainx := rfl
@[simp] theorem noteFault_sarDue : (s.noteFault cls inst code).sarDue = s.sarDue := rfl
@[simp] theorem noteFault_loopx : (s.noteFault cls inst code).loopx = s.loopx := rfl
@[simp] theorem noteFault_axisx : (s.noteFault cls inst code).axisx = s.axisx := rfl
@[simp] theorem noteFault_ffx : (s.noteFault cls inst code).ffx = s.ffx := rfl
@[simp] theorem noteFault_canx : (s.noteFault cls inst code).canx = s.canx := rfl
@[simp] theorem noteFault_canPaused : (s.noteFault cls inst code).canPaused = s.canPaused := rfl
@[simp] theorem noteFault_urgDue : (s.noteFault cls inst code).urgDue = s.urgDue := rfl
@[simp] theorem noteFault_partx : (s.noteFault cls inst code).partx = s.partx := rfl
@[simp] theorem noteFault_tunes : (s.noteFault cls inst code).tunes = s.tunes := rfl
@[simp] theorem noteFault_tracex : (s.noteFault cls inst code).tracex = s.tracex := rfl
@[simp] theorem noteFault_trport : (s.noteFault cls inst code).trport = s.trport := rfl
@[simp] theorem noteFault_evSeen : (s.noteFault cls inst code).evSeen = s.evSeen := rfl
@[simp] theorem noteFault_regs : (s.noteFault cls inst code).regs = s.regs := rfl
@[simp] theorem noteFault_free : (s.noteFault cls inst code).free = s.free := rfl
@[simp] theorem noteFault_pending : (s.noteFault cls inst code).pending = s.pending := rfl
end

/-! `clearFault` -/

section
variable (cls : Nat) (inst : Nat)
@[simp] theorem clearFault_objs : (s.clearFault cls inst).objs = s.objs := rfl
@[simp] theorem clearFault_rings : (s.clearFault cls inst).rings = s.rings := rfl
@[simp] theorem clearFault_tile : (s.clearFault cls inst).tile = s.tile := rfl
@[simp] theorem clearFault_badTags : (s.clearFault cls inst).badTags = s.badTags := rfl
@[simp] theorem clearFault_stores : (s.clearFault cls inst).stores = s.stores := rfl
@[simp] theorem clearFault_sram : (s.clearFault cls inst).sram = s.sram := rfl
@[simp] theorem clearFault_ports : (s.clearFault cls inst).ports = s.ports := rfl
@[simp] theorem clearFault_evPend : (s.clearFault cls inst).evPend = s.evPend := rfl
@[simp] theorem clearFault_routes : (s.clearFault cls inst).routes = s.routes := rfl
@[simp] theorem clearFault_hcfg : (s.clearFault cls inst).hcfg = s.hcfg := rfl
@[simp] theorem clearFault_alarms : (s.clearFault cls inst).alarms = s.alarms := rfl
@[simp] theorem clearFault_aseq : (s.clearFault cls inst).aseq = s.aseq := rfl
@[simp] theorem clearFault_sarOff : (s.clearFault cls inst).sarOff = s.sarOff := rfl
@[simp] theorem clearFault_sarGain : (s.clearFault cls inst).sarGain = s.sarGain := rfl
@[simp] theorem clearFault_newest : (s.clearFault cls inst).newest = s.newest.put 0 (cls * 65536 + inst) 0 := rfl
@[simp] theorem clearFault_dups : (s.clearFault cls inst).dups = s.dups := rfl
@[simp] theorem clearFault_served : (s.clearFault cls inst).served = s.served := rfl
@[simp] theorem clearFault_defers : (s.clearFault cls inst).defers = s.defers := rfl
@[simp] theorem clearFault_pset : (s.clearFault cls inst).pset = s.pset := rfl
@[simp] theorem clearFault_psetNo : (s.clearFault cls inst).psetNo = s.psetNo := rfl
@[simp] theorem clearFault_ledg : (s.clearFault cls inst).ledg = s.ledg := rfl
@[simp] theorem clearFault_telem : (s.clearFault cls inst).telem = s.telem := rfl
@[simp] theorem clearFault_tb : (s.clearFault cls inst).tb = s.tb := rfl
@[simp] theorem clearFault_up : (s.clearFault cls inst).up = s.up := rfl
@[simp] theorem clearFault_bk : (s.clearFault cls inst).bk = s.bk := rfl
@[simp] theorem clearFault_otp : (s.clearFault cls inst).otp = s.otp := rfl
@[simp] theorem clearFault_mram : (s.clearFault cls inst).mram = s.mram := rfl
@[simp] theorem clearFault_sec : (s.clearFault cls inst).sec = s.sec := rfl
@[simp] theorem clearFault_pow : (s.clearFault cls inst).pow = s.pow := rfl
@[simp] theorem clearFault_ex : (s.clearFault cls inst).ex = s.ex := rfl
@[simp] theorem clearFault_commitDue : (s.clearFault cls inst).commitDue = s.commitDue := rfl
@[simp] theorem clearFault_stale : (s.clearFault cls inst).stale = s.stale := rfl
@[simp] theorem clearFault_legs : (s.clearFault cls inst).legs = s.legs := rfl
@[simp] theorem clearFault_stages : (s.clearFault cls inst).stages = s.stages := rfl
@[simp] theorem clearFault_trips : (s.clearFault cls inst).trips = s.trips := rfl
@[simp] theorem clearFault_sdTrip : (s.clearFault cls inst).sdTrip = s.sdTrip := rfl
@[simp] theorem clearFault_links : (s.clearFault cls inst).links = s.links := rfl
@[simp] theorem clearFault_slotx : (s.clearFault cls inst).slotx = s.slotx := rfl
@[simp] theorem clearFault_cellc : (s.clearFault cls inst).cellc = s.cellc := rfl
@[simp] theorem clearFault_fixedPt : (s.clearFault cls inst).fixedPt = s.fixedPt := rfl
@[simp] theorem clearFault_convx : (s.clearFault cls inst).convx = s.convx := rfl
@[simp] theorem clearFault_armx : (s.clearFault cls inst).armx = s.armx := rfl
@[simp] theorem clearFault_cellx : (s.clearFault cls inst).cellx = s.cellx := rfl
@[simp] theorem clearFault_machx : (s.clearFault cls inst).machx = s.machx := rfl
@[simp] theorem clearFault_dioOut : (s.clearFault cls inst).dioOut = s.dioOut := rfl
@[simp] theorem clearFault_stops : (s.clearFault cls inst).stops = s.stops := rfl
@[simp] theorem clearFault_axstop : (s.clearFault cls inst).axstop = s.axstop := rfl
@[simp] theorem clearFault_sto : (s.clearFault cls inst).sto = s.sto := rfl
@[simp] theorem clearFault_supp : (s.clearFault cls inst).supp = s.supp := rfl
@[simp] theorem clearFault_axReq : (s.clearFault cls inst).axReq = s.axReq := rfl
@[simp] theorem clearFault_diox : (s.clearFault cls inst).diox = s.diox := rfl
@[simp] theorem clearFault_fbx : (s.clearFault cls inst).fbx = s.fbx := rfl
@[simp] theorem clearFault_cmpx : (s.clearFault cls inst).cmpx = s.cmpx := rfl
@[simp] theorem clearFault_eox : (s.clearFault cls inst).eox = s.eox := rfl
@[simp] theorem clearFault_late : (s.clearFault cls inst).late = s.late := rfl
@[simp] theorem clearFault_evWait : (s.clearFault cls inst).evWait = s.evWait := rfl
@[simp] theorem clearFault_sdx : (s.clearFault cls inst).sdx = s.sdx := rfl
@[simp] theorem clearFault_ainx : (s.clearFault cls inst).ainx = s.ainx := rfl
@[simp] theorem clearFault_sarDue : (s.clearFault cls inst).sarDue = s.sarDue := rfl
@[simp] theorem clearFault_loopx : (s.clearFault cls inst).loopx = s.loopx := rfl
@[simp] theorem clearFault_axisx : (s.clearFault cls inst).axisx = s.axisx := rfl
@[simp] theorem clearFault_ffx : (s.clearFault cls inst).ffx = s.ffx := rfl
@[simp] theorem clearFault_canx : (s.clearFault cls inst).canx = s.canx := rfl
@[simp] theorem clearFault_canPaused : (s.clearFault cls inst).canPaused = s.canPaused := rfl
@[simp] theorem clearFault_urgDue : (s.clearFault cls inst).urgDue = s.urgDue := rfl
@[simp] theorem clearFault_partx : (s.clearFault cls inst).partx = s.partx := rfl
@[simp] theorem clearFault_tunes : (s.clearFault cls inst).tunes = s.tunes := rfl
@[simp] theorem clearFault_tracex : (s.clearFault cls inst).tracex = s.tracex := rfl
@[simp] theorem clearFault_trport : (s.clearFault cls inst).trport = s.trport := rfl
@[simp] theorem clearFault_evSeen : (s.clearFault cls inst).evSeen = s.evSeen := rfl
@[simp] theorem clearFault_regs : (s.clearFault cls inst).regs = s.regs := rfl
@[simp] theorem clearFault_free : (s.clearFault cls inst).free = s.free := rfl
@[simp] theorem clearFault_pending : (s.clearFault cls inst).pending = s.pending := rfl
end

/-! `setOut` -/

section
variable (k : Nat) (o : OutStage)
@[simp] theorem setOut_objs : (s.setOut k o).objs = s.objs := rfl
@[simp] theorem setOut_rings : (s.setOut k o).rings = s.rings := rfl
@[simp] theorem setOut_tile : (s.setOut k o).tile = s.tile := rfl
@[simp] theorem setOut_badTags : (s.setOut k o).badTags = s.badTags := rfl
@[simp] theorem setOut_stores : (s.setOut k o).stores = s.stores := rfl
@[simp] theorem setOut_sram : (s.setOut k o).sram = s.sram := rfl
@[simp] theorem setOut_ports : (s.setOut k o).ports = s.ports := rfl
@[simp] theorem setOut_evPend : (s.setOut k o).evPend = s.evPend := rfl
@[simp] theorem setOut_routes : (s.setOut k o).routes = s.routes := rfl
@[simp] theorem setOut_hcfg : (s.setOut k o).hcfg = s.hcfg := rfl
@[simp] theorem setOut_alarms : (s.setOut k o).alarms = s.alarms := rfl
@[simp] theorem setOut_aseq : (s.setOut k o).aseq = s.aseq := rfl
@[simp] theorem setOut_sarOff : (s.setOut k o).sarOff = s.sarOff := rfl
@[simp] theorem setOut_sarGain : (s.setOut k o).sarGain = s.sarGain := rfl
@[simp] theorem setOut_newest : (s.setOut k o).newest = s.newest := rfl
@[simp] theorem setOut_dups : (s.setOut k o).dups = s.dups := rfl
@[simp] theorem setOut_served : (s.setOut k o).served = s.served := rfl
@[simp] theorem setOut_defers : (s.setOut k o).defers = s.defers := rfl
@[simp] theorem setOut_pset : (s.setOut k o).pset = s.pset := rfl
@[simp] theorem setOut_psetNo : (s.setOut k o).psetNo = s.psetNo := rfl
@[simp] theorem setOut_ledg : (s.setOut k o).ledg = s.ledg := rfl
@[simp] theorem setOut_telem : (s.setOut k o).telem = s.telem := rfl
@[simp] theorem setOut_tb : (s.setOut k o).tb = s.tb := rfl
@[simp] theorem setOut_up : (s.setOut k o).up = s.up := rfl
@[simp] theorem setOut_bk : (s.setOut k o).bk = s.bk := rfl
@[simp] theorem setOut_otp : (s.setOut k o).otp = s.otp := rfl
@[simp] theorem setOut_mram : (s.setOut k o).mram = s.mram := rfl
@[simp] theorem setOut_sec : (s.setOut k o).sec = s.sec := rfl
@[simp] theorem setOut_pow : (s.setOut k o).pow = s.pow := rfl
@[simp] theorem setOut_ex : (s.setOut k o).ex = { s.ex with outs := s.ex.outs.put {} k o } := rfl
@[simp] theorem setOut_commitDue : (s.setOut k o).commitDue = s.commitDue := rfl
@[simp] theorem setOut_stale : (s.setOut k o).stale = s.stale := rfl
@[simp] theorem setOut_legs : (s.setOut k o).legs = s.legs := rfl
@[simp] theorem setOut_stages : (s.setOut k o).stages = s.stages := rfl
@[simp] theorem setOut_trips : (s.setOut k o).trips = s.trips := rfl
@[simp] theorem setOut_sdTrip : (s.setOut k o).sdTrip = s.sdTrip := rfl
@[simp] theorem setOut_links : (s.setOut k o).links = s.links := rfl
@[simp] theorem setOut_slotx : (s.setOut k o).slotx = s.slotx := rfl
@[simp] theorem setOut_cellc : (s.setOut k o).cellc = s.cellc := rfl
@[simp] theorem setOut_fixedPt : (s.setOut k o).fixedPt = s.fixedPt := rfl
@[simp] theorem setOut_convx : (s.setOut k o).convx = s.convx := rfl
@[simp] theorem setOut_armx : (s.setOut k o).armx = s.armx := rfl
@[simp] theorem setOut_cellx : (s.setOut k o).cellx = s.cellx := rfl
@[simp] theorem setOut_machx : (s.setOut k o).machx = s.machx := rfl
@[simp] theorem setOut_dioOut : (s.setOut k o).dioOut = s.dioOut := rfl
@[simp] theorem setOut_stops : (s.setOut k o).stops = s.stops := rfl
@[simp] theorem setOut_axstop : (s.setOut k o).axstop = s.axstop := rfl
@[simp] theorem setOut_sto : (s.setOut k o).sto = s.sto := rfl
@[simp] theorem setOut_supp : (s.setOut k o).supp = s.supp := rfl
@[simp] theorem setOut_axReq : (s.setOut k o).axReq = s.axReq := rfl
@[simp] theorem setOut_diox : (s.setOut k o).diox = s.diox := rfl
@[simp] theorem setOut_fbx : (s.setOut k o).fbx = s.fbx := rfl
@[simp] theorem setOut_cmpx : (s.setOut k o).cmpx = s.cmpx := rfl
@[simp] theorem setOut_eox : (s.setOut k o).eox = s.eox := rfl
@[simp] theorem setOut_late : (s.setOut k o).late = s.late := rfl
@[simp] theorem setOut_evWait : (s.setOut k o).evWait = s.evWait := rfl
@[simp] theorem setOut_sdx : (s.setOut k o).sdx = s.sdx := rfl
@[simp] theorem setOut_ainx : (s.setOut k o).ainx = s.ainx := rfl
@[simp] theorem setOut_sarDue : (s.setOut k o).sarDue = s.sarDue := rfl
@[simp] theorem setOut_loopx : (s.setOut k o).loopx = s.loopx := rfl
@[simp] theorem setOut_axisx : (s.setOut k o).axisx = s.axisx := rfl
@[simp] theorem setOut_ffx : (s.setOut k o).ffx = s.ffx := rfl
@[simp] theorem setOut_canx : (s.setOut k o).canx = s.canx := rfl
@[simp] theorem setOut_canPaused : (s.setOut k o).canPaused = s.canPaused := rfl
@[simp] theorem setOut_urgDue : (s.setOut k o).urgDue = s.urgDue := rfl
@[simp] theorem setOut_partx : (s.setOut k o).partx = s.partx := rfl
@[simp] theorem setOut_tunes : (s.setOut k o).tunes = s.tunes := rfl
@[simp] theorem setOut_tracex : (s.setOut k o).tracex = s.tracex := rfl
@[simp] theorem setOut_trport : (s.setOut k o).trport = s.trport := rfl
@[simp] theorem setOut_evSeen : (s.setOut k o).evSeen = s.evSeen := rfl
@[simp] theorem setOut_regs : (s.setOut k o).regs = s.regs := rfl
@[simp] theorem setOut_free : (s.setOut k o).free = s.free := rfl
@[simp] theorem setOut_pending : (s.setOut k o).pending = s.pending := rfl
end

/-! `requestState` -/

section
variable (t : Nat)
@[simp] theorem requestState_objs : (s.requestState t).objs = s.objs := rfl
@[simp] theorem requestState_rings : (s.requestState t).rings = s.rings := rfl
@[simp] theorem requestState_tile : (s.requestState t).tile = s.tile := rfl
@[simp] theorem requestState_badTags : (s.requestState t).badTags = s.badTags := rfl
@[simp] theorem requestState_stores : (s.requestState t).stores = s.stores := rfl
@[simp] theorem requestState_sram : (s.requestState t).sram = s.sram := rfl
@[simp] theorem requestState_ports : (s.requestState t).ports = s.ports := rfl
@[simp] theorem requestState_evPend : (s.requestState t).evPend = s.evPend := rfl
@[simp] theorem requestState_routes : (s.requestState t).routes = s.routes := rfl
@[simp] theorem requestState_hcfg : (s.requestState t).hcfg = s.hcfg := rfl
@[simp] theorem requestState_alarms : (s.requestState t).alarms = s.alarms := rfl
@[simp] theorem requestState_aseq : (s.requestState t).aseq = s.aseq := rfl
@[simp] theorem requestState_sarOff : (s.requestState t).sarOff = s.sarOff := rfl
@[simp] theorem requestState_sarGain : (s.requestState t).sarGain = s.sarGain := rfl
@[simp] theorem requestState_newest : (s.requestState t).newest = s.newest := rfl
@[simp] theorem requestState_dups : (s.requestState t).dups = s.dups := rfl
@[simp] theorem requestState_served : (s.requestState t).served = s.served := rfl
@[simp] theorem requestState_defers : (s.requestState t).defers = s.defers := rfl
@[simp] theorem requestState_pset : (s.requestState t).pset = s.pset := rfl
@[simp] theorem requestState_psetNo : (s.requestState t).psetNo = s.psetNo := rfl
@[simp] theorem requestState_ledg : (s.requestState t).ledg = s.ledg := rfl
@[simp] theorem requestState_telem : (s.requestState t).telem = s.telem := rfl
@[simp] theorem requestState_tb : (s.requestState t).tb = s.tb := rfl
@[simp] theorem requestState_up : (s.requestState t).up = s.up := rfl
@[simp] theorem requestState_bk : (s.requestState t).bk = s.bk := rfl
@[simp] theorem requestState_otp : (s.requestState t).otp = s.otp := rfl
@[simp] theorem requestState_mram : (s.requestState t).mram = s.mram := rfl
@[simp] theorem requestState_sec : (s.requestState t).sec = s.sec := rfl
@[simp] theorem requestState_pow : (s.requestState t).pow = { s.pow with target := t, moving := true } := rfl
@[simp] theorem requestState_ex : (s.requestState t).ex = s.ex := rfl
@[simp] theorem requestState_commitDue : (s.requestState t).commitDue = s.commitDue := rfl
@[simp] theorem requestState_stale : (s.requestState t).stale = s.stale := rfl
@[simp] theorem requestState_legs : (s.requestState t).legs = s.legs := rfl
@[simp] theorem requestState_stages : (s.requestState t).stages = s.stages := rfl
@[simp] theorem requestState_trips : (s.requestState t).trips = s.trips := rfl
@[simp] theorem requestState_sdTrip : (s.requestState t).sdTrip = s.sdTrip := rfl
@[simp] theorem requestState_links : (s.requestState t).links = s.links := rfl
@[simp] theorem requestState_slotx : (s.requestState t).slotx = s.slotx := rfl
@[simp] theorem requestState_cellc : (s.requestState t).cellc = s.cellc := rfl
@[simp] theorem requestState_fixedPt : (s.requestState t).fixedPt = s.fixedPt := rfl
@[simp] theorem requestState_convx : (s.requestState t).convx = s.convx := rfl
@[simp] theorem requestState_armx : (s.requestState t).armx = s.armx := rfl
@[simp] theorem requestState_cellx : (s.requestState t).cellx = s.cellx := rfl
@[simp] theorem requestState_machx : (s.requestState t).machx = s.machx := rfl
@[simp] theorem requestState_dioOut : (s.requestState t).dioOut = s.dioOut := rfl
@[simp] theorem requestState_stops : (s.requestState t).stops = s.stops := rfl
@[simp] theorem requestState_axstop : (s.requestState t).axstop = s.axstop := rfl
@[simp] theorem requestState_sto : (s.requestState t).sto = s.sto := rfl
@[simp] theorem requestState_supp : (s.requestState t).supp = s.supp := rfl
@[simp] theorem requestState_axReq : (s.requestState t).axReq = s.axReq := rfl
@[simp] theorem requestState_diox : (s.requestState t).diox = s.diox := rfl
@[simp] theorem requestState_fbx : (s.requestState t).fbx = s.fbx := rfl
@[simp] theorem requestState_cmpx : (s.requestState t).cmpx = s.cmpx := rfl
@[simp] theorem requestState_eox : (s.requestState t).eox = s.eox := rfl
@[simp] theorem requestState_late : (s.requestState t).late = s.late := rfl
@[simp] theorem requestState_evWait : (s.requestState t).evWait = s.evWait := rfl
@[simp] theorem requestState_sdx : (s.requestState t).sdx = s.sdx := rfl
@[simp] theorem requestState_ainx : (s.requestState t).ainx = s.ainx := rfl
@[simp] theorem requestState_sarDue : (s.requestState t).sarDue = s.sarDue := rfl
@[simp] theorem requestState_loopx : (s.requestState t).loopx = s.loopx := rfl
@[simp] theorem requestState_axisx : (s.requestState t).axisx = s.axisx := rfl
@[simp] theorem requestState_ffx : (s.requestState t).ffx = s.ffx := rfl
@[simp] theorem requestState_canx : (s.requestState t).canx = s.canx := rfl
@[simp] theorem requestState_canPaused : (s.requestState t).canPaused = s.canPaused := rfl
@[simp] theorem requestState_urgDue : (s.requestState t).urgDue = s.urgDue := rfl
@[simp] theorem requestState_partx : (s.requestState t).partx = s.partx := rfl
@[simp] theorem requestState_tunes : (s.requestState t).tunes = s.tunes := rfl
@[simp] theorem requestState_tracex : (s.requestState t).tracex = s.tracex := rfl
@[simp] theorem requestState_trport : (s.requestState t).trport = s.trport := rfl
@[simp] theorem requestState_evSeen : (s.requestState t).evSeen = s.evSeen := rfl
@[simp] theorem requestState_regs : (s.requestState t).regs = s.regs := rfl
@[simp] theorem requestState_free : (s.requestState t).free = s.free := rfl
@[simp] theorem requestState_pending : (s.requestState t).pending = s.pending := rfl
end

/-! `setLoopX` -/

section
variable (n : Nat) (x : LoopX)
@[simp] theorem setLoopX_objs : (s.setLoopX n x).objs = s.objs := rfl
@[simp] theorem setLoopX_rings : (s.setLoopX n x).rings = s.rings := rfl
@[simp] theorem setLoopX_tile : (s.setLoopX n x).tile = s.tile := rfl
@[simp] theorem setLoopX_badTags : (s.setLoopX n x).badTags = s.badTags := rfl
@[simp] theorem setLoopX_stores : (s.setLoopX n x).stores = s.stores := rfl
@[simp] theorem setLoopX_sram : (s.setLoopX n x).sram = s.sram := rfl
@[simp] theorem setLoopX_ports : (s.setLoopX n x).ports = s.ports := rfl
@[simp] theorem setLoopX_evPend : (s.setLoopX n x).evPend = s.evPend := rfl
@[simp] theorem setLoopX_routes : (s.setLoopX n x).routes = s.routes := rfl
@[simp] theorem setLoopX_hcfg : (s.setLoopX n x).hcfg = s.hcfg := rfl
@[simp] theorem setLoopX_alarms : (s.setLoopX n x).alarms = s.alarms := rfl
@[simp] theorem setLoopX_aseq : (s.setLoopX n x).aseq = s.aseq := rfl
@[simp] theorem setLoopX_sarOff : (s.setLoopX n x).sarOff = s.sarOff := rfl
@[simp] theorem setLoopX_sarGain : (s.setLoopX n x).sarGain = s.sarGain := rfl
@[simp] theorem setLoopX_newest : (s.setLoopX n x).newest = s.newest := rfl
@[simp] theorem setLoopX_dups : (s.setLoopX n x).dups = s.dups := rfl
@[simp] theorem setLoopX_served : (s.setLoopX n x).served = s.served := rfl
@[simp] theorem setLoopX_defers : (s.setLoopX n x).defers = s.defers := rfl
@[simp] theorem setLoopX_pset : (s.setLoopX n x).pset = s.pset := rfl
@[simp] theorem setLoopX_psetNo : (s.setLoopX n x).psetNo = s.psetNo := rfl
@[simp] theorem setLoopX_ledg : (s.setLoopX n x).ledg = s.ledg := rfl
@[simp] theorem setLoopX_telem : (s.setLoopX n x).telem = s.telem := rfl
@[simp] theorem setLoopX_tb : (s.setLoopX n x).tb = s.tb := rfl
@[simp] theorem setLoopX_up : (s.setLoopX n x).up = s.up := rfl
@[simp] theorem setLoopX_bk : (s.setLoopX n x).bk = s.bk := rfl
@[simp] theorem setLoopX_otp : (s.setLoopX n x).otp = s.otp := rfl
@[simp] theorem setLoopX_mram : (s.setLoopX n x).mram = s.mram := rfl
@[simp] theorem setLoopX_sec : (s.setLoopX n x).sec = s.sec := rfl
@[simp] theorem setLoopX_pow : (s.setLoopX n x).pow = s.pow := rfl
@[simp] theorem setLoopX_ex : (s.setLoopX n x).ex = s.ex := rfl
@[simp] theorem setLoopX_commitDue : (s.setLoopX n x).commitDue = s.commitDue := rfl
@[simp] theorem setLoopX_stale : (s.setLoopX n x).stale = s.stale := rfl
@[simp] theorem setLoopX_legs : (s.setLoopX n x).legs = s.legs := rfl
@[simp] theorem setLoopX_stages : (s.setLoopX n x).stages = s.stages := rfl
@[simp] theorem setLoopX_trips : (s.setLoopX n x).trips = s.trips := rfl
@[simp] theorem setLoopX_sdTrip : (s.setLoopX n x).sdTrip = s.sdTrip := rfl
@[simp] theorem setLoopX_links : (s.setLoopX n x).links = s.links := rfl
@[simp] theorem setLoopX_slotx : (s.setLoopX n x).slotx = s.slotx := rfl
@[simp] theorem setLoopX_cellc : (s.setLoopX n x).cellc = s.cellc := rfl
@[simp] theorem setLoopX_fixedPt : (s.setLoopX n x).fixedPt = s.fixedPt := rfl
@[simp] theorem setLoopX_convx : (s.setLoopX n x).convx = s.convx := rfl
@[simp] theorem setLoopX_armx : (s.setLoopX n x).armx = s.armx := rfl
@[simp] theorem setLoopX_cellx : (s.setLoopX n x).cellx = s.cellx := rfl
@[simp] theorem setLoopX_machx : (s.setLoopX n x).machx = s.machx := rfl
@[simp] theorem setLoopX_dioOut : (s.setLoopX n x).dioOut = s.dioOut := rfl
@[simp] theorem setLoopX_stops : (s.setLoopX n x).stops = s.stops := rfl
@[simp] theorem setLoopX_axstop : (s.setLoopX n x).axstop = s.axstop := rfl
@[simp] theorem setLoopX_sto : (s.setLoopX n x).sto = s.sto := rfl
@[simp] theorem setLoopX_supp : (s.setLoopX n x).supp = s.supp := rfl
@[simp] theorem setLoopX_axReq : (s.setLoopX n x).axReq = s.axReq := rfl
@[simp] theorem setLoopX_diox : (s.setLoopX n x).diox = s.diox := rfl
@[simp] theorem setLoopX_fbx : (s.setLoopX n x).fbx = s.fbx := rfl
@[simp] theorem setLoopX_cmpx : (s.setLoopX n x).cmpx = s.cmpx := rfl
@[simp] theorem setLoopX_eox : (s.setLoopX n x).eox = s.eox := rfl
@[simp] theorem setLoopX_late : (s.setLoopX n x).late = s.late := rfl
@[simp] theorem setLoopX_evWait : (s.setLoopX n x).evWait = s.evWait := rfl
@[simp] theorem setLoopX_sdx : (s.setLoopX n x).sdx = s.sdx := rfl
@[simp] theorem setLoopX_ainx : (s.setLoopX n x).ainx = s.ainx := rfl
@[simp] theorem setLoopX_sarDue : (s.setLoopX n x).sarDue = s.sarDue := rfl
@[simp] theorem setLoopX_loopx : (s.setLoopX n x).loopx = s.loopx.put {} n x := rfl
@[simp] theorem setLoopX_axisx : (s.setLoopX n x).axisx = s.axisx := rfl
@[simp] theorem setLoopX_ffx : (s.setLoopX n x).ffx = s.ffx := rfl
@[simp] theorem setLoopX_canx : (s.setLoopX n x).canx = s.canx := rfl
@[simp] theorem setLoopX_canPaused : (s.setLoopX n x).canPaused = s.canPaused := rfl
@[simp] theorem setLoopX_urgDue : (s.setLoopX n x).urgDue = s.urgDue := rfl
@[simp] theorem setLoopX_partx : (s.setLoopX n x).partx = s.partx := rfl
@[simp] theorem setLoopX_tunes : (s.setLoopX n x).tunes = s.tunes := rfl
@[simp] theorem setLoopX_tracex : (s.setLoopX n x).tracex = s.tracex := rfl
@[simp] theorem setLoopX_trport : (s.setLoopX n x).trport = s.trport := rfl
@[simp] theorem setLoopX_evSeen : (s.setLoopX n x).evSeen = s.evSeen := rfl
@[simp] theorem setLoopX_regs : (s.setLoopX n x).regs = s.regs := rfl
@[simp] theorem setLoopX_free : (s.setLoopX n x).free = s.free := rfl
@[simp] theorem setLoopX_pending : (s.setLoopX n x).pending = s.pending := rfl
end

/-! `setAxisX` -/

section
variable (x : Nat) (q : AxisX)
@[simp] theorem setAxisX_objs : (s.setAxisX x q).objs = s.objs := rfl
@[simp] theorem setAxisX_rings : (s.setAxisX x q).rings = s.rings := rfl
@[simp] theorem setAxisX_tile : (s.setAxisX x q).tile = s.tile := rfl
@[simp] theorem setAxisX_badTags : (s.setAxisX x q).badTags = s.badTags := rfl
@[simp] theorem setAxisX_stores : (s.setAxisX x q).stores = s.stores := rfl
@[simp] theorem setAxisX_sram : (s.setAxisX x q).sram = s.sram := rfl
@[simp] theorem setAxisX_ports : (s.setAxisX x q).ports = s.ports := rfl
@[simp] theorem setAxisX_evPend : (s.setAxisX x q).evPend = s.evPend := rfl
@[simp] theorem setAxisX_routes : (s.setAxisX x q).routes = s.routes := rfl
@[simp] theorem setAxisX_hcfg : (s.setAxisX x q).hcfg = s.hcfg := rfl
@[simp] theorem setAxisX_alarms : (s.setAxisX x q).alarms = s.alarms := rfl
@[simp] theorem setAxisX_aseq : (s.setAxisX x q).aseq = s.aseq := rfl
@[simp] theorem setAxisX_sarOff : (s.setAxisX x q).sarOff = s.sarOff := rfl
@[simp] theorem setAxisX_sarGain : (s.setAxisX x q).sarGain = s.sarGain := rfl
@[simp] theorem setAxisX_newest : (s.setAxisX x q).newest = s.newest := rfl
@[simp] theorem setAxisX_dups : (s.setAxisX x q).dups = s.dups := rfl
@[simp] theorem setAxisX_served : (s.setAxisX x q).served = s.served := rfl
@[simp] theorem setAxisX_defers : (s.setAxisX x q).defers = s.defers := rfl
@[simp] theorem setAxisX_pset : (s.setAxisX x q).pset = s.pset := rfl
@[simp] theorem setAxisX_psetNo : (s.setAxisX x q).psetNo = s.psetNo := rfl
@[simp] theorem setAxisX_ledg : (s.setAxisX x q).ledg = s.ledg := rfl
@[simp] theorem setAxisX_telem : (s.setAxisX x q).telem = s.telem := rfl
@[simp] theorem setAxisX_tb : (s.setAxisX x q).tb = s.tb := rfl
@[simp] theorem setAxisX_up : (s.setAxisX x q).up = s.up := rfl
@[simp] theorem setAxisX_bk : (s.setAxisX x q).bk = s.bk := rfl
@[simp] theorem setAxisX_otp : (s.setAxisX x q).otp = s.otp := rfl
@[simp] theorem setAxisX_mram : (s.setAxisX x q).mram = s.mram := rfl
@[simp] theorem setAxisX_sec : (s.setAxisX x q).sec = s.sec := rfl
@[simp] theorem setAxisX_pow : (s.setAxisX x q).pow = s.pow := rfl
@[simp] theorem setAxisX_ex : (s.setAxisX x q).ex = s.ex := rfl
@[simp] theorem setAxisX_commitDue : (s.setAxisX x q).commitDue = s.commitDue := rfl
@[simp] theorem setAxisX_stale : (s.setAxisX x q).stale = s.stale := rfl
@[simp] theorem setAxisX_legs : (s.setAxisX x q).legs = s.legs := rfl
@[simp] theorem setAxisX_stages : (s.setAxisX x q).stages = s.stages := rfl
@[simp] theorem setAxisX_trips : (s.setAxisX x q).trips = s.trips := rfl
@[simp] theorem setAxisX_sdTrip : (s.setAxisX x q).sdTrip = s.sdTrip := rfl
@[simp] theorem setAxisX_links : (s.setAxisX x q).links = s.links := rfl
@[simp] theorem setAxisX_slotx : (s.setAxisX x q).slotx = s.slotx := rfl
@[simp] theorem setAxisX_cellc : (s.setAxisX x q).cellc = s.cellc := rfl
@[simp] theorem setAxisX_fixedPt : (s.setAxisX x q).fixedPt = s.fixedPt := rfl
@[simp] theorem setAxisX_convx : (s.setAxisX x q).convx = s.convx := rfl
@[simp] theorem setAxisX_armx : (s.setAxisX x q).armx = s.armx := rfl
@[simp] theorem setAxisX_cellx : (s.setAxisX x q).cellx = s.cellx := rfl
@[simp] theorem setAxisX_machx : (s.setAxisX x q).machx = s.machx := rfl
@[simp] theorem setAxisX_dioOut : (s.setAxisX x q).dioOut = s.dioOut := rfl
@[simp] theorem setAxisX_stops : (s.setAxisX x q).stops = s.stops := rfl
@[simp] theorem setAxisX_axstop : (s.setAxisX x q).axstop = s.axstop := rfl
@[simp] theorem setAxisX_sto : (s.setAxisX x q).sto = s.sto := rfl
@[simp] theorem setAxisX_supp : (s.setAxisX x q).supp = s.supp := rfl
@[simp] theorem setAxisX_axReq : (s.setAxisX x q).axReq = s.axReq := rfl
@[simp] theorem setAxisX_diox : (s.setAxisX x q).diox = s.diox := rfl
@[simp] theorem setAxisX_fbx : (s.setAxisX x q).fbx = s.fbx := rfl
@[simp] theorem setAxisX_cmpx : (s.setAxisX x q).cmpx = s.cmpx := rfl
@[simp] theorem setAxisX_eox : (s.setAxisX x q).eox = s.eox := rfl
@[simp] theorem setAxisX_late : (s.setAxisX x q).late = s.late := rfl
@[simp] theorem setAxisX_evWait : (s.setAxisX x q).evWait = s.evWait := rfl
@[simp] theorem setAxisX_sdx : (s.setAxisX x q).sdx = s.sdx := rfl
@[simp] theorem setAxisX_ainx : (s.setAxisX x q).ainx = s.ainx := rfl
@[simp] theorem setAxisX_sarDue : (s.setAxisX x q).sarDue = s.sarDue := rfl
@[simp] theorem setAxisX_loopx : (s.setAxisX x q).loopx = s.loopx := rfl
@[simp] theorem setAxisX_axisx : (s.setAxisX x q).axisx = s.axisx.put {} x q := rfl
@[simp] theorem setAxisX_ffx : (s.setAxisX x q).ffx = s.ffx := rfl
@[simp] theorem setAxisX_canx : (s.setAxisX x q).canx = s.canx := rfl
@[simp] theorem setAxisX_canPaused : (s.setAxisX x q).canPaused = s.canPaused := rfl
@[simp] theorem setAxisX_urgDue : (s.setAxisX x q).urgDue = s.urgDue := rfl
@[simp] theorem setAxisX_partx : (s.setAxisX x q).partx = s.partx := rfl
@[simp] theorem setAxisX_tunes : (s.setAxisX x q).tunes = s.tunes := rfl
@[simp] theorem setAxisX_tracex : (s.setAxisX x q).tracex = s.tracex := rfl
@[simp] theorem setAxisX_trport : (s.setAxisX x q).trport = s.trport := rfl
@[simp] theorem setAxisX_evSeen : (s.setAxisX x q).evSeen = s.evSeen := rfl
@[simp] theorem setAxisX_regs : (s.setAxisX x q).regs = s.regs := rfl
@[simp] theorem setAxisX_free : (s.setAxisX x q).free = s.free := rfl
@[simp] theorem setAxisX_pending : (s.setAxisX x q).pending = s.pending := rfl
end

/-! `setTune` -/

section
variable (n : Nat) (t : TuneX)
@[simp] theorem setTune_objs : (s.setTune n t).objs = s.objs := rfl
@[simp] theorem setTune_rings : (s.setTune n t).rings = s.rings := rfl
@[simp] theorem setTune_tile : (s.setTune n t).tile = s.tile := rfl
@[simp] theorem setTune_badTags : (s.setTune n t).badTags = s.badTags := rfl
@[simp] theorem setTune_stores : (s.setTune n t).stores = s.stores := rfl
@[simp] theorem setTune_sram : (s.setTune n t).sram = s.sram := rfl
@[simp] theorem setTune_ports : (s.setTune n t).ports = s.ports := rfl
@[simp] theorem setTune_evPend : (s.setTune n t).evPend = s.evPend := rfl
@[simp] theorem setTune_routes : (s.setTune n t).routes = s.routes := rfl
@[simp] theorem setTune_hcfg : (s.setTune n t).hcfg = s.hcfg := rfl
@[simp] theorem setTune_alarms : (s.setTune n t).alarms = s.alarms := rfl
@[simp] theorem setTune_aseq : (s.setTune n t).aseq = s.aseq := rfl
@[simp] theorem setTune_sarOff : (s.setTune n t).sarOff = s.sarOff := rfl
@[simp] theorem setTune_sarGain : (s.setTune n t).sarGain = s.sarGain := rfl
@[simp] theorem setTune_newest : (s.setTune n t).newest = s.newest := rfl
@[simp] theorem setTune_dups : (s.setTune n t).dups = s.dups := rfl
@[simp] theorem setTune_served : (s.setTune n t).served = s.served := rfl
@[simp] theorem setTune_defers : (s.setTune n t).defers = s.defers := rfl
@[simp] theorem setTune_pset : (s.setTune n t).pset = s.pset := rfl
@[simp] theorem setTune_psetNo : (s.setTune n t).psetNo = s.psetNo := rfl
@[simp] theorem setTune_ledg : (s.setTune n t).ledg = s.ledg := rfl
@[simp] theorem setTune_telem : (s.setTune n t).telem = s.telem := rfl
@[simp] theorem setTune_tb : (s.setTune n t).tb = s.tb := rfl
@[simp] theorem setTune_up : (s.setTune n t).up = s.up := rfl
@[simp] theorem setTune_bk : (s.setTune n t).bk = s.bk := rfl
@[simp] theorem setTune_otp : (s.setTune n t).otp = s.otp := rfl
@[simp] theorem setTune_mram : (s.setTune n t).mram = s.mram := rfl
@[simp] theorem setTune_sec : (s.setTune n t).sec = s.sec := rfl
@[simp] theorem setTune_pow : (s.setTune n t).pow = s.pow := rfl
@[simp] theorem setTune_ex : (s.setTune n t).ex = s.ex := rfl
@[simp] theorem setTune_commitDue : (s.setTune n t).commitDue = s.commitDue := rfl
@[simp] theorem setTune_stale : (s.setTune n t).stale = s.stale := rfl
@[simp] theorem setTune_legs : (s.setTune n t).legs = s.legs := rfl
@[simp] theorem setTune_stages : (s.setTune n t).stages = s.stages := rfl
@[simp] theorem setTune_trips : (s.setTune n t).trips = s.trips := rfl
@[simp] theorem setTune_sdTrip : (s.setTune n t).sdTrip = s.sdTrip := rfl
@[simp] theorem setTune_links : (s.setTune n t).links = s.links := rfl
@[simp] theorem setTune_slotx : (s.setTune n t).slotx = s.slotx := rfl
@[simp] theorem setTune_cellc : (s.setTune n t).cellc = s.cellc := rfl
@[simp] theorem setTune_fixedPt : (s.setTune n t).fixedPt = s.fixedPt := rfl
@[simp] theorem setTune_convx : (s.setTune n t).convx = s.convx := rfl
@[simp] theorem setTune_armx : (s.setTune n t).armx = s.armx := rfl
@[simp] theorem setTune_cellx : (s.setTune n t).cellx = s.cellx := rfl
@[simp] theorem setTune_machx : (s.setTune n t).machx = s.machx := rfl
@[simp] theorem setTune_dioOut : (s.setTune n t).dioOut = s.dioOut := rfl
@[simp] theorem setTune_stops : (s.setTune n t).stops = s.stops := rfl
@[simp] theorem setTune_axstop : (s.setTune n t).axstop = s.axstop := rfl
@[simp] theorem setTune_sto : (s.setTune n t).sto = s.sto := rfl
@[simp] theorem setTune_supp : (s.setTune n t).supp = s.supp := rfl
@[simp] theorem setTune_axReq : (s.setTune n t).axReq = s.axReq := rfl
@[simp] theorem setTune_diox : (s.setTune n t).diox = s.diox := rfl
@[simp] theorem setTune_fbx : (s.setTune n t).fbx = s.fbx := rfl
@[simp] theorem setTune_cmpx : (s.setTune n t).cmpx = s.cmpx := rfl
@[simp] theorem setTune_eox : (s.setTune n t).eox = s.eox := rfl
@[simp] theorem setTune_late : (s.setTune n t).late = s.late := rfl
@[simp] theorem setTune_evWait : (s.setTune n t).evWait = s.evWait := rfl
@[simp] theorem setTune_sdx : (s.setTune n t).sdx = s.sdx := rfl
@[simp] theorem setTune_ainx : (s.setTune n t).ainx = s.ainx := rfl
@[simp] theorem setTune_sarDue : (s.setTune n t).sarDue = s.sarDue := rfl
@[simp] theorem setTune_loopx : (s.setTune n t).loopx = s.loopx := rfl
@[simp] theorem setTune_axisx : (s.setTune n t).axisx = s.axisx := rfl
@[simp] theorem setTune_ffx : (s.setTune n t).ffx = s.ffx := rfl
@[simp] theorem setTune_canx : (s.setTune n t).canx = s.canx := rfl
@[simp] theorem setTune_canPaused : (s.setTune n t).canPaused = s.canPaused := rfl
@[simp] theorem setTune_urgDue : (s.setTune n t).urgDue = s.urgDue := rfl
@[simp] theorem setTune_partx : (s.setTune n t).partx = s.partx := rfl
@[simp] theorem setTune_tunes : (s.setTune n t).tunes = s.tunes.put {} n t := rfl
@[simp] theorem setTune_tracex : (s.setTune n t).tracex = s.tracex := rfl
@[simp] theorem setTune_trport : (s.setTune n t).trport = s.trport := rfl
@[simp] theorem setTune_evSeen : (s.setTune n t).evSeen = s.evSeen := rfl
@[simp] theorem setTune_regs : (s.setTune n t).regs = s.regs := rfl
@[simp] theorem setTune_free : (s.setTune n t).free = s.free := rfl
@[simp] theorem setTune_pending : (s.setTune n t).pending = s.pending := rfl
end

/-! `spend` -/

section
variable (h : Nat)
@[simp] theorem spend_objs : (s.spend h).objs = s.objs := rfl
@[simp] theorem spend_rings : (s.spend h).rings = s.rings := rfl
@[simp] theorem spend_tile : (s.spend h).tile = s.tile := rfl
@[simp] theorem spend_badTags : (s.spend h).badTags = s.badTags := rfl
@[simp] theorem spend_stores : (s.spend h).stores = s.stores := rfl
@[simp] theorem spend_sram : (s.spend h).sram = s.sram := rfl
@[simp] theorem spend_ports : (s.spend h).ports = s.ports := rfl
@[simp] theorem spend_evPend : (s.spend h).evPend = s.evPend := rfl
@[simp] theorem spend_routes : (s.spend h).routes = s.routes := rfl
@[simp] theorem spend_hcfg : (s.spend h).hcfg = s.hcfg := rfl
@[simp] theorem spend_alarms : (s.spend h).alarms = s.alarms := rfl
@[simp] theorem spend_aseq : (s.spend h).aseq = s.aseq := rfl
@[simp] theorem spend_sarOff : (s.spend h).sarOff = s.sarOff := rfl
@[simp] theorem spend_sarGain : (s.spend h).sarGain = s.sarGain := rfl
@[simp] theorem spend_newest : (s.spend h).newest = s.newest := rfl
@[simp] theorem spend_dups : (s.spend h).dups = s.dups := rfl
@[simp] theorem spend_served : (s.spend h).served = s.served := rfl
@[simp] theorem spend_defers : (s.spend h).defers = s.defers := rfl
@[simp] theorem spend_pset : (s.spend h).pset = s.pset := rfl
@[simp] theorem spend_psetNo : (s.spend h).psetNo = s.psetNo := rfl
@[simp] theorem spend_ledg : (s.spend h).ledg = s.ledg := rfl
@[simp] theorem spend_telem : (s.spend h).telem = s.telem := rfl
@[simp] theorem spend_tb : (s.spend h).tb = s.tb := rfl
@[simp] theorem spend_up : (s.spend h).up = s.up := rfl
@[simp] theorem spend_bk : (s.spend h).bk = s.bk := rfl
@[simp] theorem spend_otp : (s.spend h).otp = s.otp := rfl
@[simp] theorem spend_mram : (s.spend h).mram = s.mram := rfl
@[simp] theorem spend_sec : (s.spend h).sec = { s.sec with nonces := s.sec.nonces.put none h none } := rfl
@[simp] theorem spend_pow : (s.spend h).pow = s.pow := rfl
@[simp] theorem spend_ex : (s.spend h).ex = s.ex := rfl
@[simp] theorem spend_commitDue : (s.spend h).commitDue = s.commitDue := rfl
@[simp] theorem spend_stale : (s.spend h).stale = s.stale := rfl
@[simp] theorem spend_legs : (s.spend h).legs = s.legs := rfl
@[simp] theorem spend_stages : (s.spend h).stages = s.stages := rfl
@[simp] theorem spend_trips : (s.spend h).trips = s.trips := rfl
@[simp] theorem spend_sdTrip : (s.spend h).sdTrip = s.sdTrip := rfl
@[simp] theorem spend_links : (s.spend h).links = s.links := rfl
@[simp] theorem spend_slotx : (s.spend h).slotx = s.slotx := rfl
@[simp] theorem spend_cellc : (s.spend h).cellc = s.cellc := rfl
@[simp] theorem spend_fixedPt : (s.spend h).fixedPt = s.fixedPt := rfl
@[simp] theorem spend_convx : (s.spend h).convx = s.convx := rfl
@[simp] theorem spend_armx : (s.spend h).armx = s.armx := rfl
@[simp] theorem spend_cellx : (s.spend h).cellx = s.cellx := rfl
@[simp] theorem spend_machx : (s.spend h).machx = s.machx := rfl
@[simp] theorem spend_dioOut : (s.spend h).dioOut = s.dioOut := rfl
@[simp] theorem spend_stops : (s.spend h).stops = s.stops := rfl
@[simp] theorem spend_axstop : (s.spend h).axstop = s.axstop := rfl
@[simp] theorem spend_sto : (s.spend h).sto = s.sto := rfl
@[simp] theorem spend_supp : (s.spend h).supp = s.supp := rfl
@[simp] theorem spend_axReq : (s.spend h).axReq = s.axReq := rfl
@[simp] theorem spend_diox : (s.spend h).diox = s.diox := rfl
@[simp] theorem spend_fbx : (s.spend h).fbx = s.fbx := rfl
@[simp] theorem spend_cmpx : (s.spend h).cmpx = s.cmpx := rfl
@[simp] theorem spend_eox : (s.spend h).eox = s.eox := rfl
@[simp] theorem spend_late : (s.spend h).late = s.late := rfl
@[simp] theorem spend_evWait : (s.spend h).evWait = s.evWait := rfl
@[simp] theorem spend_sdx : (s.spend h).sdx = s.sdx := rfl
@[simp] theorem spend_ainx : (s.spend h).ainx = s.ainx := rfl
@[simp] theorem spend_sarDue : (s.spend h).sarDue = s.sarDue := rfl
@[simp] theorem spend_loopx : (s.spend h).loopx = s.loopx := rfl
@[simp] theorem spend_axisx : (s.spend h).axisx = s.axisx := rfl
@[simp] theorem spend_ffx : (s.spend h).ffx = s.ffx := rfl
@[simp] theorem spend_canx : (s.spend h).canx = s.canx := rfl
@[simp] theorem spend_canPaused : (s.spend h).canPaused = s.canPaused := rfl
@[simp] theorem spend_urgDue : (s.spend h).urgDue = s.urgDue := rfl
@[simp] theorem spend_partx : (s.spend h).partx = s.partx := rfl
@[simp] theorem spend_tunes : (s.spend h).tunes = s.tunes := rfl
@[simp] theorem spend_tracex : (s.spend h).tracex = s.tracex := rfl
@[simp] theorem spend_trport : (s.spend h).trport = s.trport := rfl
@[simp] theorem spend_evSeen : (s.spend h).evSeen = s.evSeen := rfl
@[simp] theorem spend_regs : (s.spend h).regs = s.regs := rfl
@[simp] theorem spend_free : (s.spend h).free = s.free := rfl
@[simp] theorem spend_pending : (s.spend h).pending = s.pending := rfl
end

/-! `setAxStop` -/

section
variable (x : Nat) (q : AxStop)
@[simp] theorem setAxStop_objs : (s.setAxStop x q).objs = s.objs := rfl
@[simp] theorem setAxStop_rings : (s.setAxStop x q).rings = s.rings := rfl
@[simp] theorem setAxStop_tile : (s.setAxStop x q).tile = s.tile := rfl
@[simp] theorem setAxStop_badTags : (s.setAxStop x q).badTags = s.badTags := rfl
@[simp] theorem setAxStop_stores : (s.setAxStop x q).stores = s.stores := rfl
@[simp] theorem setAxStop_sram : (s.setAxStop x q).sram = s.sram := rfl
@[simp] theorem setAxStop_ports : (s.setAxStop x q).ports = s.ports := rfl
@[simp] theorem setAxStop_evPend : (s.setAxStop x q).evPend = s.evPend := rfl
@[simp] theorem setAxStop_routes : (s.setAxStop x q).routes = s.routes := rfl
@[simp] theorem setAxStop_hcfg : (s.setAxStop x q).hcfg = s.hcfg := rfl
@[simp] theorem setAxStop_alarms : (s.setAxStop x q).alarms = s.alarms := rfl
@[simp] theorem setAxStop_aseq : (s.setAxStop x q).aseq = s.aseq := rfl
@[simp] theorem setAxStop_sarOff : (s.setAxStop x q).sarOff = s.sarOff := rfl
@[simp] theorem setAxStop_sarGain : (s.setAxStop x q).sarGain = s.sarGain := rfl
@[simp] theorem setAxStop_newest : (s.setAxStop x q).newest = s.newest := rfl
@[simp] theorem setAxStop_dups : (s.setAxStop x q).dups = s.dups := rfl
@[simp] theorem setAxStop_served : (s.setAxStop x q).served = s.served := rfl
@[simp] theorem setAxStop_defers : (s.setAxStop x q).defers = s.defers := rfl
@[simp] theorem setAxStop_pset : (s.setAxStop x q).pset = s.pset := rfl
@[simp] theorem setAxStop_psetNo : (s.setAxStop x q).psetNo = s.psetNo := rfl
@[simp] theorem setAxStop_ledg : (s.setAxStop x q).ledg = s.ledg := rfl
@[simp] theorem setAxStop_telem : (s.setAxStop x q).telem = s.telem := rfl
@[simp] theorem setAxStop_tb : (s.setAxStop x q).tb = s.tb := rfl
@[simp] theorem setAxStop_up : (s.setAxStop x q).up = s.up := rfl
@[simp] theorem setAxStop_bk : (s.setAxStop x q).bk = s.bk := rfl
@[simp] theorem setAxStop_otp : (s.setAxStop x q).otp = s.otp := rfl
@[simp] theorem setAxStop_mram : (s.setAxStop x q).mram = s.mram := rfl
@[simp] theorem setAxStop_sec : (s.setAxStop x q).sec = s.sec := rfl
@[simp] theorem setAxStop_pow : (s.setAxStop x q).pow = s.pow := rfl
@[simp] theorem setAxStop_ex : (s.setAxStop x q).ex = s.ex := rfl
@[simp] theorem setAxStop_commitDue : (s.setAxStop x q).commitDue = s.commitDue := rfl
@[simp] theorem setAxStop_stale : (s.setAxStop x q).stale = s.stale := rfl
@[simp] theorem setAxStop_legs : (s.setAxStop x q).legs = s.legs := rfl
@[simp] theorem setAxStop_stages : (s.setAxStop x q).stages = s.stages := rfl
@[simp] theorem setAxStop_trips : (s.setAxStop x q).trips = s.trips := rfl
@[simp] theorem setAxStop_sdTrip : (s.setAxStop x q).sdTrip = s.sdTrip := rfl
@[simp] theorem setAxStop_links : (s.setAxStop x q).links = s.links := rfl
@[simp] theorem setAxStop_slotx : (s.setAxStop x q).slotx = s.slotx := rfl
@[simp] theorem setAxStop_cellc : (s.setAxStop x q).cellc = s.cellc := rfl
@[simp] theorem setAxStop_fixedPt : (s.setAxStop x q).fixedPt = s.fixedPt := rfl
@[simp] theorem setAxStop_convx : (s.setAxStop x q).convx = s.convx := rfl
@[simp] theorem setAxStop_armx : (s.setAxStop x q).armx = s.armx := rfl
@[simp] theorem setAxStop_cellx : (s.setAxStop x q).cellx = s.cellx := rfl
@[simp] theorem setAxStop_machx : (s.setAxStop x q).machx = s.machx := rfl
@[simp] theorem setAxStop_dioOut : (s.setAxStop x q).dioOut = s.dioOut := rfl
@[simp] theorem setAxStop_stops : (s.setAxStop x q).stops = s.stops := rfl
@[simp] theorem setAxStop_axstop : (s.setAxStop x q).axstop = s.axstop.put {} x q := rfl
@[simp] theorem setAxStop_sto : (s.setAxStop x q).sto = s.sto := rfl
@[simp] theorem setAxStop_supp : (s.setAxStop x q).supp = s.supp := rfl
@[simp] theorem setAxStop_axReq : (s.setAxStop x q).axReq = s.axReq := rfl
@[simp] theorem setAxStop_diox : (s.setAxStop x q).diox = s.diox := rfl
@[simp] theorem setAxStop_fbx : (s.setAxStop x q).fbx = s.fbx := rfl
@[simp] theorem setAxStop_cmpx : (s.setAxStop x q).cmpx = s.cmpx := rfl
@[simp] theorem setAxStop_eox : (s.setAxStop x q).eox = s.eox := rfl
@[simp] theorem setAxStop_late : (s.setAxStop x q).late = s.late := rfl
@[simp] theorem setAxStop_evWait : (s.setAxStop x q).evWait = s.evWait := rfl
@[simp] theorem setAxStop_sdx : (s.setAxStop x q).sdx = s.sdx := rfl
@[simp] theorem setAxStop_ainx : (s.setAxStop x q).ainx = s.ainx := rfl
@[simp] theorem setAxStop_sarDue : (s.setAxStop x q).sarDue = s.sarDue := rfl
@[simp] theorem setAxStop_loopx : (s.setAxStop x q).loopx = s.loopx := rfl
@[simp] theorem setAxStop_axisx : (s.setAxStop x q).axisx = s.axisx := rfl
@[simp] theorem setAxStop_ffx : (s.setAxStop x q).ffx = s.ffx := rfl
@[simp] theorem setAxStop_canx : (s.setAxStop x q).canx = s.canx := rfl
@[simp] theorem setAxStop_canPaused : (s.setAxStop x q).canPaused = s.canPaused := rfl
@[simp] theorem setAxStop_urgDue : (s.setAxStop x q).urgDue = s.urgDue := rfl
@[simp] theorem setAxStop_partx : (s.setAxStop x q).partx = s.partx := rfl
@[simp] theorem setAxStop_tunes : (s.setAxStop x q).tunes = s.tunes := rfl
@[simp] theorem setAxStop_tracex : (s.setAxStop x q).tracex = s.tracex := rfl
@[simp] theorem setAxStop_trport : (s.setAxStop x q).trport = s.trport := rfl
@[simp] theorem setAxStop_evSeen : (s.setAxStop x q).evSeen = s.evSeen := rfl
@[simp] theorem setAxStop_regs : (s.setAxStop x q).regs = s.regs := rfl
@[simp] theorem setAxStop_free : (s.setAxStop x q).free = s.free := rfl
@[simp] theorem setAxStop_pending : (s.setAxStop x q).pending = s.pending := rfl
end

/-! `setSto` -/

section
variable (f : Sto → Sto)
@[simp] theorem setSto_objs : (s.setSto f).objs = s.objs := rfl
@[simp] theorem setSto_rings : (s.setSto f).rings = s.rings := rfl
@[simp] theorem setSto_tile : (s.setSto f).tile = s.tile := rfl
@[simp] theorem setSto_badTags : (s.setSto f).badTags = s.badTags := rfl
@[simp] theorem setSto_stores : (s.setSto f).stores = s.stores := rfl
@[simp] theorem setSto_sram : (s.setSto f).sram = s.sram := rfl
@[simp] theorem setSto_ports : (s.setSto f).ports = s.ports := rfl
@[simp] theorem setSto_evPend : (s.setSto f).evPend = s.evPend := rfl
@[simp] theorem setSto_routes : (s.setSto f).routes = s.routes := rfl
@[simp] theorem setSto_hcfg : (s.setSto f).hcfg = s.hcfg := rfl
@[simp] theorem setSto_alarms : (s.setSto f).alarms = s.alarms := rfl
@[simp] theorem setSto_aseq : (s.setSto f).aseq = s.aseq := rfl
@[simp] theorem setSto_sarOff : (s.setSto f).sarOff = s.sarOff := rfl
@[simp] theorem setSto_sarGain : (s.setSto f).sarGain = s.sarGain := rfl
@[simp] theorem setSto_newest : (s.setSto f).newest = s.newest := rfl
@[simp] theorem setSto_dups : (s.setSto f).dups = s.dups := rfl
@[simp] theorem setSto_served : (s.setSto f).served = s.served := rfl
@[simp] theorem setSto_defers : (s.setSto f).defers = s.defers := rfl
@[simp] theorem setSto_pset : (s.setSto f).pset = s.pset := rfl
@[simp] theorem setSto_psetNo : (s.setSto f).psetNo = s.psetNo := rfl
@[simp] theorem setSto_ledg : (s.setSto f).ledg = s.ledg := rfl
@[simp] theorem setSto_telem : (s.setSto f).telem = s.telem := rfl
@[simp] theorem setSto_tb : (s.setSto f).tb = s.tb := rfl
@[simp] theorem setSto_up : (s.setSto f).up = s.up := rfl
@[simp] theorem setSto_bk : (s.setSto f).bk = s.bk := rfl
@[simp] theorem setSto_otp : (s.setSto f).otp = s.otp := rfl
@[simp] theorem setSto_mram : (s.setSto f).mram = s.mram := rfl
@[simp] theorem setSto_sec : (s.setSto f).sec = s.sec := rfl
@[simp] theorem setSto_pow : (s.setSto f).pow = s.pow := rfl
@[simp] theorem setSto_ex : (s.setSto f).ex = s.ex := rfl
@[simp] theorem setSto_commitDue : (s.setSto f).commitDue = s.commitDue := rfl
@[simp] theorem setSto_stale : (s.setSto f).stale = s.stale := rfl
@[simp] theorem setSto_legs : (s.setSto f).legs = s.legs := rfl
@[simp] theorem setSto_stages : (s.setSto f).stages = s.stages := rfl
@[simp] theorem setSto_trips : (s.setSto f).trips = s.trips := rfl
@[simp] theorem setSto_sdTrip : (s.setSto f).sdTrip = s.sdTrip := rfl
@[simp] theorem setSto_links : (s.setSto f).links = s.links := rfl
@[simp] theorem setSto_slotx : (s.setSto f).slotx = s.slotx := rfl
@[simp] theorem setSto_cellc : (s.setSto f).cellc = s.cellc := rfl
@[simp] theorem setSto_fixedPt : (s.setSto f).fixedPt = s.fixedPt := rfl
@[simp] theorem setSto_convx : (s.setSto f).convx = s.convx := rfl
@[simp] theorem setSto_armx : (s.setSto f).armx = s.armx := rfl
@[simp] theorem setSto_cellx : (s.setSto f).cellx = s.cellx := rfl
@[simp] theorem setSto_machx : (s.setSto f).machx = s.machx := rfl
@[simp] theorem setSto_dioOut : (s.setSto f).dioOut = s.dioOut := rfl
@[simp] theorem setSto_stops : (s.setSto f).stops = s.stops := rfl
@[simp] theorem setSto_axstop : (s.setSto f).axstop = s.axstop := rfl
@[simp] theorem setSto_sto : (s.setSto f).sto = f s.sto := rfl
@[simp] theorem setSto_supp : (s.setSto f).supp = s.supp := rfl
@[simp] theorem setSto_axReq : (s.setSto f).axReq = s.axReq := rfl
@[simp] theorem setSto_diox : (s.setSto f).diox = s.diox := rfl
@[simp] theorem setSto_fbx : (s.setSto f).fbx = s.fbx := rfl
@[simp] theorem setSto_cmpx : (s.setSto f).cmpx = s.cmpx := rfl
@[simp] theorem setSto_eox : (s.setSto f).eox = s.eox := rfl
@[simp] theorem setSto_late : (s.setSto f).late = s.late := rfl
@[simp] theorem setSto_evWait : (s.setSto f).evWait = s.evWait := rfl
@[simp] theorem setSto_sdx : (s.setSto f).sdx = s.sdx := rfl
@[simp] theorem setSto_ainx : (s.setSto f).ainx = s.ainx := rfl
@[simp] theorem setSto_sarDue : (s.setSto f).sarDue = s.sarDue := rfl
@[simp] theorem setSto_loopx : (s.setSto f).loopx = s.loopx := rfl
@[simp] theorem setSto_axisx : (s.setSto f).axisx = s.axisx := rfl
@[simp] theorem setSto_ffx : (s.setSto f).ffx = s.ffx := rfl
@[simp] theorem setSto_canx : (s.setSto f).canx = s.canx := rfl
@[simp] theorem setSto_canPaused : (s.setSto f).canPaused = s.canPaused := rfl
@[simp] theorem setSto_urgDue : (s.setSto f).urgDue = s.urgDue := rfl
@[simp] theorem setSto_partx : (s.setSto f).partx = s.partx := rfl
@[simp] theorem setSto_tunes : (s.setSto f).tunes = s.tunes := rfl
@[simp] theorem setSto_tracex : (s.setSto f).tracex = s.tracex := rfl
@[simp] theorem setSto_trport : (s.setSto f).trport = s.trport := rfl
@[simp] theorem setSto_evSeen : (s.setSto f).evSeen = s.evSeen := rfl
@[simp] theorem setSto_regs : (s.setSto f).regs = s.regs := rfl
@[simp] theorem setSto_free : (s.setSto f).free = s.free := rfl
@[simp] theorem setSto_pending : (s.setSto f).pending = s.pending := rfl
end

end Sys2Proof.Laws
end

