-- ==== Sys2Proof/Laws/Wake.lean ====
section
/-! SUPPORT. The marks of a trip and a stop that a device below FLIGHT could not report (R666): notices, alarms, supply moves and
the return of the blocks leave them, so that WAKE_EXIT_DONE finds them as they were. -/
namespace Sys2Proof.Laws
open Machine State
/-- The two marks of a late wake-up (R666). -/
def lateMarks (s : State) : Bool × Bool := (s.pow.lateTrip, s.pow.lateStop)
theorem lateMarks_foldl {α : Type} (f : State → α → State) (h : ∀ s a, lateMarks (f s a) = lateMarks s) (l : List α) :
    ∀ s, lateMarks (l.foldl f s) = lateMarks s := by
  induction l with
  | nil => intro s; rfl
  | cons a l ih => intro s; rw [List.foldl_cons, ih, h]
theorem lateMarks_setBytes (l : List Byte) : ∀ (s : State) (a : Nat), lateMarks (s.setBytes a l) = lateMarks s := by
  induction l with
  | nil => intro s a; rfl
  | cons v l ih => intro s a; rw [State.setBytes, ih]; rfl
theorem lateMarks_raise (s : State) (k : Nat) : lateMarks (s.raise k) = lateMarks s := rfl
theorem lateMarks_inc (s : State) (m : Mem) (i x k : Nat) : lateMarks (s.inc m i x k) = lateMarks s := rfl
theorem lateMarks_put (s : State) (m : Mem) (i x : Nat) (v : Int) : lateMarks (s.put m i v x) = lateMarks s := rfl
theorem lateMarks_produce (s : State) (n : Nat) (b : List Byte) : lateMarks (s.produce n b) = lateMarks s := by
  have h := lateMarks_setBytes (padTo ((s.ring n).esz * 16) b) s ((s.ring n).entry (s.ring n).head)
  unfold State.produce; dsimp only; split <;> exact h
theorem lateMarks_ledger (s : State) (a b c : Nat) (d : List Byte) (e : Bool) : lateMarks (s.ledger a b c d e) = lateMarks s := by
  unfold State.ledger; generalize ({ boot := _, code := a, inst := b, wb := _, detail := c, secure := e, wblast := _, data := d, since := _ } : LRec) = q
  dsimp only
  cases joinStaged (s.n LEDGER.COALT * 400000) q s.ledg.staged <;> dsimp only
  · by_cases h : s.ledg.coalesced62 = true
    · rw [if_pos h]; split <;> split <;> rfl
    · rw [if_neg h]; split <;> split <;> rfl
  · by_cases h : s.ledg.coalesced62 = true
    · rw [if_pos h]; rfl
    · rw [if_neg h]; rfl
theorem lateMarks_notice (s : State) (a b c d e : Nat) : lateMarks (s.notice a b c d e) = lateMarks s := by
  unfold State.notice; dsimp only
  generalize hu : (if noticeLedger a then (s.raise 60).ledger (0xE000 + a) (noticeInst b c d) 0 else s.raise 60) = u
  have h : lateMarks u = lateMarks s := by
    rw [← hu]; split
    · rw [lateMarks_ledger]; rfl
    · rfl
  split
  · rw [lateMarks_produce, h]
  · exact h
theorem lateMarks_markLoss (s : State) (n : Nat) : lateMarks (s.markLoss n) = lateMarks s := by
  unfold State.markLoss; dsimp only; split <;> rfl
theorem lateMarks_ring7 (s : State) (a b c : Nat) : lateMarks (s.ring7 a b c) = lateMarks s := by
  unfold State.ring7; dsimp only
  split
  · exact lateMarks_produce s 7 _
  · generalize hu : (if s.alarms.isEmpty && s.ready then (s.markLoss 7).raise 62 else s) = u
    have h : lateMarks u = lateMarks s := by rw [← hu]; split <;> first | rfl | exact (lateMarks_raise _ _).trans (lateMarks_markLoss s 7)
    split
    · exact h
    · split
      · exact h
      · split <;> exact h
theorem lateMarks_alarm (s : State) (a b : Nat) (l : List Nat) (c d : Nat) (e : List Byte) : lateMarks (s.alarm a b l c d e) = lateMarks s := by
  unfold State.alarm raiseAll; dsimp only
  rw [lateMarks_foldl _ (fun s k => lateMarks_raise s k)]
  split
  · rw [lateMarks_ledger, lateMarks_ring7]
  · exact (lateMarks_ledger _ _ _ _ _ _).trans (lateMarks_ring7 _ _ _ _)
theorem lateMarks_dioDrive (s : State) (n : Nat) (on : Bool) : lateMarks (s.dioDrive n on) = lateMarks s := by
  unfold State.dioDrive; split <;> rfl
theorem lateMarks_vidDrive (s : State) (v : Nat) : lateMarks (s.vidDrive v) = lateMarks s := by
  unfold State.vidDrive; dsimp only
  split
  · rfl
  · exact lateMarks_foldl _ (fun s k => lateMarks_dioDrive s _ _) _ _
theorem lateMarks_setpointMove (s : State) (v : Nat) : lateMarks (s.setpointMove v) = lateMarks s := by
  unfold State.setpointMove; dsimp only
  rw [lateMarks_vidDrive]; rfl
theorem lateMarks_leanExit (s : State) : lateMarks s.leanExit = lateMarks s := by
  unfold State.leanExit; dsimp only
  split
  · rw [lateMarks_alarm]; split
    · exact lateMarks_setpointMove _ _
    · rfl
  · rfl
/-- Bringing the members of the Exchange up to date leaves the marks of a late wake-up. -/
theorem lateMarks_exRefresh (s : State) : lateMarks s.exRefresh = lateMarks s := by
  unfold State.exRefresh; dsimp only
  generalize hu : (List.range 8).foldl _ _ = u
  have h : lateMarks u = lateMarks s := by
    rw [← hu, lateMarks_foldl _ (fun s e => lateMarks_put s _ _ _ _)]
    iterate 5 rw [lateMarks_put]
    split
    · rw [lateMarks_notice]; split <;> rfl
    · split <;> rfl
  split
  · rw [lateMarks_leanExit, lateMarks_notice, lateMarks_alarm]; exact h
  · split
    · rw [lateMarks_notice]; exact h
    · exact h
theorem lateMarks_setpointBack (s : State) : lateMarks s.setpointBack = lateMarks s := by
  have h := lateMarks_vidDrive s 0
  unfold State.setpointBack; dsimp only
  split
  · rw [lateMarks_alarm]; exact h
  · split
    · rw [lateMarks_alarm]; exact h
    · split
      · exact h
      · rw [lateMarks_setpointMove]; exact h
theorem lateMarks_ite {p : Prop} [Decidable p] {a b : State} {l : Bool × Bool} (ha : lateMarks a = l) (hb : lateMarks b = l) :
    lateMarks (if p then a else b) = l := by
  split <;> assumption
theorem lateMarks_ringTo (s : State) (r st : Nat) (h : st ≠ 5) : lateMarks (s.ringTo r st) = lateMarks s := by
  unfold State.ringTo; dsimp only
  rw [if_neg h]
  exact lateMarks_ite rfl rfl
theorem lateMarks_fbBack (s : State) (n : Nat) : lateMarks (s.fbBack n) = lateMarks s := by
  unfold State.fbBack; exact lateMarks_ite rfl rfl
theorem lateMarks_sdBack (s : State) (k : Nat) : lateMarks (s.sdBack k) = lateMarks s := by
  unfold State.sdBack; exact lateMarks_ite rfl rfl
theorem lateMarks_ringBack (s : State) (r : Nat) : lateMarks (s.ringBack r) = lateMarks s := by
  unfold State.ringBack; exact lateMarks_ite (lateMarks_ringTo s r 1 (by decide)) rfl
theorem lateMarks_flightBack (s : State) (k : Nat) : lateMarks (s.flightBack k) = lateMarks s := by
  have h1 : ∀ t : State, lateMarks ((List.range 16).foldl State.fbBack t) = lateMarks t := lateMarks_foldl _ lateMarks_fbBack _
  have h2 : ∀ t : State, lateMarks ((List.range 48).foldl State.sdBack t) = lateMarks t := lateMarks_foldl _ lateMarks_sdBack _
  have h3 : ∀ t : State, lateMarks ((List.range 4).foldl State.ringBack t) = lateMarks t := lateMarks_foldl _ lateMarks_ringBack _
  unfold State.flightBack
  dsimp only
  split
  · rfl
  · have h : ∀ t : State, lateMarks t = lateMarks s → lateMarks ((List.range 48).foldl State.sdBack ((List.range 16).foldl State.fbBack t)) = lateMarks s :=
      fun t ht => by rw [h2, h1, ht]
    generalize hu : List.foldl State.sdBack _ _ = u
    have hu : lateMarks u = lateMarks s := hu ▸ h _ rfl
    split
    · exact hu
    · generalize hv : List.foldl State.ringBack _ _ = v
      have hv : lateMarks v = lateMarks s := hv ▸ (h3 u).trans hu
      exact hv
/-- What WAKE_EXIT_DONE runs before it looks at the marks leaves them. -/
theorem lateMarks_wakeBack (s : State) (k : Nat) : lateMarks (s.setpointBack.flightBack k).exRefresh = lateMarks s := by
  rw [lateMarks_exRefresh, lateMarks_flightBack, lateMarks_setpointBack]
end Sys2Proof.Laws
end

