-- ==== Sys2Proof/Tests/Slice0.lean ====
section
/-! SUPPORT. Tests: an ill-formed command for each check of WellFormed, worked values of the spec, and for every
clause of every statement that has hypotheses a concrete state and operands that meet them together. -/
namespace Sys2Proof

/-- Members of a state set one after the other: row, instance, value. -/
def Machine.State.mems (s : Machine.State) (l : List (Machine.Mem × Nat × Int)) : Machine.State :=
  l.foldl (fun s e => s.put e.1 e.2.1 e.2.2) s

namespace Tests
open Machine Machine.State Claim Safety

set_option Elab.async false

/-! ### States to test on -/

/-- READY in FLIGHT: the reference qualified, marks running, STO released, every engine admitted, every ring
enabled, an entry in ring 1, and the rings 0 and 1 secure. -/
def live : State := { State.reset with
  up := { State.reset.up with phase := 7, pins := true, nrstHeld := false, stretch := false },
  tb := { State.reset.tb with lock := true, refok := true, seen := true, first := false },
  sto := { State.reset.sto with a := true, b := true, act := false },
  ex := { State.reset.ex with engines := (List.range 8).map fun e => (e, { st := .admitted }) },
  rings := (List.range 15).map fun n =>
    (n, { Ring.dflt n with en := true, world := n ≤ 1, hostc := true, head := if n = 1 then 1 else 0 }) }

/-- The same with an entry in ring 0, which is served first. -/
def live0 : State := live.setRing 0 { live.ring 0 with head := 1 }

/-- A request in the secure ring 1, one of it in the open world, one in ring 0, and the header of a write. -/
def rqS : Rq := { ring := 1, seq := 1, sec := true, prio := false, quiet := false, crc := 0 }
def rqO : Rq := { rqS with sec := false }
def rq0 : Rq := { rqS with ring := 0 }
def wr (m : Mem) (i : Nat := 0) : Wq := { rq := rqS, inst := i, ty := m.ty.code }

/-- `live` after its request of ring 1 has been taken. -/
def tk (s : State) : State := taken s rqS

/-- A state meets the hypotheses of a clause. -/
abbrev Met (s : State) (p : State → Bool) : Prop := p s = true

/-- The answer is `a`. -/
def holds {ε α : Type} [DecidableEq α] (e : Except ε α) (a : α) : Bool :=
  match e with
  | .ok b => decide (b = a)
  | .error _ => false
/-- A device in start-up phase `p`, the stretch over. -/
def phaseS (p : Nat) (f : StartUp → StartUp) : State :=
  { State.reset with up := f { State.reset.up with phase := p, stretch := false } }
/-- The same with the reference qualified. -/
def phaseR (p : Nat) : State := { phaseS p id with tb := { State.reset.tb with lock := true, refok := true } }
/-- A result of machine 0 that waits for its handover. -/
def dueR : Due := { seq := 0, half := false, out := [F32.zero, F32.zero] }
def dueS : State := { live with ex := { live.ex with outs := [(0, { due := [dueR] })] } }
/-- Stage 0 in RUN with machine 0. -/
def runS : State := live.mems [(STAGE.MACH, 0, 0), (STAGE.STATE, 0, 3)]
/-- A plain item, and staging areas of ring 1 that hold items. -/
def itemW : PsetItem := { addr := SYS.WINGBEAT.key 0, ty := 5, v := 40000 }
def setP (l : List PsetItem) (v : Bool) : Pset := { handle := 1, port := 0, secure := true, items := l, verified := v }
def setS (l : List PsetItem) (v : Bool) : State := { live with pset := some (setP l v), psetNo := 1 }
def slotS : State :=
  { live with mram := { live.mram with psets := [(0, { items := [itemW], secure := true, sigNeeded := false, sigValid := false })] } }
/-- Axis 0 placed and enabled in speed mode, with limits for a speed move. -/
def moveS : State := (live.mems [(AXIS.CFG, 0, 2), (AXIS.ENABLE, 0, 1), (AXIS.MODE, 0, 3), (AXIS.VMAX, 0, 0x447A0000),
  (AXIS.FBPOS, 0, 0), (FB.MODE, 0, 2), (FB.STATE, 0, 2), (PROF.TYPE, 0, 1), (PROF.TARGET, 0, 65536), (PROF.VEL, 0, 0x41200000),
  (PROF.VLIM, 0, 0x447A0000), (PROF.ALIM, 0, 0x447A0000), (PROF.DLIM, 0, 0x447A0000)]).setTask 72 { st := 1, engA := 0 }
/-- A firmware download into slot 1 has begun. -/
def fwS : State := { live with sec := { live.sec with fw := some (1, 128, 1) } }
/-- The timing of port 0 is valid at its reset values; a converter 0 of one arm pair; a machine that may be enabled. -/
def canGood : List (Mem × Nat × Int) := []
def convGood : List (Mem × Nat × Int) :=
  [(CONV.CFG, 0, 2), (CONV.MACH, 0, 0), (CONV.SDDC, 0, 0), (CONV.ARMS, 0, 2), (CONV.VDCMAX, 0, 0x447A0000),
   (CONV.VDCNOM, 0, 0x447A0000), (CONV.VCNOM, 0, 0x447A0000), (ARM.NCELL, 0, 10), (ARM.NCELL, 1, 10), (CONV.VCTGT, 0, 0x42C80000)]
def machGood : List (Mem × Nat × Int) :=
  [(STAGE.MACH, 0, 0), (STAGE.STATE, 0, 3), (MACH.CFG, 0, 2), (MACH.IMAX, 0, 0x41200000), (LOOP.KP, 0, 0x3F800000)]
/-- ΣΔ input 0 enabled, at rest, with a trip density; AIN 0 enabled with the result of one conversion at code 8192. -/
def sdS : State := (live.mems [(SDCLK.ENABLE, 0, 1), (SD.ENABLE, 0, 1), (SD.ZEROCAP, 0, 1), (SD.STATE, 0, 2), (SD.TRIPIN, 0, 255)]).setSdX 0 { hi := F32.half }
def ainS : State := live.mems [(AIN.PERIOD, 0, 1), (AIN.STATE, 0, 2)]
def ainV : F32 := F32.ofFrac (8192 * 65536 * 18) (163840 * 65536)
/-- A frame of 8 bytes, port 0 with a frame to send, and the remote reset of port 0 at step `k`. -/
def canF : CanRx := { flags := 0, id := 0x123, ts := 0, data := zeros 8 }
def canS : State := (live.mems [(CAN.STATE, 0, 2)]).setCan 0 { buf0 := some { f := { port := 0, id := 0x123 } } }
def rstF (n b : Nat) : CanRx := { flags := 2, id := 0x123, ts := 0, data := BitVec.ofNat 8 b :: zeros (n - 1) }
def rstS (k : Nat) : State := (live.mems [(CAN.RSTEN, 0, 1), (CAN.RSTID, 0, 0x123)]).setCan 0 { rstep := k }
/-- Axis 0 held by its brake at rest. -/
def holdS : State := live.mems [(PROF.HOLDEN, 0, 1), (AXIS.MODE, 0, 3), (AXIS.SPSRC, 0, 0), (AXIS.ENABLE, 0, 1), (PROF.BRKIN, 0, 4),
  (DIO.VALID, 4, 1), (DIO.STATE, 4, 1)]
/-- An exit from HOVER. -/
def exitS : State := { (live.mems [(POWER.PSTATE, 0, 1), (POWER.SETPOINT, 0, 2), (THERM.TJ, 0, 0x42480000)]) with pow := { live.pow with exiting := true } }
/-- A staged record of the Ledger. -/
def recW : LRec := { code := 0x4301, inst := 0, wb := 0, detail := 0, wblast := 0 }
/-- Block 0, that of SYS, in the secure world. -/
def secB : State := { live with sec := { live.sec with blkmap := 0xFFFFFFFF } }
/-- A command slot for the cell at position 0: INSERT. -/
def cmdW : Nat := 2
def regOk : Nat := 0x40000000
def regW : Nat := 0x40002000
/-- The sample of THERMAL_SAMPLE's clause, 25 °C. -/
def cool : F32 := F32.ofInt 25
def coolU (s : State) : State :=
  let tj := cool.add (s.f ASSAY.TEMPOFF)
  let u := s.putF THERM.TJ 0 tj
  let v := if (u.f THERM.TJMAX).lt tj then u.putF THERM.TJMAX 0 tj else u
  { v with pow := { v.pow with warned := false } }

/-! ### WellFormed: what each check refuses -/

def badRq : Rq := { rqS with seq := 65536 }
def badWq : Wq := { wr SYS.WINGBEAT with inst := 4096 }
def cellQ : CellIn := { ring := 0, pos := 0 }

/-- The parts of commands: headers, items, inputs, frames, debug accesses. -/
theorem test_wf_parts :
    (Rq.wf rqS && !Rq.wf badRq && !Rq.wf { rqS with crc := 2 ^ 32 } && Wq.wf (wr SYS.WINGBEAT) && !Wq.wf badWq &&
      !Wq.wf { wr SYS.WINGBEAT with ty := 256 } && !Wq.wf { wr SYS.WINGBEAT with rq := badRq } && PsetItem.wf itemW &&
      !PsetItem.wf { itemW with addr := 2 ^ 32 } && !PsetItem.wf { itemW with ty := 256 } && !PsetItem.wf { itemW with v := 2 ^ 64 } &&
      !PsetItem.wf { itemW with v := -(2 ^ 63) - 1 } && SdBits.wf { k := 47 } && !SdBits.wf { k := 48 } &&
      CellIn.wf cellQ && !CellIn.wf { cellQ with uid := 2 ^ 64 } && !CellIn.wf { cellQ with ctype := 256 } &&
      !CellIn.wf { cellQ with vcap := 65536 } && !CellIn.wf { cellQ with temp := 256 } && !CellIn.wf { cellQ with status := 65536 } &&
      !CellIn.wf { cellQ with a := some { t := 0, hdr := zeros 65 } } && !CellIn.wf { cellQ with b := some { t := 0, hdr := zeros 65 } } &&
      MarkIn.wf {} && !MarkIn.wf { cells := [{ cellQ with uid := 2 ^ 64 }] } && !MarkIn.wf { sd := [{ k := 48 }] } &&
      !MarkIn.wf { failed := [168] } && !MarkIn.wf { differ := [168] } && !MarkIn.wf { tagBad := 16 } &&
      FrameIn.wf { dirB := false, fnum := 0 } && !FrameIn.wf { dirB := false, fnum := 2 ^ 32 } &&
      !FrameIn.wf { dirB := false, fnum := 0, src := some 384 } && !FrameIn.wf { dirB := false, fnum := 0, slots := [(384, 0)] } &&
      !FrameIn.wf { dirB := false, fnum := 0, slots := [(0, 2 ^ 64)] } && CanRx.wf canF && !CanRx.wf { canF with flags := 256 } &&
      !CanRx.wf { canF with id := 2 ^ 29 } && !CanRx.wf { canF with data := zeros 65 } && !DebugOp.wf (.readReg (2 ^ 32)) &&
      !DebugOp.wf (.writeReg 0 (2 ^ 32)) && !DebugOp.wf (.readRam .tile (2 ^ 32)) && !DebugOp.wf (.writeRam .tile 0 (2 ^ 32))) = true := by
  decide +kernel

/-- Events: one ill-formed command for each of their checks. -/
theorem test_wf_events : ([.wingbeatMark { tagBad := 16 }, .halfMark [{ k := 48 }] 0, .sdTrip { k := 48 } 0, .sdTrip { k := 0 } (2 ^ 32), .sdLost { k := 48 }, .offsetCapture 0 (2 ^ 32), .halfMark [] 8,
    .resultHandover 0 false (2 ^ 32) {}, .gateEdge 0 false (2 ^ 32), .rungChange 0 (2 ^ 32), .refQualified (2 ^ 32),
    .spiWrite 0 false 4 0 [0] true false, .spiWrite 0 false 1 (2 ^ 24) [0] true false, .spiWrite 0 false 1 0 [] true false,
    .spiWrite 0 false 1 0 (zeros 257) true false, .spiRead 0 false 4 0 1 true .inTime false, .spiRead 0 false 1 (2 ^ 24) 1 true .inTime false,
    .spiRead 0 false 1 0 0 true .inTime false, .spiRead 0 false 1 0 257 true .inTime false, .doorbell 0 0 (2 ^ 31), .estop 0 (2 ^ 31) false,
    .cellSvcDone 0 256 [], .cellSvcDone 0 0 (zeros 117), .deferredCompletion 256, .diagStepEnd 0 [256], .ainConversion 0 [65536] 0,
    .ainConversion 0 [] (2 ^ 32), .dioEdge 0 true (2 ^ 48) 0, .dioEdge 0 true 0 (2 ^ 32), .fbEdge 0 0 true false (2 ^ 48) 0,
    .fbEdge 0 0 true false 0 (2 ^ 32), .ssiTransferDone 0 false (2 ^ 64), .canFrameReceived 0 { canF with flags := 256 },
    .stopMatch 0 { canF with flags := 256 }, .canError 0 true false 65536 0, .canError 0 true false 0 65536,
    .canResetRequest 0 { canF with flags := 256 }, .canResetSignature 0 { canF with flags := 256 },
    .enumerationDone 0 [(2 ^ 48, 1)] [] 0 0 [], .enumerationDone 0 [(1, 256)] [] 0 0 [], .enumerationDone 0 [] [(2 ^ 48, 1)] 0 0 [],
    .enumerationDone 0 [] [(1, 256)] 0 0 [], .enumerationDone 0 [] [] (2 ^ 32) 0 [], .enumerationDone 0 [] [] 0 (2 ^ 32) [],
    .enumerationDone 0 [] [] 0 0 [2 ^ 32], .blockingReady 0 [2 ^ 64], .responseReceived 0 { dirB := false, fnum := 2 ^ 32 },
    .cellApply 0 0 (some (2 ^ 32)) none false, .cellApply 0 0 none (some (2 ^ 32)) false, .debugUnlock (2 ^ 512),
    .wakeExitDone true (2 ^ 32), .tabcrcCheck 32, .debugAccess (.readReg (2 ^ 32)), .badFrame badRq 0, .badFrame rqS 65536] : List Instr).all
      (fun c => !c.wf) = true := by
  decide +kernel

/-- Requests: a bad header of each, and one ill-formed command for each of their other checks. -/
theorem test_wf_requests : ([.nop badRq [], .nop rqS (zeros 1025), .ident badRq, .status badRq, .challenge badRq, .objRead badRq 0,
    .objRead rqS (2 ^ 32), .objWrite badRq itemW, .objWrite rqS { itemW with ty := 256 }, .objReadMulti badRq [], .objReadMulti rqS [2 ^ 32],
    .objWriteMulti badRq [], .objWriteMulti rqS [{ itemW with ty := 256 }], .blockRead badRq 0 1, .blockRead rqS (2 ^ 32) 1,
    .blockRead rqS 0 65536, .blockWrite badRq 0 5 [], .blockWrite rqS (2 ^ 32) 5 [], .blockWrite rqS 0 256 [], .blockWrite rqS 0 5 [2 ^ 64],
    .dictRead badRq 0 1, .dictRead rqS (2 ^ 32) 1, .dictRead rqS 0 65536, .regRead badRq 0 1, .regRead rqS (2 ^ 32) 1, .regRead rqS 0 65536,
    .regWrite badRq 0 0 0, .regWrite rqS (2 ^ 32) 0 0, .regWrite rqS 0 (2 ^ 32) 0, .regWrite rqS 0 0 (2 ^ 32), .ledgerRead badRq 0 1,
    .ledgerRead rqS (2 ^ 64) 1, .ledgerRead rqS 0 65536, .cellSvc badRq 0 0 0 0 [], .cellSvc rqS 256 0 0 0 [], .cellSvc rqS 0 256 0 0 [],
    .cellSvc rqS 0 0 65536 0 [], .cellSvc rqS 0 0 0 65536 [], .cellSvc rqS 0 0 0 0 (zeros 117), .canTx badRq 0 0 0 [], .canTx rqS 256 0 0 [],
    .canTx rqS 0 256 0 [], .canTx rqS 0 0 (2 ^ 32) [], .canTx rqS 0 0 0 (zeros 65), .reset badRq 0 0, .reset rqS (2 ^ 128) 0,
    .reset rqS 0 (2 ^ 512), .fwBegin badRq 0 0 0, .fwBegin rqS 256 0 0, .fwBegin rqS 0 (2 ^ 32) 0, .fwBegin rqS 0 0 (2 ^ 32), .fwData badRq 0 [],
    .fwData rqS (2 ^ 32) [], .fwData rqS 0 (zeros 1017), .fwEnd badRq 0 0, .fwEnd rqS (2 ^ 256) 0, .fwEnd rqS 0 (2 ^ 512), .lifeReq badRq 0 0 0,
    .lifeReq rqS 256 0 0, .lifeReq rqS 0 (2 ^ 128) 0, .lifeReq rqS 0 0 (2 ^ 512), .stop badRq 0 0 0, .stop rqS 65536 0 0, .stop rqS 0 256 0,
    .stop rqS 0 0 256, .emode badRq 0 0, .emode rqS 65536 0, .emode rqS 0 256, .psetOpen badRq, .psetStage badRq 0 0 [], .psetStage rqS 65536 0 [],
    .psetStage rqS 0 65536 [], .psetStage rqS 0 0 [{ itemW with ty := 256 }], .psetVerify badRq 0 none, .psetVerify rqS 65536 none,
    .psetVerify rqS 0 (some (2 ^ 512)), .psetCommit badRq 0 0, .psetCommit rqS 65536 0, .psetCommit rqS 0 (2 ^ 256), .psetAbort badRq 0,
    .psetAbort rqS 65536, .psetStore badRq 0 0, .psetStore rqS 65536 0, .psetStore rqS 0 256, .psetLoad badRq 0, .psetLoad rqS 256,
    .psetInfo badRq 0, .psetInfo rqS 256, .v1Status badRq 0, .v1Status rqS (2 ^ 32), .v1Move badRq 0 1 0 0 0, .v1Move rqS (2 ^ 32) 1 0 0 0,
    .v1Move rqS 0 256 0 0 0, .v1Move rqS 0 1 256 0 0, .v1Move rqS 0 1 0 (2 ^ 64) 0, .v1Move rqS 0 1 0 0 (2 ^ 64), .v1Tune badRq 0 0 0,
    .v1Tune rqS (2 ^ 32) 0 0, .v1Tune rqS 0 256 0, .v1Tune rqS 0 0 (2 ^ 64)] : List Instr).all (fun c => !c.wf) = true := by
  decide +kernel

/-- Writes of members with a row of their own: a bad header of each, and a bad value of those that carry one. -/
theorem test_wf_writes : ([.wingbeatWrite badWq 0, .dutyWrite badWq 0, .setpointWrite badWq 0, .viddioWrite badWq 0, .cfgCommit badWq .axis,
    .cfgDeconfigure badWq .axis, .stageEnable badWq, .stageDisable badWq, .stageClear badWq, .diagStart badWq, .sdClear badWq,
    .gainref badWq 0 [], .gainref (wr SD.GAINREF) 0 [2 ^ 32], .stoClear badWq, .dioClear badWq, .fbEnable badWq 0, .fbSel badWq 0, .fbClear badWq, .posset badWq 0, .idxarm badWq,
    .canEnable badWq, .canDisable badWq, .canRecover badWq, .restrWrite badWq 0, .partEnable badWq 0, .ringEnable badWq 0, .ringRun badWq 0,
    .convEnable badWq 0, .convClear badWq, .cellClear badWq, .cellExcl badWq 0, .cellRetire badWq 0, .machEnable badWq 0, .machClear badWq,
    .axisEnable badWq 0, .push badWq 0, .flush badWq, .freeze badWq 0, .ipreset badWq 0, .atstart badWq 0, .traceArm badWq, .trignow badWq,
    .traceRead badWq, .ffActive badWq 0, .spack badWq, .styleWrite badWq 0, .patternSrc badWq 0, .stopRequest badWq 0, .stopEreq badWq 0,
    .stopAck badWq, .sourceClear badWq, .tclear badWq, .rclear badWq, .retiredClear badWq 0, .keyBurn badWq, .dsgen badWq, .arbcommit badWq,
    .fwrevoke badWq, .reserveCommit badWq, .psreq badWq 0] : List Instr).all (fun c => !c.wf) = true ∧
  ([fun v => .wingbeatWrite (wr SYS.WINGBEAT) v, .dutyWrite (wr SYS.WINGBEAT), .setpointWrite (wr SYS.WINGBEAT), .viddioWrite (wr SYS.WINGBEAT),
    fun v => .gainref (wr SYS.WINGBEAT) v [], .fbEnable (wr SYS.WINGBEAT), .fbSel (wr SYS.WINGBEAT), .posset (wr SYS.WINGBEAT),
    .restrWrite (wr SYS.WINGBEAT), .partEnable (wr SYS.WINGBEAT), .ringEnable (wr SYS.WINGBEAT), .ringRun (wr SYS.WINGBEAT),
    .convEnable (wr SYS.WINGBEAT), .cellExcl (wr SYS.WINGBEAT), .cellRetire (wr SYS.WINGBEAT), .machEnable (wr SYS.WINGBEAT),
    .axisEnable (wr SYS.WINGBEAT), .push (wr SYS.WINGBEAT), .freeze (wr SYS.WINGBEAT), .ipreset (wr SYS.WINGBEAT), .atstart (wr SYS.WINGBEAT),
    .ffActive (wr SYS.WINGBEAT), .styleWrite (wr SYS.WINGBEAT), .patternSrc (wr SYS.WINGBEAT), .stopRequest (wr SYS.WINGBEAT),
    .stopEreq (wr SYS.WINGBEAT), .retiredClear (wr SYS.WINGBEAT), .psreq (wr SYS.WINGBEAT)] : List (Int → Instr)).all
      (fun f => (f 0).wf && !(f (2 ^ 64)).wf) = true := by
  decide +kernel

/-! ### Values that the spec states -/

/-- The state that a command answers. -/
def after (c : Instr) (s : State) : State := match exec c s with | .next t => t | _ => s

/-- R30 and the worked example of chapter 1: the outer work of an axis costs 1,625, a current loop 1,500 with double update;
R74: an engine holds 19,600 at NOMINAL and 12,400 at LEAN, at 20 µs. -/
theorem test_charges : ((List.range 6).foldl (fun k j => k + live.chargeOf (72 + j)) 0 = 1625 ∧
    (live.mems [(MACH.DUPD, 0, 1)]).chargeOf 0 = 1500 ∧ live.chargeOf 32 = 750 ∧ live.chargeOf 40 = 500 ∧ live.engCap = 19600 ∧
    (live.mems [(POWER.SPSTATE, 0, 1)]).engCap = 12400) := by
  decide +kernel
/-- R525: ARM[12].CELL[40] is instance 0x328 and RING[17].SLOT[5] instance 0x285 of its class. -/
theorem test_instances : CELL.STATE.key 808 / 4096 % 4096 = 0x328 ∧ SLOT.STATE.key (384 + 5) / 4096 % 4096 = 0x285 := by
  decide +kernel
/-- Chapter 15's round trip: entry 3 of ring 5 begins at 0xB300, and of ring 1 in tile 19. -/
theorem test_ring_entries : (Ring.dflt 5).entry 3 = 0xB300 ∧ (Ring.dflt 1).entry 3 / 256 = 19 := by decide +kernel
/-- R16: 0x2_4000_0000 is 2.25 revolutions. -/
theorem test_position : revOf 0x240000000 = F32.ofFrac 9 4 := by decide +kernel
/-- R20: ties go to even, and subnormals count as zeros. -/
theorem test_float : (F32.ofInt 16777217 = F32.ofInt 16777216 ∧ F32.ofFrac 1 3 = F32.ofBits 0x3EAAAAAB ∧
    (F32.ofBits 1).add F32.one = F32.one) := by
  decide +kernel
/-- R24: a wingbeat length that is no multiple of 2,500 ns is refused, and 40,000 ns takes effect at the next mark. -/
theorem test_wingbeat : (after (.wingbeatWrite (wr SYS.WINGBEAT) 22501) live).tb.newTw = none ∧
    (after (.wingbeatWrite (wr SYS.WINGBEAT) 40000) live).tb.newTw = some 40000 := by
  decide +kernel
/-- R46, R50: a result that comes is committed, and one that does not come by its deadline is counted as late. -/
theorem test_handover : ((after (.resultHandover 0 false 0 {}) dueS).outSt 0).due = [] ∧
    (after (.deadline 0 false) dueS).n MACH.LATECNT 0 = 1 := by
  decide +kernel
/-- R347: a request turns the switch on; with the other switch acknowledged on it does not. -/
theorem test_gate_edge : ((after (.gateEdge 0 false 40000) (runS.setLeg 0 { lvl := true })).leg 0).hi.cmd = true ∧
    ((after (.gateEdge 0 false 40000) (runS.setLeg 0 { lvl := true, lo := { ga := true } })).leg 0).hi.cmd = false := by
  decide +kernel
/-- R448: one low pin activates STO; R450: pins that differ latch a discrepancy. -/
theorem test_sto : (after (.stoActive true false) live).sto.act = true ∧
    (after .stoDiscrepancy (after (.stoActive true false) live)).sto.disc = true := by
  decide +kernel
/-- R113: a rising step edge counts up by one. -/
theorem test_fb_edge :
    ((after (.fbEdge 0 0 true false 5 0) (live.mems [(FB.MODE, 0, 4), (FB.SEL, 0, 1)])).fbX 0).count = 1 := by
  decide +kernel
/-- R558: CAN_ERROR adds its increments; R559: TEC above 255 is bus-off. -/
theorem test_can_error : (after (.canError 0 true false 8 0) (live.mems [(CAN.STATE, 0, 2)])).n CAN.TEC 0 = 8 ∧
    (after (.canError 0 true false 8 0) (live.mems [(CAN.STATE, 0, 3), (CAN.TEC, 0, 248)])).n CAN.STATE 0 = 4 := by
  decide +kernel
/-- R402: INSERT is applied; without a valid command in two frames the cell blocks. -/
theorem test_cell : ((after (.cellApply 0 0 (some cmdW) none false) (live.setCellCtl 0 { slot := some 0 })).cellCtl 0).sw = 2 ∧
    ((after (.cellApply 0 0 none none false) (live.setCellCtl 0 { missed := 1, sw := 2 })).cellCtl 0).wdblk = true := by
  decide +kernel
/-- R637 to R652: the phases follow their commands, and READY is not entered without them. -/
theorem test_start : (after (.resetStretchEnd true) State.reset).up.phase = 1 ∧
    (after (.refQualified 0) { phaseS 1 id with tb := { State.reset.tb with lock := true } }).up.phase = 2 ∧
    (after .trimDone State.reset).up.phase = 0 := by
  decide +kernel
/-- R614, R622: a burnt fuse stays: the anti-rollback counter never falls. -/
theorem test_arb : (after (.arbcommit (wr SEC.ARBCOMMIT)) ({ live with otp := { live.otp with arb := 5 } }.mems
    [(LIFE.STATE, 0, 2)])).otp.arb = 5 := by
  decide +kernel
/-- The queue: the front command runs on the rest, and an empty queue idles (log entry 1). -/
theorem test_step : (match step { live with pending := [.stoRelease, .psetTimeout] } with
    | .next t => t.pending | _ => []) = [.psetTimeout] ∧ (match step live with | .next t => decide (t = live) | _ => false) = true := by
  decide +kernel


/-! ### TimeCommandsComplete -/

def markU (s : State) : State := (s.traceClose (2 * s.wb + 2) 0).telemClose.markTime.profilesOf
def markW (s : State) : State := (List.range 64).foldl State.ffFade ((markU s).markInputs {}).markRings.markEnables
theorem met_time_commands_complete_1 : Met live fun s => s.marksRun ∧ s.tb.first = false ∧
    (markU s).ex.fullDue = false ∧ (markW s).n POWER.PSTATE < 3 ∧ (markW s).canMark.flight ∧
    (markW s).canMark.pow.gaDue = false := by
  decide +kernel
theorem met_time_commands_complete_2 : Met live fun s => s.marksRun ∧ s.tb.half = false ∧ s.tb.first = false := by
  decide +kernel
theorem met_time_commands_complete_3 : Met dueS fun s => s.outKey 0 = some 0 ∧
    ((s.outSt 0).due.find? (·.half = false)).isSome ∧ dueR.out.isEmpty = false ∧ s.dueLate dueR = false ∧
    dueR.out.all F32.finite? ∧ (s.rewriteHome 0).outBlocked 0 = false ∧ ((s.rewriteHome 0).outSt 0).seq ≤ dueR.seq := by
  decide +kernel
theorem met_time_commands_complete_4 : Met (dueS.mems [(MACH.LATERUN, 0, 1)]) fun s => s.outKey 0 = some 0 ∧
    (s.outSt 0).due.find? (·.half = false) = some dueR ∧ (s.dropDue 0 dueR.seq).outBlocked 0 = false ∧
    ((s.dropDue 0 dueR.seq).outSt 0).seq ≤ dueR.seq ∧
    (s.dropDue 0 dueR.seq).n (lateMems 0).run (outOwner 0).2 ≠ 0 := by
  decide +kernel
theorem met_time_commands_complete_5 : Met live fun s => s.tb.refok ∧ s.fixedPt = false := by
  decide +kernel

/-! ### EdgeCommandsComplete -/

theorem met_edge_commands_complete_1 : Met (runS.setLeg 0 { fix := some 400 }) fun s => s.modulates 0 ∧
    s.nextEdge 0 = some 400 ∧ s.tb.cycles * 8 + 320 ≤ 400 ∧ 400 - 320 < s.tb.cycles * 8 + s.twCyc * 8 := by
  decide +kernel
theorem met_edge_commands_complete_2 : Met (runS.setLeg 0 { lvl := true }) fun s => (s.leg 0).te = none ∧
    (((s.atOff 40000).leg 0).sw false).cmd = false ∧ (((s.atOff 40000).leg 0).sw false).wait = false ∧
    (s.atOff 40000).request 0 false ∧ (((s.atOff 40000).leg 0).sw true).cmd = false ∧
    (((s.atOff 40000).leg 0).sw true).ga = false ∧
    (((s.atOff 40000).leg 0).sw true).offAt + (s.atOff 40000).deadT 0 ≤ (s.atOff 40000).vnow ∧
    (s.atOff 40000).heldOff 0 = false := by
  decide +kernel
theorem met_edge_commands_complete_3 : Met (runS.setStg 0 { b := 1, bT := 0, perEnd := 1000000, hand := true }) fun s =>
    s.modulates 0 ∧ s.tripHolds 0 = false ∧ s.rungPending 0 ∧ (s.stg 0).hand ∧ s.spreads 0 = false ∧
    ((((s.atOff 0).carTo 0 (s.atOff 0).vnow 64).rungTo 0 (((s.atOff 0).carTo 0 (s.atOff 0).vnow 64).stg 0).bT (((s.atOff 0).carTo 0 (s.atOff 0).vnow 64).stg 0).sixT (s.atOff 0).vnow).rungOf 0) = 0 := by
  decide +kernel
theorem met_edge_commands_complete_4 : Met ((live.mems [(TRACE.STATE, 0, 5), (TRACE.NCH, 0, 15)]).setTrace 0 { buf := List.replicate 65 { wb := 0, head := 0, ch := [] } }) fun s =>
    s.trState 0 = 5 ∧ s.g TRACE.DEST 0 ≠ 1 ∧ s.hasRoom 9 ∧
    ((s.traceX 0).tidx + 1) * perTile (((s.traceX 0).buf.head?.map fun r => r.ch.length).getD (s.n TRACE.NCH 0)) < (s.traceX 0).buf.length := by
  decide +kernel

/-! ### StartUpCommandsComplete -/

theorem met_start_up_commands_complete_1 : Met State.reset fun s => s.up.stretch ∧ s.up.p3Restart = false ∧
    s.up.phase = 0 := by
  decide +kernel
theorem met_start_up_commands_complete_2 : Met (phaseS 3 (fun u => { u with stretch := true, p3Restart := true })) fun s =>
    s.up.stretch ∧ s.up.p3Restart := by
  decide +kernel
theorem met_start_up_commands_complete_3 : Met ({ phaseS 1 id with tb := { State.reset.tb with early := true } }) fun s =>
    s.up.phase = 1 ∧ s.tb.early := by
  decide +kernel
theorem met_start_up_commands_complete_4 : Met (phaseS 2 id) fun s => s.up.phase = 2 ∧ wipeDue s.otp = none := by
  decide +kernel
theorem met_start_up_commands_complete_5 : Met ({ phaseS 2 id with otp := { State.reset.otp with mint := true } }) fun s =>
    s.up.phase = 2 ∧ wipeDue s.otp = some 1 := by
  decide +kernel
theorem met_start_up_commands_complete_6 : Met (phaseS 3 id) fun s => s.up.phase = 3 ∧ s.up.stretch = false := by
  decide +kernel
theorem met_start_up_commands_complete_7 : Met (phaseS 4 id) fun s => s.up.phase = 4 ∧ s.up.pins = false := by
  decide +kernel
theorem met_start_up_commands_complete_8 : Met (phaseS 4 (fun u => { u with pins := true })) fun s => s.up.phase = 4 ∧
    s.up.pins := by
  decide +kernel
theorem met_start_up_commands_complete_9 : Met (phaseS 5 id) fun s => s.up.phase = 5 ∧ s.up.optfail = false ∧
    (s.slot 0).stat ≠ 2 ∧ (s.slot 1).stat ≠ 2 := by
  decide +kernel
theorem met_start_up_commands_complete_10 : Met (phaseS 6 (fun u => { u with mothball := 2 })) fun s =>
    s.up.phase = 6 ∧ s.up.testFirst = false ∧ s.up.mothball ≠ 0 ∧
    s.readRecords.vault.supervisorReset.mram.retiredLost = false ∧
    s.readRecords.vault.supervisorReset.up.mothball ≠ 0 := by
  decide +kernel

/-! ### ResetCommandsComplete -/

theorem met_reset_commands_complete_1 : Met live fun s => ¬ ((0 : Nat) = 0 ∧ 4 ≤ s.n POWER.PSTATE) := by
  decide +kernel
theorem met_reset_commands_complete_2 : Met live fun s => s.up.phase = 3 ∨ 5 ≤ s.up.phase := by
  decide +kernel
theorem met_reset_commands_complete_3 : Met live fun s => s.watchdogRuns := by
  decide +kernel
theorem met_reset_commands_complete_4 : Met live fun s => 5 ≤ s.up.phase := by
  decide +kernel
theorem met_reset_commands_complete_5 : Met live fun s => s.ready := by
  decide +kernel
theorem met_reset_commands_complete_6 : Met live fun s => s.tamperOff = false := by
  decide +kernel
theorem met_reset_commands_complete_7 : Met (phaseR 4) fun s => 2 ≤ s.up.phase ∧ s.up.phase < 7 ∧ s.tb.refok ∧
    s.n POWER.PSTATE < 4 := by
  decide +kernel

/-! ### ResetLeavesTheResetState -/

theorem met_reset_leaves_the_reset_state_1 : Met State.reset fun s => (2 = 2 ∨ 2 = 0x26 ∨ 2 = 0x27) := by
  decide +kernel

/-! ### ReferenceCommandsComplete -/

theorem met_reference_commands_complete_1 : Met (phaseS 1 id) fun s => s.up.phase ≠ 0 ∧ s.tb.lock = false := by
  decide +kernel
theorem met_reference_commands_complete_2 : Met ({ phaseS 1 id with tb := { State.reset.tb with lock := true } }) fun s =>
    s.tb.lock ∧ s.tb.refok = false ∧ s.up.phase = 1 := by
  decide +kernel
theorem met_reference_commands_complete_3 : Met ({ live with tb := { live.tb with refok := false, loss := true } }) fun s =>
    s.tb.lock ∧ s.tb.refok = false ∧ s.up.phase = 7 ∧ s.tb.loss ∧ s.tb.ovrd = false := by
  decide +kernel
theorem met_reference_commands_complete_4 : Met live fun s => s.tb.refok ∧ s.up.phase = 7 ∧ s.n POWER.PSTATE < 4 := by
  decide +kernel
theorem met_reference_commands_complete_5 : Met live fun s => s.tb.refok ∧ s.g THERM.STEP < 1 ∧
    s.g POWER.PSTATE < 2 := by
  decide +kernel

/-! ### PortCommandsComplete -/

theorem met_port_commands_complete_1 : Met live fun s => s.portsAnswer ∧ (s.port 0).crcen = false ∧
    (List.range 4).all (fun k => s.mayWrite 0 (11264 + k)) ∧ 11264 / 256 = (11264 + 4 - 1) / 256 ∧
    (s.ring ((s.ringOf 11264).getD 0)).world = false ∧ s.g POWER.PSTATE ≠ 3 ∧ (s.port 0).wbuf = none := by
  decide +kernel
theorem met_port_commands_complete_2 : Met live fun s => s.portsAnswer ∧ (s.port 0).crcen = false ∧
    11264 / 256 = (11264 + 4 - 1) / 256 ∧ 11264 / 256 < 2048 ∧
    (match s.ringOf 11264 with | some r => (s.ring r).world | none => false) = false ∧ s.g POWER.PSTATE ≠ 3 ∧ s.badTags.contains (11264 / 256) = false := by
  decide +kernel
theorem met_port_commands_complete_3 : Met (live.setPort 0 { wbuf := some (11264, [1]) }) fun s =>
    (s.port 0).wbuf = some (11264, [1]) := by
  decide +kernel

/-! ### RingCommandsComplete -/

theorem met_ring_commands_complete_1 : Met ((live.produce 7 (zeros 32))) fun s => s.portsAnswer ∧
    ((s.commitBuffer 0).ring 7).owner = 0 ∧ ((s.commitBuffer 0).ring 7).en ∧
    1 < 2 * ((s.commitBuffer 0).ring 7).size ∧ hostConsumes 7 ((s.commitBuffer 0).ring 7) ∧
    (((s.commitBuffer 0).ring 7).head + 2 * ((s.commitBuffer 0).ring 7).size - 1) % (2 * ((s.commitBuffer 0).ring 7).size) ≤ (((s.commitBuffer 0).ring 7).head + 2 * ((s.commitBuffer 0).ring 7).size - ((s.commitBuffer 0).ring 7).tail) % (2 * ((s.commitBuffer 0).ring 7).size) := by
  decide +kernel
theorem met_ring_commands_complete_2 : Met live fun s => s.portsAnswer ∧ ((s.commitBuffer 0).ring 2).owner = 0 ∧
    ((s.commitBuffer 0).ring 2).en ∧ 1 < 2 * ((s.commitBuffer 0).ring 2).size ∧
    hostConsumes 2 ((s.commitBuffer 0).ring 2) = false ∧
    (1 + 2 * ((s.commitBuffer 0).ring 2).size - ((s.commitBuffer 0).ring 2).tail) % (2 * ((s.commitBuffer 0).ring 2).size) ≤ ((s.commitBuffer 0).ring 2).size ∧
    (1 + 2 * ((s.commitBuffer 0).ring 2).size - ((s.commitBuffer 0).ring 2).head) % (2 * ((s.commitBuffer 0).ring 2).size) ≤ (1 + 2 * ((s.commitBuffer 0).ring 2).size - ((s.commitBuffer 0).ring 2).tail) % (2 * ((s.commitBuffer 0).ring 2).size) := by
  decide +kernel
theorem met_ring_commands_complete_3 : Met live fun s => bit s.sto.cfg 12 := by
  decide +kernel
theorem met_ring_commands_complete_4 : Met ((live.produce 7 (zeros 32)).mems [(HRING.AGEMAX, 7, 10)]) fun s =>
    s.g HRING.AGEMAX 7 ≠ 0 ∧ (s.ring 7).empty = false ∧ (s.ring 7).en ∧ hostConsumes 7 (s.ring 7) := by
  decide +kernel
theorem met_ring_commands_complete_5 : Met ({ live with alarms := [{ code := 0x4301, inst := 0, detail := 0, wb := 0, wblast := 0, count := 2 }] }) fun s =>
    s.alarms ≠ [] ∧ s.hasRoom 7 := by
  decide +kernel

/-! ### SystemRequestsComplete -/

theorem met_system_requests_complete_1 : (Met live0 fun s =>
    runs s rq0 { code := 1, ring0 := true, life := anyLife, moth := true }) ∧
    Met live fun s => runs s rqS { code := 1, ring0 := true, life := anyLife, moth := true } := by
  decide +kernel
theorem met_system_requests_complete_2 : Met live fun s =>
    runs s rqS { code := 2, life := anyLife, moth := true } := by
  decide +kernel
theorem met_system_requests_complete_3 : Met live fun s =>
    runs s rqO { code := 3, life := anyLife, moth := true } := by
  decide +kernel
theorem met_system_requests_complete_4 : Met live fun s =>
    runs s rqS { code := 4, life := anyLife, moth := true } := by
  decide +kernel
theorem met_system_requests_complete_5 : Met live fun s =>
    runs s rqO { code := 0x400, life := anyLife, moth := true } := by
  decide +kernel

/-! ### ReadRequestsComplete -/

theorem met_read_requests_complete_1 : Met live fun s => runs s rqO { code := 0x100, life := readLife } ∧
    holds ((tk s).readMember (secured s rqO) (SYS.WINGBEAT.key 0)) (.u32, 20000) := by
  decide +kernel
theorem met_read_requests_complete_2 : Met live fun s => runs s rqO { code := 0x102, life := readLife } := by
  decide +kernel
theorem met_read_requests_complete_3 : Met live fun s => runs s rqO { code := 0x104, life := readLife } ∧
    holds ((taken s rqO).readMember (secured s rqO) (LEDGER.TPER.key 0)) (LEDGER.TPER.ty, 50000) ∧
    2 * LEDGER.TPER.ty.bytes ≤ 1020 ∧ 2 ≤ (taken s rqO).elemsFrom (LEDGER.TPER.key 0) ∧
    ((taken s rqO).readElems (secured s rqO) (LEDGER.TPER.key 0) 2).2.2 = .ok := by
  decide +kernel
theorem met_read_requests_complete_4 : Met live fun s => runs s rqO { code := 0x106, life := readLife } ∧
    hasInst 1 0 ∧ secured s rqO = false ∧ (taken s rqO).blockSecure (blockOf SYS.WINGBEAT 0) = false := by
  decide +kernel
theorem met_read_requests_complete_5 : Met live fun s => runs s rqS { code := 0x106, life := readLife } ∧
    hasInst 1 0 ∧ secured s rqS := by
  decide +kernel
theorem met_read_requests_complete_6 : Met live fun s =>
    runs s rqS { code := 0x300, life := readLife, moth := true } ∧
    ((tk s).regRead (secured s rqS) regOk 1).1 = .ok := by
  decide +kernel

/-! ### WriteRequestsComplete -/

theorem met_write_requests_complete_1 : Met live fun s =>
    runs s rqS { code := 0x101, life := s.objLife rqS [SYS.WINGBEAT.key 0] } ∧ (tyOf 5).isSome ∧
    ((tk s).writeItem (secured s rqS) ⟨SYS.WINGBEAT.key 0, 5, 40000⟩).1 = .ok := by
  decide +kernel
theorem met_write_requests_complete_2 : Met live fun s =>
    runs s rqS { code := 0x103, life := s.objLife rqS [SYS.WINGBEAT.key 0] } ∧
    ((tk s).writeItems (secured s rqS) [⟨SYS.WINGBEAT.key 0, 5, 40000⟩] 0 .ok).1 = 1 ∧
    ((tk s).writeItems (secured s rqS) [⟨SYS.WINGBEAT.key 0, 5, 40000⟩] 0 .ok).2.1 = .ok ∧
    ((tk s).writeItems (secured s rqS) [⟨SYS.WINGBEAT.key 0, 5, 40000⟩] 0 .ok).2.2.1 = none := by
  decide +kernel
theorem met_write_requests_complete_3 : Met live fun s =>
    runs s rqS { code := 0x105, life := s.objLife rqS [LEDGER.TNODE.key 0] } ∧
    (tyOf LEDGER.TNODE.ty.code).map Ty.bytes = some 4 ∧ 2 ≤ (tk s).elemsFrom (LEDGER.TNODE.key 0) ∧
    ((tk s).writeItems (secured s rqS) [⟨LEDGER.TNODE.key 0, LEDGER.TNODE.ty.code, 0⟩, ⟨LEDGER.TNODE.key 0 + 1, LEDGER.TNODE.ty.code, 0⟩] 0 .ok).1 = 2 ∧
    ((tk s).writeItems (secured s rqS) [⟨LEDGER.TNODE.key 0, LEDGER.TNODE.ty.code, 0⟩, ⟨LEDGER.TNODE.key 0 + 1, LEDGER.TNODE.ty.code, 0⟩] 0 .ok).2.1 = .ok := by
  decide +kernel
theorem met_write_requests_complete_4 : Met live fun s =>
    runs s rqS { code := 0x301, secure := false, life := writeLife } ∧
    [24, 28, 29, 30, 31].contains ((windowOf regW).getD 0) = false ∧
    ((tk s).regWrite (secured s rqS) regW 0xFFFFFFFF 0).1 = .ok := by
  decide +kernel

/-! ### DirectRequestsComplete -/

theorem met_direct_requests_complete_1 : Met (live.mems [(RING.NCELL, 0, 4), (RING.STATE, 0, 3)]) fun s =>
    runs s rqS { code := 0x401, life := writeLife } ∧ secured s rqS ∧ 1 < (tk s).n RING.NCELL 0 ∧
    ((tk s).link 0).svc = none ∧ (tk s).rState 0 = 3 ∧ defersRoom s rqS := by
  decide +kernel
theorem met_direct_requests_complete_2 : Met (live.setLink 0 { live.link 0 with svc := some { slot := 0, tid := 0, op := 0, addr := 0, data := [] } }) fun s =>
    (s.link 0).svc.isSome := by
  decide +kernel
theorem met_direct_requests_complete_3 : Met (live.mems [(CAN.STATE, 0, 2)]) fun s =>
    runs s rqS { code := 0x402, life := writeLife } ∧ secured s rqS ∧ (tk s).canTxOk 0 0 0x123 8 ∧
    (tk s).g CAN.STATE 0 ≠ 0 ∧ ((tk s).canSend { port := 0, flags := 0, id := 0x123, data := zeros 8 }).2 := by
  decide +kernel
theorem met_direct_requests_complete_4 : Met live0 fun s =>
    runs s rq0 { code := 0x700, ring0 := true, window := false, life := anyLife, moth := true } := by
  decide +kernel
theorem met_direct_requests_complete_5 : Met live0 fun s =>
    runs s rq0 { code := 0x701, ring0 := true, window := false, secure := true, life := writeLife } := by
  decide +kernel

/-! ### ParameterSetRequestsComplete -/

theorem met_parameter_set_requests_complete_1 : Met live fun s => runs s rqS { code := 0x200, life := writeLife } ∧
    (tk s).pset = none := by
  decide +kernel
theorem met_parameter_set_requests_complete_2 : Met (setS [] false) fun s =>
    runs s rqS { code := 0x201, life := writeLife } ∧ holds ((tk s).psetBar rqS (secured s rqS) 1) (setP [] false) ∧
    ((tk s).stageItems (secured s rqS) [] [itemW]).2 = none := by
  decide +kernel
theorem met_parameter_set_requests_complete_3 : Met (setS [itemW] false) fun s =>
    runs s rqS { code := 0x202, life := writeLife } ∧
    holds ((tk s).psetBar rqS (secured s rqS) 1) (setP [itemW] false) ∧ (tk s).psetNeeds [itemW] = false ∧
    ((tk s).itemBar (secured s rqS) itemW).isNone ∧ (tk s).psetAdmit [itemW] = none ∧ defersRoom s rqS := by
  decide +kernel
theorem met_parameter_set_requests_complete_4 : Met (setS [itemW] true) fun s =>
    runs s rqS { code := 0x203, life := writeLife } ∧
    holds ((tk s).psetBar rqS (secured s rqS) 1) (setP [itemW] true) ∧ (tk s).psetNeeds [itemW] = false ∧
    ((tk s).psetApply (secured s rqS) [itemW]).1.accepted ∧ defersRoom s rqS := by
  decide +kernel
theorem met_parameter_set_requests_complete_5 : Met (setS [] false) fun s =>
    runs s rqS { code := 0x204, life := writeLife } ∧
    holds ((tk s).psetBar rqS (secured s rqS) 1) (setP [] false) := by
  decide +kernel
theorem met_parameter_set_requests_complete_6 : Met (setS [itemW] true) fun s =>
    runs s rqS { code := 0x205, life := writeLife } ∧
    holds ((tk s).psetBar rqS (secured s rqS) 1) (setP [itemW] true) ∧ (setP [itemW] true).verified ∧
    defersRoom s rqS := by
  decide +kernel
theorem met_parameter_set_requests_complete_7 : Met slotS fun s => runs s rqS { code := 0x206, life := writeLife } ∧
    ((tk s).psetSlot 0).map (·.secure) = some (secured s rqS) ∧ (tk s).pset = none := by
  decide +kernel
theorem met_parameter_set_requests_complete_8 : Met slotS fun s => runs s rqS { code := 0x207, life := readLife } ∧
    ((tk s).psetSlot 0).isSome := by
  decide +kernel
theorem met_parameter_set_requests_complete_9 : Met (setS [] false) fun s => s.pset.isSome := by
  decide +kernel

/-! ### DeferredAndBadFramesComplete -/

theorem met_deferred_and_bad_frames_complete_1 : Met ({ live with defers := [{ rq := rqS, opcode := 0x202, addr := 0, secure := true, kind := .work, done := some (0, 0, []) }] }) fun s =>
    (s.defers[0]?).map (·.done) = some (some (0, 0, [])) ∧ s.ready ∧ s.n POWER.PSTATE ≤ 2 ∧
    s.hasRoom (5 + s.portOf rqS) ∧ rqS.quiet = false := by
  decide +kernel
theorem met_deferred_and_bad_frames_complete_2 : Met live fun s => s.takes rqS := by
  decide +kernel

/-! ### CompatibilityRequestsComplete -/

theorem met_compatibility_requests_complete_1 : Met live fun s => runs s rqS { code := 0x800, life := readLife } ∧
    v1Addr (AXIS.CFG.key 0 / 4096 * 4096) 5 16 = some 0 ∧ secured s rqS := by
  decide +kernel
theorem met_compatibility_requests_complete_2 : Met moveS fun s => runs s rqS { code := 0x801, life := writeLife } ∧
    v1Addr (AXIS.CFG.key 0 / 4096 * 4096) 5 16 = some 0 ∧ secured s rqS ∧ ((tk s).f AXIS.VMAX 0).zero? = false ∧
    ((((((((((tk s).put PROF.TYPE 0 1).put PROF.TARGET 0 65536).putF PROF.VEL 0 (((F32.ofInt 8192).mul ((tk s).f AXIS.VMAX 0)).mul (F32.ofFrac 1 16384))).putF PROF.ACC 0 F32.zero).putF PROF.DEC 0 F32.zero).putF PROF.JERK 0 F32.zero).put PROF.FLAGS 0 0).put PROF.TAG 0 1).applyWrite (secured s rqS) PROF.PUSH 0 0 1).1 = .ok := by
  decide +kernel
theorem met_compatibility_requests_complete_3 : Met (live.mems [(STAGE.MACH, 0, 0)]) fun s =>
    runs s rqS { code := 0x802, life := writeLife } ∧ v1Addr (16 * 16777216) 16 96 = some 0 ∧ (tk s).tunable 0 ∧
    secured s rqS := by
  decide +kernel

/-! ### AuthorisedRequestsComplete -/

theorem met_authorised_requests_complete_1 : Met live fun s =>
    runs s rqS { code := 0x600, life := anyLife, moth := true } := by
  decide +kernel
theorem met_authorised_requests_complete_2 : Met ({ live with up := { live.up with due := some 0x24 } }) fun s =>
    s.up.due = some 0x24 := by
  decide +kernel
theorem met_authorised_requests_complete_3 : Met live fun s =>
    runs s rqS { code := 0x601, secure := true, life := writeLife, moth := true } ∧ (tk s).n SEC.FWSLOT ≠ 1 := by
  decide +kernel
theorem met_authorised_requests_complete_4 : Met fwS fun s =>
    runs s rqS { code := 0x602, secure := true, life := writeLife, moth := true } ∧ (tk s).sec.fw = some (1, 128, 1) ∧
    0 = ((tk s).slot 1).bytes.length := by
  decide +kernel
theorem met_authorised_requests_complete_5 : Met fwS fun s =>
    runs s rqS { code := 0x603, secure := true, life := writeLife, moth := true } ∧ (tk s).sec.fw = some (1, 128, 1) ∧
    defersRoom s rqS := by
  decide +kernel
theorem met_authorised_requests_complete_6 : Met live fun s =>
    runs s rqS { code := 0x604, secure := true, life := anyLife } ∧ (tk s).lifeAllowed 1 ∧ (tk s).lifeBusy = false ∧
    (tk s).life ≠ 1 ∧ defersRoom s rqS := by
  decide +kernel
theorem met_authorised_requests_complete_7 : Met ({ live with sec := { live.sec with lifeTo := some 1 } }) fun s =>
    s.sec.lifeTo = some 1 := by
  decide +kernel

/-! ### SettingWritesComplete -/

theorem met_setting_writes_complete_1 : Met live fun s => writes s (wr SYS.WINGBEAT) SYS.WINGBEAT 40000 ∧
    ((List.range (16)).all fun i => decide ((tk s).stState i ∉ [1, 2, 3, 6])) ∧
    ((List.range (4)).all fun r => decide ((tk s).rState r ≠ 2 ∧ (tk s).rState r ≠ 4)) ∧
    ((List.range (16)).all fun x => decide ((tk s).b AXIS.ENABLE x = false)) ∧ (tk s).wingbeatBreaks 40000 = false ∧
    (tk s).taskIds.foldl (fun k t => k + ((tk s).put SYS.WINGBEAT 0 40000).chargeOf t) 0 ≤ ((tk s).put SYS.WINGBEAT 0 40000).admCap ∧
    ((List.range (4)).all fun r => decide ((tk s).ringTight r 40000 = false)) := by
  decide +kernel
theorem met_setting_writes_complete_2 : Met live fun s => writes s (wr PROFILE.DUTY) PROFILE.DUTY 1 ∧
    (tk s).g PROFILE.DUTY ≠ 1 := by
  decide +kernel
theorem met_setting_writes_complete_3 : Met (live.mems [(POWER.VIDDIO, 0, 4)]) fun s =>
    writes s (wr POWER.SETPOINT) POWER.SETPOINT 1 ∧ (tk s).n POWER.SETPOINT ≠ 1 ∧ (tk s).n POWER.VIDDIO ≠ 255 ∧
    (tk s).charge ≤ (tk s).capWith (throughput 1) (tk s).admittedList.length (tk s).paired ∧ (tk s).flight := by
  decide +kernel
theorem met_setting_writes_complete_4 : Met (live.mems [(DIO.FUNC, 4, 1), (DIO.FUNC, 5, 1), (DIO.FUNC, 6, 1)]) fun s =>
    writes s (wr POWER.VIDDIO) POWER.VIDDIO 4 ∧ ((List.range (3)).all fun k => decide ((tk s).n DIO.FUNC (4 + k) = 1 ∧
    (tk s).n DIO.POL (4 + k) = 0)) ∧ (tk s).flight ∧ (tk s).n POWER.SETPOINT = 0 ∧ (tk s).n POWER.VIDDIO ≠ 4 := by
  decide +kernel
theorem met_setting_writes_complete_5 : Met live fun s => writes s (wr (cfgRow .mach)) (cfgRow .mach) 1 ∧
    (tk s).cfgBar 6 0 = none ∧ ((tk s).cfgCommitAll [(6, 0)]).isSome := by
  decide +kernel
theorem met_setting_writes_complete_6 : Met (live.mems [(AXIS.CFG, 0, 1)]) fun s =>
    writes s (wr (cfgRow .axis)) (cfgRow .axis) 0 ∧ (tk s).cfgBusy 5 0 = false := by
  decide +kernel

/-! ### StageWritesComplete -/

theorem met_stage_writes_complete_1 : Met (live.mems [(STAGE.MACH, 0, 0)]) fun s =>
    writes s (wr STAGE.ENABLE) STAGE.ENABLE 1 ∧ (tk s).n STAGE.MACH 0 ≠ 255 ∧ (tk s).stState 0 = 0 ∧
    (tk s).stageActs 0 = false ∧ (tk s).stopOver ((tk s).axisOfStage 0) = false ∧ (tk s).stopOverStage 0 = false ∧
    (tk s).stageLatched 0 = false ∧ (tk s).sto.act = false ∧ (tk s).latchedOver ((tk s).axisOfStage 0) = false ∧
    (tk s).heldAxis ((tk s).axisOfStage 0) = false := by
  decide +kernel
theorem met_stage_writes_complete_2 : Met (live.mems [(STAGE.MACH, 0, 0), (STAGE.STATE, 0, 3)]) fun s =>
    writes s (wr STAGE.ENABLE) STAGE.ENABLE 0 ∧ (tk s).b MACH.ENABLE ((tk s).n STAGE.MACH 0) = false ∧
    1 ≤ (tk s).stState 0 ∧ (tk s).stState 0 ≤ 3 := by
  decide +kernel
theorem met_stage_writes_complete_3 : Met (live.mems [(STAGE.STATE, 0, 5)]) fun s =>
    writes s (wr STAGE.CLEAR) STAGE.CLEAR 1 ∧ (tk s).stState 0 = 5 ∧ (tk s).stageActs 0 = false ∧
    (tk s).stageCause 0 = false := by
  decide +kernel
theorem met_stage_writes_complete_4 : Met live fun s => writes s (wr STAGE.DIAG) STAGE.DIAG 1 ∧ (tk s).stState 0 = 0 ∧
    ((tk s).stg 0).enPend = false := by
  decide +kernel

/-! ### InputWritesComplete -/

theorem met_input_writes_complete_1 : Met ((live.mems [(SD.STATE, 0, 3)]).setSdX 0 { clean := 1024 }) fun s =>
    writes s (wr SD.CLEAR) SD.CLEAR 1 ∧ (tk s).g SD.STATE 0 = 3 ∧ 1024 ≤ ((tk s).sdX 0).clean := by
  decide +kernel
theorem met_input_writes_complete_2 : Met sdS fun z =>
    let s := z.sdMore 0 [z.n SD.MC 0 ^ 3, z.n SD.MC 0 ^ 3]
    let gc := (F32.ofBits ((tk s).f SD.SCALE 0).toBits).div
      (((tk s).f SD.SCALE 0).mul (((tk s).sdMean 0 ((tk s).sdX 0).sums).sub ((tk s).f SD.OFFS 0)))
    writes s (wr SD.GAINREF) SD.GAINREF ((tk s).f SD.SCALE 0).toBits ∧ ((tk s).sdX 0).sums ≠ [] ∧
    (F32.ofFrac 9 10).le gc ∧ gc.le (F32.ofFrac 11 10) := by
  decide +kernel
theorem met_input_writes_complete_3 : Met (live.mems [(DIO.VALID, 0, 0)]) fun s => writes s (wr DIO.CLEAR) DIO.CLEAR 1 ∧
    (tk s).g DIO.VALID 0 = 0 := by
  decide +kernel
theorem met_input_writes_complete_4 : Met live fun s => writes s (wr FB.MODE) FB.MODE 2 ∧ (tk s).g FB.MODE 0 = 0 ∧
    (tk s).n FB.ADV 0 * 5 < (tk s).twFit * 2 := by
  decide +kernel
theorem met_input_writes_complete_5 : Met ((live.mems [(FB.MODE, 0, 2), (FB.STATE, 0, 2), (FB.FBKCH, 0, 1), (FB.MODE, 1, 2), (FB.STATE, 1, 2)]).setFbX 0 { fbo := some 0 }) fun s =>
    writes s (wr FB.SEL) FB.SEL 1 ∧ (tk s).g FB.SEL 0 ≠ 1 ∧ (tk s).n FB.FBKCH 0 < 16 ∧
    (tk s).g FB.STATE ((tk s).n FB.FBKCH 0) = 2 ∧ ((tk s).fbX 0).fbo.isSome ∧ (tk s).fbIsFallback 0 = false := by
  decide +kernel
theorem met_input_writes_complete_6 : Met (live.mems [(FB.MODE, 0, 2), (FB.STATE, 0, 4)]) fun s =>
    writes s (wr FB.CLEAR) FB.CLEAR 1 ∧ ((tk s).axesOfFb 0).any (fun x => (tk s).b AXIS.ENABLE x) = false ∧
    (tk s).g FB.STATE 0 = 4 := by
  decide +kernel
theorem met_input_writes_complete_7 : Met live fun s => writes s (wr FB.POSSET) FB.POSSET 12345 := by
  decide +kernel
theorem met_input_writes_complete_8 : Met live fun s => writes s (wr FB.IDXARM) FB.IDXARM 1 := by
  decide +kernel

/-! ### CanWritesComplete -/

theorem met_can_writes_complete_1 : Met (live.mems canGood) fun s => writes s (wr CAN.EN) CAN.EN 1 ∧
    (tk s).b CAN.EN 0 = false ∧ (tk s).canTimingOk 0 := by
  decide +kernel
theorem met_can_writes_complete_2 : Met (live.mems [(CAN.EN, 0, 1), (CAN.STATE, 0, 2)]) fun s =>
    writes s (wr CAN.EN) CAN.EN 0 ∧
    ((List.range (256)).all fun i => decide ((tk s).b PART.EN i = false ∨ (tk s).g PART.KIND i ≠ 1)) := by
  decide +kernel
theorem met_can_writes_complete_3 : Met (live.mems [(CAN.EN, 0, 1), (CAN.STATE, 0, 4)]) fun s =>
    writes s (wr CAN.RECOVER) CAN.RECOVER 1 ∧ (tk s).cState 0 = 4 := by
  decide +kernel
theorem met_can_writes_complete_4 : Met (live.mems [(CAN.EN, 0, 1), (CAN.STATE, 0, 2)]) fun s =>
    writes s (wr CAN.RESTR) CAN.RESTR 1 ∧ ((tk s).put CAN.RESTR 0 1).cState 0 = 2 := by
  decide +kernel
theorem met_can_writes_complete_5 : Met (live.mems [(PART.EN, 0, 1)]) fun s => writes s (wr PART.EN) PART.EN 0 ∧
    (tk s).n PART.KIND 0 ≠ 1 := by
  decide +kernel

/-! ### RingAndConverterWritesComplete -/

theorem met_ring_and_converter_writes_complete_1 : Met (live.mems [(RING.EXPN, 0, 4)]) fun s =>
    writes s (wr RING.EN) RING.EN 1 ∧ (tk s).rState 0 = 0 ∧ (tk s).g RING.EXPN 0 ≠ 0 ∧
    (tk s).tripTight ((tk s).n RING.EXPN 0) = false := by
  decide +kernel
theorem met_ring_and_converter_writes_complete_2 : Met (live.mems [(RING.EN, 0, 1), (RING.STATE, 0, 3), (RING.NCELL, 0, 2)]) fun s =>
    writes s (wr RING.RUN) RING.RUN 1 ∧ (tk s).rState 0 = 3 ∧ (tk s).stopOver 255 = false ∧
    (∀ c ∈ (tk s).convsOn 0, (tk s).stopOver ((tk s).axisOfConv c) = false ∧ (tk s).latchedOver ((tk s).axisOfConv c) = false) ∧
    (tk s).sto.act = false ∧ (tk s).latchedOver 255 = false ∧ (tk s).rttOk 0 ∧
    ((List.range ((tk s).n RING.NCELL 0)).all fun k => decide ((tk s).g SLOT.STATE (384 * 0 + k) ≠ 2)) := by
  decide +kernel
theorem met_ring_and_converter_writes_complete_3 : Met (((live.mems convGood).setTask 40 { st := 1 }).setTask 41 { st := 1 }) fun s =>
    writes s (wr CONV.ENABLE) CONV.ENABLE 1 ∧ (tk s).n CONV.MACH 0 ≠ 255 ∧ (tk s).n CONV.SDDC 0 ≠ 255 ∧
    ((tk s).f CONV.VDCNOM 0).zero? = false ∧ ((tk s).f CONV.VCNOM 0).zero? = false ∧
    (∀ a ∈ (tk s).convArms 0, (tk s).nReq 0 ≤ (tk s).n ARM.NCELL a) ∧ (∀ a ∈ (tk s).convArms 0, ((tk s).task (40 + a)).st ≠ 0) ∧ (tk s).g CONV.CFG 0 = 2 ∧
    (tk s).ownerStranded 9 0 = false ∧ (tk s).convActs 0 = false ∧ (tk s).stopOver ((tk s).axisOfConv 0) = false ∧
    (tk s).cvState 0 = 0 ∧ (tk s).sto.act = false ∧ (tk s).latchedOver ((tk s).axisOfConv 0) = false ∧
    (tk s).heldAxis ((tk s).axisOfConv 0) = false := by
  decide +kernel
theorem met_ring_and_converter_writes_complete_4 : Met (live.mems [(CONV.STATE, 0, 7)]) fun s =>
    writes s (wr CONV.CLEAR) CONV.CLEAR 1 ∧ (tk s).cvState 0 = 7 ∧ (tk s).convActs 0 = false ∧
    (tk s).convCause 0 = false := by
  decide +kernel
theorem met_ring_and_converter_writes_complete_5 : Met (live.mems (convGood ++ [(CELL.STATE, 0, 4), (SLOT.STATE, 0, 1)])) fun s =>
    writes s (wr CELL.CLEAR) CELL.CLEAR 1 ∧ (tk s).convOfArm 0 = some 0 ∧ (tk s).g CELL.STATE 0 = 4 ∧
    (tk s).cvState 0 ≠ 4 ∧ (tk s).g SLOT.STATE (384 * (tk s).n CONV.RING 0 + (tk s).n ARM.SLOT0 0) = 1 ∧
    (tk s).failCause 0 0 (384 * (tk s).n CONV.RING 0 + (tk s).n ARM.SLOT0 0) ((tk s).cellX 0) ((tk s).n CELL.STATUS 0) = 0 := by
  decide +kernel
theorem met_ring_and_converter_writes_complete_6 : Met (live.mems convGood) fun s =>
    writes s (wr CELL.EXCL) CELL.EXCL 1 ∧ (tk s).convOfArm 0 = some 0 ∧ (tk s).g CELL.STATE 0 ≤ 1 ∧
    (tk s).n CONV.NREQ 0 < ((tk s).availCells 0).length ∧ ((tk s).put CELL.EXCL 0 1).g CELL.STATE 0 ≤ 1 := by
  decide +kernel
theorem met_ring_and_converter_writes_complete_7 : Met (live.mems convGood) fun s =>
    writes s (wr CELL.RETIRE) CELL.RETIRE 1 ∧ (tk s).convOfArm 0 = some 0 ∧ (tk s).g CELL.STATE 0 ≠ 5 := by
  decide +kernel

/-! ### DriveWritesComplete -/

theorem met_drive_writes_complete_1 : Met (live.mems machGood) fun s => writes s (wr MACH.ENABLE) MACH.ENABLE 1 ∧
    (tk s).b MACH.ENABLE 0 = false ∧ (tk s).machPlaced 0 ∧ (tk s).pathOf 0 = 1 ∧
    ((tk s).f MACH.IMAX 0).zero? = false ∧ (((tk s).f LOOP.KP 0).zero? && ((tk s).f LOOP.KPD 0).zero?) = false ∧
    (tk s).g MACH.ANGSRC 0 ≠ 1 ∧ (tk s).dcMach 0 = false ∧ ((tk s).machX 0).policy = false ∧
    (tk s).fbAvail ((tk s).n MACH.FBANG 0) = false ∧
    (tk s).stopStatusOf ((tk s).n MACH.AXIS 0) ((tk s).latchedOver ((tk s).n MACH.AXIS 0)) = none ∧
    (tk s).stageOfMach 0 = some 0 ∧ (tk s).stState 0 = 3 := by
  decide +kernel
theorem met_drive_writes_complete_2 : Met (live.mems [(MACH.ENABLE, 0, 1)]) fun s =>
    writes s (wr MACH.ENABLE) MACH.ENABLE 0 ∧ (tk s).b MACH.ENABLE 0 ∧ 16 ≤ (tk s).n MACH.AXIS 0 := by
  decide +kernel
theorem met_drive_writes_complete_3 : Met (live.setMachX 0 { policy := true }) fun s =>
    writes s (wr MACH.CLEAR) MACH.CLEAR 1 ∧ (tk s).machCause 0 = false ∧ (tk s).stageOfMach 0 = none ∧
    ((tk s).machX 0).policy ∧ (tk s).machStranded 0 = false := by
  decide +kernel
theorem met_drive_writes_complete_4 : Met (live.mems [(AXIS.ENABLE, 0, 1)]) fun s =>
    writes s (wr AXIS.ENABLE) AXIS.ENABLE 0 ∧ (tk s).b AXIS.ENABLE 0 := by
  decide +kernel
theorem met_drive_writes_complete_5 : Met (live.mems [(AXIS.CFG, 0, 2), (AXIS.MODE, 0, 1)]) fun s =>
    writes s (wr AXIS.ENABLE) AXIS.ENABLE 1 ∧ (tk s).b AXIS.ENABLE 0 = false ∧ (tk s).g AXIS.CFG 0 = 2 ∧
    (tk s).ownerStranded 5 0 = false ∧ (tk s).axisBad 0 = false ∧ ((tk s).fbAvail ((tk s).n AXIS.FBPOS 0) = false ∨ (tk s).g FB.STATE ((tk s).n AXIS.FBPOS 0) ≠ 1) ∧
    ((tk s).fbAvail ((tk s).n AXIS.FBSPD 0) = false ∨ (tk s).g FB.STATE ((tk s).n AXIS.FBSPD 0) ≠ 1) ∧
    (∀ m ∈ (tk s).machsOf 0, (tk s).g MACH.ANGSRC m ≠ 0 ∨ (tk s).fbAvail ((tk s).n MACH.FBANG m) = false ∨
      (tk s).g FB.STATE ((tk s).n MACH.FBANG m) ≠ 1) ∧ (tk s).stopStatusOf 0 ((tk s).latchedOver 0) = none := by
  decide +kernel
theorem met_drive_writes_complete_6 : Met live fun s => writes s (wr AXIS.SPACK) AXIS.SPACK 1 ∧
    (tk s).spInvalid 0 = false := by
  decide +kernel
theorem met_drive_writes_complete_7 : Met (live.mems [(MACH.STYLE, 0, 1)]) fun s =>
    writes s (wr MACH.STYLE) MACH.STYLE 0 := by
  decide +kernel
theorem met_drive_writes_complete_8 : Met live fun s => writes s (wr PAT.SRC) PAT.SRC 0 ∧
    (tk s).patternBusy 0 = false := by
  decide +kernel
theorem met_drive_writes_complete_9 : Met (live.mems [(FF.CRCCHK, 0, 0)]) fun s =>
    writes s (wr FF.ACTIVE) FF.ACTIVE 1 ∧ (tk s).b FF.CRCCHK 0 = false := by
  decide +kernel

/-! ### MotionAndTraceWritesComplete -/

theorem met_motion_and_trace_writes_complete_1 : Met moveS fun s => writes s (wr PROF.PUSH) PROF.PUSH 1 ∧
    ((tk s).task 72).st ≠ 0 ∧ (tk s).ownerStranded 5 0 = false ∧ (tk s).b AXIS.ENABLE 0 ∧ (tk s).stopRuns 0 = false ∧
    (tk s).n STOP.STATE 0 ≠ 4 ∧ ((tk s).gen 0).queue.length < 16 ∧ (tk s).pushBad 0 false = false ∧
    ((tk s).staged 0).2 = false ∧ ((tk s).gen 0).act = none := by
  decide +kernel
theorem met_motion_and_trace_writes_complete_2 : Met live fun s => writes s (wr PROF.FLUSH) PROF.FLUSH 1 := by
  decide +kernel
theorem met_motion_and_trace_writes_complete_3 : Met live fun s => writes s (wr LOOP.FREEZE 33) LOOP.FREEZE 1 := by
  decide +kernel
theorem met_motion_and_trace_writes_complete_4 : Met live fun s => writes s (wr LOOP.IPRESET 33) LOOP.IPRESET 0 ∧
    (tk s).loopEnabled 33 = false := by
  decide +kernel
theorem met_motion_and_trace_writes_complete_5 : Met live fun s => writes s (wr LOOP.ATSTART 33) LOOP.ATSTART 0 ∧
    (tk s).tunable 33 := by
  decide +kernel
theorem met_motion_and_trace_writes_complete_6 : Met (live.mems [(TRACE.STATE, 0, 1)]) fun s =>
    writes s (wr TRACE.ARM) TRACE.ARM 1 ∧ (tk s).traceNote.trState 0 = 1 := by
  decide +kernel
theorem met_motion_and_trace_writes_complete_7 : Met (live.mems [(TRACE.STATE, 0, 2), (TRACE.TRIGSRC, 0, 4)]) fun s =>
    writes s (wr TRACE.TRIGNOW) TRACE.TRIGNOW 1 ∧ (tk s).traceNote.trState 0 = 2 ∧ (tk s).g TRACE.TRIGSRC 0 = 4 := by
  decide +kernel
theorem met_motion_and_trace_writes_complete_8 : Met (live.mems [(TRACE.STATE, 0, 4)]) fun s =>
    writes s (wr TRACE.READ) TRACE.READ 1 ∧ (tk s).traceNote.trState 0 = 4 ∧ (tk s).g TRACE.DEST 0 ≠ 1 := by
  decide +kernel

/-! ### StopWritesComplete -/

theorem met_stop_writes_complete_1 : Met live fun s => writes s (wr STOP.REQ) STOP.REQ 1 := by
  decide +kernel
theorem met_stop_writes_complete_2 : Met live fun s => writes s (wr STOP.EREQ) STOP.EREQ 2 := by
  decide +kernel
theorem met_stop_writes_complete_3 : Met (live.mems [(STOP.STATE, 0, 4)]) fun s => writes s (wr STOP.ACK) STOP.ACK 1 ∧
    (tk s).stopState 0 = 4 ∧ (tk s).latchedOver 0 = false ∧ (tk s).sto.act = false := by
  decide +kernel
theorem met_stop_writes_complete_4 : Met live fun s => writes s (wr SRC.CLEAR 17) SRC.CLEAR 1 ∧
    ((tk s).dioSource 1 = false) := by
  decide +kernel
theorem met_stop_writes_complete_5 : Met live fun s => writes s (wr SRC.CLEAR) SRC.CLEAR 1 ∧ (tk s).sto.a ∧
    (tk s).sto.b := by
  decide +kernel
theorem met_stop_writes_complete_6 : Met ({ live with sto := { live.sto with thStop := true }, pow := { live.pow with below10 := 10000 } }) fun s =>
    writes s (wr STOPDEV.TCLEAR) STOPDEV.TCLEAR 1 ∧ (tk s).sto.thStop ∧ 10000 ≤ (tk s).pow.below10 := by
  decide +kernel
theorem met_stop_writes_complete_7 : Met ({ live with tb := { live.tb with sinceOk := 10000000 } }) fun s =>
    writes s (wr STOPDEV.RCLEAR) STOPDEV.RCLEAR 1 ∧ (tk s).tb.refok ∧ 10000000 ≤ (tk s).tb.sinceOk := by
  decide +kernel

/-! ### SecurityAndPowerWritesComplete -/

theorem met_security_and_power_writes_complete_1 : Met (live.mems [(SEC.KEYSEL, 0, 16), (SEC.KEYCRC, 0, 0x48674BC7)]) fun s =>
    writes s (wr SEC.BURN) SEC.BURN 1 ∧ (tk s).sec.burning = none ∧ ((tk s).burnValue).isSome := by
  decide +kernel
theorem met_security_and_power_writes_complete_2 : Met (live.mems [(LIFE.STATE, 0, 1)]) fun s =>
    writes s (wr SEC.DSGEN) SEC.DSGEN 1 ∧ (tk s).life = 1 ∧ (tk s).otp.ds = 0 := by
  decide +kernel
theorem met_security_and_power_writes_complete_3 : Met ((live.mems [(LIFE.STATE, 0, 2), (SEC.FWSLOT, 0, 0)]).setSlot 0 { stat := 2, bytes := zeros 8 ++ [1] }) fun s =>
    writes s (wr SEC.ARBCOMMIT) SEC.ARBCOMMIT 1 ∧ (tk s).n SEC.FWSLOT ≤ 1 ∧
    (tk s).otp.arb < min 64 (imgField ((tk s).slot ((tk s).n SEC.FWSLOT)).bytes 8 1) ∧ (tk s).life = 2 := by
  decide +kernel
theorem met_security_and_power_writes_complete_4 : Met ({ live with otp := { live.otp with fwpk1 := 1 } }.mems [(LIFE.STATE, 0, 3)]) fun s =>
    writes s (wr SEC.FWREVOKE) SEC.FWREVOKE 1 ∧ (tk s).life = 3 ∧ (tk s).otpKey 2 ≠ 0 := by
  decide +kernel
theorem met_security_and_power_writes_complete_5 : Met live fun s =>
    writes s (wr RESERVE.COMMIT) RESERVE.COMMIT 1 := by
  decide +kernel
theorem met_security_and_power_writes_complete_6 : Met (live.mems [(LIFE.STATE, 0, 3), (EXCH.RETIRED, 0, 4)]) fun s =>
    writes s (wr EXCH.RETIRED) EXCH.RETIRED 4 ∧ 4 &&& (tk s).n EXCH.RETIRED = 4 ∧ (tk s).life = 3 := by
  decide +kernel
theorem met_security_and_power_writes_complete_7 : Met live fun s => writes s (wr POWER.PSREQ) POWER.PSREQ 1 ∧
    1 ≠ (tk s).n POWER.PSTATE ∧ (tk s).stops = [] ∧ (tk s).powerBar 1 = none := by
  decide +kernel

/-! ### StageEventsComplete -/

theorem met_stage_events_complete_1 : Met ((live.mems [(STAGE.STATE, 0, 1)]).setStg 0 { step := 1 }) fun s =>
    s.stState 0 = 1 ∧ (s.stg 0).step = 1 ∧ ((List.range (3)).all fun k => decide ([1, 1, 1].getD k 0 = 1)) := by
  decide +kernel
theorem met_stage_events_complete_2 : Met (live.mems [(STAGE.STATE, 0, 2)]) fun s => s.stState 0 = 2 := by
  decide +kernel
theorem met_stage_events_complete_3 : Met ((live.mems [(STAGE.STATE, 0, 4)]).setStg 0 { act := 1 }) fun s =>
    s.stState 0 = 4 ∧ (s.stg 0).act = 1 ∧ (legsOf 0).any (fun l => (s.leg l).hi.ga || (s.leg l).lo.ga) = false := by
  decide +kernel
theorem met_stage_events_complete_4 : Met (live.setStg 0 { act := 2 }) fun s => (s.stg 0).act = 2 ∧
    s.n STAGE.MACH 0 ≥ 32 := by
  decide +kernel
theorem met_stage_events_complete_5 : Met (live.setLeg 0 { hi := { ga := true } }) fun s => s.gaSampled ∧ s.pow.gaDue = false ∧
    ((s.leg 0).sw false).ga ∧ ((s.leg 0).sw false).cmd = false := by
  decide +kernel
theorem met_stage_events_complete_6 : Met (live.setLeg 0 { lo := { cmd := true } }) fun s => s.gaSampled ∧ s.pow.gaDue = false ∧
    ((s.leg 0).sw true).cmd ∧ ((s.leg 0).sw true).ga = false := by
  decide +kernel
theorem met_stage_events_complete_7 : Met (live.setLeg 0 { lo := { ga := true } }) fun s => s.gaSampled ∧ s.pow.gaDue = false ∧
    ((s.leg 0).sw true).cmd = false ∧ ((s.leg 0).sw true).ga := by
  decide +kernel

/-! ### TripAndAnalogueEventsComplete -/

theorem met_trip_and_analogue_events_complete_1 : Met live fun s => s.tripLevel 0 = false := by
  decide +kernel
theorem met_trip_and_analogue_events_complete_2 : Met (live.setTrip 0 { pin := true }) fun s => (s.trip 0).pin ∧
    (s.setTrip 0 { s.trip 0 with pin := false }).tripLevel 0 = false := by
  decide +kernel
theorem met_trip_and_analogue_events_complete_3 : Met sdS fun s => s.sdRuns 0 := by decide +kernel
theorem met_trip_and_analogue_events_complete_4 : Met (sdS.setSdX 0 { hi := F32.half, lo := F32.half.neg, bits := List.replicate 64 true, run := 1, above := 1000 }) fun z =>
    let s := z.atOff 40
    let y := s.sdX 0
    let u := s.setSdX 0 { y with bits := (true :: y.bits).take 776, cnt := min 776 (y.cnt + 1), run := y.run + 1,
                                 clean := min 1024 (y.clean + 1) }
    s.sdRuns 0 ∧ y.bits.head? = some true ∧ y.run + 1 < s.n SD.RUNMAX 0 ∧ 2 * u.n SD.MT 0 ≤ (u.sdX 0).bits.length ∧
    ((u.sdX 0).hi.max (u.sdX 0).lo).lt (density 2 (u.n SD.MT 0) (sincSum 2 (u.n SD.MT 0) (u.sdX 0).bits)) ∧
    u.sdTrip.contains 0 = false ∧ u.n SD.TRIPCNT 0 ≤ (u.sdX 0).above + 1 := by
  decide +kernel
theorem met_trip_and_analogue_events_complete_5 : Met (sdS.setSdX 0 { bits := [true], run := 1000 }) fun s =>
    let y := s.sdX 0
    let u := (s.setSdX 0 { y with bits := (true :: y.bits).take 776, cnt := min 776 (y.cnt + 1), run := y.run + 1,
                                  clean := 0 }).sdCompare 0
    s.sdRuns 0 ∧ s.g SD.STATE 0 ≠ 3 ∧ y.bits.head? = some true ∧ s.n SD.RUNMAX 0 ≤ y.run + 1 ∧ u.b SD.ENABLE 0 ∧
    u.g SD.STATE 0 ≠ 3 := by
  decide +kernel
theorem met_trip_and_analogue_events_complete_6 : Met (sdS.setSdX 0 { capN := 4096, sums := [sdS.n SD.MC 0 ^ 3 / 2] }) fun z =>
    let s := z.atOff 40
    s.b SD.ENABLE 0 ∧ s.b SD.ZEROCAP 0 ∧ 4096 ≤ (s.sdX 0).capN ∧ s.sdGatesOff 0 ∧ s.g SD.STATE 0 = 2 ∧
    s.g THERM.STEP < 1 ∧ (s.sdX 0).capAt = none ∧ (s.sdMean 0 (s.sdX 0).sums).abs.le (F32.ofFrac 5 100) := by
  decide +kernel
theorem met_trip_and_analogue_events_complete_7 : Met { ainS with sarDue := [0] } fun s => s.sarDue = [0] ∧
    s.g AIN.PERIOD 0 ≠ 0 ∧ [8192].length = s.n AIN.AVG 0 ∧ s.n POWER.PSTATE < 2 ∧
    ainV.lt (s.f AIN.LOLIM 0) = false ∧ (s.f AIN.HILIM 0).lt ainV = false ∧ s.g AIN.STATE 0 ≠ 4 ∧
    0 < s.n AIN.RANGEN 0 ∧ s.n AIN.TAU 0 = 0 ∧
    (((s.f AIN.GAIN 0).mul (ainV.sub (s.f AIN.ZERO 0))).abs).le (s.f AIN.DBAND 0) = false := by
  decide +kernel

/-! ### StoEventsComplete -/

theorem met_sto_events_complete_1 : Met ({ live with sto := { live.sto with b := false } }) fun s =>
    s.sto.a ≠ s.sto.b ∧ s.sto.disc = false := by
  decide +kernel
theorem met_sto_events_complete_2 : Met live fun s => ((s.leg 0).sw false).cmd = false ∧ s.sto.rdbk = false := by
  decide +kernel
theorem met_sto_events_complete_3 : Met ({ live with sto := State.reset.sto }) fun s => s.sto.a = false ∧
    s.sto.b = false ∧ s.sto.rdbk = false ∧ s.ready ∧
    ((List.range (48)).all fun l => decide ((s.leg l).hi.cmd = false ∧ (s.leg l).lo.cmd = false)) ∧
    ((List.range (4)).all fun r => decide (s.rState r = 0 ∨ (s.link r).blkSent = true)) := by
  decide +kernel

/-! ### FeedbackEventsComplete -/

theorem met_feedback_events_complete_1 : Met live fun s => s.g DIO.FUNC 0 ≠ 1 ∧ s.g DIO.FUNC 0 ≠ 3 ∧
    ((s.dioGlitches 0 0).dioX 0).wait = none ∧ ((s.dioGlitches 0 0).dioX 0).lastT = none ∧ (s.dioGlitches 0 0).g DIO.VALID 0 ≠ 0 ∧
    (s.dioGlitches 0 0).b DIO.STATE 0 ≠ true := by
  decide +kernel
theorem met_feedback_events_complete_2 : Met (live.mems [(DIO.MAXACT, 0, 5), (DIO.STATE, 0, 1)]) fun s =>
    s.g DIO.MAXACT 0 ≠ 0 ∧ s.dioActive 0 ∧ s.g DIO.FUNC 0 ≠ 1 := by
  decide +kernel
theorem met_feedback_events_complete_3 : Met (live.mems [(FB.MODE, 0, 4)]) fun s =>
    s.n FB.MODE 0 = 4 ∧ s.tb.refok ∧ ((s.inc FB.GLITCH 0 0 0).fbX 0).lastA = none ∧
    (s.inc FB.GLITCH 0 0 0).b FB.INV 0 = false := by
  decide +kernel
theorem met_feedback_events_complete_4 : Met (live.mems [(FB.MODE, 0, 2), (FB.MAXACT, 0, 5)]) fun s =>
    2 ≤ s.n FB.MODE 0 ∧ s.g FB.MAXACT 0 ≠ 0 := by
  decide +kernel
theorem met_feedback_events_complete_5 : Met (live.mems [(FB.MODE, 0, 1)]) fun s => s.g FB.MODE 0 = 1 ∧
    s.tb.refok ∧ s.n POWER.PSTATE < 2 ∧ (s.fbX 0).wait = false := by
  decide +kernel
theorem met_feedback_events_complete_6 : Met (live.mems [(FB.MODE, 0, 1), (FB.MT, 0, 12), (FB.ST, 0, 13), (FB.CRCLEN, 0, 0), (FB.GRAY, 0, 0)]) fun s =>
    s.g FB.MODE 0 = 1 ∧ s.tb.refok ∧ s.n POWER.PSTATE < 2 ∧ (s.fbX 0).wait = false ∧ s.n FB.LEAD 0 = 0 ∧ s.n FB.STAT 0 = 0 ∧ s.n FB.CRCLEN 0 = 0 ∧
    s.b FB.GRAY 0 = false ∧ s.b FB.INV 0 = false ∧ s.b FB.MTSIGN 0 = false ∧ (s.fbX 0).word = none ∧
    77 % 2 ^ (s.n FB.MT 0 + s.n FB.ST 0) ≠ 2 ^ (s.n FB.MT 0 + s.n FB.ST 0) - 1 := by
  decide +kernel

/-! ### CanEventsComplete -/

theorem met_can_events_complete_1 : Met (live.mems [(CAN.STATE, 0, 2), (CAN.REC, 0, 1)]) fun s => s.cState 0 = 2 ∧
    s.tb.refok ∧ (s.inc CAN.RXFR 0).n CAN.REC 0 ≤ 127 ∧ ((s.inc CAN.RXFR 0).setErr 0 0 0).hasRoom 10 ∧
    (s.ring 10).hostc ∧
    (((List.range 256).foldl (fun t i => if t.partMatches i 0 canF then t.partIn i canF else t) (((s.inc CAN.RXFR 0).setErr 0 0 0).produce 10 (canF.bytes 0))).ring 10).hostc := by
  decide +kernel
theorem met_can_events_complete_2 : Met (live.setCan 0 { smcfg := 1, smidm := 0 }) fun s => s.smMatches 0 canF := by
  decide +kernel
theorem met_can_events_complete_3 : Met canS fun s => s.canMaySend 0 ∧ s.canChoice 0 = some 0 ∧
    ((s.canP 0).buf 0).isSome := by
  decide +kernel
theorem met_can_events_complete_4 : Met (live.mems [(CAN.STATE, 0, 2)]) fun s => s.cState 0 = 2 ∧ s.tb.refok := by
  decide +kernel
theorem met_can_events_complete_5 : Met ((live.mems [(CAN.STATE, 0, 4)]).setCan 0 { count := true }) fun s =>
    s.cState 0 = 4 ∧ (s.canP 0).count := by
  decide +kernel
theorem met_can_events_complete_6 : Met (live.mems [(CAN.STATE, 0, 2), (CAN.FDEN, 0, 0), (CAN.PEXC, 0, 1)]) fun s =>
    s.cState 0 = 2 ∧ s.b CAN.FDEN 0 = false ∧ s.b CAN.PEXC 0 ∧
    (((s.inc CAN.PEXCCNT 0).canTo 0 1).canP 0).pexAt = none := by
  decide +kernel
theorem met_can_events_complete_7 : Met (live.mems [(CAN.STATE, 0, 1)]) fun s => s.cState 0 = 1 ∧ s.tb.refok := by
  decide +kernel

/-! ### PartnerAndRemoteResetEventsComplete -/

theorem met_partner_and_remote_reset_events_complete_1 : Met (live.mems [(PART.EN, 0, 1), (PART.VALID, 0, 1)]) fun s =>
    s.b PART.EN 0 ∧ (s.partX 0).silent = false := by
  decide +kernel
theorem met_partner_and_remote_reset_events_complete_2 : Met (live.setPart 0 { wait := true }) fun s =>
    (s.partX 0).wait := by
  decide +kernel
theorem met_partner_and_remote_reset_events_complete_3 : Met (rstS 0) fun s => s.rstFrame 0 (rstF 8 1) 1 1 ∧
    s.b CAN.RESTR 0 = false := by
  decide +kernel
theorem met_partner_and_remote_reset_events_complete_4 : Met (rstS 2) fun s => (s.canP 0).rstep = 2 ∧
    s.rstFrame 0 (rstF 48 3) 48 3 := by
  decide +kernel
theorem met_partner_and_remote_reset_events_complete_5 : Met (rstS 3) fun s => (s.canP 0).rstep = 3 ∧
    s.rstFrame 0 (rstF 48 4) 48 4 := by
  decide +kernel
theorem met_partner_and_remote_reset_events_complete_6 : Met (rstS 5) fun s => (s.canP 0).rstep = 5 := by
  decide +kernel

/-! ### CellRingEventsComplete -/

theorem met_cell_ring_events_complete_1 : Met ((live.mems [(RING.STATE, 0, 1)]).setLink 0 { live.link 0 with lockA := true, lockB := true }) fun s =>
    s.rState 0 = 1 ∧ (s.link 0).lockA ∧ (s.link 0).lockB ∧ (s.link 0).degr = false := by
  decide +kernel
theorem met_cell_ring_events_complete_2 : Met (live.mems [(RING.STATE, 0, 1), (RING.DEGRADE, 0, 0)]) fun s =>
    s.rState 0 = 1 ∧ (s.link 0).degr = false ∧ s.b RING.DEGRADE 0 = false := by
  decide +kernel
theorem met_cell_ring_events_complete_3 : Met (live.mems [(RING.STATE, 0, 2), (RING.EXPN, 0, 2), (RING.UIDCHK, 0, 0)]) fun s =>
    s.rState 0 = 2 ∧ (s.link 0).enumOk = false ∧ [(11, 1), (12, 1)].length = s.n RING.EXPN 0 ∧
    s.b RING.UIDCHK 0 = false ∧ (134 + 4 * 2) * 10 + 100 + 1000 + s.n RING.TAPPX 0 * 5 ≤ s.twNs * 5 - 2500 := by
  decide +kernel
theorem met_cell_ring_events_complete_4 : Met (live.mems [(RING.STATE, 0, 2)]) fun s => s.rState 0 = 2 := by
  decide +kernel
theorem met_cell_ring_events_complete_5 : Met ((live.mems [(RING.STATE, 0, 2), (RING.NCELL, 0, 1)]).setLink 0 { live.link 0 with enumOk := true } |>.setSlotX 0 { okRun := 64 }) fun s =>
    s.rState 0 = 2 ∧ (s.link 0).enumOk ∧ s.allAnswer 0 := by
  decide +kernel
theorem met_cell_ring_events_complete_6 : Met (live.mems [(RING.STATE, 0, 4)]) fun s => s.sends 0 ∧
    s.launchWb 0 ≤ s.wb ∧ ((s.inc RING.FRRX 0 0).loopIn 0 { dirB := false, fnum := s.launchWb 0 }).operates 0 := by
  decide +kernel
theorem met_cell_ring_events_complete_7 : Met ((live.mems [(RING.STATE, 0, 4)]).setLink 0 { live.link 0 with lockA := true }) fun s =>
    s.rState 0 ≠ 0 ∧ (s.link 0).lockA := by
  decide +kernel
theorem met_cell_ring_events_complete_8 : Met (live.mems [(RING.STATE, 0, 4)]) fun s => s.rState 0 ≠ 0 := by
  decide +kernel

/-! ### CellEventsComplete -/

theorem met_cell_events_complete_1 : Met (live.setCellCtl 0 { slot := some 0 }) fun s => cmdValid (s.cellCtl 0) cmdW ∧ bit cmdW 2 = false ∧
    (bit cmdW 3 && bits cmdW 8 8 = 0xB5) = false ∧ cmdW % 4 = 2 ∧ (s.cellCtl 0).sw ≠ 3 ∧ (s.cellCtl 0).wdblk = false ∧
    (s.cellCtl 0).restart = false ∧ (s.cellCtl 0).ablk = false := by
  decide +kernel
theorem met_cell_events_complete_2 : Met (live.setCellCtl 0 { missed := 1 }) fun s => 1 ≤ (s.cellCtl 0).missed ∧
    (s.cellCtl 0).sw ≠ 3 := by
  decide +kernel

/-! ### ConverterEventsComplete -/

theorem met_converter_events_complete_1 : Met (live.mems [(CONV.STATE, 0, 1), (RING.STATE, 0, 4), (CONV.LIMP, 0, 1), (CONV.VDCNOM, 0, 0)]) fun s =>
    s.cvState 0 = 1 ∧ (s.convVdc 0).lt ((s.f CONV.PCHV 0).mul (s.f CONV.VDCNOM 0)) = false ∧
    s.rState (s.n CONV.RING 0) = 4 ∧ s.b CONV.LIMP 0 := by
  decide +kernel
theorem met_converter_events_complete_2 : Met (live.mems (convGood ++ [(CONV.STATE, 0, 2), (ARM.NCELL, 0, 1), (ARM.NCELL, 1, 1), (SD.VALUE, 0, 0x447A0000), (SD.STATE, 0, 2), (CELL.VCAP, 0, 0x43960000), (CELL.VCAP, 64, 0x43960000)])) fun s =>
    s.cvState 0 = 2 ∧ s.nPc 0 ≠ 0 ∧ (s.convX 0).mainWait = false ∧
    (∀ a ∈ s.convArms 0, ∀ i ∈ s.availCells a, (s.f CELL.VCAP (64 * a + i)).lt ((s.f CONV.PCDONE 0).mul ((s.convVdc 0).div (F32.ofInt (2 * s.nPc 0 : Nat)))) = false) := by
  decide +kernel
theorem met_converter_events_complete_3 : Met ((live.mems [(CONV.STATE, 0, 2)]).setConvX 0 { mainWait := true }) fun s =>
    s.cvState 0 = 2 ∧ (s.convX 0).mainWait := by
  decide +kernel
theorem met_converter_events_complete_4 : Met (live.mems [(CONV.STATE, 0, 5)]) fun s => s.cvState 0 = 5 := by
  decide +kernel
theorem met_converter_events_complete_5 : Met (live.mems [(CONV.STATE, 0, 6)]) fun s => s.cvState 0 = 6 ∧
    s.discharged 0 := by
  decide +kernel

/-! ### DriveEventsComplete -/

theorem met_drive_events_complete_1 : Met (live.mems [(LOOP.FREEZE, 33, 1)]) fun s => s.g LOOP.FREEZE 33 ≠ 0 := by
  decide +kernel
theorem met_drive_events_complete_2 : Met ((live.mems [(PROF.BRKAUTO, 0, 1), (AXIS.ENABLE, 0, 1)]).setAxisX 0 { rest := 60000 }) fun s =>
    s.b PROF.BRKAUTO 0 ∧ s.b AXIS.ENABLE 0 ∧ s.atRest 0 ∧ s.n GIVE.STATE 0 < 2 := by
  decide +kernel
theorem met_drive_events_complete_3 : Met holdS fun s => s.holdOk 0 ∧ s.b PROF.HOLDACT 0 = false := by
  decide +kernel
theorem met_drive_events_complete_4 : Met (live.setGen 0 { held := true }) fun s => (s.gen 0).held := by
  decide +kernel
theorem met_drive_events_complete_5 : Met (live.mems [(GIVE.STATE, 0, 2), (GIVE.GLREL, 0, 0x3F800000), (GIVE.TRIG, 0, 0)]) fun s =>
    s.n GIVE.STATE 0 = 2 ∧ s.giveTrigger 0 = false ∧ (s.giveLoad 0).lt (s.f GIVE.GLREL 0) ∧
    (s.put GIVE.STATE 0 3).n AXIS.MODE 0 ≠ 3 := by
  decide +kernel
theorem met_drive_events_complete_6 : Met (live.mems [(GIVE.STATE, 0, 3)]) fun s => s.n GIVE.STATE 0 = 3 := by
  decide +kernel
theorem met_drive_events_complete_7 : Met ((live.mems [(MACH.ENABLE, 0, 1)]).setMachX 0 { leave := true, w := F32.zero }) fun s =>
    (s.machX 0).leave ∧ (s.machX 0).w.zero? ∧ s.b MACH.ENABLE 0 := by
  decide +kernel
theorem met_drive_events_complete_8 : Met (live.mems [(PART.KIND, 0, 1), (PART.MACH, 0, 0), (PART.EN, 0, 1), (PART.VALID, 0, 1), (PART.VALUE, 0, 0x42C80000), (MACH.PTDEV, 0, 0x3F800000), (MACH.ENABLE, 0, 1), (MACH.AXIS, 0, 0)]) fun s =>
    s.partOfMach 0 = some 0 ∧ (s.f MACH.PTDEV 0).zero? = false ∧ s.b MACH.ENABLE 0 ∧ s.partDown 0 = false ∧
    (s.f MACH.PTDEV 0).lt ((s.f PART.VALUE 0).sub (s.partDemand 0)).abs ∧ s.n MACH.AXIS 0 < 16 := by
  decide +kernel
theorem met_drive_events_complete_9 : Met (live.setAxisX 0 { fbHold := true }) fun s => (s.axisX 0).fbHold := by
  decide +kernel

/-! ### StopEventsComplete -/

theorem met_stop_events_complete_1 : Met (live.mems [(STOP.STATE, 0, 1), (STOP.CAT, 0, 2)]) fun s =>
    s.stopState 0 = 1 ∧ (s.axStop 0).ref.zero? ∧ (s.f PROF.STILLV 0).lt (s.f AXIS.SPD 0).abs = false ∧
    s.n STOP.CAT 0 = 2 := by
  decide +kernel
theorem met_stop_events_complete_2 : Met (live.mems [(STOP.STATE, 0, 1), (STOP.CAT, 0, 1)]) fun s =>
    s.stopState 0 = 1 ∧ (s.axStop 0).ref.zero? ∧ (s.f PROF.STILLV 0).lt (s.f AXIS.SPD 0).abs = false ∧
    s.n STOP.CAT 0 ≠ 2 := by
  decide +kernel
theorem met_stop_events_complete_3 : Met (live.mems [(STOP.STATE, 0, 2)]) fun s => s.stopState 0 = 2 ∧
    s.n PROF.BRKIN 0 = 0xFFFF := by
  decide +kernel
theorem met_stop_events_complete_4 : Met (live.mems [(STOP.STATE, 0, 1), (STOP.CAT, 0, 1)]) fun s =>
    s.stopState 0 = 1 ∧ s.n STOP.CAT 0 = 1 := by
  decide +kernel
theorem met_stop_events_complete_5 : Met live fun s => s.stopComplete.pow.perchDue = false := by
  decide +kernel
theorem met_stop_events_complete_6 : Met live fun s => s.stops = [] := by
  decide +kernel
theorem met_stop_events_complete_7 : Met (live.mems [(STOP.STATE, 0, 8), (STOP.RTVOFF, 0, 0)]) fun s =>
    s.stopState 0 = 8 ∧ (s.axisVdc 0).1.lt ((s.f STOP.RTVOFF 0).mul (s.axisVdc 0).2) = false := by
  decide +kernel
theorem met_stop_events_complete_8 : Met (live.mems [(STOP.STATE, 0, 8)]) fun s => s.stopState 0 = 8 := by
  decide +kernel

/-! ### ThermalEventsComplete -/

theorem met_thermal_events_complete_1 : Met live fun s => 6 ≤ s.up.phase ∧ s.n POWER.PSTATE < 4 ∧
    ((coolU s).f THERM.TWARN).le (cool.add (s.f ASSAY.TEMPOFF)) = false ∧
    (cool.add (s.f ASSAY.TEMPOFF)).le (((coolU s).f THERM.TWARN).sub (F32.ofInt 5)) ∧
    ((coolU s).thr 1).le (cool.add (s.f ASSAY.TEMPOFF)) = false ∧
    ((coolU s).thr 2).le (cool.add (s.f ASSAY.TEMPOFF)) = false ∧
    ((coolU s).thr 3).le (cool.add (s.f ASSAY.TEMPOFF)) = false ∧ (coolU s).n POWER.SETPOINT ≠ 2 ∧
    (cool.add (s.f ASSAY.TEMPOFF)).lt (F32.ofInt ((coolU s).g THERM.STOPTJ - 10)) := by
  decide +kernel
theorem met_thermal_events_complete_2 : Met ({ live with pow := { live.pow with cool := [10000] } }.mems [(THERM.STEP, 0, 1)]) fun s =>
    s.n THERM.STEP ≠ 0 ∧ 10000 ≤ s.pow.cool.getD (s.n THERM.STEP - 1) 0 := by
  decide +kernel
theorem met_thermal_events_complete_3 : Met ({ live with pow := { live.pow with perchDue := true } }) fun s =>
    s.pow.perchDue ∧ s.flight ∧ s.pow.moving = false ∧ s.powerBar 2 = none := by
  decide +kernel

/-! ### EngineEventsComplete -/

theorem met_engine_events_complete_1 : Met live fun s => s.admitted 0 := by
  decide +kernel
theorem met_engine_events_complete_2 : Met (live.setTask 0 { st := 2, engA := 0 }) fun s => 2 ≤ (s.task 0).st ∧
    (s.task 0).st ≤ 5 ∧ (s.task 0).engA < 8 := by
  decide +kernel
theorem met_engine_events_complete_3 : Met (live.setEng 0 { st := .isolated }) fun s => s.g ASSAY.TESTING = 255 ∧
    s.g THERM.STEP < 1 ∧ s.g POWER.PSTATE < 2 ∧ s.inMothball = false ∧ s.ready ∧
    (List.range 8).find? (fun e => (s.eng e).st = .isolated) = some 0 := by
  decide +kernel
theorem met_engine_events_complete_4 : Met ((live.setEng 0 { st := .testing }).mems [(ASSAY.TESTING, 0, 0)]) fun s =>
    s.n ASSAY.TESTING ≤ 7 ∧ (s.eng (s.n ASSAY.TESTING)).st = .testing ∧
    s.ex.second.find? (fun p => p.1 = s.n ASSAY.TESTING) = none := by
  decide +kernel

/-! ### PowerEventsComplete -/

theorem met_power_events_complete_1 : Met (live.setTask 0 { placing := true, engA := 0 }) fun s =>
    (s.task 0).placing ∧ s.ex.codeBad.contains (taskKind 0) = false := by
  decide +kernel
theorem met_power_events_complete_2 : Met ({ live with pow := { live.pow with spTarget := some 1 } }) fun s =>
    s.pow.spTarget = some 1 := by
  decide +kernel
theorem met_power_events_complete_3 : Met ({ live with pow := { live.pow with moving := true, target := 1 } }) fun s =>
    s.pow.moving ∧ s.pow.target = 1 ∧ s.powerBar 1 = none := by
  decide +kernel
theorem met_power_events_complete_4 : Met (live.mems [(POWER.PSTATE, 0, 1), (POWER.WAKEEN, 0, 3)]) fun s =>
    bit (s.n POWER.WAKEEN) (wakeBit (.spi 0)) ∧ s.ready ∧ s.wakeOk (.spi 0) (s.n POWER.PSTATE) ∧
    s.pow.exiting = false ∧ s.pow.moving = false ∧ 1 ≤ s.n POWER.PSTATE ∧ s.n POWER.PSTATE ≤ 4 := by
  decide +kernel
theorem met_power_events_complete_5 : Met exitS fun s => s.pow.exiting ∧ s.n POWER.PSTATE ≤ 3 ∧
    s.pow.lateTrip = false ∧ s.pow.lateStop = false := by
  decide +kernel
theorem met_power_events_complete_6 : Met live fun s => s.ready ∧ s.flight := by
  decide +kernel
theorem met_power_events_complete_7 : Met ({ live with commitDue := true }) fun s => s.commitDue := by
  decide +kernel
theorem met_power_events_complete_8 : Met ({ live with tb := { live.tb with refok := false } }) fun s =>
    s.tb.refok = false ∧ s.up.phase = 7 ∧ s.tb.ovrd = false := by
  decide +kernel

/-! ### KeyAndDebugEventsComplete -/

theorem met_key_and_debug_events_complete_1 : Met ({ live with sec := { live.sec with burning := some (16, 1) } }) fun s =>
    s.sec.burning = some (16, 1) := by
  decide +kernel
theorem met_key_and_debug_events_complete_2 : Met (live.mems [(LIFE.STATE, 0, 3)]) fun s => s.life = 3 ∧ s.ready := by
  decide +kernel
theorem met_key_and_debug_events_complete_3 : Met (live.mems [(LIFE.STATE, 0, 3)]) fun s => s.life = 3 ∧
    4 ≤ s.up.phase := by
  decide +kernel
theorem met_key_and_debug_events_complete_4 : Met live fun s => s.dbgWorld = some true := by
  decide +kernel
theorem met_key_and_debug_events_complete_5 : Met ({ live with sec := { live.sec with debug := true } }.mems [(LIFE.STATE, 0, 3)]) fun s =>
    s.dbgWorld = some false ∧ s.ramSecure .tile (11264 % ramSize .tile) = false := by
  decide +kernel

/-! ### ServiceEventsComplete -/

theorem met_service_events_complete_1 : Met live fun s => s.n THERM.STEP = 0 ∧ s.ready ∧ s.n POWER.PSTATE ≤ 2 := by
  decide +kernel
theorem met_service_events_free_tile : Met live fun s => s.ringOf (256 * 2047) = none := by decide +kernel
theorem met_service_events_tdec : Met live fun s => s.telem.last.find 0 0 = 0 := by decide +kernel
theorem met_service_events_complete_2 : Met ({ live with ledg := { live.ledg with staged := [recW] } }) fun s =>
    s.ledg.staged = [recW] ∧ s.ledg.lostNow = 0 ∧
    (({ s with ledg := { s.ledg with staged := [], unsealed := 1 } } : State).ledgerPut recW).ledg.lostNow = 0 := by
  decide +kernel
theorem met_service_events_complete_3 : Met ({ live with ledg := { live.ledg with unsealed := 1 }, otp := { live.otp with ds := 1 } }) fun s =>
    s.ledg.unsealed ≠ 0 ∧ s.hasSealKey := by
  decide +kernel
theorem met_service_events_complete_4 : Met (live.setCmpX 0 { live.cmpX 0 with pulse := true }) fun s =>
    (s.cmpX 0).pulse := by
  decide +kernel
theorem met_service_events_complete_5 : Met ({ live with tb := { live.tb with tapAge := 10 ^ 15 } }) fun s =>
    s.stale.contains 0 = false ∧ s.ready ∧ s.n ASSAY.CALMAX * 1000000000 < s.tb.tapAge := by
  decide +kernel
theorem met_service_events_complete_6 : Met (phaseS 6 id) fun s => 6 ≤ s.up.phase ∧ s.g THERM.STEP < 1 ∧
    s.g POWER.PSTATE < 3 ∧ F32.one.abs.le (F32.ofInt 5) := by
  decide +kernel

/-! ### EveryStepKeepsSoundness -/

theorem met_every_step_keeps_soundness_1 : Met ({ State.reset with pending := [.stoRelease] }) fun s =>
    (match step s with | .next _ => true | _ => false) := by
  decide +kernel

/-! ### AddressesNameOneMember -/

theorem met_addresses_name_one_member_1 : Met live fun s => SYS.WINGBEAT.key 0 < 2 ^ 32 ∧
    State.lookup (SYS.WINGBEAT.key 0) = some (SYS.WINGBEAT, 0, 0) := by
  decide +kernel

/-! ### WorldOfARequest -/

theorem met_world_of_a_request_1 : Met secB fun s => runs s rqO { code := 0x100, life := readLife } ∧
    ((taken s rqO).resolve (SYS.WINGBEAT.key 0)).isSome ∧ (taken s rqO).blockSecure (blockOf SYS.WINGBEAT 0) := by
  decide +kernel
theorem met_world_of_a_request_2 : Met (live.setRing 1 { live.ring 1 with world := false }) fun s => s.takes rqS ∧
    rqS.sec ∧ ((tk s).ring 1).world = false ∧ (tk s).defers = [] ∧ (tk s).dups.find [] 1 = [] := by
  decide +kernel

/-! ### RepeatedWriteIsNotRun -/

theorem met_repeated_write_is_not_run_1 : Met ({ live with dups := [(1, [{ seq := 1, opcode := 0x101, crc := 0, resp := [] }])] }) fun s =>
    s.takes rqO ∧ (tyOf 5).isSome ∧ ((taken s rqO).defers.any fun e => e.rq.ring == rqO.ring) = false ∧
    (((taken s rqO).dups.find [] 1).find? fun e => e.seq == rqO.seq && e.opcode == 0x101 && e.crc == rqO.crc).isSome := by
  decide +kernel
theorem met_repeated_write_is_not_run_2 : Met ({ live with defers := [{ rq := rqO, opcode := 0x101, addr := 0, secure := false, kind := .work }] }) fun s =>
    s.takes rqO ∧
    ((taken s rqO).defers.any fun e => e.rq.ring == rqO.ring && e.rq.seq == rqO.seq && e.opcode == 0x101 && e.rq.crc == rqO.crc) := by
  decide +kernel

/-! ### DeviceSecretGeneration -/

theorem met_device_secret_generation_1 : Met ({ live with otp := { live.otp with ds := 1 } }.mems [(LIFE.STATE, 0, 1)]) fun s =>
    writes s (wr SEC.DSGEN) SEC.DSGEN 1 ∧ (tk s).life = 1 ∧ (tk s).otp.ds ≠ 0 := by
  decide +kernel
theorem met_device_secret_generation_2 : Met (live.mems [(LIFE.STATE, 0, 3)]) fun s =>
    writes s (wr SEC.DSGEN) SEC.DSGEN 1 ∧ (tk s).life ≠ 1 := by
  decide +kernel
theorem met_device_secret_generation_3 : Met (live.mems [(LIFE.STATE, 0, 4)]) fun s => s.takes rqS ∧ secured s rqS ∧
    (tk s).life = 4 ∧ (tk s).defers = [] ∧ (tk s).dups.find [] 1 = [] := by
  decide +kernel

/-! ### SigmaDeltaTripMembersAreSecure -/

theorem met_sigma_delta_trip_members_are_secure_1 : Met live fun s =>
    runs s rqO { code := 0x101, life := s.objLife rqO [SD.TRIPHI.key 0] } ∧ secured s rqO = false := by
  decide +kernel

/-! ### GiveMembersAreProtected -/

theorem met_give_members_are_protected_1 : Met live fun s =>
    runs s rqO { code := 0x101, life := s.objLife rqO [GIVE.GTMAX.key 0] } ∧ secured s rqO = false := by
  decide +kernel
theorem met_give_members_are_protected_2 : Met (live.mems [(GIVE.STATE, 0, 1)]) fun s =>
    runs s rqS { code := 0x101, life := s.objLife rqS [GIVE.GTMAX.key 0] } ∧
    holds ((tk s).writeBar (secured s rqS) (GIVE.GTMAX.key 0) GIVE.GTMAX.ty.code 0x3F800000) (GIVE.GTMAX, 0, 0) ∧
    (tk s).g GIVE.STATE 0 = 1 ∧ (tk s).tb.ovrd = false ∧ (tk s).g POWER.PSTATE = 0 := by
  decide +kernel

/-! ### OlderResultIsDiscarded -/

theorem met_older_result_is_discarded_1 : Met ({ dueS with ex := { dueS.ex with outs := [(0, { seq := 9, due := [dueR] })] } }) fun s =>
    (s.outSt 0).due.find? (·.half = false) = some dueR ∧ s.dueLate dueR = false ∧ (s.rewriteHome 0).outBlocked 0 = false ∧
    dueR.seq < ((s.rewriteHome 0).outSt 0).seq := by
  decide +kernel

/-! ### BlockMapAssignsWorlds -/

theorem met_block_map_assigns_worlds_1 : Met live fun s => (s.resolve (SYS.WINGBEAT.key 0)).isSome := by
  decide +kernel

end Tests
end Sys2Proof
end

section
/-! PROOF. Object addresses and the elements of the dictionary's rows (R12, R524, R525): the rows of a class fit the fields of
an address and no two of them share a place, so `lookup` finds at each place of a row that row and no other. -/
namespace Sys2Proof.Proofs
open Machine Machine.State

/-! ### What the dictionary's rows keep -/

/-- The row stands under its own class code, and its instances and numbers fit the 12-bit fields of an address (R524, R525). -/
def FitsAddress (c : Nat) (m : Mem) : Prop := m.cls = c ∧ m.lo + m.n ≤ 4096 ∧ m.num + m.cnt ≤ 4096

/-- No instance of the one row with one of its numbers is also an instance of the other with one of that row's numbers. -/
def Apart (p q : Mem) : Prop :=
  (p.num + p.cnt ≤ q.num ∨ q.num + q.cnt ≤ p.num) ∨ (p.lo + p.n ≤ q.lo ∨ q.lo + q.n ≤ p.lo)

/-- Instance `j` of the class and number `k` are of the row, and R524 gives the instance. -/
def CoversPlace (m : Mem) (j k : Nat) : Prop :=
  (m.lo ≤ j ∧ j < m.lo + m.n) ∧ (m.num ≤ k ∧ k < m.num + m.cnt) ∧ ¬ (m.cls = 21 ∧ 22 ≤ j ∧ j < 32)

theorem Apart.not_covers_both {p q : Mem} (h : Apart p q) {j k : Nat} (hp : CoversPlace p j k) : ¬ CoversPlace q j k := by
  unfold Apart at h
  unfold CoversPlace at hp ⊢
  omega

/-- The class codes that R524 lists end at 32. -/
theorem classRows_eq_nil {c : Nat} (h : 33 ≤ c) : classRows c = [] := by
  unfold classRows
  split
  case h_33 => rfl
  all_goals omega

theorem classRows_fit {c : Nat} : ∀ m ∈ classRows c, FitsAddress c m := by
  have listed : ∀ c < 33, ∀ m ∈ classRows c, FitsAddress c m := by
    unfold FitsAddress
    decide +kernel
  rcases Nat.lt_or_ge c 33 with h | h
  · exact listed c h
  · rw [classRows_eq_nil h]
    exact List.forall_mem_nil _

theorem classRows_apart {c : Nat} : (classRows c).Pairwise Apart := by
  have listed : ∀ c < 33, (classRows c).Pairwise Apart := by
    unfold Apart
    decide +kernel
  rcases Nat.lt_or_ge c 33 with h | h
  · exact listed c h
  · rw [classRows_eq_nil h]
    exact List.Pairwise.nil

theorem covering_row_unique_of_apart {l : List Mem} (apart : l.Pairwise Apart) {j k : Nat} {p q : Mem} (hp : p ∈ l)
    (hq : q ∈ l) (cp : CoversPlace p j k) (cq : CoversPlace q j k) : p = q := by
  induction apart with
  | nil => cases hp
  | cons fromHead _ ih =>
    cases hp with
    | head =>
      cases hq with
      | head => rfl
      | tail _ hq => exact absurd cq ((fromHead q hq).not_covers_both cp)
    | tail _ hp =>
      cases hq with
      | head => exact absurd cp ((fromHead p hp).not_covers_both cq)
      | tail _ hq => exact ih hp hq

/-- Of the rows of a class, one at most covers a place. -/
theorem covering_row_unique {c j k : Nat} {p q : Mem} (hp : p ∈ classRows c) (hq : q ∈ classRows c)
    (cp : CoversPlace p j k) (cq : CoversPlace q j k) : p = q :=
  covering_row_unique_of_apart classRows_apart hp hq cp cq

/-! ### The fields of an address -/

section
variable {c i x : Nat} {m : Mem}

theorem key_class (h : FitsAddress c m) (hi : i < m.n) (hx : x < m.cnt) : m.key i x / 16777216 = c := by
  obtain ⟨hc, hn, hk⟩ := h
  unfold Mem.key
  omega

theorem key_instance (h : FitsAddress c m) (hi : i < m.n) (hx : x < m.cnt) : m.key i x / 4096 % 4096 = m.lo + i := by
  obtain ⟨hc, hn, hk⟩ := h
  unfold Mem.key
  omega

theorem key_number (h : FitsAddress c m) (hx : x < m.cnt) : m.key i x % 4096 = m.num + x := by
  obtain ⟨hc, hn, hk⟩ := h
  unfold Mem.key
  omega

end

/-! ### What `lookup` finds -/

/-- The test that `lookup` puts to a row. -/
theorem lookup_test_iff {m : Mem} {j k : Nat} :
    (decide (m.lo ≤ j) && decide (j < m.lo + m.n) && decide (m.num ≤ k) && decide (k < m.num + m.cnt) &&
      !(decide (m.cls = 21) && decide (22 ≤ j) && decide (j < 32))) = true ↔ CoversPlace m j k := by
  unfold CoversPlace
  simp only [Bool.and_eq_true, Bool.not_eq_true', Bool.and_eq_false_iff, decide_eq_true_eq, decide_eq_false_iff_not]
  omega

theorem lookup_found {a i x : Nat} {m : Mem} (found : State.lookup a = some (m, i, x)) :
    m ∈ classRows (a / 16777216) ∧ CoversPlace m (a / 4096 % 4096) (a % 4096) ∧
      i = a / 4096 % 4096 - m.lo ∧ x = a % 4096 - m.num := by
  dsimp only [State.lookup] at found
  split at found
  case h_1 q first =>
    cases found
    have passes := List.find?_some first
    exact ⟨List.mem_of_find?_eq_some first, lookup_test_iff.mp passes, rfl, rfl⟩
  case h_2 => cases found

theorem lookup_ne_none_of_covers {a : Nat} {m : Mem} (hm : m ∈ classRows (a / 16777216))
    (covers : CoversPlace m (a / 4096 % 4096) (a % 4096)) : State.lookup a ≠ none := by
  dsimp only [State.lookup]
  split
  case h_1 => exact Option.some_ne_none _
  case h_2 none_passes => exact absurd (lookup_test_iff.mpr covers) (List.find?_eq_none.mp none_passes m hm)

/-- `lookup` finds the row of the address's class that covers its instance and number, and counts from the row's first. The
search stops at the first row that covers the place, and no other row does. -/
theorem lookup_eq_some_iff {a i x : Nat} {m : Mem} :
    State.lookup a = some (m, i, x) ↔
      m ∈ classRows (a / 16777216) ∧ CoversPlace m (a / 4096 % 4096) (a % 4096) ∧
      i = a / 4096 % 4096 - m.lo ∧ x = a % 4096 - m.num := by
  refine ⟨lookup_found, ?_⟩
  rintro ⟨hm, covers, rfl, rfl⟩
  obtain ⟨⟨q, j, y⟩, found⟩ := Option.ne_none_iff_exists'.mp (lookup_ne_none_of_covers hm covers)
  obtain ⟨hq, qCovers, rfl, rfl⟩ := lookup_found found
  rwa [covering_row_unique hm hq covers qCovers]

/-- Settles O48: `lookup_eq_some_iff` names the row, and the fields of the address are those of `Mem.key`. -/
theorem addressesNameOneMember : Obligations.AddressesNameOneMember := by
  unfold Obligations.AddressesNameOneMember
  constructor
  · intro a m i x _ found
    obtain ⟨hm, ⟨hj, hk, -⟩, rfl, rfl⟩ := lookup_eq_some_iff.mp found
    obtain ⟨hcls, -, -⟩ := classRows_fit m hm
    refine ⟨hm, by omega, by omega, ?_⟩
    unfold Mem.key
    omega
  · intro c m i x hm hi hx given
    have fit := classRows_fit m hm
    rw [lookup_eq_some_iff, key_class fit hi hx, key_instance fit hi hx, key_number fit hx]
    refine ⟨hm, ⟨by omega, by omega, ?_⟩, by omega, by omega⟩
    omega

end Sys2Proof.Proofs
end


section
/-! PROOF. The commands of time (R25, R46, R47, R50, R424): the blocks of the mark and of the half mark, results, deadlines and
the fixed point, each as an equation of its operation where its rule lets it act. -/
namespace Sys2Proof.Proofs
open Machine Machine.State Claim Laws

/-! ### The mark and the half mark (R25) -/

/-- The blocks of a mark above ROOST, around what FLIGHT adds: `u` is the state when time has advanced, `w` the one when the
mark has latched and its enables have taken effect. -/
theorem wingbeatMark_eq {s u w : State} {q : MarkIn} (runs : s.marksRun = true)
    (begun : ((s.traceClose (if s.tb.first then 2 * s.wb else 2 * s.wb + 2) q.tagBad).telemClose.markTime).profilesOf = u)
    (noFull : u.ex.fullDue = false)
    (latched : (List.range 64).foldl State.ffFade (q.cells.foldl State.cellMark (u.markInputs q).markRings).markEnables = w)
    (awake : w.n POWER.PSTATE < 3) :
    s.wingbeatMark q = ((((w.canMark.markFlight q).markEmulation).traceOpen false).telemOpen).settleStops := by
  have canRuns : (if 3 ≤ w.n POWER.PSTATE then w else w.canMark) = w.canMark := if_neg (by omega)
  simp only [wingbeatMark, runs, Bool.not_true, Bool.false_eq_true, if_false, begun, noFull, latched, canRuns]

/-- What FLIGHT adds at a mark at which no acknowledges resume: `a` is the state behind the Exchange and the stops, `y` the
one behind the evaluations and MOD. -/
theorem markFlight_eq {s a y : State} {q : MarkIn} (inFlight : s.flight = true) (noGa : s.pow.gaDue = false)
    (stopped : (s.markExchange q).markStops = a)
    (evaluated : ((a.convs.foldl State.convTrack ((List.range 32).foldl State.ascTrack a)).markEvals).modMark = y) :
    s.markFlight q = if y.cycleNow then y.stageWatch false else y := by
  subst stopped evaluated
  simp only [markFlight, inFlight, noGa, Bool.not_true, Bool.false_eq_true, if_false]

/-- The first half mark of a wingbeat that has begun: `v` is the state when the half mark has latched, `x` the one behind the
half evaluations. -/
theorem halfMark_eq {s u t v x : State} {sd : List SdBits} {tagBad : Nat} (runs : s.marksRun = true)
    (noHalf : s.tb.half = false) (notFirst : s.tb.first = false) (closed : s.traceClose (2 * s.wb + 1) tagBad = u)
    (begun : { u with tb := { u.tb with half := true, off := max u.tb.off (u.twCyc * 4) } } = t)
    (latched : (List.range 48).foldl
      (fun s k => if s.sdHalf k then s.sdLatch k (s.markCycle + s.twCyc / 2) true else s) (sd.foldl State.sdTake t).dioTick = v)
    (evaluated : (if v.flight then v.halfEvals else v) = x) :
    s.halfMark sd tagBad = ((if x.flight && x.cycleNow then x.stageWatch true else x).traceOpen true).settleStops := by
  subst closed begun latched evaluated
  simp only [halfMark, runs, noHalf, notFirst, Bool.not_true, Bool.or_self, Bool.false_eq_true, if_false]

/-! ### Results and deadlines (R46, R47, R50) -/

theorem tileFinds_nil (s : State) (t : Nat) : s.tileFinds t [] = s := rfl

/-- No task loses its result to a tile where no tile failed its tag. -/
theorem tilesFail_nil (s : State) (t : Nat) : s.tilesFail t [] = false := by
  simp only [tilesFail, List.any_nil, Bool.and_false, Bool.false_and]

theorem compareCopies_none (s : State) (t : Nat) : s.compareCopies t none = (s, true) := rfl

/-- A result that is in time, finite, not blocked and no older than what stands becomes the output and is committed. -/
theorem resultHandover_commits {s z u : State} {t k off : Nat} {half : Bool} {d : Due} (key : s.outKey t = some k)
    (stands : (s.outSt k).due.find? (·.half = half) = some d) (formed : d.out.isEmpty = false) (inTime : s.dueLate d = false)
    (finite : d.out.all F32.finite? = true) (home : s.rewriteHome t = z) (free : z.outBlocked k = false)
    (newer : (z.outSt k).seq ≤ d.seq) (stored : (((z.atOff off).dropDue k d.seq).outCount k).outSet k d false = u) :
    s.resultHandover t half off none [] =
      ((u.setOut k { u.outSt k with runBad := false }).put (lateMems k).run (outOwner k).2 0).outCommit k d true := by
  have notOlder : ¬ d.seq < (z.outSt k).seq := by omega
  simp only [resultHandover, tileFinds_nil, tilesFail_nil, compareCopies_none, key, stands, formed, inTime, finite, home, free,
    notOlder, stored, Bool.not_true, Bool.false_eq_true, if_false]

/-- A further late result of a run is replaced by the previous output `sub`, which stands still, and counts. -/
theorem deadline_stands_still {s u : State} {t k : Nat} {half : Bool} {d sub : Due} (key : s.outKey t = some k)
    (stands : (s.outSt k).due.find? (·.half = half) = some d) (dropped : s.dropDue k d.seq = u)
    (free : u.outBlocked k = false) (newer : (u.outSt k).seq ≤ d.seq) (further : u.n (lateMems k).run (outOwner k).2 ≠ 0)
    (still : { d with out := u.prevOut k, ang := (u.outSt k).ang } = sub) :
    s.deadline t half = ((u.outSet k sub true).outCommit k sub false).lateCount k true := by
  subst still
  have notOlder : ¬ d.seq < (u.outSt k).seq := by omega
  simp only [deadline, key, stands, dropped, free, notOlder, further, decide_false, Bool.false_and, Bool.false_eq_true, if_false]

/-! ### The fixed point (R424) -/

/-- The cells of an arm and then the arm itself at the fixed point; the answer tells whether a bypass is lost. -/
def armFixed (c : Nat) (p : State × Bool) (a : Nat) : State × Bool :=
  let q := (List.range (p.1.n ARM.NCELL a)).foldl (fun (q : State × Bool) i =>
    ((q.1.cellFix c a i).1, q.2 || (q.1.cellFix c a i).2)) (p.1, false)
  (q.1.armFix c a, p.2 || q.2)

/-- A converter at the fixed point: its arms, the fault of a lost bypass, and the redundancy. -/
def convFixed (t : State) (c : Nat) : State :=
  let r := (t.convArms c).foldl (armFixed c) (t, false)
  (if r.2 && (1 ≤ r.1.cvState c && r.1.cvState c ≤ 4 || r.1.cvState c = 8) then
    (r.1.convFaultRec 0x2303 c).convFault c true else r.1).redundancy c

/-- The first fixed point of a wingbeat acts on every slot of the running rings, then on every converter. -/
theorem sortFixedPoint_eq {s u : State} (ref : s.tb.refok = true) (noFixed : s.fixedPt = false)
    (aged : (List.range 4).foldl (fun t r => if t.operates r then t.slotAges r else t) { s with fixedPt := true } = u) :
    s.sortFixedPoint = u.convs.foldl convFixed u := by
  subst aged
  simp only [sortFixedPoint, ref, noFixed, Bool.not_true, Bool.or_self, Bool.false_eq_true, if_false]
  rfl

/-! ### The commands of time -/

theorem gives_wingbeatMark {q : MarkIn} {s t : State} (h : s.wingbeatMark q = t) : Gives (.wingbeatMark q) s t :=
  h ▸ rfl

theorem gives_halfMark {sd : List SdBits} {tagBad : Nat} {s t : State} (h : s.halfMark sd tagBad = t) :
    Gives (.halfMark sd tagBad) s t :=
  h ▸ rfl

theorem gives_resultHandover {task : Fin 168} {half : Bool} {off : Nat} {s t : State}
    (h : s.resultHandover task half off none [] = t) : Gives (.resultHandover task half off {}) s t.settleStops :=
  h ▸ rfl

theorem gives_deadline {task : Fin 168} {half : Bool} {s t : State} (h : s.deadline task half = t) :
    Gives (.deadline task half) s t.settleStops :=
  h ▸ rfl

theorem gives_sortFixedPoint {s t : State} (h : s.sortFixedPoint = t) : Gives .sortFixedPoint s t.settleStops :=
  h ▸ rfl

/-- Settles O1: each command is the operation of its name, and each operation runs to its end by its equation above. -/
theorem timeCommandsComplete : Obligations.TimeCommandsComplete := by
  unfold Obligations.TimeCommandsComplete
  refine ⟨?mark, ?half, ?handover, ?deadline, ?fixedPoint⟩
  case mark =>
    intro q s runs u w v noFull awake inFlight noGa a y
    clear_value (evaluated : y = _)
    clear_value (stopped : a = _)
    clear_value (begun : u = _)
    apply gives_wingbeatMark
    rw [← markFlight_eq inFlight noGa stopped.symm evaluated.symm]
    exact wingbeatMark_eq runs begun.symm noFull rfl awake
  case half =>
    intro sd tagBad s runs noHalf notFirst u t v x
    clear_value (evaluated : x = _) (latched : v = _) (begun : t = _) (closed : u = _)
    exact gives_halfMark (halfMark_eq runs noHalf notFirst closed.symm begun.symm latched.symm evaluated.symm)
  case handover =>
    intro task half off s k d key stands z formed inTime finite free newer u
    clear_value (stored : u = _) (home : z = _)
    exact gives_resultHandover (resultHandover_commits key stands formed inTime finite home.symm free newer stored.symm)
  case deadline =>
    intro task half s k d key stands u free newer further sub
    clear_value (still : sub = _) (dropped : u = _)
    exact gives_deadline (deadline_stands_still key stands dropped.symm free newer further still.symm)
  case fixedPoint =>
    intro s ref noFixed u
    clear_value (aged : u = _)
    exact gives_sortFixedPoint (sortFixedPoint_eq ref noFixed aged.symm)

end Sys2Proof.Proofs
end

section
/-! PROOF. The writes that set up the device (R24, R58, R59, R61, R68, R528, R701): what the operation of each row answers to a
value that its rule allows. -/
namespace Sys2Proof.Proofs
open Machine Machine.State Claim Laws

/-! ### What the operations of the settings answer (R24, R58, R59, R61, R68, R528, R701) -/

/-- A wingbeat length that R24 allows waits for the next mark. -/
theorem wingbeatWrite_accepts {s : State} {n : Nat} (step : n % 2500 = 0) (least : 10000 ≤ n) (most : n ≤ 100000)
    (stages : ∀ i, i < 16 → s.stState i ∉ [1, 2, 3, 6]) (rings : ∀ r, r < 4 → s.rState r ≠ 2 ∧ s.rState r ≠ 4)
    (axes : ∀ x, x < 16 → s.b AXIS.ENABLE x = false) (fits : s.wingbeatBreaks n = false)
    (room : s.taskIds.foldl (fun k t => k + (s.put SYS.WINGBEAT 0 n).chargeOf t) 0 ≤ (s.put SYS.WINGBEAT 0 n).admCap)
    (loose : ∀ r, r < 4 → s.ringTight r n = false) :
    s.wingbeatWrite n = (.ok, { s with tb := { s.tb with newTw := some n } }) := by
  have notBad : (n % 2500 != 0 || decide (n < 10000) || decide (100000 < n)) = false := by
    simpa using ⟨⟨step, least⟩, most⟩
  have stagesIdle : (List.range 16).any (fun i => [1, 2, 3, 6].contains (s.stState i)) = false := by
    simpa using stages
  have ringsIdle : (List.range 4).any (fun r => decide (s.rState r = 2) || decide (s.rState r = 4)) = false := by
    simpa using rings
  have axesIdle : (List.range 16).any (fun x => s.b AXIS.ENABLE x) = false := by simpa using axes
  have noneTight : (List.range 4).any (fun r => s.ringTight r n) = false := by simpa using loose
  have charged : ¬ (s.put SYS.WINGBEAT 0 n).admCap < s.taskIds.foldl (fun k t => k + (s.put SYS.WINGBEAT 0 n).chargeOf t) 0 := by
    omega
  simp only [wingbeatWrite, notBad, stagesIdle, ringsIdle, axesIdle, fits, noneTight, charged, decide_false, Bool.or_self,
    Bool.false_eq_true, if_false]

/-- FULL written over PAIRED waits for the next mark. -/
theorem dutyWrite_full {s : State} (paired : s.g PROFILE.DUTY ≠ 1) :
    s.dutyWrite 1 = (.ok, { s.put PROFILE.DUTY 0 1 with ex := { s.ex with fullDue := true } }) := by
  simp only [dutyWrite, if_true, if_neg paired]

/-- Another setpoint whose conditions hold starts a move of the supply in FLIGHT. -/
theorem setpointWrite_moves {s : State} {n : Nat} (other : n ≠ s.n POWER.SETPOINT) (named : n = 0 ∨ s.n POWER.VIDDIO ≠ 255)
    (lean : n ≠ 1 ∨ s.charge ≤ s.capWith (throughput 1) s.admittedList.length s.paired)
    (cool : n ≠ 2 ∨ (F32.ofInt 95).lt (s.f THERM.TJ) = false) (inFlight : s.flight = true) :
    s.setpointWrite n = (.ok, (s.setpointMove n).exRefresh) := by
  have noBad : ¬ (n != 0 && decide (s.n POWER.VIDDIO = 255)) = true := by simpa using named.resolve_left
  have room : ¬ (n = 1 && decide (s.capWith (throughput 1) s.admittedList.length s.paired < s.charge)) = true := by
    simpa using lean.resolve_left
  have noBusy : ¬ (n = 2 && (F32.ofInt 95).lt (s.f THERM.TJ)) = true := by simpa using cool.resolve_left
  simp only [setpointWrite, if_neg other, if_neg noBad, if_neg room, if_neg noBusy, inFlight, if_true]

/-- Pins that R701 allows are named in FLIGHT at setpoint NOMINAL, and driven to code 0. -/
theorem viddioWrite_names {s : State} {n : Nat}
    (pins : n = 255 ∨ (n ≤ 29 ∧ ∀ k, k < 3 → s.n DIO.FUNC (n + k) = 1 ∧ s.n DIO.POL (n + k) = 0))
    (inFlight : s.flight = true) (nominal : s.n POWER.SETPOINT = 0) (other : n ≠ s.n POWER.VIDDIO) :
    s.viddioWrite n = (.ok, (s.put POWER.VIDDIO 0 n).vidDrive 0) := by
  have allowed : (decide (n = 255) || (decide (n ≤ 29) &&
      (List.range 3).all fun k => decide (s.n DIO.FUNC (n + k) = 1) && decide (s.n DIO.POL (n + k) = 0))) = true := by
    simpa using pins
  simp only [viddioWrite, allowed, inFlight, nominal, bne_self_eq_false, Bool.not_true, Bool.or_self, Bool.false_eq_true,
    if_false, if_neg other]

/-- A commit that nothing bars and whose tasks are admitted answers PENDING. -/
theorem cfgCommit_admits {s t : State} {cls i : Nat} (unbarred : s.cfgBar cls i = none)
    (admitted : s.cfgCommitAll [(cls, i)] = some t) : s.cfgCommit cls i = (.pending, t) := by
  simp only [cfgCommit, unbarred, admitted]

/-- A free object loses its tasks, and its CFG becomes 0. -/
theorem cfgRemove_free {s : State} {cls i : Nat} (free : s.cfgBusy cls i = false) :
    s.cfgRemove cls i = (.ok, ((s.removeTasks cls i).put (cfgMem cls) i 0).rewriteMaps) := by
  simp only [cfgRemove, free, Bool.false_eq_true, if_false]

/-- A write of CFG is the commit of the object or its removal, whichever class has the row. -/
theorem memberOp_cfgRow (s : State) (c : CfgClass) (i x : Nat) (v : Int) :
    s.memberOp (cfgRow c) i x v = some (if v.toNat = 1 then s.cfgCommit (cfgRow c).cls i else s.cfgRemove (cfgRow c).cls i) := by
  cases c with
  | axis => exact memberOp_axis_cfg s i x v
  | mach => exact memberOp_mach_cfg s i x v
  | conv => exact memberOp_conv_cfg s i x v

theorem cfgMem_cfgRow (c : CfgClass) : cfgMem (cfgRow c).cls = cfgRow c := by
  cases c <;> rfl

/-! ### The writes that set up the device -/

/-- A command that writes a row and is accepted answers as the row's operation does, and then goes on with `after`. -/
theorem gives_rowWrite {c : Instr} {s t : State} {w : Wq} {m : Mem} {v : Int} {st : Status} (after : State → State)
    (command : exec c s = .next (after (s.rowWrite w m v))) (accepted : writes s w m v = true)
    (op : (taken s w.rq).memberOp m w.inst 0 v = some (st, t)) (answers : st ≠ .faultActive) :
    Gives c s (after (written s t w m st)) := by
  rw [row_writes accepted op answers] at command
  exact command

/-- Settles O17: each command writes its row, and the row's operation accepts the write by its lemma above. -/
theorem settingWritesComplete : Obligations.SettingWritesComplete := by
  unfold Obligations.SettingWritesComplete
  refine ⟨?wingbeat, ?duty, ?setpoint, ?viddio, ?commit, ?deconfigure⟩
  case wingbeat =>
    intro w v s accepted z step least most stages rings axes fits room loose
    refine gives_rowWrite id rfl accepted ?_ (by decide)
    rw [memberOp_sys_wingbeat, wingbeatWrite_accepts step least most stages rings axes fits room loose]
  case duty =>
    intro w s accepted z paired
    refine gives_rowWrite id rfl accepted ?_ (by decide)
    rw [memberOp_profile_duty]
    exact congrArg some (dutyWrite_full paired)
  case setpoint =>
    intro w v s accepted z other named lean cool inFlight
    refine gives_rowWrite id rfl accepted ?_ (by decide)
    rw [memberOp_power_setpoint, setpointWrite_moves other named lean cool inFlight]
  case viddio =>
    intro w v s accepted z pins inFlight nominal other
    refine gives_rowWrite id rfl accepted ?_ (by decide)
    rw [memberOp_power_viddio, viddioWrite_names pins inFlight nominal other]
  case commit =>
    intro w c s t accepted z cls unbarred admitted
    refine gives_rowWrite State.settleStops rfl accepted ?_ (by decide)
    rw [memberOp_cfgRow]
    exact congrArg some (cfgCommit_admits unbarred admitted)
  case deconfigure =>
    intro w c s accepted z cls free
    refine gives_rowWrite State.settleStops rfl accepted ?_ (by decide)
    have removed := cfgRemove_free free
    rw [cfgMem_cfgRow] at removed
    rw [memberOp_cfgRow]
    exact congrArg some removed

end Sys2Proof.Proofs
end

section
/-! PROOF. A result older than the value at its output (R47): it leaves the list of awaited results, and neither its handover
nor its deadline reaches the output. -/
namespace Sys2Proof.Proofs
open Machine Machine.State Claim Laws

/-! ### The results that an output awaits -/

/-- The output stage that has been written is the one that stands. -/
theorem outSt_setOut_self (s : State) (k : Nat) (o : OutStage) : (s.setOut k o).outSt k = o := by
  simp only [outSt, setOut, find_put, if_true]

/-- Only the result with sample instant `q` goes: the output keeps its value and its own sample instant. -/
theorem outSt_dropDue (s : State) (k q : Nat) :
    (s.dropDue k q).outSt k = { s.outSt k with due := (s.outSt k).due.filter (·.seq != q) } :=
  outSt_setOut_self s k _

/-! ### The older result at its handover and at its deadline (R47) -/

section
variable {s z : State} {t k off : Nat} {half : Bool} {d : Due}

/-- An older result that is in time, finite and not blocked is committed to its task's home state and dropped from its output. -/
theorem resultHandover_drops_older (key : s.outKey t = some k) (stands : (s.outSt k).due.find? (·.half = half) = some d)
    (formed : d.out.isEmpty = false) (inTime : s.dueLate d = false) (finite : d.out.all F32.finite? = true)
    (home : s.rewriteHome t = z) (free : z.outBlocked k = false) (older : d.seq < (z.outSt k).seq) :
    s.resultHandover t half off none [] = z.dropDue k d.seq := by
  simp only [resultHandover, tileFinds_nil, tilesFail_nil, compareCopies_none, key, stands, formed, inTime, finite, home, free,
    older, Bool.not_true, Bool.false_eq_true, if_false, if_true]

/-- An older result whose deadline passes is dropped and counts as late; nothing is substituted for it. -/
theorem deadline_drops_older (key : s.outKey t = some k) (stands : (s.outSt k).due.find? (·.half = half) = some d)
    (free : (s.dropDue k d.seq).outBlocked k = false) (older : d.seq < (s.outSt k).seq) :
    s.deadline t half = (s.dropDue k d.seq).lateCount k false := by
  have stillOlder : d.seq < ((s.dropDue k d.seq).outSt k).seq := by rwa [outSt_dropDue]
  simp only [deadline, key, stands, free, stillOlder, Bool.false_eq_true, if_false, if_true]

end

/-- Settles O55: at both instants the result leaves by `dropDue`, and `outSt_dropDue` says what that leaves of the output. -/
theorem olderResultIsDiscarded : Obligations.OlderResultIsDiscarded := by
  unfold Obligations.OlderResultIsDiscarded
  refine ⟨?handover, ?deadline, outSt_dropDue⟩
  case handover =>
    intro task half off s k d key stands z formed inTime finite free older
    exact gives_resultHandover (resultHandover_drops_older key stands formed inTime finite rfl free older)
  case deadline =>
    intro task half s k d key stands free older
    exact gives_deadline (deadline_drops_older key stands free older)

end Sys2Proof.Proofs
end

section
/-! PROOF. The commands of the reference (R39, R404, R587, R639, R652, R653): each as an equation of its operation where its rule
lets it act. -/
namespace Sys2Proof.Proofs
open Machine Machine.State Claim Laws

/-- A command leads where its operation does. -/
theorem gives_of_exec {c : Instr} {s u t : State} (command : exec c s = .next u) (ends : u = t) : Gives c s t :=
  ends ▸ command

/-! ### The reference: lock, loss and return, calibration, watchdog -/

section
variable {s : State}

theorem multiplierLock_locks (clocked : s.up.phase ≠ 0) (unlocked : s.tb.lock = false) :
    s.multiplierLock = { s with tb := { s.tb with lock := true } } := by
  simp only [multiplierLock, clocked, unlocked, decide_false, Bool.or_self, Bool.false_eq_true, if_false]

/-- In P1 the qualified reference begins P2. -/
theorem refQualified_begins {us : Nat} (locked : s.tb.lock = true) (notYet : s.tb.refok = false) (phase : s.up.phase = 1) :
    s.refQualified us =
      { s with tb := { s.tb with refok := true, seen := true, sinceOk := 0 }, up := { s.up with phase := 2 } } := by
  simp only [refQualified, locked, notYet, phase, Bool.not_true, Bool.or_self, Bool.false_eq_true, if_false, if_true]

/-- After a loss in operation the qualified reference restores what the loss took. -/
theorem refQualified_restores {us : Nat} (locked : s.tb.lock = true) (notYet : s.tb.refok = false) (phase : s.up.phase = 7)
    (lost : s.tb.loss = true) (noOverride : s.tb.ovrd = false) : s.refQualified us = s.refRestored us := by
  have notP1 : ¬ s.up.phase = 1 := by omega
  simp only [refQualified, locked, notYet, if_neg notP1, decide_eq_true phase, lost, noOverride, Bool.not_true, Bool.not_false,
    Bool.or_self, Bool.and_self, Bool.false_eq_true, if_false, if_true]

/-- A loss at READY counts and stops the device. -/
theorem refLoss_stops {u : State} (good : s.tb.refok = true) (phase : s.up.phase = 7) (awake : s.n POWER.PSTATE < 4)
    (counted : s.inc SYS.REFLOSSCNT = u) :
    s.refLoss = ({ u with tb := { u.tb with refok := false, loss := true, lock := false } } : State).refLossStop := by
  have clocked : ¬ s.up.phase < 2 := by omega
  have started : ¬ s.up.phase < 7 := by omega
  have noCocoon : ¬ 4 ≤ s.n POWER.PSTATE := by omega
  subst counted
  simp only [refLoss, good, clocked, started, noCocoon, decide_false, Bool.not_true, Bool.or_self, Bool.false_eq_true, if_false]

/-- A calibration that runs keeps a spread within its limit, and reports one that is not. -/
theorem vernierCalibration_runs {good : Bool} (ref : s.tb.refok = true) (cool : s.g THERM.STEP < 1)
    (awake : s.g POWER.PSTATE < 2) :
    s.vernierCalibration good =
      if good then { s.putF ASSAY.TAPAGE 0 F32.zero with
        tb := { s.tb with tapcal := true, tapAge := 0 }, stale := s.stale.filter (· != 0) }
      else s.alarm 0x7502 0 [38] 0 0x1D := by
  have notHot : ¬ s.g THERM.STEP ≥ 1 := by omega
  have notLow : ¬ s.g POWER.PSTATE ≥ 2 := by omega
  simp only [vernierCalibration, ref, notHot, notLow, decide_false, Bool.not_true, Bool.or_self, Bool.false_eq_true, if_false]

theorem watchdogPrewarning_raises (runs : s.watchdogRuns = true) : s.watchdogPrewarning = s.raise 63 := if_pos runs

end

/-- Settles O6: each command of the reference is its operation, which runs to its end by its equation above. -/
theorem referenceCommandsComplete : Obligations.ReferenceCommandsComplete := by
  unfold Obligations.ReferenceCommandsComplete
  refine ⟨?lock, ?begins, ?restores, ?loss, ?calibrated, ?discarded, ?watchdog⟩
  case lock =>
    intro s clocked unlocked
    exact gives_of_exec rfl (multiplierLock_locks clocked unlocked)
  case begins =>
    intro us s locked notYet phase
    exact gives_of_exec rfl (refQualified_begins locked notYet phase)
  case restores =>
    intro us s locked notYet phase lost noOverride
    exact gives_of_exec rfl (refQualified_restores locked notYet phase lost noOverride)
  case loss =>
    intro s good phase awake u
    exact gives_of_exec rfl (refLoss_stops good phase awake rfl)
  case calibrated =>
    intro s ref cool awake
    exact gives_of_exec rfl (vernierCalibration_runs ref cool awake)
  case discarded =>
    intro s ref cool awake
    exact gives_of_exec rfl (vernierCalibration_runs ref cool awake)
  case watchdog =>
    intro s runs
    exact gives_of_exec rfl (watchdogPrewarning_raises runs)

end Sys2Proof.Proofs
end

section
/-! PROOF. The commands of temperature (R62, R478, R669, R670, R676): each as an equation of its operation where its rule lets it
act. -/
namespace Sys2Proof.Proofs
open Machine Machine.State Claim

/-! ### Samples, the step down and the PERCH request -/

section
variable {s : State}

/-- A sample below the warning and every threshold shows in TJ and TJMAX (`v`) and counts for the cool second: no alarm, no
step up, no supply move. What is left are the stops of R478. -/
theorem thermalSample_shows {reading tj : F32} {u v w : State} (measures : 6 ≤ s.up.phase) (awake : s.n POWER.PSTATE < 4)
    (corrected : reading.add (s.f ASSAY.TEMPOFF) = tj) (shown : s.putF THERM.TJ 0 tj = u)
    (peak : (if (u.f THERM.TJMAX).lt tj then u.putF THERM.TJMAX 0 tj else u) = v)
    (noWarning : (v.f THERM.TWARN).le tj = false) (rearmed : tj.le ((v.f THERM.TWARN).sub (F32.ofInt 5)) = true)
    (unwarned : ({ v with pow := { v.pow with warned := false } } : State) = w)
    (below1 : (w.thr 1).le tj = false) (below2 : (w.thr 2).le tj = false) (below3 : (w.thr 3).le tj = false)
    (noBoost : w.n POWER.SETPOINT ≠ 2) (cool : tj.lt (F32.ofInt (w.g THERM.STOPTJ - 10)) = true) :
    s.thermalSample reading =
      ({ w with pow := { w.pow with below10 := min 10000 (w.pow.below10 + 1), cool := w.coolSamples tj } } : State).thermalStops
        tj := by
  have started : ¬ s.up.phase < 6 := by omega
  have noCocoon : ¬ 4 ≤ s.n POWER.PSTATE := by omega
  simp only [thermalSample, started, noCocoon, corrected, shown, peak, noWarning, rearmed, unwarned, below1, below2, below3,
    noBoost, cool, Nat.not_lt_zero, decide_false, Bool.or_self, Bool.false_and, Bool.false_eq_true, if_false, if_true]

/-- After a cool second the step goes down by one. -/
theorem throttleDown_steps (throttled : s.n THERM.STEP ≠ 0) (cool : 10000 ≤ s.pow.cool.getD (s.n THERM.STEP - 1) 0) :
    s.throttleDown = s.throttleTo (s.n THERM.STEP - 1) := by
  have notShort : ¬ s.pow.cool.getD (s.n THERM.STEP - 1) 0 < 10000 := by omega
  simp only [throttleDown, throttled, notShort, decide_false, Bool.or_self, Bool.false_eq_true, if_false]

/-- The PERCH request that is due is made where no point of R661 bars it. -/
theorem perchRetry_requests (due : s.pow.perchDue = true) (inFlight : s.flight = true) (still : s.pow.moving = false)
    (unbarred : s.powerBar 2 = none) : s.perchRetry = s.requestState 2 := by
  simp only [perchRetry, due, inFlight, still, unbarred, Bool.not_true, Bool.or_self, Bool.false_eq_true, if_false]

end

/-- Settles O37: each command of temperature is its operation, which runs to its end by its equation above. -/
theorem thermalEventsComplete : Obligations.ThermalEventsComplete := by
  unfold Obligations.ThermalEventsComplete
  refine ⟨?sample, ?down, ?retry⟩
  case sample =>
    intro reading s measures awake tj u v noWarning rearmed w below1 below2 below3 noBoost cool x
    exact gives_of_exec rfl (congrArg State.settleStops (thermalSample_shows measures awake rfl rfl rfl noWarning rearmed rfl
      below1 below2 below3 noBoost cool))
  case down =>
    intro s throttled cool
    exact gives_of_exec rfl (throttleDown_steps throttled cool)
  case retry =>
    intro s due inFlight still unbarred
    exact gives_of_exec rfl (perchRetry_requests due inFlight still unbarred)

end Sys2Proof.Proofs
end

section
/-! PROOF. The commands of placement, supply and power (R59, R68, R592, R652, R660, R663, R665, R666, R703): each as an equation
of its operation where its rule lets it act. -/
namespace Sys2Proof.Proofs
open Machine Machine.State Claim Laws

section
variable {s : State}

/-! ### Placement and supply moves (R59, R68, R703) -/

/-- A placed task whose code has a good copy is dispatched with its owner, told, and shown in its owner's CFG. -/
theorem placed_places {t : Nat} {x y : Task} {o : Mem × Nat × Nat} {u : State} (task : s.task t = x) (owner : s.taskOwner t = o)
    (placing : x.placing = true) (code : s.ex.codeBad.contains (taskKind t) = false)
    (settled : { x with placing := false, run := o.2.1 = 5 && s.b AXIS.ENABLE o.2.2 } = y)
    (told : (s.setTask t { y with st := s.runSt y }).notice 0x01 t 0xF x.engA = u) :
    s.placed t = (if u.ownerPlaced o.2.1 o.2.2 then u.put o.1 o.2.2 2 else u).toBalance.exRefresh := by
  subst task owner settled told
  simp only [State.placed, placing, code, Bool.not_true, Bool.or_self, Bool.false_eq_true, if_false]

/-- A supply move ends in its target. -/
theorem setpointMoveDone_arrives {t : Nat} (target : s.pow.spTarget = some t) :
    s.setpointMoveDone =
      ((({ s with pow := { s.pow with spTarget := none, spFrom := t } } : State).put POWER.SPSTATE 0 t).vengNear
        (setpointMv t)).exRefresh := by
  simp only [setpointMoveDone, target]

/-- A supply that misses its target ends in NOMINAL. -/
theorem vengMiss_falls_back {u : State} (moves : s.pow.spTarget.isSome = true)
    (left : { s with pow := { s.pow with spTarget := none, spFrom := 0 } } = u) :
    s.vengMiss =
      (((((u.put POWER.SETPOINT 0 0).put POWER.SPSTATE 0 0).vidDrive 0).vengAny).alarm 0x9103 0 [48]).exRefresh := by
  have target : s.pow.spTarget.isNone = false := by rw [← Option.not_isSome, moves]; rfl
  simp only [vengMiss, target, left, Bool.false_eq_true, if_false]

/-! ### The power ladder (R660, R663, R665, R666) -/

/-- A requested HOVER that nothing bars is entered: `a` is the state with the counters committed, `b` the one whose request
has ended. -/
theorem powerEntry_enters_hover {a b : State} (moving : s.pow.moving = true) (target : s.pow.target = 1)
    (unbarred : s.powerBar 1 = none) (committed : s.commitCounters = a)
    (ended : { a with pow := { a.pow with moving := false, spTarget := none, spFrom := 0, perchDue := false } } = b) :
    s.powerEntry =
      (((((b.put POWER.PSTATE 0 1).put POWER.SPSTATE 0 0).vidDrive 0).vengNear 800).raise 48).exRefresh := by
  simp only [powerEntry, moving, target, unbarred, committed, ended, Nat.reduceLeDiff, Nat.reduceEqDiff, Int.natCast_one,
    Option.isSome_none, decide_true, Bool.true_or, Bool.not_true, Bool.false_eq_true, if_false, if_true]

/-- A wake source that is enabled and whose condition holds leads back from a rung below FLIGHT. -/
theorem wake_leads_back {src : WakeSrc} (enabled : bit (s.n POWER.WAKEEN) (wakeBit src) = true) (ready : s.ready = true)
    (holds : s.wakeOk src (s.n POWER.PSTATE) = true) (noExit : s.pow.exiting = false) (still : s.pow.moving = false)
    (low : 1 ≤ s.n POWER.PSTATE) (aboveMothball : s.n POWER.PSTATE ≤ 4) : s.wake src = s.beginExit (wakeBit src + 1) := by
  have notFlight : ¬ s.n POWER.PSTATE = 0 := by omega
  have noMothball : ¬ s.n POWER.PSTATE = 5 := by omega
  simp only [wake, enabled, ready, holds, noExit, still, notFlight, noMothball, Bool.not_true, Bool.or_self, Bool.false_eq_true,
    if_false]

/-- An exit from above COCOON ends in FLIGHT: `a` is the state that is in FLIGHT, `c` the one with the setpoint and the blocks
back. With no late stop or trip marked, none is reported; what runs in between leaves the marks (`lateMarks_wakeBack`). -/
theorem wakeExitDone_returns {crcOk : Bool} {ms : Nat} {a c : State} (exits : s.pow.exiting = true)
    (above : s.n POWER.PSTATE ≤ 3) (noTrip : s.pow.lateTrip = false) (noStop : s.pow.lateStop = false)
    (inFlight : { s.put POWER.PSTATE 0 0 with pow := { s.pow with exiting := false } } = a)
    (back : (((a.raise 49).alarm 0x9201 0 [48] (256 * a.n POWER.WAKECAUSE)).setpointBack.flightBack
      (s.n POWER.PSTATE)).exRefresh = c) :
    s.wakeExitDone crcOk ms = { c with pow := { c.pow with lateTrip := false, lateStop := false } } := by
  have marks : lateMarks c = (false, false) := by
    rw [← back, lateMarks_wakeBack, lateMarks_alarm, lateMarks_raise, ← inFlight]
    exact Prod.ext noTrip noStop
  have noLateTrip : c.pow.lateTrip = false := congrArg Prod.fst marks
  have noLateStop : c.pow.lateStop = false := congrArg Prod.snd marks
  have noCocoon : ¬ s.n POWER.PSTATE = 4 := by omega
  subst inFlight
  simp only [wakeExitDone, exits, noCocoon, decide_false, Bool.not_true, Bool.false_and, Bool.false_eq_true, if_false] at back ⊢
  simp only [back, noLateTrip, noLateStop, Bool.false_eq_true, if_false]

/-! ### The counters and the time base without its reference (R592, R652) -/

theorem counterCommit_commits (ready : s.ready = true) (inFlight : s.flight = true) : s.counterCommit = s.commitCounters := by
  simp only [counterCommit, ready, inFlight, Bool.and_self, if_true]

theorem reserveCommitDone_commits (due : s.commitDue = true) :
    s.reserveCommitDone = ({ s with commitDue := false } : State).commitCounters.raise 48 := if_pos due

theorem wbcountAdvance_advances (lost : s.tb.refok = false) (phase : s.up.phase = 7) (noOverride : s.tb.ovrd = false) :
    s.wbcountAdvance = (s.elapse s.twNs).incWrap SYS.WBCOUNT := by
  simp only [wbcountAdvance, lost, phase, noOverride, bne_self_eq_false, Bool.or_self, Bool.false_eq_true, if_false]

end

/-- Settles O39: each command of placement, supply and power is its operation, which runs to its end by its equation above. -/
theorem powerEventsComplete : Obligations.PowerEventsComplete := by
  unfold Obligations.PowerEventsComplete
  refine ⟨?placed, ?arrives, ?miss, ?entry, ?wake, ?exit, ?counters, ?commit, ?advance⟩
  case placed =>
    intro task s placing code x o y u
    exact gives_of_exec rfl (placed_places rfl rfl placing code rfl rfl)
  case arrives =>
    intro s t target u
    exact gives_of_exec rfl (setpointMoveDone_arrives target)
  case miss =>
    intro s moves u
    exact gives_of_exec rfl (vengMiss_falls_back moves rfl)
  case entry =>
    intro s moving target unbarred a b c
    exact gives_of_exec rfl (powerEntry_enters_hover moving target unbarred rfl rfl)
  case wake =>
    intro src s enabled ready holds noExit still low aboveMothball
    exact gives_of_exec rfl (wake_leads_back enabled ready holds noExit still low aboveMothball)
  case exit =>
    intro crcOk ms s exits above noTrip noStop a b
    exact gives_of_exec rfl (wakeExitDone_returns exits above noTrip noStop rfl rfl)
  case counters =>
    intro s ready inFlight
    exact gives_of_exec rfl (counterCommit_commits ready inFlight)
  case commit =>
    intro s due
    exact gives_of_exec rfl (reserveCommitDone_commits due)
  case advance =>
    intro s lost phase noOverride
    exact gives_of_exec rfl (wbcountAdvance_advances lost phase noOverride)

end Sys2Proof.Proofs
end


section
/-! PROOF. The writes of keys, counters, engines and power (R94, R592, R615, R616, R622, R662): what the operation of each row
answers to a write that its rule allows. -/
namespace Sys2Proof.Proofs
open Machine Machine.State Claim Laws

section
variable {s : State}

/-! ### Keys and the anti-rollback counter (R615, R616, R622) -/

/-- With no burn still to be verified, a burn of the value that KEYSEL and KEYBUF give starts. -/
theorem keyBurn_starts {k : Nat} (idle : s.sec.burning = none) (value : s.burnValue = some k) :
    s.keyBurn = (.pending, { s with sec := { s.sec with burning := some (s.n SEC.KEYSEL, k) } }) := by
  simp only [keyBurn, idle, value, Option.isSome_none, Bool.false_eq_true, if_false]

/-- In MINT, a device without a secret draws it and burns it. -/
theorem dsgen_draws (mint : s.life = 1) (unprogrammed : s.otp.ds = 0) :
    s.dsgen = (.ok, State.otpShow { s with sec := { s.sec with drawn := s.sec.drawn + 1 },
                                           otp := { s.otp with ds := (Config.entropy s.sec.drawn).toNat } }) := by
  simp only [dsgen, mint, unprogrammed, bne_self_eq_false, Bool.false_eq_true, if_false]

/-- ARB rises to the number of the slot's image, which is above it, in FIELD and in SERVICE. -/
theorem arbcommit_rises {a : Nat} (slot : s.n SEC.FWSLOT ≤ 1)
    (image : min 64 (imgField (s.slot (s.n SEC.FWSLOT)).bytes 8 1) = a) (above : s.otp.arb < a)
    (inLife : s.life = 2 ∨ s.life = 3) :
    s.arbcommit = (.ok, State.otpShow { s with otp := { s.otp with arb := a } }) := by
  have notBad : ¬ 1 < s.n SEC.FWSLOT := by omega
  have notReached : ¬ a ≤ s.otp.arb := by omega
  have notDenied : ¬ (s.life != 2 && s.life != 3) = true := by
    rcases inLife with field | service
    · simp [field]
    · simp [service]
  simp only [arbcommit, image, if_neg notBad, if_neg notReached, if_neg notDenied]

/-- In SERVICE, FWPK0 is revoked once FWPK1 is programmed. -/
theorem fwrevoke_revokes (service : s.life = 3) (successor : s.otpKey 2 ≠ 0) :
    s.fwrevoke = (.ok, State.otpShow { s with otp := { s.otp with fwrev := true } }) := by
  simp only [fwrevoke, service, successor, bne_self_eq_false, Bool.false_eq_true, if_false]

/-! ### Engines and power (R94, R662) -/

/-- In SERVICE, a value with no bit that RETIRED lacks is taken, and the bits that it leaves out are cleared. -/
theorem retiredWrite_clears {k : Nat} (kept : k &&& s.n EXCH.RETIRED = k) (service : s.life = 3) :
    s.retiredWrite k = (.ok, s.clearRetired k) := by
  simp only [retiredWrite, kept, service, bne_self_eq_false, Bool.false_eq_true, if_false]

/-- Another power state, and not FLIGHT from HOVER or PERCH, is requested when no stop is open, no point of R661 bars it and,
for COCOON, the resume record fits. -/
theorem psreq_requests {k : Nat} (other : k ≠ s.n POWER.PSTATE)
    (noExit : ¬ (k = 0 ∧ (s.n POWER.PSTATE = 1 ∨ s.n POWER.PSTATE = 2))) (noStop : s.stops = [])
    (unbarred : s.powerBar k = none) (fits : k ≠ 4 ∨ s.resumeSize ≤ 196608) :
    s.psreq k = (.pending, s.requestState k) := by
  have notUp : ¬ (k = 0 && (s.n POWER.PSTATE = 1 || s.n POWER.PSTATE = 2)) = true := by simpa using noExit
  have room : ¬ (k = 4 && decide (196608 < s.resumeSize)) = true := by simpa using fits.neg_resolve_left
  simp only [psreq, if_neg notUp, if_neg other, noStop, List.isEmpty_nil, unbarred, Option.isSome_none, if_neg room,
    Bool.not_true, Bool.false_eq_true, if_false]

end

/-- Settles O25: each command writes its row, and the row's operation accepts the write by its lemma above; a commit of the
reserve is due whatever the state (`memberOp_reserve_commit`). -/
theorem securityAndPowerWritesComplete : Obligations.SecurityAndPowerWritesComplete := by
  unfold Obligations.SecurityAndPowerWritesComplete
  refine ⟨?burn, ?secret, ?rollback, ?revoke, ?reserve, ?retired, ?power⟩
  case burn =>
    intro w s k accepted z idle value
    refine gives_rowWrite id rfl accepted ?_ (by decide)
    rw [memberOp_sec_burn, keyBurn_starts idle value]
  case secret =>
    intro w s accepted z mint unprogrammed u
    refine gives_rowWrite id rfl accepted ?_ (by decide)
    rw [memberOp_sec_dsgen, dsgen_draws mint unprogrammed]
  case rollback =>
    intro w s accepted z a slot above inLife u
    refine gives_rowWrite id rfl accepted ?_ (by decide)
    rw [memberOp_sec_arbcommit, arbcommit_rises slot rfl above inLife]
  case revoke =>
    intro w s accepted z service successor u
    refine gives_rowWrite id rfl accepted ?_ (by decide)
    rw [memberOp_sec_fwrevoke, fwrevoke_revokes service successor]
  case reserve =>
    intro w s accepted z
    exact gives_rowWrite id rfl accepted (memberOp_reserve_commit z w.inst 0 1) (by decide)
  case retired =>
    intro w v s accepted z kept service
    refine gives_rowWrite id rfl accepted ?_ (by decide)
    rw [memberOp_exch_retired, retiredWrite_clears kept service]
  case power =>
    intro w v s accepted z other noExit noStop unbarred fits
    refine gives_rowWrite id rfl accepted ?_ (by decide)
    rw [memberOp_power_psreq, psreq_requests other noExit noStop unbarred fits]

end Sys2Proof.Proofs
end

section
/-! PROOF. The writes of inputs and feedback channels (R119, R130, R133, R144, R161, R164): what the operation of each row
answers to a write that its rule allows. -/
namespace Sys2Proof.Proofs
open Machine Machine.State Claim Laws

section
variable {s : State} {n : Nat}

/-- A write of a member leaves what the same object holds under another number. -/
theorem put_g_of_num_ne (m q : Mem) {v : Int} (sameRows : q.cls = m.cls ∧ q.lo = m.lo) (otherNum : q.num ≠ m.num) :
    (s.put m n v).g q n = s.g q n := by
  obtain ⟨cls, lo⟩ := sameRows
  refine put_g_ne s m q n n 0 0 v ?_
  unfold Mem.key
  omega

/-! ### ΣΔ inputs (R161, R164) -/

/-- A lost input with 1,024 clean bits restarts at the next mark. -/
theorem sdClear_restarts (lost : s.g SD.STATE n = 3) (clean : 1024 ≤ (s.sdX n).clean) :
    s.sdClear n = (.ok, (s.setSdX n { s.sdX n with clrPend := true }).clearFault 13 n) := by
  have notShort : ¬ (s.sdX n).clean < 1024 := by omega
  simp only [sdClear, lost, bne_self_eq_false, notShort, Bool.false_eq_true, if_false]

/-- A gain within its limit, by the mean of the latches that there are (log 43), becomes the input's correction. -/
theorem gainref_corrects {v gc : F32}
    (gain : v.div ((s.f SD.SCALE n).mul ((s.sdMean n (s.sdX n).sums).sub (s.f SD.OFFS n))) = gc)
    (latched : (s.sdX n).sums ≠ []) (least : (F32.ofFrac 9 10).le gc = true) (most : gc.le (F32.ofFrac 11 10) = true) :
    s.gainref n v = (.ok, s.putF SD.GCOR n gc) := by
  have someLatch : (s.sdX n).sums.isEmpty = false := List.isEmpty_eq_false_iff.mpr latched
  simp only [gainref, gain, someLatch, least, most, Bool.not_false, Bool.and_self, if_true]

/-! ### Digital inputs (R119) -/

/-- A held input is valid again, at the level of its pin and with no latch (log 43). -/
theorem dioClear_revalidates (invalid : s.g DIO.VALID n = 0) :
    s.dioClear n = (.ok, ((s.put DIO.VALID n 1).putB DIO.STATE n (s.dioX n).pin).clearFault 15 n) := by
  simp only [dioClear, if_pos invalid]

theorem func_of_dioSource (source : s.dioSource n = true) : s.g DIO.FUNC n = 2 := by
  simp only [dioSource, Bool.and_eq_true, decide_eq_true_eq] at source
  exact source.1

/-- An invalid stop input is a source whatever its level. -/
theorem dioSource_of_invalid (invalid : s.g DIO.VALID n = 0) (func : s.g DIO.FUNC n = 2) : s.dioSource n = true := by
  simp only [dioSource, invalid, func, decide_true, Bool.or_true, Bool.and_self]

/-- An input that was a source before asks for no further stop. -/
theorem dioStopEdge_of_source {t : State} (before : t.dioSource n = true → s.dioSource n = true) : s.dioStopEdge t n = t := by
  unfold dioStopEdge
  cases now : t.dioSource n with
  | false => rfl
  | true => rw [before now]; rfl

/-- An input that was held asks for no further stop when it is cleared: invalid, it was a source if it is one now. -/
theorem dioStopEdge_dioClear (invalid : s.g DIO.VALID n = 0) : s.dioStopEdge (s.dioClear n).2 n = (s.dioClear n).2 := by
  refine dioStopEdge_of_source fun now => dioSource_of_invalid invalid ?_
  rw [dioClear_revalidates invalid] at now
  calc s.g DIO.FUNC n
      = (s.put DIO.VALID n 1).g DIO.FUNC n := (put_g_of_num_ne DIO.VALID DIO.FUNC ⟨rfl, rfl⟩ (by decide)).symm
    _ = ((s.put DIO.VALID n 1).putB DIO.STATE n (s.dioX n).pin).g DIO.FUNC n :=
        (put_g_of_num_ne DIO.STATE DIO.FUNC ⟨rfl, rfl⟩ (by decide)).symm
    _ = 2 := func_of_dioSource now

/-! ### Feedback channels (R130, R133, R144, R744) -/

/-- A pulse mode enables a channel that is OFF: it begins in INIT at POSINIT, on itself, with the axes on it unhomed. -/
theorem fbMode_enables_pulse {k : Nat} {c : Int} {x : FbX} {t : State} (off : s.g FB.MODE n = 0) (pulse : 2 ≤ k)
    (fits : s.n FB.ADV n * 5 < s.twFit * 2) (preset : s.g FB.POSINIT n = c) (pins : s.fbX n = x)
    (begun : ((((((s.put FB.MODE n k).put FB.STATE n 1).put FB.SEL n 0).put FB.OFFP n 0).put FB.POS n
      (posOf c (s.n FB.CPR n))).put FB.SPEED n 0).put FB.SPEEDF n 0 = t) :
    s.fbMode n k =
      (.ok, (t.fbUnhomed n).setFbX n { count := c, c0 := c, lat := c, seen := c, a := x.a, b := x.b, z := x.z }) := by
  have on : ¬ k = 0 := by omega
  have notSsi : ¬ k = 1 := by omega
  have early : ¬ s.twFit * 2 ≤ s.n FB.ADV n * 5 := by omega
  simp only [fbMode, on, off, notSsi, early, preset, pins, begun, bne_self_eq_false, decide_false, Bool.false_and,
    Bool.or_self, Bool.false_eq_true, if_false]

/-- The fallback is selected at the next mark where it is OK, its offset is recorded, and the channel serves none itself. -/
theorem fbSel_fallback (primary : s.g FB.SEL n ≠ 1) (bound : s.n FB.FBKCH n < 16) (good : s.g FB.STATE (s.n FB.FBKCH n) = 2)
    (offset : (s.fbX n).fbo.isSome = true) (notFallback : s.fbIsFallback n = false) :
    s.fbSel n 1 = (.ok, s.setFbX n { s.fbX n with selPend := some 1 }) := by
  have noneUnbound : ¬ s.n FB.FBKCH n ≥ 16 := by omega
  have recorded : (s.fbX n).fbo.isNone = false := by rw [← Option.not_isSome, offset]; rfl
  simp only [fbSel, Nat.one_ne_zero, primary, noneUnbound, good, recorded, notFallback, bne_self_eq_false, decide_false,
    Bool.or_self, Bool.false_eq_true, if_false]

/-- A lost or frozen channel under no enabled axis begins anew. -/
theorem fbClear_restarts (idle : (s.axesOfFb n).any (fun x => s.b AXIS.ENABLE x) = false)
    (failed : s.g FB.STATE n = 4 ∨ s.g FB.STATE n = 5) :
    s.fbClear n = (.ok, ((s.put FB.STATE n 1).setFbX n
      { s.fbX n with bad := 0, good := 0, still := 0, miss := 0, esc := false }).clearFault 12 n) := by
  have lostOrFrozen : (decide (s.g FB.STATE n = 4) || decide (s.g FB.STATE n = 5)) = true := by simpa using failed
  simp only [fbClear, idle, lostOrFrozen, Bool.false_eq_true, if_false, if_true]

theorem idxarm_arms : s.idxarm n 1 = (.ok, s.setFbX n { s.fbX n with armed := true }) := rfl

end

/-- Settles O19: each command writes its row, and the row's operation accepts the write by its lemma above; POSSET is kept for
the mark whatever the state (`possetWrite`). -/
theorem inputWritesComplete : Obligations.InputWritesComplete := by
  unfold Obligations.InputWritesComplete
  refine ⟨?sdClear, ?gainref, ?dioClear, ?enable, ?select, ?clear, ?posset, ?arm⟩
  case sdClear =>
    intro w s accepted z lost clean
    refine gives_rowWrite State.settleStops rfl accepted ?_ (by decide)
    rw [memberOp_sd_clear, sdClear_restarts lost clean]
  case gainref =>
    intro w v more s y accepted z l gc latched least most
    refine gives_of_exec rfl (row_writes accepted ?_ (by decide))
    rw [memberOp_sd_gainref, gainref_corrects rfl latched least most]
  case dioClear =>
    intro w s accepted z invalid
    refine gives_rowWrite State.settleStops rfl accepted ?_ (by decide)
    rw [memberOp_dio_clear, ← dioClear_revalidates invalid]
    exact congrArg (fun t => some ((z.dioClear w.inst).1, t)) (dioStopEdge_dioClear invalid)
  case enable =>
    intro w v s accepted z n off pulse fits c x t
    refine gives_rowWrite State.settleStops rfl accepted ?_ (by decide)
    rw [memberOp_fb_mode, fbMode_enables_pulse off (by omega) fits rfl rfl rfl]
  case select =>
    intro w s accepted z n primary bound good offset notFallback
    refine gives_rowWrite State.settleStops rfl accepted ?_ (by decide)
    rw [memberOp_fb_sel]
    exact congrArg some (fbSel_fallback primary bound good offset notFallback)
  case clear =>
    intro w s accepted z n idle failed
    refine gives_rowWrite State.settleStops rfl accepted ?_ (by decide)
    rw [memberOp_fb_clear, fbClear_restarts idle failed]
  case posset =>
    intro w v s accepted z
    exact gives_rowWrite id rfl accepted (memberOp_fb_posset z w.inst 0 v) (by decide)
  case arm =>
    intro w s accepted z
    refine gives_rowWrite id rfl accepted ?_ (by decide)
    rw [memberOp_fb_idxarm]
    exact congrArg some idxarm_arms

end Sys2Proof.Proofs
end

section
/-! PROOF. The events of digital inputs and feedback channels (R109, R110, R113, R116, R118, R120): each as an equation of its
operation where its rule lets it act. -/
namespace Sys2Proof.Proofs
open Machine Machine.State Claim Laws

section
variable {s : State} {n : Nat}

/-! ### Digital inputs (R116, R120) -/

theorem dioX_setDioX_self (x : DioX) : (s.setDioX n x).dioX n = x := by
  simp only [dioX, setDioX, find_put, if_true]

theorem dioDue_of_no_wait {c : Nat} (noWait : (s.dioX n).wait = none) : s.dioDue n c = s := by
  simp only [dioDue, noWait]

/-- A valid input with no edge accepted before takes the new level: `u` is the state with the rejected pulses counted, `x` the
one with the level of the pin. -/
theorem dioEdge_accepts {level : Bool} {t glitches : Nat} {u x : State} (notOutput : s.g DIO.FUNC n ≠ 1)
    (notCompare : s.g DIO.FUNC n ≠ 3) (rejected : s.dioGlitches n glitches = u) (noWait : (u.dioX n).wait = none)
    (first : (u.dioX n).lastT = none) (valid : u.g DIO.VALID n ≠ 0) (change : u.b DIO.STATE n ≠ level)
    (atPin : u.setDioX n { u.dioX n with pin := level, wait := none } = x) :
    s.dioEdge n level t glitches = x.dioAccept n level t (t + u.n DIO.FILT n * 2 / 5) := by
  have noLast : (x.dioX n).lastT = none := by rw [← atPin, dioX_setDioX_self]; exact first
  have stillValid : x.g DIO.VALID n ≠ 0 := by rw [← atPin]; exact valid
  have stillOther : x.b DIO.STATE n ≠ level := by rw [← atPin]; exact change
  simp only [dioEdge, notOutput, notCompare, rejected, dioDue_of_no_wait noWait, atPin, noLast, stillValid, stillOther,
    Option.filter_none, decide_false, Bool.or_self, Bool.false_eq_true, if_false]

/-- An input that stays active for MAXACT is faulted. -/
theorem dioStuck_faults (supervised : s.g DIO.MAXACT n ≠ 0) (active : s.dioActive n = true) (notOutput : s.g DIO.FUNC n ≠ 1) :
    s.dioStuck n = s.dioFaulted n 0x3303 := by
  simp only [dioStuck, supervised, active, notOutput, decide_false, Bool.not_true, Bool.or_self, Bool.false_eq_true, if_false]

/-! ### Edges and stuck pins of feedback channels (R113, R120) -/

/-- Without an edge before it no edge comes too soon. -/
theorem edgeSpacing_none (t : Nat) : s.edgeSpacing n none t = s := rfl

/-- A rising edge of A counts up by one in the mode of two step pins: `v` is the state with the level of the pin, `z` the one
with the count. -/
theorem countEdge_counts_up {t : Nat} {v z : State} (mode : s.n FB.MODE n = 4) (first : (s.fbX n).lastA = none)
    (straight : s.b FB.INV n = false) (atPin : s.setFbX n { s.fbX n with a := true, lastA := some t } = v)
    (counted : v.setFbX n (v.pushEdge n (v.fbX n)
      { t := t * 5, c := wrap48 ((v.fbX n).count + 1), acc := t + v.n FB.FILT n }) = z) :
    s.countEdge n true true false t =
      z.compareAll n (posOf (z.fbX n).count (z.n FB.CPR n)) (posOf (z.fbX n).count (z.n FB.CPR n) + (z.fbX n).off) := by
  have notInverted : v.b FB.INV n = false := by rw [← atPin]; exact straight
  have countsOne : ¬ (1 : Int) = 0 := by decide
  simp only [countEdge, mode, first, edgeSpacing_none, atPin, edgeStep, notInverted, counted, Bool.true_or, Bool.or_self,
    Bool.and_self, Bool.and_true, Bool.and_false, Bool.false_and, Bool.not_true, Bool.false_eq_true, if_false, if_true,
    Int.sub_zero, countsOne]

/-- With the reference, an edge of A of a pulse channel is counted behind the pulses that were rejected before it. -/
theorem fbEdge_counts {v both : Bool} {t glitches : Nat} (ref : s.tb.refok = true) (pulse : 2 ≤ s.n FB.MODE n) :
    s.fbEdge n 0 v both t glitches = (s.inc FB.GLITCH n 0 glitches).countEdge n true v both t := by
  have notBelow : ¬ s.n FB.MODE n < 2 := by omega
  have pinA : ¬ (0 : Nat) = 2 := by decide
  simp only [fbEdge, ref, notBelow, Bool.not_true, Bool.false_eq_true, if_false, pinA, beq_self_eq_true]

/-- An index pin that stays active for MAXACT is faulted, and is one more index that does not match. -/
theorem fbStuck_misses_index (pulse : 2 ≤ s.n FB.MODE n) (supervised : s.g FB.MAXACT n ≠ 0) :
    s.fbStuck n true =
      ((s.setFbX n { s.fbX n with stuckZ := true }).inputFault 0x3106 n 12 (s.axesOfFb n)).indexMiss n := by
  have notBelow : ¬ s.n FB.MODE n < 2 := by omega
  simp only [fbStuck, notBelow, supervised, decide_false, Bool.not_true, Bool.false_and, Bool.or_self, Bool.false_eq_true,
    if_false, if_true]

/-! ### SSI words (R107 to R111) -/

theorem fbX_setFbX_self (x : FbX) : (s.setFbX n x).fbX n = x := by
  simp only [fbX, setFbX, find_put, if_true]

/-- The word of a channel holds its position alone, in binary: no leading, status or CRC bits, not inverted, with an unsigned
count of revolutions (R107). -/
structure BareWord (s : State) (n : Nat) : Prop where
  lead : s.n FB.LEAD n = 0
  stat : s.n FB.STAT n = 0
  crc : s.n FB.CRCLEN n = 0
  gray : s.b FB.GRAY n = false
  inv : s.b FB.INV n = false
  mtsign : s.b FB.MTSIGN n = false

/-- The setup of a word is no part of what is kept of the channel. -/
theorem BareWord.setFbX {x : FbX} (bare : BareWord s n) : BareWord (s.setFbX n x) n :=
  ⟨bare.lead, bare.stat, bare.crc, bare.gray, bare.inv, bare.mtsign⟩

theorem BareWord.ssiBits_eq (bare : BareWord s n) : s.ssiBits n = s.n FB.MT n + s.n FB.ST n := by
  simp only [ssiBits, bare.lead, bare.stat, bare.crc, Nat.zero_add, Nat.add_zero]

/-- The field of the position is the whole word. -/
theorem BareWord.ssiField_eq {w : Nat} (bare : BareWord s n) (fits : w < 2 ^ (s.n FB.MT n + s.n FB.ST n)) :
    s.ssiField n w = w := by
  simp only [ssiField, bits, bare.crc, bare.stat, bare.gray, Nat.add_zero, Nat.pow_zero, Nat.div_one, Nat.mod_eq_of_lt fits,
    Bool.false_eq_true, if_false]

/-- The first word of a channel gives the count that it holds. -/
theorem BareWord.ssiCount_first {w : Nat} (bare : BareWord s n) (first : (s.fbX n).word = none) :
    s.ssiCount n w = wrap48 ((w / 2 ^ s.n FB.ST n * 2 ^ s.n FB.ST n + w % 2 ^ s.n FB.ST n : Nat) : Int) := by
  simp only [ssiCount, first, bare.inv, bare.mtsign, Bool.false_and, Bool.false_eq_true, if_false]
  push_cast
  rfl

/-- A first word that is not all ones is good: there is no CRC, leading bit, status bit or jump to fail. -/
theorem BareWord.ssiClass_good {w : Nat} (bare : BareWord s n) (first : (s.fbX n).word = none)
    (notOnes : w ≠ 2 ^ (s.n FB.MT n + s.n FB.ST n) - 1) : s.ssiClass n false w = 0 := by
  simp only [ssiClass, bare.ssiBits_eq, bare.lead, bare.stat, bare.crc, first, bits, notOnes, Nat.pow_zero, Nat.mod_one,
    List.range_zero, List.any_nil, bne_self_eq_false, Option.isSome_none, decide_false, Bool.false_and, Bool.or_self,
    Bool.false_eq_true, if_false]

theorem ssiClass_low (w : Nat) : s.ssiClass n true w = 1 := by
  simp only [ssiClass, Bool.true_or, if_true]

section
variable (ssi : s.g FB.MODE n = 1) (ref : s.tb.refok = true) (clocked : s.n POWER.PSTATE < 2) (inTime : (s.fbX n).wait = false)
include ssi ref clocked inTime

/-- A line that stays low has not responded, and its result is bad. -/
theorem ssiDone_low {word : Nat} {u : State} (failed : s.setFbX n { s.fbX n with got := some false } = u) :
    s.ssiDone n true word = ((u.inc FB.NORESP n).ssiOutcome n 1).fbBad n := by
  have notBelow : ¬ 2 ≤ s.n POWER.PSTATE := by omega
  have notLate : ¬ (s.fbX n).wait = true := by rw [inTime]; exact Bool.false_ne_true
  have notGood : ((1 : Nat) == 0) = false := rfl
  simp only [ssiDone, ssi, ref, notBelow, ssiClass_low, if_neg notLate, notGood, failed, bne_self_eq_false, decide_false,
    Bool.not_true, Bool.or_self, Bool.false_eq_true, if_false]

/-- A good word of the next mark is taken up with its field. -/
theorem ssiDone_good {word w : Nat} {u : State} (cut : word % 2 ^ s.ssiBits n = w) (good : s.ssiClass n false w = 0)
    (come : s.setFbX n { s.fbX n with got := some true } = u) :
    s.ssiDone n false word = u.ssiGood n (u.ssiField n w) false := by
  have notBelow : ¬ 2 ≤ s.n POWER.PSTATE := by omega
  have notLate : ¬ (s.fbX n).wait = true := by rw [inTime]; exact Bool.false_ne_true
  simp only [ssiDone, ssi, ref, notBelow, cut, good, if_neg notLate, come, beq_self_eq_true, bne_self_eq_false,
    decide_false, Bool.not_true, Bool.or_self, Bool.false_eq_true, if_false]
  rw [inTime]

end

/-- The first good word of a channel presets its count and begins its history and its list of words (log 21): `a` is the state
that has taken it, `b` the one with the good result counted, `d` the one that serves its position where the channel serves its
own (by SPEED: log 43). Latches and compare units follow. -/
theorem ssiGood_first {ps : Nat} {c age ts : Int} {a b d : State} (first : (s.fbX n).word = none) (count : s.ssiCount n ps = c)
    (aged : (s.n FB.ADV n : Int) * 5 - (s.n FB.ENCDLY n : Int) * 2 = age) (sampled : s.nextMark * 5 - age = ts)
    (taken : (s.setFbX n { s.fbX n with
      count := c, c0 := c, hist := [], word := some ps, lat := c, outc := 0,
      samp := (ts, posOf c (s.cprOf n)) :: (s.fbX n).samp.filter fun e => ts ≤ e.1 + 22000000 }).putF
      FB.AGE n (F32.ofFrac age 2000) = a)
    (good : a.fbGood n = b) (served : (if b.g FB.SEL n = 0 && b.g FB.STATE n = 2 then b.ssiServe n age else b) = d) :
    s.ssiGood n ps false = (d.ssiLatches n).compareAll n (d.rawPos n) (d.g FB.POS n) := by
  subst count aged sampled taken good served
  simp only [ssiGood, first, Option.isNone_none, Bool.false_eq_true, if_false, if_true]

end

/-- Settles O29: each command is its operation, which runs to its end by its equation above; DIO_WINDOW_END ends the windows of
every input whatever the state (`dioWindowsEnd`). -/
theorem feedbackEventsComplete : Obligations.FeedbackEventsComplete := by
  unfold Obligations.FeedbackEventsComplete
  refine ⟨?dioEdge, ?windowEnd, ?dioStuck, ?fbEdge, ?fbStuck, ?ssiLow, ?ssiGood⟩
  case dioEdge =>
    intro n level t glitches s notOutput notCompare u noWait first valid change x v
    exact gives_of_exec rfl (congrArg (fun v => (s.dioStopEdge v n).settleStops)
      (dioEdge_accepts notOutput notCompare rfl noWait first valid change rfl))
  case windowEnd =>
    intro s
    exact gives_of_exec rfl rfl
  case dioStuck =>
    intro n s supervised active notOutput
    exact gives_of_exec rfl (congrArg (fun v => (s.dioStopEdge v n).settleStops) (dioStuck_faults supervised active notOutput))
  case fbEdge =>
    intro n t glitches s mode ref u v first straight z p
    have pulse : 2 ≤ s.n FB.MODE n := by omega
    have stillMode : u.n FB.MODE n = 4 := by
      rw [← mode]
      exact congrArg Int.toNat (put_g_of_num_ne FB.GLITCH FB.MODE ⟨rfl, rfl⟩ (by decide))
    exact gives_of_exec rfl (congrArg State.settleStops
      ((fbEdge_counts ref pulse).trans (countEdge_counts_up stillMode first straight rfl rfl)))
  case fbStuck =>
    intro n s pulse supervised u
    exact gives_of_exec rfl (congrArg State.settleStops (fbStuck_misses_index pulse supervised))
  case ssiLow =>
    intro n word s ssi ref clocked inTime u
    exact gives_of_exec rfl (congrArg (fun t => t.ssiRelease.settleStops) (ssiDone_low ssi ref clocked inTime rfl))
  case ssiGood =>
    intro n word s ssi ref clocked inTime mt st w u lead stat crc gray inv mtsign first notOnes
    have bare : BareWord s n := ⟨lead, stat, crc, gray, inv, mtsign⟩
    have fits : w < 2 ^ (mt + st) := Nat.mod_lt _ (Nat.two_pow_pos _)
    have firstYet : (u.fbX n).word = none := by rw [fbX_setFbX_self]; exact first
    have cut : word % 2 ^ s.ssiBits n = w := by rw [bare.ssiBits_eq]
    have done := ssiDone_good ssi ref clocked inTime cut (bare.ssiClass_good first notOnes) (u := u) rfl
    rw [bare.setFbX.ssiField_eq fits] at done
    refine ⟨_, gives_of_exec rfl (congrArg (fun t => t.ssiRelease.settleStops) (done.trans ?_)), rfl⟩
    exact ssiGood_first firstYet (bare.setFbX.ssiCount_first firstYet) rfl rfl rfl rfl rfl

end Sys2Proof.Proofs
end

section
/-! PROOF. The background services (R138, R328, R585, R587, R595, R596, R601): each as an equation of its operation where its
rule lets it act. -/
namespace Sys2Proof.Proofs
open Machine Machine.State Claim

section
variable {s : State}

/-! ### Audit (R585, R586) -/

section
variable (cool : s.n THERM.STEP = 0) (ready : s.ready = true) (awake : s.n POWER.PSTATE ≤ 2)
include cool ready awake

/-- What pauses the scrubbing of a store that is kept down to PERCH does not hold (R668, R671). -/
theorem auditScrub_unpaused :
    (decide (s.n THERM.STEP ≥ 1) || !s.ready || decide (2 < s.n POWER.PSTATE)) = false := by
  have notHot : ¬ s.n THERM.STEP ≥ 1 := by omega
  have notLow : ¬ 2 < s.n POWER.PSTATE := by omega
  simp only [notHot, ready, notLow, decide_false, Bool.not_true, Bool.or_self]

theorem auditScrub_pass : s.auditScrub (.clean true) = s.incWrap AUDIT.PASSES := by
  simp only [auditScrub, auditScrub_unpaused cool ready awake, Bool.false_eq_true, if_false, if_true]

/-- A free tile that fails its tag is zeroed and counted. -/
theorem auditScrub_freeTile {k : Fin 32768} (free : s.ringOf (256 * k) = none) :
    s.auditScrub (.freeTile k) = (s.setBytes (256 * k) (zeros 256)).inc AUDIT.FREEFIX := by
  simp only [auditScrub, auditScrub_unpaused cool ready awake, freeTileBad, free, Option.isSome_none, Bool.false_eq_true,
    if_false]

theorem auditScrub_sramWord : s.auditScrub (.sramWord true) = s.inc AUDIT.SRAMCOR := by
  simp only [auditScrub, auditScrub_unpaused cool ready awake, Bool.false_eq_true, if_false, if_true]

/-- A corrected MRAM word is counted and written back. -/
theorem auditScrub_mramWord (k : Fin 1024) : s.auditScrub (.mramWord k true) = (s.inc AUDIT.MRAMCOR).mramWrite k := by
  simp only [auditScrub, auditScrub_unpaused cool ready awake, Bool.false_eq_true, if_false, if_true]

end

/-! ### The Ledger (R595, R596, R601) -/

/-- The oldest staged record is written; with no record lost meanwhile, no LOSS record follows. -/
theorem ledgerWrite_writes {r : LRec} {l : List LRec} {u : State} (staged : s.ledg.staged = r :: l)
    (taken : { s with ledg := { s.ledg with staged := l, unsealed := s.ledg.unsealed + 1 } } = u)
    (noneLost : (u.ledgerPut r).ledg.lostNow = 0) : s.ledgerWrite = u.ledgerPut r := by
  simp only [ledgerWrite, staged, taken, noneLost, decide_true, Bool.true_or, if_true]

/-- With records unsealed and a key to sign with (log 48), the signature over the chain enters the Ledger in two records:
`p`, which leads to `u`, and `q`, which leads to `v`. -/
theorem sealPair_seals {boot : Nat} {bytes : List Byte} {p q : LRec} {u v : State} (unsealed : s.ledg.unsealed ≠ 0)
    (key : s.hasSealKey = true)
    (signed : (le 64 (Config.ecdsaSign s.otp.ds
      (Config.sha256 (le 8 Config.uid.toNat ++ le 8 s.mram.next ++ le 32 s.mram.chain.toNat)))).reverse = bytes)
    (boots : (s.bk.regs.find 0 29).toNat % 65536 = boot)
    (first : { boot := boot, code := 0xF0F1, inst := 0xFFFF, wb := s.wb, wblast := s.wb, detail := 0,
               data := slice 0 36 bytes } = p)
    (second : { boot := boot, code := 0xF0F2, inst := 0xFFFF, wb := s.wb, wblast := s.wb, detail := 0,
                data := slice 36 28 bytes } = q)
    (putFirst : s.ledgerPut p = u) (putSecond : u.ledgerPut q = v) :
    s.sealPair = { v with ledg := { v.ledg with unsealed := 0 } } := by
  simp only [sealPair, unsealed, key, signed, boots, first, second, putFirst, putSecond,
    decide_false, Bool.not_true, Bool.or_self, Bool.false_eq_true, if_false]

/-- After a second without a discard or a halving, TDEC is halved, not below `low`: `u` is the state with the new TDEC. -/
theorem tdecHalving_halves {k low : Nat} {u : State}
    (quiet : s.telem.last.find 0 k = 0 ∨ s.telem.last.find 0 k + 400000000 ≤ s.cycleOf + 1)
    (least : (if s.g THERM.STEP ≥ 2 then s.n THERM.THRTDEC else 1) = low)
    (halved : s.put LEDGER.TDEC 0 (max low (s.n LEDGER.TDEC 0 k / 2)) k = u) :
    s.tdecHalving k = { u with telem := { u.telem with last := u.telem.last.put 0 k (u.cycleOf + 1) } } := by
  have notSoon : ¬ (s.telem.last.find 0 k != 0 && decide (s.cycleOf + 1 < s.telem.last.find 0 k + 400000000)) = true := by
    simpa using quiet.resolve_left
  subst halved
  simp only [tdecHalving, if_neg notSoon, least]
  rfl

/-! ### Compare outputs, calibrations and host tables (R138, R328, R587) -/

/-- A compare pulse ends with its output inactive: `u` is the state with the output's level. -/
theorem comparePulseEnd_ends {c : Nat} {u : State} (pulse : (s.cmpX c).pulse = true)
    (inactive : { s with dioOut := s.dioOut.put false (s.n CMPU.OUTDIO c) false } = u) :
    s.comparePulseEnd c = u.setCmpX c { u.cmpX c with pulse := false } := by
  subst inactive
  simp only [comparePulseEnd, pulse, Bool.not_true, Bool.false_eq_true, if_false]
  rfl

/-- A calibration that has outlived CALMAX is told once, under the code and number that log 43 and 48 give it. -/
theorem calStale_warns {which : Nat} {u : State} (untold : s.stale.contains which = false) (ready : s.ready = true)
    (old : s.n ASSAY.CALMAX * 1000000000 <
      (if which = 0 then s.tb.tapAge else if which = 1 then s.tb.sarAge else s.tb.tempAge))
    (told : { s with stale := s.stale ++ [which] } = u) :
    s.calStale which =
      if which = 2 then u.alarm 0x8101 0 [39] 0 0x1D else u.alarm 0x7501 which [38] 0 0x1D := by
  simp only [calStale, untold, ready, Nat.not_le.mpr old, told, decide_false, Bool.not_true, Bool.or_self, Bool.false_eq_true,
    if_false]

/-- A correction within 5 °C takes effect and is kept in MRAM, in the block of log 47: `u` is the state that shows it. -/
theorem diodeCalibration_corrects {corr : F32} {u : State} (measures : 6 ≤ s.up.phase) (cool : s.g THERM.STEP < 1)
    (awake : s.g POWER.PSTATE < 3) (small : corr.abs.le (F32.ofInt 5) = true)
    (shown : (s.putF ASSAY.TEMPOFF 0 corr).putF ASSAY.TEMPAGE 0 F32.zero = u) :
    s.diodeCalibration corr = State.mramWrite { u with
      pow := { u.pow with diodeCal := true }, tb := { u.tb with tempAge := 0 }, stale := u.stale.filter (· != 2),
      mram := { u.mram with tempOff := corr.toBits } } 704 := by
  have started : ¬ s.up.phase < 6 := by omega
  have notHot : ¬ s.g THERM.STEP ≥ 1 := by omega
  have notLow : ¬ s.g POWER.PSTATE ≥ 3 := by omega
  simp only [diodeCalibration, started, notHot, notLow, small, shown, decide_false, Bool.or_self, Bool.false_eq_true,
    if_false, if_true]

end

/-- Settles O41: each command is its operation, which runs to its end by its equation above; TABCRC_CHECK checks every table
in use whatever the state (`tabcrcCheck`). -/
theorem serviceEventsComplete : Obligations.ServiceEventsComplete := by
  unfold Obligations.ServiceEventsComplete
  refine ⟨?audit, ?write, ?signed, ?tdec, ?pulse, ?stale, ?diode, ?tables⟩
  case audit =>
    intro s cool ready awake
    refine ⟨?pass, ?freeTile, ?sram, ?mram⟩
    case pass => exact gives_of_exec rfl (congrArg State.settleStops (auditScrub_pass cool ready awake))
    case freeTile =>
      intro k free
      exact gives_of_exec rfl (congrArg State.settleStops (auditScrub_freeTile cool ready awake free))
    case sram => exact gives_of_exec rfl (congrArg State.settleStops (auditScrub_sramWord cool ready awake))
    case mram =>
      intro k
      exact gives_of_exec rfl (congrArg State.settleStops (auditScrub_mramWord cool ready awake k))
  case write =>
    intro s r l staged _ u noneLost
    exact gives_of_exec rfl (ledgerWrite_writes staged rfl noneLost)
  case signed =>
    intro s unsealed key bytes boot p u q v
    clear_value (putSecond : v = _) (second : q = _) (putFirst : u = _) (first : p = _) (boots : boot = _) (signed : bytes = _)
    exact gives_of_exec rfl
      (sealPair_seals unsealed key signed.symm boots.symm first.symm second.symm putFirst.symm putSecond.symm)
  case tdec =>
    intro k s quiet low u
    exact gives_of_exec rfl (tdecHalving_halves quiet rfl rfl)
  case pulse =>
    intro c s pulse u
    exact gives_of_exec rfl (comparePulseEnd_ends pulse rfl)
  case stale =>
    intro which s untold ready old u
    exact gives_of_exec rfl (calStale_warns untold ready old rfl)
  case diode =>
    intro corr s measures cool awake small u v
    exact gives_of_exec rfl (diodeCalibration_corrects measures cool awake small rfl)
  case tables =>
    intro bad s
    exact gives_of_exec rfl rfl

end Sys2Proof.Proofs
end

section
/-! PROOF. The writes of machines and axes (R190, R194, R198, R209, R296, R327, R334): what the operation of each row answers to
a write that its rule allows. -/
namespace Sys2Proof.Proofs
open Machine Machine.State Claim Laws

section
variable {s : State} {n : Nat}

/-! ### Enables of machines and axes (R190, R209, R296) -/

theorem stopOver_of_noStop {latched : Bool} (noStop : s.stopStatusOf n latched = none) : s.stopOver n = false := by
  cases covered : s.stopOver n with
  | false => rfl
  | true => simp only [stopStatusOf, covered, if_true, reduceCtorEq] at noStop

/-- A channel that is unavailable, or past INIT, bars no enable. -/
theorem fbInit_eq_false {c : Nat} (served : s.fbAvail c = false ∨ s.g FB.STATE c ≠ 1) :
    (s.fbAvail c && decide (s.g FB.STATE c = 1)) = false := by
  rcases served with unavailable | pastInit
  · simp only [unavailable, Bool.false_and]
  · simp only [pastInit, decide_false, Bool.and_false]

/-- A machine of a local stage that is placed, set up and free to turn is enabled where its stage is in RUN. -/
theorem machEnable_turnsOn {i : Nat} {latched : Bool} (off : s.b MACH.ENABLE n = false) (placed : s.machPlaced n = true)
    (onStage : s.pathOf n = 1) (limited : (s.f MACH.IMAX n).zero? = false)
    (gain : ((s.f LOOP.KP n).zero? && (s.f LOOP.KPD n).zero?) = false) (notProfile : s.g MACH.ANGSRC n ≠ 1)
    (notDc : s.dcMach n = false) (noPolicy : (s.machX n).policy = false)
    (angle : s.fbAvail (s.n MACH.FBANG n) = false ∨ s.g FB.STATE (s.n MACH.FBANG n) ≠ 1)
    (noStop : s.stopStatusOf (s.n MACH.AXIS n) latched = none) (stage : s.stageOfMach n = some i) (run : s.stState i = 3) :
    s.machEnable n latched = (.ok, s.machOn n) := by
  simp only [machEnable, off, placed, onStage, limited, gain, notProfile, notDc, noPolicy, fbInit_eq_false angle, noStop,
    stopOver_of_noStop noStop, stage, run, Option.getD_some, bne_self_eq_false, decide_false, Bool.not_true, Bool.not_false,
    Bool.true_and, Bool.and_false, Bool.false_and, Bool.or_self, Bool.false_eq_true, if_false]

/-- A machine that no enabled axis drives is disabled at once. -/
theorem machDisable_turnsOff (on : s.b MACH.ENABLE n = true)
    (free : 16 ≤ s.n MACH.AXIS n ∨ s.b AXIS.ENABLE (s.n MACH.AXIS n) = false ∨ (s.machX n).policy = true) :
    s.machDisable n = (.ok, (s.machOff n).partDisable n) := by
  have noMember : (decide (s.n MACH.AXIS n < 16) && s.b AXIS.ENABLE (s.n MACH.AXIS n) && !(s.machX n).policy) = false := by
    rcases free with beyond | disabled | policy
    · simp only [Nat.not_lt.mpr beyond, decide_false, Bool.false_and]
    · simp only [disabled, Bool.and_false, Bool.false_and]
    · simp only [policy, Bool.not_true, Bool.and_false]
  simp only [machDisable, on, noMember, Bool.not_true, Bool.false_eq_true, if_false]

/-- CLEAR ends the fault policy of a machine without a stage whose causes are gone. -/
theorem machClear_leavesPolicy (noCause : s.machCause n = false) (noStage : s.stageOfMach n = none)
    (policy : (s.machX n).policy = true) (served : s.machStranded n = false) :
    s.machClear n =
      (.ok, ((s.setMachX n { s.machX n with policy := false, bad := 0, ierr := 0 }).leavePolicy [n]).clearFault 6 n) := by
  simp only [machClear, noCause, noStage, policy, served, Bool.and_false, Bool.or_self, Bool.not_true, Bool.false_eq_true,
    if_false]

/-- A disable of an enabled axis waits for the mark. -/
theorem axisDisable_pends (on : s.b AXIS.ENABLE n = true) :
    s.axisDisable n = (.ok, s.setAxisX n { s.axisX n with disPend := true }) := if_pos on

/-- An axis that is placed, set up, served by its feedback and free to turn is enabled. -/
theorem axisEnable_accepts {latched : Bool} (off : s.b AXIS.ENABLE n = false) (placed : s.g AXIS.CFG n = 2)
    (served : s.ownerStranded 5 n = false) (good : s.axisBad n = false)
    (position : s.fbAvail (s.n AXIS.FBPOS n) = false ∨ s.g FB.STATE (s.n AXIS.FBPOS n) ≠ 1)
    (speed : s.fbAvail (s.n AXIS.FBSPD n) = false ∨ s.g FB.STATE (s.n AXIS.FBSPD n) ≠ 1)
    (angles : ∀ m ∈ s.machsOf n, s.g MACH.ANGSRC m ≠ 0 ∨ s.fbAvail (s.n MACH.FBANG m) = false ∨
      s.g FB.STATE (s.n MACH.FBANG m) ≠ 1)
    (noStop : s.stopStatusOf n latched = none) : (s.axisEnable n latched).1 = .ok := by
  have noAngleInit : (s.machsOf n).any (fun m => decide (s.g MACH.ANGSRC m = 0) &&
      (s.fbAvail (s.n MACH.FBANG m) && decide (s.g FB.STATE (s.n MACH.FBANG m) = 1))) = false := by
    rw [List.any_eq_false]
    intro m member
    rcases angles m member with other | angle
    · simp only [other, decide_false, Bool.false_and, Bool.false_eq_true, not_false_eq_true]
    · simp only [fbInit_eq_false angle, Bool.and_false, Bool.false_eq_true, not_false_eq_true]
  simp only [axisEnable, off, placed, served, good, fbInit_eq_false position, fbInit_eq_false speed, noAngleInit, noStop,
    stopOver_of_noStop noStop, bne_self_eq_false, Bool.or_self, Bool.false_eq_true, if_false]

/-! ### Setpoints, styles and tables (R194, R198, R327, R334) -/

/-- A valid source is followed again. -/
theorem spack_follows (valid : s.spInvalid n = false) :
    s.spack n = (.ok, (s.setAxisX n { s.axisX n with spBad := false, spRamp0 := false }).clearFault 5 n) := by
  simp only [spack, valid, Bool.false_eq_true, if_false]

/-- CRISP asks for nothing of the machine. -/
theorem styleWrite_crisp : s.styleWrite n 0 = (.ok, s.put MACH.STYLE n (0 : Nat)) := rfl

/-- A host table whose CRC and rows agree is selected where no enabled stage uses the pattern. -/
theorem patternSrc_host (crc : s.g PAT.EXPCRC n = s.g PAT.TABCRC n) (rows : s.rowsOk n = true)
    (unused : s.patternBusy n = false) : s.patternSrc n 1 = (.ok, s.put PAT.SRC n (1 : Nat)) := by
  simp only [patternSrc, crc, rows, unused, bne_self_eq_false, Bool.not_true, Bool.or_self, Bool.and_false, Bool.false_eq_true,
    if_false]

/-- The factory table needs no check of its own. -/
theorem patternSrc_factory (unused : s.patternBusy n = false) : s.patternSrc n 0 = (.ok, s.put PAT.SRC n (0 : Nat)) := by
  simp only [patternSrc, unused, Nat.zero_ne_one, decide_false, Bool.false_and, Bool.false_eq_true, if_false]

/-- A table without a CRC check, or with the CRC that is expected, becomes active. -/
theorem ffActive_activates (crc : s.b FF.CRCCHK n = false ∨ s.g FF.EXPCRC n = s.g FF.TABCRC n) :
    s.ffActive n 1 = (.ok, s.put FF.ACTIVE n (1 : Nat)) := by
  have agrees : (s.b FF.CRCCHK n && s.g FF.EXPCRC n != s.g FF.TABCRC n) = false := by
    rcases crc with unchecked | equal
    · simp only [unchecked, Bool.false_and]
    · simp only [equal, bne_self_eq_false, Bool.and_false]
  simp only [ffActive, Bool.and_assoc, agrees, Bool.and_false, Bool.false_eq_true, if_false]

end

/-- Settles O22: each command writes its row, and the row's operation accepts the write by its lemma above. -/
theorem driveWritesComplete : Obligations.DriveWritesComplete := by
  unfold Obligations.DriveWritesComplete
  refine ⟨?machOn, ?machOff, ?machClear, ?axisOff, ?axisOn, ?spack, ?style, ?patternHost, ?patternFactory, ?table⟩
  case machOn =>
    intro w s i accepted z m off placed onStage limited gain notProfile notDc noPolicy angle noStop stage run
    refine gives_rowWrite State.settleStops rfl accepted ?_ (by decide)
    rw [memberOp_mach_enable]
    exact congrArg some
      (machEnable_turnsOn off placed onStage limited gain notProfile notDc noPolicy angle noStop stage run)
  case machOff =>
    intro w s accepted z m on free
    refine gives_rowWrite State.settleStops rfl accepted ?_ (by decide)
    rw [memberOp_mach_enable]
    exact congrArg some (machDisable_turnsOff on free)
  case machClear =>
    intro w s accepted z m noCause noStage policy served
    refine gives_rowWrite State.settleStops rfl accepted ?_ (by decide)
    rw [memberOp_mach_clear, machClear_leavesPolicy noCause noStage policy served]
  case axisOff =>
    intro w s accepted z on
    refine gives_rowWrite State.settleStops rfl accepted ?_ (by decide)
    rw [memberOp_axis_enable]
    exact congrArg some (axisDisable_pends on)
  case axisOn =>
    intro w s accepted z x off placed served good position speed angles noStop
    refine gives_rowWrite State.settleStops rfl accepted ?_ (by decide)
    rw [memberOp_axis_enable]
    exact congrArg (fun st => some (st, (z.axisEnable x (z.latchedOver x)).2))
      (axisEnable_accepts off placed served good position speed angles noStop)
  case spack =>
    intro w s accepted z valid
    refine gives_rowWrite id rfl accepted ?_ (by decide)
    rw [memberOp_axis_spack, spack_follows valid]
  case style =>
    intro w s accepted
    refine gives_rowWrite id rfl accepted ?_ (by decide)
    rw [memberOp_mach_style]
    exact congrArg some styleWrite_crisp
  case patternHost =>
    intro w s accepted z crc rows unused
    refine gives_rowWrite id rfl accepted ?_ (by decide)
    rw [memberOp_pat_src]
    exact congrArg some (patternSrc_host crc rows unused)
  case patternFactory =>
    intro w s accepted z unused
    refine gives_rowWrite id rfl accepted ?_ (by decide)
    rw [memberOp_pat_src]
    exact congrArg some (patternSrc_factory unused)
  case table =>
    intro w s accepted z crc
    refine gives_rowWrite id rfl accepted ?_ (by decide)
    rw [memberOp_ff_active]
    exact congrArg some (ffActive_activates crc)

end Sys2Proof.Proofs
end

section
/-! PROOF. The timers of loops, brakes, Give and pools (R203, R211, R233, R273, R274, R276, R296, R297, R306, R307): each as an
equation of its operation where its rule lets it act. -/
namespace Sys2Proof.Proofs
open Machine Machine.State Claim Laws

section
variable {s : State} {n : Nat}

/-! ### Freezes and feedback holds (R203, R211) -/

/-- A freeze that reaches FRZMAX ends with its fault. -/
theorem freezeTimeout_ends (frozen : s.g LOOP.FREEZE n ≠ 0) :
    s.freezeTimeout n =
      ((s.put LOOP.FREEZE n 0).put LOOP.FRZACK n 0).loopFault 0x4105 n (s.axisOfLoop n) 16 := if_neg frozen

/-- The feedback hold ends in a stop of category 0. -/
theorem feedbackHoldEnd_stops (held : (s.axisX n).fbHold = true) :
    s.feedbackHoldEnd n = (s.setAxisX n { s.axisX n with fbHold := false }).stopAxes (2 ^ n) 0 0x85 := by
  simp only [feedbackHoldEnd, held, Bool.not_true, Bool.false_eq_true, if_false]

/-! ### Standstill and the brake (R273, R274, R276) -/

/-- An enabled axis at rest asks for its automatic brake while Give is neither ACTIVE nor in RECOVER. -/
theorem brakeApplyDelay_requests (auto : s.b PROF.BRKAUTO n = true) (on : s.b AXIS.ENABLE n = true)
    (rest : s.atRest n = true) (noGive : s.n GIVE.STATE n < 2) : s.brakeApplyDelay n = s.brkReq n false := by
  simp only [brakeApplyDelay, auto, on, rest, noGive, decide_true, Bool.and_self, if_true]

/-- Where R274's conditions hold the standstill current is reduced about the present position. -/
theorem holdReduction_reduces (ok : s.holdOk n = true) (full : s.b PROF.HOLDACT n = false) :
    s.holdReduction n =
      ((s.setAxisX n { s.axisX n with pH := s.g AXIS.POS n }).put PROF.HOLDACT n 1).profEvt n 10 := by
  simp only [holdReduction, ok, full, Bool.not_true, Bool.or_self, Bool.false_eq_true, if_false]

/-- A move that waits for the brake is given up, its queue with it. -/
theorem brakeTimeout_faults (held : (s.gen n).held = true) :
    s.brakeTimeout n = (((s.dropActive n).genFault 0x4408 n).flushQueue n fun _ => false).setState n 0 := by
  simp only [brakeTimeout, held, Bool.not_true, Bool.false_eq_true, if_false]

/-! ### Give (R306, R307) -/

/-- Give leaves ACTIVE for RECOVER outside position mode: `u` is the state in RECOVER, `v` the one whose ramp of limits
begins, `w` the one whose stop ramp begins anew. -/
theorem giveRecover_recovers {u v w : State} (active : s.n GIVE.STATE n = 2) (noTrigger : s.giveTrigger n = false)
    (low : (s.giveLoad n).lt (s.f GIVE.GLREL n) = true) (recover : s.put GIVE.STATE n 3 = u) (notPosition : u.n AXIS.MODE n ≠ 3)
    (ramp : u.setAxisX n { u.axisX n with recT := 0 } = v)
    (anew : { v with axstop := v.axstop.put {} n { v.axstop.find {} n with first := true } } = w) :
    s.giveRecover n = w.motionReplan n := by
  subst anew ramp recover
  simp only [giveRecover, active, noTrigger, low, notPosition, bne_self_eq_false, Bool.not_true, Bool.or_self,
    Bool.false_eq_true, if_false]

/-- At the end of RECOVER Give is armed again. -/
theorem giveRecovered_arms (recover : s.n GIVE.STATE n = 3) :
    s.giveRecovered n = (s.put GIVE.STATE n 1).poolFault 0x5202 n n 20 := by
  simp only [giveRecovered, recover, bne_self_eq_false, Bool.false_eq_true, if_false]

/-- Give that stays ACTIVE for GMAXT faults its axis. -/
theorem giveTimeout_faults (active : s.n GIVE.STATE n = 2) :
    s.giveTimeout n = (s.poolFault 0x5204 n n 20).axisFault n := by
  simp only [giveTimeout, active, bne_self_eq_false, Bool.false_eq_true, if_false]

/-! ### Pool members (R296, R297) -/

/-- A leaving member whose weight has reached 0 is disabled. -/
theorem memberDisable_leaves (leave : (s.machX n).leave = true) (weightless : (s.machX n).w.zero? = true)
    (on : s.b MACH.ENABLE n = true) : s.memberDisable n = (s.machOff n).partDisable n := by
  simp only [memberDisable, leave, weightless, on, Bool.and_self, if_true]

/-- A remote drive of an axis whose torque deviates by more than PTDEV faults its machine. -/
theorem poolTorqueDev_faults {i : Nat} (partner : s.partOfMach n = some i) (supervised : (s.f MACH.PTDEV n).zero? = false)
    (on : s.b MACH.ENABLE n = true) (alive : s.partDown i = false)
    (deviates : (s.f MACH.PTDEV n).lt ((s.f PART.VALUE i).sub (s.partDemand i)).abs = true) (member : s.n MACH.AXIS n < 16) :
    s.poolTorqueDev n =
      (((s.poolFault 0x5103 n (s.n MACH.AXIS n) 6).machFault n 4).partDisable n).axisAllFaulted (s.n MACH.AXIS n) := by
  simp only [poolTorqueDev, partner, supervised, on, alive, deviates, member, Bool.not_true, Bool.or_self, Bool.false_eq_true,
    if_false, if_true]

end

/-- Settles O35: each command is its operation, which runs to its end by its equation above; a tune's timeout aborts it with
cause 0x11 whatever the state (`autotuneTimeout`). -/
theorem driveEventsComplete : Obligations.DriveEventsComplete := by
  unfold Obligations.DriveEventsComplete
  refine ⟨?freeze, ?tune, ?brake, ?hold, ?brakeFault, ?recover, ?armed, ?giveFault, ?member, ?torque, ?feedback⟩
  case freeze => exact fun loop s frozen => gives_of_exec rfl (freezeTimeout_ends frozen)
  case tune => exact fun loop s => gives_of_exec rfl rfl
  case brake =>
    intro x s auto on rest noGive
    exact gives_of_exec rfl (brakeApplyDelay_requests auto on rest noGive)
  case hold => exact fun x s ok full => gives_of_exec rfl (holdReduction_reduces ok full)
  case brakeFault => exact fun x s held => gives_of_exec rfl (congrArg State.settleStops (brakeTimeout_faults held))
  case recover =>
    intro x s active noTrigger low u notPosition v w
    exact gives_of_exec rfl (giveRecover_recovers active noTrigger low rfl notPosition rfl rfl)
  case armed => exact fun x s recover => gives_of_exec rfl (giveRecovered_arms recover)
  case giveFault => exact fun x s active => gives_of_exec rfl (giveTimeout_faults active)
  case member =>
    intro m s leave weightless on
    exact gives_of_exec rfl (congrArg State.settleStops (memberDisable_leaves leave weightless on))
  case torque =>
    intro m s i partner supervised on alive deviates member
    exact gives_of_exec rfl
      (congrArg State.settleStops (poolTorqueDev_faults partner supervised on alive deviates member))
  case feedback => exact fun x s held => gives_of_exec rfl (congrArg State.settleStops (feedbackHoldEnd_stops held))

end Sys2Proof.Proofs
end

section
/-! PROOF. A write of FLUSH (R250) does more than empty the queue: a move that was to blend with the flushed one is planned
again, so that it comes to rest (`flushWrite`). -/
namespace Sys2Proof.Proofs
open Machine Machine.State Claim Laws

/-! ### The end of a request leaves the axes -/

section
variable {s : State}

theorem setBytes_axisx (a : Nat) (bytes : List Byte) : (s.setBytes a bytes).axisx = s.axisx := by
  induction bytes generalizing s a with
  | nil => rfl
  | cons v rest ih => rw [setBytes, ih, setByte_axisx]

theorem raise_axisx (k : Nat) : (s.raise k).axisx = s.axisx := rfl

theorem produce_axisx (n : Nat) (bytes : List Byte) : (s.produce n bytes).axisx = s.axisx := by
  dsimp only [produce]
  split
  · rw [raise_axisx, setRing_axisx, setBytes_axisx]
  · rw [setRing_axisx, setBytes_axisx]

theorem markLoss_axisx (n : Nat) : (s.markLoss n).axisx = s.axisx := by
  unfold markLoss
  split
  · rfl
  · rw [raise_axisx, setRing_axisx]

theorem respond_axisx (rq : Rq) (frame : List Byte) : (s.respond rq frame).axisx = s.axisx := by
  dsimp only [respond]
  split
  · exact produce_axisx _ _
  · rw [markLoss_axisx]
    rfl

theorem remember_axisx (rq : Rq) (opcode : Nat) (frame : List Byte) : (s.remember rq opcode frame).axisx = s.axisx := by
  dsimp only [remember]
  split <;> rfl

theorem written_axisx {t : State} {w : Wq} {m : Mem} {st : Status} : (written s t w m st).axisx = t.axisx := by
  dsimp only [written, answered, finish]
  rw [remember_axisx]
  split
  · rfl
  · exact respond_axisx _ _

theorem gen_eq_of_axisx {t : State} {x : Nat} (same : s.axisx = t.axisx) : s.gen x = t.gen x := by
  simp only [gen, axisX, same]

theorem gen_setGen_self {x : Nat} (q : Gen) : (s.setGen x q).gen x = q := by
  simp only [gen, axisX, setGen, setAxisX_axisx, find_put, if_true]

end

/-! ### A flush before a joint -/

/-- After FLUSH the active move is planned again where its plan ended at a joint speed. -/
theorem flushWrite_replans_joint {s : State} {x : Nat} (joint : ((s.flushQueue x fun _ => false).gen x).vj = true) :
    ((s.flushWrite x).2.gen x).replan = true := by
  dsimp only [flushWrite]
  rw [gen_setGen_self]
  simp only [joint, Bool.or_true]

/-- Where the active move was to blend, and is not planned again yet, FLUSH leads to another state than the flush of the queue
alone. -/
theorem flush_not_only_queue {s u : State} {w : Wq} (accepted : writes s w PROF.FLUSH 1 = true)
    (flushed : (taken s w.rq).flushQueue w.inst (fun _ => false) = u) (joint : (u.gen w.inst).vj = true)
    (planned : (u.gen w.inst).replan = false) : ¬ Gives (.flush w) s (written s u w PROF.FLUSH .ok) := by
  subst flushed
  intro alone
  have model : Gives (.flush w) s (written s ((taken s w.rq).flushWrite w.inst).2 w PROF.FLUSH .ok) :=
    gives_rowWrite id rfl accepted (memberOp_prof_flush _ _ _ _) (by decide)
  have same := Host.Outcome.next.inj (model.symm.trans alone)
  have sameGen := gen_eq_of_axisx (x := w.inst)
    (written_axisx.symm.trans ((congrArg State.axisx same).trans written_axisx))
  have replans := flushWrite_replans_joint joint
  rw [sameGen, planned] at replans
  exact Bool.false_ne_true replans

/-- READY with the entry of a request in ring 1 and room for its response, and axis 0 in a position move whose plan ends at
the joint with the pending move. -/
def blending : State :=
  let joined : Gen := { act := some { ty := 1, target := 65536, flags := 1 }, started := true, tgt := 65536, vj := true,
                        queue := [{ ty := 1, target := 131072, pred := true }] }
  let ready : State := { State.reset with
    up := { State.reset.up with phase := 7, stretch := false }
    tb := { State.reset.tb with lock := true, refok := true }
    rings := [(1, { Ring.dflt 1 with en := true, head := 1 }), (5, { Ring.dflt 5 with en := true })] }
  ready.setGen 0 joined

/-- A write of axis 0's FLUSH through ring 1. -/
def flushRequest : Wq :=
  { rq := { ring := 1, seq := 1, sec := false, prio := false, quiet := false, crc := 0 }, inst := 0, ty := PROF.FLUSH.ty.code }

theorem blending_writes_flush : writes blending flushRequest PROF.FLUSH 1 = true := by
  decide +kernel

theorem blending_flushed_joint :
    let g := ((taken blending flushRequest.rq).flushQueue 0 fun _ => false).gen 0
    g.vj = true ∧ g.replan = false := by
  decide +kernel

/-- Refutes O23: FLUSH on axis 0 of `blending`, whose active move was to blend with the flushed one, also plans that move
again; the stated state lacks that (R250, `flush_not_only_queue`). -/
theorem not_motionAndTraceWritesComplete : ¬ Obligations.MotionAndTraceWritesComplete := by
  unfold Obligations.MotionAndTraceWritesComplete
  rintro ⟨-, flush, -⟩
  obtain ⟨joint, planned⟩ := blending_flushed_joint
  exact flush_not_only_queue blending_writes_flush rfl joint planned (flush flushRequest blending blending_writes_flush)

end Sys2Proof.Proofs
end

section
/-! PROOF. The commands that place and drive edges (R227, R321, R332, R347): each as an equation of its operation where its rule
lets it act. -/
namespace Sys2Proof.Proofs
open Machine Machine.State Claim

section
variable {s : State} {n : Nat}

/-! ### Edges (R321, R347) -/

/-- An edge whose placement instant, 40 cycles before it, lies in this wingbeat is placed at that instant. -/
theorem edgePlacement_places {t : Nat} (runs : s.modulates (n / 3) = true) (edge : s.nextEdge n = some t)
    (begun : s.tb.cycles * 8 + 320 ≤ t) (inWingbeat : t - 320 < s.tb.cycles * 8 + s.twCyc * 8) :
    s.edgePlacement n = ((s.atOff (t - 320 - s.tb.cycles * 8)).carTo (n / 3) (t - 320) 64).minPulse n t := by
  simp only [edgePlacement, runs, edge, Nat.not_lt_of_le begun, Nat.not_le_of_lt inWingbeat, Bool.not_true, Bool.false_eq_true,
    if_false]

/-- A switch that R347 lets go on is commanded on, and with no edge of its leg in progress no dead time is measured. -/
theorem swOn_commands {low : Bool} {t : Nat} (noEdge : (s.leg n).te = none) (off : ((s.leg n).sw low).cmd = false)
    (released : ((s.leg n).sw low).wait = false) (requested : s.request n low = true)
    (otherOff : ((s.leg n).sw (!low)).cmd = false) (otherOpen : ((s.leg n).sw (!low)).ga = false)
    (dead : ((s.leg n).sw (!low)).offAt + s.deadT n ≤ t) (free : s.heldOff n = false) :
    s.swOn n low t =
      s.setLeg n ((s.leg n).setSw low { (s.leg n).sw low with cmd := true, acked := ((s.leg n).sw low).ga }) := by
  have stays : ∀ w, ((s.leg n).setSw low w).te = none := by
    intro w
    cases low <;> exact noEdge
  simp only [swOn, off, released, requested, otherOff, otherOpen, Nat.not_lt_of_le dead, free, stays, Bool.not_true, decide_false,
    Bool.or_self, Bool.false_eq_true, if_false]

/-! ### Rungs (R332) -/

/-- On a rung without a pattern a pending change is all that RUNG_CHANGE brings: `v` is the state when the carrier has come to
the instant, `t` the one in which the rung has taken effect. -/
theorem rungChange_takesEffect {v t : State} {o : Nat} (runs : s.modulates n = true) (noTrip : s.tripHolds n = false)
    (pending : s.rungPending n = true) (handed : (s.stg n).hand = true) (noSpread : s.spreads n = false)
    (carried : (s.atOff o).carTo n (s.atOff o).vnow 64 = v)
    (changed : v.rungTo n (v.stg n).bT (v.stg n).sixT (s.atOff o).vnow = t) (plain : t.rungOf n = 0) :
    s.rungChange n o = t := by
  simp only [rungChange, runs, noTrip, pending, handed, noSpread, carried, changed, plain, Bool.not_true, Bool.or_self,
    Bool.false_eq_true, if_false, if_true]

/-! ### Readout blocks (R227) -/

/-- A block that is not for the trace port goes out on ring 9 where it has room. -/
theorem sendBlock_ring (bytes : List Byte) (toRing : s.g TRACE.DEST n ≠ 1) (room : s.hasRoom 9 = true) :
    s.sendBlock n bytes = (s.produce 9 bytes, true) := by
  simp only [sendBlock, toRing, room, if_false, if_true]

/-- A block before the last of a capture goes out on ring 9, and the readout moves on to the next tile: `k` is the number of
records of a tile. -/
theorem readoutBlock_sends {k : Nat} {tagBad : Bool} (readout : s.trState n = 5) (toRing : s.g TRACE.DEST n ≠ 1)
    (room : s.hasRoom 9 = true)
    (layout : perTile (((s.traceX n).buf.head?.map fun r => r.ch.length).getD (s.n TRACE.NCH n)) = k)
    (further : ((s.traceX n).tidx + 1) * k < (s.traceX n).buf.length) :
    s.readoutBlock n tagBad =
      (s.produce 9 (traceBlock n false tagBad false (s.traceX n).tidx (s.n TRACE.CAPNO n)
        (((s.traceX n).buf.reverse.drop ((s.traceX n).tidx * k)).take k))).setTrace n
          { s.traceX n with tidx := (s.traceX n).tidx + 1 } := by
  simp only [readoutBlock, readout, toRing, layout, List.length_reverse, Nat.not_le_of_lt further, sendBlock_ring _ toRing room,
    bne_self_eq_false, decide_false, Bool.false_and, Bool.not_true, Bool.not_false, Bool.false_eq_true, if_false, if_true]

end

/-- Settles O2: each command is its operation, which runs to its end by its equation above; the offset of GATE_EDGE leaves the
legs as they are (`atOff`). -/
theorem edgeCommandsComplete : Obligations.EdgeCommandsComplete := by
  unfold Obligations.EdgeCommandsComplete
  refine ⟨?placement, ?gate, ?rung, ?block⟩
  case placement =>
    intro leg s t runs edge begun inWingbeat
    exact gives_of_exec rfl (edgePlacement_places runs edge begun inWingbeat)
  case gate =>
    intro leg low offset s noEdge u x off released requested otherOff otherOpen dead free
    exact gives_of_exec rfl (swOn_commands (s := u) noEdge off released requested otherOff otherOpen dead free)
  case rung =>
    intro stage off s runs noTrip pending handed noSpread u v t plain
    exact gives_of_exec rfl (rungChange_takesEffect runs noTrip pending handed noSpread rfl rfl plain)
  case block =>
    intro u tagBad s readout toRing room x k further
    exact gives_of_exec rfl (readoutBlock_sends readout toRing room rfl further)

end Sys2Proof.Proofs
end

section
/-! PROOF. Every command keeps a sound state sound (R347, R448, R502, R518, R595, R608, R614, R624): the operation of each
command keeps what `Keeps` names, and so does the end of the stops that most commands close with (`settleStops`). -/
namespace Sys2Proof.Proofs
open Machine Safety Laws

/-! ### Soundness and what an operation keeps -/

theorem keeps_self_of_sound {s : State} (sound : Sound s) : Keeps s s := by
  obtain ⟨mem, keys, leg, ring, dup, stag, sto, comp, map⟩ := sound
  exact { queue := rfl, mem, keys, leg, ring, dup, stag, sto, comp, map, fuse := fusesKept_refl _, free := Nat.le_refl _,
          drawn := Nat.le_refl _, recno := Nat.le_refl _ }

theorem sound_of_keeps {z s : State} (kept : Keeps z s) : Sound s := by
  obtain ⟨-, mem, keys, leg, ring, dup, stag, sto, comp, -, map, -, -, -⟩ := kept
  exact ⟨mem, keys, leg, ring, dup, stag, sto, comp, map⟩

/-! ### The commands -/

/-- The next state that `o` answers, if it answers one, keeps what `z` had. -/
def NextKeeps (z : State) (o : Host.Outcome State Fault Refusal) : Prop := ∀ t, o = .next t → Keeps z t

section
variable {z s : State}

theorem next_keeps (kept : Keeps z s) : NextKeeps z (.next s) := by
  rintro t ⟨⟩
  exact kept

theorem settled_keeps (kept : Keeps z s) : NextKeeps z (.next s.settleStops) := next_keeps (settleStops_keeps kept)

/-- Every command keeps what `Keeps` names: each is its operation, on the state or on what a first operation leaves. -/
theorem exec_keeps (hs : Keeps z s) (c : Instr) : NextKeeps z (exec c s) := by
  cases c with
  -- the mark, results and edges (R25, R46, R347)
  | wingbeatMark => exact next_keeps (wingbeatMark_keeps hs _)
  | halfMark => exact next_keeps (halfMark_keeps hs _ _)
  | resultHandover => exact settled_keeps (resultHandover_keeps hs _ _ _ _ _)
  | deadline => exact settled_keeps (deadline_keeps hs _ _)
  | traceReadoutBlock => exact next_keeps (readoutBlock_keeps hs _ _)
  | edgePlacement => exact next_keeps (edgePlacement_keeps hs _)
  | gateEdge => exact next_keeps (gateEdge_keeps hs _ _ _)
  | rungChange => exact next_keeps (rungChange_keeps hs _ _)
  | sortFixedPoint => exact settled_keeps (sortFixedPoint_keeps hs)
  -- the reference, resets and the start-up (R635 to R658)
  | multiplierLock => exact next_keeps (multiplierLock_keeps hs)
  | refQualified => exact next_keeps (refQualified_keeps hs _)
  | refLoss => exact next_keeps (refLoss_keeps hs)
  | vernierCalibration => exact next_keeps (vernierCalibration_keeps hs _)
  | powerOnReset => exact next_keeps (powerOnReset_keeps hs _)
  | brownout => exact next_keeps (brownout_keeps hs _)
  | nrstReset => exact next_keeps (nrstReset_keeps hs)
  | watchdogPrewarning => exact next_keeps (watchdogPrewarning_keeps hs)
  | watchdogReset => exact next_keeps (watchdogReset_keeps hs)
  | lockstepMismatch => exact next_keeps (lockstepMismatch_keeps hs)
  | engineSupervisorReset => exact next_keeps (engineSupervisorReset_keeps hs)
  | tamper => exact next_keeps (tamper_keeps hs)
  | resetStretchEnd => exact next_keeps (stretchEnd_keeps hs _)
  | wipeComplete => exact next_keeps (wipeComplete_keeps hs)
  | optionsLoaded => exact next_keeps (optionsLoaded_keeps hs _ _ _ _ _)
  | trimDone => exact next_keeps (trimDone_keeps hs)
  | nrstReleased => exact next_keeps (nrstReleased_keeps hs)
  | authenticateDone => exact next_keeps (authenticateDone_keeps hs _)
  | firmwareLoaded => exact next_keeps (firmwareLoaded_keeps hs)
  | earlyRelease => exact next_keeps (earlyRelease_keeps hs)
  -- ports, rings and the request path (R490 to R546)
  | spiWrite => exact settled_keeps (spiWrite_keeps (keeps_ite (estop_keeps hs) hs) _ _ _ _ _ _ _)
  | spiRead => exact next_keeps (spiRead_keeps hs _ _ _ _ _ _ _ _)
  | quadExit => exact next_keeps (quadExit_keeps hs _)
  | writeBufferCommit => exact next_keeps (commitBuffer_keeps hs _)
  | doorbell => exact next_keeps (keeps_ite (doorbell_keeps hs _ _ _) hs)
  | estop => exact settled_keeps (keeps_ite (doorbell_keeps (estop_keeps hs) _ _ _) (estop_keeps hs))
  | ringAgeTimeout => exact next_keeps (ringAge_keeps hs _)
  | alarmFlush => exact next_keeps (alarmFlush_keeps hs)
  | nop => exact next_keeps (nop_keeps hs _ _)
  | ident => exact next_keeps (ident_keeps hs _)
  | status => exact next_keeps (status_keeps hs _)
  | challenge => exact next_keeps (challenge_keeps hs _)
  | objRead => exact next_keeps (objRead_keeps hs _ _)
  | objWrite => exact settled_keeps (objWrite_keeps hs _ _)
  | objReadMulti => exact next_keeps (objReadMulti_keeps hs _ _)
  | objWriteMulti => exact settled_keeps (objWriteMulti_keeps hs _ _)
  | blockRead => exact next_keeps (blockRead_keeps hs _ _ _)
  | blockWrite => exact settled_keeps (blockWrite_keeps hs _ _ _ _)
  | dictRead => exact next_keeps (dictRead_keeps hs _ _ _)
  | regRead => exact next_keeps (reqRegRead_keeps hs _ _ _)
  | regWrite => exact settled_keeps (reqRegWrite_keeps hs _ _ _ _)
  | ledgerRead => exact next_keeps (reqLedgerRead_keeps hs _ _ _)
  | cellSvc => exact next_keeps (cellSvc_keeps hs _ _ _ _ _ _)
  | cellSvcDone => exact next_keeps (cellSvcDone_keeps hs _ _ _)
  | canTx => exact next_keeps (canTx_keeps hs _ _ _ _ _)
  | reset => exact next_keeps (reqReset_keeps hs _ _ _)
  | resetExecute => exact next_keeps (resetExecute_keeps hs)
  | fwBegin => exact next_keeps (reqFwBegin_keeps hs _ _ _ _)
  | fwData => exact next_keeps (reqFwData_keeps hs _ _ _)
  | fwEnd => exact next_keeps (reqFwEnd_keeps hs _ _ _)
  | lifeReq => exact next_keeps (reqLife_keeps hs _ _ _ _)
  | lifeChange => exact next_keeps (lifeChange_keeps hs)
  | stop => exact settled_keeps (reqStop_keeps hs _ _ _ _)
  | emode => exact settled_keeps (reqEmode_keeps hs _ _ _)
  | psetOpen => exact next_keeps (psetOpen_keeps hs _)
  | psetStage => exact next_keeps (psetStage_keeps hs _ _ _ _)
  | psetVerify => exact next_keeps (psetVerify_keeps hs _ _ _)
  | psetCommit => exact settled_keeps (psetCommit_keeps hs _ _ _)
  | psetAbort => exact next_keeps (psetAbort_keeps hs _ _)
  | psetStore => exact next_keeps (psetStore_keeps hs _ _ _)
  | psetLoad => exact next_keeps (psetLoad_keeps hs _ _)
  | psetInfo => exact next_keeps (psetInfo_keeps hs _ _)
  | psetTimeout => exact next_keeps (psetTimeout_keeps hs)
  | deferredCompletion => exact next_keeps (deferredCompletion_keeps hs _)
  | v1Status => exact next_keeps (v1Status_keeps hs _ _)
  | v1Move => exact next_keeps (v1Move_keeps hs _ _ _ _ _ _)
  | v1Tune => exact next_keeps (v1Tune_keeps hs _ _ _ _)
  -- the writes of members with a row of their own share `rowWrite`
  | wingbeatWrite | dutyWrite | setpointWrite | viddioWrite | posset | idxarm | canEnable | canRecover | restrWrite
  | push | flush | freeze | ipreset | atstart | traceArm | trignow | traceRead | ffActive | spack | styleWrite
  | patternSrc | retiredClear | keyBurn | dsgen | arbcommit | fwrevoke | reserveCommit | psreq =>
    exact next_keeps (rowWrite_keeps hs _ _ _)
  | setpointMoveDone => exact next_keeps (setpointMoveDone_keeps hs)
  | vengMiss => exact next_keeps (vengMiss_keeps hs)
  | cfgCommit | cfgDeconfigure | stageEnable | stageDisable | stageClear | diagStart | sdClear | stoClear | dioClear
  | fbEnable | fbSel | fbClear | canDisable | partEnable | ringEnable | ringRun | convEnable | convClear | cellClear
  | cellExcl | cellRetire | machEnable | machClear | axisEnable | stopRequest | stopEreq | stopAck | sourceClear
  | tclear | rclear =>
    exact settled_keeps (rowWrite_keeps hs _ _ _)
  -- placement, stages, legs and trips (R345 to R379)
  | placed => exact next_keeps (placed_keeps hs _)
  | diagStepEnd => exact settled_keeps (diagStepEnd_keeps hs _ _)
  | prechargeEnd => exact settled_keeps (prechargeEnd_keeps hs _)
  | shutdownAck => exact settled_keeps (shutdownAck_keeps hs _)
  | dischargeEnd => exact settled_keeps (dischargeEnd_keeps hs _ _)
  | gaChange => exact settled_keeps (gaChange_keeps hs _ _ _)
  | ackOnTimeout => exact settled_keeps (ackOnTimeout_keeps hs _ _)
  | ackOffTimeout => exact settled_keeps (ackOffTimeout_keeps hs _ _)
  | tripAssert => exact settled_keeps (tripPin_keeps hs _)
  | tripRelease => exact settled_keeps (tripRelease_keeps hs _)
  | tripWindowEnd => exact next_keeps (tripWindowEnd_keeps hs)
  -- ΣΔ and analogue inputs (R149 to R173)
  | sdTrip => exact settled_keeps (sdTripOn_keeps (atOff_keeps hs _) _)
  | sdLost => exact settled_keeps (sdRunOut_keeps hs _)
  | offsetCapture => exact next_keeps (offsetCapture_keeps (atOff_keeps hs _) _)
  | gainref => exact next_keeps (rowWrite_keeps (sdMore_keeps hs _ _) _ _ _)
  | ainConversion => exact settled_keeps (ainConversion_keeps hs _ _ _)
  -- STO (R448 to R452)
  | stoActive => exact settled_keeps (stoActive_keeps hs _ _)
  | stoRelease => exact settled_keeps (stoRelease_keeps hs)
  | stoDiscrepancy => exact settled_keeps (stoDiscrepancy_keeps hs)
  | stoReadback => exact settled_keeps (stoReadback_keeps hs _)
  | stofbRise => exact next_keeps (stofbRise_keeps hs)
  -- digital inputs and feedback (R102 to R148)
  | dioEdge => exact settled_keeps (dioStopEdge_keeps hs (dioEdge_keeps hs _ _ _ _) _)
  | dioStuck => exact settled_keeps (dioStopEdge_keeps hs (dioStuck_keeps hs _) _)
  | dioWindowEnd => exact settled_keeps (dioWindowsEnd_keeps hs)
  | fbEdge => exact settled_keeps (fbEdge_keeps hs _ _ _ _ _ _)
  | fbStuck => exact settled_keeps (fbStuck_keeps hs _ _)
  | ssiTransferDone => exact settled_keeps (ssiRelease_keeps (ssiDone_keeps hs _ _ _))
  -- CAN ports and partners (R547 to R584)
  | canFrameReceived => exact settled_keeps (canFrameReceived_keeps hs _ _)
  | stopMatch => exact settled_keeps (stopMatch_keeps hs _ _)
  | canTxDone => exact next_keeps (canTxDone_keeps hs _)
  | canError => exact settled_keeps (canError_keeps hs _ _ _ _ _)
  | busOffRecovery => exact next_keeps (busOffRecovery_keeps hs _)
  | protocolException => exact next_keeps (protocolException_keeps hs _)
  | partnerSilent => exact settled_keeps (partSilent_keeps hs _)
  | partnerEnableTimeout => exact settled_keeps (partEnableTimeout_keeps hs _)
  | canResetRequest => exact next_keeps (canResetRequest_keeps hs _ _)
  | canResetSignature => exact next_keeps (canResetSignature_keeps hs _ _)
  | canRemoteReset => exact next_keeps (canRemoteReset_keeps hs _)
  -- cell rings, cells and converters (R380 to R447)
  | linkLock => exact next_keeps (linkLock_keeps hs _)
  | linktmo => exact next_keeps (linkTimeout_keeps hs _)
  | enumerationDone => exact next_keeps (enumerationDone_keeps hs _ _ _ _ _ _)
  | enumtmo => exact next_keeps (enumTimeout_keeps hs _)
  | blockingReady => exact next_keeps (blockingReady_keeps hs _ _)
  | responseReceived => exact settled_keeps (responseReceived_keeps hs _ _)
  | portLoss => exact settled_keeps (portLoss_keeps hs _ _)
  | cellApply => exact next_keeps (cellApply_keeps hs _ _ _ _ _)
  | cellDirectionLoss => exact next_keeps (cellDirectionLoss_keeps hs _ _ _)
  | cellBlock => exact next_keeps (cellBlock_keeps hs _ _)
  | convChargeDone => exact settled_keeps (convChargeDone_keeps hs _)
  | balanceDone => exact settled_keeps (balanceDone_keeps hs _)
  | mainContactDone => exact settled_keeps (mainContactDone_keeps hs _)
  | prechargeFail => exact settled_keeps (prechargeFail_keeps hs _)
  | convShutdownDone => exact settled_keeps (convShutdownDone_keeps hs _)
  | convDischargeDone => exact settled_keeps (convDischargeDone_keeps hs _ _)
  -- loops, axes, Pool and Give (R174 to R313)
  | freezeTimeout => exact next_keeps (freezeTimeout_keeps hs _)
  | autotuneTimeout => exact next_keeps (autotuneTimeout_keeps hs _)
  | brakeApplyDelay => exact next_keeps (brakeApplyDelay_keeps hs _)
  | holdReduction => exact next_keeps (holdReduction_keeps hs _)
  | brakeTimeout => exact settled_keeps (brakeTimeout_keeps hs _)
  | giveRecover => exact next_keeps (giveRecover_keeps hs _)
  | giveRecovered => exact next_keeps (giveRecovered_keeps hs _)
  | giveTimeout => exact next_keeps (giveTimeout_keeps hs _)
  | memberDisable => exact settled_keeps (memberDisable_keeps hs _)
  | poolTorqueDev => exact settled_keeps (poolTorqueDev_keeps hs _)
  | feedbackHoldEnd => exact settled_keeps (feedbackHoldEnd_keeps hs _)
  -- stops (R453 to R489)
  | stopRest => exact settled_keeps (stopRest_keeps hs _)
  | brakeSet => exact settled_keeps (brakeSet_keeps hs _ _)
  | stopTimeout => exact settled_keeps (stopTimeout_keeps hs _)
  | stopComplete => exact next_keeps (stopCompletePerch_keeps hs)
  | supholdEnd => exact next_keeps (supholdEnd_keeps hs)
  | ridethruEnd => exact settled_keeps (rideEnd_keeps hs _)
  | ridethruFail => exact settled_keeps (rideFail_keeps hs _)
  -- temperature, engines and power (R86 to R98, R659 to R681)
  | thermalSample => exact settled_keeps (thermalSample_keeps hs _)
  | throttleDown => exact next_keeps (throttleDown_keeps hs)
  | perchRetry => exact next_keeps (perchRetry_keeps hs)
  | engineFault => exact settled_keeps (engineFault_keeps hs _ _ _)
  | taskOverrun => exact settled_keeps (taskOverrun_keeps hs _)
  | engineTestStart => exact next_keeps (engineTestStart_keeps hs)
  | engineTestDone => exact next_keeps (engineTestDone_keeps hs _ _)
  | debugUnlock => exact next_keeps (debugUnlock_keeps hs _)
  | counterCommit => exact next_keeps (counterCommit_keeps hs)
  | powerEntry => exact next_keeps (powerEntry_keeps hs)
  | wake => exact next_keeps (wake_keeps hs _)
  | wakeExitDone => exact next_keeps (wakeExitDone_keeps hs _ _)
  -- background services, fuses and the debug port (R585 to R634)
  | auditScrub => exact settled_keeps (auditScrub_keeps hs _)
  | ledgerWrite => exact next_keeps (ledgerWrite_keeps hs)
  | tdecHalving => exact next_keeps (tdecHalving_keeps hs _)
  | badFrame => exact next_keeps (badFrame_keeps hs _ _)
  | busIntegration => exact next_keeps (busIntegration_keeps hs _)
  | arbitrationLost => exact next_keeps (arbitrationLost_keeps hs _)
  | comparePulseEnd => exact next_keeps (comparePulseEnd_keeps hs _)
  | calStale => exact next_keeps (calStale_keeps hs _)
  | diodeCalibration => exact next_keeps (diodeCalibration_keeps hs _)
  | otpBurnVerified => exact next_keeps (otpBurnVerified_keeps hs _)
  | reserveCommitDone => exact next_keeps (reserveCommitDone_keeps hs)
  | tabcrcCheck => exact next_keeps (tabcrcCheck_keeps hs _)
  | fallbackBlockFrame => exact next_keeps (fallbackBlockFrame_keeps hs)
  | wbcountInternalAdvance => exact next_keeps (wbcountAdvance_keeps hs)
  | debugAccess => exact next_keeps (debugAccess_keeps hs _)
  | receiverWordLock => exact next_keeps (wordLock_keeps hs _ _)
  -- SEAL alone is left (R596): its constructor's name is a word of Lean's own
  | _ => exact next_keeps (sealPair_keeps hs)

end

/-- A step takes the command at the front of the queue, and soundness says nothing of the queue. -/
theorem step_sound {s t : State} (sound : Sound s) (answer : step s = .next t) : Sound t := by
  unfold step at answer
  split at answer
  case h_1 =>
    cases answer
    exact sound
  case h_2 c rest queue =>
    have taken : Sound { s with pending := rest } := sound
    exact sound_of_keeps (exec_keeps (keeps_self_of_sound taken) c t answer)

/-- Settles O46, by the command at the front of the queue (`step_sound`, `exec_keeps`). -/
theorem everyStepKeepsSoundness : Obligations.EveryStepKeepsSoundness := by
  unfold Obligations.EveryStepKeepsSoundness
  exact fun _ _ sound answer => step_sound sound answer

/-- Settles O45: the tables of the reset state are empty, its STO acts with both pins low, its fuses are unburnt, and the
fixed bits of its map are set. -/
theorem resetStateIsSound : Obligations.ResetStateIsSound := by
  unfold Obligations.ResetStateIsSound
  have legs : legsOk State.reset.legs := fun _ ⟨high, _⟩ => Bool.false_ne_true high
  have rings : ringsOk State.reset.rings := ringOk_dflt
  have remembered : rememberedOk State.reset.dups := fun _ => Nat.zero_le _
  have staged : stagedOk State.reset.ledg.staged := Nat.zero_le _
  have companions : companionsOk State.reset.otp := ⟨id, id, id, id, Nat.le_refl _⟩
  have map : mapOk State.reset.sec.blkmap := rfl
  exact ⟨rfl, trivial, legs, rings, remembered, staged, rfl, companions, map⟩

end Sys2Proof.Proofs
end

section
/-! PROOF. What GATE_EDGE may do to a leg (R347): the switch goes on only within the interlock, and nothing outside its leg and
the members of its dead time changes. -/
namespace Sys2Proof.Proofs
open Machine Machine.State Claim Laws

/-! ### Legs and switches under a write -/

theorem sw_setSw_other (x : Leg) (low : Bool) (w : Switch) : (x.setSw low w).sw (!low) = x.sw (!low) := by
  cases low <;> rfl

section
variable {s t : State} {n : Nat} {low : Bool}

theorem leg_setLeg_self (x : Leg) : (s.setLeg n x).leg n = x := by
  simp only [leg, setLeg_legs, find_put, if_true]

/-! ### A switch goes on (R347) -/

/-- What R347 asks before a switch goes on at instant `time`: its request, the other switch commanded off for the dead time
and not acknowledged on, and nothing that holds the leg off. -/
def MayGoOn (s : State) (n : Nat) (low : Bool) (time : Nat) : Prop :=
  let o := (s.leg n).sw (!low)
  s.request n low = true ∧ o.cmd = false ∧ o.offAt + s.deadT n ≤ time ∧ o.ga = false ∧ s.heldOff n = false

/-- From `s` to `t` only the switch of leg `n` and members have changed, among what the statement of R347 names. -/
structure OnlySwitch (s t : State) (n : Nat) (low : Bool) : Prop where
  other : (t.leg n).sw (!low) = (s.leg n).sw (!low)
  legs : ∀ k, k ≠ n → t.leg k = s.leg k
  tile : t.tile = s.tile
  rings : t.rings = s.rings
  events : t.evPend = s.evPend
  stages : t.stages = s.stages
  otp : t.otp = s.otp
  sto : t.sto = s.sto

theorem OnlySwitch.refl (s : State) (n : Nat) (low : Bool) : OnlySwitch s s n low :=
  ⟨rfl, fun _ _ => rfl, rfl, rfl, rfl, rfl, rfl, rfl⟩

theorem OnlySwitch.setLeg {x : Leg} (other : x.sw (!low) = (s.leg n).sw (!low)) : OnlySwitch s (s.setLeg n x) n low where
  other := by rw [leg_setLeg_self, other]
  legs _ apart := find_put_ne _ _ _ _ apart
  tile := rfl
  rings := rfl
  events := rfl
  stages := rfl
  otp := rfl
  sto := rfl

theorem OnlySwitch.putF (only : OnlySwitch s t n low) (m : Mem) (i : Nat) (v : F32) : OnlySwitch s (t.putF m i v) n low :=
  ⟨only.other, only.legs, only.tile, only.rings, only.events, only.stages, only.otp, only.sto⟩

/-- `swOn` leaves the state as it is, or R347 let the switch go on. -/
theorem swOn_interlocked (s : State) (n : Nat) (low : Bool) (time : Nat) :
    s.swOn n low time = s ∨ MayGoOn s n low time := by
  dsimp only [swOn]
  split
  case isTrue => exact .inl rfl
  case isFalse passed =>
    simp only [Bool.or_eq_true, decide_eq_true_eq, Bool.not_eq_true', not_or, Bool.not_eq_true, Bool.not_eq_false,
      Nat.not_lt] at passed
    obtain ⟨⟨⟨⟨⟨⟨-, -⟩, requested⟩, otherOff⟩, dead⟩, otherOpen⟩, free⟩ := passed
    exact .inr ⟨requested, otherOff, dead, otherOpen, free⟩

theorem swOn_onlySwitch (s : State) (n : Nat) (low : Bool) (time : Nat) : OnlySwitch s (s.swOn n low time) n low := by
  have other := sw_setSw_other (s.leg n) low { (s.leg n).sw low with cmd := true, acked := ((s.leg n).sw low).ga }
  dsimp only [swOn]
  split
  case isTrue => exact .refl s n low
  case isFalse =>
    split
    case h_1 => exact .setLeg other
    case h_2 =>
      have measured (dts : List Nat) : OnlySwitch s (s.setLeg n
          { (s.leg n).setSw low { (s.leg n).sw low with cmd := true, acked := ((s.leg n).sw low).ga } with
            te := none, dts := dts }) n low := .setLeg other
      split
      case isTrue => exact ((measured _).putF _ _ _).putF _ _ _
      case isFalse => exact (measured _).putF _ _ _

end

/-- Settles O54: GATE_EDGE is `swOn` at its offset, which acts within the interlock (`swOn_interlocked`) and on its switch alone
(`swOn_onlySwitch`). -/
theorem gateEdgeObeysTheInterlock : Obligations.GateEdgeObeysTheInterlock := by
  unfold Obligations.GateEdgeObeysTheInterlock
  rintro n low off s t ⟨⟩ l u o
  obtain ⟨other, legs, tile, rings, events, stages, otp, sto⟩ := swOn_onlySwitch u l low u.vnow
  refine ⟨fun on => ?interlock, other, legs, tile, rings, events, stages, otp, sto⟩
  case interlock =>
    rcases swOn_interlocked u l low u.vnow with same | allowed
    · exact .inl (same ▸ on : ((u.leg l).sw low).cmd = true)
    · exact .inr allowed

end Sys2Proof.Proofs
end

section
/-! PROOF. The events of stages and legs (R345, R349, R362, R366, R367): each as an equation of its operation where its rule lets
it act. -/
namespace Sys2Proof.Proofs
open Machine Machine.State Claim

section
variable {s : State} {i n : Nat} {low : Bool}

/-! ### Diagnostics, precharge and shutdown (R362, R366, R367) -/

/-- With no pin outside the window the first step finds nothing, and the run goes on. -/
theorem diagStepEnd_passes {pin : Nat → Nat} (diag : s.stState i = 1) (first : (s.stg i).step = 1)
    (inWindow : ∀ k, k < 3 → pin k = 1) : s.diagStepEnd i pin = s.setStg i { s.stg i with step := 2 } := by
  have within : ∀ l, pin (l % 3) = 1 := fun l => inWindow _ (Nat.mod_lt l (by decide))
  simp [diagStepEnd, diag, first, legsOf, within]

theorem prechargeEnd_runs (precharge : s.stState i = 2) : s.prechargeEnd i = (s.stageTo i 3).driveStage i := by
  simp only [prechargeEnd, precharge, bne_self_eq_false, Bool.false_eq_true, if_false]

theorem stg_dioDrive (d : Nat) (on : Bool) : (s.dioDrive d on).stg i = s.stg i := by
  unfold dioDrive
  split <;> rfl

/-- With every acknowledge low the discharge output is driven next, or the actions are done where DISCHDIO names none. -/
theorem shutdownAck_discharges {d : Nat} (off : s.stState i = 4 ∨ s.stState i = 5) (acts : (s.stg i).act = 1)
    (allOpen : (legsOf i).any (fun l => (s.leg l).hi.ga || (s.leg l).lo.ga) = false) (output : s.n STAGE.DISCHDIO i = d) :
    s.shutdownAck i =
      if d < 32 ∧ s.g DIO.FUNC d = 1 then (s.dioDrive d true).setStg i { (s.dioDrive d true).stg i with act := 2 }
      else s.stageDone i := by
  have state : (decide (s.stState i = 4) || decide (s.stState i = 5)) = true := by simpa using off
  simp only [shutdownAck, state, acts, allOpen, output, stg_dioDrive, Bool.not_true, bne_self_eq_false, Bool.or_self,
    Bool.false_eq_true, if_false, Bool.and_eq_true, decide_eq_true_eq]

/-- DISCHT ends the discharge where no SDDC input measures V_dc. -/
theorem dischargeEnd_releases (discharges : (s.stg i).act = 2)
    (unmeasured : s.n STAGE.MACH i ≥ 32 ∨ s.n MACH.SDDC (s.n STAGE.MACH i) = 255) :
    s.dischargeEnd i true = (s.dioDrive (s.n STAGE.DISCHDIO i) false).stageDone i := by
  have noSd : (decide (s.n STAGE.MACH i ≥ 32) || decide (s.n MACH.SDDC (s.n STAGE.MACH i) = 255)) = true := by
    simpa using unmeasured
  simp only [dischargeEnd, discharges, noSd, bne_self_eq_false, Bool.not_true, Bool.false_and, Bool.and_false, Bool.or_self,
    Bool.false_eq_true, if_false]

/-! ### Acknowledges (R345, R349) -/

/-- A low level that confirms the command finds no fault, and lets the other switch on: `u` is the state with the level. -/
theorem gaChange_confirms {u : State} (sampled : s.gaSampled = true) (checks : s.pow.gaDue = false)
    (high : ((s.leg n).sw low).ga = true) (off : ((s.leg n).sw low).cmd = false)
    (level : s.setLeg n ((s.leg n).setSw low { (s.leg n).sw low with ga := false, acked := true }) = u) :
    s.gaChange n low false = u.swOn n (!low) u.vnow := by
  subst level
  simp only [gaChange, sampled, checks, high, off, Bool.not_true, Bool.true_eq_false, decide_true, Bool.or_true, Bool.false_and,
    Bool.and_false, bne_self_eq_false, Bool.false_eq_true, if_false]

theorem ackOnTimeout_faults (sampled : s.gaSampled = true) (on : ((s.leg n).sw low).cmd = true)
    (unacknowledged : ((s.leg n).sw low).ga = false) :
    s.ackOnTimeout n low = (s.ackFault n low (1 + b2n low) 0x1102).stageFault (n / 3) := by
  simp only [ackOnTimeout, sampled, on, unacknowledged, Bool.not_true, Bool.or_self, Bool.false_eq_true, if_false]

theorem ackOffTimeout_faults (sampled : s.gaSampled = true) (off : ((s.leg n).sw low).cmd = false)
    (acknowledged : ((s.leg n).sw low).ga = true) :
    s.ackOffTimeout n low = (s.legFault n (3 + b2n low) 0x1103).stageFault (n / 3) := by
  simp only [ackOffTimeout, sampled, off, acknowledged, Bool.not_true, Bool.or_self, Bool.false_eq_true, if_false]

end

/-- Settles O26: each command is its operation, which runs to its end by its equation above, and the stops settle after it. -/
theorem stageEventsComplete : Obligations.StageEventsComplete := by
  unfold Obligations.StageEventsComplete
  refine ⟨?diagnostics, ?precharge, ?shutdown, ?discharge, ?level, ?ackOn, ?ackOff⟩
  case diagnostics =>
    intro i pins s diag first inWindow
    exact gives_of_exec rfl (congrArg settleStops (diagStepEnd_passes diag first inWindow))
  case precharge =>
    exact fun i s precharge => gives_of_exec rfl (congrArg settleStops (prechargeEnd_runs precharge))
  case shutdown =>
    intro i s off acts allOpen d
    exact gives_of_exec rfl (congrArg settleStops (shutdownAck_discharges off acts allOpen rfl))
  case discharge =>
    intro i s discharges unmeasured
    exact gives_of_exec rfl (congrArg settleStops (dischargeEnd_releases discharges unmeasured))
  case level =>
    intro n low s sampled checks x high off u
    exact gives_of_exec rfl (congrArg settleStops (gaChange_confirms sampled checks high off rfl))
  case ackOn =>
    intro n low s sampled on unacknowledged
    exact gives_of_exec rfl (congrArg settleStops (ackOnTimeout_faults sampled on unacknowledged))
  case ackOff =>
    intro n low s sampled off acknowledged
    exact gives_of_exec rfl (congrArg settleStops (ackOffTimeout_faults sampled off acknowledged))

end Sys2Proof.Proofs
end

section
/-! PROOF. The events of trip inputs, ΣΔ inputs and analogue inputs (R154, R159, R163, R166, R357, R359): each as an equation of
its operation where its rule lets it act. Which trip density is the upper one is log entry 48's reading of R154. -/
namespace Sys2Proof.Proofs
open Machine Machine.State Claim Laws

section
variable {s u : State} {k n : Nat} {b : Bool}

/-! ### Trip inputs (R357, R359) -/

/-- The first active source of an input asserts it. -/
theorem tripPin_asserts (inactive : s.tripLevel n = false) :
    s.tripPin n = (s.setTrip n { s.trip n with pin := true }).tripAssert n := by
  simp only [tripPin, inactive, Bool.false_eq_true, if_false]

/-- With no source of the input active the stages of its mask are free: `u` is the state with the pin inactive. -/
theorem tripRelease_frees (active : (s.trip n).pin = true) (pin : s.setTrip n { s.trip n with pin := false } = u)
    (inactive : u.tripLevel n = false) : s.tripRelease n = u.tripFree (u.tripMask n) := by
  subst pin
  simp only [tripRelease, active, inactive, Bool.not_true, Bool.false_eq_true, if_false]

/-! ### The bits of a ΣΔ input (R152, R154, R159) -/

theorem setSdX_n (m : Mem) (i : Nat) (x : SdX) : (s.setSdX k x).n m i = s.n m i := rfl

/-- The bits of a clocked input pass one after another, and the last one's edge is kept: `u` is the state after them. -/
theorem sdTake_passes {q : SdBits} (input : q.k < 48) (clocked : s.sdRuns q.k = true)
    (passed : q.bits.foldl (fun t b => t.sdBit q.k b) s = u) :
    s.sdTake q = u.setSdX q.k { u.sdX q.k with edge := q.t - u.n SD.SAMPDLY q.k } := by
  simp only [sdTake, Nat.not_le_of_lt input, clocked, passed, decide_false, Bool.not_true, Bool.or_self, Bool.false_eq_true,
    if_false]

/-- A bit that repeats the last one, in a run below RUNMAX, is compared: `u` is the state with the bit. -/
theorem sdBit_in_run (same : (s.sdX k).bits.head? = some b) (short : (s.sdX k).run + 1 < s.n SD.RUNMAX k)
    (taken : s.setSdX k { s.sdX k with bits := (b :: (s.sdX k).bits).take 776, cnt := min 776 ((s.sdX k).cnt + 1),
                                       run := (s.sdX k).run + 1, clean := min 1024 ((s.sdX k).clean + 1) } = u) :
    s.sdBit k b = u.sdCompare k := by
  subst taken
  simp only [sdBit, same, Nat.not_le_of_lt short, if_true, if_false]

/-- The bit that completes a run of RUNMAX loses the input after its comparison: `u` is the state with the bit. -/
theorem sdBit_completes_run (same : (s.sdX k).bits.head? = some b) (long : s.n SD.RUNMAX k ≤ (s.sdX k).run + 1)
    (taken : s.setSdX k { s.sdX k with bits := (b :: (s.sdX k).bits).take 776, cnt := min 776 ((s.sdX k).cnt + 1),
                                       run := (s.sdX k).run + 1, clean := 0 } = u) :
    s.sdBit k b = (u.sdCompare k).sdLost k := by
  subst taken
  simp only [sdBit, same, long, if_true]

/-- A density above both trip densities for TRIPCNT clock periods makes the input join the tripped ones, with its fault: `x` is
the filter of the input, `d` its density, `u` the state with the density counted. -/
theorem sdCompare_asserts {x : SdX} {mt : Nat} {d : F32} (filter : s.sdX k = x) (window : s.n SD.MT k = mt)
    (full : 2 * mt ≤ x.bits.length) (densityOf : density 2 mt (sincSum 2 mt x.bits) = d)
    (high : (x.hi.max x.lo).lt d = true) (untripped : s.sdTrip.contains k = false) (often : s.n SD.TRIPCNT k ≤ x.above + 1)
    (counted : s.setSdX k { x with td := d, above := x.above + 1, inside := 0,
                                   below := if d.lt (x.hi.min x.lo) then x.below + 1 else 0 } = u) :
    s.sdCompare k = u.tripMoved ({ u with sdTrip := u.sdTrip ++ [k] }.inputFault 0x3503 k 13 []) := by
  subst counted
  simp only [sdCompare, filter, window, densityOf, high, Nat.not_lt_of_le full, setSdX_n, setSdX_sdTrip, untripped, often,
    sdAssert, decide_true, Bool.true_or, Bool.false_eq_true, if_true, if_false]

/-- An enabled input becomes LOST at the value of the run's begin, with its fault, and converters that measure with it fault:
`v` is the state of the lost input, `w` the one in which its trip levels act. -/
theorem sdLost_faults {v w : State} (on : s.b SD.ENABLE k = true) (good : s.g SD.STATE k ≠ 3)
    (lost : ((s.put SD.STATE k 3).put SD.VALUE k (s.sdX k).held).setSdX k { s.sdX k with clean := 0 } = v)
    (acts : s.tripMoved (v.inputFault 0x3501 k 13 (v.axesOfSd k)) = w) :
    s.sdLost k = w.convs.foldl (fun t c =>
      if t.n CONV.SDDC c = k || (t.convArms c).any fun a => t.g ARM.SDI a == k then t.convFault c true else t) w := by
  subst acts lost
  simp only [sdLost, on, good, Bool.not_true, decide_false, Bool.or_self, Bool.false_eq_true, if_false]

/-! ### Offsets (R163) -/

/-- No capture within ZEROPER before, 4,096 latches and the gates off: a mean within its limit becomes the offset, also in
MRAM; `u` is the state with the offset. -/
theorem offsetCapture_captures {mean : F32} (on : s.b SD.ENABLE k = true) (wanted : s.b SD.ZEROCAP k = true)
    (latches : 4096 ≤ (s.sdX k).capN) (gatesOff : s.sdGatesOff k = true) (valid : s.g SD.STATE k = 2)
    (cool : s.g THERM.STEP < 1)
    (due : ∀ c, (s.sdX k).capAt = some c → s.n ASSAY.ZEROPER * 400000000 ≤ s.tb.cycles - c ∧ c ≤ s.tb.cycles)
    (meanOf : s.sdMean k (s.sdX k).sums = mean) (small : mean.abs.le (F32.ofFrac 5 100) = true)
    (captured : (s.setSdX k { s.sdX k with capN := 0, capAt := some s.tb.cycles }).putF SD.OFFS k mean = u) :
    s.offsetCapture k = { u with mram := { u.mram with sdOffs := u.mram.sdOffs.put 0 k mean.toBits } } := by
  have notSoon : (s.sdX k).capAt.any (fun c => c ≤ s.tb.cycles && s.tb.cycles - c < s.n ASSAY.ZEROPER * 400000000) = false := by
    cases last : (s.sdX k).capAt with
    | none => rfl
    | some c => simp [Nat.not_lt_of_le (due c last).1]
  subst captured meanOf
  simp only [offsetCapture, on, wanted, Nat.not_lt_of_le latches, gatesOff, valid, Int.not_le_of_gt cool, notSoon, small,
    bne_self_eq_false, Bool.not_true, decide_false, Bool.or_self, Bool.false_eq_true, if_false, if_true]
  rfl

/-! ### Analogue inputs (R165 to R168) -/

/-- A result within the limits of an input that is not out of range makes it valid: `u` is the state that counts it. -/
theorem ainState_valid {x : AinX} (counted : { s with ainx := s.ainx.put {} n x } = u) (inRange : x.out = 0)
    (held : u.g AIN.STATE n ≠ 4) (limit : 0 < u.n AIN.RANGEN n) : s.ainState n x = u.put AIN.STATE n 2 := by
  subst counted
  simp only [ainState, held, inRange, Nat.not_le_of_lt limit, ge_iff_le, if_false]

/-- With no smoothing a value outside the dead band is taken whole. -/
theorem ainValue_whole {volts v : F32} (unsmoothed : s.n AIN.TAU n = 0)
    (scaled : (s.f AIN.GAIN n).mul (volts.sub (s.f AIN.ZERO n)) = v) (outside : v.abs.le (s.f AIN.DBAND n) = false) :
    s.ainValue n volts = s.putF AIN.VALUE n v := by
  simp only [ainValue, unsmoothed, scaled, outside, Bool.false_eq_true, if_false, if_true]

/-- A result within the limits is shown and valued: `a` is the state that shows its volts, `u` the one that counts it, `v` the
one in which it is valid. -/
theorem ainResult_inRange {total count : Nat} {volts : F32} {a v : State} (converted : s.ainVolts total count = volts)
    (shown : s.putF AIN.VOLTS n volts = a) (notLow : volts.lt (a.f AIN.LOLIM n) = false)
    (notHigh : (a.f AIN.HILIM n).lt volts = false)
    (counted : { a with ainx := a.ainx.put {} n { out := 0, ins := (a.ainx.find {} n).ins + 1, code := total / count } } = u)
    (held : u.g AIN.STATE n ≠ 4) (limit : 0 < u.n AIN.RANGEN n) (valid : u.put AIN.STATE n 2 = v)
    (stays : v.g AIN.STATE n ≠ 4) : s.ainResult n total count = v.ainValue n volts := by
  subst valid
  simp only [ainResult, converted, shown, notLow, notHigh, ainState_valid counted rfl held limit, stays, Bool.or_self,
    Bool.false_eq_true, if_false]

/-- The codes of the input whose turn it is are its result: `u` is the state without its turn and with the slots skipped. -/
theorem ainConversion_results {codes l : List Nat} {skips : Nat} (turn : s.sarDue = n :: l) (on : s.g AIN.PERIOD n ≠ 0)
    (complete : codes.length = s.n AIN.AVG n) (clocked : s.n POWER.PSTATE < 2)
    (taken : ({ s with sarDue := l } : State).inc AIN.SKIP n 0 skips = u) :
    s.ainConversion n codes skips = u.ainResult n (codes.foldl (fun k c => k + c % 16384) 0) codes.length := by
  simp only [ainConversion, turn, on, complete, Nat.not_le_of_lt clocked, taken, List.head?_cons, List.tail_cons,
    bne_self_eq_false, decide_false, Bool.or_self, Bool.false_eq_true, if_false]

end

/-- Settles O27: each command is its operation, which runs to its end by its equations above. -/
theorem tripAndAnalogueEventsComplete : Obligations.TripAndAnalogueEventsComplete := by
  unfold Obligations.TripAndAnalogueEventsComplete
  refine ⟨?assert, ?release, ?window, ?bits, ?trip, ?lost, ?offset, ?conversion⟩
  case assert => exact fun n s inactive => gives_of_exec rfl (congrArg settleStops (tripPin_asserts inactive))
  case release =>
    intro n s active u inactive
    exact gives_of_exec rfl (congrArg settleStops (tripRelease_frees active rfl inactive))
  case window => exact fun s => gives_of_exec rfl rfl
  case bits =>
    intro q off s input clocked u
    exact gives_of_exec rfl (congrArg settleStops (sdTake_passes (s := s.atOff off) input clocked rfl))
  case trip =>
    intro k t b off z input clocked same short s x u y mt d full high untripped often v w
    have compared : s.sdBit k b = u.sdCompare k := sdBit_in_run (s := s) same short rfl
    have asserted : u.sdCompare k = w :=
      sdCompare_asserts (x := y) (mt := mt) (d := d) (u := v) rfl rfl full rfl high untripped often rfl
    exact gives_of_exec rfl (congrArg settleStops (sdTake_passes (s := s) input clocked (compared.trans asserted)))
  case lost =>
    intro k t b s input clocked good same long x u on stillGood v w y
    have passed : s.sdBit k b = y := (sdBit_completes_run same long rfl).trans (sdLost_faults on stillGood rfl rfl)
    exact gives_of_exec rfl (congrArg settleStops (sdTake_passes input clocked passed))
  case offset =>
    intro k off z s on wanted latches gatesOff valid cool due mean small u
    exact gives_of_exec rfl (offsetCapture_captures on wanted latches gatesOff valid cool due rfl small rfl)
  case conversion =>
    intro n codes skips s l turn on complete nonempty clocked total t y volts a x b c notLow notHigh held limit stays
      unsmoothed v outside
    have taken : s.ainConversion n codes skips = y.ainResult n total codes.length :=
      ainConversion_results turn on complete clocked rfl
    have converted : y.ainVolts total codes.length = volts := rfl
    have shown : y.ainResult n total codes.length = c.ainValue n volts :=
      ainResult_inRange converted (a := a) rfl notLow notHigh (u := b) rfl held limit rfl stays
    have valued : c.ainValue n volts = c.putF AIN.VALUE n v := ainValue_whole unsmoothed rfl outside
    exact gives_of_exec rfl (congrArg settleStops (taken.trans (shown.trans valued)))

end Sys2Proof.Proofs
end

section
/-! PROOF. The writes of cell rings, converters and cells (R406, R408, R430, R432, R436, R439, R440): what the operation of each
row answers to a write that its rule allows. -/
namespace Sys2Proof.Proofs
open Machine Machine.State Claim Laws

section
variable {s : State} {n c : Nat}

/-! ### Rings (R406, R408) -/

/-- A ring in OFF that expects cells, as many as the wingbeat has room for, goes to LINKUP. -/
theorem ringEnable_links_up (off : s.rState n = 0) (expects : s.g RING.EXPN n ≠ 0)
    (fits : s.tripTight (s.n RING.EXPN n) = false) :
    s.ringEnable n 1 = (.ok, (s.put RING.EN n 1).put RING.STATE n 1) := by
  simp only [ringEnable, off, if_neg expects, fits, Bool.false_eq_true, if_true, if_false]

/-- A ring in BLOCKING goes to RUN where neither the device nor the axis of one of its converters is held, the round trip fits
and no slot of the ring is SILENT. -/
theorem ringRun_runs (blocking : s.rState n = 3) (noStop : s.stopOver 255 = false) (noSto : s.sto.act = false)
    (noLatch : s.latchedOver 255 = false) (fits : s.rttOk n = true)
    (free : ∀ c ∈ s.convsOn n, s.stopOver (s.axisOfConv c) = false ∧ s.latchedOver (s.axisOfConv c) = false)
    (noneSilent : ∀ k, k < s.n RING.NCELL n → s.g SLOT.STATE (384 * n + k) ≠ 2) :
    s.ringRun n 1 = (.ok, (s.put RING.STATE n 4).put RING.RUN n 1) := by
  have noAxisStop : (s.convsOn n).any (fun c => s.stopOver (s.axisOfConv c)) = false := by
    simpa using fun c on => (free c on).1
  have noAxisLatch : (s.convsOn n).any (fun c => s.latchedOver (s.axisOfConv c)) = false := by
    simpa using fun c on => (free c on).2
  simp only [ringRun, blocking, noStop, noAxisStop, noSto, noLatch, noAxisLatch, fits, Nat.one_ne_zero, bne_self_eq_false,
    Bool.false_and, Bool.or_self, Bool.not_true, Bool.false_eq_true, if_false]
  refine if_neg fun someSilent => ?_
  obtain ⟨k, listed, silent⟩ := List.any_eq_true.mp someSilent
  exact noneSilent k (List.mem_range.mp listed) (of_decide_eq_true (Bool.and_eq_true_iff.mp silent).1)

/-! ### Converters (R437, R439, R441) -/

/-- A converter in OFF that is set up, placed and free to charge goes to CHARGE: `u` is the state with its redundancy and its
target, `t` the one in which its arms start anew (log entry 48). -/
theorem convEnable_charges {u t : State} (machine : s.n CONV.MACH n ≠ 255) (measured : s.n CONV.SDDC n ≠ 255)
    (vdc : (s.f CONV.VDCNOM n).zero? = false) (vc : (s.f CONV.VCNOM n).zero? = false)
    (enough : ∀ a ∈ s.convArms n, s.nReq n ≤ s.n ARM.NCELL a) (configured : s.g CONV.CFG n = 2)
    (served : s.ownerStranded 9 n = false) (placed : ∀ a ∈ s.convArms n, (s.task (40 + a)).st ≠ 0)
    (idle : s.convActs n = false) (noStop : s.stopOver (s.axisOfConv n) = false) (off : s.cvState n = 0)
    (noSto : s.sto.act = false) (noLatch : s.latchedOver (s.axisOfConv n) = false)
    (notHeld : s.heldAxis (s.axisOfConv n) = false)
    (targeted : (s.put CONV.NREQ n (s.nReq n)).putF CONV.VCTGT n (s.f CONV.VCNOM n) = u)
    (armed : (u.convArms n).foldl (fun t a => (t.resetOut (40 + a)).setArmX a
      { t.armX a with resid := F32.zero, ins := [], ic := F32.zero, icref := F32.zero }) u = t) :
    s.convEnable n 1 = (.pending, t.convTo n 1) := by
  subst armed targeted
  have noneShort : (s.convArms n).any (fun a => decide (s.n ARM.NCELL a < s.nReq n)) = false := by
    simpa using enough
  have noneUnplaced : (s.convArms n).any (fun a => decide ((s.task (40 + a)).st = 0)) = false := by
    simpa using placed
  simp only [convEnable, machine, measured, vdc, vc, noneShort, configured, served, noneUnplaced, idle, noStop, off, noSto,
    noLatch, notHeld, Nat.one_ne_zero, Nat.reduceEqDiff, bne_self_eq_false, decide_false, Bool.or_self, Bool.false_eq_true,
    if_false, if_true]

/-- CLEAR takes a converter whose fault policy has ended, and whose causes are gone, from FAULT to OFF. -/
theorem convClear_leaves_fault (fault : s.cvState n = 7) (idle : s.convActs n = false) (noCause : s.convCause n = false) :
    s.convClear n = (.ok, (s.convTo n 0).clearFault 9 n) := by
  simp only [convClear, fault, idle, noCause, Nat.reduceEqDiff, decide_false, Bool.false_and,
    Bool.false_eq_true, if_false, if_true]

/-! ### Cells (R430, R432, R436) -/

theorem cellX_put (m : Mem) (i : Nat) (v : Int) (j : Nat) : (s.put m i v).cellX j = s.cellX j := rfl

/-- CLEAR returns a FAILED cell to OK outside RUN, once its slot is OK and it shows no cause; its restart history stays
(log entry 46). -/
theorem cellClear_returns {slot : Nat} (owner : s.convOfArm (n / 64) = some c) (failed : s.g CELL.STATE n = 4)
    (notRun : s.cvState c ≠ 4) (slotOf : 384 * s.n CONV.RING c + s.n ARM.SLOT0 (n / 64) + n % 64 = slot)
    (answers : s.g SLOT.STATE slot = 1) (noCause : s.failCause c n slot (s.cellX n) (s.n CELL.STATUS n) = 0) :
    s.cellClear n = (.ok, (((s.put CELL.STATE n 0).put CELL.FCAUSE n 0).setCellX n
      { clrf := 2, hist := (s.cellX n).hist }).clearFault 11 n) := by
  simp only [cellClear, owner, failed, if_neg notRun, slotOf, answers, noCause, cellX_put, bne_self_eq_false,
    Bool.or_self, Bool.false_eq_true, if_false]

/-- A cell that is OK or STALE is excluded where its arm keeps NREQ cells, or its converter limps. -/
theorem cellExcl_excludes (owner : s.convOfArm (n / 64) = some c)
    (spared : s.n CONV.NREQ c < (s.availCells (n / 64)).length ∨ s.b CONV.LIMP c = true)
    (inUse : (s.put CELL.EXCL n 1).g CELL.STATE n ≤ 1) :
    s.cellExcl n 1 = (.ok, (s.put CELL.EXCL n 1).put CELL.STATE n 2) := by
  have noLack : (decide ((s.availCells (n / 64)).length ≤ s.n CONV.NREQ c) && !s.b CONV.LIMP c) = false := by
    rcases spared with more | limps
    · simp only [Nat.not_le.mpr more, decide_false, Bool.false_and]
    · simp only [limps, Bool.not_true, Bool.and_false]
  simp only [cellExcl, owner, Bool.and_assoc, noLack, inUse, decide_true, Bool.and_false, Bool.true_or, Bool.false_eq_true,
    if_true, if_false]

/-- RETIRE takes a cell of a converter out for good, with the UID of its slot. -/
theorem cellRetire_retires (owner : s.convOfArm (n / 64) = some c) (notYet : s.g CELL.STATE n ≠ 5) :
    s.cellRetire n 1 =
      (.ok, s.cellRetired c n (s.n SLOT.UID (384 * s.n CONV.RING c + s.n ARM.SLOT0 (n / 64) + n % 64))) := by
  simp only [cellRetire, owner, if_neg notYet, Option.getD_some, if_true]

end

/-- Settles O21: each command writes its row, and the row's operation accepts the write by its lemma above. The statement takes
from the log the scope of a stop for RUN (entry 45), the history that a cell's CLEAR keeps (46) and what CONV.ENABLE starts anew
(48). -/
theorem ringAndConverterWritesComplete : Obligations.RingAndConverterWritesComplete := by
  unfold Obligations.RingAndConverterWritesComplete
  refine ⟨?linkUp, ?run, ?charge, ?convClear, ?cellClear, ?exclude, ?retire⟩
  case linkUp =>
    intro w s accepted z r off expects fits
    refine gives_rowWrite State.settleStops rfl accepted ?_ (by decide)
    rw [memberOp_ring_en]
    exact congrArg some (ringEnable_links_up off expects fits)
  case run =>
    intro w s accepted z r blocking noStop noSto noLatch fits free noneSilent
    refine gives_rowWrite State.settleStops rfl accepted ?_ (by decide)
    rw [memberOp_ring_run]
    exact congrArg some (ringRun_runs blocking noStop noSto noLatch fits free noneSilent)
  case charge =>
    intro w s accepted z c x machine measured vdc vc enough configured served placed idle noStop off noSto noLatch notHeld u t
    refine gives_rowWrite State.settleStops rfl accepted ?_ (by decide)
    rw [memberOp_conv_enable]
    exact congrArg some (convEnable_charges machine measured vdc vc enough configured served placed idle noStop off noSto
      noLatch notHeld rfl rfl)
  case convClear =>
    intro w s accepted z fault idle noCause
    refine gives_rowWrite State.settleStops rfl accepted ?_ (by decide)
    rw [memberOp_conv_clear, convClear_leaves_fault fault idle noCause]
  case cellClear =>
    intro w s c accepted z j owner failed notRun answers noCause
    refine gives_rowWrite State.settleStops rfl accepted ?_ (by decide)
    rw [memberOp_cell_clear, cellClear_returns owner failed notRun rfl answers noCause]
  case exclude =>
    intro w s c accepted z j owner _ spared inUse
    refine gives_rowWrite State.settleStops rfl accepted ?_ (by decide)
    rw [memberOp_cell_excl]
    exact congrArg some (cellExcl_excludes owner spared inUse)
  case retire =>
    intro w s c accepted z j owner notYet
    refine gives_rowWrite State.settleStops rfl accepted ?_ (by decide)
    rw [memberOp_cell_retire]
    exact congrArg some (cellRetire_retires owner notYet)

end Sys2Proof.Proofs
end

section
/-! PROOF. The commands of the cells (R400, R402, R405): each as an equation of its operation where its rule lets it act. -/
namespace Sys2Proof.Proofs
open Machine Machine.State Claim Laws

section
variable {s : State} {r k : Nat} {x : CellCtl}

/-! ### The apply instant (R396, R402, R405) -/

/-- A valid command that reached the cell by A alone, INSERT or BYPASS and neither a clear nor the key of permanent bypass, is
executed by a cell that nothing blocks. -/
theorem cellApply_executes {w : Nat} (cell : s.cellCtl (384 * r + k) = x) (valid : cmdValid x w = true)
    (noClear : bit w 2 = false) (noKey : (bit w 3 && bits w 8 8 = 0xB5) = false) (moves : w % 4 = 1 ∨ w % 4 = 2)
    (notBypassed : x.sw ≠ 3) (noWdblk : x.wdblk = false) (noRestart : x.restart = false) (noBlock : x.ablk = false) :
    s.cellApply r k (some w) none false = s.setCellCtl (384 * r + k)
      { x with cmddif := false, cmderr := false, cmda := true, cmdb := false, missed := 0, good := x.good + 1,
               disch := bit w 4, pbyp := 0, sw := w % 4 } := by
  have notThree : w % 4 ≠ 3 := by omega
  have notZero : w % 4 ≠ 0 := by omega
  simp only [cellApply, cell, valid, noClear, noKey, notThree, notZero, notBypassed, noWdblk, noRestart, noBlock,
    Option.filter_some, Option.filter_none, Option.none_or, Option.or_none, Option.isSome_some, Option.isSome_none,
    Option.isNone_some, ite_self, ge_iff_le, Nat.reduceLeDiff, decide_false, Bool.and_false, Bool.false_and, Bool.or_self,
    Bool.false_eq_true, if_true, if_false]

/-- A cell that missed the frame before as well enters BLOCK with WDBLK. -/
theorem cellApply_blocks (cell : s.cellCtl (384 * r + k) = x) (missedBefore : 1 ≤ x.missed) (notBypassed : x.sw ≠ 3) :
    s.cellApply r k none none false = s.setCellCtl (384 * r + k)
      { x with cmddif := false, cmderr := false, cmda := false, cmdb := false, missed := x.missed + 1, good := 0, pbyp := 0,
               sw := 0, wdblk := true } := by
  have twice : 2 ≤ x.missed + 1 := by omega
  have switched : (x.sw != 3) = true := bne_iff_ne.mpr notBypassed
  simp only [cellApply, cell, twice, switched, Option.filter_none, Option.or_none, Option.isSome_none, ite_self, ge_iff_le,
    decide_true, Bool.true_or, Bool.and_self, Bool.false_and, Bool.or_self, if_true]

/-! ### Blocking headers (R402) -/

/-- A blocking header blocks a cell that is not in permanent bypass, and INSERT and BYPASS wait for the next mark
(log entry 48). -/
theorem cellBlock_blocks (notBypassed : (s.cellCtl (384 * r + k)).sw ≠ 3) :
    s.cellBlock r k = s.setCellCtl (384 * r + k) { s.cellCtl (384 * r + k) with sw := 0, ablk := true } := by
  simp only [cellBlock, if_neg notBypassed]

end

/-- Settles O33: each command is its operation, which runs to its end by its equation above; a lost direction is only marked. -/
theorem cellEventsComplete : Obligations.CellEventsComplete := by
  unfold Obligations.CellEventsComplete
  refine ⟨?execute, ?miss, ?directionLoss, ?block⟩
  case execute =>
    intro ring pos w s i x valid noClear noKey moves notBypassed noWdblk noRestart noBlock
    exact gives_of_exec rfl (cellApply_executes rfl valid noClear noKey moves notBypassed noWdblk noRestart noBlock)
  case miss =>
    intro ring pos s i x missedBefore notBypassed
    exact gives_of_exec rfl (cellApply_blocks rfl missedBefore notBypassed)
  case directionLoss => exact fun ring pos s => gives_of_exec rfl rfl
  case block => exact fun ring pos s notBypassed => gives_of_exec rfl (cellBlock_blocks notBypassed)

end Sys2Proof.Proofs
end

section
/-! PROOF. The timers of the converters (R437, R438): each as an equation of its operation in the state that it leaves. -/
namespace Sys2Proof.Proofs
open Machine Machine.State Claim

section
variable {s : State} {c : Nat}

/-! ### Pre-charge (R437, R438) -/

/-- V_dc at its pre-charge level, with the ring running and the cells that each arm needs (or LIMP), leads to BALANCE. -/
theorem convChargeDone_balances (charge : s.cvState c = 1)
    (reached : (s.convVdc c).lt ((s.f CONV.PCHV c).mul (s.f CONV.VDCNOM c)) = false)
    (ringRuns : s.rState (s.n CONV.RING c) = 4) (enough : s.n CONV.NREQ c ≤ s.nMin c ∨ s.b CONV.LIMP c = true) :
    s.convChargeDone c = s.convTo c 2 := by
  have served : (decide (s.nMin c ≥ s.n CONV.NREQ c) || s.b CONV.LIMP c) = true := by simpa using enough
  simp only [convChargeDone, charge, reached, ringRuns, served, Bool.not_false, decide_true, Bool.and_self, if_true]

/-- Once every available cell has reached its goal, the main contactor is driven, and READY waits for it. -/
theorem balanceDone_drives_main (balance : s.cvState c = 2) (level : s.nPc c ≠ 0) (notYet : (s.convX c).mainWait = false)
    (charged : ∀ a ∈ s.convArms c, ∀ i ∈ s.availCells a, (s.f CELL.VCAP (64 * a + i)).lt
      ((s.f CONV.PCDONE c).mul ((s.convVdc c).div (F32.ofInt (2 * s.nPc c : Nat)))) = false) :
    s.balanceDone c =
      (s.dioDrive (s.n CONV.MAINDIO c) true).setConvX c { s.convX c with mainWait := true } := by
  have allCharged : ((s.convArms c).all fun a => (s.availCells a).all fun i => !(s.f CELL.VCAP (64 * a + i)).lt
      ((s.f CONV.PCDONE c).mul ((s.convVdc c).div (F32.ofInt (2 * s.nPc c : Nat))))) = true := by
    simpa only [List.all_eq_true, Bool.not_eq_true'] using charged
  simp only [balanceDone, balance, level, notYet, allCharged, bne_self_eq_false, decide_false, Bool.not_true, Bool.or_self,
    Bool.false_eq_true, if_false]

theorem mainContactDone_readies (balance : s.cvState c = 2) (waits : (s.convX c).mainWait = true) :
    s.mainContactDone c =
      ((s.dioDrive (s.n CONV.PCHDIO c) false).setConvX c { s.convX c with mainWait := false }).convTo c 3 := by
  simp only [mainContactDone, balance, waits, decide_true, Bool.and_self, if_true]

theorem prechargeFail_faults (precharges : s.cvState c = 1 ∨ s.cvState c = 2) :
    s.prechargeFail c = (s.convFaultRec 0x2307 c).convTo c 7 := by
  simp only [prechargeFail, Bool.or_eq_true, decide_eq_true_eq, if_pos precharges]

/-! ### Shutdown and discharge (R437) -/

theorem convShutdownDone_leaves (shutdown : s.cvState c = 5) :
    s.convShutdownDone c = s.convTo c (if s.b CONV.DISCHEN c then 6 else 0) := by
  simp only [convShutdownDone, shutdown, if_true]

/-- With every capacitor below DISCHV, DISCHARGE ends before DISCHT and records no fault. -/
theorem convDischargeDone_turns_off (discharge : s.cvState c = 6) (low : s.discharged c = true) :
    s.convDischargeDone c false = s.convTo c 0 := by
  simp only [convDischargeDone, discharge, low, decide_true, Bool.true_or, Bool.not_true, Bool.and_false, Bool.or_self,
    Bool.false_eq_true, if_false, if_true]

end

/-- Settles O34: each command is its operation, which runs to its end by its equation above, and the stops settle after it. -/
theorem converterEventsComplete : Obligations.ConverterEventsComplete := by
  unfold Obligations.ConverterEventsComplete
  refine ⟨?charge, ?balance, ?mainContact, ?prechargeFails, ?shutdown, ?discharge⟩
  case charge =>
    intro c s charge reached ringRuns enough
    exact gives_of_exec rfl (congrArg settleStops (convChargeDone_balances charge reached ringRuns enough))
  case balance =>
    intro c s balance level notYet charged
    exact gives_of_exec rfl (congrArg settleStops (balanceDone_drives_main balance level notYet charged))
  case mainContact =>
    intro c s balance waits
    exact gives_of_exec rfl (congrArg settleStops (mainContactDone_readies balance waits))
  case prechargeFails =>
    exact fun c s precharges => gives_of_exec rfl (congrArg settleStops (prechargeFail_faults precharges))
  case shutdown =>
    exact fun c s shutdown => gives_of_exec rfl (congrArg settleStops (convShutdownDone_leaves shutdown))
  case discharge =>
    intro c s discharge low
    exact gives_of_exec rfl (congrArg settleStops (convDischargeDone_turns_off discharge low))

end Sys2Proof.Proofs
end

section
/-! PROOF. The members of STOP[64] (R488): their rows, the bounds of a write, and the two counters, of which one saturates and
one wraps. -/
namespace Sys2Proof.Proofs
open Machine Machine.State Laws

/-- Settles O59: the rows are those of the table; a counter reads what was last put into it (`put_g_self`), which is held at the
top of uint32 for SUPCNT and taken modulo 2^32 for DONEGEN. -/
theorem deviceStopMembers : Obligations.DeviceStopMembers := by
  unfold Obligations.DeviceStopMembers
  refine ⟨⟨rfl, rfl, rfl, ?holdRange⟩, ⟨rfl, rfl, ?countCleared, ?countSaturates⟩, ⟨rfl, rfl, ?generationWraps⟩,
    ⟨rfl, rfl⟩, ⟨rfl, rfl⟩⟩
  case holdRange =>
    intro s v
    simp only [rangeOk, STOPDEV.SUPHOLD, Bool.and_eq_true, decide_eq_true_eq]
  case countCleared =>
    intro s v
    exact decide_eq_true_iff
  case countSaturates => exact fun s => put_g_self s STOPDEV.SUPCNT 0 0 _
  case generationWraps => exact fun s => put_g_self s STOPDEV.DONEGEN 0 0 _

end Sys2Proof.Proofs
end

section
/-! PROOF. The writes of the stop system (R450, R453, R456, R468, R471, R478, R653): what the operation of each row answers to a
write that its rule allows. -/
namespace Sys2Proof.Proofs
open Machine Machine.State Claim Laws

section
variable {s : State}

/-! ### Holds (R468) -/

/-- A hold that no latched source covers ends, while STO does not act, with the axis idle and its category and cause gone. -/
theorem stopAck_ends_hold {x : Nat} {t : State} (holds : s.stopState x = 4) (noLatch : s.latchedOver x = false)
    (noSto : s.sto.act = false) (ended : ((s.put STOP.STATE x 0).put STOP.CAT x 255).put STOP.CAUSE x 255 = t) :
    s.stopAck x = (.ok, (t.setAxisX x { t.axisX x with pHold := none }).motionIdle x) := by
  simp only [stopAck, holds, noLatch, noSto, ended, Bool.or_self, Bool.false_eq_true, if_false, if_true]

/-! ### Sources and STO (R450, R451, R456) -/

/-- A source that is no DIO input, or whose input no longer asks for a stop, is unlatched. -/
theorem sourceClear_unlatches {j : Nat} (gone : j < 16 ∨ s.dioSource (j - 16) = false) :
    s.sourceClear (16 + j) = (.ok, (s.put SRC.LATCHED j 0).clearFault 21 (16 + j)) := by
  have input : 16 + j - 32 = j - 16 := by omega
  have inactive : (decide (32 ≤ 16 + j) && s.dioSource (j - 16)) = false := by
    rcases gone with noInput | quiet
    · have below : ¬ 32 ≤ 16 + j := by omega
      rw [decide_eq_false below, Bool.false_and]
    · rw [quiet, Bool.and_false]
  simp only [sourceClear, input, inactive, Nat.add_sub_cancel_left, Bool.false_eq_true, if_false]

/-- With both pins high the latches of STO are cleared, and its levels are taken anew without them. -/
theorem stoClear_clears (highA : s.sto.a = true) (highB : s.sto.b = true) :
    s.stoClear =
      (.ok, ((s.setSto fun q => { q with disc := false, rdbk := false }).stoLevels true true).clearFault 21 16) := by
  simp only [stoClear, highA, highB, Bool.and_self, if_true]

/-! ### The thermal latches and that of the reference (R478, R653) -/

/-- After 10,000 samples, 1 s, below STOPTJ − 10 °C, a thermal latch that is set is cleared. -/
theorem tclear_clears (latched : s.sto.thStop = true ∨ s.sto.thTrip = true) (cool : 10000 ≤ s.pow.below10) :
    s.tclear = (.ok, s.setSto fun q => { q with thStop := false, thTrip := false }) := by
  have held : ¬ (!s.sto.thStop && !s.sto.thTrip) = true := by
    rcases latched with stop | trip
    · simp [stop]
    · simp [trip]
  have notWarm : ¬ s.pow.below10 < 10000 := by omega
  simp only [tclear, if_neg held, if_neg notWarm]

/-- A reference that has been good for 10 ms lets its loss latch go. -/
theorem rclear_clears (good : s.tb.refok = true) (long : 10000000 ≤ s.tb.sinceOk) :
    s.rclear = (.ok, s.setSto fun q => { q with refLoss := false }) := by
  simp only [rclear, good, long, decide_true, Bool.and_self, if_true]

end

/-- Settles O24: each command writes its row, and the row's operation accepts the write by its lemma above; a stop and an
emergency mode are accepted whatever the state (`stopRequest`, `stopEreq`), and the row of CLEAR leads to STO at its first place and
to the latch of the source at every other one. -/
theorem stopWritesComplete : Obligations.StopWritesComplete := by
  unfold Obligations.StopWritesComplete
  refine ⟨?request, ?emergency, ?ack, ?source, ?sto, ?thermal, ?reference⟩
  case request =>
    intro w v s accepted
    exact gives_rowWrite State.settleStops rfl accepted (memberOp_stop_req _ w.inst 0 v) (by decide)
  case emergency =>
    intro w v s accepted
    exact gives_rowWrite State.settleStops rfl accepted (memberOp_stop_ereq _ w.inst 0 v) (by decide)
  case ack =>
    intro w s accepted z x holds noLatch noSto t
    refine gives_rowWrite State.settleStops rfl accepted ?_ (by decide)
    rw [memberOp_stop_ack, stopAck_ends_hold holds noLatch noSto rfl]
  case source =>
    intro w s accepted z notSto gone
    refine gives_rowWrite State.settleStops rfl accepted ?_ (by decide)
    rw [memberOp_src_clear, if_neg notSto, sourceClear_unlatches gone]
  case sto =>
    intro w s accepted z isSto highA highB
    refine gives_rowWrite State.settleStops rfl accepted ?_ (by decide)
    rw [memberOp_src_clear, if_pos isSto, stoClear_clears highA highB]
  case thermal =>
    intro w s accepted z latched cool
    refine gives_rowWrite State.settleStops rfl accepted ?_ (by decide)
    rw [memberOp_stopdev_tclear, tclear_clears latched cool]
  case reference =>
    intro w s accepted z good long
    refine gives_rowWrite State.settleStops rfl accepted ?_ (by decide)
    rw [memberOp_stopdev_rclear, rclear_clears good long]

end Sys2Proof.Proofs
end

section
/-! PROOF. The events of STO (R448, R450, R451, R452): each as an equation of its operation where its rule lets it act. The fault
of a discrepancy stands before the levels act, so what an alarm leaves of STO is said first. -/
namespace Sys2Proof.Proofs
open Machine Machine.State Claim Laws

/-! ### An alarm leaves STO -/

section
variable {s : State}

theorem setBytes_sto (a : Nat) (bytes : List Byte) : (s.setBytes a bytes).sto = s.sto := by
  induction bytes generalizing s a with
  | nil => rfl
  | cons v rest ih => rw [setBytes, ih, setByte_sto]

theorem raise_sto (k : Nat) : (s.raise k).sto = s.sto := rfl

theorem raiseAll_sto (l : List Nat) : (s.raiseAll l).sto = s.sto := by
  induction l generalizing s with
  | nil => rfl
  | cons k rest ih => exact (ih (s := s.raise k)).trans (raise_sto k)

theorem produce_sto (n : Nat) (bytes : List Byte) : (s.produce n bytes).sto = s.sto := by
  dsimp only [produce]
  split
  · rw [raise_sto, setRing_sto, setBytes_sto]
  · rw [setRing_sto, setBytes_sto]

theorem markLoss_sto (n : Nat) : (s.markLoss n).sto = s.sto := by
  unfold markLoss
  split
  · rfl
  · rw [raise_sto, setRing_sto]

theorem ledger_sto (code inst detail : Nat) (data : List Byte) (secure : Bool) :
    (s.ledger code inst detail data secure).sto = s.sto := by
  have told : (if s.ledg.coalesced62 then s else s.raise 62).sto = s.sto := by split <;> rfl
  dsimp only [ledger]
  generalize (if s.ledg.coalesced62 then s else s.raise 62) = u at told ⊢
  generalize (if ledgerReserved code then 1024 else 960) = room
  split
  · exact told
  · split
    · rfl
    · exact told

theorem ring7_sto (code inst detail : Nat) : (s.ring7 code inst detail).sto = s.sto := by
  have lost : (if s.alarms.isEmpty && s.ready then (s.markLoss 7).raise 62 else s).sto = s.sto := by
    split
    · rw [raise_sto, markLoss_sto]
    · rfl
  dsimp only [ring7]
  generalize (if s.alarms.isEmpty && s.ready then (s.markLoss 7).raise 62 else s) = u at lost ⊢
  split
  · exact produce_sto _ _
  · split
    · exact lost
    · split
      · exact lost
      · split <;> exact lost

theorem alarm_sto (code inst : Nat) (evs : List Nat) (detail cls : Nat) (data : List Byte) :
    (s.alarm code inst evs detail cls data).sto = s.sto := by
  dsimp only [alarm]
  rw [raiseAll_sto]
  split
  · rw [ledger_sto, ring7_sto]
  · rw [noteFault_sto, ledger_sto, ring7_sto]

end

/-! ### Pins and readback (R448, R450, R451) -/

section
variable {s : State}

/-- Levels with a pin low act at once. -/
theorem stoActive_takes {a b : Bool} (low : a = false ∨ b = false) : s.stoActive a b = s.stoLevels a b := by
  have notBothHigh : (a && b) = false := Bool.and_eq_false_iff.mpr low
  simp only [stoActive, notBothHigh, Bool.false_eq_true, if_false]

/-- Pins that differ latch the discrepancy with its fault, and STO acts at the levels that they have. -/
theorem stoDiscrepancy_latches (differ : s.sto.a ≠ s.sto.b) (unlatched : s.sto.disc = false) :
    s.stoDiscrepancy =
      ((s.setSto fun q => { q with disc := true }).alarm 0xC101 16 ((List.range 16).map (16 + ·)) 0 21).stoLevels
        s.sto.a s.sto.b := by
  simp only [stoDiscrepancy, beq_eq_false_iff_ne.mpr differ, unlatched, alarm_sto, setSto_sto, Bool.or_self, Bool.false_eq_true,
    if_false]

/-- A pin that reads high against its command latches the readback error, with STOFB low and the fault of its stage. -/
theorem stoReadback_latches {k : Nat} (off : ((s.leg (k / 2)).sw (k % 2 = 1)).cmd = false) (unlatched : s.sto.rdbk = false) :
    s.stoReadback k =
      (s.setSto fun q => { q with rdbk := true, fb := false }).alarm 0xC102 16
        (if s.axisOfStage (k / 6) < 16 then [16 + s.axisOfStage (k / 6)] else []) k 21 := by
  simp only [stoReadback, off, unlatched, Bool.or_self, Bool.false_eq_true, if_false]

/-- STOFB rises with both pins low and no readback error, at READY, once no switch is commanded on and every ring is off or
has sent its BLOCK frame. -/
theorem stofbRise_rises (lowA : s.sto.a = false) (lowB : s.sto.b = false) (noError : s.sto.rdbk = false)
    (ready : s.ready = true) (gatesOff : ∀ l, l < 48 → (s.leg l).hi.cmd = false ∧ (s.leg l).lo.cmd = false)
    (blocked : ∀ r, r < 4 → s.rState r = 0 ∨ (s.link r).blkSent = true) :
    s.stofbRise = s.setSto fun q => { q with fb := true } := by
  have allOff : (List.range 48).all (fun l => !(s.leg l).hi.cmd && !(s.leg l).lo.cmd) = true := by
    simpa only [List.all_eq_true, List.mem_range, Bool.and_eq_true, Bool.not_eq_true'] using gatesOff
  have allBlocked : (List.range 4).all (fun r => s.rState r = 0 || (s.link r).blkSent) = true := by
    simpa only [List.all_eq_true, List.mem_range, Bool.or_eq_true, decide_eq_true_eq] using blocked
  simp only [stofbRise, lowA, lowB, noError, ready, allOff, allBlocked, Bool.not_false, Bool.and_self, if_true]

end

/-- Settles O28: each command is its operation, which runs to its end by its equation above; a release takes the high levels
whatever the state (`stoRelease`). -/
theorem stoEventsComplete : Obligations.StoEventsComplete := by
  unfold Obligations.StoEventsComplete
  refine ⟨?active, ?release, ?discrepancy, ?readback, ?feedback⟩
  case active => exact fun a b s low => gives_of_exec rfl (congrArg settleStops (stoActive_takes low))
  case release => exact fun s => gives_of_exec rfl rfl
  case discrepancy =>
    exact fun s differ unlatched => gives_of_exec rfl (congrArg settleStops (stoDiscrepancy_latches differ unlatched))
  case readback =>
    exact fun pin s off unlatched => gives_of_exec rfl (congrArg settleStops (stoReadback_latches off unlatched))
  case feedback =>
    intro s lowA lowB noError ready gatesOff blocked
    exact gives_of_exec rfl (stofbRise_rises lowA lowB noError ready gatesOff blocked)

end Sys2Proof.Proofs
end

section
/-! PROOF. The events of the stop system (R466, R467, R468, R470, R477, R478, R482): each as an equation of its operation where
its rule lets it act. -/
namespace Sys2Proof.Proofs
open Machine Machine.State Claim

section
variable {s : State} {x : Nat}

/-! ### Rest, the brake and STOPT (R466, R467, R468) -/

/-- An axis at rest under category 2 holds its position; in position mode with the integrator of its loop at 0. -/
theorem stopRest_holds {v : State} (ramp : s.stopState x = 1) (ended : (s.axStop x).ref.zero? = true)
    (still : (s.f PROF.STILLV x).lt (s.f AXIS.SPD x).abs = false) (category : s.n STOP.CAT x = 2)
    (resumes : (if s.g AXIS.MODE x = 3 then s.putF LOOP.INTEG (loopOf x 0) F32.zero else s) = v) :
    s.stopRest x =
      (v.put STOP.STATE x 4).setAxisX x { v.axisX x with pHold := some (v.g AXIS.POS x), onVest := false } := by
  simp only [stopRest, ramp, ended, still, category, resumes, bne_self_eq_false, Bool.not_true, Bool.and_false, Bool.or_self,
    Bool.false_eq_true, if_false, if_true]

/-- An axis at rest under another category goes on to its brake. -/
theorem stopRest_brakes (ramp : s.stopState x = 1) (ended : (s.axStop x).ref.zero? = true)
    (still : (s.f PROF.STILLV x).lt (s.f AXIS.SPD x).abs = false) (category : s.n STOP.CAT x ≠ 2) :
    s.stopRest x = (s.brkReq x false).put STOP.STATE x 2 := by
  simp only [stopRest, ramp, ended, still, category, bne_self_eq_false, Bool.not_true, Bool.and_false, Bool.or_self,
    Bool.false_eq_true, if_false]

/-- A brake without an input is taken as set after BRKSETT: the external STO is asked for and power is removed. -/
theorem brakeSet_removes_power (brakes : s.stopState x = 2) (noInput : s.n PROF.BRKIN x = 0xFFFF) :
    s.brakeSet x true = ((s.dioDrive (s.n STOP.STOREQ x) true).powerOff x).stopRefresh := by
  simp only [brakeSet, brakes, noInput, bne_self_eq_false, Bool.not_true, Bool.false_and, Bool.false_eq_true, if_false]

/-- A stop of category 1 that STOPT overtakes is one of category 0, with its fault. -/
theorem stopTimeout_forces (stops : s.stopState x = 1 ∨ s.stopState x = 2) (category : s.n STOP.CAT x = 1) :
    s.stopTimeout x = (((s.alarm 0xC202 x [16 + x] 0 21).stopCause x 0 0x85).powerOff x).stopRefresh := by
  have overtaken : ((decide (s.stopState x = 1) || decide (s.stopState x = 2)) && decide (s.n STOP.CAT x = 1)) = true := by
    simpa only [Bool.and_eq_true, Bool.or_eq_true, decide_eq_true_eq] using And.intro stops category
  simp only [stopTimeout, overtaken, if_true]

/-! ### Completion (R470, R478, R482) -/

/-- A completion that leaves no PERCH request due makes none. -/
theorem stopCompletePerch_of_not_due (notDue : s.stopComplete.pow.perchDue = false) : s.stopCompletePerch = s.stopComplete := by
  simp only [stopCompletePerch, notDue, Bool.false_and, Bool.false_eq_true, if_false]

theorem supholdEnd_ends (noStop : s.stops = []) : s.supholdEnd = { s with supp := {} } := by
  simp only [supholdEnd, noStop, List.isEmpty_nil, if_true]

/-! ### Ride-through (R477) -/

/-- With the supply back, ride-through ends (`u`), and the setpoint restarts from the speed `v` and the position `p` of the
axis. -/
theorem rideEnd_restarts {u : State} {v : F32} {p : Int} (rides : s.stopState x = 8)
    (supplied : (s.axisVdc x).1.lt ((s.f STOP.RTVOFF x).mul (s.axisVdc x).2) = false)
    (ended : (s.put STOP.STATE x 0).setAxStop x { (s.put STOP.STATE x 0).axStop x with first := true } = u)
    (speed : u.f AXIS.SPD x = v) (position : u.g AXIS.POS x = p) :
    s.rideEnd x =
      (if u.g AXIS.SPSRC x = 0 && !u.geared x then
        (u.setGen x { u.gen x with p := p, v := v, a := F32.zero, plan := none }).motionReplan x
      else u.setAxisX x { u.axisX x with setp := v, pset := p }).raise 47 := by
  subst speed position ended
  simp only [rideEnd, rides, supplied, bne_self_eq_false, Bool.or_self, Bool.false_eq_true, if_false]
  rfl

/-- Ride-through that reaches RTMAXT fails, and the axis stops by RTSTOP. -/
theorem rideFail_stops (rides : s.stopState x = 8) :
    s.rideFail x =
      ((s.alarm 0xC402 x [47, 16 + x] 0 21).put STOP.STATE x 0).stopAxes (2 ^ x) (s.n STOP.RTSTOP x) 0x85 := by
  simp only [rideFail, rides, bne_self_eq_false, Bool.false_eq_true, if_false]

end

/-- Settles O36: each command is its operation, which runs to its end by its equation above; the completion of the stops and the
PERCH request after a thermal one are STOP_COMPLETE itself in every state (`stopCompletePerch`). -/
theorem stopEventsComplete : Obligations.StopEventsComplete := by
  unfold Obligations.StopEventsComplete
  refine ⟨?hold, ?brake, ?powerOff, ?timeout, ?complete, ?noPerch, ?suppression, ?rideEnds, ?rideFails⟩
  case hold =>
    intro x s ramp ended still category v
    exact gives_of_exec rfl (congrArg settleStops (stopRest_holds ramp ended still category rfl))
  case brake =>
    intro x s ramp ended still category
    exact gives_of_exec rfl (congrArg settleStops (stopRest_brakes ramp ended still category))
  case powerOff =>
    exact fun x s brakes noInput => gives_of_exec rfl (congrArg settleStops (brakeSet_removes_power brakes noInput))
  case timeout =>
    exact fun x s stops category => gives_of_exec rfl (congrArg settleStops (stopTimeout_forces stops category))
  case complete => exact fun s => gives_of_exec rfl rfl
  case noPerch => exact fun s notDue => gives_of_exec rfl (stopCompletePerch_of_not_due notDue)
  case suppression => exact fun s noStop => gives_of_exec rfl (supholdEnd_ends noStop)
  case rideEnds =>
    intro x s rides supplied u v p
    exact gives_of_exec rfl (congrArg settleStops (rideEnd_restarts rides supplied rfl rfl rfl))
  case rideFails =>
    intro x s rides u
    exact gives_of_exec rfl (congrArg settleStops (rideFail_stops rides))

end Sys2Proof.Proofs
end

section
/-! PROOF. The tests of the operations as Booleans: when a check of two parts bars nothing. -/
namespace Sys2Proof.Proofs

/-- What is barred to the open world alone is not barred to a secure access, nor where nothing bars it. -/
theorem not_and_eq_false {secure bar : Bool} (allowed : secure = true ∨ bar = false) : (!secure && bar) = false := by
  rcases allowed with isSecure | noBar
  · rw [isSecure]; rfl
  · rw [noBar, Bool.and_false]

/-- What is needed is missing only where it is needed and not there. -/
theorem and_not_eq_false {needed given : Bool} (met : needed = false ∨ given = true) : (needed && !given) = false := by
  rcases met with unneeded | isGiven
  · rw [unneeded, Bool.false_and]
  · rw [isGiven, Bool.not_true, Bool.and_false]

section
variable {p q : Prop} [Decidable p] [Decidable q]

theorem or_decide_eq_false (notP : ¬ p) (notQ : ¬ q) : (decide p || decide q) = false := by
  rw [decide_eq_false notP, decide_eq_false notQ]
  rfl

theorem and_decide_eq_true (isP : p) (isQ : q) : (decide p && decide q) = true := by
  rw [decide_eq_true isP, decide_eq_true isQ]
  rfl

end
end Sys2Proof.Proofs
end
section
/-! PROOF. What no command undoes and what it leaves alone (R512, R593, R614): burnt fuses, the numbers of the Ledger and of the
entropy draws, and the queue of waiting commands. Each is a part of `Keeps`, which every command keeps (`exec_keeps`). -/
namespace Sys2Proof.Proofs
open Machine Machine.State Claim Laws Safety

theorem step_of_queue {s : State} {c : Instr} {rest : List Instr} (queue : s.pending = c :: rest) :
    step s = exec c { s with pending := rest } := by
  simp only [step, queue]

theorem step_of_empty_queue {s : State} (queue : s.pending = []) : step s = .next s := by
  simp only [step, queue]

/-- Every step of a sound state keeps what `Keeps` names, but for the queue, from which it has taken its command. -/
theorem step_keeps {s t : State} (sound : Sound s) (answer : step s = .next t) :
    ∃ rest, Keeps { s with pending := rest } t := by
  match queue : s.pending with
  | [] =>
    cases (step_of_empty_queue queue).symm.trans answer
    exact ⟨s.pending, keeps_self_of_sound sound⟩
  | c :: rest =>
    have taken : Sound { s with pending := rest } := sound
    exact ⟨rest, exec_keeps (keeps_self_of_sound taken) c t ((step_of_queue queue).symm.trans answer)⟩

/-- Settles O47: fuses, record numbers and draws are parts of what a step keeps (`step_keeps`). -/
theorem noStepUndoesFuses : Obligations.NoStepUndoesFuses := by
  unfold Obligations.NoStepUndoesFuses
  intro s t sound answer
  obtain ⟨rest, kept⟩ := step_keeps sound answer
  exact ⟨kept.fuse, kept.recno, kept.drawn⟩

/-- Settles O43: the queue is a part of what a command keeps (`exec_keeps`). -/
theorem commandsLeaveTheQueue : Obligations.CommandsLeaveTheQueue := by
  unfold Obligations.CommandsLeaveTheQueue
  exact fun c s t sound answer => (exec_keeps (keeps_self_of_sound sound) c t answer).queue

/-- Settles O42: `step` is a match on the queue. -/
theorem stepTakesTheFrontCommand : Obligations.StepTakesTheFrontCommand := by
  unfold Obligations.StepTakesTheFrontCommand
  exact ⟨fun c rest s => step_of_queue rfl, fun s => step_of_empty_queue⟩

end Sys2Proof.Proofs
end

section
/-! PROOF. A Ledger write (R593, R596): it numbers the oldest staged record and extends the chain by it, and what follows it
(the ring's oldest record overwritten, the write counted, a LOSS record staged) touches neither. -/
namespace Sys2Proof.Proofs
open Machine Machine.State Claim Laws

section
variable {s : State}

/-! ### What leaves MRAM as it is -/

theorem setBytes_mram (a : Nat) (bytes : List Byte) : (s.setBytes a bytes).mram = s.mram := by
  induction bytes generalizing s a with
  | nil => rfl
  | cons v rest ih => exact ih (s := s.setByte a v) (a + 1)

theorem raise_mram (k : Nat) : (s.raise k).mram = s.mram := rfl

theorem produce_mram (n : Nat) (bytes : List Byte) : (s.produce n bytes).mram = s.mram := by
  dsimp only [produce]
  split
  · rw [raise_mram, setRing_mram, setBytes_mram]
  · rw [setRing_mram, setBytes_mram]

theorem markLoss_mram (n : Nat) : (s.markLoss n).mram = s.mram := by
  unfold markLoss
  split <;> rfl

theorem raiseAll_mram (l : List Nat) : (s.raiseAll l).mram = s.mram := by
  induction l generalizing s with
  | nil => rfl
  | cons k rest ih => exact ih (s := s.raise k)

theorem ledger_mram (code inst detail : Nat) (data : List Byte) (secure : Bool) :
    (s.ledger code inst detail data secure).mram = s.mram := by
  have told : (if s.ledg.coalesced62 then s else s.raise 62).mram = s.mram := by split <;> rfl
  dsimp only [ledger]
  generalize (if s.ledg.coalesced62 then s else s.raise 62) = u at told ⊢
  generalize (if ledgerReserved code then 1024 else 960) = room
  split
  · exact told
  · split
    · rfl
    · exact told

theorem ring7_mram (code inst detail : Nat) : (s.ring7 code inst detail).mram = s.mram := by
  have lost : (if s.alarms.isEmpty && s.ready then (s.markLoss 7).raise 62 else s).mram = s.mram := by
    split
    · exact markLoss_mram 7
    · rfl
  dsimp only [ring7]
  generalize (if s.alarms.isEmpty && s.ready then (s.markLoss 7).raise 62 else s) = u at lost ⊢
  split
  · exact produce_mram _ _
  · split
    · exact lost
    · split
      · exact lost
      · split <;> exact lost

theorem alarm_mram (code inst : Nat) (evs : List Nat) (detail cls : Nat) (data : List Byte) :
    (s.alarm code inst evs detail cls data).mram = s.mram := by
  dsimp only [alarm]
  rw [raiseAll_mram]
  split
  · rw [ledger_mram, ring7_mram]
  · rw [noteFault_mram, ledger_mram, ring7_mram]

/-! ### What leaves the Ledger's record numbers, chain and records -/

/-- `t` has the Ledger of `s` in MRAM: its next number, its chain and its records. -/
def SameLedger (s t : State) : Prop :=
  t.mram.next = s.mram.next ∧ t.mram.chain = s.mram.chain ∧ t.mram.ledger = s.mram.ledger

theorem SameLedger.of_mram {t : State} (same : t.mram = s.mram) : SameLedger s t := by
  unfold SameLedger
  rw [same]
  exact ⟨rfl, rfl, rfl⟩

theorem SameLedger.after {t u : State} (later : SameLedger t u) (earlier : SameLedger s t) : SameLedger s u := by
  obtain ⟨next, chain, records⟩ := earlier
  obtain ⟨next', chain', records'⟩ := later
  exact ⟨next'.trans next, chain'.trans chain, records'.trans records⟩

theorem mramCount_sameLedger (s : State) (k : Nat) : SameLedger s (s.mramCount k) := by
  have worn : (if s.g RESERVE.WEARMAX < (s.mram.writes.find 0 k + 1 : Nat) then
      s.put RESERVE.WEARMAX 0 (s.mram.writes.find 0 k + 1 : Nat) else s).mram = s.mram := by split <;> rfl
  dsimp only [mramCount]
  generalize (if s.g RESERVE.WEARMAX < _ then _ else s) = u at worn ⊢
  refine SameLedger.after ?_ (SameLedger.of_mram worn)
  split
  · exact ⟨rfl, rfl, rfl⟩
  · split
    · exact (SameLedger.of_mram (alarm_mram _ _ _ _ _ _)).after ⟨rfl, rfl, rfl⟩
    · exact ⟨rfl, rfl, rfl⟩

theorem mramWrite_sameLedger (s : State) (k : Nat) : SameLedger s (s.mramWrite k) := by
  unfold mramWrite
  split
  · exact mramCount_sameLedger s k
  · split
    · exact SameLedger.of_mram rfl
    · exact (mramCount_sameLedger _ k).after ⟨rfl, rfl, rfl⟩

theorem mirror_mram (bytes : List Byte) : (s.mirror bytes).mram = s.mram := by
  unfold mirror
  split
  · rfl
  · split
    · exact produce_mram _ _
    · show s.lossEvent.mram = s.mram
      unfold lossEvent
      split <;> rfl

/-! ### The record and the chain (R593, R596) -/

/-- The Ledger of `t` is that of `s` with the record `r` under the next number, and the chain extended by its bytes. -/
def Appends (s t : State) (r : LRec) : Prop :=
  t.mram.next = s.mram.next + 1 ∧
  t.mram.chain = Config.sha256 (le 32 s.mram.chain.toNat ++ r.bytes s.mram.next) ∧
  t.mram.ledger.find (0, { code := 0, inst := 0, wb := 0, detail := 0, wblast := 0 }) s.mram.next =
    (s.mram.next, { r with since := 0 })

theorem Appends.sameLedger {t u : State} {r : LRec} (appended : Appends s t r) (same : SameLedger t u) : Appends s u r := by
  obtain ⟨next, chain, records⟩ := same
  unfold Appends
  rw [next, chain, records]
  exact appended

/-- The records lose their oldest where they are full, which is another than the newest. -/
theorem ledgerPut_appends (r : LRec) (ordered : s.mram.first ≤ s.mram.next) : Appends s (s.ledgerPut r) r := by
  have apart : s.mram.next + 1 - s.mram.first > 16384 → s.mram.next ≠ s.mram.first := by omega
  dsimp only [ledgerPut]
  refine Appends.sameLedger ?_ ((SameLedger.of_mram (mirror_mram _)).after (mramWrite_sameLedger _ _))
  refine Appends.sameLedger (t := ite _ _ _) ?_ ⟨rfl, rfl, rfl⟩
  split
  · rename_i full
    exact ⟨rfl, rfl, (find_del_ne _ _ (apart full)).trans (by rw [find_put, if_pos rfl])⟩
  · exact ⟨rfl, rfl, by rw [find_put, if_pos rfl]⟩

/-- LEDGER_WRITE puts the oldest staged record; a LOSS record that follows is only staged. -/
theorem ledgerWrite_appends {r : LRec} {l : List LRec} (oldest : s.ledg.staged = r :: l)
    (ordered : s.mram.first ≤ s.mram.next) : Appends s s.ledgerWrite r := by
  simp only [ledgerWrite, oldest]
  have put := ledgerPut_appends (s := { s with ledg := { s.ledg with staged := l, unsealed := s.ledg.unsealed + 1 } }) r ordered
  generalize State.ledgerPut { s with ledg := { s.ledg with staged := l, unsealed := s.ledg.unsealed + 1 } } r = u at put ⊢
  split
  · exact put
  · exact put.sameLedger (SameLedger.of_mram (ledger_mram _ _ _ _ _))

end

/-- Settles O56: LEDGER_WRITE is `ledgerWrite`, which appends its record to the Ledger (`ledgerWrite_appends`). -/
theorem ledgerWriteNumbersAndChains : Obligations.LedgerWriteNumbersAndChains := by
  unfold Obligations.LedgerWriteNumbersAndChains
  intro s t r l oldest ordered answer
  cases answer
  exact ledgerWrite_appends oldest ordered

end Sys2Proof.Proofs
end

section
/-! PROOF. Resets (R535, R624, R635 to R641, R648, R652): each condition as an equation of its operation where its rule lets it
act, and what a reset leaves. -/
namespace Sys2Proof.Proofs
open Machine Machine.State Claim Laws

section
variable {s : State}

/-! ### The conditions of a reset (R635, R638 to R640, R652) -/

theorem brownout_resets {rail : Nat} (monitored : ¬ (rail = 0 ∧ 4 ≤ s.n POWER.PSTATE)) :
    s.brownout rail = s.doReset (0x11 + rail) := by
  simp only [brownout, Bool.and_eq_true, decide_eq_true_eq, if_neg monitored]

theorem nrstReset_resets (released : s.up.phase = 3 ∨ 5 ≤ s.up.phase) : s.nrstReset = s.doReset 0x20 := by
  simp only [nrstReset, Bool.or_eq_true, decide_eq_true_eq, if_pos released]

theorem watchdogReset_resets (runs : s.watchdogRuns = true) : s.watchdogReset = s.doReset 0x21 := by
  simp only [watchdogReset, runs, if_true]

theorem lockstepMismatch_resets (run : 5 ≤ s.up.phase) : s.lockstepMismatch = s.doReset 0x22 := by
  simp only [lockstepMismatch, if_pos run]

theorem engineSupervisorReset_resets (ready : s.ready = true) : s.engineSupervisorReset = s.doReset 0x23 := by
  simp only [engineSupervisorReset, ready, if_true]

theorem tamper_resets (enabled : s.tamperOff = false) : s.tamper = s.doReset 0x27 := by
  simp only [tamper, enabled, Bool.false_eq_true, if_false]

theorem refLoss_resets (begun : 2 ≤ s.up.phase) (notReady : s.up.phase < 7) (ref : s.tb.refok = true)
    (awake : s.n POWER.PSTATE < 4) : s.refLoss = s.doReset 0x29 := by
  have clocked : ¬ s.up.phase < 2 := by omega
  have notAsleep : ¬ 4 ≤ s.n POWER.PSTATE := by omega
  simp only [refLoss, ref, clocked, notAsleep, notReady, Bool.not_true, decide_false, Bool.or_self, Bool.false_eq_true, if_false,
    if_true]

/-- Settles O4: each command is its operation, which resets by its equation above; a power-on reset acts in every state. -/
theorem resetCommandsComplete : Obligations.ResetCommandsComplete := by
  unfold Obligations.ResetCommandsComplete
  refine ⟨?powerOn, ?brownout, ?pin, ?watchdog, ?lockstep, ?engine, ?tamper, ?reference⟩
  case powerOn => exact fun held s => gives_of_exec rfl rfl
  case brownout => exact fun rail s monitored => gives_of_exec rfl (brownout_resets monitored)
  case pin => exact fun s released => gives_of_exec rfl (nrstReset_resets released)
  case watchdog => exact fun s runs => gives_of_exec rfl (watchdogReset_resets runs)
  case lockstep => exact fun s run => gives_of_exec rfl (lockstepMismatch_resets run)
  case engine => exact fun s ready => gives_of_exec rfl (engineSupervisorReset_resets ready)
  case tamper => exact fun s enabled => gives_of_exec rfl (tamper_resets enabled)
  case reference =>
    exact fun s begun notReady ref awake => gives_of_exec rfl (refLoss_resets begun notReady ref awake)

/-! ### What a reset leaves (R635, R637, R641, R643) -/

/-- Cocoon RAM reads 0 after a reset that wipes the backup domain: what a reset writes beside the wipe is registers. -/
theorem doReset_wipes_ram {c : Nat} (wipes : c = 2 ∨ c = 0x26 ∨ c = 0x27) : (s.doReset c).bk.ram = [] := by
  have wiped : (decide (c = 2) || decide (c = 0x26) || decide (c = 0x27)) = true := by simpa [or_assoc] using wipes
  simp only [doReset, wiped, if_true]
  split <;> split <;> rfl

end

/-- Settles O5: `doReset` is the state after reset with what the rules keep put back, and the tables of that state are empty
(`doReset_wipes_ram` for Cocoon RAM). -/
theorem resetLeavesTheResetState : Obligations.ResetLeavesTheResetState := by
  unfold Obligations.ResetLeavesTheResetState
  intro s c t
  have ram (wipes : c = 2 ∨ c = 0x26 ∨ c = 0x27) (a : Nat) : t.bk.ram.find 0 a = 0 := by
    show (s.doReset c).bk.ram.find 0 a = 0
    rw [doReset_wipes_ram wipes, find_nil]
  exact ⟨rfl, rfl, rfl, rfl, rfl, rfl, rfl, fun a => find_nil 0 a, rfl, rfl, rfl, rfl, rfl, rfl, ram⟩

/-- Settles O44: the tables of the state after reset are empty, so that each object and ring reads as its default
(`Ring.dflt`), and the rest are its fields. -/
theorem resetStateHolds : Obligations.ResetStateHolds := by
  unfold Obligations.ResetStateHolds
  have disabled (n : Nat) : (State.reset.ring n).en = false := by
    show (Ring.dflt n).en = false
    unfold Ring.dflt
    split <;> rfl
  exact ⟨rfl, rfl, rfl, fun k => find_nil 0 k, rfl, rfl, rfl, rfl, fun _ => ⟨rfl, rfl⟩, disabled, fun _ => rfl, rfl,
    fun a => find_nil 0 a, fun _ => rfl, rfl⟩

end Sys2Proof.Proofs
end

section
/-! PROOF. The start-up phases (R637, R638, R643, R646, R649): each as an equation of its operation in its phase. -/
namespace Sys2Proof.Proofs
open Machine Machine.State Claim Laws

section
variable {s : State}

/-! ### P0 to P2 (R637, R643, R649) -/

theorem stretchEnd_leaves_p0 (runs : s.up.stretch = true) (noRestart : s.up.p3Restart = false) (phase : s.up.phase = 0) :
    s.stretchEnd true = { s with up := { s.up with stretch := false, phase := 1 } } := by
  simp only [stretchEnd, runs, noRestart, phase, Bool.not_true, Bool.or_self, Bool.false_eq_true, if_false, if_true]

theorem stretchEnd_restarts_p3 (runs : s.up.stretch = true) (restart : s.up.p3Restart = true) :
    s.stretchEnd true = { s with up := { s.up with stretch := false, p3Restart := false } } := by
  simp only [stretchEnd, runs, restart, Bool.not_true, Bool.or_self, Bool.false_eq_true, if_false, if_true]

theorem earlyRelease_releases (phase : s.up.phase = 1) (early : s.tb.early = true) :
    s.earlyRelease = { s with tb := { s.tb with ovrd := true }, up := { s.up with phase := 2, override := true } } := by
  simp only [earlyRelease, phase, early, decide_true, Bool.and_self, if_true]

theorem wipeComplete_without_wipe (phase : s.up.phase = 2) (noWipe : wipeDue s.otp = none) :
    s.wipeComplete = { s with up := { s.up with phase := 3 } } := by
  simp only [wipeComplete, phase, noWipe, bne_self_eq_false, Bool.false_eq_true, if_false]

/-- A life-cycle wipe without its companion fuse is repeated, and the fuse is burnt (R626). -/
theorem wipeComplete_repeats_wipe {t : Nat} (phase : s.up.phase = 2) (due : wipeDue s.otp = some t) :
    s.wipeComplete = { s.lifeWipe t with otp := burnWiped s.otp, up := { (s.lifeWipe t).up with phase := 3 } } := by
  simp only [wipeComplete, phase, due, bne_self_eq_false, Bool.false_eq_true, if_false]

/-! ### P3 (R608, R643, R645) -/

/-- What P3 leaves, in the terms that the statements use: `fail` tells whether the safe options are loaded. -/
theorem optionsLoaded_leaves {t : State} {a b o l k fail : Bool} (phase : s.up.phase = 3) (ended : s.up.stretch = false)
    (safe : (decide (8 ≤ (s.bk.regs.find 0 31).toNat % 16) || !o || !l || !k) = fail) (loaded : s.optionsLoaded a b o l k = t) :
    t.up = { s.up with phase := 4, optfail := fail } ∧ t.otp = { s.otp with keysBad := !k } ∧
      t.bk = { s.bk with regs := s.bk.regs.put 0 31 0 } ∧ t.rings = s.rings ∧ t.tile = s.tile ∧ t.tb = s.tb ∧ t.mram = s.mram ∧
      t.sec.blkmap = 0xF1000000 ||| (if t.up.optfail then 0 else s.otp.opt.find 0 2) := by
  subst safe loaded
  simp only [optionsLoaded, phase, ended, bne_self_eq_false, Bool.or_self, Bool.false_eq_true, if_false]
  exact ⟨rfl, rfl, rfl, rfl, rfl, rfl, rfl, rfl⟩

/-! ### P4 to P6 (R621, R638, R643, R646) -/

theorem trimDone_releases (phase : s.up.phase = 4) (held : s.up.pins = false) :
    s.trimDone = { s with up := { s.up with pins := true, nrstHeld := false } } := by
  simp only [trimDone, phase, held, bne_self_eq_false, Bool.or_self, Bool.false_eq_true, if_false]

theorem nrstReleased_boots (phase : s.up.phase = 4) (released : s.up.pins = true) :
    s.nrstReleased = { s with up := { s.up with phase := 5 },
                              bk := { s.bk with regs := s.bk.regs.put 0 29 (s.bk.regs.find 0 29 + 1) } } := by
  simp only [nrstReleased, phase, released, bne_self_eq_false, Bool.not_true, Bool.or_self, Bool.false_eq_true, if_false]

theorem slotShow_slot (i : Nat) : s.slotShow.slot i = s.slot i := rfl

theorem slotShow_up : s.slotShow.up = s.up := rfl

/-- With no slot VALID there is no candidate, whatever else bars one: the base image boots. -/
theorem authenticateDone_boots_base {romOk : Bool} (phase : s.up.phase = 5) (options : s.up.optfail = false)
    (notA : (s.slot 0).stat ≠ 2) (notB : (s.slot 1).stat ≠ 2) :
    s.authenticateDone romOk = { s.slotShow.put SEC.FWSLOT 0 2 with
      up := { s.up with phase := 6, base := true, mothball := if romOk then 0 else 2 } } := by
  have noneValid : (List.range 2).filter (fun i => decide ((s.slotShow.slot i).stat = 2)) = [] := by
    simp [List.range_succ, slotShow_slot, notA, notB]
  simp only [authenticateDone, phase, noneValid, ite_self, List.filter_nil, List.foldl_nil, slotShow_up, put_up, options,
    bne_self_eq_false, Bool.false_eq_true, if_false]
  cases romOk <;> rfl

/-- A Mothball start with its records: no engine is admitted, and READY is entered. -/
theorem firmwareLoaded_enters_mothball {u : State} (phase : s.up.phase = 6) (noTest : s.up.testFirst = false)
    (read : s.readRecords.vault.supervisorReset = u) (records : u.mram.retiredLost = false) (mothball : u.up.mothball ≠ 0) :
    s.firmwareLoaded = u.exRefresh.enterReady := by
  have starts : (u.up.mothball != 0) = true := bne_iff_ne.mpr mothball
  simp only [firmwareLoaded, phase, noTest, read, records, starts, bne_self_eq_false, Bool.or_self, Bool.false_eq_true, if_false,
    if_true]

end

/-- Settles O3: each command is its operation, which runs in its phase by its equation above. -/
theorem startUpCommandsComplete : Obligations.StartUpCommandsComplete := by
  unfold Obligations.StartUpCommandsComplete
  refine ⟨?stretch, ?restart, ?early, ?noWipe, ?wipe, ?options, ?trim, ?pin, ?authenticate, ?firmware⟩
  case stretch =>
    exact fun s runs noRestart phase => gives_of_exec rfl (stretchEnd_leaves_p0 runs noRestart phase)
  case restart => exact fun s runs restart => gives_of_exec rfl (stretchEnd_restarts_p3 runs restart)
  case early => exact fun s phase early => gives_of_exec rfl (earlyRelease_releases phase early)
  case noWipe => exact fun s phase noWipe => gives_of_exec rfl (wipeComplete_without_wipe phase noWipe)
  case wipe => exact fun s t phase due => gives_of_exec rfl (wipeComplete_repeats_wipe phase due)
  case options =>
    intro a b o l k s phase ended
    obtain ⟨up, otp, bk, rings, tile, tb, mram, -⟩ := optionsLoaded_leaves (a := a) (b := b) phase ended rfl rfl
    exact ⟨_, rfl, congrArg StartUp.phase up, congrArg StartUp.optfail up, otp, congrArg Backup.regs bk, rings, tile, tb, mram⟩
  case trim => exact fun s phase held => gives_of_exec rfl (trimDone_releases phase held)
  case pin => exact fun s phase released => gives_of_exec rfl (nrstReleased_boots phase released)
  case authenticate =>
    exact fun romOk s phase options notA notB => gives_of_exec rfl (authenticateDone_boots_base phase options notA notB)
  case firmware =>
    intro s phase noTest mothballStart u records mothball
    exact gives_of_exec rfl (firmwareLoaded_enters_mothball phase noTest rfl records mothball)

end Sys2Proof.Proofs
end

section
/-! PROOF. The block map (R608): what it refuses, its fixed bits after every step, and what it resets from. -/
namespace Sys2Proof.Proofs
open Machine Machine.State Claim Laws Safety

/-- A bit of the fixed ones is set in a map that holds them all. -/
theorem fixed_bit_of_mapOk {m : BitVec 32} {j : Nat} (fixed : mapOk m) (bit : (0xF1000000 : BitVec 32).getLsbD j = true) :
    m.getLsbD j = true := by
  have both := congrArg (·.getLsbD j) fixed
  rwa [BitVec.getLsbD_and, bit, Bool.and_true] at both

/-- The fixed bits are 24 and 28 to 31. -/
theorem fixed_bits {j : Nat} (inMap : j < 32) : (0xF1000000 : BitVec 32).getLsbD j = decide (j ∈ [24, 28, 29, 30, 31]) := by
  revert j
  decide

section
variable {s : State} {addr i x : Nat} {m : Mem}

theorem readMember_deniedWorld (found : s.resolve addr = some (m, i, x)) (secure : s.blockSecure (blockOf m i) = true) :
    s.readMember false addr = .error .deniedWorld := by
  simp only [readMember, found, secure, Bool.not_false, Bool.and_self, if_true]

theorem readMember_reads {sec : Bool} (found : s.resolve addr = some (m, i, x))
    (allowed : sec = true ∨ s.blockSecure (blockOf m i) = false) :
    s.readMember sec addr = .ok (m.ty, s.readMem m i x) := by
  simp only [readMember, found, not_and_eq_false allowed, Bool.false_eq_true, if_false]

end

/-- Settles O58: a read of a secure block is refused (`readMember_deniedWorld`), the fixed bits are a part of soundness
(`step_sound`), and P3 loads the others (`optionsLoaded_leaves`). -/
theorem blockMapAssignsWorlds : Obligations.BlockMapAssignsWorlds := by
  unfold Obligations.BlockMapAssignsWorlds
  refine ⟨?reads, ?fixed, ?options, ?unprogrammed⟩
  case reads =>
    intro s addr m i x found
    constructor
    · intro secure
      rw [readMember_deniedWorld found secure]
    · exact fun openWorld => readMember_reads found (.inr openWorld)
  case fixed =>
    intro s t b sound answer fixed
    obtain ⟨-, -, -, -, -, -, -, -, map⟩ := step_sound sound answer
    have inMap : b < 32 := by
      simp only [List.mem_cons, List.not_mem_nil, or_false] at fixed
      omega
    exact fixed_bit_of_mapOk map ((fixed_bits inMap).trans (decide_eq_true fixed))
  case options =>
    intro a b o l k s t phase ended answer noFail j inMap
    cases answer
    obtain ⟨-, -, -, -, -, -, -, map⟩ := optionsLoaded_leaves phase ended rfl rfl
    rw [map, noFail, if_neg Bool.false_ne_true, BitVec.getLsbD_or, fixed_bits inMap]
  case unprogrammed =>
    intro a b o l k s t phase ended answer unprogrammed
    cases answer
    obtain ⟨-, -, -, -, -, -, -, map⟩ := optionsLoaded_leaves phase ended rfl rfl
    rw [map, unprogrammed, ite_self]
    rfl

end Sys2Proof.Proofs
end

section
/-! PROOF. The transactions of the SPI ports and the commands of the rings (R492 to R497, R503, R506, R511, R598): each as an
equation of its operation where its rule lets it act. -/
namespace Sys2Proof.Proofs
open Machine Machine.State Claim Laws

section
variable {s : State} {p : Nat}

/-! ### Transactions (R492 to R497) -/

/-- A write to bytes of one tile that the port owns, in a world that it may use, waits in an empty write buffer. -/
theorem spiWrite_buffers {sec crcOk : Bool} {a : Nat} {data : List Byte} (answers : s.portsAnswer = true)
    (crc : (s.port p).crcen = false ∨ crcOk = true) (nonempty : data ≠ []) (oneTile : a / 256 = (a + data.length - 1) / 256)
    (owned : (List.range data.length).all (fun k => s.mayWrite p (a + k)) = true)
    (world : (sec && (s.port p).seccap) = true ∨ (s.ring ((s.ringOf a).getD 0)).world = false)
    (awake : s.g POWER.PSTATE ≠ 3) (idle : (s.port p).wbuf = none) :
    s.spiWrite p sec 1 a data crcOk false =
      (s.setPort p { s.port p with wbuf := some (a, data) }).answer p true false false false false false [] := by
  have length : data.length ≠ 0 := fun none => nonempty (List.eq_nil_of_length_eq_zero none)
  have addrGood : (decide (data.length = 0) || a / 256 != (a + data.length - 1) / 256 ||
      !(List.range data.length).all (fun k => s.mayWrite p (a + k))) = false := by
    rw [owned, decide_eq_false length, bne_eq_false_iff_eq.mpr oneTile]
    rfl
  have notBusy : (decide (s.g POWER.PSTATE = 3) || (s.port p).wbuf.isSome) = false := by
    rw [idle, decide_eq_false awake]
    rfl
  simp only [spiWrite, answers, and_not_eq_false crc, addrGood, not_and_eq_false world, notBusy, Nat.one_ne_zero, Bool.not_true, Bool.false_eq_true,
    if_false, if_true]

/-- A write of the ring area is no write of a doorbell. -/
theorem spiStops_ringArea (a : Nat) (data : List Byte) (cut : Bool) : s.spiStops 1 a data cut = false := by
  simp only [spiStops, Nat.one_ne_zero, decide_false, Bool.and_false, Bool.false_and]

/-- A read within one tile of the ring area, in a world that the port may use, drives its bytes. -/
theorem spiRead_drives {sec crcOk : Bool} {a n : Nat} (answers : s.portsAnswer = true)
    (crc : (s.port p).crcen = false ∨ crcOk = true) (nonempty : n ≠ 0) (oneTile : a / 256 = (a + n - 1) / 256)
    (inArea : a / 256 < 2048) (world : (sec && (s.port p).seccap) = true ∨ ∀ r, s.ringOf a = some r → (s.ring r).world = false)
    (awake : s.g POWER.PSTATE ≠ 3) (tag : s.badTags.contains (a / 256) = false) :
    s.spiRead p sec 1 a n crcOk .inTime false =
      s.answer p true false false false false false ((List.range n).map fun k => s.portByte p (a + k)) := by
  have addrGood : (decide (n = 0) || a / 256 != (a + n - 1) / 256 || decide (a / 256 ≥ 2048)) = false := by
    rw [decide_eq_false nonempty, bne_eq_false_iff_eq.mpr oneTile, decide_eq_false (Nat.not_le.mpr inArea)]
    rfl
  simp only [spiRead, answers, and_not_eq_false crc, addrGood, awake, tag, Nat.one_ne_zero, reduceCtorEq, Bool.not_true,
    decide_false, Bool.or_self, Bool.false_eq_true, if_false, if_true]
  rcases world with secure | openWorld
  · simp only [secure, Bool.not_true, Bool.false_and, Bool.false_eq_true, if_false]
  · cases found : s.ringOf a with
    | none => simp only [Bool.and_false, Bool.false_eq_true, if_false]
    | some r => simp only [openWorld r found, Bool.and_false, Bool.false_eq_true, if_false]

theorem quadExit_exits (answers : s.portsAnswer = true) : s.quadExit p = s.setPort p { s.port p with quad := false } := by
  simp only [quadExit, answers, Bool.not_true, Bool.false_eq_true, if_false]

theorem commitBuffer_commits {a : Nat} {l : List Byte} (waits : (s.port p).wbuf = some (a, l)) :
    s.commitBuffer p = (s.setPort p { s.port p with wbuf := none }).setBytes a l := by
  simp only [commitBuffer, waits]

/-! ### Doorbells (R503) -/

section
variable {n v m : Nat} {u : State} {r : Ring}

/-- The port's doorbells on an enabled ring that it owns are taken, but for ring 14. -/
theorem doorbell_allowed (owner : r.owner = p) (enabled : r.en = true) (inRange : v < m) (notCan : n ≠ 14)
    (hosts : 10 ≤ n → n ≤ 13 → r.hostc = true) :
    (r.owner != p || !r.en || decide (v ≥ m) || decide (n = 14) || (decide (10 ≤ n) && decide (n ≤ 13) && !r.hostc)) = false := by
  have receive : (decide (10 ≤ n) && decide (n ≤ 13) && !r.hostc) = false := by
    simpa using hosts
  rw [receive, owner, enabled, decide_eq_false notCan, decide_eq_false (Nat.not_le.mpr inRange), bne_self_eq_false]
  rfl

theorem doorbell_moves_tail (buffer : s.commitBuffer p = u) (ring : u.ring n = r) (modulus : 2 * r.size = m)
    (owner : r.owner = p) (enabled : r.en = true) (inRange : v < m) (notCan : n ≠ 14) (hosts : hostConsumes n r = true)
    (forward : (r.head + m - v) % m ≤ (r.head + m - r.tail) % m) : s.doorbell p n v = u.setRing n { r with tail := v } := by
  have receive (least : 10 ≤ n) (most : n ≤ 13) : r.hostc = true := by
    have : ¬ n ≤ 4 := by omega
    simpa [hostConsumes, this, least, most] using hosts
  simp only [doorbell, buffer, ring, modulus, doorbell_allowed owner enabled inRange notCan receive, hosts, forward,
    Bool.false_eq_true, if_false, if_true]

theorem doorbell_moves_head (buffer : s.commitBuffer p = u) (ring : u.ring n = r) (modulus : 2 * r.size = m)
    (owner : r.owner = p) (enabled : r.en = true) (inRange : v < m) (notCan : n ≠ 14) (device : hostConsumes n r = false)
    (receive : 10 ≤ n → n ≤ 13 → r.hostc = true) (fits : (v + m - r.tail) % m ≤ r.size)
    (forward : (v + m - r.head) % m ≤ (v + m - r.tail) % m) : s.doorbell p n v = u.setRing n { r with head := v } := by
  simp only [doorbell, buffer, ring, modulus, doorbell_allowed owner enabled inRange notCan receive, device, fits, forward,
    decide_true, Bool.and_self, Bool.false_eq_true, if_false, if_true]

end

/-! ### ESTOP, the age timer and the alarm flush (R506, R511, R598) -/

theorem estop_requests (enabled : bit s.sto.cfg 12 = true) : s.estop = s.srcRequest 17 := by
  simp only [estop, enabled, if_true]

theorem ringAge_raises {n : Nat} (timed : s.g HRING.AGEMAX n ≠ 0) (filled : (s.ring n).empty = false)
    (enabled : (s.ring n).en = true) (hosts : hostConsumes n (s.ring n) = true) : s.ringAge n = s.raise n := by
  simp only [ringAge, timed, filled, enabled, hosts, decide_false, Bool.not_true, Bool.or_self, Bool.false_eq_true, if_false]

theorem setBytes_aseq (a : Nat) (bytes : List Byte) : (s.setBytes a bytes).aseq = s.aseq := by
  induction bytes generalizing s a with
  | nil => rfl
  | cons v rest ih => exact ih (s := s.setByte a v) (a + 1)

theorem produce_aseq (n : Nat) (bytes : List Byte) : (s.produce n bytes).aseq = s.aseq := by
  dsimp only [produce]
  split <;> exact setBytes_aseq _ _

theorem alarmFlush_sends {a : Alarm} {l : List Alarm} (waits : s.alarms = a :: l) (room : s.hasRoom 7 = true) :
    s.alarmFlush = { (s.produce 7 (Alarm.bytes a true s.aseq)).inc HRING.LOST 7 0 (min a.count 65535 - 1) with
      aseq := (s.aseq + 1) % 4294967296, alarms := l } := by
  simp only [alarmFlush, waits, room, inc, put_aseq, produce_aseq, Bool.not_true, Bool.false_eq_true, if_false]

end

/-- Settles O7: each command is its operation, which runs to its end by its equation above. -/
theorem portCommandsComplete : Obligations.PortCommandsComplete := by
  unfold Obligations.PortCommandsComplete
  refine ⟨?write, ?read, ?quad, ?commit⟩
  case write =>
    intro port sec a data crcOk s answers crc nonempty oneTile owned world awake idle
    refine gives_of_exec rfl (congrArg settleStops ?_)
    rw [spiStops_ringArea, if_neg Bool.false_ne_true]
    exact spiWrite_buffers answers crc nonempty oneTile owned world awake idle
  case read =>
    intro port sec a n crcOk s answers crc nonempty oneTile inArea world awake tag
    refine gives_of_exec rfl (spiRead_drives answers crc nonempty oneTile inArea (world.imp_right ?_) awake tag)
    intro openWorld r found
    rwa [found] at openWorld
  case quad => exact fun port s answers => gives_of_exec rfl (quadExit_exits answers)
  case commit => exact fun port s a l waits => gives_of_exec rfl (commitBuffer_commits waits)

/-- Settles O8: each command is its operation, which runs to its end by its equation above. -/
theorem ringCommandsComplete : Obligations.RingCommandsComplete := by
  unfold Obligations.RingCommandsComplete
  refine ⟨?tail, ?head, ?estop, ?age, ?flush⟩
  case tail =>
    intro port ring v s answers u r m owner enabled inRange notCan hosts forward
    refine gives_of_exec rfl ((if_pos answers).trans ?_)
    exact doorbell_moves_tail rfl rfl rfl owner enabled inRange notCan hosts forward
  case head =>
    intro port ring v s answers u r m owner enabled inRange notCan device receive fits forward
    refine gives_of_exec rfl ((if_pos answers).trans ?_)
    exact doorbell_moves_head rfl rfl rfl owner enabled inRange notCan device receive fits forward
  case estop => exact fun port index s enabled => gives_of_exec rfl (congrArg settleStops (estop_requests enabled))
  case age => exact fun ring s timed filled enabled hosts => gives_of_exec rfl (ringAge_raises timed filled enabled hosts)
  case flush => exact fun s a l waits room => gives_of_exec rfl (alarmFlush_sends waits room)

end Sys2Proof.Proofs
end

section
/-! PROOF. CAN ports and partners (R552, R557 to R561, R564, R565, R569, R572, R573, R575, R577, R579, R648): each command as an
equation of its operation where its rule lets it act. -/
namespace Sys2Proof.Proofs
open Machine Machine.State Claim Laws

section
variable {s : State} {p : Nat}

/-! ### The writes of ports and partners (R552, R559, R560, R573, R579) -/

theorem canEnable_integrates (off : s.b CAN.EN p = false) (timing : s.canTimingOk p = true) :
    s.canEnable p = (.ok, (((s.put CAN.EN p 1).put CAN.TEC p 0).put CAN.REC p 0).canTo p 1) := by
  simp only [canEnable, off, timing, Bool.not_true, Bool.false_eq_true, if_false]

/-- A port none of whose enabled partners is a remote drive loses its frames and goes OFF. -/
theorem canDisable_flushes {x : CanPort} {u : State} (noDrive : ∀ i, i < 256 → s.b PART.EN i = false ∨ s.g PART.KIND i ≠ 1)
    (queued : s.canP p = x)
    (counted : s.inc CAN.TXDROP p 0
      (x.urg.length + x.norm.length + b2n x.buf0.isSome + b2n x.buf1.isSome + b2n x.buf2.isSome) = u) :
    s.canDisable p = (.ok, canPump 256 ((((u.setCan p { x with
      urg := [], norm := [], buf0 := none, buf1 := none, buf2 := none, count := false, susp := false }).put
        CAN.TXBST p 0).put CAN.EN p 0).canTo p 0)) := by
  have unused : (List.range 256).any (fun i => s.b PART.EN i && s.g PART.PORT i == p && s.g PART.KIND i == 1 &&
      decide (s.n PART.MACH i < 32) && s.b MACH.ENABLE (s.n PART.MACH i)) = false := by
    rw [List.any_eq_false]
    intro i below
    rcases noDrive i (List.mem_range.mp below) with off | kind
    · simp [off]
    · simp [kind]
  simp only [canDisable, unused, queued, counted, Bool.false_eq_true, if_false]

theorem canRecover_counts (busOff : s.cState p = 4) :
    s.canRecover p = (.ok, s.setCan p { s.canP p with count := true }) := by
  simp only [canRecover, busOff, bne_self_eq_false, Bool.false_eq_true, if_false]

theorem restrWrite_restricts {u : State} (stored : s.put CAN.RESTR p 1 = u) (communicates : u.cState p = 2 ∨ u.cState p = 3) :
    s.restrWrite p 1 = (.ok, u.canTo p 5) := by
  subst stored
  simp only [restrWrite, Nat.cast_one, if_true, Bool.or_eq_true, decide_eq_true_eq, if_pos communicates]

theorem partEnable_disables (notDrive : s.n PART.KIND p ≠ 1) :
    s.partEnable p 0 = (.ok, ((s.put PART.EN p 0).put PART.VALID p 0).setPart p {}) := by
  simp only [partEnable, notDrive, decide_false, Bool.false_and, Bool.false_eq_true, if_false, if_true]

/-! ### Reception (R458, R558, R569, R572) -/

/-- A frame on a communicating port is counted, lowers REC, and enters the receive ring that the host consumes: `u`, `v`, `a`
and `b` are the states when it is counted, when the counters have moved, when it has entered and when the partners have it. -/
theorem canFrameReceived_enters {f g : CanRx} {u v a b : State} (communicates : s.cState p = 2 ∨ s.cState p = 3)
    (ref : s.tb.refok = true) (counted : s.inc CAN.RXFR p = u) (low : u.n CAN.REC p ≤ 127)
    (lowered : u.setErr p (u.n CAN.TEC p) (u.n CAN.REC p - 1) = v) (room : v.hasRoom (10 + p) = true)
    (marked : { f with flags := setBits f.flags 5 1 (b2n (v.smMatches p f)) } = g)
    (entered : v.produce (10 + p) (g.bytes p) = a)
    (partners : (List.range 256).foldl (fun t i => if t.partMatches i p g then t.partIn i g else t) a = b)
    (hosts : (b.ring (10 + p)).hostc = true) : s.canFrameReceived p f = b := by
  subst marked
  have live : (decide (s.cState p = 2) || decide (s.cState p = 3)) = true := by simpa using communicates
  have notRestricted : ¬ s.cState p = 5 := by omega
  have notHigh : ¬ u.n CAN.REC p > 127 := by omega
  simp only [canFrameReceived, live, ref, counted, notHigh, notRestricted, lowered, room, entered, partners, hosts, Bool.true_or,
    Bool.not_true, Bool.or_self, Bool.false_eq_true, if_false, if_true]

theorem stopMatch_requests {f : CanRx} (matched : s.smMatches p f = true) :
    s.stopMatch p f = (s.setCan p { s.canP p with hits := ((s.canP p).hits + 1) % 65536 }).srcRequest (18 + p) := by
  simp only [stopMatch, matched, Bool.not_true, Bool.false_eq_true, if_false]

/-! ### Transmission and errors (R557 to R559, R561, R564, R565) -/

section
variable {k : Nat}

/-- The chosen buffer is emptied: `a`, `u` and `v` are the states when the delay is measured, when the frame is counted and when
TEC has fallen. -/
theorem canTxDone_empties {b : CanBuf} {a u v : State} (may : s.canMaySend p = true) (chosen : s.canChoice p = some k)
    (filled : (s.canP p).buf k = some b) (measured : s.canTdc p b.f = a)
    (counted : (a.setCan p { (a.canP p).setBuf k none with first := false }).inc CAN.TXFR p = u)
    (lowered : u.setErr p (u.n CAN.TEC p - 1) (u.n CAN.REC p) = v) : s.canTxDone p = canPump 256 (v.canLoad p) := by
  simp only [canTxDone, may, chosen, filled, measured, counted, lowered, Bool.not_true, Bool.false_eq_true, if_false]

theorem canError_raises {dt dr : Nat} {u : State} (communicates : s.cState p = 2 ∨ s.cState p = 3) (ref : s.tb.refok = true)
    (counted : s.inc CAN.ERRCNT p = u) :
    s.canError p false false dt dr = u.setErr p (u.n CAN.TEC p + dt) (u.n CAN.REC p + dr) := by
  have live : (decide (s.cState p = 2) || decide (s.cState p = 3)) = true := by simpa using communicates
  have notRestricted : ¬ s.cState p = 5 := by omega
  simp only [canError, live, ref, counted, notRestricted, Bool.false_and, Bool.not_false, Bool.true_or, Bool.not_true,
    Bool.or_self, Bool.false_eq_true, if_false, if_true]

theorem busOffRecovery_returns {u : State} (busOff : s.cState p = 4) (counts : (s.canP p).count = true)
    (reset : ((s.put CAN.TEC p 0).put CAN.REC p 0).put CAN.RECSEQ p 128 = u) :
    s.busOffRecovery p =
      let v := u.setCan p { s.canP p with count := false, susp := false, first := true }
      v.canTo p (if v.b CAN.RESTR p then 5 else 2) := by
  have kept : u.canP p = s.canP p := by
    subst reset
    rfl
  simp only [busOffRecovery, busOff, counts, reset, bne_self_eq_false, Bool.not_true, Bool.or_self, Bool.false_eq_true, if_false]
  rw [kept]

/-- A window of `k` cycles from the last event, if there was one, has passed. -/
theorem window_passed {last : Option Nat} {now k : Nat} (passed : ∀ t, last = some t → t + k ≤ now) :
    last.any (fun t => decide (now < t + k)) = false := by
  cases last with
  | none => rfl
  | some t => exact decide_eq_false (Nat.not_lt.mpr (passed t rfl))

theorem protocolException_reports {u : State} (communicates : s.cState p = 2 ∨ s.cState p = 3 ∨ s.cState p = 5)
    (classical : s.b CAN.FDEN p = false) (enabled : s.b CAN.PEXC p = true) (entered : (s.inc CAN.PEXCCNT p).canTo p 1 = u)
    (seldom : ∀ t, (u.canP p).pexAt = some t → t + cyclesPerS ≤ u.tb.cycles) :
    s.protocolException p = (u.setCan p { u.canP p with pexAt := some u.tb.cycles }).portFault 0x6104 p 0 := by
  have live : (decide (s.cState p = 2) || decide (s.cState p = 3) || decide (s.cState p = 5)) = true := by
    simpa [or_assoc] using communicates
  simp only [protocolException, live, classical, enabled, entered, window_passed seldom, Bool.not_true, Bool.or_self, Bool.false_eq_true,
    if_false]

theorem busIntegration_joins {u : State} (integrates : s.cState p = 1) (ref : s.tb.refok = true)
    (first : s.setCan p { s.canP p with first := true } = u) :
    s.busIntegration p = u.canTo p (if u.b CAN.RESTR p then 5 else u.errState p) := by
  simp only [busIntegration, integrates, ref, first, bne_self_eq_false, Bool.not_true, Bool.or_self, Bool.false_eq_true, if_false]

theorem arbitrationLost_attempts (may : s.canMaySend p = true) (chosen : s.canChoice p = some k) :
    s.arbitrationLost p = ((s.setCan p { s.canP p with first := false }).inc CAN.ARBLOST p).canAttempt p k := by
  simp only [arbitrationLost, may, chosen, Bool.not_true, Bool.false_eq_true, if_false]

end

/-! ### Partners (R575, R577) -/

theorem partSilent_silences (enabled : s.b PART.EN p = true) (heard : (s.partX p).silent = false) :
    s.partSilent p =
      (((s.put PART.VALID p 0).setPart p { s.partX p with silent := true }).partFault 0x6301 p).partPolicy p := by
  simp only [partSilent, enabled, heard, Bool.not_true, Bool.or_self, Bool.false_eq_true, if_false]

theorem partEnableTimeout_faults (waits : (s.partX p).wait = true) :
    s.partEnableTimeout p = (s.setPart p { s.partX p with cen := false, wait := false }).partFault 0x6303 p := by
  simp only [partEnableTimeout, waits, Bool.not_true, Bool.false_eq_true, if_false]

/-! ### The remote reset (R648) -/

theorem canResetRequest_answers {f : CanRx} (frame : s.rstFrame p f 1 1 = true) (unrestricted : s.b CAN.RESTR p = false) :
    s.canResetRequest p f =
      let d := s.drawNonce (2 + p)
      (d.2.setCan p { d.2.canP p with rstep := 2, rsig := [] }).rstSend p ([2] ++ zeros 7 ++ le 16 d.1) := by
  simp only [canResetRequest, frame, unrestricted, Bool.not_true, Bool.or_self, Bool.false_eq_true, if_false]

theorem canResetSignature_keeps {f : CanRx} (step : (s.canP p).rstep = 2) (frame : s.rstFrame p f 48 3 = true) :
    s.canResetSignature p f = s.setCan p { s.canP p with rstep := 3, rsig := slice 16 32 f.data } := by
  simp only [canResetSignature, step, frame, decide_true, Bool.and_self, if_true]

/-- Frame 4 completes the signature `sig`; `a` is the verdict on it and the state that the check leaves. -/
theorem canResetSignature_checks {f : CanRx} {sig : Nat} {u : State} {a : Bool × State} (step : (s.canP p).rstep = 3)
    (frame : s.rstFrame p f 48 4 = true) (complete : unle ((s.canP p).rsig ++ slice 16 32 f.data).reverse = sig)
    (begun : s.setCan p { s.canP p with rstep := 0, rsig := [] } = u)
    (checked : u.authReset (2 + p) ((u.nonceOf (2 + p)).getD (2 ^ 128)) sig = a) :
    s.canResetSignature p f =
      if a.1 then (a.2.setCan p { a.2.canP p with rstep := 5 }).rstSend p ([5, 0] ++ zeros 6)
      else a.2.rstSend p ([5, 7] ++ zeros 6) := by
  have notFrame3 : ¬ (3 : Nat) = 2 := by decide
  simp only [canResetSignature, step, frame, complete, begun, checked, notFrame3, decide_false, decide_true, Bool.false_and,
    Bool.and_self, Bool.false_eq_true, if_false, if_true]
  cases a.1 <;> rfl

theorem canRemoteReset_resets (valid : (s.canP p).rstep = 5) : s.canRemoteReset p = s.doReset 0x25 := by
  simp only [canRemoteReset, valid, if_true]

end

/-- Settles O20: each command writes its row, and the row's operation accepts the write by its lemma above. -/
theorem canWritesComplete : Obligations.CanWritesComplete := by
  unfold Obligations.CanWritesComplete
  refine ⟨?enable, ?disable, ?recover, ?restrict, ?partner⟩
  case enable =>
    intro w s accepted z p off timing
    refine gives_rowWrite id rfl accepted ?_ (by decide)
    rw [memberOp_can_en]
    exact congrArg some (canEnable_integrates off timing)
  case disable =>
    intro w s accepted z p noDrive x u v
    refine gives_rowWrite State.settleStops rfl accepted ?_ (by decide)
    rw [memberOp_can_en]
    exact congrArg some (canDisable_flushes noDrive rfl rfl)
  case recover =>
    intro w s accepted z busOff
    refine gives_rowWrite id rfl accepted ?_ (by decide)
    rw [memberOp_can_recover, canRecover_counts busOff]
  case restrict =>
    intro w s accepted z communicates
    refine gives_rowWrite id rfl accepted ?_ (by decide)
    rw [memberOp_can_restr]
    exact congrArg some (restrWrite_restricts rfl communicates)
  case partner =>
    intro w s accepted z notDrive
    refine gives_rowWrite State.settleStops rfl accepted ?_ (by decide)
    rw [memberOp_part_en]
    exact congrArg some (partEnable_disables notDrive)

/-- Settles O30: each command is its operation, which runs to its end by its equation above. -/
theorem canEventsComplete : Obligations.CanEventsComplete := by
  unfold Obligations.CanEventsComplete
  refine ⟨?received, ?matched, ?sent, ?error, ?recovery, ?exception, ?integration, ?arbitration⟩
  case received =>
    intro port f s communicates ref u low v room g a b hosts
    exact gives_of_exec rfl
      (congrArg settleStops (canFrameReceived_enters communicates ref rfl low rfl room rfl rfl rfl hosts))
  case matched => exact fun port f s matched => gives_of_exec rfl (congrArg settleStops (stopMatch_requests matched))
  case sent =>
    intro port s k b may chosen filled a u v
    exact gives_of_exec rfl (canTxDone_empties may chosen filled rfl rfl rfl)
  case error =>
    intro port dt dr s communicates ref u
    exact gives_of_exec rfl (congrArg settleStops (canError_raises communicates ref rfl))
  case recovery =>
    intro port s busOff counts u v
    exact gives_of_exec rfl (busOffRecovery_returns busOff counts rfl)
  case exception =>
    intro port s communicates classical enabled u seldom
    exact gives_of_exec rfl (protocolException_reports communicates classical enabled rfl seldom)
  case integration =>
    intro port s integrates ref u
    exact gives_of_exec rfl (busIntegration_joins integrates ref rfl)
  case arbitration => exact fun port s k may chosen => gives_of_exec rfl (arbitrationLost_attempts may chosen)

/-- Settles O31: each command is its operation, which runs to its end by its equation above. -/
theorem partnerAndRemoteResetEventsComplete : Obligations.PartnerAndRemoteResetEventsComplete := by
  unfold Obligations.PartnerAndRemoteResetEventsComplete
  refine ⟨?silent, ?timeout, ?request, ?half, ?signature, ?reset⟩
  case silent => exact fun p s enabled heard => gives_of_exec rfl (congrArg settleStops (partSilent_silences enabled heard))
  case timeout => exact fun p s waits => gives_of_exec rfl (congrArg settleStops (partEnableTimeout_faults waits))
  case request =>
    intro port f s frame unrestricted d
    exact gives_of_exec rfl (canResetRequest_answers frame unrestricted)
  case half => exact fun port f s step frame => gives_of_exec rfl (canResetSignature_keeps step frame)
  case signature =>
    intro port f s step frame sig u a
    exact gives_of_exec rfl (canResetSignature_checks step frame rfl rfl rfl)
  case reset => exact fun port s valid => gives_of_exec rfl (canRemoteReset_resets valid)

end Sys2Proof.Proofs
end

section
/-! PROOF. OTP burns and the debug port (R615, R619, R628, R629): each command as an equation of its operation where its rule lets
it act. -/
namespace Sys2Proof.Proofs
open Machine Machine.State Claim Laws

section
variable {s : State}

/-! ### Burns and the debug unlock (R615, R629) -/

theorem otpBurnVerified_burns {k w : Nat} (burns : s.sec.burning = some (k, w)) :
    s.otpBurnVerified true = State.otpShow { s with sec := { s.sec with burning := none }, otp := burnField s.otp k w } := by
  simp only [otpBurnVerified, burns, if_true]

/-- A signature over the debug nonce is checked in SERVICE; `a` is the verdict and the state that the check leaves. -/
theorem debugUnlock_checks {sig n : Nat} {a : Bool × State} (service : s.life = 3) (ready : s.ready = true)
    (nonce : (s.nonceOf 6).getD (2 ^ 128) = n)
    (checked : s.authorise 6 n (authHead n ++ [0x44, 0x42, 0x47]) (s.otpKey 4) sig true = a) :
    s.debugUnlock sig =
      if a.1 then State.alarm { a.2 with sec := { a.2.sec with debug := true } } 0xA601 noInst [61] 0 0x20
      else { a.2 with sec := { a.2.sec with dbgFail := a.2.sec.dbgFail + 1 } } := by
  simp only [debugUnlock, service, ready, nonce, checked, bne_self_eq_false, Bool.not_true, Bool.or_self, Bool.false_eq_true,
    if_false]

/-! ### The debug port (R610, R628) -/

theorem debugAccess_readNonce (service : s.life = 3) (released : 4 ≤ s.up.phase) :
    s.debugAccess .readNonce = (s.drawNonce 6).2.dbgData (s.drawNonce 6).1 := by
  simp only [debugAccess, service, released, decide_true, Bool.and_self, if_true]

theorem debugAccess_halt {on : Bool} (both : s.dbgWorld = some true) :
    s.debugAccess (.halt on) = { s with sec := { s.sec with dbgHalt := on } } := by
  simp only [debugAccess, both, if_true]

section
variable {c : DebugMem} {a v : Nat} {w : Bool}

theorem debugAccess_writeRam (access : s.dbgWorld = some w) (allowed : w = true ∨ s.ramSecure c (a % ramSize c) = false) :
    s.debugAccess (.writeRam c a v) = s.ramPut c (a % ramSize c) (BitVec.ofNat 8 v) := by
  simp only [debugAccess, access, not_and_eq_false allowed, Bool.false_eq_true, if_false]

theorem debugAccess_readRam (access : s.dbgWorld = some w) (allowed : w = true ∨ s.ramSecure c (a % ramSize c) = false) :
    s.debugAccess (.readRam c a) = s.dbgData (s.ramByte c (a % ramSize c)).toNat := by
  simp only [debugAccess, access, not_and_eq_false allowed, Bool.false_eq_true, if_false]

theorem debugAccess_readReg (access : s.dbgWorld = some w) : s.debugAccess (.readReg a) = s.dbgRead w a := by
  simp only [debugAccess, access]

theorem debugAccess_writeReg (access : s.dbgWorld = some w) : s.debugAccess (.writeReg a v) = s.dbgWrite w a v := by
  simp only [debugAccess, access]

end
end

/-- Settles O40: each command is its operation, which runs to its end by its equation above; an instruction is loaded as the life
cycle has it in every state (`jtagDecode`). -/
theorem keyAndDebugEventsComplete : Obligations.KeyAndDebugEventsComplete := by
  unfold Obligations.KeyAndDebugEventsComplete
  refine ⟨?burn, ?unlock, ?load, ?nonce, ?halt, ?writeRam, ?readRam, ?readReg, ?writeReg⟩
  case burn => exact fun s k w burns => gives_of_exec rfl (otpBurnVerified_burns burns)
  case unlock =>
    intro sig s service ready n a u
    exact gives_of_exec rfl (debugUnlock_checks service ready rfl rfl)
  case load => exact fun i s => gives_of_exec rfl rfl
  case nonce => exact fun s service released => gives_of_exec rfl (debugAccess_readNonce service released)
  case halt => exact fun on s both => gives_of_exec rfl (debugAccess_halt both)
  case writeRam => exact fun c a v s w access allowed => gives_of_exec rfl (debugAccess_writeRam access allowed)
  case readRam => exact fun c a s w access allowed => gives_of_exec rfl (debugAccess_readRam access allowed)
  case readReg => exact fun a s w access => gives_of_exec rfl (debugAccess_readReg access)
  case writeReg => exact fun a v s w access => gives_of_exec rfl (debugAccess_writeReg access)

end Sys2Proof.Proofs
end

section
/-! PROOF. How requests are answered, refused and repeated (R517, R518, R544), and the device secret (R616), whose write meets both the
checks of every request and its own. -/
namespace Sys2Proof.Proofs
open Machine Machine.State Claim Laws

section
variable {s : State} {rq : Rq} {o : OpRule} {addr : Nat} {lenOk : Bool} {run : Bool → State → Reply × State}

/-! ### A request that runs -/

/-- A request whose work ends at once is answered at its own address with the work's status and payload. -/
theorem handle_replies {t : State} {st : Status} {data : List Byte} (accepted : runs s rq o = true) (len : lenOk = true)
    (answers : st ≠ .faultActive) (f : Nat := 0)
    (work : run (secured s rq) (taken s rq) = ({ st := st, data := data, fcode := f }, t)) :
    s.handle rq o addr lenOk run = answered s t rq o.code addr st data :=
  handle_answers accepted len work rfl answers

/-- A request whose work goes on waits for its completion with the work's status, address and payload. -/
theorem handle_waits {t : State} {st : Status} {data : List Byte} (accepted : runs s rq o = true) (len : lenOk = true)
    (answers : st ≠ .faultActive) (room : defersRoom s rq = true) (a : Option Nat := none)
    (work : run (secured s rq) (taken s rq) = ({ st := st, addr := a, data := data, defer := some .work }, t)) :
    s.handle rq o addr lenOk run = deferred s t rq o.code addr .work (some (st.code, a.getD addr, data)) :=
  handle_defers accepted len work rfl answers room

/-! ### A request of a window that has been taken (R518) -/

/-- The request has the ring, SEQ, OPCODE and CRC of one that is still deferred (R518). -/
def repeatsDeferred (z : State) (rq : Rq) (opcode : Nat) : Bool :=
  z.defers.any fun d => d.rq.ring == rq.ring && d.rq.seq == rq.seq && d.opcode == opcode && d.rq.crc == rq.crc

/-- The completed request that the window remembers under the SEQ, OPCODE and CRC of this one (R518). -/
def remembered (z : State) (rq : Rq) (opcode : Nat) : Option Remembered :=
  (z.dups.find [] rq.ring.val).find? fun d => d.seq == rq.seq && d.opcode == opcode && d.crc == rq.crc

/-- A request of a window whose opcode the windows take is a repeat of a deferred one, a repeat of a remembered one, or run. -/
theorem handle_window (takes : s.takes rq = true) (len : lenOk = true) (window : rq.ring.val ≠ 0) (windows : o.window = true) :
    s.handle rq o addr lenOk run =
      if repeatsDeferred (taken s rq) rq o.code then taken s rq
      else match remembered (taken s rq) rq o.code with
        | some d => (taken s rq).respond rq (dupFrame d.resp)
        | none => (taken s rq).runOp rq o addr run := by
  simp only [handle, takes, len, windows, window, Bool.not_true, Bool.or_self, Bool.false_eq_true, if_false]
  rfl

/-- A request whose SEQ and CRC no deferred request of its ring has repeats none. -/
theorem repeatsDeferred_of_fresh {z : State} (opcode : Nat)
    (fresh : ∀ d ∈ z.defers, ¬ (d.rq.ring = rq.ring ∧ d.rq.seq = rq.seq ∧ d.rq.crc = rq.crc)) :
    repeatsDeferred z rq opcode = false := by
  refine List.any_eq_false.mpr fun d mem same => fresh d mem ?_
  simp only [Bool.and_eq_true, beq_iff_eq] at same
  obtain ⟨⟨⟨ring, seq⟩, -⟩, crc⟩ := same
  exact ⟨ring, seq, crc⟩

/-- A request whose SEQ and CRC the window does not remember repeats none. -/
theorem remembered_of_fresh {z : State} (opcode : Nat)
    (fresh : ∀ d ∈ z.dups.find [] rq.ring.val, ¬ (d.seq = rq.seq ∧ d.crc = rq.crc)) : remembered z rq opcode = none := by
  refine List.find?_eq_none.mpr fun d mem same => fresh d mem ?_
  simp only [Bool.and_eq_true, beq_iff_eq] at same
  obtain ⟨⟨seq, -⟩, crc⟩ := same
  exact ⟨seq, crc⟩

/-- A fresh request of a window that a check bars is answered with the check's status. -/
theorem handle_barred {st : Status} (takes : s.takes rq = true) (len : lenOk = true) (window : rq.ring.val ≠ 0)
    (windows : o.window = true)
    (freshOpen : ∀ d ∈ (taken s rq).defers, ¬ (d.rq.ring = rq.ring ∧ d.rq.seq = rq.seq ∧ d.rq.crc = rq.crc))
    (fresh : ∀ d ∈ (taken s rq).dups.find [] rq.ring.val, ¬ (d.seq = rq.seq ∧ d.crc = rq.crc))
    (bars : (taken s rq).opBar rq o = some { st := st }) (notFault : st ≠ .faultActive) :
    s.handle rq o addr lenOk run = answered s (taken s rq) rq o.code addr st [] := by
  rw [handle_window takes len window windows, repeatsDeferred_of_fresh _ freshOpen, remembered_of_fresh _ fresh]
  simp only [runOp, bars, notFault, decide_false, Bool.false_and, Option.getD_none, Bool.false_eq_true, if_false]
  rfl

/-! ### The checks (R517, R544) -/

theorem opBar_deniedWorld (sec : rq.sec = true) (openRing : (s.ring rq.ring.val).world = false) :
    s.opBar rq o = some { st := .deniedWorld } := by
  simp only [opBar, sec, openRing, Bool.not_false, Bool.and_self, Bool.true_or, if_true]

theorem opBar_deniedLifecycle (secure : s.reqSecure rq = true) (life : s.life ∉ o.life) :
    s.opBar rq o = some { st := .deniedLifecycle } := by
  have world : (s.ring rq.ring.val).world = true := (Bool.and_eq_true_iff.mp secure).2
  have notListed : o.life.contains s.life = false := by simpa using life
  simp only [opBar, secure, world, notListed, Bool.not_true, Bool.not_false, Bool.and_false, Bool.or_self, Bool.false_eq_true,
    if_false, if_true]

/-- A write of members proceeds in MINT and in BLANK, FIELD and SERVICE at most. -/
theorem objLife_le (l : List Nat) {k : Nat} (listed : k ∈ s.objLife rq l) : k ≤ 3 := by
  unfold objLife at listed
  split at listed
  · simp only [writeLife, List.mem_cons, List.not_mem_nil, or_false] at listed
    omega
  · simp only [writeLife, List.mem_cons, List.not_mem_nil, or_false] at listed
    omega

end

theorem secured_iff (rq : Rq) (s : State) :
    secured s rq = true ↔ rq.sec = true ∧ ((taken s rq).ring (Fin.val rq.ring)).world = true :=
  Bool.and_eq_true_iff

/-- Settles O49: the world is `reqSecure` (`secured_iff`), a read of a secure block is refused in the open world
(`readMember_deniedWorld`), and SEC = 1 in an open ring is barred before the request runs (`handle_barred`). -/
theorem worldOfARequest : Obligations.WorldOfARequest := by
  unfold Obligations.WorldOfARequest
  refine ⟨secured_iff, ?read, ?denied⟩
  case read =>
    intro rq addr s m i x accepted found secure
    by_cases world : secured s rq = true
    · rw [if_pos world]
      refine gives_of_exec rfl (handle_replies accepted rfl (by decide) (work := ?_))
      simp only [readMember_reads found (.inl world)]
    · rw [if_neg world]
      refine gives_of_exec rfl (handle_replies accepted rfl (by decide) (work := ?_))
      simp only [Bool.eq_false_iff.mpr world, readMember_deniedWorld found secure]
  case denied =>
    intro rq s takes window z sec openRing freshOpen fresh
    constructor
    · intro addr
      exact gives_of_exec rfl
        (handle_barred takes rfl window rfl freshOpen fresh (opBar_deniedWorld sec openRing) (by decide))
    · intro q typed
      exact gives_of_exec rfl (congrArg settleStops
        (handle_barred takes typed window rfl freshOpen fresh (opBar_deniedWorld sec openRing) (by decide)))

/-- Settles O50: what a request of a window meets before it runs is `handle_window`. -/
theorem repeatedWriteIsNotRun : Obligations.RepeatedWriteIsNotRun := by
  unfold Obligations.RepeatedWriteIsNotRun
  constructor
  · intro rq q s d takes window typed z notOpen found
    refine gives_of_exec rfl (congrArg settleStops ((handle_window takes typed window rfl).trans ?_))
    rw [show repeatsDeferred (taken s rq) rq 0x101 = false from notOpen,
      show remembered (taken s rq) rq 0x101 = some d from found]
    rfl
  · intro rq q s takes window typed z isOpen
    exact gives_of_exec rfl (congrArg settleStops ((handle_window takes typed window rfl).trans (if_pos isOpen)))

/-! ### The device secret (R616) -/

section
variable {s : State}

theorem dsgen_refuses_second (mint : s.life = 1) (programmed : s.otp.ds ≠ 0) : s.dsgen = (.badValue, s) := by
  have notBlank : (s.otp.ds != 0) = true := bne_iff_ne.mpr programmed
  simp only [dsgen, mint, notBlank, bne_self_eq_false, Bool.false_eq_true, if_false, if_true]

theorem dsgen_refuses_outside_mint (other : s.life ≠ 1) : s.dsgen = (.deniedLifecycle, s) := by
  have notMint : (s.life != 1) = true := bne_iff_ne.mpr other
  simp only [dsgen, notMint, if_true]

/-- What passes the checks on a write of a member that only the secure world writes comes from the secure world. -/
theorem secure_of_writeBar {sec : Bool} {addr ty i x : Nat} {v : Int} {m : Mem}
    (passes : s.writeBar sec addr ty v = .ok (m, i, x)) (kind : m.acc = .wos) : sec = true := by
  cases sec with
  | true => rfl
  | false =>
    unfold writeBar at passes
    split at passes
    · split at passes
      · cases passes
      · split at passes <;> cases passes
    · split at passes
      · cases passes
      · rename_i notDenied
        split at passes
        · cases passes
        · cases passes
          simp [kind] at notDenied

/-- A write of a row that runs passes the checks of points 5 to 7. -/
theorem writeBar_of_writes {w : Wq} {m : Mem} {v : Int} (accepted : writes s w m v = true) :
    (taken s w.rq).writeBar (secured s w.rq) (rowAddr m w.inst) w.ty v = .ok (m, w.inst, 0) := by
  unfold writes at accepted
  simp only [Bool.and_eq_true] at accepted
  obtain ⟨⟨⟨-, bar⟩, -⟩, -⟩ := accepted
  unfold secured
  split at bar
  · rename_i passed
    rw [passed, of_decide_eq_true bar]
  · cases bar

end

/-- Settles O51: the operation of DSGEN is `dsgen`; its member is one that only the secure world writes (`secure_of_writeBar`),
and in RETURN and VOID the request is barred before it runs (`handle_barred`). -/
theorem deviceSecretGeneration : Obligations.DeviceSecretGeneration := by
  unfold Obligations.DeviceSecretGeneration
  refine ⟨?draws, ?second, ?outside, ?secure, ?barred⟩
  case draws =>
    intro w s accepted z mint unprogrammed u
    refine gives_rowWrite id rfl accepted ?_ (by decide)
    rw [memberOp_sec_dsgen, dsgen_draws mint unprogrammed]
  case second =>
    intro w s accepted mint programmed
    refine gives_rowWrite id rfl accepted ?_ (by decide)
    rw [memberOp_sec_dsgen, dsgen_refuses_second mint programmed]
  case outside =>
    intro w s accepted other
    refine gives_rowWrite id rfl accepted ?_ (by decide)
    rw [memberOp_sec_dsgen, dsgen_refuses_outside_mint other]
  case secure => exact fun w s accepted => secure_of_writeBar (writeBar_of_writes accepted) rfl
  case barred =>
    intro w s takes typed window secure z life freshOpen fresh
    have notListed : z.life ∉ s.objLife w.rq [rowAddr SEC.DSGEN w.inst] := by
      intro listed
      have := objLife_le _ listed
      omega
    exact gives_of_exec rfl
      (handle_barred takes typed window rfl freshOpen fresh (opBar_deniedLifecycle secure notListed) (by decide))

end Sys2Proof.Proofs
end

section
/-! PROOF. The system, read and write requests (R530 to R533, R597, R619): each with the work that it does once it is taken, and
its answer by `handle_replies`. -/
namespace Sys2Proof.Proofs
open Machine Machine.State Claim Laws

section
variable {s : State} {rq : Rq} {addr n : Nat}

/-! ### Reads (R531 to R533) -/

theorem objRead_answers {t : Ty} {v : Int} (accepted : runs s rq { code := 0x100, life := readLife } = true)
    (reads : (taken s rq).readMember (secured s rq) addr = .ok (t, v)) :
    s.objRead rq addr = answered s (taken s rq) rq 0x100 addr .ok ([BitVec.ofNat 8 t.code, 0] ++ valBytes t v) :=
  handle_replies accepted rfl (by decide) (work := by simp only [reads])

/-- A block of elements that fit the payload, that exist and that may be read is answered whole. -/
theorem blockRead_answers {t : Ty} {v : Int} {l : List Byte} {k : Nat}
    (accepted : runs s rq { code := 0x104, life := readLife } = true)
    (reads : (taken s rq).readMember (secured s rq) addr = .ok (t, v)) (kind : t ≠ .o16) (fits : n * t.bytes ≤ 1020)
    (exist : n ≤ (taken s rq).elemsFrom addr) (elements : (taken s rq).readElems (secured s rq) addr n = (l, k, .ok)) :
    s.blockRead rq addr n =
      answered s (taken s rq) rq 0x104 addr .ok ([BitVec.ofNat 8 t.code, 0] ++ le 2 k ++ l) := by
  refine handle_replies accepted rfl (by decide) (work := ?_)
  have room : ¬ 1020 < n * t.bytes := by omega
  have all : ¬ (taken s rq).elemsFrom addr < n := by omega
  cases t with
  | o16 => exact absurd rfl kind
  | _ => simp only [reads, room, all, elements, Nat.min_eq_left exist, decide_true, decide_false, Bool.and_false,
      Bool.false_eq_true, if_false, if_true]

/-- The rows of class `c` that has an object `i` and that end above the number `k`, in the order of their numbers; the first
`n` of them. -/
def rowsFrom (c i k n : Nat) : List Mem :=
  ((((classRows c).filter fun m => decide (m.lo ≤ i) && decide (i < m.lo + m.n) && decide (k < m.num + m.cnt)).foldl
    (fun l m => insertRow m l) []).take n)

theorem dictRead_answers {c i : Nat} {rows : List Mem} (accepted : runs s rq { code := 0x106, life := readLife } = true)
    (cls : addr / 16777216 = c) (inst : addr / 4096 % 4096 = i) (found : rowsFrom c i (addr % 4096) n = rows)
    (least : 1 ≤ n) (most : n ≤ 31) (present : hasInst c i = true)
    (world : secured s rq = true ∨ rows.all (fun m => !(taken s rq).blockSecure (blockOf m (i - m.lo))) = true) :
    s.dictRead rq addr n = answered s (taken s rq) rq 0x106 addr .ok
      (le 2 rows.length ++ zeros 2 ++ (rows.map fun m => descriptor m (i - m.lo)).flatten) := by
  subst found
  have unbarred : (!secured s rq && (rowsFrom c i (addr % 4096) n).any
      fun m => (taken s rq).blockSecure (blockOf m (i - m.lo))) = false := by
    refine not_and_eq_false (world.imp_right fun openBlocks => ?_)
    rwa [← List.not_any_eq_all_not, Bool.not_eq_true'] at openBlocks
  have inRange : (decide (n = 0) || decide (31 < n)) = false := or_decide_eq_false (by omega) (by omega)
  unfold rowsFrom at unbarred
  refine handle_replies accepted rfl (by decide) (work := ?_)
  simp only [cls, inst, present, unbarred, inRange, Bool.not_true, Bool.false_eq_true, if_false]
  rfl

theorem reqRegRead_answers {r : Status × List Nat × State}
    (accepted : runs s rq { code := 0x300, life := readLife, moth := true } = true) (least : 1 ≤ n) (most : n ≤ 255)
    (reads : (taken s rq).regRead (secured s rq) addr n = r) (ok : r.1 = .ok) :
    s.reqRegRead rq addr n = answered s r.2.2 rq 0x300 addr .ok ((r.2.1.map (le 4)).flatten) := by
  have inRange : (decide (n = 0) || decide (255 < n)) = false := or_decide_eq_false (by omega) (by omega)
  refine handle_replies accepted rfl (by decide) (work := ?_)
  simp only [inRange, reads, ok, Bool.false_eq_true, if_false]

/-! ### Writes (R531, R533) -/

theorem objWrite_answers {item : PsetItem} {t : State}
    (accepted : runs s rq { code := 0x101, life := s.objLife rq [item.addr] } = true) (typed : (tyOf item.ty).isSome = true)
    (writes : (taken s rq).writeItem (secured s rq) item = (.ok, t)) :
    s.objWrite rq item = answered s t rq 0x101 item.addr .ok [] :=
  handle_replies accepted typed (by decide) ((taken s rq).faultAt item.addr) (work := by simp only [writes])

theorem objWriteMulti_answers {items : List PsetItem} {t : State}
    (accepted : runs s rq { code := 0x103, life := s.objLife rq (items.map (·.addr)) } = true) (least : 1 ≤ items.length)
    (most : items.length ≤ 85)
    (writes : (taken s rq).writeItems (secured s rq) items 0 .ok = (items.length, .ok, none, t)) :
    s.objWriteMulti rq items = answered s t rq 0x103 0 .ok (le 2 items.length ++ zeros 2) := by
  exact handle_replies accepted (and_decide_eq_true least most) (by decide) (t.faultAt 0)
    (work := by simp only [writes, Option.getD_none])

/-- The items of a block write: its values at the elements from `addr` on. -/
def blockItems (addr ty : Nat) (vals : List Int) : List PsetItem :=
  (List.range vals.length).map fun k => { addr := addr + k, ty := ty, v := vals.getD k 0 }

/-- A block of values that fit the payload and whose elements exist is written item after item. -/
theorem blockWrite_answers {ty size : Nat} {vals : List Int} {t : State}
    (accepted : runs s rq { code := 0x105, life := s.objLife rq [addr] } = true) (typed : (tyOf ty).map Ty.bytes = some size)
    (fits : vals.length * size ≤ 1020) (kind : ty ≠ Ty.o16.code) (exist : vals.length ≤ (taken s rq).elemsFrom addr)
    (nonempty : vals ≠ [])
    (writes : (taken s rq).writeItems (secured s rq) (blockItems addr ty vals) 0 .ok = (vals.length, .ok, none, t)) :
    s.blockWrite rq addr ty vals = answered s t rq 0x105 addr .ok (le 2 vals.length ++ zeros 2) := by
  obtain ⟨y, found, rfl⟩ := Option.map_eq_some_iff.mp typed
  have positive := List.length_pos_iff.mpr nonempty
  have noBar : (decide ((taken s rq).elemsFrom addr = 0) || decide (ty = Ty.o16.code)) = false :=
    or_decide_eq_false (by omega) kind
  have all : ¬ (taken s rq).elemsFrom addr < vals.length := by omega
  unfold blockItems at writes
  refine handle_replies accepted (len := ?len) (by decide) (t.faultAt addr) (work := ?work)
  case len => simpa only [found, decide_eq_true_eq] using fits
  case work =>
    simp only [noBar, Nat.min_eq_left exist, writes, all, decide_false, Bool.and_false, Bool.false_eq_true, if_false]

theorem reqRegWrite_answers {mask value v : Nat} {sec : Bool} {t : State}
    (window : [24, 28, 29, 30, 31].contains ((windowOf addr).getD 0) = sec)
    (accepted : runs s rq { code := 0x301, secure := sec, life := if sec then [0, 3] else writeLife } = true)
    (writes : (taken s rq).regWrite (secured s rq) addr (mask % 2 ^ 32) (value % 2 ^ 32) = (.ok, v, t)) :
    s.reqRegWrite rq addr mask value = answered s t rq 0x301 addr .ok (le 4 v) := by
  subst window
  exact handle_replies accepted rfl (by decide) ((taken s rq).regFault addr) (work := by simp only [writes]; rfl)

end

/-- Settles O9: each command is a request whose work is its payload and, for CHALLENGE, the draw of a nonce. -/
theorem systemRequestsComplete : Obligations.SystemRequestsComplete := by
  unfold Obligations.SystemRequestsComplete
  refine ⟨?nop, ?ident, ?status, ?challenge, ?ledger⟩
  case nop =>
    exact fun rq l s accepted fits =>
      gives_of_exec rfl (handle_replies accepted (decide_eq_true fits) (by decide) (work := rfl))
  case ident => exact fun rq s accepted => gives_of_exec rfl (handle_replies accepted rfl (by decide) (work := rfl))
  case status => exact fun rq s accepted => gives_of_exec rfl (handle_replies accepted rfl (by decide) (work := rfl))
  case challenge =>
    intro rq s accepted d
    exact gives_of_exec rfl (handle_replies accepted rfl (by decide) (work := rfl))
  case ledger =>
    exact fun rq recno n s accepted => gives_of_exec rfl (handle_replies accepted rfl (by decide) (work := rfl))

/-- Settles O10: each command is its request, which runs by its equation above. -/
theorem readRequestsComplete : Obligations.ReadRequestsComplete := by
  unfold Obligations.ReadRequestsComplete
  refine ⟨?one, ?list, ?block, ?descriptors, ?registers⟩
  case one => exact fun rq addr s t v accepted reads => gives_of_exec rfl (objRead_answers accepted reads)
  case list =>
    intro rq addrs s accepted least most
    exact gives_of_exec rfl (handle_replies accepted (and_decide_eq_true least most) (by decide) (work := rfl))
  case block =>
    intro rq addr n s t v l k accepted reads kind fits exist elements
    exact gives_of_exec rfl (blockRead_answers accepted reads kind fits exist elements)
  case descriptors =>
    intro rq addr n s accepted least most i rows present world
    exact gives_of_exec rfl (dictRead_answers accepted rfl rfl rfl least most present world)
  case registers =>
    intro rq addr n s accepted least most r ok
    exact gives_of_exec rfl (reqRegRead_answers accepted least most rfl ok)

/-- Settles O11: each command is its request, which runs by its equation above. -/
theorem writeRequestsComplete : Obligations.WriteRequestsComplete := by
  unfold Obligations.WriteRequestsComplete
  refine ⟨?one, ?list, ?block, ?register⟩
  case one =>
    intro rq item s t accepted typed writes
    exact gives_of_exec rfl (congrArg settleStops (objWrite_answers accepted typed writes))
  case list =>
    intro rq items s t accepted least most writes
    exact gives_of_exec rfl (congrArg settleStops (objWriteMulti_answers accepted least most writes))
  case block =>
    intro rq addr ty vals s t size accepted typed fits kind exist nonempty writes
    exact gives_of_exec rfl
      (congrArg settleStops (blockWrite_answers accepted typed fits kind exist nonempty writes))
  case register =>
    intro rq addr mask value s t v sec accepted writes
    exact gives_of_exec rfl (congrArg settleStops (reqRegWrite_answers rfl accepted writes))

end Sys2Proof.Proofs
end

section
/-! PROOF. The requests of cells, CAN and ring 0, the deferred completion and the bad frame (R388, R515, R519, R534, R536, R562):
each with the work that it does once it is taken. -/
namespace Sys2Proof.Proofs
open Machine Machine.State Claim Laws

section
variable {s : State} {rq : Rq}

/-! ### Cells (R388, R534) -/

/-- A request of a cell that may run opens the transaction of its ring, and waits for the cell. -/
theorem cellSvc_opens {r op slot addr : Nat} {data : List Byte} {q : Svc}
    (accepted : runs s rq { code := 0x401, life := writeLife } = true) (fits : data.length ≤ 116)
    (world : secured s rq = true ∨ ((taken s rq).blockSecure 19 = false ∧ (taken s rq).life ≠ 2)) (ring : r < 4)
    (cell : slot < (taken s rq).n RING.NCELL r) (free : ((taken s rq).link r).svc = none)
    (linked : (taken s rq).rState r = 3 ∨ (taken s rq).rState r = 4) (room : defersRoom s rq = true)
    (opened : { slot := slot, tid := ((taken s rq).link r).tid, op := op, addr := addr, data := data } = q) :
    s.cellSvc rq r op slot addr data =
      deferred s ((taken s rq).setLink r
        { (taken s rq).link r with svc := some q, tid := (((taken s rq).link r).tid + 1) % 256 }) rq 0x401 0 (.cellSvc r) none := by
  subst opened
  have unbarred : (!secured s rq && ((taken s rq).blockSecure 19 ||
      (decide ((taken s rq).life = 2) && (decide (op = 2) || decide (op = 3))))) = false := by
    refine not_and_eq_false (world.imp_right ?_)
    rintro ⟨openBlock, notField⟩
    rw [openBlock, decide_eq_false notField, Bool.false_and, Bool.or_self]
  have inRange : (decide (4 ≤ r) || decide ((taken s rq).n RING.NCELL r ≤ slot)) = false :=
    or_decide_eq_false (by omega) (by omega)
  have communicates : ((taken s rq).rState r != 3 && (taken s rq).rState r != 4) = false := by
    rcases linked with blocking | running
    · rw [blocking]; rfl
    · rw [running]; rfl
  refine handle_defers (r := { st := .ok, defer := some (.cellSvc r) }) accepted (decide_eq_true fits) ?_ rfl nofun room
  simp only [unbarred, inRange, free, communicates, Option.isSome_none, Bool.false_eq_true, if_false]

/-- What the reply of a cell leaves of its transaction `q`: the delays that it measured, or the cell that it restarted. -/
def cellReplied (s : State) (r rsts : Nat) (q : Svc) : State :=
  let i := 384 * r + q.slot
  let x := s.cellCtl i
  let f := (Config.cellDelayA x.uid).toNat + (Config.cellDelayB x.uid).toNat
  if rsts ≠ 0 then s
  else if q.op = 2 && q.addr = 0x100 then
    let d : Int := 4 * unle (q.data.take 4)
    s.setCellCtl i { x with dA := some d, dB := some (4 * unle (slice 16 4 x.hdr) - 2 * f - d) }
  else if q.op = 3 then s.setCellCtl i (cellRestart x true)
  else s

/-- The end of a transaction: the ring is free for the next, and the request that waits for this one has its response. -/
theorem cellSvcDone_ends {r rsts : Nat} {data : List Byte} {q : Svc} {v u : State} (opened : (s.link r).svc = some q)
    (replied : cellReplied s r rsts q = v) (ended : v.setLink r { v.link r with svc := none } = u) :
    s.cellSvcDone r rsts data =
      { u with defers := u.defers.map fun d =>
          if d.kind = .cellSvc r then
            { d with done := some (Status.ok.code, d.addr, le 1 rsts ++ le 1 data.length ++ zeros 2 ++ data.take 116) }
          else d } := by
  subst replied ended
  simp only [cellSvcDone, opened, cellReplied, bne_iff_ne]

/-! ### CAN and ring 0 (R536, R562) -/

theorem canTx_stages {port flags id : Nat} {data : List Byte} {t : State}
    (accepted : runs s rq { code := 0x402, life := writeLife } = true) (fits : data.length ≤ 64)
    (world : secured s rq = true ∨ ((taken s rq).blockSecure 20 = false ∧ bit flags 3 = false))
    (permitted : (taken s rq).canTxOk port flags id data.length = true) (on : (taken s rq).g CAN.STATE port ≠ 0)
    (sent : (taken s rq).canSend { port := port, flags := flags, id := id, data := data } = (t, true)) :
    s.canTx rq port flags id data = answered s t rq 0x402 0 .ok [] := by
  have unbarred : (!secured s rq && ((taken s rq).blockSecure 20 || bit flags 3)) = false :=
    not_and_eq_false (world.imp_right Bool.or_eq_false_iff.mpr)
  refine handle_replies accepted (decide_eq_true fits) (by decide) (work := ?_)
  simp only [unbarred, permitted, on, sent, Bool.not_true, Bool.false_eq_true, if_false, if_true]

theorem reqStop_stops {axes cat scope : Nat}
    (accepted : runs s rq { code := 0x700, ring0 := true, window := false, life := anyLife, moth := true } = true)
    (category : cat ≤ 2) (scopes : scope ≤ 1) :
    s.reqStop rq axes cat scope =
      answered s ((taken s rq).ringStop (if scope = 0 then 0xFFFF else axes % 65536) cat) rq 0x700 0 .ok [] := by
  have inRange : (decide (2 < cat) || decide (1 < scope)) = false := or_decide_eq_false (by omega) (by omega)
  refine handle_replies accepted rfl (by decide) (work := ?_)
  simp only [inRange, Bool.false_eq_true, if_false]

theorem reqEmode_requests {axes mode : Nat}
    (accepted : runs s rq { code := 0x701, ring0 := true, window := false, secure := true, life := writeLife } = true)
    (least : 2 ≤ mode) (most : mode ≤ 4) :
    s.reqEmode rq axes mode = answered s ((taken s rq).ringEmode (axes % 65536) mode) rq 0x701 0 .ok [] := by
  have inRange : (decide (mode < 2) || decide (4 < mode)) = false := or_decide_eq_false (by omega) (by omega)
  refine handle_replies accepted rfl (by decide) (work := ?_)
  simp only [inRange, Bool.false_eq_true, if_false]

/-! ### Completion and bad frames (R515, R519) -/

/-- The response of a deferred request whose work has ended enters its ring, where it is not withheld. -/
theorem deferredCompletion_responds {k st addr : Nat} {d : Deferred} {data f : List Byte} (waits : s.defers[k]? = some d)
    (done : d.done = some (st, addr, data)) (ready : s.ready = true) (awake : s.n POWER.PSTATE ≤ 2)
    (room : s.hasRoom (5 + s.portOf d.rq) = true) (kind : d.kind = .work) (told : d.rq.quiet = false ∨ 1 < st)
    (frame : frameBytes (respFlags d.rq d.secure true) d.rq.seq d.opcode st addr data = f) :
    s.deferredCompletion k =
      (State.respond { s with defers := s.defers.eraseIdx k } d.rq f).remember d.rq d.opcode f := by
  have notAsleep : ¬ 2 < s.n POWER.PSTATE := by omega
  have notWithheld : (d.rq.quiet && decide (st ≤ 1)) = false := by
    rcases told with loud | refused
    · rw [loud, Bool.false_and]
    · rw [decide_eq_false (Nat.not_le.mpr refused), Bool.and_false]
  simp only [deferredCompletion, waits, done, ready, notAsleep, room, kind, notWithheld, frame, decide_false, Bool.not_true,
    Bool.or_self, Bool.false_eq_true, if_false]

theorem badFrame_refuses {op : Nat} (takes : s.takes rq = true) :
    s.badFrame rq op = ((taken s rq).inc SYS.BADFRM).respond rq
      (frameBytes (respFlags rq (secured s rq) false) rq.seq op Status.badFrame.code 0 []) := by
  simp only [badFrame, takes, Bool.not_true, Bool.false_eq_true, if_false]
  rfl

end

/-- Settles O12: each command is its request, which runs by its equation above. -/
theorem directRequestsComplete : Obligations.DirectRequestsComplete := by
  unfold Obligations.DirectRequestsComplete
  refine ⟨?cell, ?cellDone, ?can, ?stop, ?emergency⟩
  case cell =>
    intro rq r op slot addr data s accepted fits z world ring cell free linked room q
    exact gives_of_exec rfl (cellSvc_opens accepted fits world ring cell free linked room rfl)
  case cellDone =>
    intro ring rsts data s opened v u pay
    obtain ⟨q, found⟩ := Option.isSome_iff_exists.mp opened
    have replied : cellReplied s ring.val rsts q = v := by
      subst v
      rw [found]
      rfl
    exact gives_of_exec rfl (cellSvcDone_ends found replied rfl)
  case can =>
    intro rq port flags id data s t accepted fits z world permitted on sent
    exact gives_of_exec rfl (canTx_stages accepted fits world permitted on sent)
  case stop =>
    intro rq axes cat scope s accepted category scopes
    exact gives_of_exec rfl (congrArg settleStops (reqStop_stops accepted category scopes))
  case emergency =>
    intro rq axes mode s accepted least most
    exact gives_of_exec rfl (congrArg settleStops (reqEmode_requests accepted least most))

/-- Settles O14: each command is its operation, which runs to its end by its equation above. -/
theorem deferredAndBadFramesComplete : Obligations.DeferredAndBadFramesComplete := by
  unfold Obligations.DeferredAndBadFramesComplete
  constructor
  · intro k s d st addr data waits done ready awake room kind told f
    exact gives_of_exec rfl (deferredCompletion_responds waits done ready awake room kind told rfl)
  · exact fun rq op s takes => gives_of_exec rfl (badFrame_refuses takes)

end Sys2Proof.Proofs
end

section
/-! PROOF. The parameter-set requests (R537 to R542): each with the work that it does once it is taken. -/
namespace Sys2Proof.Proofs
open Machine Machine.State Claim Laws

section
variable {s : State} {rq : Rq} {h slot : Nat} {p : Pset}

theorem psetOpen_opens (accepted : runs s rq { code := 0x200, life := writeLife } = true) (closed : (taken s rq).pset = none) :
    s.psetOpen rq = answered s
      { taken s rq with
        psetNo := (taken s rq).nextHandle
        pset := some { handle := (taken s rq).nextHandle, port := (taken s rq).portOf rq, secure := secured s rq } }
      rq 0x200 0 .ok (le 2 (taken s rq).nextHandle ++ zeros 2) := by
  refine handle_replies accepted rfl (by decide) (work := ?_)
  simp only [closed, Option.isSome_none, Bool.false_eq_true, if_false]

/-- Items that follow those of the set and that nothing refuses are staged, and the set is to be verified anew. -/
theorem psetStage_appends {first : Nat} {l items : List PsetItem} (accepted : runs s rq { code := 0x201, life := writeLife } = true)
    (least : 1 ≤ l.length) (most : l.length ≤ 85) (set : (taken s rq).psetBar rq (secured s rq) h = .ok p)
    (next : first = p.items.length) (fits : first + l.length ≤ 4096)
    (staged : (taken s rq).stageItems (secured s rq) p.items l = (items, none)) :
    s.psetStage rq h first l = answered s
      { taken s rq with pset := some { p with items := items, verified := false, sigValid := false } }
      rq 0x201 0 .ok (le 2 items.length ++ zeros 2) := by
  have inTurn : (first != p.items.length || decide (4096 < first + l.length)) = false := by
    rw [bne_eq_false_iff_eq.mpr next, decide_eq_false (by omega)]
    rfl
  refine handle_replies accepted (and_decide_eq_true least most) (by decide) (work := ?_)
  simp only [set, inTurn, staged, Bool.false_eq_true, if_false]

/-- A set that needs no signature, whose items nothing refuses and whose tasks are admitted, is verified. -/
theorem psetVerify_verifies (accepted : runs s rq { code := 0x202, life := writeLife } = true)
    (set : (taken s rq).psetBar rq (secured s rq) h = .ok p) (unsigned : (taken s rq).psetNeeds p.items = false)
    (good : p.items.all (fun q => ((taken s rq).itemBar (secured s rq) q).isNone) = true)
    (admitted : (taken s rq).psetAdmit p.items = none) (room : defersRoom s rq = true) :
    s.psetVerify rq h none = deferred s
      { taken s rq with pset := some { p with verified := true, sigNeeded := false, sigValid := false } }
      rq 0x202 0 .work (some (0, 0, le 2 p.items.length ++ zeros 2 ++ le 32 (setDigest p.items) ++
        le 4 (crc32c (setBytes' p.items)) ++ le 1 (psetFlags p.items false false) ++ zeros 3)) := by
  have noneBad : (p.items.any fun q => ((taken s rq).itemBar (secured s rq) q).isSome) = false := by
    simpa using good
  refine handle_waits (st := .ok) accepted rfl (by decide) room (work := ?_)
  simp only [set, unsigned, noneBad, admitted, Option.getD_none, Option.isSome_none, Bool.and_self, Bool.false_and,
    Bool.false_eq_true, if_false, decide_true]

/-- A verified set with the digest of the request is applied. -/
theorem psetCommit_applies {digest k : Nat} {st : Status} {a : Option Nat} {t : State}
    (accepted : runs s rq { code := 0x203, life := writeLife } = true)
    (set : (taken s rq).psetBar rq (secured s rq) h = .ok p)
    (signature : (taken s rq).psetNeeds p.items = false ∨ p.sigValid = true) (verified : p.verified = true)
    (same : setDigest p.items = digest) (applied : (taken s rq).psetApply (secured s rq) p.items = (st, a, k, t))
    (applies : st.accepted = true) (room : defersRoom s rq = true) :
    s.psetCommit rq h digest = deferred s t rq 0x203 0 .work (some (st.code, a.getD 0, le 2 k ++ zeros 2)) := by
  have notFault : st ≠ .faultActive := by
    rintro rfl
    cases applies
  refine handle_waits accepted rfl notFault room a (work := ?_)
  simp only [set, and_not_eq_false signature, verified, same, applied, bne_self_eq_false, Bool.not_true, Bool.or_self, Bool.false_eq_true, if_false]

theorem psetAbort_discards (accepted : runs s rq { code := 0x204, life := writeLife } = true)
    (set : (taken s rq).psetBar rq (secured s rq) h = .ok p) :
    s.psetAbort rq h = answered s { taken s rq with pset := none } rq 0x204 0 .ok [] :=
  handle_replies accepted rfl (by decide) (work := by simp only [set])

/-- A verified set goes into its slot, in the MRAM blocks that log 47 gives the slot. -/
theorem psetStore_stores {u : State} (accepted : runs s rq { code := 0x205, life := writeLife } = true)
    (set : (taken s rq).psetBar rq (secured s rq) h = .ok p) (slots : slot ≤ 3) (verified : p.verified = true)
    (room : defersRoom s rq = true)
    (stored : { taken s rq with mram := { (taken s rq).mram with
      psets := Tbl.ins ((taken s rq).mram.psets.filter fun e => e.1 != slot) slot
        { items := p.items, secure := p.secure, sigNeeded := p.sigNeeded, sigValid := p.sigValid } } } = u) :
    s.psetStore rq h slot = deferred s (u.mramWrite (528 + 16 * slot)) rq 0x205 0 .work (some (0, 0, [])) := by
  subst stored
  have inRange : (decide (3 < slot) || !p.verified) = false := by
    rw [verified, decide_eq_false (by omega)]
    rfl
  refine handle_waits (st := .ok) accepted rfl (by decide) room (work := ?_)
  simp only [set, inRange, Bool.false_eq_true, if_false]

section
variable {q : PsetSlot}

theorem psetLoad_fills (accepted : runs s rq { code := 0x206, life := writeLife } = true)
    (stored : (taken s rq).psetSlot slot = some q) (world : q.secure = secured s rq) (closed : (taken s rq).pset = none)
    (loaded : { handle := (taken s rq).nextHandle, port := (taken s rq).portOf rq, secure := q.secure, items := q.items } = p) :
    s.psetLoad rq slot = answered s { taken s rq with psetNo := (taken s rq).nextHandle, pset := some p } rq 0x206 0 .ok
      (le 2 (taken s rq).nextHandle ++ le 2 q.items.length) := by
  subst loaded
  refine handle_replies accepted rfl (by decide) (work := ?_)
  simp only [stored, world, closed, bne_self_eq_false, Option.isSome_none, Bool.false_eq_true, if_false]

theorem psetInfo_describes (accepted : runs s rq { code := 0x207, life := readLife } = true)
    (stored : (taken s rq).psetSlot slot = some q) :
    s.psetInfo rq slot = answered s (taken s rq) rq 0x207 0 .ok
      (le 2 q.items.length ++ le 1 (psetFlags q.items q.sigNeeded q.sigValid) ++ le 1 (b2n q.secure) ++
        le 32 (setDigest q.items)) :=
  handle_replies accepted rfl (by decide) (work := by simp only [stored])

end

theorem psetTimeout_discards (set : s.pset.isSome = true) :
    s.psetTimeout = State.ledger { s with pset := none } 0xF006 0xFFFF 2 := by
  have notNone : s.pset.isNone = false := by
    rw [← Option.not_isSome, set]
    rfl
  simp only [psetTimeout, notNone, Bool.false_eq_true, if_false]

end

/-- Settles O13: each command is its request or its operation, which runs by its equation above. -/
theorem parameterSetRequestsComplete : Obligations.ParameterSetRequestsComplete := by
  unfold Obligations.ParameterSetRequestsComplete
  refine ⟨?openSet, ?stage, ?verify, ?commit, ?abort, ?store, ?load, ?info, ?timeout⟩
  case openSet =>
    intro rq s accepted z closed
    exact gives_of_exec rfl (psetOpen_opens accepted closed)
  case stage =>
    intro rq h first l s p items accepted least most z set next fits staged
    exact gives_of_exec rfl (psetStage_appends accepted least most set next fits staged)
  case verify =>
    intro rq h s p accepted z set unsigned good admitted room
    exact gives_of_exec rfl (psetVerify_verifies accepted set unsigned good admitted room)
  case commit =>
    intro rq h digest s p st a k t accepted z set signature verified same applied applies room
    exact gives_of_exec rfl
      (congrArg settleStops (psetCommit_applies accepted set signature verified same applied applies room))
  case abort =>
    intro rq h s p accepted z set
    exact gives_of_exec rfl (psetAbort_discards accepted set)
  case store =>
    intro rq h slot s p accepted z set slots verified room q u
    exact gives_of_exec rfl (psetStore_stores accepted set slots verified room rfl)
  case load =>
    intro rq slot s q accepted z stored world closed p
    exact gives_of_exec rfl (psetLoad_fills accepted stored world closed rfl)
  case info => exact fun rq slot s q accepted stored => gives_of_exec rfl (psetInfo_describes accepted stored)
  case timeout => exact fun s set => gives_of_exec rfl (psetTimeout_discards set)

end Sys2Proof.Proofs
end

section
/-! PROOF. The VRA-1120 style requests, and the authenticated and firmware requests (R535, R543, R619, R622, R624): each with the
work that it does once it is taken. -/
namespace Sys2Proof.Proofs
open Machine Machine.State Claim Laws

section
variable {s : State} {rq : Rq}

/-! ### VRA-1120 compatibility (R543) -/

section
variable {addr x : Nat}

theorem v1Status_answers {v q : Int × State} (accepted : runs s rq { code := 0x800, life := readLife } = true)
    (axis : v1Addr addr 5 16 = some x) (world : secured s rq = true ∨ (taken s rq).blockSecure 5 = false)
    (speed : (taken s rq).perUnit ((taken s rq).f AXIS.SPD x) ((taken s rq).f AXIS.VMAX x) 16384 = v)
    (torque : v.2.perUnit ((taken s rq).f AXIS.TDEM x) ((taken s rq).f MACH.TRATED ((taken s rq).refm x)) 4096 = q) :
    s.v1Status rq addr = answered s q.2 rq 0x800 addr .ok
      (le 2 ((taken s rq).v1State x) ++ le 2 ((taken s rq).newestOf 5 x) ++ leInt 4 ((taken s rq).g AXIS.POS x / 65536) ++
        leInt 2 v.1 ++ leInt 2 q.1 ++ zeros 4) := by
  refine handle_replies accepted rfl (by decide) (work := ?_)
  simp only [axis, not_and_eq_false world, speed, torque, Bool.false_eq_true, if_false]

/-- A move that the request allows is staged, `c`, and its push is accepted. -/
theorem v1Move_pushes {ty flags : Nat} {speed target : Int} {a b c t : State}
    (accepted : runs s rq { code := 0x801, life := writeLife } = true) (axis : v1Addr addr 5 16 = some x)
    (world : secured s rq = true ∨ (taken s rq).blockSecure 5 = false)
    (limited : ((taken s rq).f AXIS.VMAX x).zero? = false) (least : 1 ≤ ty) (most : ty ≤ 3)
    (aimed : ((taken s rq).put PROF.TYPE x ty).put PROF.TARGET x (target * 65536) = a)
    (profiled : (((a.putF PROF.VEL x (((F32.ofInt speed).mul ((taken s rq).f AXIS.VMAX x)).mul (F32.ofFrac 1 16384))).putF
      PROF.ACC x F32.zero).putF PROF.DEC x F32.zero).putF PROF.JERK x F32.zero = b)
    (tagged : (b.put PROF.FLAGS x (b.n PROF.FLAGS x - b.n PROF.FLAGS x % 2 + b2n (bit flags 1) : Nat)).put PROF.TAG x
      (rq.seq % 65536 : Nat) = c)
    (pushed : c.applyWrite (secured s rq) PROF.PUSH x 0 (if bit flags 0 then 2 else 1) = (.ok, t)) :
    s.v1Move rq addr ty flags speed target = answered s t rq 0x801 addr .ok [] := by
  have inRange : (((taken s rq).f AXIS.VMAX x).zero? || decide (ty < 1) || decide (3 < ty)) = false := by
    rw [limited, decide_eq_false (by omega), decide_eq_false (by omega)]
    rfl
  refine handle_replies accepted rfl (by decide) (c.newestOf 18 x) (work := ?_)
  simp only [axis, not_and_eq_false world, inRange, aimed, profiled, tagged, pushed, Bool.false_eq_true, if_false]

theorem v1Tune_reads {atd : Int} (accepted : runs s rq { code := 0x802, life := writeLife } = true)
    (loop : v1Addr addr 16 96 = some x) (tunable : (taken s rq).tunable x = true)
    (world : secured s rq = true ∨ (taken s rq).blockSecure 5 = false) :
    s.v1Tune rq addr 2 atd = answered s (taken s rq) rq 0x802 addr .ok
      (le 1 ((taken s rq).n LOOP.ATSTATE x) ++ zeros 3 ++ le 4 ((taken s rq).n LOOP.ATKPPU x) ++
        le 4 ((taken s rq).n LOOP.ATTI x)) := by
  have notCancel : ¬ (2 : Nat) = 0 := by decide
  refine handle_replies accepted rfl (by decide) (work := ?_)
  simp only [loop, tunable, not_and_eq_false world, notCancel, Bool.not_true, Bool.false_eq_true, if_false, if_true]

end

/-! ### The authenticated requests (R535, R619) -/

/-- RESET is granted or refused by the verdict `a` on its authorisation. -/
theorem reqReset_authorises {nonce sig : Nat} {a : Bool × State}
    (accepted : runs s rq { code := 0x600, life := anyLife, moth := true } = true)
    (verdict : (taken s rq).authReset ((taken s rq).portOf rq) nonce sig = a) :
    s.reqReset rq nonce sig =
      if a.1 then answered s { a.2 with up := { a.2.up with due := some 0x24 } } rq 0x600 0 .ok []
      else answered s a.2 rq 0x600 0 .badValue [] := by
  obtain ⟨ok, t⟩ := a
  cases ok with
  | true => exact handle_replies accepted rfl (by decide) (work := by simp only [resetRequest, verdict, if_true])
  | false =>
    exact handle_replies accepted rfl (by decide)
      (work := by simp only [resetRequest, verdict, Bool.false_eq_true, if_false])

theorem resetExecute_resets (due : s.up.due = some 0x24) : s.resetExecute = s.doReset 0x24 := by
  simp only [resetExecute, due, if_true]

/-! ### Firmware (R622) -/

/-- An image that fits begins in a slot that does not run; `a`, `b` and `c` are the states when an earlier one is discarded, when
the slot is INCOMPLETE and when the image is expected. -/
theorem reqFwBegin_begins {slot len ver : Nat} {a b c : State}
    (accepted : runs s rq { code := 0x601, secure := true, life := writeLife, moth := true } = true) (slots : slot ≤ 1)
    (least : 128 ≤ len) (most : len ≤ 1048512) (idle : (taken s rq).n SEC.FWSLOT ≠ slot)
    (discarded : (List.range 2).foldl (fun t j => if (t.slot j).stat = 1 then t.setSlot j {} else t) (taken s rq) = a)
    (incomplete : a.setSlot slot { stat := 1, length := len, version := ver } = b)
    (expected : { b with sec := { b.sec with fw := some (slot, len, ver) } } = c) :
    s.reqFwBegin rq slot len ver = answered s (c.mramWrite (256 * slot)) rq 0x601 0 .ok [] := by
  subst expected
  have notBad : ¬ 1 < slot := by omega
  have inRange : (decide (1048512 < len) || decide (len < 128)) = false := or_decide_eq_false (by omega) (by omega)
  refine handle_replies accepted rfl (by decide) (work := ?_)
  simp only [fwBegin, notBad, idle, inRange, discarded, incomplete, Bool.false_eq_true, if_false]

theorem reqFwData_appends {off i len ver : Nat} {data : List Byte}
    (accepted : runs s rq { code := 0x602, secure := true, life := writeLife, moth := true } = true) (least : 1 ≤ data.length)
    (most : data.length ≤ 1016) (begun : (taken s rq).sec.fw = some (i, len, ver))
    (next : off = ((taken s rq).slot i).bytes.length) (fits : off + data.length ≤ 1048512) :
    s.reqFwData rq off data = answered s
      (((taken s rq).setSlot i { (taken s rq).slot i with bytes := ((taken s rq).slot i).bytes ++ data }).mramWrite
        (256 * i + off / 4096)) rq 0x602 0 .ok [] := by
  have inTurn : (off != ((taken s rq).slot i).bytes.length || decide (1048512 < off + data.length)) = false := by
    rw [bne_eq_false_iff_eq.mpr next, decide_eq_false (by omega)]
    rfl
  refine handle_replies accepted (and_decide_eq_true least most) (by decide) (work := ?_)
  simp only [fwData, begun, inTurn, Bool.false_eq_true, if_false]

/-- What FW_END asks of an image, whose bytes are `l`, for a slot that it makes VALID. -/
def imageGood (z : State) (l : List Byte) (len ver digest sig : Nat) : Bool :=
  l.length = len && imgField l 4 4 = ver && imgField l 12 4 = len && (Config.sha256 l).toNat = digest &&
    Config.ecdsaVerify z.fwKey (Config.sha256 l) sig && z.otp.arb ≤ imgField l 8 1

/-- FW_END makes the slot VALID or REJECTED as its checks go; `u` is the state in which no image is expected, and `v` the one with
the VALID slot. -/
theorem reqFwEnd_finishes {digest sig i len ver : Nat} {l : List Byte} {u v : State}
    (accepted : runs s rq { code := 0x603, secure := true, life := writeLife, moth := true } = true)
    (begun : (taken s rq).sec.fw = some (i, len, ver)) (room : defersRoom s rq = true)
    (image : ((taken s rq).slot i).bytes = l) (ended : { taken s rq with sec := { (taken s rq).sec with fw := none } } = u)
    (valid : ((u.setSlot i { (taken s rq).slot i with stat := 2, sig := sig }).ledger 0xF005 0xFFFF i).mramWrite
      (256 * i + 255) = v) :
    s.reqFwEnd rq digest sig =
      if imageGood (taken s rq) l len ver digest sig then
        deferred s v rq 0x603 0 .work (some (Status.ok.code, 0, le 1 i ++ zeros 3 ++ le 4 ver))
      else
        deferred s (u.setSlot i { (taken s rq).slot i with stat := 3 }) rq 0x603 0 .work
          (some (Status.badValue.code, 0, [])) := by
  subst image ended valid
  cases good : imageGood (taken s rq) ((taken s rq).slot i).bytes len ver digest sig with
  | true =>
    unfold imageGood at good
    refine handle_waits accepted rfl (by decide) room (work := ?_)
    simp only [fwFinish, begun, good, Option.isNone_some, Bool.false_eq_true, if_false, if_true]
  | false =>
    unfold imageGood at good
    refine handle_waits accepted rfl (by decide) room (work := ?_)
    simp only [fwFinish, begun, good, Option.isNone_some, Bool.false_eq_true, if_false]

/-! ### Life-cycle changes (R624) -/

/-- A change that R623 allows and that nothing holds up is granted or refused by the verdict `a` on its authorisation. -/
theorem reqLife_authorises {target nonce sig : Nat} {a : Bool × State}
    (accepted : runs s rq { code := 0x604, secure := true, life := anyLife } = true)
    (allowed : (taken s rq).lifeAllowed target = true) (free : (taken s rq).lifeBusy = false) (notMint : (taken s rq).life ≠ 1)
    (room : defersRoom s rq = true)
    (verdict : (taken s rq).authorise ((taken s rq).portOf rq) nonce
      (authHead nonce ++ le 1 target ++ le 1 (taken s rq).life) ((taken s rq).lifeKey target).2 sig
      ((taken s rq).lifeKey target).1 = a) :
    s.reqLife rq target nonce sig =
      if a.1 then deferred s a.2 rq 0x604 0 (.lifeReq target) (some (Status.ok.code, 0, []))
      else answered s a.2 rq 0x604 0 .badValue [] := by
  obtain ⟨ok, t⟩ := a
  cases ok with
  | true =>
    refine handle_defers (r := { st := .ok, defer := some (.lifeReq target) }) accepted rfl ?_ rfl nofun room
    simp only [lifeRequest, allowed, free, notMint, verdict, decide_false, Bool.false_and, Bool.not_true, Bool.false_eq_true,
      if_false, if_true, Status.accepted]
  | false =>
    refine handle_replies accepted rfl (by decide) (work := ?_)
    simp only [lifeRequest, allowed, free, notMint, verdict, decide_false, Bool.false_and, Bool.not_true, Bool.false_eq_true,
      if_false, Status.accepted]

/-- The change to state `t`: the record and its seal, `a`, the fuse and the wipe, `b`, the companion fuse and the reset. -/
theorem lifeChange_resets {t : Nat} {a b : State} (due : s.sec.lifeTo = some t)
    (sealed : ((s.ledger 0xF004 0xFFFF t).ledgerFlush 1032).sealPair = a)
    (wiped : State.lifeWipe { a with otp := burnLife a.otp t } t = b) :
    s.lifeChange = State.doReset { b with otp := burnWiped b.otp } 0x26 := by
  simp only [lifeChange, due, sealed, wiped]

end

/-- Settles O15: each command is its request, which runs by its equation above. -/
theorem compatibilityRequestsComplete : Obligations.CompatibilityRequestsComplete := by
  unfold Obligations.CompatibilityRequestsComplete
  refine ⟨?status, ?move, ?tune⟩
  case status =>
    intro rq addr s x accepted z axis world v q
    exact gives_of_exec rfl (v1Status_answers accepted axis world rfl rfl)
  case move =>
    intro rq addr ty flags speed target s x t accepted z axis world limited least most a b c pushed
    exact gives_of_exec rfl (v1Move_pushes accepted axis world limited least most rfl rfl rfl pushed)
  case tune =>
    intro rq addr atd s n accepted z loop tunable world
    exact gives_of_exec rfl (v1Tune_reads accepted loop tunable world)

/-- Settles O16: each command is its request or its operation, which runs by its equation above. -/
theorem authorisedRequestsComplete : Obligations.AuthorisedRequestsComplete := by
  unfold Obligations.AuthorisedRequestsComplete
  refine ⟨?reset, ?execute, ?begin, ?data, ?finish, ?life, ?change⟩
  case reset =>
    intro rq nonce sig s accepted a
    exact gives_of_exec rfl (reqReset_authorises accepted rfl)
  case execute => exact fun s due => gives_of_exec rfl (resetExecute_resets due)
  case begin =>
    intro rq slot len ver s accepted z slots least most idle a b c
    exact gives_of_exec rfl (reqFwBegin_begins accepted slots least most idle rfl rfl rfl)
  case data =>
    intro rq off data s i len ver accepted least most z begun next fits
    exact gives_of_exec rfl (reqFwData_appends accepted least most begun next fits)
  case finish =>
    intro rq digest sig s i len ver accepted z begun room l u v
    exact gives_of_exec rfl (reqFwEnd_finishes accepted begun room rfl rfl rfl)
  case life =>
    intro rq target nonce sig s accepted z allowed free notMint room a
    exact gives_of_exec rfl (reqLife_authorises accepted allowed free notMint room rfl)
  case change =>
    intro s t due a b
    exact gives_of_exec rfl (lifeChange_resets due rfl rfl)

end Sys2Proof.Proofs
end
